-- ==== Sys2Proof/Word.lean ====
section
/-!
DEFINITION. The plain word types of the model. Registers, addresses, lengths and counters are natural numbers whose
widths the register map (`Machine/RegMap.lean`) and the record layouts (`Machine/Bytes.lean`) give; bytes of keys, values
and host-memory structures are 8-bit vectors.
-/

namespace Sys2Proof

/-- One byte of a key, a value, a packet or a host-memory structure. -/
abbrev Byte := BitVec 8

/-- A string of bytes, first byte first. -/
abbrev Bytes := List Byte

end Sys2Proof
end

