-- ==== Sys2Proof/Syntax.lean ====
section
/-!
DEFINITION. The commands of the block: one constructor of `Instr` per row of spec/opcode_table.json, with its operands.
-/

namespace Sys2Proof

/-- Who makes a register access (R753): a PCIe function through its own BARs, or the supervisor. -/
inductive Requester where
  | func (f : Nat)
  | sup
  deriving DecidableEq, Repr

/-- Where a data operation comes from: ring `n` of function `f` (64 is the admin ring), a request message of a YWP
session, or a member that replicates to this part (R390). -/
inductive Src where
  | ring (f n : Nat)
  | sess (slot msgId : Nat)
  | town (member : Nat)
  deriving DecidableEq, Repr

/-- A scatter-gather element (R131). -/
structure SglElem where
  addr : Nat
  len : Nat
  rsv : Nat := 0
  deriving DecidableEq, Repr

/-- A submission descriptor (R129), with the same fields for a YWP operation block (R349). `key40` is bytes 56 to 95. -/
structure Desc where
  opc : Nat := 0
  flg : Nat := 0
  tag : Nat := 0
  ksp : Nat := 0
  klen : Nat := 0
  vlen : Nat := 0
  vsglCnt : Nat := 0
  rsglCnt : Nat := 0
  offset : Nat := 0
  cond : Nat := 0
  snap : Nat := 0
  vsglPtr : Nat := 0
  rsglPtr : Nat := 0
  key40 : Bytes := []
  vsglInl : SglElem := ⟨0, 0, 0⟩
  rsglInl : SglElem := ⟨0, 0, 0⟩
  deriving DecidableEq, Repr

/-- What the fetches of one command return from host memory: the key at KEY_PTR, the two element arrays, the value bytes
its value SGL describes; `fault` when one of them fails with a PCIe error (R134). -/
structure Fetched where
  key : Bytes := []
  vsgl : List SglElem := []
  rsgl : List SglElem := []
  value : Bytes := []
  fault : Bool := false
  deriving DecidableEq, Repr

/-- How a summary Swap completes (R125): with a value, with Unsupported Request or Completer Abort, or by another failure. -/
inductive SwapResult where
  | value (v : Nat)
  | refused
  | failed
  deriving DecidableEq, Repr
/-- A keyspace (R39, R157). `created` is its creation stamp. -/
structure Keyspace where
  ksp : Nat
  tenant : Nat
  rf : Nat
  slot : Nat
  salt : Nat
  created : Nat
  reclaiming : Bool := false
  kcv : Option Nat := none
  deriving DecidableEq, Repr

/-- A leaf entry (R183). -/
structure LeafEntry where
  digest : Nat
  loc : Nat
  stamp : Nat
  vlen : Nat
  ksp : Nat
  origin : Nat
  tomb : Bool
  staged : Bool
  deriving DecidableEq, Repr

/-- The kinds of a Tun entry (R202). -/
inductive TunKind where
  | put | patch | tombstone | publish | batchRecord
  deriving DecidableEq, Repr

/-- The states of a Tun entry (R202, R204). -/
inductive TunState where
  | filling | live | drained
  deriving DecidableEq, Repr

/-- A Tun entry (R202), named by its offset in 64-byte units. `good` is false once its CHECK fails or DRAM reports it
uncorrectable (R198); `extents` is the staged value's extent map for PUBLISH; `recAddr` is the record its drain wrote
(0: none); `members` are the entries of a BATCH_RECORD;
`restored` marks an entry a replay brought back (R214); `handle` is the staged value a PUBLISH entry came from; `upTo` is the stamp of a
version on flash that superseded the entry before it came (0: none; R48); `late` marks an entry accepted in space state 2 or 3 (R303). -/
structure TunEntry where
  id : Nat
  kind : TunKind
  state : TunState
  ksp : Nat
  key : Bytes
  origin : Nat
  replAck : Bool
  resolved : Bool := false
  stamp : Nat
  vlen : Nat
  offset : Nat := 0
  digest : Nat
  batch : Nat := 0
  extents : List (Nat × Nat) := []
  data : Bytes := []
  members : List Nat := []
  good : Bool := true
  recAddr : Nat := 0
  refs : Nat := 0
  restored : Bool := false
  handle : Nat := 0
  upTo : Nat := 0
  late : Bool := false
  deriving DecidableEq, Repr

/-- A member of the Town (R373). `state` is 1 JOINING, 2 LIVE, 3 FAILED, 4 REMOVED (the order of R373; 0 is no entry);
`recorded` the last incarnation recorded; `certOk` the firmware's verdict on its certificate. -/
structure Member where
  handle : Nat
  state : Nat
  addr : Nat := 0
  port : Nat := 0
  watchers : List Nat := []
  domain : Nat := 0
  yMin : Nat := 1
  yMax : Nat := 2
  fMin : Nat := 1
  fMax : Nat := 2
  luns : Nat := 0
  capacity : Nat := 0
  certOk : Bool := true
  held : List Nat := []
  deriving DecidableEq, Repr

/-- A Ward map entry (R381); `reps` holds the NREP replicas. -/
structure WardEntry where
  ward : Nat
  owner : Nat
  reps : List Nat := []
  assigned : Bool := true
  orphan : Bool := false
  transfer : Bool := false
  orphanOf : Nat := 0
  deriving DecidableEq, Repr

/-- A transfer table entry (R385): MOVE or FILL of a Ward to a target handle. -/
structure Transfer where
  ward : Nat
  move : Bool
  target : Nat
  deriving DecidableEq, Repr

/-- The Town-wide settings of R408. -/
structure Settings where
  retainMs : Nat
  hb : Nat
  retry : Nat
  level : Nat
  deriving DecidableEq, Repr

/-- What a MAP_DELTA or MAP_FULL carries (R383): Ward entries, the transfer table, members and keyspaces that change, the
settings, and the handles of the acting Hall and the standby. -/
structure MapBody where
  wards : List WardEntry := []
  transfers : Option (List Transfer) := none
  members : List Member := []
  keyspaces : List Keyspace := []
  settings : Option Settings := none
  hall : Nat := 0
  standby : Nat := 0
  deriving DecidableEq, Repr

/-- A request record (R353): the answered request of one initiator, with its reply. -/
structure ReqRecord where
  identity : Nat
  tenant : Nat
  reqNo : Nat
  stamp : Nat
  status : Nat
  rlen : Nat
  origin : Nat
  body : Bytes := []
  made : Nat := 0
  deriving DecidableEq, Repr

/-- The body of a Town message. -/
inductive TBody where
  | nothing
  | member (m : Member)
  | map (b : MapBody)
  | repl (entries : List TunEntry) (record : Option ReqRecord)
  | piece (handle ksp : Nat) (key : Bytes) (declared offset : Nat) (data : Bytes)
  | versions (entries : List TunEntry) (records : List ReqRecord) (last : Bool)
  | command (f : Nat) (d : Desc)
  | keyPage (trk : Nat) (slots : List (Nat × Nat))
  deriving DecidableEq, Repr

/-- A Town message (R412): the operation block and the body. -/
structure TMsg where
  tmsg : Nat
  flags : Nat := 0
  sender : Nat := 0
  epoch : Nat := 0
  term : Nat := 0
  ward : Nat := 0
  arg0 : Nat := 0
  arg1 : Nat := 0
  stamp : Nat := 0
  status : Nat := 0
  count : Nat := 0
  body : TBody := .nothing
  deriving DecidableEq, Repr
/-- The operation block that heads a YWP message, with its key (R349, R350, R412); `rsv` says that a reserved field is set. -/
inductive YHead where
  | request (d : Desc) (key : Bytes) (rbuf reqNo epoch floor : Nat) (rsv : Bool)
  | reply (opc status rlen dlen rstamp origin reqMsg reqNo : Nat)
  | town (m : TMsg)
  | mgmt (opc : Nat) (param : Bytes) (len : Nat)
  | unknown
  deriving DecidableEq, Repr

/-- The UDP checksum of a packet (R319): none (zero), right, or wrong. -/
inductive UdpSum where
  | none | right | wrong
  deriving DecidableEq, Repr

/-- A YWP packet as received or sent (R322), with the payload of its type in the clear: TLS bytes, one segment (with its
operation block when HEAD is set), SACK blocks, or a cause. `udpLen`, `rsvBad`, `src`, `ce` and `authOk` are what the
receiver's checks of R325 see of it: the UDP length, a reserved field not zero, the peer's address and port as one number,
the Congestion Experienced mark, and whether the GCM tag verifies. `frag`, `v6` and `sum` are what R319 judges: an IPv4 fragment or an IPv6
packet with a Fragment header, IPv6, and the UDP checksum. Of a packet sent, `df` is Don't Fragment (of IPv4), `ecn` the ECN field, `tc` the
class of its priority code point, `pcps` that code point on each port (R472) and `dscp` the DS field (R320), `sport` its source port and `dst` the
peer's address and port as one number (R318); `mac` is its destination MAC address, of a HANDSHAKE packet received the next hop that firmware
records for its sender (R469); `wire` is the UDP payload of a sent packet (R11, R322, R333). -/
structure YPacket where
  ver : Nat := 1
  typ : Nat
  flags : Nat := 0
  sid : Nat := 0
  inc : Nat := 0
  plen : Nat := 0
  psn : Nat := 0
  ackPsn : Nat := 1
  window : Nat := 0
  txTs : Nat := 0
  echoTs : Nat := 0
  echoOwd : Nat := 0
  msgId : Nat := 0
  valOff : Nat := 0
  keyGen : Nat := 0
  srcInc : Nat := 0
  invoc : Nat := 0
  udpLen : Nat := 0
  rsvBad : Bool := false
  src : Nat := 0
  ce : Bool := false
  authOk : Bool := true
  frag : Bool := false
  v6 : Bool := false
  sum : UdpSum := .right
  df : Bool := false
  ecn : Nat := 0
  tc : Nat := 0
  dscp : Nat := 0
  pcps : List Nat := []
  sport : Nat := 0
  dst : Nat := 0
  mac : Nat := 0
  wire : Bytes := []
  head : Option YHead := none
  bytes : Bytes := []
  sack : List (Nat × Nat) := []
  cause : Nat := 0
  deriving DecidableEq, Repr

/-- What a TLS handshake negotiates (R326), by its RFC 8446 numbers: cipher suite, group of the key exchange and of the client's first key share,
signature scheme, whether both ends authenticate, whether ALPN names a version, and early data, resumption or post-handshake authentication. -/
structure TlsParams where
  suite : Nat := 0x1302
  group : Nat := 0x0018
  sig : Nat := 0x0503
  bothAuth : Bool := true
  alpn : Bool := true
  extra : Bool := false
  deriving DecidableEq, Repr

/-- How TLS stands after the bytes of a HANDSHAKE packet (R326, R328): firmware runs it. `done` gives the negotiated
version, the bound tenant, the peer identity, whether it is a member, the management right (R329), and what was negotiated; `reply` is what TLS
sends next. -/
inductive TlsStep where
  | more (reply : Bytes)
  | failed
  | done (reply : Bytes) (ver tenant identity : Nat) (member mgmt : Bool) (params : TlsParams := {})
  deriving DecidableEq, Repr
/-- What a frame carries, as its counters of R471 distinguish it. -/
inductive FrameKind where
  | ywp | ptp | lldp | park | pause | other
  deriving DecidableEq, Repr

/-- A frame received by a MAC (R465, R467): addresses, length from the destination address through the FCS, whether the FCS is
correct, the VID of an 802.1Q tag, EtherType, the UDP destination port and the IP address it goes to (kind, address), what an
LLDP data unit says of a partner (R479: PARK, LANES, time-to-live in s), and the bytes from the destination address on.
`room`: the port's share of the packet buffers can supply MAX_FRAME bytes (R466). -/
structure Frame where
  dst : Nat
  src : Nat
  len : Nat
  fcsOk : Bool := true
  vid : Option Nat := none
  ethertype : Nat
  udp : Option Nat := none
  ip : Nat × Nat := (0, 0)
  tlv : Option (Bool × Nat × Nat) := none
  bytes : Bytes := []
  room : Bool := true
  deriving DecidableEq, Repr

/-- A frame waiting for transmit: its class, length through the FCS, kind, destination address, whether it is tagged, and
bytes. -/
structure TxFrame where
  tc : Nat
  len : Nat
  kind : FrameKind
  dst : Nat
  vlan : Bool := false
  bytes : Bytes := []
  deriving DecidableEq, Repr

/-- The payload of a lane-parking frame (R483) with its source address. -/
structure ParkMsg where
  seq : Nat
  lanes : Nat
  cause : Nat := 0
  switchCw : Nat := 0
  src : Nat
  deriving DecidableEq, Repr

/-- A foreign master of the BMCA (IEEE 1588), with the fields it compares, and the cycles of
its last two Announce messages. -/
structure Foreign where
  clockId : Nat
  priority1 : Nat
  cls : Nat
  accuracy : Nat
  variance : Nat
  priority2 : Nat
  steps : Nat
  last : Nat := 0
  prev : Option Nat := none
  deriving DecidableEq, Repr
/-- The events the spec names. `EvKind.source` gives the block that reports each (R675, R695); the recorder's own three
carry the codes of R676, and the other codes are not in the spec (Config.eventCode);
`other` is an event that a block reports by its code. -/
inductive EvKind where
  | pdFailedStage | setupDenied | optEntryIgnored | optFieldDefault | optDegraded | strapReserved | refLost | uncleanOff
  | swapRefused | swapFailed | dbInvalid | fetchError | napExit | resultPoisoned | stagedDiscarded | internalFault
  | leafRebuildStart | leafRebuildEnd | adParity | tunEntryBad | tunSizeKept | flushIncomplete | replayDone
  | trainStep | lunExcluded | fewChannels | unrecoverable | programFail | eraseFail | verifyFail | parityLost | rebuilt
  | lunFailed | readOnlySet | spareWarn
  | dramUncorrectable | dramTrainFail
  | bankChange | linkDown | parkStopped | parkRecovery | changeErr | class7Refused | wakeBad
  | rekey | sessionClosed
  | termRound | joinRefused | wardsAbandoned | noStandby | memberFailed | fenced
  | ptpNoPort | backwardIgnored | timeFault | timeLocked | timeHoldover | timePps | timeUnsynced | untrusted | trusted
  | floorSet
  | keyIsolation | keyLoadRefused | keyDistRefused | drbgFail
  | sensorInvalid | groupWarn | groupTrip | critHalt
  | channelRestart | channelFault | driverFault | chopFault | overvoltage | undervoltage | busShort
  | cflWarn | cflUncorr | cflVerifyFail | cflBusFault
  | pieceSlotFail | confirmTimeoutBad | bankRejected | bankConfirmed | trialExpired | recoveryEntered
  | start | logCleared | replayed
  | other (code : Nat)
  deriving DecidableEq, Repr

/-- A code flash descriptor as the controller reads it (R624), without its OP, which the command names: `buf` is what it reads
at BUF (none when that read fails), `rsv` whether a reserved field or MODE is set, and what a margin or ECC read of the
sectors finds: chunks that failed, the greatest corrected count, the chunks at or above WARN_BITS, and whether one is
uncorrectable. -/
structure CflDesc where
  array : Nat
  mode : Nat := 0
  addr : Nat := 0
  len : Nat := 0
  buf : Option Bytes := some []
  rsv : Bool := false
  failed : Nat := 0
  worst : Nat := 0
  warns : Nat := 0
  uncorr : Bool := false
  deriving DecidableEq, Repr

/-- The kinds of a supervisor core's access (R620). -/
inductive Access where
  | fetch | load | store
  deriving DecidableEq, Repr

/-- What a PWM period of a channel samples and estimates (R580, R582, R584): the largest phase current of a main channel or
PDn_IS in mA; the estimated speed in rpm and back-EMF amplitude in mV; whether an electrical period ends, a zero crossing has
been missed for two step times, and the channel is at its voltage or current limit; and the electrical input power in 0.1 W,
negative while regenerating. -/
structure PwmSample where
  ma : Nat := 0
  rpm : Nat := 0
  bemfMv : Nat := 0
  periodEnd : Bool := false
  missedZc : Bool := false
  atLimit : Bool := false
  powerDw : Int := 0
  deriving DecidableEq, Repr

/-- What listening finds (R588). -/
inductive Heard where
  | standing
  | forward (rpm : Nat)
  | backward (rpm : Nat)
  | unclear
  deriving DecidableEq, Repr

/-- What the boot ROM finds on reading a package or a bank (R660): whether every piece can be read, and the plaintext body that
the GCM decryption gives when its tag verifies. -/
structure ReadBack where
  readable : Bool := true
  body : Option Bytes := none
  deriving DecidableEq, Repr

/-- The geometry of a LUN, or of the reference LUN (R237, R275): page size, planes, cell type, spare bytes of a page, blocks and pages. -/
structure Geometry where
  page32 : Bool := false
  planes : Nat := 1
  cell : Nat := 1
  spare : Nat := 0
  blocks : Nat := 0
  pages : Nat := 0
  deriving DecidableEq, Repr

/-- A copy of a LUN's parameter page (R236): whether its CRC is correct, the required features of R231 that it states, and the geometry. -/
structure ParamPage where
  crcOk : Bool := true
  volumes : Bool := true
  slcMode : Bool := true
  eraseSuspend : Bool := true
  validBlock : Bool := true
  geom : Geometry
  deriving DecidableEq, Repr

/-- A media label (R238): serial number, format generation and global LUN number. -/
structure MediaLabel where
  serial : Bytes := []
  gen : Nat := 0
  lun : Nat
  deriving DecidableEq, Repr

/-- A LUN that discovery finds (R236 to R238): its position's number, the copies of its parameter page in order, its label: none when
blank, and its blocks with the factory bad-block mark (R245). -/
structure LunFound where
  n : Nat
  pages : List ParamPage
  label : Option MediaLabel := none
  factoryBad : List Nat := []
  deriving DecidableEq, Repr

/-- What a start-up stage finds outside the part's state (R717): whether its hardware work succeeds; the DRAM channels fitted,
each with the rate it trains at (none: it fails) and its capacity in MiB; the LUNs, and the rate each flash channel trains at (none: it fails
at every rate tried); what the boot ROM reads of Bank A, Bank B and the Cask's package; and what of the rescue image fails its CHECK: entries
by their offset, journal records by their SEQ, and event records by their place. -/
structure StageFound where
  ok : Bool := true
  dram : List (Option Nat × Nat) := []
  luns : List LunFound := []
  rates : List (Nat × Option Nat) := []
  bankA : ReadBack := {}
  bankB : ReadBack := {}
  pkg : ReadBack := {}
  bad : List Nat := []
  badJournal : List Nat := []
  badEvents : List Nat := []
  deriving DecidableEq, Repr

/-- What a pass of the patrol scrub finds (R715, R776): accesses with errors as (channel, uncorrectable), the result buffers found
uncorrectable as (context, offset in its result), and whether the raw read's buffer is. -/
structure PatrolFound where
  bad : List (Nat × Bool) := []
  bufs : List (Nat × Nat) := []
  raw : Bool := false
  deriving DecidableEq, Repr

/-- A PCIe configuration request (R26): its function, and MSI-X Enable and Function Mask where it writes the MSI-X Message Control (R140). -/
structure CfgRequest where
  f : Nat
  msix : Option (Bool × Bool) := none
  deriving DecidableEq, Repr

/-- Where a peer is reached: its address and port as one number, and the MAC address of the next hop (R469). -/
structure PeerAt where
  peer : Nat
  hop : Nat := 0
  deriving DecidableEq, Repr

/-- The commands. -/
inductive Instr where
  /-- GET (R57). Reads the whole current or snapshot version of a key into the result SGL. -/
  | get (src : Src) (d : Desc) (x : Fetched)
  /-- GET_RANGE (R58). Reads min(VLEN, L - OFFSET) bytes of a value starting at OFFSET. -/
  | getRange (src : Src) (d : Desc) (x : Fetched)
  /-- EXISTS (R59). Tests whether a key is present, writing nothing to host memory. -/
  | exists (src : Src) (d : Desc) (x : Fetched)
  /-- GET_META (R60). Writes the 32-byte metadata record of the selected version. -/
  | getMeta (src : Src) (d : Desc) (x : Fetched)
  /-- PUT (R63). Replaces the value of a key, creating a Tun entry with a new stamp. -/
  | put (src : Src) (d : Desc) (x : Fetched)
  /-- PUT_IF (R64). Acts as PUT when its CMODE condition holds at dispatch, else completes CONDITION_FALSE. -/
  | putIf (src : Src) (d : Desc) (x : Fetched)
  /-- PATCH (R65). Writes VLEN bytes at OFFSET into a present value, producing a new version. -/
  | patch (src : Src) (d : Desc) (x : Fetched)
  /-- APPEND (R66). Adds bytes at the end of a value, creating the key when absent. -/
  | append (src : Src) (d : Desc) (x : Fetched)
  /-- DELETE (R68). Writes a tombstone for a present key, or completes NOT_FOUND. -/
  | delete (src : Src) (d : Desc) (x : Fetched)
  /-- DELETE_IF (R64). Acts as DELETE when its condition holds, else completes CONDITION_FALSE. -/
  | deleteIf (src : Src) (d : Desc) (x : Fetched)
  /-- BATCH (R74). Validates and applies up to 64 elements atomically at one stamp. -/
  | batch (src : Src) (d : Desc) (x : Fetched)
  /-- STAGE_OPEN (R78). Declares a staged value and returns a new handle. -/
  | stageOpen (src : Src) (d : Desc) (x : Fetched)
  /-- STAGE_DATA (R80). Writes a piece of a staged value to flash at OFFSET. -/
  | stageData (src : Src) (d : Desc) (x : Fetched)
  /-- STAGE_PUBLISH (R81). Makes the staged value the key's new version and closes the handle. -/
  | stagePublish (src : Src) (d : Desc) (x : Fetched)
  /-- STAGE_DISCARD (R81). Closes a staged value handle and discards its data. -/
  | stageDiscard (src : Src) (d : Desc) (x : Fetched)
  /-- SCAN (R88). Returns present keys of a keyspace in ascending digest order with a cursor. -/
  | scan (src : Src) (d : Desc) (x : Fetched)
  /-- SNAPSHOT_OPEN (R86). Takes a snapshot stamp, reserves a lease and waits for the clock to pass it. -/
  | snapshotOpen (src : Src) (d : Desc) (x : Fetched)
  /-- SNAPSHOT_CLOSE (R87). Removes the tenant's lease whose stamp equals SNAP. -/
  | snapshotClose (src : Src) (d : Desc) (x : Fetched)
  /-- BARRIER (R94). Orders a ring or session, completing after all earlier operations. -/
  | barrier (src : Src) (d : Desc) (x : Fetched)
  /-- OPERATION_DISPATCH (R21). A fetched or held operation is dispatched in its key's pipeline once nothing holds it. -/
  | operationDispatch (id : Nat)
  /-- STAMP_COUNTER_WAIT_END (R47). A mutation waiting for the next microsecond after 4,096 stamps takes its stamp. -/
  | stampCounterWaitEnd (id : Nat)
  /-- COMMIT_WAIT_DONE (R435). The clock passes a waited stamp, ending a commit wait, snapshot wait or snapshot read wait. -/
  | commitWaitDone (id : Nat)
  /-- READ_RESUME (R61). A read waiting for a replica acknowledgement or a batch intent resolution selects again. -/
  | readResume (id : Nat)
  /-- STAGED_IDLE_TIMEOUT (R83). An open staged value without STAGE_DATA for IDLE_S seconds is discarded. -/
  | stagedIdleTimeout (handle : Nat)
  /-- LEASE_EXPIRY (R87). A snapshot lease expires at T + R. -/
  | leaseExpiry (tenant stamp : Nat)
  /-- IDENTIFY (R153). Writes the 4,096-byte identity record. -/
  | identify (f : Nat) (d : Desc) (x : Fetched)
  /-- KEYSPACE_CREATE (R155). Creates a keyspace locally or through the acting Hall. -/
  | keyspaceCreate (f : Nat) (d : Desc) (x : Fetched)
  /-- KEYSPACE_DELETE (R156). Deletes a keyspace and puts it in the reclaiming state. -/
  | keyspaceDelete (f : Nat) (d : Desc) (x : Fetched)
  /-- KEYSPACE_QUERY (R157). Writes the 64-byte keyspace record. -/
  | keyspaceQuery (f : Nat) (d : Desc) (x : Fetched)
  /-- SET_POWER_STATE (R158). Begins entry to Active, Doze, Nap or Slumber. -/
  | setPowerState (f : Nat) (d : Desc) (x : Fetched)
  /-- POWER_ENTRY_DONE (R160). A power state entry finishes and SET_POWER_STATE completes. -/
  | powerEntryDone
  /-- POWER_ENTRY_ABANDON (R160). An entry unfinished after 100 ms is abandoned and the part returns to Active. -/
  | powerEntryAbandon
  /-- GET_HEALTH (R306). Writes the 2,048-byte health page. -/
  | getHealth (f : Nat) (d : Desc) (x : Fetched)
  /-- STATE_DUMP (R692). Streams latched state objects of one block into the result SGL. -/
  | stateDump (f : Nat) (d : Desc) (x : Fetched)
  /-- UPDATE_CHUNK (R656). Takes one package piece into the Cask. -/
  | updateChunk (f : Nat) (d : Desc) (x : Fetched) (copies : List Bool)
  /-- UPDATE_QUERY (R671). Writes the Cask header, update state and piece map. -/
  | updateQuery (f : Nat) (d : Desc) (x : Fetched)
  /-- UPDATE_CONFIRM (R664). Confirms the trial bank, supersedes the other and stops the trial count. -/
  | updateConfirm (f : Nat) (d : Desc) (x : Fetched)
  /-- TOWN_QUERY (R415). TOWN_CONTROL QUERY writes the 64-byte Town record. -/
  | townQuery (f : Nat) (d : Desc) (x : Fetched)
  /-- TOWN_JOIN (R378). TOWN_CONTROL JOIN makes the part join the Town. -/
  | townJoin (f : Nat) (d : Desc) (x : Fetched)
  /-- TOWN_LEAVE (R380). TOWN_CONTROL LEAVE asks the acting Hall to move all Wards away. -/
  | townLeave (f : Nat) (d : Desc) (x : Fetched)
  /-- TOWN_REMOVE (R400). TOWN_CONTROL REMOVE removes a FAILED member and clears its ORPHAN marks. -/
  | townRemove (f : Nat) (d : Desc) (x : Fetched)
  /-- TOWN_MOVE (R404). TOWN_CONTROL MOVE starts a Ward move to a target member. -/
  | townMove (f : Nat) (d : Desc) (x : Fetched)
  /-- TOWN_HALL_RETURN (R402). TOWN_CONTROL HALL_RETURN returns the acting role to the defined Hall. -/
  | townHallReturn (f : Nat) (d : Desc) (x : Fetched)
  /-- LEDGER_SET (R566). Changes ledger and thermal settings as one change at a window boundary. -/
  | ledgerSet (f : Nat) (d : Desc) (x : Fetched)
  /-- EVENT_CLEAR (R685). Checks a signed clear request and erases the event log. -/
  | eventClear (f : Nat) (d : Desc) (x : Fetched)
  /-- LOG_ERASE_DONE (R685). The record-sector erase of a clear ends; LOG_CLEARED is written and the command completes. -/
  | logEraseDone
  /-- SUMMARY_POLL (R120). A function's poll interval expires and the engine issues a Swap of the summary word. -/
  | summaryPoll (f : Nat)
  /-- SWAP_RETURN (R125). A summary Swap completes, naming rings to visit or setting SWAP_UR or SWAP_ERR. -/
  | swapReturn (f : Nat) (r : SwapResult)
  /-- DOORBELL_POLL (R124). In fallback mode a ring's interval expires and its doorbell record is read. -/
  | doorbellPoll (f n : Nat)
  /-- DOORBELL_READ_DONE (R128). A doorbell record read returns SQ_TAIL and CQ_HEAD, or triggers a reset for an invalid value. -/
  | doorbellReadDone (f n tail head : Nat)
  /-- CQ_HEAD_REREAD (R119). The backoff interval of a ring waiting for completion room expires and CQ_HEAD is reread. -/
  | cqHeadReread (f n : Nat)
  /-- ADMIN_DOORBELL_POLL (R126). Every 100 µs the admin doorbell record of each enabled function is read. -/
  | adminDoorbellPoll
  /-- HQ_ADM_KICK (R168). A write of 1 makes the engine read the admin doorbell within 1 µs. -/
  | hqAdmKick (f : Nat)
  /-- DESCRIPTOR_FETCH (R127). The engine fetches descriptors from a pending ring when the fetch rules allow. -/
  | descriptorFetch (f n : Nat) (ds : List Bytes)
  /-- DESCRIPTOR_READ_FAULT (R147). A doorbell or descriptor read fails and acts as a reset request with cause FETCH_ERROR. -/
  | descriptorReadFault (f n : Nat)
  /-- HOST_FETCH_DONE (R134). A key, SGL or value fetch from host memory completes, or fails with INTERNAL_FAULT. -/
  | hostFetchDone (id : Nat) (x : Fetched)
  /-- RING_ENABLE (R170). A write of ENABLE 1 makes a DISABLED ring ACTIVE or sets SETUP_ERR. -/
  | ringEnable (f n : Nat)
  /-- RING_RESET_REQUEST (R142). A write of RESET 1 or ENABLE 0 requests a queue reset. -/
  | ringResetRequest (f n : Nat)
  /-- QUEUE_RESET_TAKEN (R144). The engine takes a reset request, stops fetching and aborts commands before their point of no return. -/
  | queueResetTaken (f n : Nat)
  /-- QUEUE_RESET_DONE (R145). After the last completion of the generation the marker is posted and the ring disabled. -/
  | queueResetDone (f n : Nat)
  /-- MSIX_COALESCE_TIMEOUT (R141). The oldest uncounted completion waits TIME_US and an MSI-X message is sent. -/
  | msixCoalesceTimeout (f n : Nat)
  /-- FUNCTION_LEVEL_RESET (R150). FLR of a function stops its rings and returns its registers to reset. -/
  | functionLevelReset (f : Nat)
  /-- VF_ENABLE_CLEAR (R150). Clearing VF Enable resets the VFs as FLR does. -/
  | vfEnableClear
  /-- LEAF_WRITE_BACK (R191). A dirty leaf is written to flash on change count, age or journal occupancy. -/
  | leafWriteBack (ward pfx ldepth : Nat)
  /-- LEAF_REBUILD_DONE (R192). The rebuild of an unrecoverable leaf from journal and summaries ends. -/
  | leafRebuildDone (ward pfx ldepth : Nat)
  /-- AD_SCRUB (R199). The background scrub reads AD rows once every SCRUB_MS. -/
  | adScrub (bad : List (Nat × Bool))
  /-- TUN_DRAIN (R211). An eligible Tun entry is drained to flash as a record. -/
  | tunDrain (entry : Nat)
  /-- POWER_FAIL_FLUSH (R213). PWRFAIL_N falls and the Tun, journal and front buffer are flushed to the rescue area. -/
  | powerFailFlush
  /-- FLUSH_END (R213). The flush programs finish and the end marker is programmed. -/
  | flushEnd (lastUs : Nat)
  /-- PWRFAIL_RESTART (R218). PWRFAIL_N high for 10 ms after a halt starts an internal cold reset. -/
  | pwrfailRestart
  /-- LUN_RELEASE (R238). A write of RELEASE erases and formats a FOREIGN LUN. -/
  | lunRelease (lun : Nat)
  /-- NAND_READ_DONE (R263). A page read completes and the codeword continues through the decode ladder. -/
  | nandReadDone (op : Nat) (decoded : Bool) (corrected unsat : Nat) (raw : Bytes)
  /-- NAND_PROGRAM_DONE (R298). A page program reports pass or fail, advancing Terraces, entries and failure handling. -/
  | nandProgramDone (op : Nat) (pass : Bool)
  /-- NAND_ERASE_DONE (R298). A block erase completes; the block returns to the free pool or is retired. -/
  | nandEraseDone (op : Nat) (pass : Bool)
  /-- TERRACE_CLOSE_TIMEOUT (R252). A Terrace open CLOSE_US without filling is padded and its parity programmed. -/
  | terraceCloseTimeout (wseq : Nat)
  /-- SET_VERIFY (R254). A full set is verified at shifted thresholds and becomes VERIFIED or urgent. -/
  | setVerify (wseq : Nat) (worst : List (Option Nat)) (parityOk : Bool)
  /-- ERASE_RESUME (R266). After BURST reads the suspended erase resumes. -/
  | eraseResume (lun : Nat)
  /-- RAW_READ_GO (R270). A write of GO starts a raw diagnostic codeword read. -/
  | rawReadGo (mode : Nat)
  /-- LUN_TIMEOUT (R300). A LUN without ready status for 3 operations is declared failed. -/
  | lunTimeout (lun : Nat)
  /-- MEDIA_MAP_CHECKPOINT (R308). At least every 60 s health counters, stamp floor and handle floor are checkpointed. -/
  | mediaMapCheckpoint
  /-- SPARGE_VICTIM_SELECT (R289). The Sparge chooses a victim set and begins copying its live content. -/
  | spargeVictimSelect
  /-- SPARGE_TARGET_PAD (R292). A target set idle for FILL_MS is padded. -/
  | spargeTargetPad (wseq : Nat)
  /-- EPOCH_ADVANCE (R296). The reader-drain epoch counter advances after EPOCH_US. -/
  | epochAdvance
  /-- BLOCK_ERASE (R295). A RETIRING block whose epochs have drained is erased. -/
  | blockErase (lun blk : Nat)
  /-- SCRUB_PASS (R299). The scrub reads VERIFIED sets once every PERIOD_H hours. -/
  | scrubPass (wseq : Nat) (cws : List (Nat × Nat))
  /-- TEMP_HISTOGRAM_TICK (R307). Once per second each sensor group's bin gains one second. -/
  | tempHistogramTick
  /-- HANDSHAKE (R327). A received HANDSHAKE packet carries TLS bytes, opening a slot when INIT. -/
  | handshake (p : YPacket) (t : TlsStep)
  /-- DATA (R337). A received DATA packet is checked, acknowledged and its segment placed. -/
  | data (p : YPacket)
  /-- ACK (R338). A received ACK advances acknowledgement, loss detection, RTT and cwnd. -/
  | ack (p : YPacket)
  /-- CLOSE (R332). A received authenticated CLOSE moves the session to CLOSED. -/
  | close (p : YPacket)
  /-- SESSION_OPEN (R326, R469). The part opens a session as client by sending INIT HANDSHAKE packets to a next hop. -/
  | sessionOpen (peer : PeerAt) (member : Nat) (tls : Bytes)
  /-- HANDSHAKE_RETRANSMIT (R327). A HANDSHAKE packet unacknowledged for 10 ms is sent again. -/
  | handshakeRetransmit (slot : Nat)
  /-- HANDSHAKE_TIMEOUT (R327). A handshake unfinished within HS_TIMEOUT_MS frees its slot. -/
  | handshakeTimeout (slot : Nat)
  /-- CLOSED_SLOT_FREE (R330). A CLOSED slot becomes FREE after 200 ms with a new incarnation. -/
  | closedSlotFree (slot : Nat)
  /-- OLD_GENERATION_ERASE (R334). 100 ms after a key change the old receive generation is erased. -/
  | oldGenerationErase (slot : Nat)
  /-- ACK_DELAY_TIMEOUT (R338). ACK_DELAY_US after an unacknowledged DATA packet an ACK is sent. -/
  | ackDelayTimeout (slot : Nat)
  /-- RETRANSMIT_TIMEOUT (R340). The RTO expires and the lowest unacknowledged PSN is retransmitted. -/
  | retransmitTimeout (slot : Nat)
  /-- SESSION_DEAD (R341). A session exceeds MAX_RETX or stays silent IDLE_MS and is closed. -/
  | sessionDead (slot : Nat)
  /-- KEEPALIVE (R341). Every KEEPALIVE_MS without arrivals an ACK with ACK_NOW is sent. -/
  | keepalive (slot : Nat)
  /-- WINDOW_PROBE (R342). While WINDOW is 0 an ACK_NOW is sent once per RTO. -/
  | windowProbe (slot : Nat)
  /-- PACED_TRANSMIT (R346). The pacer sends the next burst of DATA packets. -/
  | pacedTransmit (slot : Nat)
  /-- REQUEST_DISPATCH (R352). A complete YWP request is dispatched in MSG_ID order per key. -/
  | requestDispatch (slot msgId : Nat)
  /-- REQUEST_RECORD_EXPIRY (R353). A request record is dropped at HOLD_MS or when REQ_FLOOR passes it. -/
  | requestRecordExpiry (identity reqNo : Nat)
  /-- TERM_ROUND (R376). A defined Hall or Deputy starts a term round by sending TERM_QUERY. -/
  | termRound
  /-- TERM_QUERY (R376). A received TERM_QUERY is answered, or an answer is counted toward a term. -/
  | termQuery (m : TMsg)
  /-- JOIN (R379). The acting Hall checks a JOIN and enters the member as JOINING. -/
  | join (m : TMsg)
  /-- JOIN_REPLY (R378). A member receives the acting Hall's join status. -/
  | joinReply (m : TMsg)
  /-- LEAVE (R380). The acting Hall receives a leave request and moves the member's Wards. -/
  | leave (m : TMsg)
  /-- HEARTBEAT (R395). A received heartbeat refreshes the watcher and lease state. -/
  | heartbeat (m : TMsg)
  /-- HEARTBEAT_SEND (R395). Every PERIOD_US a HEARTBEAT is sent to each watcher and watched member. -/
  | heartbeatSend
  /-- HEARTBEAT_MISS (R396). After MISS_US without heartbeats a watcher sends SUSPECT. -/
  | heartbeatMiss (handle : Nat)
  /-- LEASE_LAPSE (R395). A member's lease lapses and it becomes FENCED. -/
  | leaseLapse
  /-- SUSPECT (R396). The acting Hall or standby records or withdraws a suspicion. -/
  | suspect (m : TMsg)
  /-- MEMBER_FAILED_DECLARE (R397). LEASE_US + GUARD_US after Q suspicions the member is declared FAILED and its Wards reassigned. -/
  | memberFailedDeclare (handle : Nat)
  /-- MAP_DELTA (R383). A member applies a map delta or fetches the full map. -/
  | mapDelta (m : TMsg)
  /-- MAP_ACK (R377). The acting Hall receives an epoch acknowledgement and proceeds with publication. -/
  | mapAck (m : TMsg)
  /-- MAP_FETCH (R383). The acting Hall answers a map fetch with MAP_FULL. -/
  | mapFetch (m : TMsg)
  /-- MAP_FULL (R383). A member replaces its map, tables and settings from the full map. -/
  | mapFull (m : TMsg)
  /-- EPOCH_WAIT_TIMEOUT (R384). A message waiting for a newer epoch for 1 ms causes MAP_FETCH. -/
  | epochWaitTimeout
  /-- REPLICATE (R391). A receiver checks, writes and acknowledges a replicated change. -/
  | replicate (m : TMsg)
  /-- REPL_ACK (R390). The owner counts a replica acknowledgement toward step 3 of R22. -/
  | replAck (m : TMsg)
  /-- TRANSFER_DATA (R404). A transfer target stores versions and records of a moving Ward. -/
  | transferData (m : TMsg)
  /-- TRANSFER_COPY_DONE (R404). The copy of a Ward completes and the cut begins. -/
  | transferCopyDone (ward : Nat)
  /-- TRANSFER_READY (R404). The acting Hall publishes the new owner or removes an aborted transfer. -/
  | transferReady (m : TMsg)
  /-- CUT_TIMEOUT (R406). A cut lasting 5 ms is abandoned with TRANSFER_READY marked aborted. -/
  | cutTimeout (ward : Nat)
  /-- TAKEOVER (R375). A member accepts a new acting Hall's term and epoch. -/
  | takeover (m : TMsg)
  /-- KEYSPACE_REQ (R407). The acting Hall checks a forwarded keyspace command and publishes it. -/
  | keyspaceReq (m : TMsg)
  /-- KEY_DIST (R526). A member unwraps and applies a tenant key page distributed by the Hall. -/
  | keyDist (m : TMsg)
  /-- OWNER_RETRY_TIMEOUT (R388). No session to the owner for RETRY_MS completes an operation with PEER_UNREACHABLE. -/
  | ownerRetryTimeout (id : Nat)
  /-- TOWN_JOIN_TIMEOUT (R718). Stage TOWN unfinished after 2 s enters READY while joining continues. -/
  | townJoinTimeout
  /-- PTP_SYNC_EXCHANGE (R431). A completed Sync exchange is accepted or rejected and the servo acts on m. -/
  | ptpSyncExchange (master : Nat) (m : Int) (path : Nat)
  /-- PTP_ANNOUNCE (R424). A received Announce message feeds the BMCA. -/
  | ptpAnnounce (domain : Nat) (a : Foreign)
  /-- PTP_MESSAGE_SEND (R424). A Sync, Delay_Req or Announce interval expires and the message is sent. -/
  | ptpMessageSend (kind : Nat)
  /-- ANNOUNCE_RECEIPT_TIMEOUT (R432). Announce receipt timeout or 8 Sync intervals without update moves LOCKED to HOLDOVER. -/
  | announceReceiptTimeout
  /-- PPS_IN_EDGE (R444). A PPS_IN edge is timestamped and, in PPS, acts as a servo update. -/
  | ppsInEdge
  /-- PPS_LOSS (R432). No PPS_IN edge for 1.5 s moves PPS to HOLDOVER. -/
  | ppsLoss
  /-- PTP_TOD_SET (R445). Firmware writes the TAI second applied at the next PPS_IN edge. -/
  | ptpTodSet (sec : Nat)
  /-- PPS_OUT_EDGE (R446). PPS_OUT rises when counter + ε/2 crosses a whole second. -/
  | ppsOutEdge
  /-- PPS_OUT_WIDTH_END (R446). PPS_OUT falls after OUT_WIDTH_US. -/
  | ppsOutWidthEnd
  /-- FRAME_RECEIVE (R467). A received frame is checked, counted and handed to its consumer. -/
  | frameReceive (p : Nat) (f : Frame)
  /-- TX_FRAME_START (R477). The MAC starts the head frame of the highest open class that fits its gate. -/
  | txFrameStart (p : Nat)
  /-- FW_TRANSMIT (R468). A firmware write of TX_TAIL queues firmware frames for transmit. -/
  | fwTransmit (p tail : Nat) (fs : List TxFrame)
  /-- PORT_ENABLE (R462). ENABLE 1 starts link bring-up of a port. -/
  | portEnable (p : Nat)
  /-- LINK_UP (R462). Bring-up reaches FEC lock and LINK is set. -/
  | linkUp (p : Nat)
  /-- LINK_TIMEOUT (R462). Bring-up unfinished in LINK_TIMEOUT_MS restarts and counts LINK_FAILS. -/
  | linkTimeout (p : Nat)
  /-- LINK_DOWN (R463). Alignment or FEC lock lost for 10 µs takes the link down. -/
  | linkDown (p : Nat)
  /-- BANK_FAILOVER (R461). A link down for FAIL_MS in failover mode moves to the other bank. -/
  | bankFailover (p : Nat)
  /-- PARTNER_TTL_EXPIRY (R480). The LLDP time-to-live of the partner TLV runs out and the partner is lost. -/
  | partnerTtlExpiry (p : Nat)
  /-- PARK_EVALUATION (R481). Every 1 ms utilisation is evaluated and a park step may be requested. -/
  | parkEvaluation (p txPct rxPct : Nat)
  /-- RESTORE_DEMAND (R482). Queue depth or 8 µs utilisation demands a restore and RESTORE_REQ is sent. -/
  | restoreDemand (p kib pct : Nat)
  /-- PARK_REQ (R484). A received PARK_REQ is accepted with PARK_ACK or refused with NAK. -/
  | parkReq (p : Nat) (m : ParkMsg)
  /-- PARK_ACK (R484). A received PARK_ACK commits the requester's switch. -/
  | parkAck (p : Nat) (m : ParkMsg)
  /-- NAK (R484). A received NAK cancels the requester's switch. -/
  | nak (p : Nat) (m : ParkMsg)
  /-- RESTORE_REQ (R484). A received RESTORE_REQ is accepted with RESTORE_ACK or refused. -/
  | restoreReq (p : Nat) (m : ParkMsg)
  /-- RESTORE_ACK (R484). A received RESTORE_ACK commits the requester's restore. -/
  | restoreAck (p : Nat) (m : ParkMsg)
  /-- LANE_SWITCH_POINT (R484). A codeword count reaches a committed switch point, or an unanswered request's X passes. -/
  | laneSwitchPoint (p : Nat)
  /-- ALIGNMENT_RECOVERY (R486). A receiver not aligned within 64 codewords tries other lane sets. -/
  | alignmentRecovery (p : Nat) (lanes : Option Nat)
  /-- RESTORE_NO_ANSWER (R487). A restore unanswered in 100 µs without a partner brings the link down. -/
  | restoreNoAnswer (p : Nat)
  /-- CROSS_CHANGE (R475). A write of CHANGE submits the administrative schedule after the class 7 check. -/
  | crossChange (p : Nat)
  /-- CROSS_CHANGE_TIME (R475). At the change time the schedule banks exchange roles. -/
  | crossChangeTime (p : Nat)
  /-- GATE_ENTRY_ADVANCE (R476). An entry interval ends and the next gate states apply. -/
  | gateEntryAdvance (p : Nat)
  /-- WAKE_CHECK_REVERIFY (R490). Every 1 s in Slumber wake pattern CHECK values are recomputed. -/
  | wakeCheckReverify
  /-- MANAGEMENT_LINK_CHANGE (R492). A PHY link change in Slumber with WAKE_LINK ends Slumber. -/
  | managementLinkChange
  /-- MDIO_GO (R508). A write of GO starts one MDIO access. -/
  | mdioGo (v : Nat)
  /-- MDIO_DONE (R508). An MDIO access completes and BUSY clears. -/
  | mdioDone (data : Nat)
  /-- LOAD_TRK (R516). A key page command loads the tenant root key. -/
  | loadTrk (f : Nat)
  /-- LOAD_SLOT (R517). A key page command unwraps, checks and loads a slot key. -/
  | loadSlot (f slot : Nat)
  /-- CLEAR_SLOT (R519). A key page command zeroes one slot. -/
  | clearSlot (f slot : Nat)
  /-- CLEAR_ALL (R519). A key page command zeroes the TRK and all slots and closes tenant sessions. -/
  | clearAll (f : Nat)
  /-- KEY_PAGE_ISOLATION_FAULT (R515). An access to another function's key page completes with Unsupported Request. -/
  | keyPageIsolationFault (who : Requester) (page : Nat)
  /-- SESSION_KEY_LOAD (R529). CIP_SK_CMD LOAD places a session key or KDK into its position. -/
  | sessionKeyLoad
  /-- SESSION_KEY_ERASE (R529). CIP_SK_CMD ERASE zeroes one session key position. -/
  | sessionKeyErase
  /-- ENTROPY_HEALTH_FAIL (R533). An entropy health test fails and the DRBG is uninstantiated. -/
  | entropyHealthFail
  /-- DRBG_RESTART (R533). A write of RESTART repeats the start-up test and instantiates the DRBG. -/
  | drbgRestart
  /-- RNG_READ (R532). A read of CIP_RNG draws 64 DRBG bits. -/
  | rngRead
  /-- LEDGER_WINDOW (R548). At each 10 µs window the buckets are refilled and unrefusable charges made. -/
  | ledgerWindow (dramKib netKib : Nat)
  /-- NAND_OP_GRANT (R554). The ledger grants a ready NAND operation that fits, by rank and round-robin. -/
  | nandOpGrant
  /-- DIE_SENSOR_READ (R559). Every 100 µs the on-die sensors are read. -/
  | dieSensorRead (temps : List Int)
  /-- EXTERNAL_SENSOR_READ (R561). Every PERIOD_MS each enabled external sensor is read over I3C or I2C. -/
  | externalSensorRead (i : Nat) (raw : Option Nat)
  /-- THERMAL_EVALUATION (R564). Every PERIOD_MS factors, caps, levels and Draught demand are computed. -/
  | thermalEvaluation
  /-- PWM_PERIOD (R585). Each PWM period samples currents, runs the control loops and checks synchronism. -/
  | pwmPeriod (c : Nat) (m : PwmSample)
  /-- COMMUTATION (R582). A plain channel commutates 30 - ADVANCE_DEG degrees after a zero crossing. -/
  | commutation (c stepCycles : Nat)
  /-- OVERCURRENT_TRIP (R586). A current above 1.5 × I_LIMIT_MA turns the channel's gates off within 200 ns. -/
  | overcurrentTrip (c ma : Nat)
  /-- LISTEN_END (R588). After 20 ms of listening the channel decides RUN, DETECT or BRAKE. -/
  | listenEnd (c : Nat) (h : Heard)
  /-- BRAKE_TIMEOUT (R587). BRAKE lasting 10 s moves the channel to FAULT. -/
  | brakeTimeout (c : Nat)
  /-- DETECT_DONE (R591). The test pulse set gives the rotor angle and RAMP begins. -/
  | detectDone (c : Nat) (peaks : List Nat)
  /-- RAMP_TIMEOUT (R592). RAMP not reaching RUN within START_LIMIT × 100 ms is a loss of synchronism. -/
  | rampTimeout (c : Nat)
  /-- COAST_END (R587). After 50 ms of COAST the channel enters LISTEN. -/
  | coastEnd (c : Nat)
  /-- RUN_STABLE (R587). After 10 s of continuous RUN RESTARTS returns to 0. -/
  | runStable (c : Nat)
  /-- DRIVER_FAULT (R597). DRT_FLT_N falls and every channel coasts. -/
  | driverFault
  /-- DRIVER_FAULT_CLEAR (R597). DRT_FLT_N high for 100 ms restarts channels that were running. -/
  | driverFaultClear
  /-- FBUS_SAMPLE (R598). Every 1 µs the fan bus voltage drives the chopper and over- and undervoltage holds. -/
  | fbusSample (mv ma : Nat)
  /-- CHOPPER_TEST_END (R599). The chopper-on test window ends and a faulty chopper sets SHORT_ONLY. -/
  | chopperTestEnd
  /-- CHANNEL_CLEAR (R604). A write of CLEAR moves a channel from FAULT to OFF. -/
  | channelClear (c : Nat)
  /-- CURVE_APPLY (R593). A write of CURVE_APPLY checks and installs the speed curve. -/
  | curveApply (c : Nat)
  /-- CLEAR_CHOP (R614). A write of CLEAR_CHOP clears CHOP_FAULT and every SHORT_ONLY. -/
  | clearChop
  /-- PROGRAM (R628). A code flash descriptor programs up to 512 bytes and verifies them. -/
  | program (d : CflDesc)
  /-- ERASE_SECTOR (R632). A descriptor erases a sector, rotating parameter sectors. -/
  | eraseSector (d : CflDesc)
  /-- ERASE_BANK (R628). A descriptor erases a whole bank and rebuilds its parameter map. -/
  | eraseBank (d : CflDesc)
  /-- MARGIN_VERIFY (R628). A descriptor reads sectors against margin thresholds. -/
  | marginVerify (d : CflDesc)
  /-- ECC_STATUS (R628). A descriptor reads sectors and reports corrected bits. -/
  | eccStatus (d : CflDesc)
  /-- SUSPEND (R628). A descriptor halts the running erase of an array. -/
  | suspend (d : CflDesc)
  /-- RESUME (R628). A descriptor resumes the suspended erase of an array. -/
  | resume (d : CflDesc)
  /-- SET_WP (R634). A descriptor sets or clears write-protect bits. -/
  | setWp (d : CflDesc)
  /-- CFL_OPERATION_DONE (R625). A code flash program or erase finishes and its descriptor completes with CFL_DONE. -/
  | cflOperationDone (array : Nat) (pass : Bool) (us : Nat)
  /-- BANK_EXEC_WRITE (R622). A write to CFL_BANK_EXEC clears with cache invalidation or sets an execute bit. -/
  | bankExecWrite (v : Nat)
  /-- CFL_BUS_FAULT (R620). A forbidden supervisor access to code flash is delivered as an access fault. -/
  | cflBusFault (core : Nat) (kind : Access) (addr : Nat) (uncorr : Bool)
  /-- MGMT_MESSAGE (R655). A MGMT message delivers an update piece or confirmation over YWP. -/
  | mgmtMessage (slot msgId : Nat) (copies : List Bool)
  /-- CASK_HEADER_IDLE_WRITE (R659). After 5 s without a piece firmware writes a Cask header. -/
  | caskHeaderIdleWrite
  /-- TRIAL_EXPIRY (R663). REMAIN_S reaches 0 and the part makes an internal cold reset. -/
  | trialExpiry
  /-- TRIAL_STOP (R673). A write of STOP stops the trial count. -/
  | trialStop
  /-- RECOVERY_DATA (R667). A recovery DATA request over the management port stores package bytes. -/
  | recoveryData (pkgLen off : Nat) (data : Bytes)
  /-- RECOVERY_QUERY (R667). A recovery QUERY is answered with STATUS. -/
  | recoveryQuery (pkgLen : Nat)
  /-- RECOVERY_PIECE (R668). A write of UPD_RCV_CMD takes the piece in the recovery window. -/
  | recoveryPiece (piece pkgLen : Nat)
  /-- RECOVERY_CHECK_DONE (R666). A complete recovery package is checked and installed or discarded. -/
  | recoveryCheckDone (r : ReadBack)
  /-- EVENT_REPORT (R679). A block reports an event, recorded as a new record or a repeat. -/
  | eventReport (block code key data : Nat)
  /-- FRONT_BUFFER_PROGRAM (R679). The recorder programs buffered records to the record area in order. -/
  | frontBufferProgram
  /-- COUNTER_ENTRY_WRITE (R678). Every 60 s the recorder appends a counter entry. -/
  | counterEntryWrite
  /-- EVT_CURSOR_WRITE (R683). A write of EVT_CURSOR sets the log index and AUTO. -/
  | evtCursorWrite (who : Requester) (v : Nat)
  /-- EVT_WINDOW_LATCH (R683). A read of window word 0 latches the record at INDEX. -/
  | evtWindowLatch (who : Requester)
  /-- EVT_WINDOW_ADVANCE (R683). A read of word 7 with AUTO advances INDEX. -/
  | evtWindowAdvance (who : Requester)
  /-- NONCE_DRAW (R684). A read of EVT_NONCE word 0 draws a fresh nonce. -/
  | nonceDraw (who : Requester)
  /-- NONCE_EXPIRY (R684). A nonce stops being current after 60 s. -/
  | nonceExpiry
  /-- STW_SELECT (R688). A write of STW_SEL naming another object drops the latch. -/
  | stwSelect (who : Requester) (v : Nat)
  /-- STW_LATCH (R688). A read of STW_DATA[0] at WORD 0 latches the whole object. -/
  | stwLatch (who : Requester)
  /-- COLD_START (R711). PORST_N rises and the start-up stages begin. -/
  | coldStart (strap : Nat) (lost : Bool)
  /-- PORST_N_FALL (R712). PORST_N falls; a flush runs first when replay has finished. -/
  | porstNFall
  /-- HOST_RESET (R714). PERST_N asserted resets the PCIe side while the part keeps serving. -/
  | hostReset
  /-- PERST_N_RELEASE (R714). PERST_N rises and link training begins again. -/
  | perstNRelease
  /-- INTERNAL_COLD_RESET (R723). A write of GLB_RESET_CTRL.COLD requests an internal cold reset. -/
  | internalColdReset
  /-- START_STAGE_DONE (R717). A start-up stage ends and the next begins, or the stage fails. -/
  | startStageDone (r : StageFound)
  /-- REFCLK_LOSS (R710). No REFCLK edge for 1 µs flushes the Tun and halts the part. -/
  | refclkLoss
  /-- DRAM_PATROL_SCRUB (R715). The patrol scrub reads all DRAM every 24 h. -/
  | dramPatrolScrub (found : PatrolFound)
  /-- SETUP_LOCK (R759). A write of LOCK 1 fixes every RWL field. -/
  | setupLock (who : Requester)
  /-- SUP_RELEASE (R763). A write to GLB_SUP_RELEASE releases secondary cores at GLB_SUP_ENTRY. -/
  | supRelease (v : Nat)
  /-- REGISTER_LATCHING_READ (R754). A read of word 0 of a wide register latches it and clears its RC fields. -/
  | registerLatchingRead (who : Requester) (off size : Nat)
  /-- REGISTER_WRITE (R13). A write to a register without a row of its own sets fields under their access codes. -/
  | registerWrite (who : Requester) (off size v : Nat)
  /-- VF_ENABLE_SET (R112). The owner sets VF Enable in the SR-IOV capability and the enabled VFs come into existence and are polled. -/
  | vfEnableSet (n : Nat)
  /-- CONFIGURATION_REQUEST (R26). A PCIe configuration request is held with Configuration Request Retry Status until READY, and answered afterwards. -/
  | configurationRequest (r : CfgRequest)
  /-- KEYSPACE_REQ_ANSWER (R407). A member receives the acting Hall's answer to a forwarded KEYSPACE_CREATE or KEYSPACE_DELETE and completes the admin command. -/
  | keyspaceReqAnswer (m : TMsg)
  /-- HALL_UNREACHABLE_TIMEOUT (R407). A member that cannot reach the acting Hall within RETRY_MS completes a forwarded keyspace or TOWN_CONTROL command with PEER_UNREACHABLE. -/
  | hallUnreachableTimeout (id : Nat)
  /-- FORWARDED_TOWN_CONTROL (R414). The acting Hall receives a REMOVE, MOVE or HALL_RETURN action forwarded by another member and acts on it. -/
  | forwardedTownControl (m : TMsg)
  /-- IDLE_SESSION_CLOSE (R332). Firmware closes an idle session, sending CLOSE with cause NORMAL and moving the slot to CLOSED. -/
  | idleSessionClose (slot : Nat)
  /-- CODE_FLASH_READ (R618). A supervisor read of a code flash chunk whose corrected-bit count reaches WARN_BITS sets WARN, records the address, raises CFL_WARN and records an event. -/
  | codeFlashRead (core addr corrected : Nat)
  /-- REFCLK_RETURN (R710). REFCLK present for 10 ms starts an internal cold reset. -/
  | refclkReturn
  /-- PCIE_LINK_REACHES_L0 (R732). The PCIe link reaches L0 after a Slumber exit and PE_WAKE_N is released. -/
  | pcieLinkReachesL0
  deriving DecidableEq, Repr

end Sys2Proof
end

