-- ==== Sys2Proof/Decode.lean ====
section
/-!
DEFINITION. The table's words. spec/opcode_table.json gives no row any bits: a command of this block is an event, a register
access or an operation with its operands, not a word. So no word spells a command.
-/

namespace Sys2Proof

/-- The command that a word of `nbits` bits spells by the opcode table: none, since no row of the table has bits. -/
def decodeTableWord (_nbits _w : Nat) : Option Instr := none

end Sys2Proof
end

