-- ==== Sys2Proof/Config.lean ====
section
/-!
DEFINITION. What an implementation fixes and the spec leaves open: the free values of the model. Every constant here is
opaque (it has no body), so nothing can be proved about its value; each is named in a row of notes/assumptions.
-/

namespace Sys2Proof.Config

/-- The n-th free value a step takes (State.free counts them): DRBG output, nonces, salts, the value of anything the spec
leaves undefined. The user of the value reduces it to the width it needs. -/
opaque freeValue : Nat → Nat

/-- The low byte of the event code of each event the spec names without a code (R676 gives codes of the recorder only). -/
opaque eventCode : Nat → Nat

/-- The severity of each event of a block whose catalogue the spec does not print (R676, R690). -/
opaque eventSeverity : Nat → Nat

/-- AES Key Wrap of SP 800-38F, which the spec names without giving it: `keyWrap kek key` is the wrapped image, `keyUnwrap kek n image`
the key in an image of `n` bytes, or none when the ICV is wrong (R517, R524). -/
opaque keyWrap : Nat → Nat → Nat
opaque keyUnwrap : Nat → Nat → Nat → Option Nat

/-- The TLS exporter of RFC 8446 (R328, R524): the bytes that a session's secret gives for a label and a context. -/
opaque tlsExport : Nat → Bytes → Bytes → Bytes

/-- AES-256-GCM of SP 800-38D (R333): the ciphertext and the tag of a plaintext, under a key and a 96-bit IV with additional authenticated
data. -/
opaque gcmSeal : Nat → Nat → Bytes → Bytes → Bytes

/-- SHA-384 of a byte string, as a 384-bit number. -/
opaque sha384 : List Nat → Nat

/-- The Ulsubel key hash held in the boot ROM (R651). -/
opaque ulsubelKeyHash : Nat

/-- What manufacture left in the code flash: the byte at a physical offset of an array (R616), for the sectors that manufacture
programs. -/
opaque factoryByte : Nat → Nat → Nat

/-- Whether an ECDSA P-384 signature (key, message digest, r and s) verifies. -/
opaque ecdsaVerify : Nat → Nat → Nat → Bool

/-- The size in bytes of a session's receive queue in DRAM (R33, R342): the spec gives only the area all queues share. -/
opaque rxQueueBytes : Nat

/-- The Differentiated Services field of a traffic class (R320): the spec says that the field follows the class, and gives no code points. -/
opaque dscpOf : Nat → Nat

/-- The part's device public key (CIP_DEV_PUB), derived from its fuses at stage KEYS. -/
opaque devicePublicKey : Nat

/-- What the servo's filter (R430) adds to the nominal increment, from the error in ns, the integral term and the two shifts: the
spec names a proportional-integral filter and its gains, not its units. The user bounds it by SLEW_PPM. -/
opaque servoRate : Int → Int → Nat → Nat → Int

/-- The filtered path delay (R431) after a sample, from the filtered delay before it. -/
opaque pathFilter : Nat → Nat → Nat

/-- A field of a state object's LAYOUT (R691): its name, the word that holds its least significant bit, MSB and LSB counted from bit 0 of that
word, and whether it is two's complement, or write-only contents that read 0. -/
structure LayoutField where
  name : List Nat
  word : Nat
  msb : Nat
  lsb : Nat
  signed : Bool := false
  zero : Bool := false
  deriving DecidableEq, Repr

/-- The LAYOUT of a type of object of a block, where the spec gives the object no layout (R690). -/
opaque layout : Nat → Nat → List LayoutField

/-- The texts of the catalogue entry of an event code (R691): name, KEY_FMT and DATA_FMT. -/
opaque catalogueText : Nat → List Nat × List Nat × List Nat

/-- XTS-AES of one 4,096-byte data unit under a 512-bit key with the tweak (R243), which the spec names by its standard. -/
opaque xts : Nat → Nat → Bytes → Bytes

/-- The boot media key (0) and the system media key (1), derived from the DRK (R512). -/
opaque mediaKey : Nat → Nat

/-- The `p` bytes of LDPC parity of a codeword (R240): the spec does not give the code. -/
opaque ldpc : Nat → Bytes → Bytes

/-- The plain bytes of a codeword of a CW_KIND whose content the spec does not lay out, by kind and address. -/
opaque regionData : Nat → Nat → Bytes

/-- The key under which a codeword was programmed whose key the part no longer holds. -/
opaque lostKey : Nat → Nat

/-- The format generation that the part writes in a media label (R238). -/
opaque formatGen : Nat

/-- The DRAM address of a Ward's directory segment in units of 256 bytes (R179), by Ward and GDEPTH: the spec does not say how firmware places
the segments. -/
opaque segmentAt : Nat → Nat → Nat

/-- The number of set slots of the media engine (R695). -/
opaque setSlots : Nat

end Sys2Proof.Config
end

