-- ==== Sys2Proof/Machine/Bytes.lean ====
section
/-!
DEFINITION. Byte order, bit fields, record packing, and the checks and the digest that the spec fixes by reference:
CRC-32C and CRC-32, and SipHash-2-4 with a 128-bit output (R176).
-/

namespace Sys2Proof.Machine

/-- Bits [lsb + w - 1 : lsb] of a number (R10). -/
def bits (v lsb w : Nat) : Nat := v / 2 ^ lsb % 2 ^ w

/-- `v` with bits [lsb + w - 1 : lsb] replaced by the low `w` bits of `x`. -/
def setBits (v lsb w x : Nat) : Nat := v - bits v lsb w * 2 ^ lsb + (x % 2 ^ w) * 2 ^ lsb

/-- Bit `n` of a number. -/
def bitAt (v n : Nat) : Bool := v / 2 ^ n % 2 == 1

/-- A Boolean as one bit. -/
def b2n (b : Bool) : Nat := if b then 1 else 0

/-- A `w`-bit field read as two's complement. -/
def toSigned (w v : Nat) : Int := if v % 2 ^ w < 2 ^ (w - 1) then (v % 2 ^ w : Nat) else (v % 2 ^ w : Nat) - (2 ^ w : Nat)

/-- An integer as a `w`-bit two's complement field. -/
def ofSigned (w : Nat) (v : Int) : Nat := (v % (2 ^ w : Nat)).toNat

/-- The lesser of a value and a field's maximum: a counter that saturates. -/
def satAdd (w v n : Nat) : Nat := min (v + n) (2 ^ w - 1)

/-- `n` bytes of `v`, least significant first (R11). -/
def leBytes : Nat → Nat → Bytes
  | 0, _ => []
  | n + 1, v => BitVec.ofNat 8 v :: leBytes n (v / 256)

/-- The number that little-endian bytes spell. -/
def ofLe : Bytes → Nat
  | [] => 0
  | b :: bs => b.toNat + 256 * ofLe bs

/-- `n` bytes of `v`, most significant first: the order of the wire (R11). -/
def beBytes (n v : Nat) : Bytes := (leBytes n v).reverse

/-- The number that big-endian bytes spell. -/
def ofBe (bs : Bytes) : Nat := ofLe bs.reverse

/-- Bytes [off, off + n) of a string; bytes past its end are left out. -/
def slice (bs : Bytes) (off n : Nat) : Bytes := (bs.drop off).take n

/-- The little-endian field of `n` bytes at `off`. -/
def fieldAt (bs : Bytes) (off n : Nat) : Nat := ofLe (slice bs off n)

/-- The number whose fields are the triples (lowest bit, width, value): one record of a layout table. -/
def packNat : List (Nat × Nat × Nat) → Nat
  | [] => 0
  | (lsb, w, v) :: fs => (v % 2 ^ w) * 2 ^ lsb + packNat fs

/-- A record of `n` bytes, little-endian, with the fields (lowest bit, width, value); reserved bits are 0 (R12). -/
def packLe (n : Nat) (fs : List (Nat × Nat × Nat)) : Bytes := leBytes n (packNat fs)

/-- A string padded with zeros to `n` bytes, or cut there. -/
def padTo (n : Nat) (bs : Bytes) : Bytes := (bs ++ List.replicate (n - bs.length) 0#8).take n

/-- A string padded with zeros to a multiple of `m` bytes. -/
def padMul (m : Nat) (bs : Bytes) : Bytes := bs ++ List.replicate ((m - bs.length % m) % m) 0#8

/-- ASCII text as bytes. -/
def ascii (t : String) : Bytes := t.toList.map fun c => BitVec.ofNat 8 c.toNat

/-- `dst` with the bytes of `src` at offset `off`, growing with zeros where `dst` ends earlier. -/
def overlay (dst : Bytes) (off : Nat) (src : Bytes) : Bytes :=
  padTo off dst ++ src ++ dst.drop (off + src.length)

/-- One step of a reflected CRC with polynomial `poly`. -/
def crcBit (poly c : Nat) : Nat := if c % 2 = 1 then c / 2 ^^^ poly else c / 2

/-- One byte into a reflected CRC register. -/
def crcByte (poly c : Nat) (b : Byte) : Nat :=
  let f := crcBit poly
  f (f (f (f (f (f (f (f (c ^^^ b.toNat))))))))

/-- A reflected 32-bit CRC with initial value and final inversion of all ones. -/
def crc32 (poly : Nat) (bs : Bytes) : Nat := (bs.foldl (crcByte poly) 0xFFFFFFFF) ^^^ 0xFFFFFFFF

/-- CRC-32C (Castagnoli), the CHECK of every on-part structure. -/
def crc32c (bs : Bytes) : Nat := crc32 0x82F63B78 bs

/-- CRC-32 of IEEE 802.3, the CHECK of wake patterns. -/
def crc32ieee (bs : Bytes) : Nat := crc32 0xEDB88320 bs

/-- The four words of a SipHash state. -/
structure SipState where
  v0 : BitVec 64
  v1 : BitVec 64
  v2 : BitVec 64
  v3 : BitVec 64
  deriving DecidableEq, Repr

/-- One SipRound. -/
def sipRound (s : SipState) : SipState :=
  let a0 := s.v0 + s.v1
  let a1 := (s.v1.rotateLeft 13) ^^^ a0
  let a0 := a0.rotateLeft 32
  let a2 := s.v2 + s.v3
  let a3 := (s.v3.rotateLeft 16) ^^^ a2
  let c0 := a0 + a3
  let c3 := (a3.rotateLeft 21) ^^^ c0
  let c2 := a2 + a1
  let c1 := (a1.rotateLeft 17) ^^^ c2
  ⟨c0, c1, c2.rotateLeft 32, c3⟩

/-- Absorb one 64-bit message word with two rounds. -/
def sipWord (s : SipState) (m : BitVec 64) : SipState :=
  let t := sipRound (sipRound { s with v3 := s.v3 ^^^ m })
  { t with v0 := t.v0 ^^^ m }

/-- Absorb the message: whole 8-byte words, then the last bytes with the length in the top byte. -/
def sipAbsorb : Nat → Nat → SipState → Bytes → SipState
  | 0, len, s, bs => sipWord s (BitVec.ofNat 64 (ofLe bs + (len % 256) * 2 ^ 56))
  | n + 1, len, s, bs => sipAbsorb n len (sipWord s (BitVec.ofNat 64 (ofLe (bs.take 8)))) (bs.drop 8)

/-- SipHash-2-4 with 128-bit output under the 128-bit key `salt` (R176): k0 is salt[63:0], k1 is salt[127:64]. -/
def siphash128 (salt : Nat) (msg : Bytes) : Nat :=
  let k0 : BitVec 64 := BitVec.ofNat 64 salt
  let k1 : BitVec 64 := BitVec.ofNat 64 (salt / 2 ^ 64)
  let s : SipState := ⟨k0 ^^^ 0x736f6d6570736575#64, (k1 ^^^ 0x646f72616e646f6d#64) ^^^ 0xee#64,
    k0 ^^^ 0x6c7967656e657261#64, k1 ^^^ 0x7465646279746573#64⟩
  let s := sipAbsorb (msg.length / 8) msg.length s msg
  let s := sipRound (sipRound (sipRound (sipRound { s with v2 := s.v2 ^^^ 0xee#64 })))
  let lo := s.v0 ^^^ s.v1 ^^^ s.v2 ^^^ s.v3
  let s := sipRound (sipRound (sipRound (sipRound { s with v1 := s.v1 ^^^ 0xdd#64 })))
  let hi := s.v0 ^^^ s.v1 ^^^ s.v2 ^^^ s.v3
  lo.toNat + hi.toNat * 2 ^ 64

end Sys2Proof.Machine
end

