-- ==== Sys2Proof/Machine/RegMap.lean ====
section
/-!
DEFINITION. The register index of R765: every register's name, space, offset, array dimensions, width, fields with their
access codes (R13) and defined encodings (R12), and reset value (R762, with the option area defaults of R766).
-/

namespace Sys2Proof.Machine

/-- Every register of R765. -/
inductive RegName where
  | adCtrl | adErr | adStat | cflBankExec | cflEccCtrl | cflEccStat | cflParamPtr | cflQBase | cflQCtrl 
  | cflStat | cflWp | cipDevPub | cipDrbgCtrl | cipDrbgStat | cipErr | cipKpCmd | cipKpSlotStat | cipKpStat 
  | cipKpTrk | cipKpUse | cipKpWrap | cipLaneCtrl | cipRng | cipRngValid | cipSkCmd | cipSkData | cipSkSel 
  | cipSkStat | clkStat | drmChStat | drmCtrl | drtBusCfg | drtBusCtrl | drtBusStat | drtChCfg | drtChCtrl 
  | drtChLimit | drtChPwm | drtChStart | drtChStat | drtCurve | drtMotor | drtScale | evtAccess | evtCursor 
  | evtNonce | evtStat | evtTime | evtWindow | glbGpio | glbResetCtrl | glbResetStat | glbSetupLock | glbStart 
  | glbStrap | glbSupEntry | glbSupRelease | hqAdmCoal | hqAdmCqBase | hqAdmCtrl | hqAdmKick | hqAdmSqBase 
  | hqAdmStat | hqCoal | hqCqBase | hqDbBase | hqFuncCtrl | hqFuncStat | hqPollCtrl | hqPollStat | hqQuota 
  | hqRingCtrl | hqRingStat | hqSqBase | hqSumAddr | kveIdxCtrl | kveIdxStat | kveSnapCtrl | kveStageCtrl 
  | ledBucket | ledCap | ledCost | ledCtrl | ledCurve | ledGrpCtrl | ledI3cCtrl | ledLimit | ledSens | ledStat 
  | ledTemp | ledThermCtrl | ledThermStat | medChStat | medEpochStat | medGeom | medLunCtrl | medNandCfg 
  | medPhyCtrl | medRawAddr | medRawCtrl | medRawDest | medRawStat | medRrTable | medScrubCtrl | medSpaceCtrl 
  | medSpaceStat | medSpareCtrl | medSpareStat | medSpgCtrl | medSpgStat | medSuspCtrl | medTerCtrl | medTerStat 
  | medVerifyCtrl | medWearCtrl | netAddr | netCnt | netCntHalf | netCrossBase | netCrossCtrl | netCrossCycle 
  | netCrossList | netFwqBase | netFwqCtrl | netMacAddr | netMcast | netMgmtCtrl | netMgmtMdio | netMode 
  | netParkCtrl | netPortCtrl | netPortStat | netTcMap | netWakeBad | netWakeCtrl | netWakePat | netWakeStat 
  | ptpCtrl | ptpEps | ptpEpsCtrl | ptpIncr | ptpLat | ptpPpsCtrl | ptpPpsTs | ptpServoCtrl | ptpStat | ptpTime 
  | ptpTodSet | ptpWaitStat | stwData | stwSel | stwStat | tunCtrl | tunFlushInfo | tunFlushLast | tunStat 
  | tunUse | twnCfg | twnDrop | twnEpoch | twnFeat | twnHbCtrl | twnRetryCtrl | twnStat | twnTerm | updRcvCmd 
  | updRcvStat | updStat | updTrial | ywpCcCtrl | ywpCtrl | ywpDedupCtrl | ywpDedupStat | ywpDrop | ywpKeyStat 
  | ywpPort | ywpSessCtrl | ywpStat | ywpTimerCtrl
  deriving DecidableEq, Repr

/-- One register of the machine: its name and its array indices. A register of a page (set-up, key, state window)
has the function as its first index, with 256 for the supervisor's own state window page (R757). -/
structure RegKey where
  name : RegName
  i : Nat := 0
  j : Nat := 0
  k : Nat := 0
  deriving DecidableEq, Repr

/-- The spaces of chapter 19. -/
inductive Space where
  | glob | setup | key | win | sup | recov
  deriving DecidableEq, Repr

/-- The access codes of R13. -/
inductive Acc where
  | ro | rw | wo | w1c | w1s | rc | rwl
  deriving DecidableEq, Repr

/-- The encodings that a field defines; every other encoding is reserved (R12). `srng` is a range of a signed field. -/
inductive Enc where
  | any
  | rng (lo hi : Nat)
  | mul (lo hi m : Nat)
  | oneOf (vs : List Nat)
  | srng (lo hi : Int)
  deriving DecidableEq, Repr

/-- One field of a register. -/
structure FieldDef where
  lsb : Nat
  w : Nat
  acc : Acc
  enc : Enc
  deriving DecidableEq, Repr

/-- A field by name: the register, its lowest bit and its width. -/
structure Fld where
  reg : RegName
  lsb : Nat
  w : Nat
  deriving DecidableEq, Repr

/-- Where a register array lies: its space, base offset, the stride and count of each index, and its width in bits. -/
structure RegPlace where
  space : Space
  base : Nat
  dims : List (Nat × Nat)
  width : Nat
  deriving DecidableEq, Repr

/-- The index of R765. -/
def RegName.place : RegName → RegPlace
  | .adCtrl => ⟨.glob, 0x3000, [], 32⟩
  | .adErr => ⟨.glob, 0x3010, [], 64⟩
  | .adStat => ⟨.glob, 0x3008, [], 64⟩
  | .cflBankExec => ⟨.sup, 0x10000C, [], 32⟩
  | .cflEccCtrl => ⟨.sup, 0x100014, [], 32⟩
  | .cflEccStat => ⟨.sup, 0x100020, [], 96⟩
  | .cflParamPtr => ⟨.sup, 0x100030, [(0x4, 2)], 32⟩
  | .cflQBase => ⟨.sup, 0x100000, [], 64⟩
  | .cflQCtrl => ⟨.sup, 0x100008, [], 32⟩
  | .cflStat => ⟨.sup, 0x100010, [], 32⟩
  | .cflWp => ⟨.sup, 0x100040, [(0x40, 3), (0x4, 9)], 32⟩
  | .cipDevPub => ⟨.glob, 0x83100, [], 768⟩
  | .cipDrbgCtrl => ⟨.glob, 0x83010, [], 32⟩
  | .cipDrbgStat => ⟨.glob, 0x83018, [], 64⟩
  | .cipErr => ⟨.glob, 0x83008, [], 64⟩
  | .cipKpCmd => ⟨.key, 0x100, [], 32⟩
  | .cipKpSlotStat => ⟨.key, 0x200, [(0x8, 64)], 64⟩
  | .cipKpStat => ⟨.key, 0x108, [], 64⟩
  | .cipKpTrk => ⟨.key, 0x0, [], 256⟩
  | .cipKpUse => ⟨.key, 0x400, [(0x10, 64)], 128⟩
  | .cipKpWrap => ⟨.key, 0x40, [], 576⟩
  | .cipLaneCtrl => ⟨.glob, 0x83000, [], 32⟩
  | .cipRng => ⟨.sup, 0x101040, [], 64⟩
  | .cipRngValid => ⟨.sup, 0x101048, [], 32⟩
  | .cipSkCmd => ⟨.sup, 0x101004, [], 32⟩
  | .cipSkData => ⟨.sup, 0x101010, [], 352⟩
  | .cipSkSel => ⟨.sup, 0x101000, [], 32⟩
  | .cipSkStat => ⟨.sup, 0x101008, [], 32⟩
  | .clkStat => ⟨.glob, 0x89000, [], 32⟩
  | .drmChStat => ⟨.glob, 0x9100, [(0x8, 8)], 64⟩
  | .drmCtrl => ⟨.glob, 0x9000, [], 32⟩
  | .drtBusCfg => ⟨.glob, 0x86D00, [], 64⟩
  | .drtBusCtrl => ⟨.glob, 0x86D08, [], 32⟩
  | .drtBusStat => ⟨.glob, 0x86D10, [], 64⟩
  | .drtChCfg => ⟨.glob, 0x86008, [(0x100, 12)], 64⟩
  | .drtChCtrl => ⟨.glob, 0x86000, [(0x100, 12)], 32⟩
  | .drtChLimit => ⟨.glob, 0x86018, [(0x100, 12)], 64⟩
  | .drtChPwm => ⟨.glob, 0x86010, [(0x100, 12)], 32⟩
  | .drtChStart => ⟨.glob, 0x86020, [(0x100, 12)], 64⟩
  | .drtChStat => ⟨.glob, 0x86030, [(0x100, 12)], 64⟩
  | .drtCurve => ⟨.glob, 0x86040, [(0x100, 12), (0x4, 16)], 32⟩
  | .drtMotor => ⟨.glob, 0x86028, [(0x100, 12)], 64⟩
  | .drtScale => ⟨.glob, 0x86C00, [(0x4, 13)], 32⟩
  | .evtAccess => ⟨.glob, 0x88000, [(0x4, 8)], 32⟩
  | .evtCursor => ⟨.win, 0x100, [], 32⟩
  | .evtNonce => ⟨.win, 0x180, [], 256⟩
  | .evtStat => ⟨.win, 0x108, [], 64⟩
  | .evtTime => ⟨.win, 0x110, [], 96⟩
  | .evtWindow => ⟨.win, 0x140, [], 512⟩
  | .glbGpio => ⟨.sup, 0x102000, [], 64⟩
  | .glbResetCtrl => ⟨.glob, 0x10, [], 32⟩
  | .glbResetStat => ⟨.glob, 0x14, [], 32⟩
  | .glbSetupLock => ⟨.glob, 0x0, [], 32⟩
  | .glbStart => ⟨.glob, 0x18, [], 64⟩
  | .glbStrap => ⟨.glob, 0x20, [], 32⟩
  | .glbSupEntry => ⟨.sup, 0x102010, [], 64⟩
  | .glbSupRelease => ⟨.sup, 0x102008, [], 32⟩
  | .hqAdmCoal => ⟨.setup, 0x34, [], 32⟩
  | .hqAdmCqBase => ⟨.setup, 0x28, [], 64⟩
  | .hqAdmCtrl => ⟨.setup, 0x30, [], 32⟩
  | .hqAdmKick => ⟨.setup, 0x18, [], 32⟩
  | .hqAdmSqBase => ⟨.setup, 0x20, [], 64⟩
  | .hqAdmStat => ⟨.setup, 0x38, [], 64⟩
  | .hqCoal => ⟨.setup, 0x114, [(0x20, 64)], 32⟩
  | .hqCqBase => ⟨.setup, 0x108, [(0x20, 64)], 64⟩
  | .hqDbBase => ⟨.setup, 0x10, [], 64⟩
  | .hqFuncCtrl => ⟨.setup, 0x0, [], 32⟩
  | .hqFuncStat => ⟨.setup, 0x4, [], 32⟩
  | .hqPollCtrl => ⟨.glob, 0x1400, [], 32⟩
  | .hqPollStat => ⟨.glob, 0x1404, [], 32⟩
  | .hqQuota => ⟨.glob, 0x1000, [(0x4, 256)], 32⟩
  | .hqRingCtrl => ⟨.setup, 0x110, [(0x20, 64)], 32⟩
  | .hqRingStat => ⟨.setup, 0x118, [(0x20, 64)], 64⟩
  | .hqSqBase => ⟨.setup, 0x100, [(0x20, 64)], 64⟩
  | .hqSumAddr => ⟨.setup, 0x8, [], 64⟩
  | .kveIdxCtrl => ⟨.glob, 0x2008, [], 32⟩
  | .kveIdxStat => ⟨.glob, 0x2010, [], 64⟩
  | .kveSnapCtrl => ⟨.glob, 0x2000, [], 32⟩
  | .kveStageCtrl => ⟨.glob, 0x2004, [], 32⟩
  | .ledBucket => ⟨.glob, 0x84140, [(0x8, 3)], 64⟩
  | .ledCap => ⟨.glob, 0x84008, [], 64⟩
  | .ledCost => ⟨.glob, 0x84100, [(0x8, 8)], 64⟩
  | .ledCtrl => ⟨.glob, 0x84000, [], 32⟩
  | .ledCurve => ⟨.glob, 0x84200, [(0x20, 8), (0x4, 8)], 32⟩
  | .ledGrpCtrl => ⟨.glob, 0x84180, [(0x4, 8)], 32⟩
  | .ledI3cCtrl => ⟨.glob, 0x84028, [], 32⟩
  | .ledLimit => ⟨.glob, 0x84010, [], 64⟩
  | .ledSens => ⟨.glob, 0x84400, [(0x10, 64)], 128⟩
  | .ledStat => ⟨.glob, 0x84018, [], 32⟩
  | .ledTemp => ⟨.glob, 0x84800, [(0x4, 96)], 32⟩
  | .ledThermCtrl => ⟨.glob, 0x8401C, [], 32⟩
  | .ledThermStat => ⟨.glob, 0x84020, [], 64⟩
  | .medChStat => ⟨.glob, 0x8400, [(0x4, 64)], 32⟩
  | .medEpochStat => ⟨.glob, 0x8070, [], 64⟩
  | .medGeom => ⟨.glob, 0x8008, [], 64⟩
  | .medLunCtrl => ⟨.glob, 0x8014, [], 32⟩
  | .medNandCfg => ⟨.glob, 0x8010, [], 32⟩
  | .medPhyCtrl => ⟨.glob, 0x8000, [], 32⟩
  | .medRawAddr => ⟨.glob, 0x8030, [], 64⟩
  | .medRawCtrl => ⟨.glob, 0x8040, [], 32⟩
  | .medRawDest => ⟨.glob, 0x8038, [], 64⟩
  | .medRawStat => ⟨.glob, 0x8048, [], 64⟩
  | .medRrTable => ⟨.glob, 0x8800, [(0x10, 15)], 128⟩
  | .medScrubCtrl => ⟨.glob, 0x8088, [], 32⟩
  | .medSpaceCtrl => ⟨.glob, 0x8050, [], 32⟩
  | .medSpaceStat => ⟨.glob, 0x8058, [], 64⟩
  | .medSpareCtrl => ⟨.glob, 0x807C, [], 32⟩
  | .medSpareStat => ⟨.glob, 0x8080, [], 64⟩
  | .medSpgCtrl => ⟨.glob, 0x8060, [], 32⟩
  | .medSpgStat => ⟨.glob, 0x8068, [], 64⟩
  | .medSuspCtrl => ⟨.glob, 0x802C, [], 32⟩
  | .medTerCtrl => ⟨.glob, 0x8018, [], 32⟩
  | .medTerStat => ⟨.glob, 0x8020, [], 64⟩
  | .medVerifyCtrl => ⟨.glob, 0x8028, [], 32⟩
  | .medWearCtrl => ⟨.glob, 0x8078, [], 32⟩
  | .netAddr => ⟨.glob, 0x4C000, [(0x200, 9), (0x20, 16)], 256⟩
  | .netCnt => ⟨.glob, 0x48000, [(0x200, 9), (0x8, 64)], 64⟩
  | .netCntHalf => ⟨.glob, 0x40048, [(0x100, 9)], 64⟩
  | .netCrossBase => ⟨.glob, 0x40030, [(0x100, 9)], 128⟩
  | .netCrossCtrl => ⟨.glob, 0x40020, [(0x100, 9)], 32⟩
  | .netCrossCycle => ⟨.glob, 0x40040, [(0x100, 9)], 32⟩
  | .netCrossList => ⟨.glob, 0x60000, [(0x4000, 8), (0x2000, 2), (0x8, 1024)], 64⟩
  | .netFwqBase => ⟨.sup, 0x104000, [(0x10, 9)], 64⟩
  | .netFwqCtrl => ⟨.sup, 0x104008, [(0x10, 9)], 64⟩
  | .netMacAddr => ⟨.glob, 0x40010, [(0x100, 9)], 64⟩
  | .netMcast => ⟨.glob, 0x4E000, [(0x100, 9), (0x8, 32)], 64⟩
  | .netMgmtCtrl => ⟨.glob, 0x41020, [], 32⟩
  | .netMgmtMdio => ⟨.glob, 0x41028, [], 64⟩
  | .netMode => ⟨.glob, 0x41000, [], 32⟩
  | .netParkCtrl => ⟨.glob, 0x41008, [], 64⟩
  | .netPortCtrl => ⟨.glob, 0x40000, [(0x100, 9)], 64⟩
  | .netPortStat => ⟨.glob, 0x40008, [(0x100, 9)], 64⟩
  | .netTcMap => ⟨.glob, 0x40018, [(0x100, 9)], 32⟩
  | .netWakeBad => ⟨.glob, 0x41018, [], 32⟩
  | .netWakeCtrl => ⟨.glob, 0x41010, [], 32⟩
  | .netWakePat => ⟨.glob, 0x4A000, [(0x100, 32)], 1280⟩
  | .netWakeStat => ⟨.glob, 0x41014, [], 32⟩
  | .ptpCtrl => ⟨.glob, 0x81000, [], 64⟩
  | .ptpEps => ⟨.glob, 0x81040, [], 64⟩
  | .ptpEpsCtrl => ⟨.glob, 0x81038, [], 64⟩
  | .ptpIncr => ⟨.glob, 0x81028, [], 64⟩
  | .ptpLat => ⟨.glob, 0x81100, [(0x8, 9)], 64⟩
  | .ptpPpsCtrl => ⟨.glob, 0x81080, [], 64⟩
  | .ptpPpsTs => ⟨.glob, 0x81090, [], 96⟩
  | .ptpServoCtrl => ⟨.glob, 0x81030, [], 64⟩
  | .ptpStat => ⟨.glob, 0x81048, [], 64⟩
  | .ptpTime => ⟨.glob, 0x81010, [], 96⟩
  | .ptpTodSet => ⟨.glob, 0x81020, [], 64⟩
  | .ptpWaitStat => ⟨.glob, 0x810A0, [], 64⟩
  | .stwData => ⟨.win, 0x80, [(0x8, 16)], 64⟩
  | .stwSel => ⟨.win, 0x0, [], 64⟩
  | .stwStat => ⟨.win, 0x8, [], 64⟩
  | .tunCtrl => ⟨.glob, 0x4000, [], 32⟩
  | .tunFlushInfo => ⟨.glob, 0x4018, [], 64⟩
  | .tunFlushLast => ⟨.glob, 0x4020, [], 64⟩
  | .tunStat => ⟨.glob, 0x4008, [], 64⟩
  | .tunUse => ⟨.glob, 0x4010, [], 64⟩
  | .twnCfg => ⟨.glob, 0x82000, [], 64⟩
  | .twnDrop => ⟨.glob, 0x82030, [], 64⟩
  | .twnEpoch => ⟨.glob, 0x82010, [], 64⟩
  | .twnFeat => ⟨.glob, 0x8201C, [], 32⟩
  | .twnHbCtrl => ⟨.glob, 0x82020, [], 64⟩
  | .twnRetryCtrl => ⟨.glob, 0x82028, [], 32⟩
  | .twnStat => ⟨.glob, 0x82008, [], 64⟩
  | .twnTerm => ⟨.glob, 0x82018, [], 32⟩
  | .updRcvCmd => ⟨.recov, 0x0, [], 64⟩
  | .updRcvStat => ⟨.recov, 0x0, [], 32⟩
  | .updStat => ⟨.glob, 0x8A000, [], 64⟩
  | .updTrial => ⟨.sup, 0x103000, [], 32⟩
  | .ywpCcCtrl => ⟨.glob, 0x80018, [], 64⟩
  | .ywpCtrl => ⟨.glob, 0x80000, [], 32⟩
  | .ywpDedupCtrl => ⟨.glob, 0x80020, [], 32⟩
  | .ywpDedupStat => ⟨.glob, 0x80028, [], 64⟩
  | .ywpDrop => ⟨.glob, 0x80040, [], 128⟩
  | .ywpKeyStat => ⟨.glob, 0x80038, [], 64⟩
  | .ywpPort => ⟨.glob, 0x80004, [], 32⟩
  | .ywpSessCtrl => ⟨.glob, 0x80010, [], 64⟩
  | .ywpStat => ⟨.glob, 0x80030, [], 64⟩
  | .ywpTimerCtrl => ⟨.glob, 0x80008, [], 32⟩

/-- Part 0 of the register names of R765. -/
def regNames0 : List RegName :=
  [.adCtrl, .adErr, .adStat, .cflBankExec, .cflEccCtrl, .cflEccStat, .cflParamPtr, .cflQBase, .cflQCtrl, 
   .cflStat, .cflWp, .cipDevPub, .cipDrbgCtrl, .cipDrbgStat, .cipErr, .cipKpCmd, .cipKpSlotStat, .cipKpStat, 
   .cipKpTrk, .cipKpUse, .cipKpWrap, .cipLaneCtrl, .cipRng, .cipRngValid, .cipSkCmd, .cipSkData, .cipSkSel, 
   .cipSkStat, .clkStat, .drmChStat]

/-- Part 1 of the register names of R765. -/
def regNames1 : List RegName :=
  [.drmCtrl, .drtBusCfg, .drtBusCtrl, .drtBusStat, .drtChCfg, .drtChCtrl, .drtChLimit, .drtChPwm, 
   .drtChStart, .drtChStat, .drtCurve, .drtMotor, .drtScale, .evtAccess, .evtCursor, .evtNonce, .evtStat, 
   .evtTime, .evtWindow, .glbGpio, .glbResetCtrl, .glbResetStat, .glbSetupLock, .glbStart, .glbStrap, 
   .glbSupEntry, .glbSupRelease, .hqAdmCoal, .hqAdmCqBase, .hqAdmCtrl]

/-- Part 2 of the register names of R765. -/
def regNames2 : List RegName :=
  [.hqAdmKick, .hqAdmSqBase, .hqAdmStat, .hqCoal, .hqCqBase, .hqDbBase, .hqFuncCtrl, .hqFuncStat, 
   .hqPollCtrl, .hqPollStat, .hqQuota, .hqRingCtrl, .hqRingStat, .hqSqBase, .hqSumAddr, .kveIdxCtrl, 
   .kveIdxStat, .kveSnapCtrl, .kveStageCtrl, .ledBucket, .ledCap, .ledCost, .ledCtrl, .ledCurve, .ledGrpCtrl, 
   .ledI3cCtrl, .ledLimit, .ledSens, .ledStat, .ledTemp]

/-- Part 3 of the register names of R765. -/
def regNames3 : List RegName :=
  [.ledThermCtrl, .ledThermStat, .medChStat, .medEpochStat, .medGeom, .medLunCtrl, .medNandCfg, .medPhyCtrl, 
   .medRawAddr, .medRawCtrl, .medRawDest, .medRawStat, .medRrTable, .medScrubCtrl, .medSpaceCtrl, 
   .medSpaceStat, .medSpareCtrl, .medSpareStat, .medSpgCtrl, .medSpgStat, .medSuspCtrl, .medTerCtrl, 
   .medTerStat, .medVerifyCtrl, .medWearCtrl, .netAddr, .netCnt, .netCntHalf, .netCrossBase, .netCrossCtrl]

/-- Part 4 of the register names of R765. -/
def regNames4 : List RegName :=
  [.netCrossCycle, .netCrossList, .netFwqBase, .netFwqCtrl, .netMacAddr, .netMcast, .netMgmtCtrl, 
   .netMgmtMdio, .netMode, .netParkCtrl, .netPortCtrl, .netPortStat, .netTcMap, .netWakeBad, .netWakeCtrl, 
   .netWakePat, .netWakeStat, .ptpCtrl, .ptpEps, .ptpEpsCtrl, .ptpIncr, .ptpLat, .ptpPpsCtrl, .ptpPpsTs, 
   .ptpServoCtrl, .ptpStat, .ptpTime, .ptpTodSet, .ptpWaitStat, .stwData]

/-- Part 5 of the register names of R765. -/
def regNames5 : List RegName :=
  [.stwSel, .stwStat, .tunCtrl, .tunFlushInfo, .tunFlushLast, .tunStat, .tunUse, .twnCfg, .twnDrop, 
   .twnEpoch, .twnFeat, .twnHbCtrl, .twnRetryCtrl, .twnStat, .twnTerm, .updRcvCmd, .updRcvStat, .updStat, 
   .updTrial, .ywpCcCtrl, .ywpCtrl, .ywpDedupCtrl, .ywpDedupStat, .ywpDrop, .ywpKeyStat, .ywpPort, 
   .ywpSessCtrl, .ywpStat, .ywpTimerCtrl]

/-- Every register name, in the order of R765. -/
def RegName.all : List RegName :=
  regNames0 ++ regNames1 ++ regNames2 ++ regNames3 ++ regNames4 ++ regNames5

/-- The fields of every register, with access codes and defined encodings. -/
def RegName.fields : RegName → List FieldDef
  | .adCtrl => [⟨0, 1, .rw, .any⟩, ⟨8, 14, .rw, .rng 1 10000⟩]
  | .adErr => [⟨0, 32, .rc, .any⟩, ⟨32, 32, .rc, .any⟩]
  | .adStat => [⟨0, 21, .ro, .any⟩, ⟨21, 21, .rc, .any⟩, ⟨42, 16, .rc, .any⟩]
  | .cflBankExec => [⟨0, 1, .rw, .any⟩, ⟨1, 1, .rw, .any⟩, ⟨2, 1, .w1c, .any⟩]
  | .cflEccCtrl => [⟨0, 3, .rw, .rng 1 4⟩]
  | .cflEccStat => [⟨0, 1, .w1c, .any⟩, ⟨1, 1, .w1c, .any⟩, ⟨2, 2, .ro, .any⟩, ⟨32, 24, .ro, .any⟩, ⟨64, 32, .rc, .any⟩]
  | .cflParamPtr => [⟨0, 5, .ro, .any⟩]
  | .cflQBase => [⟨10, 54, .rw, .any⟩]
  | .cflQCtrl => [⟨0, 1, .rw, .any⟩, ⟨8, 6, .rw, .any⟩, ⟨16, 6, .ro, .any⟩]
  | .cflStat => [⟨0, 1, .ro, .any⟩, ⟨1, 3, .ro, .any⟩, ⟨4, 3, .ro, .any⟩, ⟨7, 1, .ro, .any⟩, ⟨8, 1, .ro, .any⟩, 
   ⟨9, 1, .ro, .any⟩, ⟨10, 1, .ro, .any⟩]
  | .cflWp => [⟨0, 32, .ro, .any⟩]
  | .cipDevPub => [⟨0, 768, .ro, .any⟩]
  | .cipDrbgCtrl => [⟨0, 24, .rw, .rng 1 16777215⟩, ⟨24, 1, .rw, .any⟩, ⟨25, 1, .w1s, .any⟩]
  | .cipDrbgStat => [⟨0, 1, .ro, .any⟩, ⟨1, 1, .ro, .any⟩, ⟨8, 8, .rc, .any⟩, ⟨32, 32, .rc, .any⟩]
  | .cipErr => [⟨0, 16, .rc, .any⟩, ⟨16, 16, .rc, .any⟩, ⟨32, 16, .rc, .any⟩, ⟨48, 16, .rc, .any⟩]
  | .cipKpCmd => [⟨0, 3, .wo, .any⟩, ⟨8, 6, .wo, .any⟩]
  | .cipKpSlotStat => [⟨0, 1, .ro, .any⟩, ⟨1, 1, .ro, .any⟩, ⟨2, 1, .ro, .any⟩, ⟨8, 17, .ro, .any⟩, ⟨32, 32, .ro, .any⟩]
  | .cipKpStat => [⟨0, 1, .ro, .any⟩, ⟨1, 1, .ro, .any⟩, ⟨2, 1, .w1c, .any⟩, ⟨4, 4, .ro, .any⟩, ⟨8, 3, .ro, .any⟩, 
   ⟨32, 32, .ro, .any⟩]
  | .cipKpTrk => [⟨0, 256, .wo, .any⟩]
  | .cipKpUse => [⟨0, 64, .ro, .any⟩, ⟨64, 64, .ro, .any⟩]
  | .cipKpWrap => [⟨0, 576, .wo, .any⟩]
  | .cipLaneCtrl => [⟨0, 6, .rw, .rng 0 48⟩, ⟨8, 6, .rw, .rng 0 48⟩]
  | .cipRng => [⟨0, 64, .ro, .any⟩]
  | .cipRngValid => [⟨0, 1, .ro, .any⟩]
  | .cipSkCmd => [⟨0, 2, .wo, .rng 1 2⟩]
  | .cipSkData => [⟨0, 256, .wo, .any⟩, ⟨256, 96, .wo, .any⟩]
  | .cipSkSel => [⟨0, 18, .rw, .any⟩, ⟨18, 1, .rw, .any⟩, ⟨19, 2, .rw, .rng 0 2⟩, ⟨24, 8, .rw, .any⟩]
  | .cipSkStat => [⟨0, 1, .ro, .any⟩, ⟨1, 3, .ro, .any⟩]
  | .clkStat => [⟨0, 1, .ro, .any⟩, ⟨1, 1, .w1c, .any⟩, ⟨2, 18, .ro, .any⟩]
  | .drmChStat => [⟨0, 2, .ro, .any⟩, ⟨2, 1, .ro, .any⟩, ⟨16, 32, .rc, .any⟩, ⟨48, 16, .rc, .any⟩]
  | .drmCtrl => [⟨0, 2, .rwl, .any⟩, ⟨2, 1, .rwl, .any⟩]
  | .drtBusCfg => [⟨0, 16, .rwl, .any⟩, ⟨16, 16, .rwl, .any⟩, ⟨32, 16, .rwl, .any⟩, ⟨48, 8, .rwl, .rng 1 50⟩, 
   ⟨56, 8, .rwl, .rng 1 255⟩]
  | .drtBusCtrl => [⟨0, 1, .w1s, .any⟩, ⟨1, 1, .rwl, .any⟩]
  | .drtBusStat => [⟨0, 16, .ro, .any⟩, ⟨16, 1, .ro, .any⟩, ⟨17, 1, .ro, .any⟩, ⟨18, 1, .ro, .any⟩, ⟨19, 1, .ro, .any⟩, 
   ⟨20, 1, .ro, .any⟩, ⟨32, 16, .ro, .any⟩]
  | .drtChCfg => [⟨0, 4, .rwl, .rng 1 8⟩, ⟨4, 15, .rwl, .rng 1 25000⟩, ⟨19, 15, .rwl, .rng 300 25000⟩, 
   ⟨34, 10, .rwl, .rng 0 1000⟩, ⟨44, 7, .rwl, .rng 0 100⟩]
  | .drtChCtrl => [⟨0, 1, .rw, .any⟩, ⟨1, 1, .rw, .any⟩, ⟨2, 1, .rwl, .any⟩, ⟨3, 1, .w1s, .any⟩, ⟨4, 1, .w1s, .any⟩, 
   ⟨8, 10, .rw, .rng 0 1000⟩]
  | .drtChLimit => [⟨0, 16, .rwl, .rng 100 60000⟩, ⟨16, 16, .rwl, .rng 100 65535⟩, ⟨32, 16, .rw, .rng 10 65535⟩, 
   ⟨48, 16, .rw, .rng 10 65535⟩]
  | .drtChPwm => [⟨0, 7, .rw, .rng 25 100⟩, ⟨8, 8, .rwl, .rng 4 200⟩, ⟨16, 8, .rw, .rng 0 30⟩, ⟨24, 6, .rw, .rng 0 30⟩]
  | .drtChStart => [⟨0, 8, .rw, .rng 5 255⟩, ⟨16, 16, .rw, .rng 100 5000⟩, ⟨32, 16, .rw, .rng 100 65535⟩, 
   ⟨48, 8, .rw, .rng 1 255⟩]
  | .drtChStat => [⟨0, 4, .ro, .any⟩, ⟨4, 1, .ro, .any⟩, ⟨5, 1, .ro, .any⟩, ⟨6, 1, .w1c, .any⟩, ⟨7, 1, .ro, .any⟩, 
   ⟨8, 2, .ro, .any⟩, ⟨10, 2, .ro, .any⟩, ⟨16, 15, .ro, .any⟩, ⟨32, 15, .ro, .any⟩, ⟨48, 16, .ro, .any⟩]
  | .drtCurve => [⟨0, 10, .rw, .rng 0 1000⟩, ⟨10, 15, .rw, .rng 0 25000⟩]
  | .drtMotor => [⟨0, 16, .rwl, .rng 1 65535⟩, ⟨16, 16, .rwl, .rng 1 65535⟩, ⟨32, 16, .rwl, .rng 1 65535⟩, 
   ⟨48, 8, .rwl, .rng 10 255⟩, ⟨56, 8, .rwl, .rng 5 100⟩]
  | .drtScale => [⟨0, 16, .rwl, .rng 1 65535⟩, ⟨16, 16, .rwl, .rng 1 65535⟩]
  | .evtAccess => [⟨0, 32, .rwl, .any⟩]
  | .evtCursor => [⟨0, 15, .rw, .rng 0 16384⟩, ⟨15, 1, .rw, .any⟩]
  | .evtNonce => [⟨0, 256, .ro, .any⟩]
  | .evtStat => [⟨0, 15, .ro, .any⟩, ⟨15, 1, .ro, .any⟩, ⟨16, 9, .ro, .any⟩, ⟨25, 1, .ro, .any⟩, ⟨26, 1, .ro, .any⟩, 
   ⟨32, 32, .ro, .any⟩]
  | .evtTime => [⟨0, 32, .ro, .any⟩, ⟨32, 32, .ro, .any⟩, ⟨64, 21, .ro, .any⟩]
  | .evtWindow => [⟨0, 512, .ro, .any⟩]
  | .glbGpio => [⟨0, 16, .rw, .any⟩, ⟨16, 16, .rw, .any⟩, ⟨32, 16, .ro, .any⟩]
  | .glbResetCtrl => [⟨0, 1, .w1s, .any⟩]
  | .glbResetStat => [⟨0, 2, .ro, .any⟩, ⟨2, 4, .ro, .any⟩]
  | .glbSetupLock => [⟨0, 1, .w1s, .any⟩, ⟨16, 16, .rc, .any⟩]
  | .glbStart => [⟨0, 4, .ro, .any⟩, ⟨4, 4, .ro, .any⟩, ⟨8, 1, .ro, .any⟩, ⟨32, 32, .ro, .any⟩]
  | .glbStrap => [⟨0, 4, .ro, .any⟩, ⟨4, 1, .ro, .any⟩]
  | .glbSupEntry => [⟨2, 62, .rw, .any⟩]
  | .glbSupRelease => [⟨0, 1, .ro, .any⟩, ⟨1, 7, .w1s, .any⟩]
  | .hqAdmCoal => [⟨0, 9, .rw, .rng 1 256⟩, ⟨16, 7, .rw, .rng 0 100⟩]
  | .hqAdmCqBase => [⟨12, 52, .rw, .any⟩]
  | .hqAdmCtrl => [⟨0, 5, .rw, .rng 4 16⟩, ⟨5, 1, .rw, .any⟩, ⟨6, 1, .rw, .any⟩, ⟨7, 1, .w1s, .any⟩]
  | .hqAdmKick => [⟨0, 1, .wo, .any⟩]
  | .hqAdmSqBase => [⟨12, 52, .rw, .any⟩]
  | .hqAdmStat => [⟨0, 2, .ro, .any⟩, ⟨2, 2, .ro, .any⟩, ⟨4, 3, .ro, .any⟩, ⟨8, 8, .ro, .any⟩, ⟨16, 16, .ro, .any⟩, 
   ⟨32, 16, .ro, .any⟩, ⟨48, 16, .ro, .any⟩]
  | .hqCoal => [⟨0, 9, .rw, .rng 1 256⟩, ⟨16, 7, .rw, .rng 0 100⟩]
  | .hqCqBase => [⟨12, 52, .rw, .any⟩]
  | .hqDbBase => [⟨12, 52, .rw, .any⟩]
  | .hqFuncCtrl => [⟨0, 1, .rw, .any⟩, ⟨1, 1, .rw, .any⟩, ⟨8, 10, .rw, .rng 1 1000⟩]
  | .hqFuncStat => [⟨0, 7, .ro, .any⟩, ⟨7, 7, .ro, .any⟩, ⟨16, 1, .w1c, .any⟩, ⟨17, 1, .w1c, .any⟩]
  | .hqPollCtrl => [⟨0, 7, .rwl, .rng 1 64⟩]
  | .hqPollStat => [⟨0, 32, .rc, .any⟩]
  | .hqQuota => [⟨0, 7, .rwl, .rng 0 64⟩]
  | .hqRingCtrl => [⟨0, 5, .rw, .rng 4 16⟩, ⟨5, 1, .rw, .any⟩, ⟨6, 1, .rw, .any⟩, ⟨7, 1, .w1s, .any⟩]
  | .hqRingStat => [⟨0, 2, .ro, .any⟩, ⟨2, 2, .ro, .any⟩, ⟨4, 3, .ro, .any⟩, ⟨8, 8, .ro, .any⟩, ⟨16, 16, .ro, .any⟩, 
   ⟨32, 16, .ro, .any⟩, ⟨48, 16, .ro, .any⟩]
  | .hqSqBase => [⟨12, 52, .rw, .any⟩]
  | .hqSumAddr => [⟨3, 61, .rw, .any⟩]
  | .kveIdxCtrl => [⟨0, 7, .rw, .rng 1 96⟩, ⟨8, 14, .rw, .rng 1 10000⟩, ⟨24, 7, .rw, .rng 50 95⟩]
  | .kveIdxStat => [⟨0, 33, .ro, .any⟩, ⟨33, 16, .rc, .any⟩, ⟨49, 15, .ro, .any⟩]
  | .kveSnapCtrl => [⟨0, 16, .rwl, .rng 0 60000⟩, ⟨16, 11, .ro, .any⟩]
  | .kveStageCtrl => [⟨0, 17, .rw, .rng 10 86400⟩, ⟨19, 13, .ro, .any⟩]
  | .ledBucket => [⟨0, 32, .ro, .any⟩, ⟨32, 20, .ro, .any⟩, ⟨52, 10, .ro, .any⟩]
  | .ledCap => [⟨0, 20, .rwl, .any⟩, ⟨20, 20, .rwl, .any⟩, ⟨40, 20, .rwl, .any⟩]
  | .ledCost => [⟨0, 24, .rwl, .any⟩, ⟨24, 16, .rwl, .any⟩]
  | .ledCtrl => [⟨0, 6, .rw, .rng 1 63⟩, ⟨8, 6, .rw, .rng 1 63⟩]
  | .ledCurve => [⟨0, 8, .rwl, .any⟩, ⟨8, 10, .rwl, .rng 50 1000⟩, ⟨18, 10, .rwl, .rng 0 1000⟩]
  | .ledGrpCtrl => [⟨0, 3, .rwl, .any⟩, ⟨8, 8, .rwl, .any⟩, ⟨16, 8, .rwl, .any⟩, ⟨24, 8, .rwl, .any⟩]
  | .ledI3cCtrl => [⟨0, 14, .rwl, .rng 1000 12500⟩, ⟨14, 10, .rwl, .rng 100 400⟩]
  | .ledLimit => [⟨0, 16, .rwl, .any⟩, ⟨16, 20, .rwl, .any⟩, ⟨36, 20, .rwl, .any⟩]
  | .ledSens => [⟨0, 1, .rwl, .any⟩, ⟨1, 1, .rwl, .any⟩, ⟨2, 1, .rwl, .any⟩, ⟨3, 1, .rwl, .any⟩, ⟨4, 1, .rwl, .any⟩, 
   ⟨5, 3, .rwl, .rng 1 7⟩, ⟨8, 7, .rwl, .any⟩, ⟨16, 8, .rwl, .any⟩, ⟨24, 8, .rwl, .any⟩, 
   ⟨64, 48, .rwl, .any⟩]
  | .ledStat => [⟨0, 1, .ro, .any⟩, ⟨1, 1, .ro, .any⟩, ⟨2, 1, .ro, .any⟩, ⟨16, 16, .rc, .any⟩]
  | .ledTemp => [⟨0, 16, .ro, .any⟩, ⟨16, 1, .ro, .any⟩]
  | .ledThermCtrl => [⟨0, 10, .rw, .rng 10 1000⟩, ⟨10, 10, .rw, .rng 1 1000⟩, ⟨20, 10, .rwl, .rng 0 1000⟩]
  | .ledThermStat => [⟨0, 8, .ro, .any⟩, ⟨8, 8, .ro, .any⟩, ⟨16, 8, .ro, .any⟩, ⟨24, 10, .ro, .any⟩, ⟨34, 1, .w1c, .any⟩]
  | .medChStat => [⟨0, 8, .ro, .any⟩, ⟨8, 3, .ro, .any⟩, ⟨11, 1, .ro, .any⟩, ⟨12, 8, .ro, .any⟩, ⟨20, 8, .ro, .any⟩]
  | .medEpochStat => [⟨0, 16, .ro, .any⟩, ⟨16, 16, .ro, .any⟩, ⟨32, 16, .ro, .any⟩, ⟨48, 16, .ro, .any⟩]
  | .medGeom => [⟨0, 1, .ro, .any⟩, ⟨1, 3, .ro, .any⟩, ⟨4, 2, .ro, .any⟩, ⟨16, 16, .ro, .any⟩, ⟨32, 18, .ro, .any⟩, 
   ⟨50, 13, .ro, .any⟩]
  | .medLunCtrl => [⟨0, 13, .rw, .any⟩, ⟨13, 1, .w1s, .any⟩]
  | .medNandCfg => [⟨0, 8, .rwl, .any⟩, ⟨8, 8, .rwl, .any⟩, ⟨16, 4, .rwl, .rng 1 15⟩, ⟨20, 1, .rwl, .any⟩, 
   ⟨24, 4, .rwl, .rng 1 15⟩]
  | .medPhyCtrl => [⟨0, 3, .rwl, .rng 0 5⟩, ⟨3, 1, .rwl, .any⟩]
  | .medRawAddr => [⟨0, 58, .rw, .any⟩]
  | .medRawCtrl => [⟨0, 1, .w1s, .any⟩, ⟨1, 1, .rw, .any⟩]
  | .medRawDest => [⟨4, 60, .rw, .any⟩]
  | .medRawStat => [⟨0, 16, .ro, .any⟩, ⟨16, 1, .ro, .any⟩, ⟨17, 1, .ro, .any⟩, ⟨18, 3, .ro, .any⟩, ⟨21, 4, .ro, .any⟩, 
   ⟨32, 16, .ro, .any⟩]
  | .medRrTable => [⟨0, 8, .rwl, .any⟩, ⟨8, 8, .rwl, .any⟩, ⟨16, 8, .rwl, .any⟩, ⟨24, 8, .rwl, .any⟩, ⟨32, 8, .rwl, .any⟩, 
   ⟨40, 8, .rwl, .any⟩, ⟨48, 8, .rwl, .any⟩, ⟨56, 8, .rwl, .any⟩, ⟨64, 8, .rwl, .any⟩, ⟨72, 8, .rwl, .any⟩, 
   ⟨80, 8, .rwl, .any⟩, ⟨88, 8, .rwl, .any⟩, ⟨96, 8, .rwl, .any⟩, ⟨104, 8, .rwl, .any⟩, ⟨112, 8, .rwl, .any⟩]
  | .medScrubCtrl => [⟨0, 1, .rw, .any⟩, ⟨8, 8, .rw, .rng 1 255⟩, ⟨16, 8, .rw, .rng 1 255⟩]
  | .medSpaceCtrl => [⟨0, 8, .rw, .rng 20 250⟩, ⟨8, 8, .rwl, .rng 10 200⟩, ⟨16, 8, .rwl, .rng 5 100⟩, ⟨24, 4, .rw, .rng 1 15⟩]
  | .medSpaceStat => [⟨0, 10, .ro, .any⟩, ⟨10, 2, .ro, .any⟩, ⟨12, 1, .ro, .any⟩, ⟨16, 10, .ro, .any⟩, ⟨32, 32, .ro, .any⟩]
  | .medSpareCtrl => [⟨0, 7, .rwl, .rng 10 100⟩, ⟨8, 6, .rw, .rng 1 50⟩]
  | .medSpareStat => [⟨0, 32, .ro, .any⟩, ⟨32, 32, .ro, .any⟩]
  | .medSpgCtrl => [⟨0, 1, .rw, .any⟩, ⟨8, 8, .rw, .rng 10 255⟩, ⟨16, 8, .rw, .rng 10 255⟩]
  | .medSpgStat => [⟨0, 16, .ro, .any⟩, ⟨16, 16, .ro, .any⟩, ⟨32, 16, .ro, .any⟩, ⟨48, 16, .rc, .any⟩]
  | .medSuspCtrl => [⟨0, 13, .rw, .rng 50 5000⟩, ⟨16, 5, .rw, .rng 1 31⟩, ⟨24, 4, .ro, .any⟩]
  | .medTerCtrl => [⟨0, 17, .rw, .rng 100 100000⟩, ⟨17, 7, .rwl, .rng 4 64⟩]
  | .medTerStat => [⟨0, 6, .ro, .any⟩, ⟨6, 10, .ro, .any⟩, ⟨16, 16, .ro, .any⟩, ⟨32, 32, .ro, .any⟩]
  | .medVerifyCtrl => [⟨0, 8, .rw, .rng 1 255⟩, ⟨8, 4, .rw, .rng 1 15⟩]
  | .medWearCtrl => [⟨0, 16, .rwl, .rng 1 65535⟩, ⟨16, 12, .rw, .rng 20 4000⟩]
  | .netAddr => [⟨0, 2, .rw, .rng 0 2⟩, ⟨128, 128, .rw, .any⟩]
  | .netCnt => [⟨0, 40, .ro, .any⟩]
  | .netCntHalf => [⟨0, 64, .w1c, .any⟩]
  | .netCrossBase => [⟨0, 32, .rw, .rng 0 999999999⟩, ⟨32, 48, .rw, .any⟩]
  | .netCrossCtrl => [⟨0, 1, .rw, .any⟩, ⟨1, 1, .w1s, .any⟩, ⟨2, 1, .w1c, .any⟩, ⟨3, 1, .ro, .any⟩, ⟨4, 11, .rw, .rng 1 1024⟩]
  | .netCrossCycle => [⟨0, 32, .rw, .rng 1000 4294967295⟩]
  | .netCrossList => [⟨0, 8, .rw, .any⟩, ⟨32, 32, .rw, .rng 64 4294967295⟩]
  | .netFwqBase => [⟨12, 52, .rw, .any⟩]
  | .netFwqCtrl => [⟨0, 4, .rw, .rng 4 12⟩, ⟨4, 1, .rw, .any⟩, ⟨16, 16, .rw, .any⟩, ⟨32, 16, .rw, .any⟩]
  | .netMacAddr => [⟨0, 48, .rwl, .any⟩]
  | .netMcast => [⟨0, 48, .rw, .any⟩, ⟨63, 1, .rw, .any⟩]
  | .netMgmtCtrl => [⟨0, 1, .rwl, .any⟩, ⟨1, 1, .rw, .any⟩, ⟨2, 1, .rwl, .any⟩, ⟨3, 1, .rwl, .any⟩, ⟨4, 6, .rw, .rng 10 63⟩]
  | .netMgmtMdio => [⟨0, 16, .rw, .any⟩, ⟨16, 5, .rw, .any⟩, ⟨21, 5, .rw, .any⟩, ⟨26, 1, .rw, .any⟩, ⟨27, 1, .rw, .any⟩, 
   ⟨28, 1, .w1s, .any⟩, ⟨29, 1, .ro, .any⟩, ⟨32, 16, .rw, .any⟩]
  | .netMode => [⟨0, 2, .rwl, .any⟩]
  | .netParkCtrl => [⟨0, 1, .rw, .any⟩, ⟨1, 3, .rw, .oneOf [1, 2, 4]⟩, ⟨4, 7, .rw, .rng 5 45⟩, ⟨11, 7, .rw, .rng 50 100⟩, 
   ⟨18, 10, .rw, .rng 1 1000⟩, ⟨28, 12, .rw, .rng 1 4095⟩, ⟨40, 12, .rw, .rng 500 4000⟩]
  | .netPortCtrl => [⟨0, 1, .rw, .any⟩, ⟨1, 2, .rwl, .rng 0 2⟩, ⟨3, 1, .rw, .any⟩, ⟨4, 1, .rw, .any⟩, 
   ⟨8, 14, .rw, .rng 64 9238⟩, ⟨22, 12, .rw, .rng 0 4094⟩, ⟨34, 10, .rw, .rng 1 1000⟩, 
   ⟨44, 10, .rw, .rng 10 1000⟩]
  | .netPortStat => [⟨0, 1, .ro, .any⟩, ⟨1, 1, .ro, .any⟩, ⟨2, 1, .ro, .any⟩, ⟨3, 4, .ro, .any⟩, ⟨7, 3, .ro, .any⟩, 
   ⟨10, 3, .ro, .any⟩, ⟨32, 32, .ro, .any⟩]
  | .netTcMap => [⟨0, 3, .rw, .any⟩, ⟨3, 3, .rw, .any⟩, ⟨6, 3, .rw, .any⟩, ⟨9, 3, .rw, .any⟩, ⟨12, 3, .rw, .any⟩, 
   ⟨15, 3, .rw, .any⟩, ⟨18, 3, .rw, .any⟩, ⟨21, 3, .rw, .any⟩]
  | .netWakeBad => [⟨0, 32, .w1c, .any⟩]
  | .netWakeCtrl => [⟨0, 1, .rw, .any⟩]
  | .netWakePat => [⟨0, 1024, .rw, .any⟩, ⟨1024, 128, .rw, .any⟩, ⟨1152, 32, .rw, .any⟩, ⟨1184, 1, .rw, .any⟩]
  | .netWakeStat => [⟨0, 5, .ro, .any⟩, ⟨5, 1, .w1c, .any⟩]
  | .ptpCtrl => [⟨0, 1, .rwl, .any⟩, ⟨1, 1, .rwl, .any⟩, ⟨2, 1, .rwl, .any⟩, ⟨3, 2, .rwl, .rng 0 2⟩, 
   ⟨5, 4, .rwl, .rng 0 8⟩, ⟨9, 2, .rwl, .rng 0 2⟩, ⟨12, 8, .rwl, .rng 0 239⟩, ⟨20, 4, .rwl, .srng (-7) 0⟩, 
   ⟨24, 4, .rwl, .srng (-7) 0⟩, ⟨28, 4, .rwl, .srng (-3) 2⟩, ⟨32, 8, .rwl, .any⟩, ⟨40, 8, .rwl, .any⟩]
  | .ptpEps => [⟨0, 32, .ro, .any⟩, ⟨32, 32, .ro, .any⟩]
  | .ptpEpsCtrl => [⟨0, 16, .rwl, .any⟩, ⟨16, 20, .rwl, .rng 1 1000000⟩, ⟨36, 12, .rwl, .rng 10 1000⟩]
  | .ptpIncr => [⟨0, 32, .rw, .any⟩, ⟨32, 8, .rw, .any⟩]
  | .ptpLat => [⟨0, 16, .rwl, .any⟩, ⟨16, 16, .rwl, .any⟩]
  | .ptpPpsCtrl => [⟨0, 1, .rwl, .any⟩, ⟨1, 1, .rwl, .any⟩, ⟨2, 1, .rw, .any⟩, ⟨4, 10, .rw, .rng 1 1000⟩, 
   ⟨16, 16, .rwl, .rng 1 65535⟩]
  | .ptpPpsTs => [⟨0, 16, .ro, .any⟩, ⟨16, 32, .ro, .any⟩, ⟨48, 48, .ro, .any⟩]
  | .ptpServoCtrl => [⟨0, 1, .rw, .any⟩, ⟨4, 4, .rw, .rng 1 15⟩, ⟨8, 4, .rw, .rng 1 15⟩, ⟨12, 16, .rw, .rng 100 65535⟩, 
   ⟨28, 12, .rw, .rng 10 1000⟩]
  | .ptpStat => [⟨0, 3, .ro, .any⟩, ⟨3, 1, .ro, .any⟩, ⟨4, 4, .ro, .any⟩, ⟨8, 1, .w1c, .any⟩, ⟨16, 16, .rc, .any⟩, 
   ⟨32, 32, .ro, .any⟩]
  | .ptpTime => [⟨0, 16, .ro, .any⟩, ⟨16, 32, .ro, .any⟩, ⟨48, 48, .ro, .any⟩]
  | .ptpTodSet => [⟨0, 48, .wo, .any⟩]
  | .ptpWaitStat => [⟨0, 32, .rc, .any⟩, ⟨32, 32, .rc, .any⟩]
  | .stwData => [⟨0, 64, .ro, .any⟩]
  | .stwSel => [⟨0, 8, .rw, .any⟩, ⟨8, 8, .rw, .any⟩, ⟨16, 10, .rw, .any⟩, ⟨32, 32, .rw, .any⟩]
  | .stwStat => [⟨0, 3, .ro, .any⟩, ⟨3, 1, .ro, .any⟩, ⟨16, 11, .ro, .any⟩]
  | .tunCtrl => [⟨0, 14, .rwl, .mul 256 8192 256⟩, ⟨16, 3, .rwl, .rng 1 4⟩]
  | .tunFlushInfo => [⟨0, 24, .ro, .any⟩, ⟨24, 24, .ro, .any⟩]
  | .tunFlushLast => [⟨0, 32, .ro, .any⟩, ⟨32, 32, .ro, .any⟩]
  | .tunStat => [⟨0, 14, .ro, .any⟩, ⟨14, 1, .ro, .any⟩, ⟨15, 1, .ro, .any⟩, ⟨16, 1, .w1c, .any⟩, ⟨32, 21, .ro, .any⟩, 
   ⟨54, 10, .ro, .any⟩]
  | .tunUse => [⟨0, 24, .ro, .any⟩, ⟨24, 24, .ro, .any⟩]
  | .twnCfg => [⟨0, 14, .ro, .any⟩, ⟨14, 1, .ro, .any⟩, ⟨15, 1, .ro, .any⟩, ⟨16, 2, .ro, .any⟩, ⟨32, 14, .ro, .any⟩, 
   ⟨48, 14, .ro, .any⟩]
  | .twnDrop => [⟨0, 16, .rc, .any⟩, ⟨16, 16, .rc, .any⟩, ⟨32, 16, .rc, .any⟩, ⟨48, 16, .rc, .any⟩]
  | .twnEpoch => [⟨0, 64, .ro, .any⟩]
  | .twnFeat => [⟨0, 8, .ro, .any⟩, ⟨8, 8, .ro, .any⟩, ⟨16, 8, .ro, .any⟩]
  | .twnHbCtrl => [⟨0, 10, .rwl, .rng 50 1000⟩, ⟨16, 12, .rwl, .rng 100 4000⟩, ⟨32, 12, .rwl, .rng 100 4000⟩, 
   ⟨44, 12, .rwl, .rng 20 1000⟩]
  | .twnRetryCtrl => [⟨0, 4, .rw, .rng 1 15⟩, ⟨16, 10, .rw, .rng 2 1000⟩]
  | .twnStat => [⟨0, 2, .ro, .any⟩, ⟨2, 3, .ro, .any⟩, ⟨5, 1, .ro, .any⟩, ⟨6, 1, .ro, .any⟩, ⟨14, 18, .ro, .any⟩, 
   ⟨32, 15, .ro, .any⟩]
  | .twnTerm => [⟨0, 32, .ro, .any⟩]
  | .updRcvCmd => [⟨0, 16, .wo, .any⟩, ⟨32, 32, .wo, .any⟩]
  | .updRcvStat => [⟨0, 16, .ro, .any⟩, ⟨16, 1, .ro, .any⟩, ⟨24, 8, .ro, .any⟩]
  | .updStat => [⟨0, 3, .ro, .any⟩, ⟨3, 3, .ro, .any⟩, ⟨6, 1, .ro, .any⟩, ⟨8, 8, .ro, .any⟩, ⟨32, 32, .ro, .any⟩]
  | .updTrial => [⟨0, 17, .ro, .any⟩, ⟨17, 1, .ro, .any⟩, ⟨18, 1, .w1s, .any⟩]
  | .ywpCcCtrl => [⟨0, 16, .rw, .rng 1000 65535⟩, ⟨16, 8, .rw, .rng 1 255⟩, ⟨24, 6, .rw, .rng 1 63⟩, 
   ⟨32, 16, .rw, .rng 100 60000⟩, ⟨48, 8, .rw, .rng 1 64⟩]
  | .ywpCtrl => [⟨0, 1, .rwl, .any⟩, ⟨1, 1, .rw, .any⟩, ⟨2, 1, .rwl, .any⟩, ⟨8, 8, .rwl, .rng 1 2⟩, 
   ⟨16, 8, .rwl, .rng 1 2⟩, ⟨24, 3, .rw, .rng 0 6⟩]
  | .ywpDedupCtrl => [⟨0, 16, .rw, .rng 1000 60000⟩]
  | .ywpDedupStat => [⟨0, 22, .ro, .any⟩, ⟨32, 32, .rc, .any⟩]
  | .ywpDrop => [⟨0, 16, .rc, .any⟩, ⟨16, 16, .rc, .any⟩, ⟨32, 16, .rc, .any⟩, ⟨48, 16, .rc, .any⟩, ⟨64, 16, .rc, .any⟩, 
   ⟨80, 16, .rc, .any⟩, ⟨96, 16, .rc, .any⟩, ⟨112, 8, .rc, .any⟩, ⟨120, 8, .rc, .any⟩]
  | .ywpKeyStat => [⟨0, 32, .rc, .any⟩, ⟨32, 32, .rc, .any⟩]
  | .ywpPort => [⟨0, 16, .rwl, .rng 1 65535⟩]
  | .ywpSessCtrl => [⟨0, 10, .rw, .rng 1 1000⟩, ⟨16, 14, .rw, .rng 10 10000⟩, ⟨32, 16, .rw, .rng 50 10000⟩]
  | .ywpStat => [⟨0, 19, .ro, .any⟩, ⟨32, 17, .ro, .any⟩, ⟨49, 11, .ro, .any⟩]
  | .ywpTimerCtrl => [⟨0, 14, .rw, .rng 20 10000⟩, ⟨16, 4, .rw, .rng 1 15⟩, ⟨20, 4, .rw, .rng 1 15⟩, ⟨24, 5, .rw, .rng 1 31⟩, 
   ⟨29, 3, .rw, .rng 1 7⟩]

/-- LED_COST defaults of R766. -/
def ledCostDefaults : List Nat := [0x190000fa, 0x1e0005dc, 0x280012c0, 0x2d002580, 0x23004650, 0x9, 0x8, 0x4]

/-- LED_GRP_CTRL defaults of R766. -/
def ledGrpDefaults : List Nat := [0x67675f02, 0x50504601, 0x5f5f5502, 0x32322804, 0x46463c04, 0x73736404, 0x64645504, 0x64645500]

/-- LED_CURVE defaults of R766: TEMP_C is WARN_C - 35 + 5 i, FACTOR_PM and DEMAND_PM as listed. -/
def ledCurveDefault (g i : Nat) : Nat :=
  (ledGrpDefaults.getD g 0 / 256 % 256 + 5 * i - 35) % 256
    + (if i ≤ 4 then 1000 else if i = 5 then 900 else if i = 6 then 750 else 500) * 256
    + (300 + 100 * i) * 262144

/-- The reset value of every register: the index of R765 with the option area defaults of R766. Fields that another
piece of state holds (see `Machine.regView`) stand as 0 here. -/
def RegKey.reset (r : RegKey) : Nat :=
  let i := r.i
  let j := r.j
  match r.name with
  | .adCtrl => 0x6401
  | .adErr => 0
  | .adStat => 0
  | .cflBankExec => 0
  | .cflEccCtrl => 0x3
  | .cflEccStat => 0
  | .cflParamPtr => 0
  | .cflQBase => 0
  | .cflQCtrl => 0
  | .cflStat => 0x80
  | .cflWp => 0xffffffff
  | .cipDevPub => 0
  | .cipDrbgCtrl => 0x10000
  | .cipDrbgStat => 0
  | .cipErr => 0
  | .cipKpCmd => 0
  | .cipKpSlotStat => 0
  | .cipKpStat => 0
  | .cipKpTrk => 0
  | .cipKpUse => 0
  | .cipKpWrap => 0
  | .cipLaneCtrl => 0x1010
  | .cipRng => 0
  | .cipRngValid => 0
  | .cipSkCmd => 0
  | .cipSkData => 0
  | .cipSkSel => 0
  | .cipSkStat => 0
  | .clkStat => 0
  | .drmChStat => 0
  | .drmCtrl => 0x4
  | .drtBusCfg => 0x3c0a8ca0ea60d2f0
  | .drtBusCtrl => 0
  | .drtBusStat => 0
  | .drtChCfg => 0x321901f427102
  | .drtChCtrl => 0
  | .drtChLimit => 0x3e803e803e807d0
  | .drtChPwm => 0xf2820
  | .drtChStart => 0x1407d001f40028
  | .drtChStat => 0
  | .drtCurve => if j = 15 then 1000 + 9000 * 1024 else 66 * j + 600 * j * 1024
  | .drtMotor => 0x1e6407d000c801f4
  | .drtScale => 0x131342c2
  | .evtAccess => if i = 0 then 1 else 0
  | .evtCursor => 0
  | .evtNonce => 0
  | .evtStat => 0
  | .evtTime => 0
  | .evtWindow => 0
  | .glbGpio => 0xf0000
  | .glbResetCtrl => 0
  | .glbResetStat => 0
  | .glbSetupLock => 0
  | .glbStart => 0
  | .glbStrap => 0
  | .glbSupEntry => 0
  | .glbSupRelease => 0x1
  | .hqAdmCoal => 0x1
  | .hqAdmCqBase => 0
  | .hqAdmCtrl => 0
  | .hqAdmKick => 0
  | .hqAdmSqBase => 0
  | .hqAdmStat => 0
  | .hqCoal => 0x1
  | .hqCqBase => 0
  | .hqDbBase => 0
  | .hqFuncCtrl => 0x3e800
  | .hqFuncStat => 0
  | .hqPollCtrl => 0x40
  | .hqPollStat => 0
  | .hqQuota => if i = 0 then 0x40 else 0
  | .hqRingCtrl => 0
  | .hqRingStat => 0
  | .hqSqBase => 0
  | .hqSumAddr => 0
  | .kveIdxCtrl => 0x4b003208
  | .kveIdxStat => 0x100000
  | .kveSnapCtrl => 0x1388
  | .kveStageCtrl => 0x258
  | .ledBucket => 0x3e80000000000000
  | .ledCap => 0
  | .ledCost => ledCostDefaults.getD i 0
  | .ledCtrl => 0x80a
  | .ledCurve => ledCurveDefault i j
  | .ledGrpCtrl => ledGrpDefaults.getD i 0
  | .ledI3cCtrl => 0x64186a
  | .ledLimit => 0
  | .ledSens => 0xe0
  | .ledStat => 0
  | .ledTemp => 0
  | .ledThermCtrl => 0x12c05064
  | .ledThermStat => 0
  | .medChStat => 0
  | .medEpochStat => 0
  | .medGeom => 0
  | .medLunCtrl => 0
  | .medNandCfg => 0x2018991
  | .medPhyCtrl => 0x8
  | .medRawAddr => 0
  | .medRawCtrl => 0
  | .medRawDest => 0
  | .medRawStat => 0
  | .medRrTable => 0
  | .medScrubCtrl => 0x3c1801
  | .medSpaceCtrl => 0x50a1e64
  | .medSpaceStat => 0
  | .medSpareCtrl => 0xa14
  | .medSpareStat => 0
  | .medSpgCtrl => 0x326401
  | .medSpgStat => 0
  | .medSuspCtrl => 0x810012c
  | .medTerCtrl => 0x2007d0
  | .medTerStat => 0
  | .medVerifyCtrl => 0x328
  | .medWearCtrl => 0xc80bb8
  | .netAddr => 0
  | .netCnt => 0
  | .netCntHalf => 0
  | .netCrossBase => 0
  | .netCrossCtrl => 0x10
  | .netCrossCycle => 0xf4240
  | .netCrossList => 0
  | .netFwqBase => 0
  | .netFwqCtrl => 0x8
  | .netMacAddr => 0
  | .netMcast => 0
  | .netMgmtCtrl => 0x1ee
  | .netMgmtMdio => 0
  | .netMode => 0x1
  | .netParkCtrl => 0x5dc04002a8143
  | .netPortCtrl => 0x001F40C800241600 + (if i = 8 then 1 else 0)
  | .netPortStat => 0
  | .netTcMap => 0xfac688
  | .netWakeBad => 0
  | .netWakeCtrl => 0
  | .netWakePat => 0
  | .netWakeStat => 0
  | .ptpCtrl => 0x80800cc00004
  | .ptpEps => 0xffffffffffffffff
  | .ptpEpsCtrl => 0x3e8000c800c8
  | .ptpIncr => 0x1aaaaaaab
  | .ptpLat => 0
  | .ptpPpsCtrl => 0x640640
  | .ptpPpsTs => 0
  | .ptpServoCtrl => 0x1f403e8631
  | .ptpStat => 0
  | .ptpTime => 0
  | .ptpTodSet => 0
  | .ptpWaitStat => 0
  | .stwData => 0
  | .stwSel => 0
  | .stwStat => 0
  | .tunCtrl => 0x10800
  | .tunFlushInfo => 0
  | .tunFlushLast => 0
  | .tunStat => 0
  | .tunUse => 0
  | .twnCfg => 0
  | .twnDrop => 0
  | .twnEpoch => 0
  | .twnFeat => 0
  | .twnHbCtrl => 0x3212c012c0064
  | .twnRetryCtrl => 0xa0008
  | .twnStat => 0
  | .twnTerm => 0
  | .updRcvCmd => 0
  | .updRcvStat => 0xff000000
  | .updStat => 0
  | .updTrial => 0
  | .ywpCcCtrl => 0x8271010cd2710
  | .ywpCtrl => 0x3020106
  | .ywpDedupCtrl => 0x2710
  | .ywpDedupStat => 0
  | .ywpDrop => 0
  | .ywpKeyStat => 0
  | .ywpPort => 0xadde
  | .ywpSessCtrl => 0x1f403e80064
  | .ywpStat => 0
  | .ywpTimerCtrl => 0x44380064

def Fld.adCtrl_scrubEn : Fld := ⟨.adCtrl, 0, 1⟩
def Fld.adCtrl_scrubMs : Fld := ⟨.adCtrl, 8, 14⟩
def Fld.adErr_parityErrs : Fld := ⟨.adErr, 0, 32⟩
def Fld.adErr_falseHits : Fld := ⟨.adErr, 32, 32⟩
def Fld.adStat_rowsUsed : Fld := ⟨.adStat, 0, 21⟩
def Fld.adStat_rowsPeak : Fld := ⟨.adStat, 21, 21⟩
def Fld.adStat_chainPeak : Fld := ⟨.adStat, 42, 16⟩
def Fld.cflBankExec_a : Fld := ⟨.cflBankExec, 0, 1⟩
def Fld.cflBankExec_b : Fld := ⟨.cflBankExec, 1, 1⟩
def Fld.cflBankExec_setRefused : Fld := ⟨.cflBankExec, 2, 1⟩
def Fld.cflEccCtrl_warnBits : Fld := ⟨.cflEccCtrl, 0, 3⟩
def Fld.cflEccStat_warn : Fld := ⟨.cflEccStat, 0, 1⟩
def Fld.cflEccStat_uncorr : Fld := ⟨.cflEccStat, 1, 1⟩
def Fld.cflEccStat_array : Fld := ⟨.cflEccStat, 2, 2⟩
def Fld.cflEccStat_addr : Fld := ⟨.cflEccStat, 32, 24⟩
def Fld.cflEccStat_warns : Fld := ⟨.cflEccStat, 64, 32⟩
def Fld.cflParamPtr_ptr : Fld := ⟨.cflParamPtr, 0, 5⟩
def Fld.cflQBase_addr : Fld := ⟨.cflQBase, 10, 54⟩
def Fld.cflQCtrl_en : Fld := ⟨.cflQCtrl, 0, 1⟩
def Fld.cflQCtrl_tail : Fld := ⟨.cflQCtrl, 8, 6⟩
def Fld.cflQCtrl_head : Fld := ⟨.cflQCtrl, 16, 6⟩
def Fld.cflStat_ready : Fld := ⟨.cflStat, 0, 1⟩
def Fld.cflStat_busy : Fld := ⟨.cflStat, 1, 3⟩
def Fld.cflStat_suspended : Fld := ⟨.cflStat, 4, 3⟩
def Fld.cflStat_romMode : Fld := ⟨.cflStat, 7, 1⟩
def Fld.cflStat_optCopy : Fld := ⟨.cflStat, 8, 1⟩
def Fld.cflStat_optDegraded : Fld := ⟨.cflStat, 9, 1⟩
def Fld.cflStat_bootBank : Fld := ⟨.cflStat, 10, 1⟩
def Fld.cflWp_wp : Fld := ⟨.cflWp, 0, 32⟩
def Fld.cipDevPub_key : Fld := ⟨.cipDevPub, 0, 768⟩
def Fld.cipDrbgCtrl_reseedReqs : Fld := ⟨.cipDrbgCtrl, 0, 24⟩
def Fld.cipDrbgCtrl_prEn : Fld := ⟨.cipDrbgCtrl, 24, 1⟩
def Fld.cipDrbgCtrl_restart : Fld := ⟨.cipDrbgCtrl, 25, 1⟩
def Fld.cipDrbgStat_ready : Fld := ⟨.cipDrbgStat, 0, 1⟩
def Fld.cipDrbgStat_failed : Fld := ⟨.cipDrbgStat, 1, 1⟩
def Fld.cipDrbgStat_fails : Fld := ⟨.cipDrbgStat, 8, 8⟩
def Fld.cipDrbgStat_reseeds : Fld := ⟨.cipDrbgStat, 32, 32⟩
def Fld.cipErr_isolation : Fld := ⟨.cipErr, 0, 16⟩
def Fld.cipErr_loadRefused : Fld := ⟨.cipErr, 16, 16⟩
def Fld.cipErr_xtsLen : Fld := ⟨.cipErr, 32, 16⟩
def Fld.cipErr_gcmLen : Fld := ⟨.cipErr, 48, 16⟩
def Fld.cipKpCmd_op : Fld := ⟨.cipKpCmd, 0, 3⟩
def Fld.cipKpCmd_slot : Fld := ⟨.cipKpCmd, 8, 6⟩
def Fld.cipKpSlotStat_loaded : Fld := ⟨.cipKpSlotStat, 0, 1⟩
def Fld.cipKpSlotStat_source : Fld := ⟨.cipKpSlotStat, 1, 1⟩
def Fld.cipKpSlotStat_bound : Fld := ⟨.cipKpSlotStat, 2, 1⟩
def Fld.cipKpSlotStat_keyspaces : Fld := ⟨.cipKpSlotStat, 8, 17⟩
def Fld.cipKpSlotStat_kcv : Fld := ⟨.cipKpSlotStat, 32, 32⟩
def Fld.cipKpStat_busy : Fld := ⟨.cipKpStat, 0, 1⟩
def Fld.cipKpStat_trkLoaded : Fld := ⟨.cipKpStat, 1, 1⟩
def Fld.cipKpStat_done : Fld := ⟨.cipKpStat, 2, 1⟩
def Fld.cipKpStat_result : Fld := ⟨.cipKpStat, 4, 4⟩
def Fld.cipKpStat_lastOp : Fld := ⟨.cipKpStat, 8, 3⟩
def Fld.cipKpStat_trkKcv : Fld := ⟨.cipKpStat, 32, 32⟩
def Fld.cipKpTrk_trk : Fld := ⟨.cipKpTrk, 0, 256⟩
def Fld.cipKpUse_enc : Fld := ⟨.cipKpUse, 0, 64⟩
def Fld.cipKpUse_dec : Fld := ⟨.cipKpUse, 64, 64⟩
def Fld.cipKpWrap_wrap : Fld := ⟨.cipKpWrap, 0, 576⟩
def Fld.cipLaneCtrl_xtsMin : Fld := ⟨.cipLaneCtrl, 0, 6⟩
def Fld.cipLaneCtrl_gcmMin : Fld := ⟨.cipLaneCtrl, 8, 6⟩
def Fld.cipRng_data : Fld := ⟨.cipRng, 0, 64⟩
def Fld.cipRngValid_valid : Fld := ⟨.cipRngValid, 0, 1⟩
def Fld.cipSkCmd_op : Fld := ⟨.cipSkCmd, 0, 2⟩
def Fld.cipSkData_key : Fld := ⟨.cipSkData, 0, 256⟩
def Fld.cipSkData_ivBase : Fld := ⟨.cipSkData, 256, 96⟩
def Fld.cipSkSel_session : Fld := ⟨.cipSkSel, 0, 18⟩
def Fld.cipSkSel_dir : Fld := ⟨.cipSkSel, 18, 1⟩
def Fld.cipSkSel_pos : Fld := ⟨.cipSkSel, 19, 2⟩
def Fld.cipSkSel_gen : Fld := ⟨.cipSkSel, 24, 8⟩
def Fld.cipSkStat_busy : Fld := ⟨.cipSkStat, 0, 1⟩
def Fld.cipSkStat_result : Fld := ⟨.cipSkStat, 1, 3⟩
def Fld.clkStat_rootLock : Fld := ⟨.clkStat, 0, 1⟩
def Fld.clkStat_refLost : Fld := ⟨.clkStat, 1, 1⟩
def Fld.clkStat_domainLock : Fld := ⟨.clkStat, 2, 18⟩
def Fld.drmChStat_rate : Fld := ⟨.drmChStat, 0, 2⟩
def Fld.drmChStat_trained : Fld := ⟨.drmChStat, 2, 1⟩
def Fld.drmChStat_corrected : Fld := ⟨.drmChStat, 16, 32⟩
def Fld.drmChStat_uncorr : Fld := ⟨.drmChStat, 48, 16⟩
def Fld.drmCtrl_rate : Fld := ⟨.drmCtrl, 0, 2⟩
def Fld.drmCtrl_stepDownEn : Fld := ⟨.drmCtrl, 2, 1⟩
def Fld.drtBusCfg_vChopMv : Fld := ⟨.drtBusCfg, 0, 16⟩
def Fld.drtBusCfg_vAbsMv : Fld := ⟨.drtBusCfg, 16, 16⟩
def Fld.drtBusCfg_vUvMv : Fld := ⟨.drtBusCfg, 32, 16⟩
def Fld.drtBusCfg_chopHyst : Fld := ⟨.drtBusCfg, 48, 8⟩
def Fld.drtBusCfg_rChop : Fld := ⟨.drtBusCfg, 56, 8⟩
def Fld.drtBusCtrl_clearChop : Fld := ⟨.drtBusCtrl, 0, 1⟩
def Fld.drtBusCtrl_pfRun : Fld := ⟨.drtBusCtrl, 1, 1⟩
def Fld.drtBusStat_vbusMv : Fld := ⟨.drtBusStat, 0, 16⟩
def Fld.drtBusStat_chopOn : Fld := ⟨.drtBusStat, 16, 1⟩
def Fld.drtBusStat_chopFault : Fld := ⟨.drtBusStat, 17, 1⟩
def Fld.drtBusStat_ovCoast : Fld := ⟨.drtBusStat, 18, 1⟩
def Fld.drtBusStat_uv : Fld := ⟨.drtBusStat, 19, 1⟩
def Fld.drtBusStat_drvFault : Fld := ⟨.drtBusStat, 20, 1⟩
def Fld.drtBusStat_chopMa : Fld := ⟨.drtBusStat, 32, 16⟩
def Fld.drtChCfg_polePairs : Fld := ⟨.drtChCfg, 0, 4⟩
def Fld.drtChCfg_maxRpm : Fld := ⟨.drtChCfg, 4, 15⟩
def Fld.drtChCfg_catchRpm : Fld := ⟨.drtChCfg, 19, 15⟩
def Fld.drtChCfg_donPm : Fld := ⟨.drtChCfg, 34, 10⟩
def Fld.drtChCfg_hystPm : Fld := ⟨.drtChCfg, 44, 7⟩
def Fld.drtChCtrl_en : Fld := ⟨.drtChCtrl, 0, 1⟩
def Fld.drtChCtrl_mode : Fld := ⟨.drtChCtrl, 1, 1⟩
def Fld.drtChCtrl_reverse : Fld := ⟨.drtChCtrl, 2, 1⟩
def Fld.drtChCtrl_clear : Fld := ⟨.drtChCtrl, 3, 1⟩
def Fld.drtChCtrl_curveApply : Fld := ⟨.drtChCtrl, 4, 1⟩
def Fld.drtChCtrl_fixPm : Fld := ⟨.drtChCtrl, 8, 10⟩
def Fld.drtChLimit_iLimitMa : Fld := ⟨.drtChLimit, 0, 16⟩
def Fld.drtChLimit_brakeMa : Fld := ⟨.drtChLimit, 16, 16⟩
def Fld.drtChLimit_accelRpmS : Fld := ⟨.drtChLimit, 32, 16⟩
def Fld.drtChLimit_decelRpmS : Fld := ⟨.drtChLimit, 48, 16⟩
def Fld.drtChPwm_pwmKhz : Fld := ⟨.drtChPwm, 0, 7⟩
def Fld.drtChPwm_dead5ns : Fld := ⟨.drtChPwm, 8, 8⟩
def Fld.drtChPwm_softDeg : Fld := ⟨.drtChPwm, 16, 8⟩
def Fld.drtChPwm_advanceDeg : Fld := ⟨.drtChPwm, 24, 6⟩
def Fld.drtChStart_pulseUs : Fld := ⟨.drtChStart, 0, 8⟩
def Fld.drtChStart_handoffRpm : Fld := ⟨.drtChStart, 16, 16⟩
def Fld.drtChStart_rampRpmS : Fld := ⟨.drtChStart, 32, 16⟩
def Fld.drtChStart_startLimit : Fld := ⟨.drtChStart, 48, 8⟩
def Fld.drtChStat_state : Fld := ⟨.drtChStat, 0, 4⟩
def Fld.drtChStat_limited : Fld := ⟨.drtChStat, 4, 1⟩
def Fld.drtChStat_shortOnly : Fld := ⟨.drtChStat, 5, 1⟩
def Fld.drtChStat_curveErr : Fld := ⟨.drtChStat, 6, 1⟩
def Fld.drtChStat_dirSeen : Fld := ⟨.drtChStat, 7, 1⟩
def Fld.drtChStat_restarts : Fld := ⟨.drtChStat, 8, 2⟩
def Fld.drtChStat_faultCause : Fld := ⟨.drtChStat, 10, 2⟩
def Fld.drtChStat_rpm : Fld := ⟨.drtChStat, 16, 15⟩
def Fld.drtChStat_targetRpm : Fld := ⟨.drtChStat, 32, 15⟩
def Fld.drtChStat_powerDw : Fld := ⟨.drtChStat, 48, 16⟩
def Fld.drtCurve_demandPm : Fld := ⟨.drtCurve, 0, 10⟩
def Fld.drtCurve_rpm : Fld := ⟨.drtCurve, 10, 15⟩
def Fld.drtMotor_rMohm : Fld := ⟨.drtMotor, 0, 16⟩
def Fld.drtMotor_lUh : Fld := ⟨.drtMotor, 16, 16⟩
def Fld.drtMotor_ke : Fld := ⟨.drtMotor, 32, 16⟩
def Fld.drtMotor_jumpPm : Fld := ⟨.drtMotor, 48, 8⟩
def Fld.drtMotor_bemfTolPct : Fld := ⟨.drtMotor, 56, 8⟩
def Fld.drtScale_vUvLsb : Fld := ⟨.drtScale, 0, 16⟩
def Fld.drtScale_iUaLsb : Fld := ⟨.drtScale, 16, 16⟩
def Fld.evtAccess_read : Fld := ⟨.evtAccess, 0, 32⟩
def Fld.evtCursor_index : Fld := ⟨.evtCursor, 0, 15⟩
def Fld.evtCursor_auto : Fld := ⟨.evtCursor, 15, 1⟩
def Fld.evtNonce_nonce : Fld := ⟨.evtNonce, 0, 256⟩
def Fld.evtStat_count : Fld := ⟨.evtStat, 0, 15⟩
def Fld.evtStat_full : Fld := ⟨.evtStat, 15, 1⟩
def Fld.evtStat_frontUsed : Fld := ⟨.evtStat, 16, 9⟩
def Fld.evtStat_clearing : Fld := ⟨.evtStat, 25, 1⟩
def Fld.evtStat_denied : Fld := ⟨.evtStat, 26, 1⟩
def Fld.evtStat_lost : Fld := ⟨.evtStat, 32, 32⟩
def Fld.evtTime_opS : Fld := ⟨.evtTime, 0, 32⟩
def Fld.evtTime_cycle : Fld := ⟨.evtTime, 32, 32⟩
def Fld.evtTime_hours : Fld := ⟨.evtTime, 64, 21⟩
def Fld.evtWindow_record : Fld := ⟨.evtWindow, 0, 512⟩
def Fld.glbGpio_out : Fld := ⟨.glbGpio, 0, 16⟩
def Fld.glbGpio_dir : Fld := ⟨.glbGpio, 16, 16⟩
def Fld.glbGpio_in : Fld := ⟨.glbGpio, 32, 16⟩
def Fld.glbResetCtrl_cold : Fld := ⟨.glbResetCtrl, 0, 1⟩
def Fld.glbResetStat_type : Fld := ⟨.glbResetStat, 0, 2⟩
def Fld.glbResetStat_cause : Fld := ⟨.glbResetStat, 2, 4⟩
def Fld.glbSetupLock_lock : Fld := ⟨.glbSetupLock, 0, 1⟩
def Fld.glbSetupLock_denied : Fld := ⟨.glbSetupLock, 16, 16⟩
def Fld.glbStart_stage : Fld := ⟨.glbStart, 0, 4⟩
def Fld.glbStart_failStage : Fld := ⟨.glbStart, 4, 4⟩
def Fld.glbStart_ready : Fld := ⟨.glbStart, 8, 1⟩
def Fld.glbStart_elapsedMs : Fld := ⟨.glbStart, 32, 32⟩
def Fld.glbStrap_strap : Fld := ⟨.glbStrap, 0, 4⟩
def Fld.glbStrap_test : Fld := ⟨.glbStrap, 4, 1⟩
def Fld.glbSupEntry_addr : Fld := ⟨.glbSupEntry, 2, 62⟩
def Fld.glbSupRelease_core0 : Fld := ⟨.glbSupRelease, 0, 1⟩
def Fld.glbSupRelease_release : Fld := ⟨.glbSupRelease, 1, 7⟩
def Fld.hqAdmCoal_count : Fld := ⟨.hqAdmCoal, 0, 9⟩
def Fld.hqAdmCoal_timeUs : Fld := ⟨.hqAdmCoal, 16, 7⟩
def Fld.hqAdmCqBase_addr : Fld := ⟨.hqAdmCqBase, 12, 52⟩
def Fld.hqAdmCtrl_sizeLog2 : Fld := ⟨.hqAdmCtrl, 0, 5⟩
def Fld.hqAdmCtrl_enable : Fld := ⟨.hqAdmCtrl, 5, 1⟩
def Fld.hqAdmCtrl_irqEn : Fld := ⟨.hqAdmCtrl, 6, 1⟩
def Fld.hqAdmCtrl_reset : Fld := ⟨.hqAdmCtrl, 7, 1⟩
def Fld.hqAdmKick_kick : Fld := ⟨.hqAdmKick, 0, 1⟩
def Fld.hqAdmSqBase_addr : Fld := ⟨.hqAdmSqBase, 12, 52⟩
def Fld.hqAdmStat_state : Fld := ⟨.hqAdmStat, 0, 2⟩
def Fld.hqAdmStat_cause : Fld := ⟨.hqAdmStat, 2, 2⟩
def Fld.hqAdmStat_setupErr : Fld := ⟨.hqAdmStat, 4, 3⟩
def Fld.hqAdmStat_gen : Fld := ⟨.hqAdmStat, 8, 8⟩
def Fld.hqAdmStat_sqHead : Fld := ⟨.hqAdmStat, 16, 16⟩
def Fld.hqAdmStat_cqTail : Fld := ⟨.hqAdmStat, 32, 16⟩
def Fld.hqAdmStat_outstanding : Fld := ⟨.hqAdmStat, 48, 16⟩
def Fld.hqCoal_count : Fld := ⟨.hqCoal, 0, 9⟩
def Fld.hqCoal_timeUs : Fld := ⟨.hqCoal, 16, 7⟩
def Fld.hqCqBase_addr : Fld := ⟨.hqCqBase, 12, 52⟩
def Fld.hqDbBase_addr : Fld := ⟨.hqDbBase, 12, 52⟩
def Fld.hqFuncCtrl_enable : Fld := ⟨.hqFuncCtrl, 0, 1⟩
def Fld.hqFuncCtrl_pollMode : Fld := ⟨.hqFuncCtrl, 1, 1⟩
def Fld.hqFuncCtrl_pollMaxUs : Fld := ⟨.hqFuncCtrl, 8, 10⟩
def Fld.hqFuncStat_quota : Fld := ⟨.hqFuncStat, 0, 7⟩
def Fld.hqFuncStat_active : Fld := ⟨.hqFuncStat, 7, 7⟩
def Fld.hqFuncStat_swapUr : Fld := ⟨.hqFuncStat, 16, 1⟩
def Fld.hqFuncStat_swapErr : Fld := ⟨.hqFuncStat, 17, 1⟩
def Fld.hqPollCtrl_budgetM : Fld := ⟨.hqPollCtrl, 0, 7⟩
def Fld.hqPollStat_late : Fld := ⟨.hqPollStat, 0, 32⟩
def Fld.hqQuota_rings : Fld := ⟨.hqQuota, 0, 7⟩
def Fld.hqRingCtrl_sizeLog2 : Fld := ⟨.hqRingCtrl, 0, 5⟩
def Fld.hqRingCtrl_enable : Fld := ⟨.hqRingCtrl, 5, 1⟩
def Fld.hqRingCtrl_irqEn : Fld := ⟨.hqRingCtrl, 6, 1⟩
def Fld.hqRingCtrl_reset : Fld := ⟨.hqRingCtrl, 7, 1⟩
def Fld.hqRingStat_state : Fld := ⟨.hqRingStat, 0, 2⟩
def Fld.hqRingStat_cause : Fld := ⟨.hqRingStat, 2, 2⟩
def Fld.hqRingStat_setupErr : Fld := ⟨.hqRingStat, 4, 3⟩
def Fld.hqRingStat_gen : Fld := ⟨.hqRingStat, 8, 8⟩
def Fld.hqRingStat_sqHead : Fld := ⟨.hqRingStat, 16, 16⟩
def Fld.hqRingStat_cqTail : Fld := ⟨.hqRingStat, 32, 16⟩
def Fld.hqRingStat_outstanding : Fld := ⟨.hqRingStat, 48, 16⟩
def Fld.hqSqBase_addr : Fld := ⟨.hqSqBase, 12, 52⟩
def Fld.hqSumAddr_addr : Fld := ⟨.hqSumAddr, 3, 61⟩
def Fld.kveIdxCtrl_wbChanges : Fld := ⟨.kveIdxCtrl, 0, 7⟩
def Fld.kveIdxCtrl_wbAgeMs : Fld := ⟨.kveIdxCtrl, 8, 14⟩
def Fld.kveIdxCtrl_wbUrgentPct : Fld := ⟨.kveIdxCtrl, 24, 7⟩
def Fld.kveIdxStat_dirEntries : Fld := ⟨.kveIdxStat, 0, 33⟩
def Fld.kveIdxStat_falseHits : Fld := ⟨.kveIdxStat, 33, 16⟩
def Fld.kveIdxStat_ovfLeaves : Fld := ⟨.kveIdxStat, 49, 15⟩
def Fld.kveSnapCtrl_retainMs : Fld := ⟨.kveSnapCtrl, 0, 16⟩
def Fld.kveSnapCtrl_leases : Fld := ⟨.kveSnapCtrl, 16, 11⟩
def Fld.kveStageCtrl_idleS : Fld := ⟨.kveStageCtrl, 0, 17⟩
def Fld.kveStageCtrl_open : Fld := ⟨.kveStageCtrl, 19, 13⟩
def Fld.ledBucket_tokens : Fld := ⟨.ledBucket, 0, 32⟩
def Fld.ledBucket_effCapMw : Fld := ⟨.ledBucket, 32, 20⟩
def Fld.ledBucket_factorPm : Fld := ⟨.ledBucket, 52, 10⟩
def Fld.ledCap_flashMw : Fld := ⟨.ledCap, 0, 20⟩
def Fld.ledCap_ctrlMw : Fld := ⟨.ledCap, 20, 20⟩
def Fld.ledCap_enclMw : Fld := ⟨.ledCap, 40, 20⟩
def Fld.ledCost_energy : Fld := ⟨.ledCost, 0, 24⟩
def Fld.ledCost_peakMa : Fld := ⟨.ledCost, 24, 16⟩
def Fld.ledCtrl_burstWin : Fld := ⟨.ledCtrl, 0, 6⟩
def Fld.ledCtrl_holdWin : Fld := ⟨.ledCtrl, 8, 6⟩
def Fld.ledCurve_tempC : Fld := ⟨.ledCurve, 0, 8⟩
def Fld.ledCurve_factorPm : Fld := ⟨.ledCurve, 8, 10⟩
def Fld.ledCurve_demandPm : Fld := ⟨.ledCurve, 18, 10⟩
def Fld.ledGrpCtrl_capSel : Fld := ⟨.ledGrpCtrl, 0, 3⟩
def Fld.ledGrpCtrl_warnC : Fld := ⟨.ledGrpCtrl, 8, 8⟩
def Fld.ledGrpCtrl_tripC : Fld := ⟨.ledGrpCtrl, 16, 8⟩
def Fld.ledGrpCtrl_failC : Fld := ⟨.ledGrpCtrl, 24, 8⟩
def Fld.ledI3cCtrl_sclKhz : Fld := ⟨.ledI3cCtrl, 0, 14⟩
def Fld.ledI3cCtrl_i2cKhz : Fld := ⟨.ledI3cCtrl, 14, 10⟩
def Fld.ledLimit_peakMa : Fld := ⟨.ledLimit, 0, 16⟩
def Fld.ledLimit_ctrlBaseMw : Fld := ⟨.ledLimit, 16, 20⟩
def Fld.ledLimit_enclBaseMw : Fld := ⟨.ledLimit, 36, 20⟩
def Fld.ledSens_en : Fld := ⟨.ledSens, 0, 1⟩
def Fld.ledSens_kind : Fld := ⟨.ledSens, 1, 1⟩
def Fld.ledSens_bus : Fld := ⟨.ledSens, 2, 1⟩
def Fld.ledSens_format : Fld := ⟨.ledSens, 3, 1⟩
def Fld.ledSens_bigEnd : Fld := ⟨.ledSens, 4, 1⟩
def Fld.ledSens_group : Fld := ⟨.ledSens, 5, 3⟩
def Fld.ledSens_addr : Fld := ⟨.ledSens, 8, 7⟩
def Fld.ledSens_reg : Fld := ⟨.ledSens, 16, 8⟩
def Fld.ledSens_offset : Fld := ⟨.ledSens, 24, 8⟩
def Fld.ledSens_pid : Fld := ⟨.ledSens, 64, 48⟩
def Fld.ledStat_spargeRaised : Fld := ⟨.ledStat, 0, 1⟩
def Fld.ledStat_bypass : Fld := ⟨.ledStat, 1, 1⟩
def Fld.ledStat_reserved : Fld := ⟨.ledStat, 2, 1⟩
def Fld.ledStat_holds : Fld := ⟨.ledStat, 16, 16⟩
def Fld.ledTemp_temp : Fld := ⟨.ledTemp, 0, 16⟩
def Fld.ledTemp_valid : Fld := ⟨.ledTemp, 16, 1⟩
def Fld.ledThermCtrl_periodMs : Fld := ⟨.ledThermCtrl, 0, 10⟩
def Fld.ledThermCtrl_risePm : Fld := ⟨.ledThermCtrl, 10, 10⟩
def Fld.ledThermCtrl_demandMinPm : Fld := ⟨.ledThermCtrl, 20, 10⟩
def Fld.ledThermStat_warn : Fld := ⟨.ledThermStat, 0, 8⟩
def Fld.ledThermStat_trip : Fld := ⟨.ledThermStat, 8, 8⟩
def Fld.ledThermStat_fail : Fld := ⟨.ledThermStat, 16, 8⟩
def Fld.ledThermStat_demandPm : Fld := ⟨.ledThermStat, 24, 10⟩
def Fld.ledThermStat_critLast : Fld := ⟨.ledThermStat, 34, 1⟩
def Fld.medChStat_luns : Fld := ⟨.medChStat, 0, 8⟩
def Fld.medChStat_rate : Fld := ⟨.medChStat, 8, 3⟩
def Fld.medChStat_unusable : Fld := ⟨.medChStat, 11, 1⟩
def Fld.medChStat_excluded : Fld := ⟨.medChStat, 12, 8⟩
def Fld.medChStat_foreign : Fld := ⟨.medChStat, 20, 8⟩
def Fld.medEpochStat_epoch : Fld := ⟨.medEpochStat, 0, 16⟩
def Fld.medEpochStat_oldest : Fld := ⟨.medEpochStat, 16, 16⟩
def Fld.medEpochStat_oldestAgeUs : Fld := ⟨.medEpochStat, 32, 16⟩
def Fld.medEpochStat_retiring : Fld := ⟨.medEpochStat, 48, 16⟩
def Fld.medGeom_page : Fld := ⟨.medGeom, 0, 1⟩
def Fld.medGeom_planes : Fld := ⟨.medGeom, 1, 3⟩
def Fld.medGeom_cell : Fld := ⟨.medGeom, 4, 2⟩
def Fld.medGeom_cwBytes : Fld := ⟨.medGeom, 16, 16⟩
def Fld.medGeom_blocks : Fld := ⟨.medGeom, 32, 18⟩
def Fld.medGeom_pages : Fld := ⟨.medGeom, 50, 13⟩
def Fld.medLunCtrl_lun : Fld := ⟨.medLunCtrl, 0, 13⟩
def Fld.medLunCtrl_release : Fld := ⟨.medLunCtrl, 13, 1⟩
def Fld.medNandCfg_slcFeat : Fld := ⟨.medNandCfg, 0, 8⟩
def Fld.medNandCfg_rrFeat : Fld := ⟨.medNandCfg, 8, 8⟩
def Fld.medNandCfg_rrTables : Fld := ⟨.medNandCfg, 16, 4⟩
def Fld.medNandCfg_softEn : Fld := ⟨.medNandCfg, 20, 1⟩
def Fld.medNandCfg_softStep : Fld := ⟨.medNandCfg, 24, 4⟩
def Fld.medPhyCtrl_rate : Fld := ⟨.medPhyCtrl, 0, 3⟩
def Fld.medPhyCtrl_stepDownEn : Fld := ⟨.medPhyCtrl, 3, 1⟩
def Fld.medRawAddr_addr : Fld := ⟨.medRawAddr, 0, 58⟩
def Fld.medRawCtrl_go : Fld := ⟨.medRawCtrl, 0, 1⟩
def Fld.medRawCtrl_mode : Fld := ⟨.medRawCtrl, 1, 1⟩
def Fld.medRawDest_addr : Fld := ⟨.medRawDest, 4, 60⟩
def Fld.medRawStat_status : Fld := ⟨.medRawStat, 0, 16⟩
def Fld.medRawStat_busy : Fld := ⟨.medRawStat, 16, 1⟩
def Fld.medRawStat_erased : Fld := ⟨.medRawStat, 17, 1⟩
def Fld.medRawStat_step : Fld := ⟨.medRawStat, 18, 3⟩
def Fld.medRawStat_table : Fld := ⟨.medRawStat, 21, 4⟩
def Fld.medRawStat_corrected : Fld := ⟨.medRawStat, 32, 16⟩
def Fld.medRrTable_ofs0 : Fld := ⟨.medRrTable, 0, 8⟩
def Fld.medRrTable_ofs1 : Fld := ⟨.medRrTable, 8, 8⟩
def Fld.medRrTable_ofs2 : Fld := ⟨.medRrTable, 16, 8⟩
def Fld.medRrTable_ofs3 : Fld := ⟨.medRrTable, 24, 8⟩
def Fld.medRrTable_ofs4 : Fld := ⟨.medRrTable, 32, 8⟩
def Fld.medRrTable_ofs5 : Fld := ⟨.medRrTable, 40, 8⟩
def Fld.medRrTable_ofs6 : Fld := ⟨.medRrTable, 48, 8⟩
def Fld.medRrTable_ofs7 : Fld := ⟨.medRrTable, 56, 8⟩
def Fld.medRrTable_ofs8 : Fld := ⟨.medRrTable, 64, 8⟩
def Fld.medRrTable_ofs9 : Fld := ⟨.medRrTable, 72, 8⟩
def Fld.medRrTable_ofs10 : Fld := ⟨.medRrTable, 80, 8⟩
def Fld.medRrTable_ofs11 : Fld := ⟨.medRrTable, 88, 8⟩
def Fld.medRrTable_ofs12 : Fld := ⟨.medRrTable, 96, 8⟩
def Fld.medRrTable_ofs13 : Fld := ⟨.medRrTable, 104, 8⟩
def Fld.medRrTable_ofs14 : Fld := ⟨.medRrTable, 112, 8⟩
def Fld.medScrubCtrl_scrubEn : Fld := ⟨.medScrubCtrl, 0, 1⟩
def Fld.medScrubCtrl_periodH : Fld := ⟨.medScrubCtrl, 8, 8⟩
def Fld.medScrubCtrl_relocBits : Fld := ⟨.medScrubCtrl, 16, 8⟩
def Fld.medSpaceCtrl_startPm : Fld := ⟨.medSpaceCtrl, 0, 8⟩
def Fld.medSpaceCtrl_reservePm : Fld := ⟨.medSpaceCtrl, 8, 8⟩
def Fld.medSpaceCtrl_deletePm : Fld := ⟨.medSpaceCtrl, 16, 8⟩
def Fld.medSpaceCtrl_hystPm : Fld := ⟨.medSpaceCtrl, 24, 4⟩
def Fld.medSpaceStat_freePm : Fld := ⟨.medSpaceStat, 0, 10⟩
def Fld.medSpaceStat_state : Fld := ⟨.medSpaceStat, 10, 2⟩
def Fld.medSpaceStat_readOnly : Fld := ⟨.medSpaceStat, 12, 1⟩
def Fld.medSpaceStat_reserveEffPm : Fld := ⟨.medSpaceStat, 16, 10⟩
def Fld.medSpaceStat_freeBlocks : Fld := ⟨.medSpaceStat, 32, 32⟩
def Fld.medSpareCtrl_sparePm : Fld := ⟨.medSpareCtrl, 0, 7⟩
def Fld.medSpareCtrl_warnPct : Fld := ⟨.medSpareCtrl, 8, 6⟩
def Fld.medSpareStat_spareBlocks : Fld := ⟨.medSpareStat, 0, 32⟩
def Fld.medSpareStat_spareInitial : Fld := ⟨.medSpareStat, 32, 32⟩
def Fld.medSpgCtrl_wlEn : Fld := ⟨.medSpgCtrl, 0, 1⟩
def Fld.medSpgCtrl_fillMs : Fld := ⟨.medSpgCtrl, 8, 8⟩
def Fld.medSpgCtrl_epochUs : Fld := ⟨.medSpgCtrl, 16, 8⟩
def Fld.medSpgStat_victims : Fld := ⟨.medSpgStat, 0, 16⟩
def Fld.medSpgStat_urgent : Fld := ⟨.medSpgStat, 16, 16⟩
def Fld.medSpgStat_deferred : Fld := ⟨.medSpgStat, 32, 16⟩
def Fld.medSpgStat_targetFails : Fld := ⟨.medSpgStat, 48, 16⟩
def Fld.medSuspCtrl_minResumeUs : Fld := ⟨.medSuspCtrl, 0, 13⟩
def Fld.medSuspCtrl_burst : Fld := ⟨.medSuspCtrl, 16, 5⟩
def Fld.medSuspCtrl_maxSusp : Fld := ⟨.medSuspCtrl, 24, 4⟩
def Fld.medTerCtrl_closeUs : Fld := ⟨.medTerCtrl, 0, 17⟩
def Fld.medTerCtrl_scratchBlocks : Fld := ⟨.medTerCtrl, 17, 7⟩
def Fld.medTerStat_width : Fld := ⟨.medTerStat, 0, 6⟩
def Fld.medTerStat_open : Fld := ⟨.medTerStat, 6, 10⟩
def Fld.medTerStat_awaitVerify : Fld := ⟨.medTerStat, 16, 16⟩
def Fld.medTerStat_scratchFree : Fld := ⟨.medTerStat, 32, 32⟩
def Fld.medVerifyCtrl_maxBits : Fld := ⟨.medVerifyCtrl, 0, 8⟩
def Fld.medVerifyCtrl_margin : Fld := ⟨.medVerifyCtrl, 8, 4⟩
def Fld.medWearCtrl_peRated : Fld := ⟨.medWearCtrl, 0, 16⟩
def Fld.medWearCtrl_wlSpread : Fld := ⟨.medWearCtrl, 16, 12⟩
def Fld.netAddr_kind : Fld := ⟨.netAddr, 0, 2⟩
def Fld.netAddr_addr : Fld := ⟨.netAddr, 128, 128⟩
def Fld.netCnt_count : Fld := ⟨.netCnt, 0, 40⟩
def Fld.netCntHalf_half : Fld := ⟨.netCntHalf, 0, 64⟩
def Fld.netCrossBase_ns : Fld := ⟨.netCrossBase, 0, 32⟩
def Fld.netCrossBase_sec : Fld := ⟨.netCrossBase, 32, 48⟩
def Fld.netCrossCtrl_en : Fld := ⟨.netCrossCtrl, 0, 1⟩
def Fld.netCrossCtrl_change : Fld := ⟨.netCrossCtrl, 1, 1⟩
def Fld.netCrossCtrl_changeErr : Fld := ⟨.netCrossCtrl, 2, 1⟩
def Fld.netCrossCtrl_operBank : Fld := ⟨.netCrossCtrl, 3, 1⟩
def Fld.netCrossCtrl_adminLen : Fld := ⟨.netCrossCtrl, 4, 11⟩
def Fld.netCrossCycle_cycleNs : Fld := ⟨.netCrossCycle, 0, 32⟩
def Fld.netCrossList_gates : Fld := ⟨.netCrossList, 0, 8⟩
def Fld.netCrossList_intervalNs : Fld := ⟨.netCrossList, 32, 32⟩
def Fld.netFwqBase_addr : Fld := ⟨.netFwqBase, 12, 52⟩
def Fld.netFwqCtrl_depthLog2 : Fld := ⟨.netFwqCtrl, 0, 4⟩
def Fld.netFwqCtrl_en : Fld := ⟨.netFwqCtrl, 4, 1⟩
def Fld.netFwqCtrl_rxHead : Fld := ⟨.netFwqCtrl, 16, 16⟩
def Fld.netFwqCtrl_txTail : Fld := ⟨.netFwqCtrl, 32, 16⟩
def Fld.netMacAddr_addr : Fld := ⟨.netMacAddr, 0, 48⟩
def Fld.netMcast_addr : Fld := ⟨.netMcast, 0, 48⟩
def Fld.netMcast_en : Fld := ⟨.netMcast, 63, 1⟩
def Fld.netMgmtCtrl_ywpEn : Fld := ⟨.netMgmtCtrl, 0, 1⟩
def Fld.netMgmtCtrl_speed : Fld := ⟨.netMgmtCtrl, 1, 1⟩
def Fld.netMgmtCtrl_rxDelay : Fld := ⟨.netMgmtCtrl, 2, 1⟩
def Fld.netMgmtCtrl_txDelay : Fld := ⟨.netMgmtCtrl, 3, 1⟩
def Fld.netMgmtCtrl_mdcDiv : Fld := ⟨.netMgmtCtrl, 4, 6⟩
def Fld.netMgmtMdio_data : Fld := ⟨.netMgmtMdio, 0, 16⟩
def Fld.netMgmtMdio_reg : Fld := ⟨.netMgmtMdio, 16, 5⟩
def Fld.netMgmtMdio_phy : Fld := ⟨.netMgmtMdio, 21, 5⟩
def Fld.netMgmtMdio_c45 : Fld := ⟨.netMgmtMdio, 26, 1⟩
def Fld.netMgmtMdio_read : Fld := ⟨.netMgmtMdio, 27, 1⟩
def Fld.netMgmtMdio_go : Fld := ⟨.netMgmtMdio, 28, 1⟩
def Fld.netMgmtMdio_busy : Fld := ⟨.netMgmtMdio, 29, 1⟩
def Fld.netMgmtMdio_addr45 : Fld := ⟨.netMgmtMdio, 32, 16⟩
def Fld.netMode_mode : Fld := ⟨.netMode, 0, 2⟩
def Fld.netParkCtrl_parkEn : Fld := ⟨.netParkCtrl, 0, 1⟩
def Fld.netParkCtrl_minLanes : Fld := ⟨.netParkCtrl, 1, 3⟩
def Fld.netParkCtrl_parkPct : Fld := ⟨.netParkCtrl, 4, 7⟩
def Fld.netParkCtrl_restorePct : Fld := ⟨.netParkCtrl, 11, 7⟩
def Fld.netParkCtrl_parkMs : Fld := ⟨.netParkCtrl, 18, 10⟩
def Fld.netParkCtrl_restoreKib : Fld := ⟨.netParkCtrl, 28, 12⟩
def Fld.netParkCtrl_leadNs : Fld := ⟨.netParkCtrl, 40, 12⟩
def Fld.netPortCtrl_enable : Fld := ⟨.netPortCtrl, 0, 1⟩
def Fld.netPortCtrl_bank : Fld := ⟨.netPortCtrl, 1, 2⟩
def Fld.netPortCtrl_vlanEn : Fld := ⟨.netPortCtrl, 3, 1⟩
def Fld.netPortCtrl_truncToFw : Fld := ⟨.netPortCtrl, 4, 1⟩
def Fld.netPortCtrl_maxFrame : Fld := ⟨.netPortCtrl, 8, 14⟩
def Fld.netPortCtrl_vid : Fld := ⟨.netPortCtrl, 22, 12⟩
def Fld.netPortCtrl_failMs : Fld := ⟨.netPortCtrl, 34, 10⟩
def Fld.netPortCtrl_linkTimeoutMs : Fld := ⟨.netPortCtrl, 44, 10⟩
def Fld.netPortStat_link : Fld := ⟨.netPortStat, 0, 1⟩
def Fld.netPortStat_bank : Fld := ⟨.netPortStat, 1, 1⟩
def Fld.netPortStat_partnerTf : Fld := ⟨.netPortStat, 2, 1⟩
def Fld.netPortStat_lanes : Fld := ⟨.netPortStat, 3, 4⟩
def Fld.netPortStat_parkState : Fld := ⟨.netPortStat, 7, 3⟩
def Fld.netPortStat_speed : Fld := ⟨.netPortStat, 10, 3⟩
def Fld.netPortStat_txCw : Fld := ⟨.netPortStat, 32, 32⟩
def Fld.netTcMap_pcp0 : Fld := ⟨.netTcMap, 0, 3⟩
def Fld.netTcMap_pcp1 : Fld := ⟨.netTcMap, 3, 3⟩
def Fld.netTcMap_pcp2 : Fld := ⟨.netTcMap, 6, 3⟩
def Fld.netTcMap_pcp3 : Fld := ⟨.netTcMap, 9, 3⟩
def Fld.netTcMap_pcp4 : Fld := ⟨.netTcMap, 12, 3⟩
def Fld.netTcMap_pcp5 : Fld := ⟨.netTcMap, 15, 3⟩
def Fld.netTcMap_pcp6 : Fld := ⟨.netTcMap, 18, 3⟩
def Fld.netTcMap_pcp7 : Fld := ⟨.netTcMap, 21, 3⟩
def Fld.netWakeBad_bad : Fld := ⟨.netWakeBad, 0, 32⟩
def Fld.netWakeCtrl_wakeLink : Fld := ⟨.netWakeCtrl, 0, 1⟩
def Fld.netWakePat_bytes : Fld := ⟨.netWakePat, 0, 1024⟩
def Fld.netWakePat_mask : Fld := ⟨.netWakePat, 1024, 128⟩
def Fld.netWakePat_check : Fld := ⟨.netWakePat, 1152, 32⟩
def Fld.netWakePat_en : Fld := ⟨.netWakePat, 1184, 1⟩
def Fld.netWakeStat_pattern : Fld := ⟨.netWakeStat, 0, 5⟩
def Fld.netWakeStat_matched : Fld := ⟨.netWakeStat, 5, 1⟩
def Fld.ptpCtrl_enable : Fld := ⟨.ptpCtrl, 0, 1⟩
def Fld.ptpCtrl_delayMech : Fld := ⟨.ptpCtrl, 1, 1⟩
def Fld.ptpCtrl_twoStep : Fld := ⟨.ptpCtrl, 2, 1⟩
def Fld.ptpCtrl_transport : Fld := ⟨.ptpCtrl, 3, 2⟩
def Fld.ptpCtrl_port : Fld := ⟨.ptpCtrl, 5, 4⟩
def Fld.ptpCtrl_role : Fld := ⟨.ptpCtrl, 9, 2⟩
def Fld.ptpCtrl_domain : Fld := ⟨.ptpCtrl, 12, 8⟩
def Fld.ptpCtrl_logSync : Fld := ⟨.ptpCtrl, 20, 4⟩
def Fld.ptpCtrl_logDreq : Fld := ⟨.ptpCtrl, 24, 4⟩
def Fld.ptpCtrl_logAnnounce : Fld := ⟨.ptpCtrl, 28, 4⟩
def Fld.ptpCtrl_priority1 : Fld := ⟨.ptpCtrl, 32, 8⟩
def Fld.ptpCtrl_priority2 : Fld := ⟨.ptpCtrl, 40, 8⟩
def Fld.ptpEps_epsNs : Fld := ⟨.ptpEps, 0, 32⟩
def Fld.ptpEps_ageMs : Fld := ⟨.ptpEps, 32, 32⟩
def Fld.ptpEpsCtrl_asymNs : Fld := ⟨.ptpEpsCtrl, 0, 16⟩
def Fld.ptpEpsCtrl_epsDriftPpb : Fld := ⟨.ptpEpsCtrl, 16, 20⟩
def Fld.ptpEpsCtrl_waitCapUs : Fld := ⟨.ptpEpsCtrl, 36, 12⟩
def Fld.ptpIncr_fracNs : Fld := ⟨.ptpIncr, 0, 32⟩
def Fld.ptpIncr_ns : Fld := ⟨.ptpIncr, 32, 8⟩
def Fld.ptpLat_txNs : Fld := ⟨.ptpLat, 0, 16⟩
def Fld.ptpLat_rxNs : Fld := ⟨.ptpLat, 16, 16⟩
def Fld.ptpPpsCtrl_inEn : Fld := ⟨.ptpPpsCtrl, 0, 1⟩
def Fld.ptpPpsCtrl_inEdge : Fld := ⟨.ptpPpsCtrl, 1, 1⟩
def Fld.ptpPpsCtrl_outEn : Fld := ⟨.ptpPpsCtrl, 2, 1⟩
def Fld.ptpPpsCtrl_outWidthUs : Fld := ⟨.ptpPpsCtrl, 4, 10⟩
def Fld.ptpPpsCtrl_inEpsNs : Fld := ⟨.ptpPpsCtrl, 16, 16⟩
def Fld.ptpPpsTs_frac : Fld := ⟨.ptpPpsTs, 0, 16⟩
def Fld.ptpPpsTs_ns : Fld := ⟨.ptpPpsTs, 16, 32⟩
def Fld.ptpPpsTs_sec : Fld := ⟨.ptpPpsTs, 48, 48⟩
def Fld.ptpServoCtrl_servoEn : Fld := ⟨.ptpServoCtrl, 0, 1⟩
def Fld.ptpServoCtrl_kpShift : Fld := ⟨.ptpServoCtrl, 4, 4⟩
def Fld.ptpServoCtrl_kiShift : Fld := ⟨.ptpServoCtrl, 8, 4⟩
def Fld.ptpServoCtrl_stepNs : Fld := ⟨.ptpServoCtrl, 12, 16⟩
def Fld.ptpServoCtrl_slewPpm : Fld := ⟨.ptpServoCtrl, 28, 12⟩
def Fld.ptpStat_state : Fld := ⟨.ptpStat, 0, 3⟩
def Fld.ptpStat_untrusted : Fld := ⟨.ptpStat, 3, 1⟩
def Fld.ptpStat_portState : Fld := ⟨.ptpStat, 4, 4⟩
def Fld.ptpStat_timeFault : Fld := ⟨.ptpStat, 8, 1⟩
def Fld.ptpStat_rejects : Fld := ⟨.ptpStat, 16, 16⟩
def Fld.ptpStat_mNs : Fld := ⟨.ptpStat, 32, 32⟩
def Fld.ptpTime_frac : Fld := ⟨.ptpTime, 0, 16⟩
def Fld.ptpTime_ns : Fld := ⟨.ptpTime, 16, 32⟩
def Fld.ptpTime_sec : Fld := ⟨.ptpTime, 48, 48⟩
def Fld.ptpTodSet_sec : Fld := ⟨.ptpTodSet, 0, 48⟩
def Fld.ptpWaitStat_maxNs : Fld := ⟨.ptpWaitStat, 0, 32⟩
def Fld.ptpWaitStat_refused : Fld := ⟨.ptpWaitStat, 32, 32⟩
def Fld.stwData_data : Fld := ⟨.stwData, 0, 64⟩
def Fld.stwSel_block : Fld := ⟨.stwSel, 0, 8⟩
def Fld.stwSel_type : Fld := ⟨.stwSel, 8, 8⟩
def Fld.stwSel_word : Fld := ⟨.stwSel, 16, 10⟩
def Fld.stwSel_instance : Fld := ⟨.stwSel, 32, 32⟩
def Fld.stwStat_status : Fld := ⟨.stwStat, 0, 3⟩
def Fld.stwStat_latched : Fld := ⟨.stwStat, 3, 1⟩
def Fld.stwStat_sizeWords : Fld := ⟨.stwStat, 16, 11⟩
def Fld.tunCtrl_sizeMib : Fld := ⟨.tunCtrl, 0, 14⟩
def Fld.tunCtrl_journalEighths : Fld := ⟨.tunCtrl, 16, 3⟩
def Fld.tunFlushInfo_rateMbs : Fld := ⟨.tunFlushInfo, 0, 24⟩
def Fld.tunFlushInfo_budgetUs : Fld := ⟨.tunFlushInfo, 24, 24⟩
def Fld.tunFlushLast_lastUs : Fld := ⟨.tunFlushLast, 0, 32⟩
def Fld.tunFlushLast_seqLo : Fld := ⟨.tunFlushLast, 32, 32⟩
def Fld.tunStat_sizeMib : Fld := ⟨.tunStat, 0, 14⟩
def Fld.tunStat_slot : Fld := ⟨.tunStat, 14, 1⟩
def Fld.tunStat_flushing : Fld := ⟨.tunStat, 15, 1⟩
def Fld.tunStat_flushIncomplete : Fld := ⟨.tunStat, 16, 1⟩
def Fld.tunStat_entries : Fld := ⟨.tunStat, 32, 21⟩
def Fld.tunStat_journalPct : Fld := ⟨.tunStat, 54, 10⟩
def Fld.tunUse_usedKib : Fld := ⟨.tunUse, 0, 24⟩
def Fld.tunUse_freeKib : Fld := ⟨.tunUse, 24, 24⟩
def Fld.twnCfg_memberId : Fld := ⟨.twnCfg, 0, 14⟩
def Fld.twnCfg_townEn : Fld := ⟨.twnCfg, 14, 1⟩
def Fld.twnCfg_autoJoin : Fld := ⟨.twnCfg, 15, 1⟩
def Fld.twnCfg_definedRole : Fld := ⟨.twnCfg, 16, 2⟩
def Fld.twnCfg_hallId : Fld := ⟨.twnCfg, 32, 14⟩
def Fld.twnCfg_deputyId : Fld := ⟨.twnCfg, 48, 14⟩
def Fld.twnDrop_staleHandle : Fld := ⟨.twnDrop, 0, 16⟩
def Fld.twnDrop_term : Fld := ⟨.twnDrop, 16, 16⟩
def Fld.twnDrop_notOwner : Fld := ⟨.twnDrop, 32, 16⟩
def Fld.twnDrop_cutAborts : Fld := ⟨.twnDrop, 48, 16⟩
def Fld.twnEpoch_epoch : Fld := ⟨.twnEpoch, 0, 64⟩
def Fld.twnFeat_featMin : Fld := ⟨.twnFeat, 0, 8⟩
def Fld.twnFeat_featMax : Fld := ⟨.twnFeat, 8, 8⟩
def Fld.twnFeat_level : Fld := ⟨.twnFeat, 16, 8⟩
def Fld.twnHbCtrl_periodUs : Fld := ⟨.twnHbCtrl, 0, 10⟩
def Fld.twnHbCtrl_missUs : Fld := ⟨.twnHbCtrl, 16, 12⟩
def Fld.twnHbCtrl_leaseUs : Fld := ⟨.twnHbCtrl, 32, 12⟩
def Fld.twnHbCtrl_guardUs : Fld := ⟨.twnHbCtrl, 44, 12⟩
def Fld.twnRetryCtrl_maxRedir : Fld := ⟨.twnRetryCtrl, 0, 4⟩
def Fld.twnRetryCtrl_retryMs : Fld := ⟨.twnRetryCtrl, 16, 10⟩
def Fld.twnStat_role : Fld := ⟨.twnStat, 0, 2⟩
def Fld.twnStat_state : Fld := ⟨.twnStat, 2, 3⟩
def Fld.twnStat_frozen : Fld := ⟨.twnStat, 5, 1⟩
def Fld.twnStat_noStandby : Fld := ⟨.twnStat, 6, 1⟩
def Fld.twnStat_incarnation : Fld := ⟨.twnStat, 14, 18⟩
def Fld.twnStat_members : Fld := ⟨.twnStat, 32, 15⟩
def Fld.twnTerm_term : Fld := ⟨.twnTerm, 0, 32⟩
def Fld.updRcvCmd_piece : Fld := ⟨.updRcvCmd, 0, 16⟩
def Fld.updRcvCmd_pkgLen : Fld := ⟨.updRcvCmd, 32, 32⟩
def Fld.updRcvStat_received : Fld := ⟨.updRcvStat, 0, 16⟩
def Fld.updRcvStat_busy : Fld := ⟨.updRcvStat, 16, 1⟩
def Fld.updRcvStat_result : Fld := ⟨.updRcvStat, 24, 8⟩
def Fld.updStat_aState : Fld := ⟨.updStat, 0, 3⟩
def Fld.updStat_bState : Fld := ⟨.updStat, 3, 3⟩
def Fld.updStat_recovery : Fld := ⟨.updStat, 6, 1⟩
def Fld.updStat_result : Fld := ⟨.updStat, 8, 8⟩
def Fld.updStat_svn : Fld := ⟨.updStat, 32, 32⟩
def Fld.updTrial_remainS : Fld := ⟨.updTrial, 0, 17⟩
def Fld.updTrial_running : Fld := ⟨.updTrial, 17, 1⟩
def Fld.updTrial_stop : Fld := ⟨.updTrial, 18, 1⟩
def Fld.ywpCcCtrl_targetNs : Fld := ⟨.ywpCcCtrl, 0, 16⟩
def Fld.ywpCcCtrl_beta : Fld := ⟨.ywpCcCtrl, 16, 8⟩
def Fld.ywpCcCtrl_initPkts : Fld := ⟨.ywpCcCtrl, 24, 6⟩
def Fld.ywpCcCtrl_baseWinMs : Fld := ⟨.ywpCcCtrl, 32, 16⟩
def Fld.ywpCcCtrl_burstPkts : Fld := ⟨.ywpCcCtrl, 48, 8⟩
def Fld.ywpCtrl_enable : Fld := ⟨.ywpCtrl, 0, 1⟩
def Fld.ywpCtrl_ecnEn : Fld := ⟨.ywpCtrl, 1, 1⟩
def Fld.ywpCtrl_jumboEn : Fld := ⟨.ywpCtrl, 2, 1⟩
def Fld.ywpCtrl_verMin : Fld := ⟨.ywpCtrl, 8, 8⟩
def Fld.ywpCtrl_verMax : Fld := ⟨.ywpCtrl, 16, 8⟩
def Fld.ywpCtrl_dataTc : Fld := ⟨.ywpCtrl, 24, 3⟩
def Fld.ywpDedupCtrl_holdMs : Fld := ⟨.ywpDedupCtrl, 0, 16⟩
def Fld.ywpDedupStat_records : Fld := ⟨.ywpDedupStat, 0, 22⟩
def Fld.ywpDedupStat_hits : Fld := ⟨.ywpDedupStat, 32, 32⟩
def Fld.ywpDrop_malformed : Fld := ⟨.ywpDrop, 0, 16⟩
def Fld.ywpDrop_noSession : Fld := ⟨.ywpDrop, 16, 16⟩
def Fld.ywpDrop_staleInc : Fld := ⟨.ywpDrop, 32, 16⟩
def Fld.ywpDrop_version : Fld := ⟨.ywpDrop, 48, 16⟩
def Fld.ywpDrop_staleKey : Fld := ⟨.ywpDrop, 64, 16⟩
def Fld.ywpDrop_authFail : Fld := ⟨.ywpDrop, 80, 16⟩
def Fld.ywpDrop_duplicate : Fld := ⟨.ywpDrop, 96, 16⟩
def Fld.ywpDrop_outOfWindow : Fld := ⟨.ywpDrop, 112, 8⟩
def Fld.ywpDrop_classDenied : Fld := ⟨.ywpDrop, 120, 8⟩
def Fld.ywpKeyStat_rekeys : Fld := ⟨.ywpKeyStat, 0, 32⟩
def Fld.ywpKeyStat_cipherLimits : Fld := ⟨.ywpKeyStat, 32, 32⟩
def Fld.ywpPort_udpPort : Fld := ⟨.ywpPort, 0, 16⟩
def Fld.ywpSessCtrl_keepaliveMs : Fld := ⟨.ywpSessCtrl, 0, 10⟩
def Fld.ywpSessCtrl_idleMs : Fld := ⟨.ywpSessCtrl, 16, 14⟩
def Fld.ywpSessCtrl_hsTimeoutMs : Fld := ⟨.ywpSessCtrl, 32, 16⟩
def Fld.ywpStat_open : Fld := ⟨.ywpStat, 0, 19⟩
def Fld.ywpStat_onChip : Fld := ⟨.ywpStat, 32, 17⟩
def Fld.ywpStat_handshaking : Fld := ⟨.ywpStat, 49, 11⟩
def Fld.ywpTimerCtrl_minRtoUs : Fld := ⟨.ywpTimerCtrl, 0, 14⟩
def Fld.ywpTimerCtrl_maxRetx : Fld := ⟨.ywpTimerCtrl, 16, 4⟩
def Fld.ywpTimerCtrl_dupThresh : Fld := ⟨.ywpTimerCtrl, 20, 4⟩
def Fld.ywpTimerCtrl_ackDelayUs : Fld := ⟨.ywpTimerCtrl, 24, 5⟩
def Fld.ywpTimerCtrl_ackPkts : Fld := ⟨.ywpTimerCtrl, 29, 3⟩

end Sys2Proof.Machine
end

