-- ==== Sys2Proof/Machine/State.lean ====
section
/-!
DEFINITION. The state of the block: everything the spec gives it, as plain data, with the queue of waiting commands.
-/

namespace Sys2Proof.Machine

/-- The two counters of time: `cycles` counts TIME-domain cycles of 600 MHz since power was applied, and `tai` is the
counter of R427 in units of 2^-32 ns since 1970 (SEC, NS and the 32-bit accumulator as one number). -/
structure Clock where
  cycles : Nat := 0
  tai : Nat := 0
  deriving DecidableEq, Repr

/-- An open staged value (R78): its extent map holds (extent number, media address) pairs (R260). `last` is the cycle of
its last activity; `pieces` counts the STAGE_DATA dispatched and not completed. -/
structure Staged where
  handle : Nat
  tenant : Nat
  ksp : Nat
  key : Bytes
  declared : Nat
  last : Nat
  extents : List (Nat × Nat) := []
  deriving DecidableEq, Repr

/-- A staged value that this part, as initiator, has opened at another owner (R79, R388): its handle, tenant, keyspace and key, and the
member that issued the handle. -/
structure AwayStage where
  handle : Nat
  tenant : Nat
  ksp : Nat
  key : Bytes
  owner : Nat
  deriving DecidableEq, Repr

/-- A snapshot lease (R86, R87): `reserved` while its SNAPSHOT_OPEN waits; `expiry` is T + R as a stamp, recorded with the lease. -/
structure Lease where
  tenant : Nat
  stamp : Nat
  reserved : Bool
  expiry : Nat := 0
  deriving DecidableEq, Repr

/-- The context pools of R32; an admin command holds no data context, and neither does a message that still waits in its session's receive
queue (R33). -/
inductive Pool where
  | host | target | town | admin | queue
  deriving DecidableEq, Repr

/-- Where an operation stands. `fetching`: host fetches outstanding. `held`: waits for dispatch (R21, R34). `counter`:
waits for the next microsecond (R47). `reading`: waits for flash reads. `replica`: waits for a replica's copy (R62).
`intent`: a read at an unresolved batch (R61). `readAck`: a read of an unacknowledged version (R61). `commit`: waits for
replicas and for the clock (R22). `snapOpen`, `snapRead`: waits for the clock (R86, R84). `pages`: STAGE_DATA waits for
its pages (R80). `forwarded`: sent to the owner. `noOwner`: waits for a session to the owner (R388). `admin`: an admin
command that runs on. `barrier`: waits for earlier operations (R94). `value`: dispatched, its value is being fetched (R27). `buffer`: a read
that waits for a transient leaf buffer (R189). -/
inductive Phase where
  | fetching | held | counter | reading | replica | intent | readAck | commit | snapOpen | snapRead | pages
  | forwarded | noOwner | admin | barrier | value | buffer
  deriving DecidableEq, Repr

/-- What an operation will report (R54, R136). -/
structure Res where
  status : Nat := 0
  rlen : Nat := 0
  rstamp : Nat := 0
  origin : Nat := 0
  deriving DecidableEq, Repr

/-- A bucket's leaf (R182) with its chain of overflow leaves: entries in leaf order, the address of its newest flash copy
(0: none yet) and of each overflow leaf, the cache state, pending changes and the cycle of the oldest (R191). `writing`
is the address of a copy being programmed, `storing` its entries and `mark` the journal sequence it covers, `stored` the
entries of the newest flash copy, and `storedDepth` the LDEPTH that copy was written with; `rebuild` holds while it is rebuilt (R192). -/
structure Leaf where
  ward : Nat
  ldepth : Nat
  pfx : Nat
  seq : Nat := 0
  addr : Nat := 0
  ovf : List Nat := []
  entries : List LeafEntry := []
  cached : Bool := true
  dirty : Bool := false
  changes : Nat := 0
  oldest : Nat := 0
  writing : Nat := 0
  rebuild : Bool := false
  used : Nat := 0
  mark : Nat := 0
  stored : List LeafEntry := []
  storing : List LeafEntry := []
  storedDepth : Nat := 0
  deriving DecidableEq, Repr

/-- An operation context (R32). `id` is its arrival order; `ponr` its point of no return (R143); `entries` the Tun
entries it made, `refs` those it reads (R209); `need` and `lost` the media addresses it waits for and those that ended
at step 5; `got` those read; `acks` the replicas outstanding; `clock` whether the commit wait is outstanding; `epoch` its
reader-drain slot (R295); `since` the cycle its present wait began; `orphan` after FLR (R150); `dest` the member a forwarded operation went to; `handle` a staged value; `reqNo` and `identity` those of a
YWP request (R353); `scanAt` the first digest that a SCAN has not covered yet, and `scanned` the (digest, record) pairs it has found
on its walk over the Wards (R88); `leaves` are the leaves a waiting read has obtained (R187), `buffers` the pipelines of which it holds a
transient leaf buffer (R189), `seen` the last stamp assigned when a scan was dispatched (R206); `minEpoch` the epoch that a MOVED answer named (R388); `wards` the Wards that a change was replicated for (R390); `repl` the
REPLICATE or TRANSFER_DATA message that a Town context holds until there is room (R34); `valueDue` whether its value still lies in host
memory (R27), `poison` the offsets of its result whose buffers were found uncorrectable (R776). -/
structure OpCtx where
  id : Nat
  pool : Pool
  src : Src
  tenant : Nat
  desc : Desc
  fx : Fetched := {}
  phase : Phase := .fetching
  gen : Nat := 0
  ponr : Bool := false
  orphan : Bool := false
  stamp : Nat := 0
  readT : Nat := 0
  entries : List Nat := []
  refs : List Nat := []
  need : List Nat := []
  got : List Nat := []
  lost : List Nat := []
  acks : List Nat := []
  clock : Bool := false
  epoch : Option Nat := none
  since : Nat := 0
  redirs : Nat := 0
  dest : Nat := 0
  handle : Nat := 0
  reqNo : Nat := 0
  identity : Nat := 0
  batchNo : Nat := 0
  scanAt : Nat := 0
  scanned : List (Nat × Bytes) := []
  leaves : List Leaf := []
  buffers : List Nat := []
  seen : Nat := 0
  minEpoch : Nat := 0
  wards : List Nat := []
  repl : Option TMsg := none
  valueDue : Bool := false
  poison : List Nat := []
  res : Res := {}
  deriving DecidableEq, Repr

/-- The KV engine: keyspaces, contexts, staged values, those opened at other owners, leases, the handle counter (R79), the stamp sequence
(R436; the part keeps one pair, which the eight pipelines share) and the next context number. -/
structure KvSt where
  keyspaces : List Keyspace := []
  ctxs : List OpCtx := []
  staged : List Staged := []
  away : List AwayStage := []
  leases : List Lease := []
  handle : Nat := 0
  lastU : Nat := 0
  lastK : Nat := 0xFFF
  nextCtx : Nat := 0
  deriving DecidableEq, Repr

/-- What the host engine keeps for one ring beyond its registers: the tail and head it last read (R696), the PHASE it will
write, completions counted and the cycle of the oldest (R141), whether the ring is pending (R123), its poll interval in
ns and due cycle (R119, R124), a reset request not yet taken with its cause (R142), the counts of the marker (R145),
the doorbell record reads outstanding and whether one of them is a poll of the fallback mode (R124), the interval in ns and due cycle of its
rereads while it waits for completion room (R119), and the changes since reset (R696). -/
structure Ring where
  f : Nat
  n : Nat
  tailSeen : Nat := 0
  headSeen : Nat := 0
  phase : Bool := true
  counted : Nat := 0
  oldest : Nat := 0
  pendingFetch : Bool := false
  intervalNs : Nat := 250
  due : Nat := 0
  resetReq : Option Nat := none
  doneAfter : Nat := 0
  aborted : Nat := 0
  reading : Nat := 0
  polled : Bool := false
  roomNs : Nat := 250
  roomDue : Nat := 0
  changeSeq : Nat := 0
  deriving DecidableEq, Repr

/-- What the host engine keeps for one function: whether it exists (R112), its poll interval in ns and due cycle (R121),
a Swap outstanding, its pending MSI-X vectors, and MSI-X Enable and Function Mask of its MSI-X capability (R140). -/
structure Func where
  f : Nat
  intervalNs : Nat := 250
  due : Nat := 0
  swapOut : Bool := false
  msixPba : List Nat := []
  msixOn : Bool := false
  msixMask : Bool := false
  deriving DecidableEq, Repr

/-- The host engine (R20): rings and functions with state of their own, the number of VFs enabled, the PCIe link, its
reset and PE_WAKE_N (R732), the vector table entries written (function, vector, dword, value), reads issued in the present microsecond, the
latest run of microseconds whose read budget was spent, from its first to its last (R122), and the place in the round of the ring served last
(R127): 65 times its function and its number, plus 1. -/
structure HostSt where
  rings : List Ring := []
  funcs : List Func := []
  vfs : Nat := 0
  linkUp : Bool := false
  perst : Bool := false
  wakeLow : Bool := false
  msix : List (Nat × Nat × Nat × Nat) := []
  reads : List Nat := []
  spent : Option (Nat × Nat) := none
  turn : Nat := 0
  deriving DecidableEq, Repr

/-- A Ward root entry (R179): GDEPTH, and the address of the segment's newest flash copy with the GDEPTH it was written with, and those of one
being programmed with the journal sequence it covers (R191). Its directory entries are those its leaves give (R180). -/
structure WardRoot where
  ward : Nat
  gdepth : Nat
  segAddr : Nat := 0
  writing : Nat := 0
  mark : Nat := 0
  storedDepth : Nat := 0
  storing : Nat := 0
  deriving DecidableEq, Repr

/-- An index journal record (R190). `depth` is the model's own: the local depth of the leaf that an OVERFLOW_LINK changed. -/
structure JournalRec where
  kind : Nat
  ldepth : Nat
  ward : Nat
  seq : Nat
  pfx : Nat := 0
  entry : Option LeafEntry := none
  a : Nat := 0
  b : Nat := 0
  depth : Nat := 0
  deriving DecidableEq, Repr

/-- The index: Ward roots, leaves, journal and its sequence, the small records held in the cache (R188) by media address,
and the number of leaf cache slots (R36, R189). -/
structure IndexSt where
  roots : List WardRoot := []
  leaves : List Leaf := []
  journal : List JournalRec := []
  jseq : Nat := 0
  small : List Nat := []
  slots : Nat := 0
  leafSeq : Nat := 0
  deriving DecidableEq, Repr

/-- An AD row in use (R193). -/
structure AdRow where
  row : Nat
  digest : Nat
  intent : Bool
  entry : Nat
  ksp : Nat
  deriving DecidableEq, Repr

/-- An event record (R675); `prog1` and `prog2` say whether its two chunks stand in the record area. -/
structure EvRec where
  kind : EvKind
  source : Nat
  cycle : Nat
  firstS : Nat
  key : Nat
  data : Nat
  lastS : Nat
  rep : Nat := 0
  repUnknown : Bool := false
  prog1 : Bool := false
  prog2 : Bool := false
  deriving DecidableEq, Repr

/-- What a rescue page holds whole (R214): a Tun entry by its offset, a journal record by its SEQ, an event record by its place. -/
inductive RescueItem where
  | entry (id : Nat)
  | journal (seq : Nat)
  | event (n : Nat)
  deriving DecidableEq, Repr

/-- One rescue image (R214, R215): the flush sequence of its begin marker, with the protected size and the slot's block list that the marker
repeats, whether its end marker is valid, and what it holds, page by page. -/
structure Image where
  seq : Nat
  complete : Bool
  sizeMib : Nat := 0
  blocks : List (Nat × Nat) := []
  pages : List (List RescueItem) := []
  entries : List TunEntry := []
  journal : List JournalRec := []
  events : List EvRec := []
  deriving DecidableEq, Repr

/-- The AD and the Tun: rows, entries, batch numbers, the protected size in force in MiB and journal share, the two rescue
slots, which of them holds the needed image, the flush sequence and timing, and the state of a flush with what it is for
(0 PWRFAIL_N, 1 PORST_N, 2 REFCLK, 3 critical temperature, 4 internal cold reset); the blocks of both rescue slots as (LUN, block), and those
that leave the rescue area once the needed image in them is needed no more (R215). -/
structure TunSt where
  rows : List AdRow := []
  entries : List TunEntry := []
  batchNo : Nat := 0
  sizeMib : Nat := 0
  journalEighths : Nat := 1
  slots : List (Option Image) := [none, none]
  slot : Nat := 0
  needed : Bool := false
  flushSeq : Nat := 0
  flushing : Bool := false
  flushFrom : Nat := 0
  flushFor : Nat := 0
  replayDone : Bool := false
  rescue : List (List (Nat × Nat)) := [[], []]
  leaving : List (Nat × Nat) := []
  deriving DecidableEq, Repr

/-- How a LUN stands (R236 to R239, R300). `unused` is a LUN that discovery accepted on a part with fewer than 4 such channels: it is reported, and
nothing is done with it (R239, R273). -/
inductive LunState where
  | absent | accepted | excluded | foreign | failed | unused
  deriving DecidableEq, Repr

/-- A LUN found at discovery: its state, the retry table that last succeeded (R264), the blocks of its row of failed programs and erases and its
consecutive timeouts (R300), the running erase with its suspends, reads served in this suspend and the cycle of the last resume (R266), the
label's number (R238), and free blocks that no list entry names; its media label, while its release erases it the block under erase
(R238), and its blocks with the factory bad-block mark (R245). -/
structure Lun where
  n : Nat
  state : LunState
  lastTable : Option Nat := none
  failBlks : List Nat := []
  timeouts : Nat := 0
  erase : Option Nat := none
  suspended : Bool := false
  suspends : Nat := 0
  burst : Nat := 0
  resumed : Nat := 0
  spares : Nat := 0
  label : Option MediaLabel := none
  releaseAt : Option Nat := none
  factoryBad : List Nat := []
  deriving DecidableEq, Repr

/-- The state of a block in the media map (R246, R298). -/
inductive BlockState where
  | free | inSet | failing | retiring | erasing | retired | system
  deriving DecidableEq, Repr

/-- A block that differs from a free block never erased. -/
structure Block where
  lun : Nat
  blk : Nat
  state : BlockState
  erases : Nat := 0
  wseq : Nat := 0
  epoch : Nat := 0
  summary : Nat := 0
  deriving DecidableEq, Repr

/-- The four streams of R248. -/
inductive Stream where
  | user | staged | sparge | index
  deriving DecidableEq, Repr

/-- The state of a Terrace set. -/
inductive SetState where
  | opened | full | verified | sparging | failed
  deriving DecidableEq, Repr

/-- A Terrace set (R249): its data blocks in Terrace order as (LUN, block), the parity LUN, the write pointer in units of
16 bytes in stream order, the data pages that have passed and those that have failed, the Terraces whose parity has passed, and what the Sparge
needs of it. `pad` is the rank at which the rest of the set is being padded (R259), `wasVerified` whether it had been VERIFIED when the Sparge
took it, `copyRank` the rank of its copies as a victim (R290), `scrubbed` the cycle of its verification or last scrub (R299). -/
structure TSet where
  wseq : Nat
  stream : Stream
  blocks : List (Nat × Nat)
  parityLun : Nat
  state : SetState
  ptr : Nat := 0
  ksp : Nat := 0
  passed : List Nat := []
  parity : List Nat := []
  urgent : Option Nat := none
  fullAt : Nat := 0
  openedAt : Nat := 0
  victims : List Nat := []
  failedPages : List Nat := []
  pad : Option Nat := none
  wasVerified : Bool := false
  copyRank : Nat := 3
  scrubbed : Nat := 0
  deriving DecidableEq, Repr

/-- What a stored item is (R241, R256, R257). -/
inductive ItemKind where
  | value | extents | tombstone | extent | leaf | segment | summary
  deriving DecidableEq, Repr

/-- Something stored on flash: a record (R256) with its key, stamp and predecessor, an extent, or an index structure. `units`
is its size in 16-byte units; `lost` and `lostData` that its codewords ended at step 5 (R62); `copyOf` the source a Sparge
copy was made from (R293). -/
structure Item where
  addr : Nat
  kind : ItemKind
  wseq : Nat
  units : Nat
  ksp : Nat := 0
  key : Bytes := []
  stamp : Nat := 0
  origin : Nat := 0
  staged : Bool := false
  vlen : Nat := 0
  data : Bytes := []
  extents : List (Nat × Nat) := []
  pred : Nat := 0
  predStamp : Nat := 0
  succStamp : Nat := 0
  ward : Nat := 0
  ldepth : Nat := 0
  pfx : Nat := 0
  lost : Bool := false
  copyOf : Nat := 0
  deriving DecidableEq, Repr

/-- Why a NAND operation runs; `rebuild` reads a codeword of the Terrace for step 4 of the ladder of operation `op` (R263). -/
inductive NandFor where
  | ctx (id : Nat)
  | copy (victim : Nat)
  | page (wseq page : Nat)
  | parity (wseq terrace : Nat)
  | erase
  | raw
  | rebuild (op : Nat)
  deriving DecidableEq, Repr

/-- What a NAND operation does. -/
inductive NandKind where
  | read | program | erase
  deriving DecidableEq, Repr

/-- A NAND operation waiting for the ledger or issued (R554): the address it acts on, its cost class and rank, the ladder
step it has reached (R263), the tables tried and the unsatisfied checks each left. `item` is the address of the item of which a read takes a
codeword, `order` the retry tables in the order fixed when step 2 began (R264), `epoch` the epoch in which a Sparge read is registered (R295); `shares` marks a read whose codeword comes with the page that another read of
its item takes. -/
structure NandOp where
  id : Nat
  kind : NandKind
  addr : Nat
  why : NandFor
  cls : Nat
  rank : Nat
  issued : Bool := false
  step : Nat := 1
  tried : List (Nat × Nat) := []
  item : Nat := 0
  order : List Nat := []
  epoch : Option Nat := none
  shares : Bool := false
  deriving DecidableEq, Repr

/-- A reader-drain epoch slot (R295): the epoch and the operations registered in it. -/
structure EpochSlot where
  epoch : Nat
  readers : Nat
  since : Nat
  deriving DecidableEq, Repr

/-- The health counters of R306, kept for the life of the part (R308). -/
structure Health where
  lunsFailed : Nat := 0
  corrected : Nat := 0
  retried : Nat := 0
  softDecoded : Nat := 0
  unrecoverable : Nat := 0
  programFails : Nat := 0
  eraseFails : Nat := 0
  tunFlushes : Nat := 0
  flushesIncomplete : Nat := 0
  powerFails : Nat := 0
  temps : List (Nat × Nat × Nat) := []
  deriving DecidableEq, Repr


/-- A parity scratch block (R245, R251): the pages programmed so far, and the parity pages it holds, as (WSEQ, Terrace, page). -/
structure ScratchBlock where
  lun : Nat
  blk : Nat
  used : Nat := 0
  held : List (Nat × Nat × Nat) := []
  deriving DecidableEq, Repr

/-- What a raw read keeps from its GO to its end (R270, R283): MODE and destination as they stood at GO, and whether an FLR of the PF has cut its
host write off (R150). -/
structure RawRead where
  mode : Bool := false
  dest : Nat := 0
  cut : Bool := false
  deriving DecidableEq, Repr

/-- The media engine (R20). `stampFloor` and `handleFloor` are those of the newest checkpoint (R442, R79); `rate` gives the
trained rate of each channel, `unusable` the channels that failed (R232), `rawPoison` that the buffer of the raw read was found
uncorrectable (R776), `scratchWant` SCRATCH_BLOCKS as the last start found it (R278), `geomOn` whether discovery has found a reference LUN (R275),
`mapSeq` the sequence of the last record of the media map, and `mapCopies` the LUNs of the map region with the last sequence each holds (R246). -/
structure MediaSt where
  geom : Geometry := {}
  luns : List Lun := []
  rates : List (Nat × Nat) := []
  unusable : List Nat := []
  blocks : List Block := []
  sets : List TSet := []
  items : List Item := []
  ops : List NandOp := []
  nextOp : Nat := 0
  nextWseq : Nat := 1
  epoch : Nat := 0
  epochAt : Nat := 0
  slots : List EpochSlot := []
  spareBlocks : Nat := 0
  spareInitial : Nat := 0
  spaceState : Nat := 0
  readOnly : Bool := false
  spareWarn : Bool := false
  stampFloor : Nat := 1
  handleFloor : Nat := 0
  mapPresent : Bool := false
  checkpointAt : Nat := 0
  health : Health := {}
  scratch : List ScratchBlock := []
  rawPoison : Bool := false
  raw : RawRead := {}
  scratchWant : Nat := 16
  geomOn : Bool := false
  mapSeq : Nat := 0
  mapCopies : List (Nat × Nat) := []
  deriving DecidableEq, Repr


/-- The time engine (R432, R433): STATE, UNTRUSTED, m and a of the last accepted update, whether ε is infinite, the cycles
of the last update and edge, counts of consecutive updates and rejections, the filtered path delay, the servo integral,
the second armed by PTP_TOD_SET, the selected master and the foreign masters. -/
structure TimeSt where
  state : Nat := 0
  untrusted : Bool := false
  portState : Nat := 0
  m : Int := 0
  a : Nat := 0
  epsInf : Bool := true
  updated : Option Nat := none
  streak : Nat := 0
  rejects : Nat := 0
  path : Option Nat := none
  integral : Int := 0
  tod : Option Nat := none
  lastEdge : Option Nat := none
  ignored : Nat := 0
  ppsOut : Bool := false
  ppsRise : Nat := 0
  master : Option Nat := none
  foreign : List Foreign := []
  updates : List (Int × Nat) := []
  deriving DecidableEq, Repr
/-- Why the part stands halted (R218, R565, R710, R719). -/
inductive Halt where
  | powerFail | startFail | refclk | thermal
  deriving DecidableEq, Repr

/-- Clocks, reset and start-up (R710 to R724): the start-up stage that runs, READY, the failed stage, a halt, PORST_N, the
power state in force and an entry in progress (target, cycle it began, context), the reset type and cause, the cycle the
start began, REFCLK, the straps with TEST_N as bit 4 (R748), values carried to the next start (R774), the cause of an internal cold reset that
waits for its flush (R712), and whether a write ignored for the set-up lock has been recorded since LOCK was set (R759). -/
structure PowerSt where
  stage : Nat := 0
  ready : Bool := false
  failStage : Nat := 0
  halt : Option Halt := none
  porstLow : Bool := false
  pstate : Nat := 0
  entry : Option (Nat × Nat × Nat) := none
  resetType : Nat := 0
  resetCause : Nat := 0
  startAt : Nat := 0
  pwrfailLow : Bool := false
  refclkLost : Bool := false
  strap : Nat := 16
  pendCause : Nat := 0
  carried : List (RegKey × Nat × Nat × Nat) := []
  deniedSeen : Bool := false
  elapsedMs : Nat := 0
  deriving DecidableEq, Repr
/-- A term round of a candidate (R376): the proposed term, when it began, the members that granted and that answered, and
the greatest term reported. -/
structure Round where
  term : Nat
  since : Nat
  grants : List Nat := []
  answers : List Nat := []
  greatest : Nat := 0
  deriving DecidableEq, Repr

/-- A map change on its way (R377, R407): the epoch and body, whether the standby has acknowledged, the members that still
have to, and the admin context, or the member with its answer, that waits for it: until it is sent
(`atSend`), or acknowledged. -/
structure Publish where
  epoch : Nat := 0
  body : MapBody
  sentAll : Bool := false
  waiting : List Nat := []
  ctx : Option Nat := none
  answer : Option (Nat × TMsg) := none
  takeover : Bool := false
  atSend : Bool := false
  deriving DecidableEq, Repr

/-- The Town controller (R371 to R423): role, state, epoch, terms, tables, watchers' and watched members' last heartbeats,
suspicions, publications, the Hall that this read-only member has asked to move its Wards away and the members that have asked so (R305), messages waiting for an epoch, Wards in the cut, the Wards whose TRANSFER_READY has gone, entries
offered again with the members that have not answered (R394, R399), the pieces held for staged values of other owners as
(owner, handle, extents), the cycle of the last heartbeat sent, and this member's address and failure domain. -/
structure TownSt where
  role : Nat := 0
  state : Nat := 0
  noStandby : Bool := false
  incarnation : Nat := 0
  epoch : Nat := 0
  term : Nat := 0
  granted : Option (Nat × Nat) := none
  hall : Nat := 0
  standby : Nat := 0
  level : Nat := 0
  members : List Member := []
  wards : List WardEntry := []
  transfers : List Transfer := []
  heard : List (Nat × Nat) := []
  suspected : List Nat := []
  suspects : List (Nat × Nat × Nat) := []
  round : Option Round := none
  publish : List Publish := []
  waiting : List (Nat × TMsg) := []
  cuts : List (Nat × Nat) := []
  copied : List Nat := []
  joinSince : Option Nat := none
  joinCtx : Option Nat := none
  leaving : List Nat := []
  emptying : List Nat := []
  asked : Option Nat := none
  returning : Option Nat := none
  offers : List (Nat × List Nat) := []
  pieces : List (Nat × Nat × List (Nat × Nat)) := []
  heartAt : Nat := 0
  addr : Nat := 0
  domain : Nat := 0
  deriving DecidableEq, Repr
/-- A packet sent and not yet acknowledged (R339, R340). -/
structure TxPkt where
  psn : Nat
  msgId : Nat
  off : Nat
  len : Nat
  retx : Nat := 0
  sentAt : Nat := 0
  lost : Bool := false
  sacked : Bool := false
  head : Bool := false
  deriving DecidableEq, Repr

/-- A message being sent: its operation block, body, and the body bytes already given to packets (R347, R348), and the
invocations reserved for it (R335); `stale` once its operation has been taken back to be sent to another owner, so that its reply is
discarded (R95, R388). -/
structure TxMsg where
  msgId : Nat
  head : YHead
  body : Bytes := []
  sent : Nat := 0
  started : Bool := false
  ctx : Option Nat := none
  ended : Bool := false
  res : Nat := 0
  stale : Bool := false
  deriving DecidableEq, Repr

/-- A message being received: what has arrived of it (R351), with the count of body bytes and the invocations reserved
for its reply (R335). `taken` once it has been handed
to its consumer, `ended` once the message has ended (R347, R351). -/
structure RxMsg where
  msgId : Nat
  head : Option YHead := none
  segs : List (Nat × Bytes) := []
  got : Nat := 0
  res : Nat := 0
  taken : Bool := false
  ended : Bool := false
  deriving DecidableEq, Repr

/-- The states of a session slot (R330). -/
inductive SlotState where
  | free | handshake | opened | closed
  deriving DecidableEq, Repr

/-- A session slot (R330, R361 preamble): peer, next-hop MAC address (R469), incarnations, version, tenant and rights, key generations and INVOC,
sequence and acknowledgement state, congestion state, and the messages of both directions. Times are cycles, windows bytes,
SRTT and RTTVAR nanoseconds. `hsKey` is the MSG_ID by which a server finds the handshake of an INIT packet (R327), `hsAhead` the HANDSHAKE packets
held ahead of the next as (packet, offset, length), `secret` the exporter secret of the session (R328). -/
structure Slot where
  n : Nat
  state : SlotState
  inc : Nat := 0
  client : Bool := false
  peer : Nat := 0
  hop : Nat := 0
  peerSlot : Nat := 0
  peerInc : Nat := 0
  peerKnown : Bool := false
  hsKey : Nat := 0
  jumbo : Bool := false
  ver : Nat := 0
  tenant : Nat := 0
  identity : Nat := 0
  member : Bool := false
  mgmt : Bool := false
  since : Nat := 0
  cause : Nat := 0
  hsRx : Nat := 1
  hsTx : Nat := 1
  hsStream : Nat := 0
  hsSent : Nat := 0
  hsOut : List (Nat × Nat × Bytes) := []
  hsAhead : List (Nat × Nat × Nat) := []
  secret : Nat := 0
  gen : Nat := 0
  oldGen : Option (Nat × Nat) := none
  txGen : Nat := 0
  invoc : Nat := 0
  nextPsn : Nat := 1
  ackedTo : Nat := 1
  unacked : List TxPkt := []
  rxNext : Nat := 1
  rxAhead : List Nat := []
  rxUnacked : Nat := 0
  rxFirst : Nat := 0
  ce : Bool := false
  echoTs : Nat := 0
  echoOwd : Nat := 0
  heard : Nat := 0
  spoke : Nat := 0
  srtt : Nat := 0
  rttvar : Nat := 0
  rto : Nat := 0
  timer : Nat := 0
  cwnd : Nat := 0
  cut : Nat := 0
  baseOwd : List (Nat × Int) := []
  peerWindow : Nat := 0
  rxQueue : Nat := 0
  nextMsg : Nat := 1
  tx : List TxMsg := []
  rx : List RxMsg := []
  rxOpenFrom : Nat := 1
  used : Nat := 0
  deriving DecidableEq, Repr

/-- YWP (R318 to R370): the slots that are not FREE in their first incarnation, the request records, and the requests that wait
for a running one as (slot, MSG_ID, identity, REQ_NO) (R353), and the sizes of the receive queues. -/
structure YwpSt where
  slots : List Slot := []
  reqNo : Nat := 1
  records : List ReqRecord := []
  running : List (Nat × Nat × Nat × Nat) := []
  deriving DecidableEq, Repr
/-- A Crossing schedule in force (R474, R475): its bank, entries, BASE in counter units and CYCLE in ns. -/
structure Sched where
  bank : Nat := 0
  len : Nat := 1
  base : Nat := 0
  cycleNs : Nat := 1000000
  deriving DecidableEq, Repr

/-- A lane-parking request of this port that has no answer yet, or is committed (R484): PARK_REQ or RESTORE_REQ, its SEQ,
its SWITCH_CW, the lanes after the switch, when it was sent, and whether its ACK has come. -/
structure ParkReq where
  restore : Bool
  seq : Nat
  x : Nat
  lanes : Nat
  sentAt : Nat
  acked : Bool := false
  deriving DecidableEq, Repr

/-- A port of the network engine (R459 to R491): its link, the bank in use, whether bring-up runs and since when the present try, the
lanes of both directions with codeword counts at a cycle (R484), the partner (source address, end of its time-to-live), the parking
exchange with committed switches (codeword, lanes), consecutive failures, the cycle of the last step and since when the port has been
quiet, a restore waiting for the exchange's end, the transmit queues in order, the schedule, a pending change with its time, the
engine's indexes of both firmware rings, the gates of the schedule's entry, since when the link has been down on the bank in use, and
until when the MAC is sending. -/
structure Port where
  p : Nat
  link : Bool := false
  bank : Nat := 0
  up : Bool := false
  since : Nat := 0
  lanes : Nat := 0
  rxLanes : Nat := 0
  cw : Nat := 0
  cwAt : Nat := 0
  rxCw : Nat := 0
  rxCwAt : Nat := 0
  partner : Option (Nat × Nat) := none
  req : Option ParkReq := none
  txSwitch : Option (Nat × Nat) := none
  rxSwitch : Option (Nat × Nat) := none
  seq : Nat := 0
  fails : Nat := 0
  stopped : Bool := false
  stepAt : Nat := 0
  quietAt : Nat := 0
  demand : Bool := false
  queue : List TxFrame := []
  sched : Sched := {}
  change : Option (Sched × Nat) := none
  rxTail : Nat := 0
  txHead : Nat := 0
  gates : Nat := 255
  lost : Nat := 0
  busyTo : Nat := 0
  deriving DecidableEq, Repr

/-- The network engine: the port mode in force (R464), its ports, an MDIO access in progress with its end (R508), and the
cycle of the last check of the wake patterns (R490). -/
structure NetSt where
  mode : Nat := 0
  ports : List Port := []
  mdio : Option Nat := none
  checkedAt : Nat := 0
  deriving DecidableEq, Repr

/-- A key in a tenant's slot (R517): the 512-bit slot key and the 72-byte image it was loaded from. -/
structure SlotKey where
  tenant : Nat
  slot : Nat
  key : Nat
  wrapped : Nat
  deriving DecidableEq, Repr

/-- A session key position (R529): session slot, direction (0 send, 1 receive), position (0 CURRENT, 1 PENDING, 2 KDK, 3 the
old receive generation of R334), generation modulo 256, key and IV_BASE. -/
structure SessKey where
  slot : Nat
  dir : Nat
  pos : Nat
  gen : Nat
  key : Nat
  iv : Nat
  deriving DecidableEq, Repr

/-- The cipher block (R509 to R545): tenant root keys and slot keys, session key positions, the DRBG's requests since its last
seed, the cycles of its health failures and whether a third within 60 s has locked it (R533), tenants whose KEY_DIST waits
for the standby (R525), and keyspaces whose bound KCV the next epoch publishes (R518). -/
structure CipSt where
  trks : List (Nat × Nat) := []
  keys : List SlotKey := []
  sk : List SessKey := []
  requests : Nat := 0
  failTimes : List Nat := []
  locked : Bool := false
  dist : List Nat := []
  bound : List Nat := []
  deriving DecidableEq, Repr

/-- An external sensor's validity (R562): consecutive bad and good reads, whether it is invalid, and the cycle of its last read. -/
structure Sensor where
  n : Nat
  bad : Nat := 0
  good : Nat := 0
  invalid : Bool := false
  at_ : Nat := 0
  deriving DecidableEq, Repr

/-- The energy ledger (R546 to R577): tokens of FLASH, CTRL and ENCL, their thermal factors, the effective caps, base charges
(CTRL, ENCL), peak limit and costs (ENERGY, PEAK_MA by class) in force since the last window boundary (R556), the cycle of that
boundary, the LUN last granted in each rank (R554), the oldest waiting operation that has failed to fit with its count of windows,
the reserved operation (R555), the external sensors read so far, the cycles of the last on-die read and of the last thermal
evaluation. -/
structure LedSt where
  tokens : List Int := [0, 0, 0]
  factors : List Nat := [1000, 1000, 1000]
  caps : List Nat := [0, 0, 0]
  bases : List Nat := [0, 0]
  peakMa : Nat := 0
  costs : List (Nat × Nat) := []
  windowAt : Nat := 0
  lastLun : List (Nat × Nat) := []
  holding : Option (Nat × Nat) := none
  reserved : Option Nat := none
  sensors : List Sensor := []
  dieAt : Nat := 0
  evalAt : Option Nat := none
  deriving DecidableEq, Repr

/-- What a channel's bridge does: all switches off; the zero vector (all three low sides on); six-step commutation at a step;
space-vector modulation; test pulses. -/
inductive Drive where
  | off | zero | step (k : Nat) | vector | pulses
  deriving DecidableEq, Repr

/-- A Draught channel (R579 to R612): its state (the code of STATE) with the cycle it was entered, restarts and fault cause,
its demand latch and demand, measured and target speed, the speed reference in rpm × 600,000,000, power in 0.1 W, the flags,
the bridge, the commutation step, the modulation settings in force (R585), the duty of the loops, electrical periods of
implausible back-EMF, the speed at the last period's end, the last pulse set and its repetition, the last listen result, the curve in use (none: the option
area's), and whether a driver fault stopped it while driven. -/
structure Chan where
  c : Nat
  st : Nat := 0
  since : Nat := 0
  restarts : Nat := 0
  cause : Nat := 0
  isOn : Bool := false
  demand : Nat := 0
  rpm : Nat := 0
  target : Nat := 0
  ref : Nat := 0
  powerDw : Nat := 0
  regen : Bool := false
  limited : Bool := false
  shortOnly : Bool := false
  short : Bool := false
  dirSeen : Bool := false
  drive : Drive := .off
  stepNo : Nat := 0
  pwm : Nat := 0
  duty : Nat := 0
  bemfBad : Nat := 0
  lastRpm : Nat := 0
  angle : Nat := 0
  pulses : List Nat := []
  repeated : Bool := false
  heard : Option Heard := none
  curve : Option (List (Nat × Nat)) := none
  stopped : Bool := false
  deriving DecidableEq, Repr

/-- The fan channels and the fan bus (R579 to R615): channels with state of their own, the chopper with the cycle it turned on
and the samples since (voltage, current), its fault, the holds for over- and undervoltage, samples above V_ABS_MV in a row, and
DRT_FLT_N. -/
structure DrtSt where
  chans : List Chan := []
  chopOn : Bool := false
  chopAt : Nat := 0
  chopTested : Bool := false
  samples : List (Nat × Nat) := []
  chopFault : Bool := false
  ov : Bool := false
  uv : Bool := false
  ovRun : Nat := 0
  fault : Bool := false
  deriving DecidableEq, Repr

/-- The hidden tag of a physical parameter sector (R631): a logical number, or none when untagged, and a sequence. -/
structure ParamTag where
  bank : Nat
  phys : Nat
  logical : Option Nat
  seq : Nat
  deriving DecidableEq, Repr

/-- A program or erase of an array (R626): its slot, operation code, descriptor, the physical parameter sector under erase, the
cycle it began, and how often it has been suspended. -/
structure CflJob where
  slot : Nat
  op : Nat
  d : CflDesc
  phys : Option Nat := none
  since : Nat := 0
  suspends : Nat := 0
  deriving DecidableEq, Repr

/-- The code flash (R616 to R649): the bytes as cells (an address is array × 2^25 + physical offset; an unlisted byte reads as
`cflDefault` says), the chunks programmed since their sector's last erase, sectors erased since manufacture (array × 1024 +
physical sector), ranges whose contents are undefined (address, bytes, a free value), parameter tags that differ from manufacture,
sectors open to writing (array, sector), operations per array with the running one first, suspended erases, descriptors waiting
(slot, OP, descriptor), and what the last completion of each slot wrote (slot, STATUS, WARN, INFO). -/
structure CflSt where
  mem : List Host.Cell := []
  programmed : List Nat := []
  erased : List Nat := []
  undef : List (Nat × Nat × Nat) := []
  tags : List ParamTag := []
  wpOpen : List (Nat × Nat) := []
  run : List (Nat × CflJob) := []
  susp : List (Nat × CflJob) := []
  waiting : List (Nat × Nat × CflDesc) := []
  slots : List (Nat × Nat × Bool × Nat) := []
  deriving DecidableEq, Repr

/-- A Cask header (R658). -/
structure CaskHead where
  state : Nat := 0
  cause : Nat := 0
  seq : Nat := 0
  pkgLen : Nat := 0
  pkgId : Nat := 0
  received : List Nat := []
  deriving DecidableEq, Repr

/-- Update and recovery (R650 to R674): the Cask's header as firmware holds it and as last written, its pieces on flash, the cycle
of the last piece; the trial (cycle it began, window in seconds); recovery mode and the inert state; recovery staging (package
length, blocks of 1,024 bytes by number), the 4 KiB piece window, whether a check runs, and its RESULT; and of the last start the
result of its package check and the SVN booted. -/
structure UpdSt where
  head : CaskHead := {}
  written : CaskHead := {}
  pieces : List (Nat × Bytes) := []
  pieceAt : Nat := 0
  trial : Option (Nat × Nat) := none
  recovery : Bool := false
  inert : Bool := false
  stageLen : Nat := 0
  staged : List (Nat × Bytes) := []
  window : Bytes := []
  rcvBusy : Bool := false
  rcvResult : Nat := 255
  result : Nat := 0
  svn : Nat := 0
  deriving DecidableEq, Repr

/-- A supervisor core (R639, R641, R763): running from an entry, and its last access fault (kind and address; R620). -/
structure SupCore where
  n : Nat
  entry : Nat
  trap : Option (Access × Nat) := none
  deriving DecidableEq, Repr

/-- The interrupt controller (R758): the priority written for each source, the enable bits and the threshold of each context (those
not listed are 0), the sources claimed and not yet completed, and the two sources that pend from an event: CFL_DONE and EVENT. -/
structure Plic where
  prio : List (Nat × Nat) := []
  enable : List (Nat × Nat) := []
  threshold : List (Nat × Nat) := []
  claimed : List Nat := []
  cflDone : Bool := false
  event : Bool := false
  deriving DecidableEq, Repr

/-- The interrupt controller, the supervisor cores out of reset (core 0 from every reset, R641), and the cycle of the DRAM's last patrol pass. -/
structure SupSt where
  plic : Plic := {}
  cores : List SupCore := [⟨0, 0, none⟩]
  patrolAt : Nat := 0
  deriving DecidableEq, Repr

/-- A counter entry of the recorder (R678). -/
structure CounterEntry where
  opS : Nat
  cycle : Nat
  lost : Nat
  pending : Nat
  clearing : Option Nat
  deriving DecidableEq, Repr

/-- A clear in progress (R685): its admin context, KEY_ID, the records it clears, and whether the log was full. -/
structure ClearRun where
  ctx : Nat
  keyId : Nat
  records : Nat
  full : Bool
  deriving DecidableEq, Repr

/-- The event recorder (R675 to R685): the log, oldest record first; whether the newest is open; FULL; LOST; the operating
seconds and power cycles at the last start with the cycle of that start; the newest counter entry; the current nonce with its
cycle; a clear in progress; whether new records wait for the replay, the log's length at the start, and the records the counter entry of
the last run listed as pending (R682); and the cycle of the last program. -/
structure EvSt where
  log : List EvRec := []
  isOpen : Bool := false
  full : Bool := false
  lost : Nat := 0
  baseS : Nat := 0
  since : Nat := 0
  cycle : Nat := 0
  counter : Option CounterEntry := none
  nonce : Option (Nat × Nat) := none
  clearing : Option ClearRun := none
  holdProg : Bool := true
  startLen : Nat := 0
  pendingWas : Nat := 0
  progAt : Nat := 0
  deriving DecidableEq, Repr

/-- A latch of a register wider than 32 bits (R754), kept for each requester. -/
structure RegLatch where
  who : Requester
  key : RegKey
  value : Nat
  deriving DecidableEq, Repr

/-- A word written and not yet committed (R754). -/
structure HeldWord where
  key : RegKey
  word : Nat
  value : Nat
  deriving DecidableEq, Repr

/-- A latched state object (R688) of one window; `fn` is the function, 256 for the supervisor. -/
structure WinLatch where
  fn : Nat
  size : Nat
  words : List Nat
  deriving DecidableEq, Repr

/-- What the part sends out, newest last: the model's own record of the effects that other parties see. `memWrite` is a
posted write to host memory, `memRead` a read request with what it is for; `swap` the AtomicOp of R120; `msix` a message;
`readData` and `unsupported` the completions of a register access; `cfg` the answer to a configuration request. -/
inductive Output where
  | memWrite (addr : Nat) (data : Bytes) (poison : Bool)
  | memRead (f addr len : Nat)
  | swap (f addr : Nat)
  | msix (f vec : Nat)
  | readData (who : Requester) (value : Nat)
  | unsupported (who : Requester)
  | cfg (who : Requester) (retry : Bool)
  | town (dest : Nat) (m : TMsg)
  | packet (slot : Nat) (p : YPacket)
  | frame (p : Nat) (f : TxFrame)
  | fwFrame (p idx len : Nat) (trunc : Bool) (ts : Nat)
  | park (p msg : Nat) (m : ParkMsg)
  | mdio (v : Nat)
  | ptp (kind : Nat) (ts : Nat)
  | cflDone (slot status : Nat) (warn : Bool) (info : Nat)
  | cflWarn
  | busFault (core : Nat) (kind : Access) (addr : Nat)
  | codeRead (core addr : Nat) (data : Bytes)
  | recovery (result off : Nat)
  | alert
  deriving DecidableEq, Repr

/-- Faults of the model. -/
inductive Fault where
  /-- An access to an address that the spec says does not exist. No command reaches one: every register, host-memory and
  media address the spec excludes gets the answer the spec names (Unsupported Request, a status, no effect). Raised by no
  meaning; safe. -/
  | noSuchAddress
  deriving DecidableEq, Repr

/-- Refusals of the model. -/
inductive Refusal where
  /-- Raised by exec for a command that has no meaning yet, with its mnemonic; safe. -/
  | notModelled (mnemonic : String)
  deriving DecidableEq, Repr

/-- Identity data of the part (R153) and what its code flash holds for every start: order code, stepping, grade, serial
number, firmware version, DRAM fitted, and the YWP and Town level ranges of the running firmware. -/
structure Ident where
  flashPart : Bool := true
  grade : Nat := 0
  serial : Bytes := []
  fwVersion : Bytes := []
  dramBytes : Nat := 0
  featMin : Nat := 1
  featMax : Nat := 2
  deriving DecidableEq, Repr

/-- The whole machine. `regs` holds every register that differs from its reset value, in one canonical form (sorted by
`RegKey.code`, no entry equal to the reset value); `out` is the record of outputs, `free` counts the free values taken
(the model's own field), `pending` the queue of commands. -/
structure State where
  clk : Clock := {}
  regs : List (RegKey × Nat) := []
  latches : List RegLatch := []
  held : List HeldWord := []
  winLatch : List WinLatch := []
  ident : Ident := {}
  power : PowerSt := {}
  kv : KvSt := {}
  host : HostSt := {}
  index : IndexSt := {}
  tun : TunSt := {}
  media : MediaSt := {}
  time : TimeSt := {}
  town : TownSt := {}
  ywp : YwpSt := {}
  net : NetSt := {}
  cip : CipSt := {}
  led : LedSt := {}
  drt : DrtSt := {}
  cfl : CflSt := {}
  upd : UpdSt := {}
  sup : SupSt := {}
  ev : EvSt := {}
  changes : List (Nat × Nat) := []
  out : List Output := []
  free : Nat := 0
  pending : List Instr := []
  deriving DecidableEq, Repr

/-- The machine right after reset (R711): a cold start has begun, every register reads its value of R765 with the option
area defaults of R766, no flash has been discovered, and nothing waits. -/
def State.reset : State := {}

end Sys2Proof.Machine
end

