-- ==== Sys2Proof/Machine/Ops.lean ====
section
/-!
DEFINITION. The named operations that every meaning shares: register fields, the clock, the event recorder's taking of a
record, outputs, free values, and the conditions under which the part serves anybody.
-/

namespace Sys2Proof.Machine

/-! ### Lists -/

/-- Apply `f` to every element that satisfies `p`. -/
def updWhere {α : Type} (p : α → Bool) (f : α → α) (l : List α) : List α := l.map fun x => if p x then f x else x

/-- The least of a list of numbers, or `d` of an empty one. -/
def minOf (d : Nat) : List Nat → Nat
  | [] => d
  | x :: xs => xs.foldl min x

/-- The least number from `n` on that is not in `l`, looking at `fuel` candidates. -/
def firstFree (l : List Nat) : Nat → Nat → Nat
  | 0, n => n
  | fuel + 1, n => if l.contains n then firstFree l fuel (n + 1) else n

/-- Insert in ascending order of `k`, after equals. -/
def insertBy {α : Type} (k : α → Nat) (x : α) : List α → List α
  | [] => [x]
  | y :: ys => if k x < k y then x :: y :: ys else y :: insertBy k x ys

/-- Sort in ascending order of `k`, keeping the order of equals. -/
def sortBy {α : Type} (k : α → Nat) (l : List α) : List α := l.foldl (fun acc x => insertBy k x acc) []

/-! ### Registers -/

/-- A register as one number: its place in the canonical order of `State.regs`, and its name in an event's KEY. -/
def RegKey.code (r : RegKey) : Nat := Nat.pair r.name.ctorIdx (Nat.pair r.i (Nat.pair r.j r.k))

/-- The value a register list holds for `r`: its entry, or the reset value. -/
def regLookup (r : RegKey) : List (RegKey × Nat) → Nat
  | [] => r.reset
  | (q, v) :: l => if q = r then v else regLookup r l

/-- The list without an entry for `r`. -/
def regErase (r : RegKey) (l : List (RegKey × Nat)) : List (RegKey × Nat) := l.filter fun e => decide (e.1 ≠ r)

/-- The list with the entry `v` for `r`, in the order of `RegKey.code`. -/
def regInsert (r : RegKey) (v : Nat) : List (RegKey × Nat) → List (RegKey × Nat)
  | [] => [(r, v)]
  | (q, w) :: l =>
    if q = r then (r, v) :: l
    else if r.code < q.code then (r, v) :: (q, w) :: l
    else (q, w) :: regInsert r v l

/-- Write a register: an entry equal to the reset value is removed, so that equal register files are equal lists. -/
def regWrite (r : RegKey) (v : Nat) (l : List (RegKey × Nat)) : List (RegKey × Nat) :=
  if v = r.reset then regErase r l else regInsert r v l

/-- The canonical form of a register list. -/
def regsOk : List (RegKey × Nat) → Bool
  | [] => true
  | [(r, v)] => decide (v ≠ r.reset)
  | (r, v) :: (q, w) :: l => decide (v ≠ r.reset) && decide (r.code < q.code) && regsOk ((q, w) :: l)

/-- The stored value of a register. -/
def State.reg (s : State) (r : RegKey) : Nat := regLookup r s.regs

/-- The state with register `r` holding `v`. -/
def State.setReg (s : State) (r : RegKey) (v : Nat) : State := { s with regs := regWrite r v s.regs }

/-- The register a field lies in, with its array indices. -/
def Fld.at (f : Fld) (i j k : Nat) : RegKey := ⟨f.reg, i, j, k⟩

/-- Read a field. -/
def State.fget (s : State) (f : Fld) (i : Nat := 0) (j : Nat := 0) (k : Nat := 0) : Nat := bits (s.reg (f.at i j k)) f.lsb f.w

/-- Write a field, cut to its width. -/
def State.fput (s : State) (f : Fld) (v : Nat) (i : Nat := 0) (j : Nat := 0) (k : Nat := 0) : State :=
  s.setReg (f.at i j k) (setBits (s.reg (f.at i j k)) f.lsb f.w v)

/-- Add to a counter field, which saturates at its largest value. -/
def State.fadd (s : State) (f : Fld) (n : Nat) (i : Nat := 0) (j : Nat := 0) (k : Nat := 0) : State :=
  s.fput f (satAdd f.w (s.fget f i j k) n) i j k

/-- Raise a peak field to `v` when it is lower. -/
def State.fmax (s : State) (f : Fld) (v : Nat) : State := s.fput f (min (max (s.fget f) v) (2 ^ f.w - 1))

/-- A one-bit field. -/
def State.flag (s : State) (f : Fld) (i : Nat := 0) (j : Nat := 0) (k : Nat := 0) : Bool := s.fget f i j k == 1

/-! ### The clock -/

/-- TIME-domain cycles in a microsecond: the counter runs at 600 MHz (R427). -/
def usCycles : Nat := 600

/-- TIME-domain cycles in a millisecond. -/
def msCycles : Nat := 600000

/-- TIME-domain cycles in a second. -/
def secCycles : Nat := 600000000

/-- Units of the accumulator in one nanosecond: 2^32 (R427). -/
def nsUnits : Nat := 2 ^ 32

/-- The counter at 2020-01-01T00:00:00 TAI (R429). -/
def epoch2020 : Nat := 1577836800 * 1000000000 * nsUnits

/-- What one TIME-domain cycle adds to the counter: PTP_INCR (R427). -/
def State.incr (s : State) : Nat := s.fget .ptpIncr_ns * nsUnits + s.fget .ptpIncr_fracNs

/-- `n` cycles pass (R427): the counter adds PTP_INCR for each. -/
def State.tickN (n : Nat) (s : State) : State := { s with clk := ⟨s.clk.cycles + n, s.clk.tai + n * s.incr⟩ }

/-- Time passes up to cycle `c`, if it lies ahead. -/
def State.waitCycle (c : Nat) (s : State) : State := s.tickN (c - s.clk.cycles)

/-- Time passes until the counter holds at least `t`, if it runs. -/
def State.waitTai (t : Nat) (s : State) : State :=
  if s.incr = 0 then s else s.tickN ((t - s.clk.tai + s.incr - 1) / s.incr)

/-- The counter value at the start of microsecond `u` of R429. -/
def taiOfUs (u : Nat) : Nat := epoch2020 + u * 1000 * nsUnits

/-- Whether a counter below the 2020 epoch yields no stamp (R429). -/
def State.below2020 (s : State) : Bool := decide (s.clk.tai < epoch2020)

/-- c_us of R429 without its fraction; 0 below the epoch. -/
def State.nowUs (s : State) : Nat := (s.clk.tai - epoch2020) / (1000 * nsUnits)

/-- R435: whether the counter has passed stamp `t`. -/
def State.passed (s : State) (t : Nat) : Bool := !s.below2020 && decide (t / 4096 + 1 ≤ s.nowUs)

/-- Milliseconds since cycle `c`. -/
def State.msSince (s : State) (c : Nat) : Nat := (s.clk.cycles - c) / msCycles

/-- Microseconds since cycle `c`. -/
def State.usSince (s : State) (c : Nat) : Nat := (s.clk.cycles - c) / usCycles

/-- SEC and NS of R427. -/
def State.sec (s : State) : Nat := s.clk.tai / (1000000000 * nsUnits)
def State.ns (s : State) : Nat := s.clk.tai / nsUnits % 1000000000

/-! ### Outputs and free values -/

/-- Record an output. -/
def State.emit (s : State) (o : Output) : State := { s with out := s.out ++ [o] }

/-- Take the next free value. -/
def State.fresh (s : State) : Nat × State := (Config.freeValue s.free, { s with free := s.free + 1 })

/-! ### When the part acts -/

/-- The part is out of reset (R712: it enters reset when a flush ends), and neither halted nor inert (R669). -/
def State.alive (s : State) : Bool := !(s.power.porstLow && !s.tun.flushing) && s.power.halt.isNone && !s.upd.inert

/-- Stage READY has been reached (R717). -/
def State.ready (s : State) : Bool := s.alive && s.power.ready

/-- The data path runs: READY, and no flush (R213). -/
def State.serving (s : State) : Bool := s.ready && !s.tun.flushing

/-- The network paths run: READY or in stage TOWN, where a part joins (R378, R717), not in Slumber, no flush. -/
def State.netOn (s : State) : Bool :=
  s.alive && (s.power.ready || (decide (s.power.stage = 9) && decide (s.power.failStage = 0))) && !s.tun.flushing && decide (s.power.pstate ≠ 3)

/-- Sessions run: while the network paths do, and through a flush, when requests alone are not accepted (R213). -/
def State.linkOn (s : State) : Bool := s.netOn || (s.ready && s.tun.flushing && decide (s.power.pstate ≠ 3))

/-- The host engine runs: READY, not in Slumber, no flush (R213), PERST_N high (R714). -/
def State.hostOn (s : State) : Bool :=
  s.ready && decide (s.power.pstate ≠ 3) && !s.tun.flushing && !s.host.perst

/-- Run `f` when `c` holds; otherwise nothing happens. -/
def when (c : Bool) (f : State → State) (s : State) : State := if c then f s else s

/-- The part has accepted flash (R6). -/
def State.hasFlash (s : State) : Bool := s.media.luns.any fun l => decide (l.state = .accepted ∨ l.state = .failed)

/-- The part is a Town member (TWN_STAT.ROLE is not 0). -/
def State.isMember (s : State) : Bool := decide (s.town.role ≠ 0)

/-- This part's member ID (R46, R371). -/
def State.memberId (s : State) : Nat := s.fget .twnCfg_memberId

/-- This part's member handle (R371). -/
def State.handle (s : State) : Nat := s.memberId + s.town.incarnation * 16384

/-! ### The event recorder -/

/-- The block ID of the block that reports an event (R675, R695). -/
def evSource : EvKind → Nat
  | .pdFailedStage | .setupDenied | .strapReserved | .uncleanOff => 0x00
  | .swapRefused | .swapFailed | .dbInvalid | .fetchError | .napExit | .resultPoisoned => 0x01
  | .stagedDiscarded | .internalFault => 0x02
  | .leafRebuildStart | .leafRebuildEnd => 0x03
  | .adParity => 0x04
  | .tunEntryBad | .tunSizeKept | .flushIncomplete | .replayDone => 0x05
  | .trainStep | .lunExcluded | .fewChannels | .unrecoverable | .programFail | .eraseFail | .verifyFail | .parityLost
  | .rebuilt | .lunFailed | .readOnlySet | .spareWarn | .floorSet => 0x06
  | .dramUncorrectable | .dramTrainFail => 0x07
  | .bankChange | .linkDown | .parkStopped | .parkRecovery | .changeErr | .class7Refused | .wakeBad => 0x08
  | .rekey | .sessionClosed => 0x09
  | .ptpNoPort | .backwardIgnored | .timeFault | .timeLocked | .timeHoldover | .timePps | .timeUnsynced | .untrusted
  | .trusted => 0x0A
  | .termRound | .joinRefused | .wardsAbandoned | .noStandby | .memberFailed | .fenced => 0x0B
  | .keyIsolation | .keyLoadRefused | .keyDistRefused | .drbgFail => 0x0C
  | .sensorInvalid | .groupWarn | .groupTrip | .critHalt => 0x0D
  | .channelRestart | .channelFault | .driverFault | .chopFault | .overvoltage | .undervoltage | .busShort => 0x0E
  | .optEntryIgnored | .optFieldDefault | .optDegraded | .cflWarn | .cflUncorr | .cflVerifyFail | .cflBusFault => 0x0F
  | .pieceSlotFail | .confirmTimeoutBad | .bankRejected | .bankConfirmed | .trialExpired | .recoveryEntered => 0x10
  | .start | .logCleared | .replayed => 0x11
  | .refLost => 0x12
  | .other c => c / 256

/-- The code of an event (R675, R676). -/
def evCode : EvKind → Nat
  | .start => 0x1101
  | .logCleared => 0x1102
  | .replayed => 0x1103
  | .other c => c
  | k => evSource k * 256 + Config.eventCode k.ctorIdx % 256

/-- Two events carry the same code. -/
def sameEvent : EvKind → EvKind → Bool
  | .other a, .other b => a == b
  | .other a, k => a == evCode k
  | k, .other b => evCode k == b
  | j, k => decide (j = k)

/-- Operating seconds (R677). -/
def State.opSeconds (s : State) : Nat := min (2 ^ 32 - 1) (s.ev.baseS + (s.clk.cycles - s.ev.since) / secCycles)

/-- Records of the log that stand in the front buffer: those whose second chunk is not programmed (R679, R680). -/
def EvSt.front (e : EvSt) : Nat := (e.log.filter fun r => !r.prog2).length

/-- The newest record. -/
def EvSt.newest (e : EvSt) : Option EvRec := e.log.getLast?

/-- Change the newest record. -/
def EvSt.mapNewest (e : EvSt) (f : EvRec → EvRec) : EvSt :=
  match e.log.getLast? with
  | none => e
  | some r => { e with log := e.log.dropLast ++ [f r] }

/-- An event joins the log (R679 to R681): a repeat of the open record adds to it; a full log or a full front buffer drops
the event and counts it; otherwise it becomes the open record, which enters
the front buffer (R758). -/
def State.reportFrom (s : State) (kind : EvKind) (source key data : Nat) : State :=
  let e := s.ev
  let isRep := e.isOpen && (match e.newest with
    | some r => sameEvent r.kind kind && decide (r.source = source ∧ r.key = key)
    | none => false)
  if isRep then
    { s with ev := e.mapNewest fun r => { r with rep := satAdd 16 r.rep 1, lastS := s.opSeconds } }
  else if e.full then
    { s with ev := { e with isOpen := false, lost := satAdd 32 e.lost 1 } }
  else if 256 ≤ e.front then
    { s with ev := { e with lost := satAdd 32 e.lost 1 } }
  else
    let r : EvRec :=
      { kind := kind, source := source, cycle := e.cycle, firstS := s.opSeconds, key := key, data := data, lastS := s.opSeconds }
    { s with ev := { e with log := e.log ++ [r], isOpen := true, full := decide (e.log.length + 1 ≥ 16384) }
             sup := { s.sup with plic := { s.sup.plic with event := true } } }

/-- A block of this part reports an event. -/
def State.report (s : State) (kind : EvKind) (key : Nat := 0) (data : Nat := 0) : State := s.reportFrom kind (evSource kind) key data

/-! ### The frame around every meaning -/

/-- Count a change of a block's objects (R690). -/
def bump (b : Nat) (c : Bool) (l : List (Nat × Nat)) : List (Nat × Nat) :=
  if c then (if l.any (fun x => x.1 == b) then updWhere (fun x => x.1 == b) (fun x => (x.1, x.2 + 1)) l else l ++ [(b, 1)]) else l

/-- The change counts after a command that took `s` to `t`. -/
def changeSeqs (s t : State) : List (Nat × Nat) :=
  bump 0x00 (decide (s.power ≠ t.power)) <| bump 0x01 (decide (s.host ≠ t.host)) <| bump 0x02 (decide (s.kv ≠ t.kv)) <|
  bump 0x03 (decide (s.index ≠ t.index)) <| bump 0x04 (decide (s.tun.rows ≠ t.tun.rows)) <|
  bump 0x05 (decide (s.tun.entries ≠ t.tun.entries)) <| bump 0x06 (decide (s.media ≠ t.media)) <|
  bump 0x08 (decide (s.net ≠ t.net)) <| bump 0x09 (decide (s.ywp ≠ t.ywp)) <| bump 0x0A (decide (s.time ≠ t.time)) <|
  bump 0x0B (decide (s.town ≠ t.town)) <| bump 0x0C (decide (s.cip ≠ t.cip)) <| bump 0x0D (decide (s.led ≠ t.led)) <|
  bump 0x0E (decide (s.drt ≠ t.drt)) <| bump 0x0F (decide (s.cfl ≠ t.cfl)) <| bump 0x10 (decide (s.upd ≠ t.upd)) <|
  bump 0x11 (decide (s.ev ≠ t.ev)) <| bump 0x13 (decide (s.sup ≠ t.sup)) t.changes

/-- The outcome of a meaning that took `s` to `t`: the queue stands, time has not run backward, and the change counts of
the blocks are kept. -/
def settle (s t : State) : State :=
  { t with pending := s.pending, clk := ⟨max s.clk.cycles t.clk.cycles, t.clk.tai⟩, changes := changeSeqs s t }

/-- The parts of the state, but for the registers, which are named one by one, and for the queue, which no command writes. -/
inductive Part where
  | clk | latches | held | winLatch | ident | power | kv | host | index | tun | media | time | town | ywp
  | net | cip | led | drt | cfl | upd | sup | ev | changes | out | free
  deriving DecidableEq, Repr

/-- Every part but the identity of the part, which only a start reads. -/
def coldParts : List Part :=
  [.clk, .latches, .held, .winLatch, .power, .kv, .host, .index, .tun, .media, .time, .town, .ywp, .net, .cip,
   .led, .drt, .cfl, .upd, .sup, .ev, .changes, .out, .free]

/-- What the end of an operation can write: its context, its ring or session, its message, and the events of both. -/
def finishParts : List Part := [.ev, .host, .kv, .media, .out, .sup, .tun, .ywp]

/-- What a session packet or timer can write. -/
def sessionParts : List Part := [.cip, .ev, .kv, .media, .out, .sup, .tun, .ywp]

/-- What a data command can write. -/
def dataParts : List Part := [.ev, .free, .host, .index, .kv, .media, .net, .out, .power, .sup, .time, .tun, .ywp]

/-- What a Town message or control can write. -/
def townParts : List Part := [.cip, .ev, .host, .index, .kv, .media, .net, .out, .power, .sup, .time, .town, .tun, .ywp]

/-- The port counters. -/
def countRegs : List RegName := [.netCnt, .netCntHalf]

/-- The ring status registers. -/
def ringRegs : List RegName := [.hqAdmStat, .hqRingStat]

/-- The registers a data command can write. -/
def dataRegs : List RegName := [.adErr, .adStat, .hqAdmStat, .hqRingStat, .kveIdxStat, .netCnt, .netCntHalf, .ptpWaitStat, .ywpKeyStat]

/-- The registers a Town message or control can write. -/
def townRegs : List RegName :=
  [.adStat, .hqAdmStat, .hqRingStat, .kveSnapCtrl, .netCnt, .netCntHalf, .twnDrop, .twnHbCtrl, .twnRetryCtrl, .ywpKeyStat]

/-- The registers of a key page that its commands write. -/
def keyPageRegs : List RegName := [.cipKpSlotStat, .cipKpStat, .cipKpTrk, .cipKpUse, .cipKpWrap]

/-- The ledger's registers. -/
def ledRegs : List RegName :=
  [.ledBucket, .ledCap, .ledCost, .ledCtrl, .ledCurve, .ledGrpCtrl, .ledI3cCtrl, .ledLimit, .ledSens, .ledStat, .ledTemp,
   .ledThermCtrl, .ledThermStat]

/-- The registers of a function's pages. -/
def pageRegs : List RegName :=
  [.cipKpCmd, .cipKpSlotStat, .cipKpStat, .cipKpTrk, .cipKpUse, .cipKpWrap, .evtCursor, .evtNonce, .evtStat, .evtTime,
   .evtWindow, .hqAdmCoal, .hqAdmCqBase, .hqAdmCtrl, .hqAdmKick, .hqAdmSqBase, .hqAdmStat, .hqCoal, .hqCqBase, .hqDbBase,
   .hqFuncCtrl, .hqFuncStat, .hqRingCtrl, .hqRingStat, .hqSqBase, .hqSumAddr, .stwData, .stwSel, .stwStat]

/-- The registers `new` with every register whose name is not in `ns` as `old` has it. -/
def reachRegs (ns : List RegName) (old new : List (RegKey × Nat)) : List (RegKey × Nat) :=
  (new.filter fun e => ns.contains e.1.name).foldr (fun e l => regWrite e.1 e.2 l) (old.filter fun e => !ns.contains e.1.name)

/-- What a command that reaches the parts `ps` and the registers named in `ns` leaves: inside them what its meaning computed
in `t`, outside them what stood in `s`. Every meaning writes inside its reach alone, so this changes nothing that a meaning
does: it says once what a command can write. -/
def State.within (ps : List Part) (ns : List RegName) (s t : State) : State :=
  { pending := s.pending
    regs := reachRegs ns s.regs t.regs
    clk := if ps.contains .clk then t.clk else s.clk
    latches := if ps.contains .latches then t.latches else s.latches
    held := if ps.contains .held then t.held else s.held
    winLatch := if ps.contains .winLatch then t.winLatch else s.winLatch
    ident := if ps.contains .ident then t.ident else s.ident
    power := if ps.contains .power then t.power else s.power
    kv := if ps.contains .kv then t.kv else s.kv
    host := if ps.contains .host then t.host else s.host
    index := if ps.contains .index then t.index else s.index
    tun := if ps.contains .tun then t.tun else s.tun
    media := if ps.contains .media then t.media else s.media
    time := if ps.contains .time then t.time else s.time
    town := if ps.contains .town then t.town else s.town
    ywp := if ps.contains .ywp then t.ywp else s.ywp
    net := if ps.contains .net then t.net else s.net
    cip := if ps.contains .cip then t.cip else s.cip
    led := if ps.contains .led then t.led else s.led
    drt := if ps.contains .drt then t.drt else s.drt
    cfl := if ps.contains .cfl then t.cfl else s.cfl
    upd := if ps.contains .upd then t.upd else s.upd
    sup := if ps.contains .sup then t.sup else s.sup
    ev := if ps.contains .ev then t.ev else s.ev
    changes := if ps.contains .changes then t.changes else s.changes
    out := if ps.contains .out then t.out else s.out
    free := if ps.contains .free then t.free else s.free }

/-- The answer of a meaning that took `s` to `t`, with its reach. -/
def done (ps : List Part) (ns : List RegName) (s t : State) : Host.Outcome State Fault Refusal := .next (settle s (s.within ps ns t))

end Sys2Proof.Machine
end

