-- ==== Sys2Proof/Machine/Crossing.lean ====
section
/-!
DEFINITION. Crossing schedules (R474 to R478): the spans of a list, the class 7 test, the gates at an instant, and how long a
class's gate stays open.
-/

namespace Sys2Proof.Machine

/-- A port exists in the port mode in force (R459, R464); the management port always does. -/
def State.portExists (s : State) (p : Nat) : Bool := decide (p = 8 ∨ p < 2 ^ s.net.mode)

/-- A data port of the mode in force. -/
def State.dataPort (s : State) (p : Nat) : Bool := decide (p < 2 ^ s.net.mode ∧ p < 8)

/-- Lanes of a data port at full width (R459). -/
def State.fullLanes (s : State) : Nat := 8 / 2 ^ s.net.mode

/-- A port's record. -/
def State.port (s : State) (p : Nat) : Port := (s.net.ports.find? fun x => x.p == p).getD { p := p }

/-- Change a port's record. -/
def State.modPort (s : State) (p : Nat) (g : Port → Port) : State :=
  { s with net := { s.net with ports := insertBy (fun x => x.p) (g (s.port p)) (s.net.ports.filter fun x => x.p != p) } }

/-- The entries of a bank: gates and interval (R474). -/
def State.crossList (s : State) (p bank len : Nat) : List (Nat × Nat) :=
  (List.range len).map fun i => (s.fget .netCrossList_gates p bank i, s.fget .netCrossList_intervalNs p bank i)

/-- A cycle's spans (R476): entries run in order, are cut at CYCLE, and the last one holds until the cycle ends. -/
def cycleSpans : Nat → List (Nat × Nat) → List (Nat × Nat)
  | _, [] => []
  | left, [(g, _)] => [(g, left)]
  | left, (g, n) :: l => if left ≤ n then [(g, left)] else (g, n) :: cycleSpans (left - n) l

/-- Spans of one class: open or closed, with neighbours of one kind joined. -/
def classSpans (t : Nat) : List (Nat × Nat) → List (Bool × Nat)
  | [] => []
  | (g, n) :: l =>
    match classSpans t l with
    | (b, m) :: r => if b = bitAt g t then (b, n + m) :: r else (bitAt g t, n) :: (b, m) :: r
    | [] => [(bitAt g t, n)]

/-- The spans of a class with the wrap from cycle end to cycle start joined. -/
def wrapSpans (l : List (Bool × Nat)) : List (Bool × Nat) :=
  match l.head?, l.getLast? with
  | some a, some b => if 1 < l.length ∧ a.1 = b.1 then (a.1, a.2 + b.2) :: (l.drop 1).dropLast else l
  | _, _ => l

/-- The class 7 test of R478: closed for more than 50 µs, or open for less than 1 µs. -/
def crossFails (entries : List (Nat × Nat)) (cycleNs : Nat) : Bool :=
  let l := wrapSpans (classSpans 7 (cycleSpans cycleNs entries))
  l.any (fun x => !x.1 && (decide (50000 < x.2) || l.length == 1)) || l.any (fun x => x.1 && decide (x.2 < 1000) && decide (1 < l.length))

/-- A data port whose operative schedule fails the test before a JOIN (R478). -/
def State.crossingFails (s : State) : Bool :=
  (List.range 8).any fun p => s.dataPort p && s.flag .netCrossCtrl_en p &&
    (let c := (s.port p).sched; crossFails (s.crossList p c.bank c.len) c.cycleNs)

/-- Where the operative cycle stands, in ns (R476). -/
def State.cyclePos (s : State) (p : Nat) : Nat := let c := (s.port p).sched; (((s.clk.tai : Int) - c.base) / nsUnits % ((max 1 c.cycleNs : Nat) : Int)).toNat

/-- The spans of the operative schedule of a port. -/
def State.operSpans (s : State) (p : Nat) : List (Nat × Nat) := let c := (s.port p).sched; cycleSpans c.cycleNs (s.crossList p c.bank c.len)

/-- Gates at a position of a cycle. -/
def gatesAt : Nat → List (Nat × Nat) → Nat
  | _, [] => 255
  | pos, (g, n) :: l => if pos < n ∨ l.isEmpty then g else gatesAt (pos - n) l

/-- Time until class `t`'s gate next closes, from a position of the cycle; none when it never does. -/
def State.openFor (s : State) (p t : Nat) : Option Nat :=
  if !s.flag .netCrossCtrl_en p ∨ p = 8 then none
  else
    let l := classSpans t (s.operSpans p)
    if l.all fun x => x.1 then none
    else
      let rec go : Nat → List (Bool × Nat) → Nat
        | _, [] => 0
        | pos, (b, n) :: r => if pos < n then (if b then n - pos + (if r.isEmpty then (match l with | (true, m) :: _ => m | _ => 0) else 0) else 0) else go (pos - n) r
      some (go (s.cyclePos p) l)

/-- The longest open span of a class, counted across cycle boundaries (R477); none when it is never closed. -/
def State.longestOpen (s : State) (p t : Nat) : Option Nat :=
  if !s.flag .netCrossCtrl_en p ∨ p = 8 then none
  else
    let l := wrapSpans (classSpans t (s.operSpans p))
    if l.all fun x => x.1 then none else some (((l.filter fun x => x.1).map fun x => x.2).foldl max 0)

/-- The gate of a class stands open now. -/
def State.gateOpen (s : State) (p t : Nat) : Bool :=
  if !s.flag .netCrossCtrl_en p ∨ p = 8 then true else bitAt (gatesAt (s.cyclePos p) (s.operSpans p)) t

end Sys2Proof.Machine
end

