-- ==== Sys2Proof/Machine/Flags.lean ====
section
/-!
DEFINITION. Status codes (R106, R162, R271, R416, R686 and the other status tables), the order in which statuses are
judged (R105, R777), and the conditions that refuse operations: ownership, space, media and time.
-/

namespace Sys2Proof.Machine

/-! ### Status codes -/

def stOk : Nat := 0x0000
def stTruncated : Nat := 0x0001
def stNotFound : Nat := 0x0002
def stCondFalse : Nat := 0x0003
def stOpcodeInvalid : Nat := 0x0100
def stFieldInvalid : Nat := 0x0101
def stLengthLimit : Nat := 0x0102
def stBatchTooLarge : Nat := 0x0103
def stKspUnknown : Nat := 0x0104
def stStageUnknown : Nat := 0x0105
def stSglInvalid : Nat := 0x0106
def stBatchSplit : Nat := 0x0107
def stStageLimit : Nat := 0x0108
def stSnapLimit : Nat := 0x0109
def stKspExists : Nat := 0x010A
def stKspBusy : Nat := 0x010B
def stPowerBusy : Nat := 0x010C
def stAborted : Nat := 0x0200
def stResetDone : Nat := 0x0201
def stNoSpace : Nat := 0x0300
def stExhausted : Nat := 0x0301
def stDataLost : Nat := 0x0302
def stEraseSuspended : Nat := 0x0303
def stAccessDenied : Nat := 0x0400
def stSlotEmpty : Nat := 0x0401
def stCipherLimit : Nat := 0x0402
def stIntegrityFail : Nat := 0x0403
def stNonceStale : Nat := 0x0404
def stMoved : Nat := 0x0500
def stPeerUnreachable : Nat := 0x0501
def stTimeUntrusted : Nat := 0x0502
def stVersion : Nat := 0x0503
def stSnapTooOld : Nat := 0x0504
def stTownFrozen : Nat := 0x0505
def stNotMember : Nat := 0x0506
def stMemberConflict : Nat := 0x0507
def stInternalFault : Nat := 0x0F00

/-- The first condition that holds names the status. -/
def firstStatus : List (Bool × Nat) → Option Nat
  | [] => none
  | (c, st) :: l => if c then some st else firstStatus l

/-- R55, R56: whether a status reports the current version of the key. -/
def describesVersion (st : Nat) : Bool := st == stOk || st == stTruncated || st == stNotFound || st == stCondFalse

/-! ### The uncertainty bound and admission by time (R433, R436 to R438) -/

/-- ε in counter units, or none while it is infinite (R433, R429). -/
def State.epsUnits (s : State) : Option Nat :=
  if s.time.epsInf || decide (s.time.state < 2) || s.below2020 then none
  else
    let base := (s.time.m + s.time.a).toNat * nsUnits
    let dNs := (s.clk.cycles - s.time.updated.getD s.clk.cycles) * 5 / 3
    some (base + s.fget .ptpEpsCtrl_epsDriftPpb * dNs * nsUnits / 1000000000)

/-- ε as R436 takes it: 0 on a part that is not a Town member. -/
def State.epsFor (s : State) : Option Nat := if s.isMember then s.epsUnits else some 0

/-- The stamp microsecond floor(c + e) of R436. -/
def State.stampUs (s : State) (e : Nat) : Nat := (s.clk.tai + e - epoch2020) / (1000 * nsUnits)

/-- R436, R438: a Town member refuses a wait beyond WAIT_CAP_US for the stamp microsecond `u`, and every one while
UNTRUSTED is 1. -/
def State.waitTooLong (s : State) (u : Nat) : Bool :=
  s.isMember && (s.time.untrusted || decide (taiOfUs (u + 1) - s.clk.tai > s.fget .ptpEpsCtrl_waitCapUs * 1000 * nsUnits))

/-- The outcome of asking for a stamp. -/
inductive StampAsk where
  | stamp (v : Nat)
  | wait
  | refused
  deriving DecidableEq, Repr

/-- assign_stamp of R436, as a question: the stamp it would give now, a wait for the next microsecond (R47), or
TIME_UNTRUSTED (R101). -/
def State.askStamp (s : State) : StampAsk :=
  match s.epsFor with
  | none => .refused
  | some e =>
    let u := max (s.stampUs e) s.kv.lastU
    if u = s.kv.lastU ∧ s.kv.lastK = 0xFFF then .wait
    else if s.waitTooLong u then .refused
    else .stamp (u * 4096 + if u = s.kv.lastU then s.kv.lastK + 1 else 0)

/-- The sequence after stamp `v` has been assigned (R436). -/
def State.tookStamp (s : State) (v : Nat) : State := { s with kv := { s.kv with lastU := v / 4096, lastK := v % 4096 } }

/-- R438: a refusal for time sets UNTRUSTED at its first, with an event, and counts. -/
def State.refuseTime (s : State) : State :=
  let s := s.fadd .ptpWaitStat_refused 1
  if s.time.untrusted then s else { s with time := { s.time with untrusted := true } }.report .untrusted

/-- The last stamp assigned: the read stamp of R49. -/
def State.lastStamp (s : State) : Nat := s.kv.lastU * 4096 + s.kv.lastK

/-- The snapshot stamp T of R86: counter bits 0xFFF, or none when time is untrusted on a Town member. -/
def State.snapStamp (s : State) : Option Nat :=
  match s.epsFor with
  | none => none
  | some e => let u := s.stampUs e; if s.waitTooLong u then none else some (u * 4096 + 0xFFF)

/-! ### Retention (R85) -/

/-- The retention window in microseconds. -/
def State.retainUs (s : State) : Nat := s.fget .kveSnapCtrl_retainMs * 1000

/-- R85: a snapshot stamp outside the retention window. -/
def State.tooOld (s : State) (t : Nat) : Bool := decide (s.retainUs = 0) || decide (t / 4096 + s.retainUs < s.nowUs)

/-- A stamp older than the clock minus the retention window (R286, R287). -/
def State.outOfWindow (s : State) (t : Nat) : Bool := decide (t / 4096 + s.retainUs < s.nowUs)

/-! ### Ownership (R387, R6, R30) -/

/-- Who serves a Ward, as this part's map has it. `hold`: this part, while its lease has lapsed or the Ward is in the cut. -/
inductive Owner where
  | self | remote (member : Nat) | nobody | hold
  deriving DecidableEq, Repr

/-- The map entry of a Ward; an unlisted Ward has no owner. -/
def State.wardEntry (s : State) (w : Nat) : WardEntry :=
  (s.town.wards.find? fun e => e.ward == w).getD { ward := w, owner := 0, assigned := false }

/-- R387, R388 and R6: the owner of a Ward. -/
def State.wardOwner (s : State) (w : Nat) : Owner :=
  if s.isMember then
    let e := s.wardEntry w
    if !e.assigned then .nobody
    else if e.owner ≠ s.memberId then .remote e.owner
    else if s.town.state = 3 ∨ s.town.cuts.any (fun c => c.1 == w) then .hold
    else .self
  else if s.flag .twnCfg_townEn then .nobody
  else if s.hasFlash then .self
  else .nobody

/-- R399, R389: an ORPHAN Ward answers nothing on a keyspace of replication factor 1. -/
def State.orphaned (s : State) (w rf : Nat) : Bool := s.isMember && (s.wardEntry w).orphan && decide (rf ≤ 1)

/-- The members that must acknowledge a change of Ward `w` at replication factor `rf` (R382, R390): the replicas and the
target of a transfer. -/
def State.receivers (s : State) (w rf : Nat) : List Nat :=
  if s.isMember ∧ 2 ≤ rf then
    let reps := (s.wardEntry w).reps.take (rf - 1)
    let targets := (s.town.transfers.filter fun t => t.ward == w).map fun t => t.target % 16384
    (reps ++ targets.filter fun m => !reps.contains m).filter fun m => m ≠ s.memberId
  else []

/-! ### Space (R99, R100, R303) -/

/-- R303: below the reserve, mutations that add data are refused. -/
def State.noSpace (s : State) : Bool := decide (2 ≤ s.media.spaceState)

end Sys2Proof.Machine
end

