-- ==== Sys2Proof/Machine/TimeOps.lean ====
section
/-!
DEFINITION. The time engine (R424 to R446): the servo's action on an update, the states of R432, the best master clock
algorithm, and the end of PTP on a port.
-/

namespace Sys2Proof.Machine

/-- The layout of PTP_TIME and PTP_PPS_TS (R448, R457). -/
def timeWord (tai : Nat) : Nat :=
  let sec := tai / (1000000000 * nsUnits)
  let ns := tai / nsUnits % 1000000000
  tai / 65536 % 65536 + ns * 65536 + sec % 2 ^ 48 * 2 ^ 48

/-- The signed log2 intervals of PTP_CTRL, in cycles. -/
def logCycles (v : Nat) : Nat := if v < 8 then secCycles * 2 ^ v else secCycles / 2 ^ (16 - v)

/-- PTP runs: ENABLE, and PORT exists in the port mode in force (R425). Its domain is unpowered in Slumber. -/
def State.ptpOn (s : State) : Bool :=
  s.alive && decide (s.power.pstate ≠ 3) && s.flag .ptpCtrl_enable && s.portExists (s.fget .ptpCtrl_port)

/-- ε is infinite from now on; PPS_OUT stays low meanwhile (R446). -/
def TimeSt.noEps (t : TimeSt) : TimeSt := { t with epsInf := true, ppsOut := false }

/-- PTP ends on its port: ENABLE written 0, or the port lost (R432). -/
def State.ptpOff (s : State) : State :=
  let was := s.time.state
  let s := { s with time := { s.time with state := 0, portState := 0, streak := 0, rejects := 0, path := none, master := none, foreign := [] }.noEps }
  if was = 0 then s else s.report .timeUnsynced

/-- PTP begins: listening on its port, or an event when the port does not exist (R425). -/
def State.ptpBegin (s : State) : State :=
  if s.portExists (s.fget .ptpCtrl_port) then { s with time := { s.time with portState := 4 } } else s.report .ptpNoPort

/-- UNTRUSTED ends, with an event, when ε is at or below WAIT_CAP_US / 2 (R438). -/
def State.trustCheck (s : State) : State :=
  match s.epsUnits with
  | none => s
  | some e =>
    if s.time.untrusted ∧ e * 2 ≤ s.fget .ptpEpsCtrl_waitCapUs * 1000 * nsUnits then
      { s with time := { s.time with untrusted := false } }.report .trusted
    else s

/-- PTP_INCR at the nominal rate (R450). -/
def nominalIncr : Nat := 0x1AAAAAAAB

/-- The increment at a rate offset in ppm, less half the drift that EPS_DRIFT_PPB allows (R430). -/
def incrAt (ppm : Int) (driftPpb : Nat) : Nat :=
  ((nominalIncr : Int) + nominalIncr * ppm / 1000000 - (nominalIncr * driftPpb / 2000000000 : Nat)).toNat

/-- Write PTP_INCR. -/
def State.setIncr (s : State) (v : Nat) : State := (s.fput .ptpIncr_fracNs (v % nsUnits)).fput .ptpIncr_ns (v / nsUnits)

/-- The servo sets the rate (R430, R431): the filter's offset bounded by SLEW_PPM, or SLEW_PPM slower. -/
def State.setRate (s : State) (err : Int) (ahead : Bool) : State :=
  let slew := s.fget .ptpServoCtrl_slewPpm
  let drift := s.fget .ptpEpsCtrl_epsDriftPpb
  if ahead then s.setIncr (incrAt (-(slew : Int)) drift)
  else
    let i := s.time.integral + err
    let s := { s with time := { s.time with integral := i } }
    let r := Config.servoRate err i (s.fget .ptpServoCtrl_kpShift) (s.fget .ptpServoCtrl_kiShift)
    s.setIncr (incrAt (max (-(slew : Int)) (min slew r)) drift)

/-- The action of R431 on an accepted update with lag `m` and error bound `a`, and whether it stepped. A step that would not
move the counter forward is ignored with an event (R428). -/
def State.actOn (s : State) (m : Int) (a : Nat) : State × Bool :=
  let s := { s with time := { s.time with a := a, updated := some s.clk.cycles, updates := (s.time.updates ++ [(m, a)]).drop (s.time.updates.length + 1 - 8) } }
  if m - a < 0 then
    let s := { s with time := { s.time with m := m }.noEps }
    let s := s.setRate 0 true
    if m + a < 0 then ((s.fput .ptpStat_timeFault 1).report .timeFault, false) else (s, false)
  else if (s.fget .ptpServoCtrl_stepNs : Int) < m then
    let by_ := m - a - 8
    if 0 ≤ by_ then
      ({ s with clk := ⟨s.clk.cycles, s.clk.tai + by_.toNat * nsUnits⟩, time := { s.time with m := a + 8, epsInf := false } }, true)
    else ({ s with time := { s.time with m := m, epsInf := false } }.report .backwardIgnored, false)
  else ({ s with time := { s.time with m := m, epsInf := false } }.setRate (m - (a + 8)) false, false)

/-- What an accepted update makes of STATE (R432). -/
def State.stateAfter (s : State) (stepped : Bool) : State :=
  match s.time.state with
  | 0 => { s with time := { s.time with state := 1, streak := 0 } }
  | 1 =>
    if stepped then { s with time := { s.time with streak := 0 } }
    else if s.time.streak = 7 then { s with time := { s.time with state := 2, streak := 0, portState := if s.time.portState = 8 then 9 else s.time.portState } }.report .timeLocked
    else { s with time := { s.time with streak := s.time.streak + 1 } }
  | 3 => { s with time := { s.time with state := 2, portState := if s.time.portState = 8 then 9 else s.time.portState } }.report .timeLocked
  | _ => s

/-- Judge the path delay of an exchange (R431): an outlier is rejected and counted, but the third in a row is accepted. -/
def State.pathRejects (s : State) (path a : Nat) : Bool :=
  match s.time.path with
  | none => false
  | some f => decide (4 * a + s.fget .ptpServoCtrl_stepNs < path - f + (f - path)) && decide (s.time.rejects < 2)

/-- The filtered path delay after an accepted sample; the first stands as it is. -/
def State.pathAfter (s : State) (path : Nat) : Nat := match s.time.path with | none => path | some f => Config.pathFilter f path

/-! ### The best master clock algorithm (R424, R425) -/

/-- The clock identity of IEEE 1588: the MAC address of the PTP port as an EUI-64, first octet highest (PRESUMED, log entry 44). -/
def State.clockId (s : State) : Nat :=
  let o := fun (i : Nat) => bits (s.fget .netMacAddr_addr (s.fget .ptpCtrl_port)) (8 * i) 8
  [o 0, o 1, o 2, 0xFF, 0xFE, o 3, o 4, o 5].foldl (fun a b => a * 256 + b) 0

/-- The data set of this clock: clockClass 6 in PPS (R445), 248 otherwise, accuracy and variance unknown (PRESUMED, log entry
44). -/
def State.ownClock (s : State) : Foreign :=
  { clockId := s.clockId, priority1 := s.fget .ptpCtrl_priority1, cls := if s.time.state = 4 then 6 else 248, accuracy := 0xFE, variance := 0xFFFF,
    priority2 := s.fget .ptpCtrl_priority2, steps := 0 }

/-- The better of two data sets: the first field that differs, lower wins; of one clock the fewer steps. -/
def betterClock (x y : Foreign) : Bool :=
  if x.clockId = y.clockId then decide (x.steps < y.steps)
  else
    let xs := [x.priority1, x.cls, x.accuracy, x.variance, x.priority2, x.clockId]
    let ys := [y.priority1, y.cls, y.accuracy, y.variance, y.priority2, y.clockId]
    match (xs.zip ys).find? fun p => p.1 != p.2 with
    | some p => decide (p.1 < p.2)
    | none => false

/-- A foreign master counts after two Announce messages within four Announce intervals (IEEE 1588; PRESUMED, log entry 44). -/
def State.qualified (s : State) (f : Foreign) : Bool :=
  let w := 4 * logCycles (s.fget .ptpCtrl_logAnnounce)
  (match f.prev with | some p => decide (f.last ≤ p + w) | none => false) && decide (s.clk.cycles ≤ f.last + w) && decide (f.steps < 255)

/-- Run the BMCA: the best foreign master is selected, unless ROLE 1 and this clock is better. A grandmaster (ROLE 2) selects
none. -/
def State.bmca (s : State) : State :=
  let role := s.fget .ptpCtrl_role
  if role = 2 then s
  else
    let l := s.time.foreign.filter fun f => s.qualified f
    let best := l.foldl (fun b f => match b with | none => some f | some x => some (if betterClock f x then f else x)) none
    match best with
    | none => s
    | some f =>
      if role = 1 ∧ betterClock s.ownClock f then { s with time := { s.time with master := none, portState := 6 } }
      else { s with time := { s.time with master := some f.clockId, portState := if s.time.state = 2 ∧ s.time.master = some f.clockId then 9 else if s.time.portState = 9 ∧ s.time.master = some f.clockId then 9 else 8 } }

end Sys2Proof.Machine
end

