-- ==== Sys2Proof/Machine/Operands.lean ====
section
/-!
DEFINITION. The operand forms of commands: the descriptor (R129, R130), scatter-gather lists (R131, R132, R53), the field
rules of the data opcodes (R51, R52, R102), the batch list (R70, R72), and the placing of result bytes.
-/

namespace Sys2Proof.Machine

/-! ### Descriptors -/

/-- A scatter-gather element from its 16 bytes (R131). -/
def sglOfBytes (b : Bytes) : SglElem := ⟨fieldAt b 0 8, fieldAt b 8 4, fieldAt b 12 4⟩

/-- A descriptor from its 128 bytes (R129). -/
def descOfBytes (b : Bytes) : Desc :=
  { opc := fieldAt b 0 1, flg := fieldAt b 1 1, tag := fieldAt b 2 2, ksp := fieldAt b 4 2, klen := fieldAt b 6 2,
    vlen := fieldAt b 8 4, vsglCnt := fieldAt b 12 2, rsglCnt := fieldAt b 14 2, offset := fieldAt b 16 8,
    cond := fieldAt b 24 8, snap := fieldAt b 32 8, vsglPtr := fieldAt b 40 8, rsglPtr := fieldAt b 48 8,
    key40 := padTo 40 (slice b 56 40), vsglInl := sglOfBytes (slice b 96 16), rsglInl := sglOfBytes (slice b 112 16) }

/-- The key of a command: inline when KLEN is 40 or less, else the bytes fetched from KEY_PTR (R130). -/
def keyOf (d : Desc) (x : Fetched) : Bytes := if d.klen ≤ 40 then d.key40.take d.klen else x.key.take d.klen

/-- KEY_PTR (R129). -/
def keyPtr (d : Desc) : Nat := fieldAt d.key40 0 8

/-- A field of an admin command's parameter block, by its offset in the descriptor (bytes 56 to 95). -/
def param (d : Desc) (off n : Nat) : Nat := fieldAt d.key40 (off - 56) n

/-- Bytes `off` to 95 of the parameter block are zero. -/
def paramZeroFrom (d : Desc) (off : Nat) : Bool := (d.key40.drop (off - 56)).all fun b => decide (b = 0#8)

/-- The elements of the value SGL. -/
def valueSgl (d : Desc) (x : Fetched) : List SglElem :=
  if d.vsglCnt = 0 then [] else if d.vsglCnt = 1 then [d.vsglInl] else x.vsgl.take d.vsglCnt

/-- The elements of the result SGL. -/
def resultSgl (d : Desc) (x : Fetched) : List SglElem :=
  if d.rsglCnt = 0 then [] else if d.rsglCnt = 1 then [d.rsglInl] else x.rsgl.take d.rsglCnt

/-- The bytes an SGL describes. -/
def sglLen (l : List SglElem) : Nat := (l.map fun e => e.len).sum

/-- R132, of one SGL: count above 4,096, an element of length 0, a misaligned array, a pointer without an array, an inline
element that is not in use. -/
def sglBad (cnt ptr : Nat) (inl : SglElem) (els : List SglElem) : Bool :=
  decide (4096 < cnt) || (els.any fun e => e.len == 0) || (decide (2 ≤ cnt) && decide (ptr % 16 ≠ 0))
    || (decide (cnt ≤ 1) && decide (ptr ≠ 0)) || (decide (cnt ≠ 1) && decide (inl ≠ ⟨0, 0, 0⟩))

/-- A reserved field of an element in use is not zero (R12, R131). -/
def sglRsv (els : List SglElem) : Bool := els.any fun e => decide (e.rsv ≠ 0)

/-- The writes that place `data` in an SGL, bytes in element order (R131). -/
def scatter : List SglElem → Bytes → List (Nat × Bytes)
  | [], _ => []
  | e :: es, data => if data.isEmpty then [] else (e.addr, data.take e.len) :: scatter es (data.drop e.len)

/-- The writes that place `data` from offset `off` of an SGL on. -/
def scatterAt : Nat → List SglElem → Bytes → List (Nat × Bytes)
  | _, [], _ => []
  | off, e :: es, data =>
    if data.isEmpty then []
    else if e.len ≤ off then scatterAt (off - e.len) es data
    else (e.addr + off, data.take (e.len - off)) :: scatterAt 0 es (data.drop (e.len - off))

/-! ### Opcodes (R778, R52) -/

def opGet : Nat := 0x01
def opGetRange : Nat := 0x02
def opExists : Nat := 0x03
def opGetMeta : Nat := 0x04
def opPut : Nat := 0x05
def opPutIf : Nat := 0x06
def opPatch : Nat := 0x07
def opAppend : Nat := 0x08
def opDelete : Nat := 0x09
def opDeleteIf : Nat := 0x0A
def opBatch : Nat := 0x0B
def opStageOpen : Nat := 0x0C
def opStageData : Nat := 0x0D
def opStagePublish : Nat := 0x0E
def opStageDiscard : Nat := 0x0F
def opScan : Nat := 0x10
def opSnapOpen : Nat := 0x11
def opSnapClose : Nat := 0x12
def opBarrier : Nat := 0x13

/-- R778: a data opcode. -/
def isData (o : Nat) : Bool := decide (1 ≤ o ∧ o ≤ 0x13)

/-- R152: an admin opcode. -/
def isAdmin (o : Nat) : Bool := decide (0x80 ≤ o ∧ o ≤ 0x8D ∧ o ≠ 0x87)

/-- The opcodes that take a key (R52). -/
def hasKey (o : Nat) : Bool := decide (1 ≤ o ∧ o ≤ 0x0A) || o == opStageOpen

/-- The opcodes that read one key. -/
def isRead (o : Nat) : Bool := decide (1 ≤ o ∧ o ≤ 4)

/-- The opcodes that write one key at a stamp, alone or in a batch. -/
def isMut (o : Nat) : Bool := decide (5 ≤ o ∧ o ≤ 0x0A)

/-- The opcodes whose value SGL R52 uses. -/
def usesValue (o : Nat) : Bool := decide (5 ≤ o ∧ o ≤ 8) || o == opBatch || o == opStageData

/-- The opcodes whose result SGL R52 uses. -/
def usesResult (o : Nat) : Bool := o == opGet || o == opGetRange || o == opGetMeta || o == opBatch || o == opScan

/-- CMODE of FLG (R51). -/
def cmode (flg : Nat) : Nat := bits flg 2 2

/-- NOREDIR of FLG (R51). -/
def noRedir (d : Desc) : Bool := bitAt d.flg 0

/-- The handle of a staged-value opcode: COND[31:0] (R52). -/
def handleOf (d : Desc) : Nat := d.cond % 2 ^ 32

/-- R64: a COND that breaks the COND column of its CMODE. -/
def condBad (m cond : Nat) : Bool :=
  if m = 0 then cond == 0 else if m = 3 then false else decide (cond ≠ 0)

/-- R51, R52, R102: a field that must be zero is not, or a reserved bit or encoding is used. `batch` for an element. -/
def fieldBad (batch : Bool) (d : Desc) : Bool :=
  let o := d.opc
  let cond := o == opPutIf || o == opDeleteIf
  decide (d.flg / 16 ≠ 0) || bitAt d.flg 1 || (batch && bitAt d.flg 0)
    || (!cond && decide (cmode d.flg ≠ 0)) || (cond && condBad (cmode d.flg) d.cond)
    || (!cond && !(o == opStageData || o == opStagePublish || o == opStageDiscard) && decide (d.cond ≠ 0))
    || ((o == opStageData || o == opStagePublish || o == opStageDiscard) && decide (d.cond / 2 ^ 32 ≠ 0))
    || (!(isRead o || o == opScan || o == opSnapClose) && decide (d.snap ≠ 0))
    || (!(o == opGetRange || o == opPatch || o == opStageData) && decide (d.offset ≠ 0))
    || ((o == opGet || o == opExists || o == opGetMeta || o == opDelete || o == opDeleteIf || o == opStagePublish
        || o == opStageDiscard || o == opSnapOpen || o == opSnapClose || o == opBarrier) && decide (d.vlen ≠ 0))
    || (!hasKey o && !(o == opScan) && decide (d.klen ≠ 0)) || (o == opScan && !(d.klen == 0 || d.klen == 24))
    || (o == opStageData && d.vlen == 0)
    || (hasKey o && decide (40 < d.klen) && (d.key40.drop 8).any fun b => decide (b ≠ 0#8))

/-- R102: a length limit that does not depend on the key's current value. -/
def lengthBad (d : Desc) : Bool :=
  let o := d.opc
  (hasKey o && (d.klen == 0 || decide (1024 < d.klen)))
    || ((o == opPut || o == opPutIf || o == opStageData) && decide (33554432 < d.vlen))
    || ((o == opPatch || o == opAppend) && decide (16777216 < d.vlen))
    || (o == opScan && (d.vlen == 0 || decide (4096 < d.vlen)))

/-- A SCAN's SNAP differs from that of its cursor (R89). -/
def cursorBad (d : Desc) (x : Fetched) : Bool := d.opc == opScan && decide (d.klen = 24) && decide (d.snap ≠ 0 ∧ d.snap ≠ fieldAt (keyOf d x) 16 8)

/-! ### Batches (R70 to R72) -/

/-- A batch element: the descriptor form of its fields, and where its key, value and result lie (R70). -/
structure BatchElem where
  d : Desc
  key : Bytes
  keyOff : Nat
  valOff : Nat
  value : Bytes
  resOff : Nat
  resLen : Nat
  rsvBad : Bool
  deriving DecidableEq, Repr

/-- Element `n` of a batch list (R70). -/
def batchElem (ksp : Nat) (l : Bytes) (n : Nat) : BatchElem :=
  let b := slice l (16 + 64 * n) 64
  let klen := fieldAt b 2 2
  let vlen := fieldAt b 4 4
  let o := fieldAt b 0 1
  let keyOff := fieldAt b 24 4
  let valOff := fieldAt b 28 4
  { d := { opc := o, flg := fieldAt b 1 1, ksp := ksp, klen := klen, vlen := vlen, offset := fieldAt b 8 8, cond := fieldAt b 16 8 }
    key := slice l keyOff klen, keyOff := keyOff, valOff := valOff,
    value := if usesValue o then slice l valOff vlen else [],
    resOff := fieldAt b 32 4, resLen := fieldAt b 36 4, rsvBad := decide (ofLe (slice b 40 24) ≠ 0) }

/-- COUNT of a batch list. -/
def batchCount (l : Bytes) : Nat := fieldAt l 0 2

/-- The elements of a batch list: those of the COUNT that lie whole in it. That an element which reaches past the list is no element, and
that such a list is FIELD_INVALID, is a DESIGN CHOICE (log entry 133). -/
def batchElems (d : Desc) (l : Bytes) : List BatchElem :=
  ((List.range (batchCount l)).filter fun n => decide (80 + 64 * n ≤ min d.vlen l.length)).map fun n => batchElem d.ksp l n

/-- Two half-open ranges overlap. -/
def overlap (a n b m : Nat) : Bool := decide (0 < n ∧ 0 < m ∧ a < b + m ∧ b < a + n)

/-- Some pair of a list stands in relation `r`. -/
def anyPair {α : Type} (r : α → α → Bool) : List α → Bool
  | [] => false
  | x :: xs => xs.any (r x) || anyPair r xs

/-- R72, first row, of the header: VLEN below 80, COUNT 0, LIST_LEN different from VLEN, a reserved field not zero, or elements that reach
past the list. A header that the value SGL does not reach is not judged. -/
def batchHeadBad (d : Desc) (l : Bytes) : Bool :=
  decide (d.vlen < 80) || (decide (16 ≤ l.length) && (batchCount l == 0 || decide (fieldAt l 4 4 ≠ d.vlen) || decide (fieldAt l 2 2 ≠ 0)
    || decide (fieldAt l 8 8 ≠ 0) || decide (d.vlen < 16 + 64 * batchCount l)))

/-- R72, first row, of the elements. -/
def batchElemsBad (d : Desc) (l : Bytes) : Bool :=
  let es := batchElems d l
  (es.any fun e => e.rsvBad || fieldBad true e.d
        || decide (d.vlen < e.keyOff + e.d.klen) || (usesValue e.d.opc && decide (d.vlen < e.valOff + e.d.vlen))
        || (!usesValue e.d.opc && decide (e.valOff ≠ 0)) || (isMut e.d.opc && decide (e.resOff ≠ 0 ∨ e.resLen ≠ 0))
        || (isRead e.d.opc && overlap e.resOff e.resLen 0 (batchCount l * 16)))
    || anyPair (fun a b => isRead a.d.opc && isRead b.d.opc && overlap a.resOff a.resLen b.resOff b.resLen) es
    || anyPair (fun a b => isMut a.d.opc && isMut b.d.opc && a.key == b.key && decide (a.keyOff + a.d.klen ≤ l.length ∧ b.keyOff + b.d.klen ≤ l.length)) es

/-- R72: the status of a batch that is refused before anything takes effect, in the order of R105. -/
def batchRefused (d : Desc) (l : Bytes) (cap : Nat) : Option Nat :=
  let es := batchElems d l
  firstStatus
    [(es.any (fun e => !(isRead e.d.opc || isMut e.d.opc)), stOpcodeInvalid),
     (batchHeadBad d l || batchElemsBad d l, stFieldInvalid),
     (decide (64 < batchCount l) || decide (33554432 < d.vlen), stBatchTooLarge),
     (es.any (fun e => lengthBad e.d), stLengthLimit),
     (decide (cap < batchCount l * 16) || es.any (fun e => isRead e.d.opc && decide (cap < e.resOff + e.resLen))
        || es.any (fun e => e.d.opc == opGetMeta && decide (e.resLen < 32)), stSglInvalid)]

end Sys2Proof.Machine
end

