-- ==== Sys2Proof/Machine/Wire.lean ====
section
/-!
DEFINITION. Structures on the wire, in network byte order (R11): the header of a YWP packet (R322), the operation blocks (R349, R350, R412), the
bodies of Town messages (R413), a packet's payload and protection (R323, R333), and the payload of a parking frame (R483).
-/

namespace Sys2Proof.Machine

/-- The header of a packet (R322). -/
def wireHeader (p : YPacket) : Bytes :=
  beBytes 1 p.ver ++ beBytes 1 p.typ ++ beBytes 2 p.flags ++ beBytes 4 (p.sid % 2 ^ 18) ++ beBytes 2 p.inc ++ beBytes 2 p.plen ++ beBytes 4 p.psn
    ++ beBytes 4 p.ackPsn ++ beBytes 4 p.window ++ beBytes 8 p.txTs ++ beBytes 8 p.echoTs ++ beBytes 4 p.echoOwd ++ beBytes 4 p.msgId
    ++ beBytes 4 p.valOff ++ beBytes 1 p.keyGen ++ beBytes 1 p.sack.length ++ beBytes 2 p.srcInc ++ beBytes 4 p.invoc ++ beBytes 4 0

/-! ### Records in network byte order (R11) -/

/-- The fields of a record, given as their sizes in order, each with its most significant byte first. -/
def swapUnits : List Nat → Bytes → Bytes
  | [], b => b
  | n :: l, b => (b.take n).reverse ++ swapUnits l (b.drop n)

/-- A scatter-gather element (R131). -/
def sglBytes (e : SglElem) : Bytes := packLe 16 [(0, 64, e.addr), (64, 32, e.len), (96, 32, e.rsv)]

/-- A descriptor (R129). -/
def descBytes (d : Desc) : Bytes :=
  packLe 56 [(0, 8, d.opc), (8, 8, d.flg), (16, 16, d.tag), (32, 16, d.ksp), (48, 16, d.klen), (64, 32, d.vlen), (96, 16, d.vsglCnt), (112, 16, d.rsglCnt),
    (128, 64, d.offset), (192, 64, d.cond), (256, 64, d.snap), (320, 64, d.vsglPtr), (384, 64, d.rsglPtr)] ++ padTo 40 d.key40 ++ sglBytes d.vsglInl ++ sglBytes d.rsglInl

/-- What follows the key in a Tun entry: the members of a BATCH_RECORD, or the data. -/
def entryData (e : TunEntry) : Bytes := if e.kind = .batchRecord then e.members.flatMap fun i => leBytes 4 i else e.data

/-- The 64-byte header of a Tun entry (R202). LOC of a PUBLISH is the address of extent 0 of the staged value, or of the lowest one held (DEDUCED, log
entry 154). -/
def entryHeader (e : TunEntry) : Bytes :=
  let loc := ((sortBy (fun x => x.1) e.extents).head?.map fun x => x.2).getD 0
  let rec_ := decide (e.kind = .batchRecord)
  let kind := match e.kind with | .put => 1 | .patch => 2 | .tombstone => 3 | .publish => 4 | .batchRecord => 5
  let st := match e.state with | .filling => 1 | .live => 2 | .drained => 3
  packLe 64 [(0, 8, kind), (8, 8, st), (16, 16, e.ksp), (32, 16, if rec_ then 0 else e.key.length), (48, 14, e.origin), (62, 1, b2n e.replAck), (63, 1, b2n e.resolved),
    (64, 64, e.stamp), (128, 32, (entryData e).length), (160, 32, e.vlen), (192, 64, if e.kind = .patch then e.offset else 0), (256, 128, if rec_ then 0 else e.digest),
    (384, 32, e.batch), (416, 32, crc32c (e.key ++ entryData e)), (448, 64, if e.kind = .publish then loc else 0)]

/-- A Ward map entry (R381). -/
def wardBytes (e : WardEntry) : Bytes :=
  let rep := fun (i : Nat) => e.reps.getD i 0
  packLe 8 [(0, 14, e.owner), (14, 14, rep 0), (28, 14, rep 1), (42, 14, rep 2), (56, 2, e.reps.length), (58, 1, b2n e.assigned), (59, 1, b2n e.orphan), (60, 1, b2n e.transfer)]

/-! ### Bodies of Town messages (R413) -/

/-- An entry image (R202, R390): header in network order, key, data, and zeros to 64 bytes. -/
def wireEntry (e : TunEntry) : Bytes := padMul 64 (swapUnits [1, 1, 2, 2, 2, 8, 4, 4, 8, 16, 4, 4, 8] (entryHeader e) ++ e.key ++ entryData e)

/-- A request record (R353). -/
def wireRecord (r : ReqRecord) : Bytes :=
  beBytes 4 r.identity ++ beBytes 1 r.tenant ++ beBytes 8 r.reqNo ++ beBytes 2 r.status ++ beBytes 4 r.rlen ++ beBytes 8 r.stamp ++ beBytes 2 r.origin ++ beBytes 4 r.body.length ++ r.body

/-- A member record (R373, R378). -/
def wireMember (m : Member) : Bytes :=
  beBytes 4 m.handle ++ beBytes 1 m.state ++ beBytes 16 m.addr ++ beBytes 2 m.port ++ (m.watchers.flatMap fun w => beBytes 4 w) ++ beBytes 2 m.domain ++ beBytes 1 m.yMin ++ beBytes 1 m.yMax
    ++ beBytes 1 m.fMin ++ beBytes 1 m.fMax ++ beBytes 2 m.luns ++ beBytes 8 m.capacity ++ beBytes 4 m.held.length ++ m.held.flatMap fun w => beBytes 4 w

/-- A keyspace record (R157). -/
def wireKsp (k : Keyspace) : Bytes :=
  beBytes 2 k.ksp ++ beBytes 1 k.tenant ++ beBytes 1 k.rf ++ beBytes 1 k.slot ++ beBytes 1 (if k.reclaiming then 2 else 1) ++ beBytes 16 k.salt ++ beBytes 8 k.created

/-- The body of a Town message on the wire. R413 and the rules it names say what a body holds; where none gives places, the parts follow one another
in the order in which they are named, with counts before lists (DESIGN CHOICE, log entry 174). -/
def townBody : TBody → Bytes
  | .nothing => []
  | .member m => wireMember m
  | .map b =>
    beBytes 4 b.hall ++ beBytes 4 b.standby ++ beBytes 4 b.wards.length ++ (b.wards.flatMap fun w => beBytes 4 w.ward ++ swapUnits [8] (wardBytes w))
      ++ ((b.transfers.map fun l => beBytes 4 l.length ++ l.flatMap fun t => beBytes 4 t.ward ++ beBytes 4 t.target ++ beBytes 1 (b2n t.move)).getD [])
      ++ (b.members.flatMap wireMember) ++ (b.keyspaces.flatMap wireKsp)
      ++ ((b.settings.map fun x => beBytes 4 x.retainMs ++ beBytes 4 x.hb ++ beBytes 4 x.retry ++ beBytes 1 x.level).getD [])
  | .repl es r => (es.flatMap wireEntry) ++ (r.map wireRecord).getD []
  | .piece h ksp key declared off data => beBytes 4 h ++ beBytes 2 ksp ++ beBytes 2 key.length ++ beBytes 4 declared ++ beBytes 8 off ++ beBytes 4 data.length ++ key ++ data
  | .versions es rs _ => (es.flatMap wireEntry) ++ rs.flatMap wireRecord
  | .command _ d => swapUnits ([1, 1, 2, 2, 2, 4, 2, 2, 8, 8, 8, 8, 8] ++ List.replicate 40 1 ++ [8, 4, 4, 8, 4, 4]) (descBytes d)
  | .keyPage trk slots => beBytes 40 trk ++ (sortBy (fun x => x.1) slots).flatMap fun x => beBytes 72 x.2

/-- An operation block, with the key that follows it (R349, R350, R412, R655). -/
def wireBlock : YHead → Bytes
  | .request d key rbuf rq epoch floor _ =>
    beBytes 1 0 ++ beBytes 1 d.opc ++ beBytes 1 d.flg ++ beBytes 1 0 ++ beBytes 2 d.ksp ++ beBytes 2 d.klen ++ beBytes 4 d.vlen ++ beBytes 4 rbuf
      ++ beBytes 8 d.offset ++ beBytes 8 d.cond ++ beBytes 8 d.snap ++ beBytes 8 rq ++ beBytes 8 epoch ++ beBytes 8 floor ++ key
  | .reply opc status rlen dlen rstamp origin reqMsg reqNo =>
    beBytes 1 1 ++ beBytes 1 opc ++ beBytes 2 0 ++ beBytes 2 status ++ beBytes 2 0 ++ beBytes 4 rlen ++ beBytes 4 dlen ++ beBytes 8 rstamp
      ++ beBytes 2 (origin % 2 ^ 14) ++ beBytes 2 0 ++ beBytes 4 reqMsg ++ beBytes 8 reqNo ++ List.replicate 24 0#8
  | .town m =>
    beBytes 1 2 ++ beBytes 1 m.tmsg ++ beBytes 2 m.flags ++ beBytes 4 m.sender ++ beBytes 8 m.epoch ++ beBytes 4 m.term ++ beBytes 4 (m.ward % 2 ^ 20)
      ++ beBytes 8 m.arg0 ++ beBytes 8 m.arg1 ++ beBytes 8 m.stamp ++ beBytes 2 m.status ++ beBytes 2 0 ++ beBytes 4 m.count ++ beBytes 8 0
  | .mgmt opc param _ => beBytes 1 3 ++ beBytes 1 opc ++ List.replicate 6 0#8 ++ padTo 40 param ++ List.replicate 16 0#8
  | .unknown => []

/-- The payload of a packet in the clear (R323): a slice of the TLS stream, a segment with its block where HEAD is set, SACK blocks, or the cause of a
CLOSE. -/
def wirePayload (p : YPacket) : Bytes :=
  (p.head.elim [] wireBlock) ++ p.bytes
    ++ (if p.typ = 3 then p.sack.flatMap (fun b => beBytes 4 b.1 ++ beBytes 4 b.2) else if p.typ = 4 then beBytes 2 p.cause ++ List.replicate 6 0#8 else [])

/-- A packet as the UDP payload (R322, R333): the header, then the payload of a HANDSHAKE packet in the clear, or the ciphertext of another under the
key and IV_BASE given, with its 16-byte tag; the header as sent is the additional authenticated data, and the IV is IV_BASE XOR INVOC. -/
def wirePacket (key ivBase : Nat) (p : YPacket) : Bytes :=
  let h := wireHeader p
  let b := wirePayload p
  h ++ (if p.typ = 1 then b else padTo (b.length + 16) (Config.gcmSeal key (ivBase ^^^ p.invoc) h b))

/-- The payload of a parking frame of type `msg`, padded to 46 bytes (R483). -/
def wirePark (msg : Nat) (m : ParkMsg) : Bytes :=
  padTo 46 (beBytes 2 0x5446 ++ beBytes 1 1 ++ beBytes 1 msg ++ beBytes 2 m.seq ++ beBytes 1 m.lanes ++ beBytes 1 m.cause ++ beBytes 4 m.switchCw)

end Sys2Proof.Machine
end

