-- ==== Sys2Proof/Machine/NetOps.lean ====
section
/-!
DEFINITION. The network engine (R459 to R492): counters, a link going up and down, transmit, codeword counts and the parking exchange,
and what leaving Nap does to the ports (R161, R488).
-/

namespace Sys2Proof.Machine

/-- The MACs run: the firmware image is running, out of Slumber (R666, R720). -/
def State.macOn (s : State) : Bool := s.alive && !s.upd.recovery && decide (5 ≤ s.power.stage) && decide (s.power.pstate ≠ 3) && !s.power.refclkLost

/-! ### Counters (R470, R471) -/

/-- Add `n` to NET_CNT[p][c], which wraps modulo 2^40; its bit 39 going from 0 to 1 sets bit c of NET_CNT_HALF[p]. -/
def State.netCount (s : State) (p c : Nat) (n : Nat := 1) : State :=
  let v := s.fget .netCnt_count p c
  let w := (v + n) % 2 ^ 40
  let s := s.fput .netCnt_count w p c
  if !bitAt v 39 && bitAt w 39 then s.fput .netCntHalf_half (s.fget .netCntHalf_half p ||| 2 ^ c) p else s

/-- The length bin of a frame of 64 bytes or more. -/
def lenBin (n : Nat) : Nat :=
  if n ≤ 64 then 0 else if n ≤ 127 then 1 else if n ≤ 255 then 2 else if n ≤ 511 then 3 else if n ≤ 1023 then 4 else if n ≤ 1518 then 5
  else if n ≤ 2047 then 6 else if n ≤ 4095 then 7 else if n ≤ 8191 then 8 else 9

/-- The kind of a destination address, whose first octet lies in bits [7:0]: 0 unicast, 1 multicast, 2 broadcast. -/
def dstKind (a : Nat) : Nat := if a = 2 ^ 48 - 1 then 2 else if bitAt a 0 then 1 else 0

/-- 01-80-C2-00-00-0E. -/
def lldpAddr : Nat := 0x0E0000C28001

/-- Count a transmitted frame. -/
def State.countTx (s : State) (p : Nat) (f : TxFrame) : State :=
  let s := ((s.netCount p (32 + lenBin f.len)).netCount p (42 + dstKind f.dst)).netCount p 50 f.len
  let s := if f.vlan then s.netCount p 45 else s
  match f.kind with
  | .ywp => s.netCount p 46
  | .ptp => s.netCount p 47
  | .lldp => s.netCount p 48
  | .park => s.netCount p 49
  | _ => s

/-! ### Links (R461 to R463) -/

/-- Bring-up begins (R462). -/
def State.bringUp (s : State) (p : Nat) : State := s.modPort p fun x => { x with link := false, up := true, since := s.clk.cycles }

/-- What a port that goes down loses: its queue, counted in TX_LINK_DROP, any parking exchange, and PTP on it (R463, R432). -/
def State.portClear (s : State) (p : Nat) : State :=
  let s := s.netCount p 52 (s.port p).queue.length
  let s := s.modPort p fun x =>
    { x with link := false, up := false, lanes := 0, rxLanes := 0, queue := [], req := none, txSwitch := none, rxSwitch := none, demand := false, lost := s.clk.cycles }
  if s.flag .ptpCtrl_enable ∧ s.fget .ptpCtrl_port = p then s.ptpOff else s

/-- The link goes down (R463), and bring-up starts again. -/
def State.linkDown (s : State) (p : Nat) : State := (((s.netCount p 56).report .linkDown p).portClear p).bringUp p

/-- The bank in use changes (R461). -/
def State.toBank (s : State) (p b : Nat) : State :=
  (((s.modPort p fun x => { x with bank := b, lost := s.clk.cycles }).netCount p 62).report .bankChange p b).bringUp p

/-- Lanes that a link comes up with: one in Nap, or while an entry to it runs (R488). -/
def State.upLanes (s : State) (p : Nat) : Nat :=
  if p = 8 then 0 else if s.power.pstate = 2 ∨ s.power.entry.any (fun e => e.1 == 2) then 1 else s.fullLanes

/-- LINK is 1: codewords are counted from 0 (R484), and parking runs again. -/
def State.linkUp (s : State) (p : Nat) : State :=
  let n := s.upLanes p
  let now := s.clk.cycles
  let s := s.modPort p fun x =>
    { x with link := true, up := false, lanes := n, rxLanes := n, cw := 0, cwAt := now, rxCw := 0, rxCwAt := now, fails := 0, stopped := false, stepAt := now, quietAt := now }
  if s.flag .ptpCtrl_enable ∧ s.fget .ptpCtrl_port = p then s.ptpBegin else s

/-! ### Codewords and the exchange (R479 to R487) -/

/-- The partner of a port, while its TLV lives (R480). -/
def State.partner (s : State) (p : Nat) : Option Nat := ((s.port p).partner.filter fun x => decide (s.clk.cycles < x.2)).map fun x => x.1

/-- A codeword count at cycle `now`: `lanes` lanes carry a codeword of 5,440 bits in 25.6 ns over their number. -/
def cwNow (base at_ lanes now : Nat) : Nat := (base + (now - at_) * lanes * 25 / 384) % 2 ^ 32

def State.txCw (s : State) (p : Nat) : Nat := let x := s.port p; cwNow x.cw x.cwAt x.lanes s.clk.cycles
def State.rxCw (s : State) (p : Nat) : Nat := let x := s.port p; cwNow x.rxCw x.rxCwAt x.rxLanes s.clk.cycles

/-- The cycle at which a count reaches `x`. -/
def cwDue (base at_ lanes x : Nat) : Nat := at_ + ((x + 2 ^ 32 - base % 2 ^ 32) % 2 ^ 32 * 384 + 25 * lanes - 1) / (25 * lanes)

/-- LEAD_NS in codewords at `lanes` lanes. -/
def State.leadCw (s : State) (lanes : Nat) : Nat := (s.fget .netParkCtrl_leadNs * lanes * 10 + 255) / 256

/-- Count `x` lies ahead of count `y`, or equals it when `eq`. -/
def cwAhead (x y : Nat) (eq : Bool) : Bool := let d := (x + 2 ^ 32 - y % 2 ^ 32) % 2 ^ 32; decide (d < 2 ^ 31) && (eq || decide (d ≠ 0))

/-- Send a parking frame (R483): message 1 PARK_REQ, 2 PARK_ACK, 3 NAK, 4 RESTORE_REQ, 5 RESTORE_ACK. -/
def State.sendPark (s : State) (p msg seq lanes cause x : Nat) : State :=
  let tag := s.flag .netPortCtrl_vlanEn p
  let m : ParkMsg := { seq := seq, lanes := lanes, cause := cause, switchCw := x, src := s.fget .netMacAddr_addr p }
  (s.emit (.park p msg m)).countTx p { tc := 7, len := if tag then 68 else 64, kind := .park, dst := lldpAddr, vlan := tag, bytes := wirePark msg m }

/-- Send a request (R484 step 1); `since` is when this attempt began. -/
def State.sendReq (s : State) (p : Nat) (restore : Bool) (lanes since : Nat) : State :=
  let x := s.port p
  let q := (x.seq + 1) % 65536
  let at_ := (s.txCw p + s.leadCw x.lanes) % 2 ^ 32
  let s := s.modPort p fun x => { x with seq := q, req := some { restore := restore, seq := q, x := at_, lanes := lanes, sentAt := since }, demand := x.demand && !restore }
  s.sendPark p (if restore then 4 else 1) q lanes 0 at_

/-- No exchange runs on a port. -/
def Port.idle (x : Port) : Bool := x.req.isNone && x.txSwitch.isNone && x.rxSwitch.isNone

/-- A restore waits for the exchange to end (R485), and it has. -/
def State.parkNext (s : State) (p : Nat) : State :=
  let x := s.port p
  if x.link && x.demand && x.idle && decide (x.lanes < s.fullLanes) then s.sendReq p true s.fullLanes s.clk.cycles
  else if x.idle then s.modPort p fun x => { x with demand := false } else s

/-- The conditions of R481 for a park step. -/
def State.mayPark (s : State) (p : Nat) : Bool :=
  let x := s.port p
  let quiet := s.fget .netParkCtrl_parkMs * msCycles
  s.flag .netParkCtrl_parkEn && (s.partner p).isSome && x.link && !x.stopped && decide (s.fget .netParkCtrl_minLanes < x.lanes ∧ 1 < x.lanes) && decide (s.power.pstate < 2)
    && decide (quiet ≤ s.clk.cycles - x.quietAt ∧ quiet ≤ s.clk.cycles - x.stepAt)

/-- The request of this port has failed (R484): a park is retried after PARK_MS and stops parking at the third failure, a restore is
retried at once. -/
def State.reqFailed (s : State) (p : Nat) : State :=
  match (s.port p).req with
  | none => s
  | some r =>
    let s := s.modPort p fun x => { x with req := none }
    if r.restore then s.sendReq p true r.lanes r.sentAt
    else
      let n := (s.port p).fails + 1
      let s := s.modPort p fun x => { x with fails := n, stepAt := s.clk.cycles, stopped := x.stopped || decide (3 ≤ n) }
      (if n = 3 then s.report .parkStopped p else s).parkNext p

/-- Accept a request (R484 step 2): the receiver is committed to X and the transmitter to Y, which the ACK carries. -/
def State.acceptReq (s : State) (p : Nat) (restore : Bool) (m : ParkMsg) : State :=
  let y := (s.txCw p + s.leadCw (s.port p).lanes) % 2 ^ 32
  let s := s.modPort p fun x => { x with req := none, rxSwitch := some (m.switchCw, m.lanes), txSwitch := some (y, m.lanes) }
  s.sendPark p (if restore then 5 else 2) m.seq m.lanes 0 y

/-- A request arrives (R484, R485). `mine` prevails over it: the same kind from the higher address, or a restore over a park. -/
def State.parkRequest (s : State) (p : Nat) (restore : Bool) (m : ParkMsg) : State :=
  let x := s.port p
  let nak := fun (c : Nat) => s.sendPark p 3 m.seq m.lanes c 0
  if !x.link ∨ s.partner p ≠ some m.src then s
  else if x.txSwitch.isSome ∨ x.rxSwitch.isSome ∨ x.req.any (fun r => r.acked) then nak 1
  else if x.req.any fun r => (r.restore && !restore) || (r.restore == restore && decide (m.src < s.fget .netMacAddr_addr p)) then s
  else if !restore && !(s.mayPark p && decide (m.lanes = 1 ∨ m.lanes = 2 ∨ m.lanes = 4) && decide (m.lanes < x.lanes)) then nak 3
  else if restore && !decide (m.lanes = s.fullLanes) then nak 3
  else if !cwAhead m.switchCw (s.rxCw p + 32) false then nak 2
  else s.acceptReq p restore m

/-- An ACK arrives (R484 step 3). -/
def State.parkAck (s : State) (p : Nat) (restore : Bool) (m : ParkMsg) : State :=
  let x := s.port p
  match x.req with
  | some r =>
    if s.partner p = some m.src ∧ r.restore = restore ∧ r.seq = m.seq ∧ !r.acked then
      if cwAhead r.x (s.txCw p + 32) true then
        s.modPort p fun x => { x with req := some { r with acked := true }, txSwitch := some (r.x, r.lanes), rxSwitch := some (m.switchCw, r.lanes) }
      else s.reqFailed p
    else s
  | none => s

/-- The last of a pair of switches ends the exchange: the step is counted. -/
def State.exchangeEnd (s : State) (p : Nat) (down : Bool) : State :=
  let x := s.port p
  if x.txSwitch.isSome ∨ x.rxSwitch.isSome then s
  else
    let s := (s.netCount p (if down then 58 else 59)).modPort p fun x => { x with req := none, fails := if down then 0 else x.fails, stepAt := s.clk.cycles, quietAt := s.clk.cycles }
    s.parkNext p

/-- The next codeword point of a port (R484): its cycle, and what happens then (0 the transmitter switches, 1 the receiver, 2 an
unanswered request's X passes). -/
def Port.nextPoint (x : Port) : Option (Nat × Nat) :=
  let a := x.txSwitch.map fun t => (cwDue x.cw x.cwAt x.lanes t.1, 0)
  let b := x.rxSwitch.map fun t => (cwDue x.rxCw x.rxCwAt x.rxLanes t.1, 1)
  let c := (x.req.filter fun r => !r.acked).map fun r => (cwDue x.cw x.cwAt x.lanes r.x, 2)
  [a, b, c].foldl (fun best y => match best, y with
    | none, y => y
    | some u, some v => some (if v.1 < u.1 then v else u)
    | some u, none => some u) none

/-- A codeword point is reached. -/
def State.switchPoint (s : State) (p : Nat) : State :=
  match (s.port p).nextPoint with
  | none => s
  | some (c, k) =>
    let s := s.waitCycle c
    let x := s.port p
    match k, x.txSwitch, x.rxSwitch with
    | 0, some t, _ => (s.modPort p fun x => { x with lanes := t.2, cw := t.1, cwAt := c, txSwitch := none }).exchangeEnd p (decide (t.2 < x.lanes))
    | 1, _, some t => (s.modPort p fun x => { x with rxLanes := t.2, rxCw := t.1, rxCwAt := c, rxSwitch := none }).exchangeEnd p (decide (t.2 < x.rxLanes))
    | _, _, _ => s.reqFailed p

/-! ### Transmit (R472, R473, R477) -/

/-- Bits per ns of a port, times 10: 200 Gb/s per lane at the lower of the current rate and that of a pending switch; SPEED on port 8. -/
def State.rate10 (s : State) (p : Nat) : Nat :=
  if p = 8 then (if s.flag .netMgmtCtrl_speed then 10 else 1)
  else
    let x := s.port p
    2000 * (match x.txSwitch with | some t => min t.2 x.lanes | none => x.lanes)

/-- Bits of a frame with preamble and inter-frame gap. -/
def frameBits (f : TxFrame) : Nat := (f.len + 20) * 8

/-- Head frames that could not end within the longest open span of their class are dropped (R477); a class whose gate never opens keeps
its frames. -/
def State.dropUnfit (s : State) (p t : Nat) : State :=
  match s.longestOpen p t with
  | none => s
  | some 0 => s
  | some n =>
    (List.range (s.port p).queue.length).foldl (fun s _ =>
      match (s.port p).queue.find? fun f => f.tc == t with
      | some f => if n * s.rate10 p < 10 * frameBits f then (s.modPort p fun x => { x with queue := x.queue.erase f }).netCount p 51 else s
      | none => s) s

/-- A class's head frame may start now. -/
def State.mayStart (s : State) (p t : Nat) : Option TxFrame :=
  ((s.port p).queue.find? fun f => f.tc == t).filter fun f =>
    s.gateOpen p t && (match s.openFor p t with | none => true | some n => decide (10 * frameBits f ≤ n * s.rate10 p))

/-- The MAC starts the head frame of the highest class that may (R473). -/
def State.txStart (s : State) (p : Nat) : State :=
  let s := s.waitCycle (s.port p).busyTo
  let s := (List.range 8).foldl (fun s t => s.dropUnfit p t) s
  match (List.range 8).reverse.findSome? fun t => s.mayStart p t with
  | none => s
  | some f =>
    let n := (frameBits f * 6 + s.rate10 p - 1) / s.rate10 p
    ((s.modPort p fun x => { x with queue := x.queue.erase f, busyTo := s.clk.cycles + n }).emit (.frame p f)).countTx p f

/-! ### Nap (R161, R488) -/

/-- The ports on entry to Nap: one with a partner parks to one lane, one without comes up again with one. -/
def State.portsNap (s : State) : State :=
  (List.range 8).foldl (fun s p =>
    let x := s.port p
    if s.dataPort p && x.link && decide (1 < x.lanes) then
      (if (s.partner p).isSome then (if x.idle then s.sendReq p false 1 s.clk.cycles else s) else s.linkDown p)
    else s) s

/-- The ports at exit to Active: the same in reverse. -/
def State.portsActive (s : State) : State :=
  (List.range 8).foldl (fun s p =>
    let x := s.port p
    if s.dataPort p && x.link && decide (x.lanes < s.fullLanes) then
      (if (s.partner p).isSome then (s.modPort p fun x => { x with demand := true }).parkNext p else s.linkDown p)
    else s) s

/-- A command in Nap needs flash, or more than one lane of a port: the part returns to Active, with an event (R161). -/
def State.leaveNap (s : State) : State :=
  if s.power.pstate = 2 then
    ((({ s with power := { s.power with pstate := 0 } } : State).report .napExit).portsActive)
  else s

end Sys2Proof.Machine
end

