-- ==== Sys2Proof/Machine/Media.lean ====
section
/-!
DEFINITION. The media engine's shared operations: addresses (R234), sets, Terraces and streams (R248 to R252, R259),
placing items, NAND operations and the read ladder (R263), space and the spare pool (R303, R305), reader-drain (R295).
-/

/-- Codewords in a page (R240). -/
def Sys2Proof.Geometry.cwpp (g : Sys2Proof.Geometry) : Nat := if g.page32 then 8 else 4

/-- Data bytes of a page. -/
def Sys2Proof.Geometry.pageBytes (g : Sys2Proof.Geometry) : Nat := if g.page32 then 32768 else 16384

/-- Data bytes of a block. -/
def Sys2Proof.Geometry.blockBytes (g : Sys2Proof.Geometry) : Nat := g.pages * g.pageBytes

/-- C of R240: the bytes of a codeword. -/
def Sys2Proof.Geometry.cwBytes (g : Sys2Proof.Geometry) : Nat := (g.pageBytes + g.spare) / g.cwpp

/-- p of R240: the bytes of LDPC parity in a codeword. -/
def Sys2Proof.Geometry.parityBytes (g : Sys2Proof.Geometry) : Nat := (g.cwBytes - 4128) / 16 * 16

/-- A geometry that R231 and R240 allow: 1 to 6 planes, TLC or QLC, a LUN of at most 512 GiB within the fields of R234, and p of 416 or more. -/
def Sys2Proof.Geometry.allowed (g : Sys2Proof.Geometry) : Bool :=
  decide (1 ≤ g.planes ∧ g.planes ≤ 6) && decide (g.cell = 1 ∨ g.cell = 2) && decide (g.blocks * g.blockBytes ≤ 2 ^ 39)
    && decide (g.blocks ≤ 262144 ∧ g.pages ≤ 4096) && decide (416 ≤ g.parityBytes)

namespace Sys2Proof.Machine

/-! ### Addresses and geometry -/

/-- A media address (R234) from the global LUN number, block, page, codeword and unit. -/
def mkAddr (lun blk page cw unit : Nat) : Nat := lun * 2 ^ 41 + blk * 2 ^ 23 + page * 2 ^ 11 + cw * 2 ^ 8 + unit

/-- The global LUN number, block, page, codeword and unit of an address (R233, R234). -/
def addrLun (a : Nat) : Nat := bits a 41 13
def addrBlk (a : Nat) : Nat := bits a 23 18
def addrPage (a : Nat) : Nat := bits a 11 12
def addrCw (a : Nat) : Nat := bits a 8 3
def addrUnit (a : Nat) : Nat := bits a 0 8

/-- A LUN by its number. -/
def MediaSt.lun? (m : MediaSt) (n : Nat) : Option Lun := m.luns.find? fun l => l.n == n

/-- Change a LUN. -/
def State.modLun (s : State) (n : Nat) (f : Lun → Lun) : State :=
  { s with media := { s.media with luns := updWhere (fun l => l.n == n) f s.media.luns } }

/-- The LUNs in use. -/
def MediaSt.accepted (m : MediaSt) : List Lun := m.luns.filter fun l => decide (l.state = .accepted)

/-- Channels that carry accepted LUNs. -/
def MediaSt.channels (m : MediaSt) : List Nat := (m.accepted.map fun l => l.n / 128).eraseDups

/-- W of R249. -/
def MediaSt.width (m : MediaSt) : Nat := min 32 m.channels.length

/-- A listed block. -/
def MediaSt.block? (m : MediaSt) (lun blk : Nat) : Option Block := m.blocks.find? fun b => b.lun == lun && b.blk == blk

/-- The blocks with one changed, listed first where it is not listed. -/
def MediaSt.modBlock (m : MediaSt) (lun blk : Nat) (f : Block → Block) : MediaSt :=
  match m.block? lun blk with
  | some _ => { m with blocks := updWhere (fun b => b.lun == lun && b.blk == blk) f m.blocks }
  | none => { m with blocks := m.blocks ++ [f ⟨lun, blk, .free, 0, 0, 0, 0⟩] }

/-- A LUN that holds a Cask copy where it is accepted: volume 0, LUN 0 of channels 0, 21 and 42 (R245). -/
def caskLun (lun : Nat) : Bool := lun == 0 || lun == 21 * 128 || lun == 42 * 128

/-- The LUNs of the map region: the four lowest-numbered accepted ones without a Cask copy (R245). -/
def MediaSt.mapLuns (m : MediaSt) : List Nat := ((m.accepted.map fun l => l.n).filter fun n => !caskLun n).take 4

/-- A record of the media map, with the next map sequence, is written to every copy of the map region before anything depends on it (R246). -/
def MediaSt.mapRecord (m : MediaSt) : MediaSt :=
  { m with mapSeq := m.mapSeq + 1, mapCopies := (m.mapLuns.map fun n => (n, m.mapSeq + 1)) ++ m.mapCopies.filter fun c => !m.mapLuns.contains c.1 }

/-- Change a block, listing it first where it is not listed; the media map records it (R246). -/
def State.modBlock (s : State) (lun blk : Nat) (f : Block → Block) : State := { s with media := (s.media.modBlock lun blk f).mapRecord }

/-- Blocks of 40 MiB, the size of a Cask copy (R245). An SLC-mode block is counted with the block's native pages (DESIGN CHOICE, log entry
149). -/
def MediaSt.caskBlocks (m : MediaSt) : Nat := if m.geom.blockBytes = 0 then 0 else (40 * 1048576 + m.geom.blockBytes - 1) / m.geom.blockBytes

/-- The blocks of a LUN with the factory bad-block mark. -/
def MediaSt.factoryBad (m : MediaSt) (lun : Nat) : List Nat := ((m.lun? lun).map fun l => l.factoryBad).getD []

/-- The end of a Cask copy: the first block before which `n` good ones lie from block 1 on, those with the factory bad-block mark skipped (R245). -/
def caskEnd (n : Nat) (bad : List Nat) : Nat :=
  (((List.range (n + bad.length + 1)).map fun k => k + 1).find? fun e => decide (n + 1 + (bad.filter fun b => decide (1 ≤ b ∧ b < e)).length ≤ e)).getD (n + 1)

/-- Blocks at the start of a LUN that R245 places there: the label, and a Cask copy or a copy of the map region. -/
def MediaSt.sysBlocks (m : MediaSt) (lun : Nat) : Nat :=
  if caskLun lun then caskEnd m.caskBlocks (m.factoryBad lun) else if m.mapLuns.contains lun then 17 else 1

/-- Listed blocks of a LUN that are not free, parity scratch and rescue blocks among them. -/
def MediaSt.taken (m : MediaSt) (lun : Nat) : Nat :=
  (m.blocks.filter fun b => b.lun == lun && decide (b.state ≠ .free) && decide (m.sysBlocks lun ≤ b.blk)).length

/-- Free blocks of a LUN's pool. -/
def State.freeOf (s : State) (l : Lun) : Nat := s.media.geom.blocks - s.media.sysBlocks l.n - l.spares - s.media.taken l.n

/-- L of R216: the LUNs present, up to 4,096. The model takes those accepted now (DESIGN CHOICE, log entry 151). -/
def MediaSt.flushLuns (m : MediaSt) : Nat := min m.accepted.length 4096

/-- t_flush of R217 in µs, from r_flush = 96,000 × L / 4,096 bytes in a µs, rounded up (R216, R228); 0 with no LUN. -/
def MediaSt.flushUs (m : MediaSt) (mib : Nat) : Nat :=
  let d := 96000 * m.flushLuns
  if d = 0 then 0 else (mib * 1048576 * 4096 + d - 1) / d + 2000

/-- Free blocks in all pools, and the data blocks F is taken over (before R303). -/
def State.freeBlocks (s : State) : Nat := (s.media.accepted.map s.freeOf).sum
def State.dataBlocks (s : State) : Nat :=
  (s.media.accepted.map fun l => s.media.geom.blocks - s.media.sysBlocks l.n - l.spares
    - (s.media.blocks.filter fun b => b.lun == l.n && decide (b.state = .retired ∨ b.state = .system) && decide (s.media.sysBlocks l.n ≤ b.blk)).length).sum

/-- F in per mille, rounded down (R303 states no rounding: DESIGN CHOICE, log entry 152). -/
def State.freePm (s : State) : Nat := if s.dataBlocks = 0 then 0 else s.freeBlocks * 1000 / s.dataBlocks

/-- The effective reserve (R303): RESERVE_PM, or the blocks that hold twice the protected size, in per mille rounded up (R303 states no rounding:
DESIGN CHOICE, log entry 152). -/
def State.reserveEff (s : State) : Nat :=
  let per := s.media.geom.blockBytes
  let need := if per = 0 then 0 else (2 * s.tun.sizeMib * 1048576 + per - 1) / per
  let pm := if s.dataBlocks = 0 then 0 else (need * 1000 + s.dataBlocks - 1) / s.dataBlocks
  max (s.fget .medSpaceCtrl_reservePm) pm

/-- The space state for free space `f` from state `st`, with hysteresis (R303). -/
def spaceNext (f start reserve del hyst st : Nat) : Nat :=
  let down := if f < del then 3 else if f < reserve then 2 else if f < start then 1 else 0
  let up :=
    if st = 3 then (if del + hyst ≤ f then 2 else 3)
    else if st = 2 then (if reserve + hyst ≤ f then 1 else 2)
    else if st = 1 then (if start + hyst ≤ f then 0 else 1) else 0
  max down up

/-- Bring the space state up to date: each row up needs its own threshold, so as many rows follow as hold (R303). -/
def State.updateSpace (s : State) : State :=
  let next := spaceNext s.freePm (s.fget .medSpaceCtrl_startPm) s.reserveEff (s.fget .medSpaceCtrl_deletePm) (s.fget .medSpaceCtrl_hystPm)
  let st := next (next (next s.media.spaceState))
  if !s.hasFlash then s else { s with media := { s.media with spaceState := st } }

/-- A retirement takes one block from the spare pool (R298), with the warning and the read-only state of R305. -/
def State.takeSpare (s : State) (n : Nat) : State :=
  let sp := s.media.spareBlocks - n
  let s := { s with media := { s.media with spareBlocks := sp } }
  let s := if sp * 100 ≤ s.fget .medSpareCtrl_warnPct * s.media.spareInitial ∧ !s.media.spareWarn then
      { s with media := { s.media with spareWarn := true } }.report .spareWarn else s
  if sp = 0 ∧ !s.media.readOnly then { s with media := { s.media with readOnly := true } }.report .readOnlySet else s

/-- Retire a block (R298): grown-bad, never used again; one of its LUN's spares takes its place. -/
def State.retireBlock (s : State) (lun blk : Nat) : State :=
  (((s.modBlock lun blk fun b => { b with state := .retired }).modLun lun fun l => { l with spares := l.spares - 1 }).takeSpare 1).updateSpace

/-! ### NAND operations -/

/-- Register an operation in the current epoch's slot (R295). -/
def State.epochEnter (s : State) : State :=
  let e := s.media.epoch
  let sl := if s.media.slots.any (fun x => x.epoch == e) then updWhere (fun x => x.epoch == e) (fun x => { x with readers := x.readers + 1 }) s.media.slots
    else s.media.slots ++ [⟨e, 1, s.clk.cycles⟩]
  { s with media := { s.media with slots := sl } }

/-- Leave a slot; an empty slot is dropped. -/
def MediaSt.epochLeave (m : MediaSt) (e : Nat) : MediaSt :=
  { m with slots := (updWhere (fun x => x.epoch == e) (fun x => { x with readers := x.readers - 1 }) m.slots).filter fun x => x.readers != 0 }
def State.epochLeave (s : State) (e : Nat) : State := { s with media := s.media.epochLeave e }

/-- The cost class of a program in a stream (R546, R275). -/
def State.nativeClass (s : State) : Nat := if s.media.geom.cell = 2 then 3 else 2

/-- Queue a NAND operation for the ledger (R552, R554); a read of an item's codeword for the Sparge registers in the current epoch (R295). -/
def State.queueOp (s : State) (kind : NandKind) (addr : Nat) (why : NandFor) (cls rank : Nat) (item : Nat := 0) (shares : Bool := false) : State :=
  let s := match why with
    | .ctx _ => s.leaveNap
    | .copy _ => s.epochEnter
    | _ => s
  let ep := match why with
    | .copy _ => some s.media.epoch
    | _ => none
  let o : NandOp := { id := s.media.nextOp, kind := kind, addr := addr, why := why, cls := cls, rank := rank, item := item, epoch := ep, shares := shares }
  { s with media := { s.media with ops := s.media.ops ++ [o], nextOp := s.media.nextOp + 1 } }

/-- An operation by number. -/
def MediaSt.op? (m : MediaSt) (n : Nat) : Option NandOp := m.ops.find? fun o => o.id == n

/-- Remove an operation; a Sparge read leaves its epoch (R295). -/
def MediaSt.dropOp (m : MediaSt) (n : Nat) : MediaSt :=
  let m := match (m.op? n).bind fun o => o.epoch with | some e => m.epochLeave e | none => m
  { m with ops := m.ops.filter fun o => o.id != n }
def State.dropOp (s : State) (n : Nat) : State := { s with media := s.media.dropOp n }

/-- Whether some mutation is held under R34 (R552 rank COMMIT). -/
def State.someHeld (s : State) : Bool := s.kv.ctxs.any fun c => decide (c.phase = .held) && isMut c.desc.opc

/-- The rank of drain and write-back work (R552, R191). -/
def State.drainRank (s : State) : Nat := if s.someHeld then 1 else 2

/-! ### Sets and streams -/

/-- A set by its WSEQ. -/
def MediaSt.set? (m : MediaSt) (w : Nat) : Option TSet := m.sets.find? fun t => t.wseq == w

/-- Change a set. -/
def State.modSet (s : State) (w : Nat) (f : TSet → TSet) : State :=
  { s with media := { s.media with sets := updWhere (fun t => t.wseq == w) f s.media.sets } }

/-- 16-byte units in a set: its data pages (R249, R250). -/
def setUnits (g : Geometry) (t : TSet) : Nat := g.pages * t.blocks.length * g.cwpp * 256

/-- The address at position `p` (in units) of a set's stream order (R250). -/
def setAddr (g : Geometry) (t : TSet) (p : Nat) : Nat :=
  let c := p / 256
  let n := t.blocks.length
  match t.blocks[c / g.cwpp % n]? with
  | none => 0
  | some (lun, blk) => mkAddr lun blk (c / (n * g.cwpp)) (c % g.cwpp) (p % 256)

/-- The position in stream order of an address of a set. -/
def setPos (g : Geometry) (t : TSet) (a : Nat) : Nat :=
  let i := t.blocks.findIdx fun b => b == (addrLun a, addrBlk a)
  ((addrPage a * t.blocks.length + i) * g.cwpp + addrCw a) * 256 + addrUnit a

/-- The data pages, in stream order, that `units` units from position `p` touch. -/
def pagesOf (g : Geometry) (p units : Nat) : List Nat :=
  let a := p / (256 * g.cwpp)
  let b := (p + (units - 1)) / (256 * g.cwpp)
  (List.range (b + 1 - a)).map fun i => a + i

/-- The least-worn (`low`) or most-worn free block of a LUN (R301). -/
def State.pickFree (s : State) (lun : Nat) (low : Bool) : Option Nat :=
  let listed := s.media.blocks.filter fun b => b.lun == lun
  let free := sortBy (fun b => b.erases) (listed.filter fun b => decide (b.state = .free ∧ s.media.sysBlocks lun ≤ b.blk))
  let nb := firstFree (listed.map fun b => b.blk) (listed.length + 1) (s.media.sysBlocks lun)
  let fresh := if nb < s.media.geom.blocks then some nb else none
  let worn := free.getLast?.map fun b => b.blk
  let least := match fresh with | some b => some b | none => free.head?.map fun b => b.blk
  if low then least else match worn with | some b => some b | none => fresh

/-- A block leaves a system region: it is erased and returns to its pool. -/
def State.leaveSys (s : State) (b : Nat × Nat) : State :=
  (s.modBlock b.1 b.2 fun x => { x with state := .erasing }).queueOp .erase (mkAddr b.1 b.2 0 0 0) .erase 4 3

/-- Bring a LUN's parity scratch blocks to SCRATCH_BLOCKS as the last start found it (R245, R278); a block whose parity pages are held stays. -/
def State.takeScratch (s : State) (n : Nat) : State :=
  let mine := s.media.scratch.filter fun b => b.lun == n
  let want := s.media.scratchWant
  let gone := (mine.drop want).filter fun b => b.held.isEmpty
  let s : State := { s with media := { s.media with scratch := s.media.scratch.filter fun b => !gone.contains b } }
  let s := gone.foldl (fun s b => s.leaveSys (b.lun, b.blk)) s
  (List.range (want - mine.length)).foldl (fun s _ =>
    match s.pickFree n true with
    | none => s
    | some b => ({ s with media := { s.media with scratch := s.media.scratch ++ [{ lun := n, blk := b }] } } : State).modBlock n b fun x => { x with state := .system }) s

/-- A LUN is formatted (R238): its label is written, and it joins the free pool with its spares. Blocks with the factory bad-block mark join no
pool (DEDUCED, log entry 32). -/
def State.formatLun (s : State) (n : Nat) : State :=
  let sp := s.media.geom.blocks * s.fget .medSpareCtrl_sparePm / 1000
  let s := s.modLun n fun l =>
    { l with state := .accepted, spares := sp, failBlks := [], timeouts := 0, releaseAt := none, label := some ⟨s.ident.serial, Config.formatGen, n⟩ }
  let s := (s.media.factoryBad n).foldl (fun s b => s.modBlock n b fun x => { x with state := .retired }) s
  { s with media := { s.media with spareBlocks := s.media.spareBlocks + sp, spareInitial := s.media.spareInitial + sp } }

/-- The LUN a channel contributes to a new set: its lowest-numbered one with a free block (R249 names no rule). -/
def State.lunFor (s : State) (ch : Nat) : Option Lun :=
  (s.media.accepted.filter fun l => l.n / 128 == ch && decide (0 < s.freeOf l)).head?

/-- A stream may open a set (R303): in DELETE_ONLY the SPARGE and INDEX streams, and what `may` lets through, the drain of TOMBSTONE entries and
of entries accepted before NO_SPACE. -/
def State.mayOpen (s : State) (st : Stream) (may : Bool) : Bool := may || decide (st = .sparge ∨ st = .index) || decide (s.media.spaceState < 3)

/-- The LUNs of set number `wseq` (R249): W channels that have a free block, in ascending order from one that moves on with each set where there
are more than W (DESIGN CHOICE, log entry 61). -/
def State.setLuns (s : State) (wseq : Nat) : List Lun :=
  let w := s.media.width
  let cs := s.media.channels.filterMap s.lunFor
  let k := if cs.length ≤ w then 0 else wseq * w % cs.length
  (cs.drop k ++ cs.take k).take w

/-- Open a set in a stream (R249, R301): one block on each of W LUNs on W channels, the parity LUN rotating. None when too few channels have a
free block, or when the space state keeps the stream from opening sets. -/
def State.openSet (s : State) (st : Stream) (may : Bool) : Option (Nat × State) :=
  let w := s.media.width
  let luns := s.setLuns s.media.nextWseq
  if w < 4 ∨ luns.length < w ∨ s.mayOpen st may = false then none
  else
    let wseq := s.media.nextWseq
    let par := luns[wseq % w]?.map fun l => l.n
    let data := luns.filter fun l => some l.n ≠ par
    let blocks := data.filterMap fun l => (s.pickFree l.n (decide (st ≠ .sparge))).map fun b => (l.n, b)
    let t : TSet := { wseq := wseq, stream := st, blocks := blocks, parityLun := par.getD 0, state := .opened, openedAt := s.clk.cycles }
    let s := { s with media := { s.media with sets := s.media.sets ++ [t], nextWseq := wseq + 1, mapPresent := true } }
    some (wseq, (blocks.foldl (fun s b => s.modBlock b.1 b.2 fun x => { x with state := .inSet, wseq := wseq }) s).updateSpace)

/-- Move a set's write pointer, queueing the program of every page it completes (R251, R253). -/
def State.movePtr (s : State) (w newPtr : Nat) (rank : Nat) : State :=
  match s.media.set? w with
  | none => s
  | some t =>
    let per := 256 * s.media.geom.cwpp
    let from_ := t.ptr / per
    let upto := newPtr / per
    let ter := per * t.blocks.length
    let same := decide (t.ptr = newPtr) || (decide (t.ptr % ter ≠ 0) && decide (t.ptr / ter = newPtr / ter))
    let s := s.modSet w fun t => { t with ptr := newPtr, openedAt := if same then t.openedAt else s.clk.cycles }
    (List.range (upto - from_)).foldl (fun s i =>
      s.queueOp .program (setAddr s.media.geom t ((from_ + i) * per)) (.page w (from_ + i)) s.nativeClass rank) s

/-- Where an item of `units` units of keyspace `ksp` starts in a set (R259): a codeword of USER or SPARGE holds records of
one keyspace, and `whole` items start a codeword. None when the rest of the set is too small. -/
def placeIn (g : Geometry) (t : TSet) (units ksp : Nat) (whole : Bool) : Option Nat :=
  let p := if t.ptr % 256 ≠ 0 ∧ (whole ∨ t.ksp ≠ ksp) then (t.ptr / 256 + 1) * 256 else t.ptr
  if p + units ≤ setUnits g t then some p else none

/-- Parity scratch pages that are free (R252). -/
def MediaSt.scratchFree (m : MediaSt) : Nat :=
  ((m.scratch.filter fun b => (m.lun? b.lun).any fun l => decide (l.state = .accepted)).map fun b => m.geom.pages - b.used).sum

/-- The same of one LUN. -/
def MediaSt.scratchOn (m : MediaSt) (lun : Nat) : Nat := ((m.scratch.filter fun b => b.lun == lun).map fun b => m.geom.pages - b.used).sum

/-- Units of a Terrace of a set. -/
def terUnits (g : Geometry) (t : TSet) : Nat := 256 * g.cwpp * t.blocks.length

/-- Terraces that the first `p` units of a set have begun. -/
def begun (g : Geometry) (t : TSet) (p : Nat) : Nat := if terUnits g t = 0 then 0 else (p + (terUnits g t - 1)) / terUnits g t

/-- The sets whose Terraces may hold accumulators. -/
def MediaSt.building (m : MediaSt) : List TSet := m.sets.filter fun t => decide (t.state = .opened ∨ t.state = .full)

/-- Terraces that hold an accumulator: begun, and their parity not yet programmed (R251). -/
def MediaSt.openTerraces (m : MediaSt) : Nat := (m.building.map fun t => begun m.geom t t.ptr - t.parity.length).sum

/-- Scratch pages of a LUN that Terraces already begun will take (R252). -/
def MediaSt.scratchDue (m : MediaSt) (lun : Nat) : Nat :=
  ((m.building.filter fun t => t.parityLun == lun).map fun t =>
    begun m.geom t t.ptr - ((m.scratch.map fun b => (b.held.filter fun h => h.1 == t.wseq).length).sum)).sum

/-- The Terraces that a set with parity LUN `lun` may begin (R252): each takes an accumulator of the 512, or two where pages have 32 KiB (R251),
and a scratch page of that LUN. -/
def MediaSt.terraceRoom (m : MediaSt) (lun : Nat) : Nat :=
  min ((if m.geom.page32 then 256 else 512) - m.openTerraces) (m.scratchOn lun - m.scratchDue lun)

/-- The pad of a set goes on as far as R252 lets it begin Terraces. -/
def State.padStep (s : State) (w : Nat) : State :=
  match s.media.set? w with
  | none => s
  | some t =>
    match t.pad with
    | none => s
    | some rank => s.movePtr w (max t.ptr (min (setUnits s.media.geom t) ((begun s.media.geom t t.ptr + s.media.terraceRoom t.parityLun) * terUnits s.media.geom t))) rank

/-- Pad a set to its end (R259): nothing more is placed in it, and its Terraces follow one another as R252 lets them. -/
def State.padSet (s : State) (w rank : Nat) : State := (s.modSet w fun t => { t with pad := some (t.pad.getD rank) }).padStep w

/-- The pads that wait for accumulators or scratch pages go on. -/
def State.padsGo (s : State) : State :=
  (s.media.sets.filter fun t => t.pad.isSome && decide (t.state = .opened ∧ t.ptr < setUnits s.media.geom t)).foldl (fun s t => s.padStep t.wseq) s

/-- The parity of Terrace `k` of a set goes to a scratch page of the set's parity LUN (R251); with none free it waits. -/
def State.queueParity (s : State) (w k rank : Nat) : State :=
  match s.media.set? w with
  | none => s
  | some t =>
    if t.parity.contains k || s.media.ops.any (fun o => decide (o.why = .parity w k)) then s
    else match s.media.scratch.find? fun b => b.lun == t.parityLun && decide (b.used < s.media.geom.pages) with
      | none => s
      | some b =>
        let sc := updWhere (fun x => x.lun == b.lun && x.blk == b.blk) (fun x => { x with used := x.used + 1, held := x.held ++ [(w, k, b.used)] }) s.media.scratch
        ({ s with media := { s.media with scratch := sc } } : State).queueOp .program (mkAddr b.lun b.blk b.used 0 0) (.parity w k) 1 rank

/-- Every data page of Terrace `k` of a set has been programmed: it has passed, or failed in a set that is closed since (R251, R298). -/
def TSet.terraceDone (t : TSet) (k : Nat) : Bool :=
  (List.range t.blocks.length).all fun i => t.passed.contains (k * t.blocks.length + i) || t.failedPages.contains (k * t.blocks.length + i)

/-- The parities that wait for a scratch page are queued where one has come free. -/
def State.parityDue (s : State) : State :=
  (s.media.sets.filter fun t => decide (t.state = .opened ∨ t.state = .full)).foldl (fun s t =>
    ((List.range s.media.geom.pages).filter t.terraceDone).foldl (fun s k => s.queueParity t.wseq k 2) s) s

/-- The parity pages of a set are released (R254, R299); a scratch block all of whose pages are released is erased for reuse. -/
def State.releaseParity (s : State) (w : Nat) : State :=
  let sc := s.media.scratch.map fun b => { b with held := b.held.filter fun h => h.1 != w }
  let done := sc.filter fun b => b.held.isEmpty && b.used != 0 && s.media.scratch.any fun x => x.lun == b.lun && x.blk == b.blk && !x.held.isEmpty
  let full := sc.map fun b => if done.contains b then { b with used := s.media.geom.pages } else b
  done.foldl (fun s b => s.queueOp .erase (mkAddr b.lun b.blk 0 0 0) .erase 4 2) ({ s with media := { s.media with scratch := full } } : State)

/-- A scratch or rescue block has been erased: worn more than the average of its LUN by WL_SPREAD, it trades roles with the least-worn free
block (R301). Which blocks the average takes in and how it rounds R301 does not say: here all blocks of the LUN, system and retired ones
among them, rounded down (DESIGN CHOICE, log entry 162). -/
def State.tradeRole (s : State) (lun blk : Nat) : State :=
  let sum := ((s.media.blocks.filter fun b => b.lun == lun).map fun b => b.erases).sum
  let avg := sum / max 1 s.media.geom.blocks
  match s.media.block? lun blk, s.pickFree lun true with
  | some b, some nb =>
    if b.erases ≤ avg + s.fget .medWearCtrl_wlSpread then s
    else
      let s := (s.modBlock lun blk fun x => { x with state := .free }).modBlock lun nb fun x => { x with state := .system }
      let sw := fun (x : Nat × Nat) => if x = (lun, blk) then (lun, nb) else x
      { s with media := { s.media with scratch := updWhere (fun x => x.lun == lun && x.blk == blk) (fun x => { x with blk := nb }) s.media.scratch }
               tun := { s.tun with rescue := s.tun.rescue.map fun l => l.map sw } }
  | _, _ => s

/-- A system block is erased: its count rises. -/
def State.eraseSys (s : State) (b : Nat × Nat) : State := (s.modBlock b.1 b.2 fun x => { x with state := .system, erases := x.erases + 1 }).tradeRole b.1 b.2

/-- Place an item in a stream: its address, the set, and the state with the pointer moved past it. None when no set or no
further Terrace can be opened (the work waits, R252). -/
def State.place (s : State) (st : Stream) (units ksp : Nat) (whole : Bool) (rank : Nat) (may : Bool) : Option (Nat × Nat × State) :=
  let put := fun (t : TSet) (s : State) =>
    (placeIn s.media.geom t units ksp whole).bind fun p =>
      if begun s.media.geom t (p + units) ≤ begun s.media.geom t t.ptr + s.media.terraceRoom t.parityLun then
        some (setAddr s.media.geom t p, t.wseq, (s.modSet t.wseq fun t => { t with ksp := ksp }).movePtr t.wseq (p + units) rank)
      else none
  let fresh := fun (s : State) => do
    let (w, s) ← s.openSet st may
    let t ← s.media.set? w
    put t s
  match s.media.sets.find? fun t => decide (t.stream = st ∧ t.state = .opened) && t.pad.isNone with
  | none => fresh s
  | some t => if (placeIn s.media.geom t units ksp whole).isSome then put t s else fresh (s.padSet t.wseq rank)

/-- 16-byte units of a record (R256): a 48-byte header, the key, and the value or one 8-byte entry per extent. -/
def recordUnits (klen body : Nat) : Nat := (48 + klen + body + 15) / 16

/-- An item by its address. -/
def MediaSt.item? (m : MediaSt) (a : Nat) : Option Item := m.items.find? fun i => i.addr == a

/-- Change an item. -/
def State.modItem (s : State) (a : Nat) (f : Item → Item) : State :=
  { s with media := { s.media with items := updWhere (fun i => i.addr == a) f s.media.items } }

/-- R253: every page of an item has passed and the parity of its Terraces has been programmed. `parity` false asks only
for the pages (R260). -/
def MediaSt.onFlash (m : MediaSt) (i : Item) (parity : Bool) : Bool :=
  match m.set? i.wseq with
  | none => true
  | some t =>
    let ps := pagesOf m.geom (setPos m.geom t i.addr) i.units
    decide (t.state = .verified) || (ps.all fun p => t.passed.contains p && (!parity || t.parity.contains (p / t.blocks.length)))

/-- Store an item in a stream, where `may` lets it open a set in DELETE_ONLY; a small record that the cache holds from the address's former use goes (R188). -/
def State.store (s : State) (st : Stream) (i : Item) (whole : Bool) (rank : Nat) (may : Bool := false) : Option (Nat × State) :=
  (s.place st i.units i.ksp whole rank may).map fun (a, w, s) =>
    (a, { s with media := { s.media with items := s.media.items ++ [{ i with addr := a, wseq := w }] }
                 index := { s.index with small := s.index.small.filter fun x => x != a } })

/-- A set becomes urgent (R289 step 1, R298); urgent sets are taken in order of marking. -/
def State.markUrgent (s : State) (w : Nat) : State :=
  let n := (s.media.sets.filterMap fun t => t.urgent).foldl max 0
  s.modSet w fun t => { t with urgent := some (t.urgent.getD (n + 1)) }

/-! ### The read ladder (R263, R264) -/

/-- The order in which step 2 tries tables: the one that last succeeded on the LUN, then 0 upward without it. -/
def tableOrder (n : Nat) (last : Option Nat) : List Nat :=
  match last with
  | none => List.range n
  | some t => if t < n then t :: (List.range n).filter (fun x => x ≠ t) else List.range n

/-- What follows one decode attempt of a codeword. -/
inductive Ladder where
  | again (step : Nat) (tried : List (Nat × Nat))
  | ended (step table : Nat)
  deriving DecidableEq, Repr

/-- The order of step 2 on an operation's LUN as it stands now. -/
def State.tablesNow (s : State) (o : NandOp) : List Nat :=
  tableOrder (s.fget .medNandCfg_rrTables) ((s.media.lun? (addrLun o.addr)).bind fun l => l.lastTable)

/-- The table in use at the attempt that `tried` tables precede, in the order fixed when step 2 began (R264). -/
def State.tableAt (s : State) (o : NandOp) : Nat := (if o.order.isEmpty then s.tablesNow o else o.order).getD (o.tried.length) 0

/-- The best table of step 3: the one whose decode left the fewest unsatisfied checks (R264). -/
def bestTable : List (Nat × Nat) → Nat
  | [] => 0
  | (t, u) :: l => (l.foldl (fun b x => if x.2 < b.2 then x else b) (t, u)).1

/-- The set of the address is VERIFIED (step 4 of R263), or was before the Sparge took it: its parity is released. -/
def MediaSt.verifiedAt (m : MediaSt) (a : Nat) : Bool :=
  (m.block? (addrLun a) (addrBlk a)).any fun b => (m.set? b.wseq).any fun t => decide (t.state = .verified) || (decide (t.state = .sparging) && t.wasVerified)

/-- Step 4 can follow for a read (R263, R270): of a codeword whose set is not VERIFIED, not of a raw read, nor of a read that step 4 made. -/
def State.mayRebuild (s : State) (o : NandOp) : Bool :=
  !s.media.verifiedAt o.addr && (match o.why with | .raw | .rebuild _ => false | _ => true)

/-- The ladder after an attempt at operation `o` that decoded or not (R263). -/
def State.ladder (s : State) (o : NandOp) (decoded : Bool) (unsat : Nat) : Ladder :=
  let n := s.fget .medNandCfg_rrTables
  let soft := s.flag .medNandCfg_softEn
  let rebuild := s.mayRebuild o
  let after2 := fun tried => if soft then Ladder.again 3 tried else if rebuild then .again 4 tried else .ended 5 0
  if o.step = 1 then if decoded then .ended 1 0 else .again 2 []
  else if o.step = 2 then
    if decoded then .ended 2 (s.tableAt o)
    else
      let tried := o.tried ++ [(s.tableAt o, unsat)]
      if tried.length < n then .again 2 tried else after2 tried
  else if o.step = 3 then
    if decoded then .ended 3 (bestTable o.tried) else if rebuild then .again 4 o.tried else .ended 5 0
  else if decoded then .ended 4 0 else .ended 5 0

/-- The counters and the LUN's table at the end of a codeword's ladder (R263, R264), the hand-over of a rebuilt codeword's
set to the Sparge, and the event of step 5 (R265). -/
def State.ladderEnd (s : State) (a step table corrected : Nat) : State :=
  let h := s.media.health
  let h' :=
    if step = 1 then (if corrected = 0 then h else { h with corrected := satAdd 64 h.corrected 1 })
    else if step = 2 then { h with retried := satAdd 64 h.retried 1 }
    else if step = 5 then { h with unrecoverable := satAdd 64 h.unrecoverable 1 }
    else { h with softDecoded := satAdd 64 h.softDecoded 1 }
  let s := { s with media := { s.media with health := h' } }
  let s := if step = 2 then s.modLun (addrLun a) fun l => { l with lastTable := some table } else s
  let s := if step = 4 then
      (match s.media.block? (addrLun a) (addrBlk a) with | some b => s.markUrgent b.wseq | none => s).report .rebuilt a
    else s
  if step = 5 then s.report .unrecoverable a else s

/-! ### Reader-drain epochs (R295, R296) -/

/-- Advance the epoch counter, unless that would reuse a slot that is not empty (R296). -/
def State.epochAdvance (s : State) : State :=
  let e := (s.media.epoch + 1) % 65536
  if s.media.slots.any (fun x => x.epoch % 16 == e % 16) then s
  else { s with media := { s.media with epoch := e, epochAt := s.clk.cycles } }

/-- A set leaves service (R292 step 6, R295, R298): its FAILING blocks are retired, the others record the current epoch as
RETIRING, and the counter advances. -/
def State.retireSet (s : State) (t : TSet) : State :=
  let e := s.media.epoch
  let s := t.blocks.foldl (fun s b =>
    if (s.media.block? b.1 b.2).any fun x => decide (x.state = .failing) then s.retireBlock b.1 b.2
    else s.modBlock b.1 b.2 fun x => if x.state = .inSet then { x with state := .retiring, epoch := e } else x) s
  s.epochAdvance

/-- How many advances of the 16-bit counter lie between epoch `e` and the current one. -/
def MediaSt.epochAge (m : MediaSt) (e : Nat) : Nat := (m.epoch + 65536 - e % 65536) % 65536

/-- R295: whether every slot of epoch `e` or earlier is empty. -/
def MediaSt.drained (m : MediaSt) (e : Nat) : Bool := m.slots.all fun x => decide (m.epochAge x.epoch < m.epochAge e)

/-- The oldest epoch with an occupied slot (R296, R313): the current one where none is. -/
def MediaSt.oldestEpoch (m : MediaSt) : Nat :=
  (m.slots.filter fun x => decide (0 < x.readers)).foldl (fun b x => if m.epochAge b < m.epochAge x.epoch then x.epoch else b) m.epoch

/-! ### The codewords of an item (R250, R263) -/

/-- Codewords in which an item has bytes. -/
def itemCws (i : Item) : Nat := (addrUnit i.addr + i.units + 255) / 256

/-- The addresses of the codewords of the item at an address, each the next in stream order (R250). -/
def MediaSt.cwsOf (m : MediaSt) (a : Nat) : List Nat :=
  match m.item? a with
  | none => [a - addrUnit a]
  | some i =>
    match m.set? i.wseq with
    | none => [a - addrUnit a]
    | some t => (List.range (itemCws i)).map fun k => setAddr m.geom t ((setPos m.geom t a / 256 + k) * 256)

/-- Queue a read of every codeword of an item; codewords of one page come with one page read. -/
def State.queueRead (s : State) (a : Nat) (why : NandFor) (rank : Nat) : State :=
  let l := s.media.cwsOf a
  (l.zip (0 :: l)).foldl (fun s x => s.queueOp .read x.1 why 0 rank a (decide (x.1 / 2048 = x.2 / 2048))) s

end Sys2Proof.Machine
end

