-- ==== Sys2Proof/Machine/Index.lean ====
section
/-!
DEFINITION. Digests (R176, R177), the index with its leaves and journal (R179 to R192), AD rows (R193 to R200), Tun entries
(R201 to R204), the merge a read makes (R207, R208), and the drain's end (R211).
-/

/-- The place of a version in the order of its key's versions: by stamp, then by origin (R48). -/
def Sys2Proof.Machine.verOrd (stamp origin : Nat) : Nat := stamp * 16384 + origin

/-- The place of a Tun entry's version. -/
def Sys2Proof.TunEntry.ord (e : Sys2Proof.TunEntry) : Nat := Sys2Proof.Machine.verOrd e.stamp e.origin

namespace Sys2Proof.Machine

/-- The place of a record's version. -/
def Item.ord (i : Item) : Nat := verOrd i.stamp i.origin

/-! ### Digests -/

/-- Ward, pipeline, bucket path and class of a digest (R177). -/
def wardOf (d : Nat) : Nat := bits d 108 20
def pipeOf (d : Nat) : Nat := bits d 108 3
def pathOf (d : Nat) : Nat := bits d 70 38
def classOf (d : Nat) : Nat := bits d 64 6

/-- A keyspace, active or reclaiming. -/
def State.ksp? (s : State) (k : Nat) : Option Keyspace := s.kv.keyspaces.find? fun x => x.ksp == k

/-- The digest of a key under its keyspace's salt (R176, R178). -/
def State.digest (s : State) (ksp : Nat) (key : Bytes) : Nat := siphash128 ((s.ksp? ksp).map (fun k => k.salt) |>.getD 0) key

/-! ### Leaves -/

/-- A Ward root entry (R179). -/
def IndexSt.root? (x : IndexSt) (w : Nat) : Option WardRoot := x.roots.find? fun r => r.ward == w

/-- The leaf that covers a digest (R180, R184). -/
def IndexSt.leaf? (x : IndexSt) (d : Nat) : Option Leaf :=
  x.leaves.find? fun l => l.ward == wardOf d && l.pfx == pathOf d / 2 ^ (38 - l.ldepth)

/-- Directory entries in use, with the root table (R181, R230). -/
def IndexSt.dirEntries (x : IndexSt) : Nat := 1048576 + (x.roots.map fun r => 2 ^ r.gdepth).sum

/-- Change the leaf of a bucket. -/
def State.modLeaf (s : State) (w p dep : Nat) (f : Leaf → Leaf) : State :=
  { s with index := { s.index with leaves := updWhere (fun l => l.ward == w && l.pfx == p && l.ldepth == dep) f s.index.leaves } }

/-- Slots of the index journal (R201): JOURNAL_EIGHTHS eighths of the protected size, 64 bytes each. -/
def State.journalSlots (s : State) : Nat := s.tun.sizeMib * 16384 * s.tun.journalEighths / 8

/-- Journal occupancy in per cent (R226), rounded down (R226 states no rounding: DESIGN CHOICE, log entry 152). -/
def State.journalPct (s : State) : Nat := if s.journalSlots = 0 then 0 else s.index.journal.length * 100 / s.journalSlots

/-- The journal is more than `pct` per cent full (R191). -/
def State.journalOver (s : State) (pct : Nat) : Bool := decide (pct * s.journalSlots < s.index.journal.length * 100)

/-- Whether a leaf covers a digest (R180). -/
def Leaf.covers (l : Leaf) (d : Nat) : Bool := l.ward == wardOf d && l.pfx == pathOf d / 2 ^ (38 - l.ldepth)

/-- The digests that a leaf covers: from `lo` up to `hi` (R177, R180). -/
def Leaf.lo (l : Leaf) : Nat := l.ward * 2 ^ 108 + l.pfx * 2 ^ (108 - l.ldepth)
def Leaf.hi (l : Leaf) : Nat := l.lo + 2 ^ (108 - l.ldepth)

/-! ### The leaf cache (R36, R188, R189) -/

/-- Slots in use. -/
def IndexSt.cachedCount (x : IndexSt) : Nat := (x.leaves.filter fun l => l.cached).length

/-- The clean leaf that was used least recently. -/
def IndexSt.lruClean (x : IndexSt) : Option Leaf := (sortBy (fun l => l.used) (x.leaves.filter fun l => l.cached && !l.dirty)).head?

/-- A leaf leaves the cache, and the small records of its keys with it (R188). -/
def State.evict (s : State) (l : Leaf) : State :=
  let s := s.modLeaf l.ward l.pfx l.ldepth fun l => { l with cached := false }
  let stay := s.index.small.filter fun a => !((s.media.item? a).all fun i => l.covers (s.digest i.ksp i.key))
  { s with index := { s.index with small := stay } }

/-- Evict clean leaves, least recently used first, until the slots suffice; dirty leaves stay. -/
def State.trimCache (s : State) : State :=
  (List.range (s.index.cachedCount - s.index.slots)).foldl (fun s _ => match s.index.lruClean with | some l => s.evict l | none => s) s

/-- A slot is free, or holds a clean leaf. -/
def IndexSt.cacheRoom (x : IndexSt) : Bool := decide (x.cachedCount < x.slots) || x.lruClean.isSome

/-- The leaf of a digest stands in the cache, or a slot can be had for it (R189). -/
def State.leafRoom (s : State) (d : Nat) : Bool := (s.index.leaf? d).any (fun l => l.cached) || s.index.cacheRoom

/-- The leaf cache's slots: what DRAM leaves after the uses of R36. -/
def State.leafSlots (s : State) : Nat :=
  (s.ident.dramBytes - 2 ^ 30 - s.tun.sizeMib * 2 ^ 20 - min (2 ^ 35) (8 * s.index.dirEntries) - 568 * 2 ^ 20) / 4096

/-- The directory has grown: the leaf cache has what is left (R36). Before READY there is no cache yet. -/
def State.resizeCache (s : State) : State :=
  if s.index.slots = 0 then s else ({ s with index := { s.index with slots := s.leafSlots } } : State).trimCache

/-- The journal takes `n` more records (R190, R191): it is a ring. -/
def State.journalRoom (s : State) (n : Nat) : Bool := decide (s.index.journal.length + n ≤ s.journalSlots)

/-- Append a journal record (R190). -/
def State.journal (s : State) (kind ldepth ward pfx : Nat) (e : Option LeafEntry) (a b : Nat) (depth : Nat := 0) : State :=
  let r : JournalRec := { kind := kind, ldepth := ldepth, ward := ward, seq := s.index.jseq + 1, pfx := pfx, entry := e, a := a, b := b, depth := depth }
  { s with index := { s.index with journal := s.index.journal ++ [r], jseq := s.index.jseq + 1 } }

/-- A leaf gains a pending change (R191): its oldest pending change is this one where no other is pending. -/
def leafChanged (now : Nat) (l : Leaf) : Leaf :=
  { l with dirty := true, cached := true, changes := l.changes + 1, oldest := if l.changes = 0 then now else l.oldest, used := now }

/-- Overflow leaves that `n` entries need beyond the leaf's own 96 (R182, R186). -/
def ovfFor (n : Nat) : List Nat := List.replicate ((n - 1) / 96) 0

/-- Split a leaf into two of LDEPTH + 1 by the next path bit (R186 step 1). The new leaves have no flash address yet, so the SPLIT record
carries 0 for both (DESIGN CHOICE, log entry 132). -/
def State.splitLeaf (s : State) (l : Leaf) : State :=
  let dep := l.ldepth + 1
  let side := fun (b : Nat) => l.entries.filter fun e => decide (pathOf e.digest / 2 ^ (38 - dep) % 2 = b)
  let now := s.clk.cycles
  let onFlash := fun (b : Nat) => l.stored.filter fun e => decide (pathOf e.digest / 2 ^ (38 - dep) % 2 = b)
  let mk := fun (b : Nat) => leafChanged now
    { ward := l.ward, ldepth := dep, pfx := l.pfx * 2 + b, entries := side b, seq := l.seq, addr := l.addr, stored := onFlash b, storedDepth := l.storedDepth, ovf := ovfFor (side b).length, rebuild := l.rebuild }
  let rest := s.index.leaves.filter fun x => !(x.ward == l.ward && x.pfx == l.pfx && x.ldepth == l.ldepth)
  (({ s with index := { s.index with leaves := rest ++ [mk 0, mk 1] } }).journal 3 dep l.ward l.pfx none 0 0).trimCache

/-- Double a Ward's segment (R186 step 2). -/
def State.doubleSegment (s : State) (w : Nat) : State :=
  let s := { s with index := { s.index with roots := updWhere (fun r => r.ward == w) (fun r => { r with gdepth := r.gdepth + 1 }) s.index.roots } }
  (s.journal 4 0 w 0 none ((s.index.root? w).map (fun r => r.gdepth) |>.getD 0) 0).resizeCache

/-- Directory entries at most (R181). -/
def dirLimit : Nat := 4294967296

/-- Make room in the leaf of a digest for one more entry (R186), splitting as often as it takes. -/
def State.roomFor (s : State) (d : Nat) : Nat → State
  | 0 => s
  | fuel + 1 =>
    match s.index.leaf? d, s.index.root? (wardOf d) with
    | some l, some r =>
      if l.entries.length < 96 then s
      else if l.ldepth < r.gdepth then (s.splitLeaf l).roomFor d fuel
      else if r.gdepth < 38 ∧ s.index.dirEntries + 2 ^ r.gdepth ≤ dirLimit then
        ((s.doubleSegment l.ward).splitLeaf l).roomFor d fuel
      else if l.entries.length < 96 * (l.ovf.length + 1) then s
      else
        ((s.modLeaf l.ward l.pfx l.ldepth fun l => { l with ovf := l.ovf ++ [0] }).journal 5 0 l.ward l.pfx none 0 0 l.ldepth)
    | _, _ => s

/-- A Ward has a segment, or the directory has room for one (R181). -/
def State.rootRoom (s : State) (w : Nat) : Bool := (s.index.root? w).isSome || decide (s.index.dirEntries < dirLimit)

/-- Give a Ward its segment and first leaf when it has none (R179), within R181; the journal says so by a SEGMENT_DOUBLE to GDEPTH 0
(DESIGN CHOICE, log entry 132). -/
def State.ensureRoot (s : State) (w : Nat) : State :=
  if (s.index.root? w).isSome || !s.rootRoom w then s
  else
    let x := { s.index with roots := s.index.roots ++ [{ ward := w, gdepth := 0 }], leaves := s.index.leaves ++ [{ ward := w, ldepth := 0, pfx := 0, used := s.clk.cycles }] }
    (({ s with index := x } : State).journal 4 0 w 0 none 0 0).trimCache.resizeCache

/-- Whether a leaf entry names a record of this key (R185). -/
def MediaSt.isKey (m : MediaSt) (key : Bytes) (e : LeafEntry) : Bool := (m.item? e.loc).any fun i => i.key == key

/-- ENTRY_SET (R190): the entry of a key names a new version. Entries are kept sorted by digest, then keyspace (R183). -/
def State.setEntry (s : State) (key : Bytes) (e : LeafEntry) : State :=
  let s := (s.ensureRoot (wardOf e.digest)).roomFor e.digest 40
  match s.index.leaf? e.digest with
  | none => s
  | some l =>
    let others := l.entries.filter fun x => !(x.digest == e.digest && x.ksp == e.ksp && s.media.isKey key x)
    let es := insertBy (fun x => x.digest * 65536 + x.ksp) e others
    ((s.modLeaf l.ward l.pfx l.ldepth fun l => leafChanged s.clk.cycles { l with entries := es }).journal 1 0 l.ward l.pfx (some e) 0 0).trimCache

/-- ENTRY_REMOVE (R190): the entry that names address `loc` goes. -/
def State.removeEntry (s : State) (e : LeafEntry) : State :=
  match s.index.leaf? e.digest with
  | none => s
  | some l =>
    let es := l.entries.filter fun x => x.loc != e.loc
    let ovf := l.ovf.take ((es.length - 1) / 96)
    (s.modLeaf l.ward l.pfx l.ldepth fun l => leafChanged s.clk.cycles { l with entries := es, ovf := ovf }).journal 2 0 l.ward l.pfx (some e) 0 0

/-! ### AD rows (R193 to R200) -/

/-- AD rows (R193). -/
def adRows : Nat := 1048576

/-- Index a Tun entry or an intent in a free row (R200); the lowest free row is taken. -/
def State.addRow (s : State) (d : Nat) (intent : Bool) (entry ksp : Nat) : State :=
  let r := firstFree (s.tun.rows.map fun x => x.row) (s.tun.rows.length + 1) 0
  let rows := insertBy (fun x => x.row) { row := r, digest := d, intent := intent, entry := entry, ksp := ksp } s.tun.rows
  ({ s with tun := { s.tun with rows := rows } }).fmax .adStat_rowsPeak rows.length

/-- A search of the AD (R194): the lowest-numbered valid row at or above `n` of the digest's class and digest, and how many there are,
saturating. -/
def TunSt.search (t : TunSt) (d n : Nat) : Option AdRow × Nat :=
  let ms := t.rows.filter fun r => classOf r.digest == classOf d && r.digest == d && decide (n ≤ r.row)
  (ms.head?, min 65535 ms.length)

/-- Searches from the row after each match on until the count is 0 (R196). -/
def TunSt.walk (t : TunSt) (d : Nat) : Nat → Nat → List AdRow
  | 0, _ => []
  | fuel + 1, n =>
    match t.search d n with
    | (some r, k + 1) => if k = 0 then [r] else r :: t.walk d fuel (r.row + 1)
    | _ => []

/-- The matches of a digest, in the order of iteration. -/
def TunSt.matching (t : TunSt) (d : Nat) : List AdRow := t.walk d t.rows.length 0

/-- Invalidate the rows of an entry: its own row, or the intents that name it. -/
def State.dropRows (s : State) (entry : Nat) (intent : Bool) : State :=
  { s with tun := { s.tun with rows := s.tun.rows.filter fun x => !(x.entry == entry && x.intent == intent) } }

/-! ### Tun entries (R201 to R204) -/

/-- An entry by its offset. -/
def TunSt.entry? (t : TunSt) (id : Nat) : Option TunEntry := t.entries.find? fun e => e.id == id

/-- Change an entry. -/
def State.modEntry (s : State) (id : Nat) (f : TunEntry → TunEntry) : State :=
  { s with tun := { s.tun with entries := updWhere (fun e => e.id == id) f s.tun.entries } }

/-- Size of an entry in 64-byte units (R202). -/
def tunUnits (klen dlen : Nat) : Nat := (64 + klen + dlen + 63) / 64
def entryUnits (e : TunEntry) : Nat := tunUnits e.key.length (if e.kind = .batchRecord then 4 * e.members.length else e.data.length)

/-- The entry space in 64-byte units (R201): the protected size less the AD shadow and the journal. -/
def State.entrySpace (s : State) : Nat := s.tun.sizeMib * 16384 - 8 * 16384 - s.journalSlots

/-- The lowest offset with `n` free units among entries sorted by offset. -/
def fit (n space : Nat) : Nat → List (Nat × Nat) → Option Nat
  | at_, [] => if at_ + n ≤ space then some at_ else none
  | at_, (o, k) :: l => if at_ + n ≤ o then some at_ else fit n space (max at_ (o + k)) l

/-- Where an entry of `n` units fits (R201), the entry space beginning at offset 0 (DESIGN CHOICE, log entry 156). -/
def State.tunFit (s : State) (n : Nat) : Option Nat :=
  fit n s.entrySpace 0 ((sortBy (fun e => e.id) s.tun.entries).map fun e => (e.id, entryUnits e))

/-- Rows that entries still FILLING will take (R200). -/
def TunSt.fillingRows (t : TunSt) : Nat := (t.entries.filter fun e => decide (e.state = .filling)).length

/-- R34: space in the Tun, in the AD and in the journal for `rows` rows and `n` units. -/
def State.tunRoom (s : State) (n rows : Nat) : Bool :=
  (s.tunFit n).isSome && decide (s.tun.rows.length + s.tun.fillingRows + rows ≤ adRows) && s.journalRoom 1

/-- Free an entry, its row first (R204), and the intents of an abandoned batch after it (R205). -/
def State.freeEntry (s : State) (id : Nat) : State :=
  let s := s.dropRows id false
  ({ s with tun := { s.tun with entries := s.tun.entries.filter fun e => e.id != id } } : State).dropRows id true

/-- A match is verified when its entry is of the keyspace and key sought (R196). -/
def TunSt.verified (t : TunSt) (ksp : Nat) (key : Bytes) (r : AdRow) : Option TunEntry :=
  (t.entry? r.entry).filter fun e => e.ksp == ksp && e.key == key

/-- The entries of a key that the AD finds, oldest first (R48, R197, R207). -/
def State.entriesOf (s : State) (ksp : Nat) (key : Bytes) : List TunEntry :=
  sortBy (fun e => e.ord)
    (((s.tun.matching (s.digest ksp key)).filter fun r => !r.intent).filterMap (s.tun.verified ksp key))

/-- The BATCH_RECORD of a batch. -/
def TunSt.record? (t : TunSt) (b : Nat) : Option TunEntry := t.entries.find? fun e => decide (e.kind = .batchRecord) && e.batch == b

/-- A valid batch intent stands on a key (R61, R205). -/
def State.intentOn (s : State) (ksp : Nat) (key : Bytes) : Bool :=
  s.tun.rows.any fun r => r.intent && r.ksp == ksp && (s.tun.entry? r.entry).any fun e => e.key == key

/-! ### Reading (R207, R208) -/

/-- A version as a read selects it. `recs` are the records whose flash copies were compared or used, `exts` the extents
that hold its bytes, `ranges` the byte ranges that Tun patches supply over them; `unacked` when an entry it rests on awaits a replica; `bad` when such an entry is unusable (R198); `falseHits` and
`adFalse` count the index entries and AD matches that failed key verification (R185, R196), `chain` the matches iterated (R223). -/
structure Ver where
  present : Bool := false
  stamp : Nat := 0
  origin : Nat := 0
  vlen : Nat := 0
  staged : Bool := false
  inTun : Bool := false
  unacked : Bool := false
  bad : Bool := false
  data : Bytes := []
  leaf : Option Leaf := none
  recs : List Nat := []
  exts : List (Nat × Nat) := []
  ranges : List (Nat × Nat) := []
  refs : List Nat := []
  falseHits : Nat := 0
  adFalse : Nat := 0
  chain : Nat := 0
  deriving DecidableEq, Repr

/-- The bytes an extent map gives for a value of `vlen` bytes (R257, R260): zeros where no extent was written. -/
def MediaSt.extentBytes (m : MediaSt) (exts : List (Nat × Nat)) (vlen : Nat) : Bytes :=
  if exts.isEmpty ∧ vlen = 0 then []
  else
    let n := (vlen + 1048575) / 1048576
    ((List.range n).flatMap fun i =>
      let want := min 1048576 (vlen - i * 1048576)
      match exts.find? fun e => e.1 == i with
      | none => List.replicate want 0#8
      | some e => padTo want ((m.item? e.2).map (fun x => x.data) |>.getD [])).take vlen

/-- The version a record holds. -/
def MediaSt.verOfItem (m : MediaSt) (i : Item) (v : Ver) : Ver :=
  if i.kind = .tombstone then { v with present := false, stamp := i.stamp, origin := i.origin, recs := v.recs ++ [i.addr] }
  else
    { v with present := true, stamp := i.stamp, origin := i.origin, vlen := i.vlen, staged := i.staged,
             data := if i.kind = .extents then m.extentBytes i.extents i.vlen else i.data,
             recs := v.recs ++ [i.addr], exts := i.extents }

/-- The first version of the chain from address `a` with a stamp at most `t` (R208). -/
def MediaSt.chain (m : MediaSt) (t : Nat) (v : Ver) : Nat → Nat → Ver
  | 0, _ => v
  | fuel + 1, a =>
    match m.item? a with
    | none => v
    | some i => if t < i.stamp then m.chain t { v with recs := v.recs ++ [a] } fuel i.pred else m.verOfItem i v

/-- The matching entries of a leaf up to the accepted one (R184, R185): the false hits before it, and it. -/
def MediaSt.accept (m : MediaSt) (key : Bytes) : List LeafEntry → List Nat → List Nat × Option LeafEntry
  | [], fs => (fs, none)
  | e :: es, fs => if m.isKey key e then (fs, some e) else m.accept key es (fs ++ [e.loc])

/-- flash_version of R208, from the leaf a waiting read has obtained where it holds one (R187). A leaf under rebuild is not searched (R192). -/
def State.flashVer (s : State) (ksp : Nat) (key : Bytes) (t : Nat) (held : Option Leaf := none) : Ver :=
  let d := s.digest ksp key
  match held.orElse fun _ => s.index.leaf? d with
  | none => {}
  | some l =>
    if l.rebuild then { leaf := some l } else
    let (fs, e) := s.media.accept key (l.entries.filter fun e => e.digest == d && e.ksp == ksp) []
    let v : Ver := { leaf := some l, recs := fs, falseHits := fs.length }
    match e with
    | none => v
    | some e => s.media.chain t v (s.media.items.length + 1) e.loc

/-- apply of R207: patches, oldest first, over a base. -/
def applyPatches (ps : List TunEntry) (v : Ver) : Ver :=
  ps.foldl (fun v p =>
    { v with present := true, data := padTo p.vlen (overlay v.data p.offset p.data), vlen := p.vlen, stamp := p.stamp,
             origin := p.origin, staged := false, inTun := decide (p.state ≠ .drained), ranges := v.ranges ++ [(p.offset, p.data.length)] }) v

/-- The merge over the verified matches, newest first (R207). -/
def State.mergeFrom (s : State) (ksp : Nat) (key : Bytes) (t : Nat) (held : Option Leaf) : List TunEntry → List TunEntry → Ver
  | [], ps => applyPatches ps (s.flashVer ksp key t held)
  | e :: es, ps =>
    match e.kind with
    | .put => applyPatches ps { present := true, stamp := e.stamp, origin := e.origin, vlen := e.vlen, inTun := decide (e.state ≠ .drained), data := e.data }
    | .publish =>
      applyPatches ps { present := true, stamp := e.stamp, origin := e.origin, vlen := e.vlen, inTun := decide (e.state ≠ .drained), staged := true,
                        data := s.media.extentBytes e.extents e.vlen, exts := e.extents }
    | .tombstone => { present := false, stamp := e.stamp, origin := e.origin }
    | _ => s.mergeFrom ksp key t held es (e :: ps)

/-- read_version of R207 at stamp `t`, without the waits. An entry that a version on flash superseded before it came is used below the stamp
of that version alone (R48). References are taken to every verified match (R207). -/
def State.readVer (s : State) (ksp : Nat) (key : Bytes) (t : Nat) (held : Option Leaf := none) : Ver :=
  let rows := s.tun.matching (s.digest ksp key)
  let verified := s.entriesOf ksp key
  let found := (verified.filter fun e => decide (e.stamp ≤ t ∧ (e.upTo = 0 ∨ t < e.upTo))).reverse
  let used := found.takeWhile (fun e => decide (e.kind = .patch)) ++ (found.dropWhile fun e => decide (e.kind = .patch)).take 1
  let v := s.mergeFrom ksp key t held found []
  { v with unacked := used.any (fun e => !e.replAck), bad := used.any (fun e => !e.good), refs := verified.map fun e => e.id,
           chain := rows.length, adFalse := (rows.filter fun r => (s.tun.verified ksp key r).isNone).length }

/-- The current version of a key. -/
def State.curVer (s : State) (ksp : Nat) (key : Bytes) : Ver := s.readVer ksp key (2 ^ 64 - 1)

/-! ### The leaf cache's reads (R188, R189) -/

/-- A leaf read from flash enters the cache, evicting the least recently used clean leaf when no slot is free. -/
def State.cacheLeaf (s : State) (w p dep : Nat) : State :=
  let s := if s.index.slots ≤ s.index.cachedCount then (match s.index.lruClean with | some l => s.evict l | none => s) else s
  if s.index.cachedCount < s.index.slots then s.modLeaf w p dep fun l => { l with cached := true, used := s.clk.cycles } else s

/-! ### Drain's end (R204, R211, R253) -/

/-- Extents of a large value go to the stream one by one (R257). -/
def State.storeExtents (s : State) (st : Stream) (ksp rank : Nat) (l : List (Nat × Bytes)) (acc : List (Nat × Nat)) (may : Bool := false) : Option (List (Nat × Nat) × State) :=
  match l with
  | [] => some (acc, s)
  | (n, b) :: l =>
    match s.store st { addr := 0, kind := .extent, wseq := 0, units := 256 * 256, ksp := ksp, data := b } true rank may with
    | none => none
    | some (a, s) => s.storeExtents st ksp rank l (acc ++ [(n, a)]) may

/-- A value cut into 1 MiB extents. -/
def extentPieces (v : Bytes) : List (Nat × Bytes) :=
  (List.range ((v.length + 1048575) / 1048576)).map fun i => (i, slice v (i * 1048576) 1048576)

/-- The leaf entry that names an item's version (R183). -/
def entryOf (d : Nat) (i : Item) : LeafEntry :=
  { digest := d, loc := i.addr, stamp := i.stamp, vlen := i.vlen, ksp := i.ksp, origin := i.origin,
    tomb := decide (i.kind = .tombstone), staged := i.staged }

/-- The index can take an ENTRY_SET of a digest, with the segment, splits and doublings that it brings (R186): journal slots (R191), slots of
the leaf cache that dirty leaves do not fill (R189), and directory entries (R181). -/
def State.indexRoom (s : State) (d : Nat) : Bool :=
  let t := (s.ensureRoot (wardOf d)).roomFor d 40
  s.leafRoom d && s.rootRoom (wardOf d) && t.journalRoom 1 && decide (t.index.cachedCount ≤ max s.index.slots s.index.cachedCount)

/-- An entry becomes DRAINED, with its ENTRY_SET unless flash holds a newer version already (R48, R204); entries that its record stands for
go with it (R212). -/
def State.drainedTo (s : State) (e : TunEntry) (i : Item) : State :=
  let s := if e.upTo = 0 then s.setEntry e.key (entryOf e.digest i) else s
  let mine := fun (x : TunEntry) => x.id == e.id || (x.recAddr == e.recAddr && decide (x.state = .live))
  { s with tun := { s.tun with entries := updWhere mine (fun x => { x with state := .drained }) s.tun.entries } }

/-- The live entries whose record has come to be programmed become DRAINED, with their ENTRY_SET (R204, R253). -/
def State.drainProgress (s : State) : State :=
  let ready := s.tun.entries.filter fun e =>
    decide (e.state = .live ∧ e.recAddr ≠ 0) && (s.media.item? e.recAddr).any fun i =>
      s.media.onFlash i true && i.extents.all fun x => (s.media.item? x.2).any fun y => s.media.onFlash y true
  (sortBy (fun e => e.ord) ready).foldl (fun s e =>
    match s.media.item? e.recAddr with
    | none => s
    | some i => if (s.tun.entry? e.id).any (fun x => decide (x.state = .live)) && (e.upTo ≠ 0 || s.indexRoom e.digest) then s.drainedTo e i else s) s

/-- R211: DRAINED entries are released when no earlier entry of their key stands and no read refers to them; a resolved
BATCH_RECORD goes with the last of its members. -/
def State.releaseDrained (s : State) : State :=
  let s := (sortBy (fun e => e.ord) s.tun.entries).foldl (fun s e =>
    if decide (e.state = .drained) && e.refs == 0 &&
        !(s.tun.entries.any fun x => x.ksp == e.ksp && x.key == e.key && decide (x.kind ≠ .batchRecord ∧ x.ord < e.ord))
      then s.freeEntry e.id else s) s
  let recs := s.tun.entries.filter fun r => decide (r.kind = .batchRecord) && r.resolved
    && !(s.tun.entries.any fun e => e.batch == r.batch && decide (e.kind ≠ .batchRecord))
  recs.foldl (fun s e => s.freeEntry e.id) s

/-- The engine takes up what programs have made possible. -/
def State.mediaProgress (s : State) : State := s.drainProgress.releaseDrained

end Sys2Proof.Machine
end

