-- ==== Sys2Proof/Machine/Rings.lean ====
section
/-!
DEFINITION. The host engine's shared operations: rings (R113 to R149), completion entries (R136), interrupts (R140, R141),
operation contexts (R32), the end of an operation at its ring or session, and messages handed to YWP (R347 to R350).
-/

namespace Sys2Proof.Machine

/-! ### Ring registers -/

/-- The register of the admin ring that has the layout of an I/O ring's (R163). -/
def admReg : RegName → RegName
  | .hqRingCtrl => .hqAdmCtrl
  | .hqRingStat => .hqAdmStat
  | .hqCoal => .hqAdmCoal
  | .hqSqBase => .hqAdmSqBase
  | .hqCqBase => .hqAdmCqBase
  | r => r

/-- The key of a ring's register: ring 64 is the admin ring. -/
def ringKey (x : Fld) (f n : Nat) : RegKey := if n = 64 then ⟨admReg x.reg, f, 0, 0⟩ else ⟨x.reg, f, n, 0⟩

/-- A field of ring `n` of function `f`. -/
def State.rg (s : State) (f n : Nat) (x : Fld) : Nat := bits (s.reg (ringKey x f n)) x.lsb x.w

/-- Write a field of a ring. -/
def State.rp (s : State) (f n : Nat) (x : Fld) (v : Nat) : State :=
  s.setReg (ringKey x f n) (setBits (s.reg (ringKey x f n)) x.lsb x.w v)

/-- N of R114. -/
def State.ringN (s : State) (f n : Nat) : Nat := 2 ^ s.rg f n .hqRingCtrl_sizeLog2

/-- The STATE of a ring (R172): 0 DISABLED, 1 ACTIVE, 2 RESETTING. -/
def State.ringState (s : State) (f n : Nat) : Nat := s.rg f n .hqRingStat_state

/-- I/O rings of a function that are ACTIVE or RESETTING (R165). -/
def State.activeRings (s : State) (f : Nat) : Nat := ((List.range 64).filter fun n => decide (s.ringState f n ≠ 0)).length

/-- What the engine keeps of a ring; a ring never used has the initial record. -/
def State.ring (s : State) (f n : Nat) : Ring := (s.host.rings.find? fun r => r.f == f && r.n == n).getD { f := f, n := n }

/-- Change a ring's record, counting the change (R696). -/
def State.modRing (s : State) (f n : Nat) (g : Ring → Ring) : State :=
  let r := g (s.ring f n)
  let r := { r with changeSeq := r.changeSeq + 1 }
  let rs := if s.host.rings.any (fun x => x.f == f && x.n == n) then updWhere (fun x => x.f == f && x.n == n) (fun _ => r) s.host.rings
    else s.host.rings ++ [r]
  { s with host := { s.host with rings := rs } }

/-- A function exists: the PF, or a VF the owner has enabled (R112). -/
def State.funcExists (s : State) (f : Nat) : Bool := decide (f = 0 ∨ f ≤ s.host.vfs)

/-- What the engine keeps of a function. -/
def State.fn (s : State) (f : Nat) : Func := (s.host.funcs.find? fun x => x.f == f).getD { f := f }

/-- Change a function's record. -/
def State.modFn (s : State) (f : Nat) (g : Func → Func) : State :=
  let r := g (s.fn f)
  let fs := if s.host.funcs.any (fun x => x.f == f) then updWhere (fun x => x.f == f) (fun _ => r) s.host.funcs else s.host.funcs ++ [r]
  { s with host := { s.host with funcs := fs } }

/-! ### Interrupts -/

/-- A vector sends nothing while its own mask bit, the Function Mask or a clear MSI-X Enable holds it back (PRESUMED, log entry 34); at reset
MSI-X Enable is clear and every vector is masked, as the PCIe MSI-X rules have it. -/
def State.vecMasked (s : State) (f v : Nat) : Bool :=
  !(s.fn f).msixOn || (s.fn f).msixMask || match s.host.msix.find? fun x => x.1 == f && x.2.1 == v && x.2.2.1 == 3 with
  | some x => decide (x.2.2.2 % 2 = 1)
  | none => true

/-- Send an MSI-X message, or leave it pending while the vector is masked (R140). -/
def State.sendMsix (s : State) (f v : Nat) : State :=
  if s.vecMasked f v then s.modFn f fun x => { x with msixPba := if x.msixPba.contains v then x.msixPba else x.msixPba ++ [v] }
  else s.emit (.msix f v)

/-! ### Completion entries -/

/-- The 32 bytes of a completion entry (R136). -/
def cqEntry (tag status rlen rstamp origin gen : Nat) (phase : Bool) (sqHead : Nat) : Bytes :=
  packLe 32 [(0, 16, tag), (16, 16, status), (32, 32, rlen), (64, 64, rstamp), (128, 14, origin), (144, 8, gen),
    (152, 1, b2n phase), (160, 16, sqHead)]

/-- Count a completion for interrupt coalescing and send the message that is due (R141). `now` sends at once. -/
def State.coalesce (s : State) (f n : Nat) (now : Bool) : State :=
  if s.rg f n .hqRingCtrl_irqEn = 0 then s
  else
    let c := (s.ring f n).counted + 1
    if now ∨ s.rg f n .hqCoal_timeUs = 0 ∨ s.rg f n .hqCoal_count ≤ c then
      (s.modRing f n fun r => { r with counted := 0 }).sendMsix f n
    else s.modRing f n fun r => { r with counted := c, oldest := if r.counted = 0 then s.clk.cycles else r.oldest }

/-- Post one entry: a single memory write at CQ_TAIL, then CQ_TAIL moves on and PHASE inverts on each wrap (R136, R137). -/
def State.postEntry (s : State) (f n tag status rlen rstamp origin gen : Nat) (now : Bool) : State :=
  let t := s.rg f n .hqRingStat_cqTail
  let e := cqEntry tag status rlen rstamp origin gen (s.ring f n).phase (s.rg f n .hqRingStat_sqHead)
  let s := s.emit (.memWrite (s.rg f n .hqCqBase_addr * 4096 + 32 * t) e false)
  let t' := (t + 1) % s.ringN f n
  let s := s.rp f n .hqRingStat_cqTail t'
  let s := if t' = 0 then s.modRing f n fun r => { r with phase := !r.phase } else s
  s.coalesce f n now

/-! ### Contexts -/

/-- A context by number. -/
def KvSt.ctx? (k : KvSt) (id : Nat) : Option OpCtx := k.ctxs.find? fun c => c.id == id

/-- Change a context. -/
def State.modCtx (s : State) (id : Nat) (g : OpCtx → OpCtx) : State :=
  { s with kv := { s.kv with ctxs := updWhere (fun c => c.id == id) g s.kv.ctxs } }

/-- Contexts of a pool in use (R32). -/
def State.inPool (s : State) (p : Pool) : Nat := (s.kv.ctxs.filter fun c => decide (c.pool = p)).length

/-- The size of a pool (R32). -/
def poolSize : Pool → Nat
  | .host => 65536
  | .target => 49152
  | .town => 16384
  | .admin => 256
  | .queue => 0

/-- Wards whose copy this part, their owner, still sends to the target of a transfer (R404). -/
def State.copiesOut (s : State) : Nat :=
  (s.town.transfers.filter fun t => decide (s.wardOwner t.ward = .self) && !s.town.copied.contains t.ward && !s.town.cuts.any fun c => c.1 == t.ward).length

/-- Town contexts in use (R32): one for each message of another member that is worked on or waits for its epoch, each replica that a change or an
offered entry waits for, each Ward that is being copied or is in its cut, each epoch being published, and each TOWN_CONTROL that runs. The spec does
not say how many each takes (DESIGN CHOICE, log entry 142). -/
def State.townUsed (s : State) : Nat :=
  s.inPool .town + (s.kv.ctxs.map fun c => c.acks.length).sum + s.town.cuts.length + s.town.waiting.length + (s.town.offers.map fun o => o.2.length).sum
    + s.town.publish.length + s.copiesOut + (s.kv.ctxs.filter fun c => decide (c.pool = .admin ∧ c.desc.opc = 0x8B ∧ (c.phase = .admin ∨ c.phase = .noOwner))).length

/-- The Town pool has `n` contexts free (R32). -/
def State.townRoom (s : State) (n : Nat) : Bool := decide (s.townUsed + n ≤ poolSize .town)

/-- Completions posted and not consumed, as known from CQ_HEAD (R127). -/
def State.posted (s : State) (f n : Nat) : Nat :=
  (s.rg f n .hqRingStat_cqTail + s.ringN f n - (s.ring f n).headSeen % s.ringN f n) % s.ringN f n

/-- R127: the completion ring has room for a new command and one further entry. -/
def State.cqRoom (s : State) (f n : Nat) : Bool := decide (s.posted f n + s.rg f n .hqRingStat_outstanding + 2 ≤ s.ringN f n - 1)

/-- An operation came from a host ring. -/
def OpCtx.onRing (c : OpCtx) : Bool := match c.src with | .ring _ _ => true | _ => false

/-- R127: the engine may fetch from a ring. -/
def State.mayFetch (s : State) (f n : Nat) : Bool :=
  s.hostOn && s.funcExists f && decide (s.ringState f n = 1) && decide (s.inPool .host < poolSize .host)
    && decide ((s.kv.ctxs.filter fun c => !c.ponr && c.onRing).length < 36864)
    && decide ((s.kv.ctxs.filter fun c => !c.ponr && decide (c.src = .ring f n)).length < 32) && s.cqRoom f n

/-- The context of a command fetched from a ring, of the ring's generation (R32, R139); `due` says that its value is fetched later (R131). -/
def State.ringCtx (s : State) (f n : Nat) (d : Desc) (x : Fetched) (ph : Phase) (due : Bool := false) : OpCtx :=
  { id := s.kv.nextCtx, pool := if n = 64 then .admin else .host, src := .ring f n, tenant := f, desc := d, fx := x, phase := ph,
    gen := s.rg f n .hqRingStat_gen, since := s.clk.cycles, valueDue := due }

/-- Fetch one command from a ring: SQ_HEAD moves on, the command is outstanding, a context holds it (R127, R139). -/
def State.fetchOne (s : State) (f n : Nat) (d : Desc) (x : Fetched) (ph : Phase) (due : Bool := false) : State :=
  let c := s.ringCtx f n d x ph due
  let s := { s with kv := { s.kv with ctxs := s.kv.ctxs ++ [c], nextCtx := c.id + 1 } }
  let s := s.rp f n .hqRingStat_sqHead ((s.rg f n .hqRingStat_sqHead + 1) % s.ringN f n)
  (s.rp f n .hqRingStat_outstanding (s.rg f n .hqRingStat_outstanding + 1)).modRing f n fun r => r

/-- Release what a context holds: its reader-drain slot and its references to Tun entries (R209, R295). -/
def State.releaseCtx (s : State) (c : OpCtx) : State :=
  let s := match c.epoch with | some e => s.epochLeave e | none => s
  let s := c.refs.foldl (fun s id => s.modEntry id fun e => { e with refs := e.refs - 1 }) s
  { s with kv := { s.kv with ctxs := s.kv.ctxs.filter fun x => x.id != c.id }
           media := { s.media with ops := s.media.ops.filter fun o => decide (o.why ≠ .ctx c.id) } }

/-! ### Messages handed to YWP -/

/-- The next MSG_ID of a direction, skipping 0 (R347). -/
def nextMsgId (n : Nat) : Nat := if (n + 1) % 2 ^ 32 = 0 then 1 else (n + 1) % 2 ^ 32

/-- A session slot. -/
def YwpSt.slot? (y : YwpSt) (n : Nat) : Option Slot := y.slots.find? fun x => x.n == n

/-- Change a session slot. -/
def State.modSlot (s : State) (n : Nat) (g : Slot → Slot) : State :=
  { s with ywp := { s.ywp with slots := updWhere (fun x => x.n == n) g s.ywp.slots } }

/-- Hand a message to a session's transmit side, with the invocations already reserved for it. -/
def State.sendMsg (s : State) (slot : Nat) (h : YHead) (body : Bytes) (ctx : Option Nat) (res : Nat := 0) : State :=
  s.modSlot slot fun x => { x with tx := x.tx ++ [{ msgId := x.nextMsg, head := h, body := body, ctx := ctx, res := res }], nextMsg := nextMsgId x.nextMsg }

/-- Body length of a message, as its operation block gives it (R349, R350); of a Town message the model's commands carry the body with the block, so
nothing waits for its bytes. -/
def bodyLen : YHead → Nat
  | .request d _ _ _ _ _ _ => if usesValue d.opc then d.vlen else 0
  | .reply _ _ _ dlen _ _ _ _ => dlen
  | .town _ => 0
  | .mgmt _ _ n => n
  | .unknown => 0

/-- Every byte of a message's body has arrived. -/
def RxMsg.complete (m : RxMsg) : Bool := m.head.any fun h => decide (bodyLen h ≤ m.got)

/-- The lowest MSG_ID that has not ended moves past those that have (R347). -/
def advanceRx : Nat → Slot → Slot
  | 0, x => x
  | k + 1, x => if x.rx.any (fun m => m.msgId == x.rxOpenFrom && m.ended) then advanceRx k { x with rxOpenFrom := nextMsgId x.rxOpenFrom } else x

/-- A received message ends: what is held of it goes; an ended message that is still arriving is remembered, so that its
remaining segments are discarded (R351). -/
def endRx (msgId : Nat) (x : Slot) : Slot :=
  let held := ((x.rx.filter fun m => m.msgId == msgId).map fun m => (m.segs.map fun p => p.2.length).sum).sum
  let x := { x with rx := updWhere (fun m => m.msgId == msgId) (fun m => { m with segs := [], ended := true }) x.rx, rxQueue := x.rxQueue - held }
  let x := advanceRx x.rx.length x
  { x with rx := x.rx.filter fun m => !(m.ended && m.complete && decide ((x.rxOpenFrom + 2 ^ 32 - m.msgId) % 2 ^ 32 < 2 ^ 31)) }

/-- The OPEN session to a member that may carry Town messages: one bound to tenant 0 (R329). -/
def State.slotTo (s : State) (member : Nat) : Option Slot :=
  s.ywp.slots.find? fun x => decide (x.state = .opened) && x.member && x.identity % 16384 == member && x.tenant == 0

/-- The OPEN session to a member that is bound to a tenant: it carries that tenant's requests (R29, R388). -/
def State.slotFor (s : State) (member tenant : Nat) : Option Slot :=
  s.ywp.slots.find? fun x => decide (x.state = .opened) && x.member && x.identity % 16384 == member && x.tenant == tenant

/-- Send a Town message to a member (R412): it is handed to the session to that member, when one is OPEN. -/
def State.sendTown (s : State) (member : Nat) (m : TMsg) : State :=
  let m := { m with sender := s.handle, term := if m.term = 0 then s.town.term else m.term, epoch := if m.epoch = 0 then s.town.epoch else m.epoch }
  let s := s.emit (.town member m)
  match s.slotTo member with
  | some x => s.sendMsg x.n (.town m) (townBody m.body) none
  | none => s

/-- The opcodes whose requests leave a record (R353). -/
def leavesRecord (d : Desc) (x : Fetched) : Bool :=
  isMut d.opc || decide (0x0C ≤ d.opc ∧ d.opc ≤ 0x0F) || (d.opc == opBatch && (batchElems d x.value).any fun e => isMut e.d.opc)

/-! ### The end of an operation -/

/-- The image of result bytes 0 to n - 1 that pieces (offset, bytes) make (R350). -/
def imageOf (n : Nat) (ps : List (Nat × Bytes)) : Bytes := (ps.foldl (fun acc p => overlay acc p.1 p.2) []).take n

/-- The buffer of the result bytes at an offset was found uncorrectable: they are sent poisoned (R776). The records of a BATCH are no read
data. -/
def OpCtx.poisoned (c : OpCtx) (off : Nat) : Bool := c.poison.contains off && !(c.desc.opc == opBatch && off == 0)

/-- Place result bytes in host memory (R131), poisoned ones with an event (R776); nothing is placed after an FLR (R150). -/
def State.placeResult (s : State) (c : OpCtx) (ps : List (Nat × Bytes)) : State :=
  if c.orphan then s
  else
    let s := ps.foldl (fun s p => (scatterAt p.1 (resultSgl c.desc c.fx) p.2).foldl (fun s w => s.emit (.memWrite w.1 w.2 (c.poisoned p.1))) s) s
    if ps.any (fun p => c.poisoned p.1) then s.report .resultPoisoned c.id else s

/-- A command whose result bytes were sent poisoned completes with INTERNAL_FAULT; a BATCH reports it of the element (R776). -/
def OpCtx.told (c : OpCtx) (r : Res) (ps : List (Nat × Bytes)) : Res :=
  if c.desc.opc ≠ opBatch ∧ ps.any (fun p => c.poisoned p.1) then { status := stInternalFault } else r

/-- A completion at a ring: the entry carries the generation the command was fetched under, OUTSTANDING falls, and during a
reset the marker's counts grow (R139, R144, R145). -/
def State.completeRing (s : State) (c : OpCtx) (f n : Nat) (r : Res) : State :=
  if c.orphan then s
  else
    let s := s.postEntry f n c.desc.tag r.status r.rlen r.rstamp r.origin c.gen false
    let s := s.rp f n .hqRingStat_outstanding (s.rg f n .hqRingStat_outstanding - 1)
    if s.ringState f n = 2 then
      s.modRing f n fun x => if r.status = stAborted then { x with aborted := x.aborted + 1 } else { x with doneAfter := x.doneAfter + 1 }
    else s

/-- A reply to a YWP request (R350), with its record (R353) and every request that waits for the same record answered. A request that is
answered MOVED has not run and leaves no record: it comes again (R388). -/
def State.replyTo (s : State) (c : OpCtx) (slot msgId : Nat) (r : Res) (ps : List (Nat × Bytes)) : State :=
  let rbuf := sglLen (resultSgl c.desc c.fx)
  let body := imageOf (min rbuf ((ps.map fun p => p.1 + p.2.length).foldl max 0)) ps
  let h := YHead.reply c.desc.opc r.status r.rlen body.length r.rstamp r.origin msgId c.reqNo
  let res := ((s.ywp.slot? slot).bind fun x => x.rx.find? fun m => m.msgId == msgId).map (fun m => m.res) |>.getD 0
  let s := if (s.ywp.slot? slot).any (fun x => decide (x.state = .opened)) && !c.orphan then s.sendMsg slot h body none res else s
  let s := s.modSlot slot (endRx msgId)
  let rec_ : ReqRecord :=
    { identity := c.identity, tenant := c.tenant, reqNo := c.reqNo, stamp := r.rstamp, status := r.status, rlen := if c.desc.opc = opBatch then batchCount c.fx.value * 16 else r.rlen,
      origin := r.origin, body := if c.desc.opc = opBatch then body.take (batchCount c.fx.value * 16) else [], made := s.clk.cycles }
  if c.reqNo ≠ 0 ∧ leavesRecord c.desc c.fx then
    let wait := s.ywp.running.filter fun w => w.2.2.1 == c.identity && w.2.2.2 == c.reqNo
    let s := { s with ywp := { s.ywp with records := if r.status = stMoved then s.ywp.records else s.ywp.records ++ [rec_], running := s.ywp.running.filter fun w => !(w.2.2.1 == c.identity && w.2.2.2 == c.reqNo) } }
    wait.foldl (fun s w => (s.modSlot w.1 (endRx w.2.1)).sendMsg w.1 (.reply c.desc.opc rec_.status rec_.rlen rec_.body.length rec_.stamp rec_.origin w.2.1 c.reqNo) rec_.body none) s
  else s

/-- Two operations come from one ring, or from one session (R94, R352). -/
def sameSrc : Src → Src → Bool
  | .ring f n, .ring g m => f == g && n == m
  | .sess a _, .sess b _ => a == b
  | _, _ => false

/-- A BARRIER completes when no earlier operation of its ring or session is left (R94); its completions can free others. -/
def State.barriersDone (s : State) : List OpCtx :=
  s.kv.ctxs.filter fun b => decide (b.phase = .barrier) && !(s.kv.ctxs.any fun c => sameSrc c.src b.src && decide (c.id < b.id))

/-- Post the end of an operation where it came from. -/
def State.finishAt (s : State) (c : OpCtx) (r : Res) (ps : List (Nat × Bytes)) : State :=
  match c.src with
  | .ring f n => ((s.placeResult c ps).releaseCtx c).completeRing c f n (c.told r ps)
  | .sess slot m => (s.releaseCtx c).replyTo c slot m r ps
  | .town m => (s.releaseCtx c).sendTown m { tmsg := 0x0B, ward := c.dest, stamp := r.rstamp, arg0 := c.handle, arg1 := c.readT, status := r.status }

/-- An operation ends: its result is placed, its completion posted or its reply sent, and any BARRIER it held up
completes. A ring's BARRIERs follow one another, so as many rounds run as contexts wait. -/
def State.finish (s : State) (c : OpCtx) (r : Res) (ps : List (Nat × Bytes)) : State :=
  let s := s.finishAt c r ps
  (List.range s.kv.ctxs.length).foldl (fun s _ => s.barriersDone.foldl (fun s b => s.finishAt b {} []) s) s

/-- An operation ends with a status alone: result length 0, stamp 0 (R56). -/
def State.fail (s : State) (c : OpCtx) (st : Nat) : State :=
  (if st = stInternalFault then s.report .internalFault c.id else s).finish c { status := st } []

/-- A power state entry ends without its state (R160): the part is Active, and SET_POWER_STATE completes with POWER_STATE_BUSY. -/
def State.abandonEntry (s : State) : State :=
  match s.power.entry with
  | none => s
  | some (t, _, id) =>
    let nap := decide (t = 2 ∨ s.power.pstate = 2)
    let s : State := { s with power := { s.power with entry := none, pstate := 0 } }
    let s := if nap then s.portsActive else s
    match s.kv.ctx? id with
    | some c => s.finish c { status := stPowerBusy } []
    | none => s

/-- A ring set to ENABLE, STAGE_OPEN and SNAPSHOT_OPEN end an entry to Slumber at once (R160). -/
def State.breakSlumber (s : State) : State := if s.power.entry.any (fun e => e.1 == 3) then s.abandonEntry else s

end Sys2Proof.Machine
end

