-- ==== Sys2Proof/Machine/KvOps.lean ====
section
/-!
DEFINITION. The KV engine (R39 to R110): admission of an operation, the order of dispatch, reads, single-key mutations,
batches, staged values, scans and snapshots, and the waits that end them.
-/

namespace Sys2Proof.Machine

/-! ### What an operation names -/

/-- The staged value a handle names (R82). -/
def KvSt.staged? (k : KvSt) (h : Nat) : Option Staged := k.staged.find? fun v => v.handle == h

/-- A staged value that a tenant has opened at another owner. -/
def KvSt.away? (k : KvSt) (tenant h : Nat) : Option AwayStage := k.away.find? fun v => v.handle == h && v.tenant == tenant

/-- The keyspace an operation acts in: of the descriptor, or of its staged value. -/
def State.kspOf (s : State) (d : Desc) : Nat :=
  if d.opc = opStageData ∨ d.opc = opStagePublish ∨ d.opc = opStageDiscard then
    (((s.kv.staged? (handleOf d)).map fun v => v.ksp).orElse fun _ => (s.kv.away.find? fun v => v.handle == handleOf d).map fun v => v.ksp).getD d.ksp
  else d.ksp

/-- The keys an operation orders by (R21, R94): its key, its mutated batch keys, or its staged value's key. -/
def State.keysOf (s : State) (c : OpCtx) : List Bytes :=
  let d := c.desc
  if hasKey d.opc then [keyOf d c.fx]
  else if d.opc = opBatch then (batchElems d c.fx.value).map fun e => e.key
  else if d.opc = opStagePublish then
    (((s.kv.staged? (handleOf d)).map fun v => [v.key]).orElse fun _ => (s.kv.away? c.tenant (handleOf d)).map fun v => [v.key]).getD []
  else []

/-- Whether an operation changes keys. -/
def changesKeys (o : Nat) : Bool := isMut o || o == opBatch || o == opStagePublish

/-- The keyspace checks of R41, in the order of R105: unknown, another tenant's, an empty key slot. -/
def State.kspCheck (s : State) (ksp tenant : Nat) (slotLoaded : Nat → Nat → Bool) : Option Nat :=
  match s.ksp? ksp with
  | none => some stKspUnknown
  | some k =>
    firstStatus [(k.reclaiming, stKspUnknown), (decide (k.tenant ≠ tenant), stAccessDenied), (!slotLoaded k.tenant k.slot, stSlotEmpty)]

/-- The keyspace checks of an operation that names a handle (R105, R107): ACCESS_DENIED is none of its statuses, so a keyspace number that another
tenant holds by now is unknown to it. -/
def State.stageCheck (s : State) (ksp tenant : Nat) (slotLoaded : Nat → Nat → Bool) : Option Nat :=
  (s.kspCheck ksp tenant slotLoaded).map fun st => if st = stAccessDenied then stKspUnknown else st

/-- Whether a key slot holds a key (R41): LOADED of CIP_KP_SLOT_STAT. -/
def State.slotLoaded (s : State) (tenant slot : Nat) : Bool := s.flag .cipKpSlotStat_loaded tenant slot

/-- The Wards of an operation's keys. -/
def State.wardsOf (s : State) (c : OpCtx) : List Nat :=
  ((s.keysOf c).map fun k => wardOf (s.digest (s.kspOf c.desc) k)).eraseDups

/-! ### Admission: what is judged before dispatch (R105, items 1 to 4) -/

/-- A read of a host goes to another owner, whose clock judges its SNAP (R84). -/
def State.readAway (s : State) (c : OpCtx) : Bool :=
  (match c.src with | .ring _ _ => true | _ => false) && isRead c.desc.opc && (s.kspCheck c.desc.ksp c.tenant s.slotLoaded).isNone &&
    (s.wardsOf c).any fun w => match s.wardOwner w with | .remote _ => true | _ => false

/-- SNAP lies more than 1 ms ahead of the clock of the member that serves the operation (R84). -/
def State.snapAhead (s : State) (c : OpCtx) : Bool :=
  (isRead c.desc.opc || c.desc.opc == opScan) && decide (c.desc.snap ≠ 0 ∧ s.nowUs + 1000 < c.desc.snap / 4096) && !s.readAway c

/-- The status of an operation that its descriptor alone refuses, in the order of R105. A fetch that failed replaces the
statuses that are judged after the fetch (R134); a batch list that was fetched is judged item by item among them (R72). -/
def State.refused (s : State) (c : OpCtx) : Option Nat :=
  let d := c.desc
  let v := valueSgl d c.fx
  let r := resultSgl d c.fx
  let sess := match c.src with | .sess _ _ => true | _ => false
  let uv := usesValue d.opc && !sess
  let ur := usesResult d.opc && !sess
  let list := if d.opc = opBatch ∧ c.fx.fault = false then batchRefused d (c.fx.value.take d.vlen) (sglLen r) else none
  firstStatus
    [(!isData d.opc || list == some stOpcodeInvalid, stOpcodeInvalid),
     (!(d.opc == opBatch) && fieldBad false d || (d.opc == opBatch && fieldBad false { d with vlen := 0 }), stFieldInvalid),
     (s.snapAhead c, stFieldInvalid),
     (cursorBad d c.fx, stFieldInvalid),
     ((uv && decide (d.vsglCnt ≤ 4096) && sglRsv v) || (ur && decide (d.rsglCnt ≤ 4096) && sglRsv r), stFieldInvalid),
     (d.opc == opBatch && (decide (d.vlen < 80) || list == some stFieldInvalid), stFieldInvalid),
     (d.opc == opBatch && (decide (33554432 < d.vlen) || list == some stBatchTooLarge), stBatchTooLarge),
     (lengthBad d || list == some stLengthLimit, stLengthLimit),
     (c.fx.fault, stInternalFault),
     ((uv && (sglBad d.vsglCnt d.vsglPtr d.vsglInl v || decide (sglLen v < d.vlen)))
        || (ur && sglBad d.rsglCnt d.rsglPtr d.rsglInl r) || (d.opc == opGetMeta && decide (sglLen r < 32)) || list == some stSglInvalid, stSglInvalid)]

/-! ### The order of dispatch (R21, R34, R94, R206) -/

/-- The keys of an operation are not known yet: they are still being fetched (R130, R70). -/
def OpCtx.keysAhead (e : OpCtx) : Bool := decide (e.phase = .fetching) && ((hasKey e.desc.opc && decide (40 < e.desc.klen) && e.fx.key.isEmpty) || e.desc.opc == opBatch)

/-- An earlier operation keeps `c` from dispatch: an unfinished BARRIER of its ring or session, an operation on one of its keys that has not
been dispatched, or that waits to be sent again to a new owner (R95), or one of its ring whose keys are still being fetched (R94). Of two rings
or sessions only operations of which one changes keys wait for each other (R93). Operations on other keys never wait, of the same pipeline either (DESIGN CHOICE, log entry 134). -/
def State.behind (s : State) (c : OpCtx) : Bool :=
  s.kv.ctxs.any fun e => decide (e.id < c.id) &&
    ((sameSrc e.src c.src && e.desc.opc == opBarrier)
      || (sameSrc e.src c.src && e.keysAhead && s.kspOf e.desc == s.kspOf c.desc
          && !(s.keysOf c).isEmpty)
      || ((!e.ponr || decide (e.phase = .noOwner)) && e.desc.opc != opBarrier && (sameSrc e.src c.src || changesKeys e.desc.opc || changesKeys c.desc.opc)
          && s.kspOf e.desc == s.kspOf c.desc && (s.keysOf e).any fun k => (s.keysOf c).contains k))

/-- An entry of one of the keys is still FILLING (R206). -/
def State.fillingOn (s : State) (ksp : Nat) (ks : List Bytes) : Bool :=
  s.tun.entries.any fun e => decide (e.state = .filling) && e.ksp == ksp && ks.contains e.key

/-- A mutation of a key with a stamp of at most `t` is still FILLING (R84, R206). -/
def State.fillingTo (s : State) (ksp : Nat) (key : Bytes) (t : Nat) : Bool :=
  s.tun.entries.any fun e => decide (e.state = .filling ∧ e.stamp ≤ t) && e.ksp == ksp && e.key == key

/-! ### Flash reads that an operation needs -/

/-- The bytes at an address have been lost for an operation: its own read ended at step 5, or an earlier one did (R62). -/
def lostAt (m : MediaSt) (c : OpCtx) (a : Nat) : Bool := c.lost.contains a || (m.item? a).any fun i => i.lost

/-- What a version still needs from flash: its leaf, records that were not read and are not cached, and, where value bytes
are wanted, its extents. -/
def State.missing (s : State) (c : OpCtx) (v : Ver) (exts : List Nat) : List (Nat × NandFor) :=
  let seen := fun (a : Nat) => c.got.contains a || lostAt s.media c a || s.index.small.contains a
  let leaf := match v.leaf with
    | some l => if l.cached ∨ l.addr = 0 ∨ c.got.contains l.addr then [] else [(l.addr, NandFor.ctx c.id)]
    | none => []
  if !leaf.isEmpty then leaf
  else ((v.recs ++ exts).filter fun a => !seen a && decide (a ≠ 0)).eraseDups.map fun a => (a, NandFor.ctx c.id)

/-- Wait for flash reads, of every codeword of each item (R250, R263, R295). -/
def State.waitReads (s : State) (c : OpCtx) (need : List (Nat × NandFor)) : State :=
  let s := if c.epoch.isNone then s.epochEnter else s
  let s := s.modCtx c.id fun c => { c with phase := .reading, need := need.map fun n => n.1, epoch := some (c.epoch.getD s.media.epoch) }
  need.foldl (fun s n => s.queueRead n.1 n.2 0) s

/-- What the byte ranges `rs` (offset, length) leave uncovered of the bytes [lo, hi), as (start, end) pairs. -/
def uncovered (rs : List (Nat × Nat)) (lo hi : Nat) : List (Nat × Nat) :=
  rs.foldl (fun gaps r => gaps.flatMap fun g => [(g.1, min g.2 r.1), (max g.1 (r.1 + r.2), g.2)].filter fun x => decide (x.1 < x.2))
    (if lo < hi then [(lo, hi)] else [])

/-- Extents of a value of which bytes [off, off + n) need something that no patch in the Tun supplies (R62). -/
def extsFor (v : Ver) (off n : Nat) : List Nat :=
  (v.exts.filter fun e => !(uncovered v.ranges (max (e.1 * 1048576) off) (min (e.1 * 1048576 + 1048576) (off + n))).isEmpty).map fun e => e.2

/-- The leaf that a read of a version has obtained: from the cache, or from flash (R187). -/
def OpCtx.leafGot (c : OpCtx) (v : Ver) : Option Leaf := v.leaf.filter fun l => l.cached || l.addr == 0 || c.got.contains l.addr

/-- A context that has taken up a version holds references to its Tun entries (R207, R209), and the leaf it obtained (R187). -/
def OpCtx.using (c : OpCtx) (v : Ver) : OpCtx := { c with refs := v.refs, leaves := (c.leafGot v).toList }

/-- The same of an operation on several keys. -/
def OpCtx.usingAll (c : OpCtx) (vs : List Ver) : OpCtx :=
  { c with refs := (vs.flatMap fun v => v.refs).eraseDups, leaves := (vs.filterMap c.leafGot).eraseDups }

/-- The leaf that an operation holds for a digest (R187). -/
def OpCtx.heldLeaf (c : OpCtx) (d : Nat) : Option Leaf := c.leaves.find? fun l => l.covers d

/-- A context refers to the Tun entries `ids` in place of those it referred to (R209). -/
def State.takeRefs (s : State) (c : OpCtx) (ids : List Nat) : State :=
  let s := c.refs.foldl (fun s id => s.modEntry id fun e => { e with refs := e.refs - 1 }) s
  let s := ids.foldl (fun s id => s.modEntry id fun e => { e with refs := e.refs + 1 }) s
  s.modCtx c.id fun c => { c with refs := ids }

/-- A lookup has been made: its false hits and matches are counted, its leaf has been used, and small records it read are cached (R185, R188,
R196, R223). -/
def State.countRead (s : State) (v : Ver) : State :=
  let s := if v.falseHits = 0 then s else s.fadd .kveIdxStat_falseHits v.falseHits
  let s := if v.adFalse = 0 then s else s.fadd .adErr_falseHits v.adFalse
  let s := s.fmax .adStat_chainPeak v.chain
  let s := match v.leaf with | some l => s.modLeaf l.ward l.pfx l.ldepth fun l => { l with used := s.clk.cycles } | none => s
  let small := v.recs.filter fun a => (s.media.item? a).any (fun i => decide (i.vlen ≤ 64) && !i.lost) && !s.index.small.contains a
  { s with index := { s.index with small := s.index.small ++ small } }

/-- Hold what a read has taken up while it waits (R187, R209). -/
def State.holdVer (s : State) (c : OpCtx) (v : Ver) : State := (s.takeRefs c v.refs).modCtx c.id fun c => c.using v

/-- The same of an operation on several keys. -/
def State.holdVers (s : State) (c : OpCtx) (vs : List Ver) : State :=
  (s.takeRefs c (vs.flatMap fun v => v.refs).eraseDups).modCtx c.id fun c => c.usingAll vs

/-- Take up a version: count the lookup, refer to its Tun entries (R185, R188, R207). -/
def State.useVer (s : State) (c : OpCtx) (v : Ver) : State := (s.countRead v).holdVer c v

/-- Transient leaf buffers of a pipeline in use (R189). -/
def State.buffersUsed (s : State) (pipe : Nat) : Nat := (s.kv.ctxs.filter fun c => c.buffers.contains pipe).length

/-! ### Reads (R57 to R62) -/

/-- The 32-byte metadata record (R60). -/
def State.metaRecord (s : State) (ksp : Nat) (d : Nat) (v : Ver) : Bytes :=
  packLe 32 [(0, 32, v.vlen), (32, 1, b2n v.inTun), (33, 1, b2n v.staged), (64, 64, v.stamp), (128, 14, v.origin),
    (144, 8, ((s.ksp? ksp).map fun k => k.rf).getD 0), (160, 20, wardOf d), (192, 64, if s.isMember then s.town.epoch else 0)]

/-- The result of a read of version `v` with room for `cap` bytes (R54, R57 to R60, R45). -/
def State.readRes (s : State) (d : Desc) (dig : Nat) (v : Ver) (cap : Nat) : Res × Bytes :=
  if !v.present then ({ status := stNotFound, rstamp := v.stamp, origin := v.origin }, [])
  else
    let ok := fun (len want : Nat) => ({ status := if cap < want then stTruncated else stOk, rlen := len, rstamp := v.stamp, origin := v.origin } : Res)
    if d.opc = opGet then (ok v.vlen v.vlen, v.data.take cap)
    else if d.opc = opGetRange then
      if v.vlen < d.offset then ({ status := stLengthLimit }, [])
      else let n := min d.vlen (v.vlen - d.offset); (ok n n, (slice v.data d.offset n).take cap)
    else if d.opc = opGetMeta then (ok v.vlen 0, s.metaRecord d.ksp dig v)
    else (ok v.vlen 0, [])

/-- Whether a read needs value bytes, and which (R62). -/
def wantBytes (d : Desc) (v : Ver) : Nat × Nat :=
  if d.opc = opGet then (0, v.vlen) else if d.opc = opGetRange then (d.offset, min d.vlen (v.vlen - d.offset)) else (0, 0)

/-- The replicas that hold a Ward's data at a replication factor (R62). -/
def State.replicaOf (s : State) (dig ksp : Nat) : Bool := !(s.receivers (wardOf dig) (((s.ksp? ksp).map fun k => k.rf).getD 1)).isEmpty

/-- A read waits for flash, holding what it has (R209). Where a leaf finds no clean slot of the cache, it takes one of the 64 transient
buffers of that leaf's pipeline, or waits for one (R189); an operation on several keys takes one of each pipeline (DESIGN CHOICE, log entry 158). -/
def State.readWait (s : State) (c : OpCtx) (vs : List Ver) (need : List (Nat × NandFor)) : State :=
  let unread := vs.filterMap fun v => if (c.leafGot v).isNone then v.leaf else none
  let pipes := if s.index.cacheRoom then [] else ((unread.map fun l => pipeOf l.lo).filter fun p => !c.buffers.contains p).eraseDups
  if pipes.any fun p => decide (64 ≤ s.buffersUsed p) then s.modCtx c.id fun c => { c with phase := .buffer }
  else ((s.holdVers c vs).modCtx c.id fun c => { c with buffers := c.buffers ++ pipes }).waitReads (c.usingAll vs) need

/-- Whether the bytes that an operation finds lost here stay lost when it has asked every replica (R62): with no replica they do; whether one
of those asked holds them is free (log entry 26). -/
def State.askReplica (s : State) (dig ksp : Nat) : Bool × State :=
  if s.replicaOf dig ksp then (decide (s.fresh.1 % 2 = 0), s.fresh.2) else (true, s)

/-- A dispatched read goes on: wait for a batch, for flash, for a replica, or end (R61, R62, R207). Whether the replica that is asked can give
the lost bytes is free (log entry 26). -/
def State.readStep (s : State) (c : OpCtx) : State :=
  let d := c.desc
  let key := keyOf d c.fx
  let dig := s.digest d.ksp key
  let v := s.readVer d.ksp key c.readT (c.heldLeaf dig)
  if s.intentOn d.ksp key ∨ s.fillingTo d.ksp key c.readT then
    (s.countRead { adFalse := v.adFalse, chain := v.chain }).modCtx c.id fun c => { c with phase := .intent }
  else
    let (off, n) := wantBytes d v
    let exts := extsFor v off n
    let need := s.missing c v exts
    if v.bad ∨ v.leaf.any (fun l => l.rebuild) then (s.useVer c v).fail (c.using v) stInternalFault
    else if !need.isEmpty then s.readWait c [v] need
    else if v.unacked then (s.holdVer c v).modCtx c.id fun c => { c with phase := .readAck }
    else if (v.recs ++ exts).any (fun a => lostAt s.media c a) then
      if s.replicaOf dig d.ksp ∧ c.phase ≠ .replica then (s.holdVer c v).modCtx c.id fun c => { c with phase := .replica }
      else
        let (gone, t) := s.askReplica dig d.ksp
        if gone then (t.useVer c v).fail (c.using v) stDataLost
        else
          let (r, b) := s.readRes d dig v (sglLen (resultSgl d c.fx))
          (t.useVer c v).finish (c.using v) r [(0, b)]
    else
      let (r, b) := s.readRes d dig v (sglLen (resultSgl d c.fx))
      (s.useVer c v).finish (c.using v) r [(0, b)]

/-! ### Forwarding (R31, R95, R388) -/

/-- Packets of a request (R348): one head segment and the rest of its body. -/
def segCount (p klen body : Nat) : Nat := 1 + (body - (p - 64 - klen) + p - 1) / p

/-- P of a session (R321). -/
def slotP (x : Slot) : Nat := if x.jumbo then 8960 else 1344

/-- The invocations a message of `n` packets reserves (R335). -/
def State.reserveFor (s : State) (n : Nat) : Nat := n * (1 + s.fget .ywpTimerCtrl_maxRetx)

/-- Invocations a direction has reserved (R335): for messages being sent, and for the replies of requests it runs. -/
def reservedOf (x : Slot) : Nat := (x.tx.map fun m => m.res).sum + (x.rx.map fun m => m.res).sum

/-- R335: a message that may not start. -/
def State.cipherFull (s : State) (x : Slot) (n : Nat) : Bool := decide (4294901760 < x.invoc + reservedOf x + s.reserveFor n)

/-- REQ_FLOOR (R349): the least REQ_NO the part has not seen resolved. -/
def State.reqFloor (s : State) (id rq : Nat) : Nat :=
  minOf s.ywp.reqNo ((if rq = 0 then [] else [rq]) ++ (s.kv.ctxs.filter fun c => c.id != id && decide (c.reqNo ≠ 0) && c.onRing).map fun c => c.reqNo)

/-- Bytes in the area of DRAM that session receive queues and forwarding buffers share (R36): received messages, request records (R353), and
the values of forwarded operations. -/
def State.areaUsed (s : State) : Nat :=
  (s.ywp.slots.map fun x => x.rxQueue).sum + (s.ywp.records.map fun r => 64 + r.body.length).sum
    + ((s.kv.ctxs.filter fun c => c.onRing && decide (c.phase = .forwarded)).map fun c => c.fx.value.length).sum

/-- The size of that area: 512 MiB (R36). -/
def areaBytes : Nat := 512 * 2 ^ 20

/-- An initiator sends a request of an operation to an owner over the OPEN session of its tenant to it, or waits for one (R31, R388), or for
room in the forwarding buffers (R36). -/
def State.forwardAs (s : State) (c : OpCtx) (member : Nat) (d : Desc) (key body : Bytes) (rbuf : Nat) : State :=
  match s.slotFor member c.tenant with
  | none =>
    s.modCtx c.id fun e => { e with phase := .noOwner, since := if e.phase = .noOwner ∧ e.dest = member then e.since else s.clk.cycles, dest := member }
  | some x =>
    if decide (0x0C ≤ d.opc ∧ d.opc ≤ 0x0F) && (decide (s.town.level ≤ 1) || x.ver == 1) then s.fail c stVersion
    else if x.ver = 1 ∧ (d.opc = opSnapOpen ∨ d.opc = opSnapClose) then s.fail c stVersion
    else if areaBytes < s.areaUsed + body.length then s.modCtx c.id fun e => { e with phase := if e.phase = .noOwner then .noOwner else .held }
    else if s.cipherFull x (segCount (slotP x) d.klen body.length) then
      (s.fadd .ywpKeyStat_cipherLimits 1).fail c stCipherLimit
    else
      let rq := if !leavesRecord d c.fx then 0 else if c.reqNo ≠ 0 then c.reqNo else s.ywp.reqNo
      let s := if rq = s.ywp.reqNo then { s with ywp := { s.ywp with reqNo := rq + 1 } } else s
      let h := YHead.request d key rbuf rq s.town.epoch (s.reqFloor c.id rq) false
      let s := s.sendMsg x.n h body (some c.id) (s.reserveFor (segCount (slotP x) d.klen body.length))
      s.modCtx c.id fun c => { c with phase := .forwarded, ponr := true, dest := member, since := s.clk.cycles, reqNo := rq }

/-- An initiator sends an operation to its owner as it stands. -/
def State.forward (s : State) (c : OpCtx) (member : Nat) : State :=
  let d := c.desc
  s.forwardAs c member d (keyOf d c.fx) (if usesValue d.opc then c.fx.value.take d.vlen else []) (sglLen (resultSgl d c.fx))

/-- What the owner of an operation's Ward has to say before it is dispatched. -/
inductive Route where
  | here | away (member : Nat) | answer (st : Nat) | wait
  deriving DecidableEq, Repr

/-- The owner of a Ward that this part owns is this part, whether it may dispatch on it now or not. -/
def Owner.who : Owner → Owner
  | .hold => .self
  | o => o

/-- Route an operation on the given Wards (R24, R30, R387, R388): a request that arrived over YWP is never forwarded. -/
def State.route (s : State) (c : OpCtx) (wards : List Nat) (rf : Nat) : Route :=
  let os := wards.map s.wardOwner
  let sess := match c.src with | .sess _ _ => true | _ => false
  match os with
  | [] => .here
  | o :: rest =>
    if rest.any (fun x => x.who ≠ o.who) then .answer stBatchSplit
    else if os.contains .hold then .wait
    else match o with
      | .self => if wards.any (fun w => s.orphaned w rf) then .answer stPeerUnreachable else .here
      | .hold => .wait
      | .nobody => .answer (if sess then (if s.isMember then stMoved else stPeerUnreachable) else stPeerUnreachable)
      | .remote m => if sess then .answer stMoved else .away m

/-! ### Mutations (R63 to R68, R203) -/

/-- Whether a condition holds for a version (R64). -/
def condHolds (m cond : Nat) (v : Ver) : Bool :=
  if m = 0 then v.present && v.stamp == cond
  else if m = 1 then !v.present
  else if m = 2 then v.present
  else !v.present || decide (v.stamp ≤ cond)

/-- The Tun entry a mutation makes of the current version: kind, OFFSET and VLEN (R203). -/
def mutEntry (d : Desc) (v : Ver) : TunKind × Nat × Nat :=
  if d.opc = opPatch then (.patch, d.offset, max v.vlen (d.offset + d.vlen))
  else if d.opc = opAppend ∧ v.present then (.patch, v.vlen, v.vlen + d.vlen)
  else if d.opc = opDelete ∨ d.opc = opDeleteIf then (.tombstone, 0, 0)
  else (.put, 0, d.vlen)

/-- The length status of a mutation on the current version (R65 to R67, R105 item 3). -/
def mutLength (d : Desc) (v : Ver) : Bool :=
  (d.opc == opPatch && v.present && (decide (v.vlen < d.offset) || decide (4294967295 < d.offset + d.vlen)))
    || (d.opc == opAppend && v.present && decide (4294967295 < v.vlen + d.vlen))

/-- The condition status of a mutation on the current version (R64, R65, R68, R105 item 15). -/
def mutCond (d : Desc) (v : Ver) : Option Nat :=
  firstStatus
    [((d.opc == opPutIf || d.opc == opDeleteIf) && !condHolds (cmode d.flg) d.cond v, stCondFalse),
     ((d.opc == opPatch || d.opc == opDelete || d.opc == opDeleteIf) && !v.present, stNotFound)]

/-- The opcodes that need the current version at dispatch. -/
def needsCur (o : Nat) : Bool := o == opPutIf || o == opPatch || o == opAppend || o == opDelete || o == opDeleteIf

/-- DELETE and DELETE_IF take their space from the delete reserve (R99). -/
def addsData (o : Nat) : Bool := isMut o && !(o == opDelete || o == opDeleteIf)

/-- The description of the current version that CONDITION_FALSE and NOT_FOUND carry (R55). -/
def resOfVer (st : Nat) (v : Ver) : Res := { status := st, rlen := if v.present then v.vlen else 0, rstamp := v.stamp, origin := v.origin }

/-- Write a Tun entry in state LIVE with its AD row (R204); `filling` leaves it FILLING without one (R775). An entry of
space state 2 or 3 is marked, since in state 3 it may open no set for its drain (R303). -/
def State.addEntry (s : State) (e : TunEntry) (filling : Bool) : Option (Nat × State) :=
  (s.tunFit (entryUnits e)).map fun id =>
    let e := { e with id := id, state := if filling then .filling else .live, late := decide (2 ≤ s.media.spaceState) }
    let s := { s with tun := { s.tun with entries := s.tun.entries ++ [e] } }
    (id, if filling ∨ e.kind = .batchRecord then s else s.addRow e.digest false id e.ksp)

/-- REPLICATE to the receivers of a change (R390); a PUBLISH entry's extents travel with it. -/
def State.replicate (s : State) (ward stamp : Nat) (ms : List Nat) (es : List TunEntry) (rec_ : Option ReqRecord) : State :=
  let es := es.map fun e => if e.kind = .publish then { e with data := s.media.extentBytes e.extents e.vlen } else e
  ms.foldl (fun s m => s.sendTown m { tmsg := 0x0A, ward := ward, stamp := stamp, count := es.length, body := .repl es rec_ }) s

/-- Steps 3 and 4 of R22 are open: wait for replicas and for the clock, or end when both are done. -/
def State.commitStep (s : State) (c : OpCtx) : State :=
  if !c.acks.isEmpty ∨ !s.passed c.stamp then s.modCtx c.id fun c => { c with phase := .commit, clock := !s.passed c.stamp }
  else s.finish c c.res []

/-- The same of the operation as its context now stands. -/
def State.commitCheck (s : State) (c : OpCtx) : State :=
  match s.kv.ctx? c.id with
  | none => s
  | some c => s.commitStep c

/-- REPLICATE to each receiver of a change that touches several Wards: one message, under a Ward of the change that the receiver holds
(R75, R390). -/
def State.replicateAll (s : State) (wards : List Nat) (rf stamp : Nat) (ms : List Nat) (es : List TunEntry) (rec_ : Option ReqRecord) : State :=
  ms.foldl (fun s m => s.replicate ((wards.find? fun w => (s.receivers w rf).contains m).getD (wards.headD 0)) stamp [m] es rec_) s

/-- An operation of this part's own host whose change is replicated has a request number as well, under this member's own handle: the request
record travels with the change, so that the operation can be sent again to a new owner (R393; DEDUCED, log entry 143). -/
def State.numbered (s : State) (c : OpCtx) (acks : List Nat) : OpCtx × State :=
  if c.onRing && !acks.isEmpty && decide (c.reqNo = 0) then
    ({ c with reqNo := s.ywp.reqNo, identity := s.handle }, { s with ywp := { s.ywp with reqNo := s.ywp.reqNo + 1 } })
  else (c, s)

/-- The request record that travels with a change, if it leaves one (R353, R390). -/
def State.changeRecord (s : State) (c : OpCtx) (res : Res) : Option ReqRecord :=
  if c.reqNo ≠ 0 ∧ leavesRecord c.desc c.fx then some
    { identity := c.identity, tenant := c.tenant, reqNo := c.reqNo, stamp := res.rstamp, status := res.status, rlen := res.rlen, origin := res.origin, made := s.clk.cycles }
  else none

/-- The entries of a mutation become LIVE, replication begins, and the commit wait (R22, R205). -/
def State.goLive (s : State) (c : OpCtx) (ids : List Nat) (res : Res) (acks wards : List Nat) (rf : Nat) : State :=
  let (c, s) := s.numbered c acks
  let s := s.fmax .ptpWaitStat_maxNs ((taiOfUs (c.stamp / 4096 + 1) - s.clk.tai) / nsUnits)
  let es := s.tun.entries.filter fun e => ids.contains e.id
  let s := s.replicateAll wards rf c.stamp acks es (s.changeRecord c res)
  let c' : OpCtx := { c with entries := ids, res := res, acks := acks, wards := wards, ponr := true }
  (s.modCtx c.id fun _ => c').commitStep c'

/-- A FILLING entry whose bytes have come becomes LIVE and gets its row (R204, R775). -/
def State.fillDone (s : State) (id : Nat) : State :=
  match s.tun.entry? id with
  | none => s
  | some e => (s.modEntry id fun e => { e with state := .live }).addRow e.digest false id e.ksp

/-- Flash bytes a PATCH or APPEND of bytes [off, off + n) needs beyond the record (R775, R258): where a VALUE record results, every extent of
the current value of which neither the patch nor those in the Tun supply all bytes; where an EXTENTS record results, those of them that it
touches. -/
def patchNeeds (v : Ver) (off n : Nat) : List Nat :=
  (v.exts.filter fun e =>
    let lo := e.1 * 1048576
    let hi := min (lo + 1048576) v.vlen
    decide (lo < hi) && (decide (max v.vlen (off + n) ≤ 1048576) || overlap lo 1048576 off n) && !(uncovered ((off, n) :: v.ranges) lo hi).isEmpty).map fun e => e.2

/-- The flash bytes a mutation needs of the current version (R775). -/
def mutNeeds (d : Desc) (v : Ver) : List Nat :=
  if (mutEntry d v).1 = .patch then patchNeeds v (mutEntry d v).2.1 d.vlen else []

/-- A mutation waits for room: in the Tun, the AD, the journal (R34), the leaf cache (R189) or the Town pool (R32). In Nap it ends Nap, since only a drain makes
room (R161). -/
def State.holdFor (s : State) (c : OpCtx) : State := s.leaveNap.modCtx c.id fun c => { c with phase := .held }

/-- Segments of host memory that hold the first `n` bytes of an SGL, in element order (R131). -/
def gather : List SglElem → Nat → List (Nat × Nat)
  | [], _ => []
  | e :: es, n => if n = 0 then [] else if e.len = 0 then gather es n else (e.addr, min n e.len) :: gather es (n - e.len)

/-- Read the value of a command from host memory (R53, R131). -/
def State.fetchValue (s : State) (c : OpCtx) : State :=
  match c.src with
  | .ring f _ => (gather (valueSgl c.desc c.fx) c.desc.vlen).foldl (fun s r => s.emit (.memRead f r.1 r.2)) s
  | _ => s

/-- The value bytes of a mutation: those it has, or room for those that are still to be fetched. -/
def mutData (c : OpCtx) : Bytes :=
  if !usesValue c.desc.opc then [] else if c.valueDue then List.replicate c.desc.vlen 0#8 else c.fx.value.take c.desc.vlen

/-- The bytes a FILLING entry waited for have come, or are lost (R775). The replicas that must acknowledge are those named now (R22). -/
def State.fillStep (s : State) (c : OpCtx) : State :=
  let dig := (s.tun.entry? (c.entries.headD 0)).map (fun e => e.digest) |>.getD 0
  let rf := ((s.ksp? c.desc.ksp).map fun k => k.rf).getD 1
  let (gone, s) := if c.lost.isEmpty then (false, s) else s.askReplica dig c.desc.ksp
  if gone then (c.entries.foldl (fun s id => s.freeEntry id) s).fail c stDataLost
  else
    let acks := s.receivers (wardOf dig) rf
    let s := c.entries.foldl (fun s id => s.modEntry id fun e => { e with replAck := acks.isEmpty }) s
    (c.entries.foldl (fun s id => s.fillDone id) s).goLive c c.entries c.res acks [wardOf dig] rf

/-- Dispatch of PUT, PUT_IF, PATCH, APPEND, DELETE or DELETE_IF at its owner (R22, R63 to R68, R203). A value in host memory is fetched now:
the entry stays FILLING until it has come (R27, R204). -/
def State.runMut (s : State) (c : OpCtx) (rf : Nat) : State :=
  let d := c.desc
  let key := keyOf d c.fx
  let dig := s.digest d.ksp key
  let v := if needsCur d.opc then s.curVer d.ksp key else {}
  let need := s.missing c v []
  let looked := if needsCur d.opc then s.countRead v else s
  if v.leaf.any (fun l => l.rebuild) ∨ (v.bad ∧ needsCur d.opc) then looked.fail c stInternalFault
  else if needsCur d.opc ∧ !need.isEmpty then if s.leafRoom dig then s.waitReads c need else s.holdFor c
  else
    let ask := s.askStamp
    let (kind, off, vlen) := mutEntry d v
    let data := mutData c
    let e : TunEntry :=
      { id := 0, kind := kind, state := .live, ksp := d.ksp, key := key, origin := s.memberId, replAck := false, stamp := 0,
        vlen := vlen, offset := off, digest := dig, data := data }
    let acks := s.receivers (wardOf dig) rf
    let (gone, asked) := if (d.opc = opPatch ∨ d.opc = opAppend) ∧ v.recs.any (fun a => lostAt s.media c a) then looked.askReplica dig d.ksp else (false, looked)
    if needsCur d.opc ∧ mutLength d v then looked.fail c stLengthLimit
    else if s.media.readOnly then looked.fail c stExhausted
    else if addsData d.opc ∧ s.noSpace then looked.fail c stNoSpace
    else if ask = .refused then looked.refuseTime.fail c stTimeUntrusted
    else match mutCond d v with
      | some st => (s.useVer c v).finish (c.using v) (resOfVer st v) []
      | none =>
        if gone then asked.fail c stDataLost
        else if !s.tunRoom (entryUnits e) 1 ∨ !s.leafRoom dig ∨ !s.townRoom acks.length then s.holdFor c
        else match ask with
          | .stamp st =>
            let more := mutNeeds d v
            let e := { e with stamp := st, replAck := acks.isEmpty }
            match s.addEntry e (c.valueDue || !more.isEmpty) with
            | none => s
            | some (id, s) =>
              let s := (if needsCur d.opc then s.countRead v else s).tookStamp st
              let res : Res := { status := stOk, rlen := vlen, rstamp := st, origin := s.memberId }
              let rest := more.filter fun a => !lostAt s.media c a
              let c' : OpCtx := { c with stamp := st, ponr := true, entries := [id], res := res, acks := acks, got := [], lost := more.filter (lostAt s.media c) }
              let s := s.modCtx c.id fun _ => c'
              if c.valueDue then (s.modCtx c.id fun c => { c with phase := .value, need := rest }).fetchValue c'
              else if more.isEmpty then s.goLive c' [id] res acks [wardOf dig] rf
              else if rest.isEmpty then s.fillStep c' else s.waitReads c' (rest.map fun a => (a, .ctx c.id))
          | _ => s.modCtx c.id fun c => { c with phase := .counter }

/-- The value of a dispatched mutation has come: its entry takes it and becomes LIVE, or waits for flash bytes (R204, R775). Where the fetch
failed, the entry's space is released, the stamp is discarded, and the command completes with INTERNAL_FAULT (R27). -/
def State.valueCome (s : State) (c : OpCtx) (x : Fetched) : State :=
  if x.fault then (c.entries.foldl (fun s id => s.freeEntry id) s).fail c stInternalFault
  else
    let c' : OpCtx := { c with valueDue := false, need := [] }
    let s := c.entries.foldl (fun s id => s.modEntry id fun e => { e with data := x.value.take c.desc.vlen }) (s.modCtx c.id fun _ => c')
    if c.need.isEmpty then s.fillStep c' else s.waitReads c' (c.need.map fun a => (a, .ctx c.id))

/-! ### Batches (R70 to R77) -/

/-- The condition of R74 that an element meets, if any; an element whose bytes are lost, here and at every replica, meets DATA_LOST. -/
def elemStop (e : BatchElem) (v : Ver) (lost : Bool) : Option Nat :=
  firstStatus [(mutLength e.d v, stLengthLimit),
    ((e.d.opc == opPutIf || e.d.opc == opDeleteIf) && !condHolds (cmode e.d.flg) e.d.cond v, stCondFalse),
    ((e.d.opc == opPatch || e.d.opc == opAppend) && v.present && lost, stDataLost)]

/-- A mutation element that changes nothing although the batch is applied (R74). -/
def elemAbsent (e : BatchElem) (v : Ver) : Bool := !v.present && (e.d.opc == opPatch || e.d.opc == opDelete || e.d.opc == opDeleteIf)

/-- A result record (R71). -/
def batchRecord (st : Nat) (applied : Bool) (rlen stamp : Nat) : Bytes :=
  packLe 16 [(0, 16, st), (16, 1, b2n applied), (32, 32, rlen), (64, 64, stamp)]

/-- The status that ends a batch when some element stops it: the first of R74 that some element meets. -/
def batchStop (stops : List (Option Nat)) : Option Nat :=
  firstStatus [(stops.contains (some stLengthLimit), stLengthLimit), (stops.contains (some stCondFalse), stCondFalse),
    (stops.contains (some stDataLost), stDataLost)]

/-- The extents an element needs: those it reads (R62), or those its drain copies (R775). -/
def elemExts (e : BatchElem) (v : Ver) : List Nat :=
  if isRead e.d.opc then extsFor v (wantBytes e.d v).1 (wantBytes e.d v).2 else mutNeeds e.d v

/-- For each element of a batch, whether the bytes it needs are lost here and at every replica (R62, R74). -/
def State.askElems (c : OpCtx) : List (BatchElem × Ver) → State → List Bool × State
  | [], s => ([], s)
  | (e, v) :: l, s =>
    let (b, s) := if (v.recs ++ elemExts e v).any (fun a => lostAt s.media c a) then s.askReplica (s.digest e.d.ksp e.key) e.d.ksp else (false, s)
    let (bs, s) := State.askElems c l s
    (b :: bs, s)

/-- The record and read data of one element (R71, R73, R74). -/
def State.elemResult (s : State) (c : OpCtx) (e : BatchElem) (v : Ver) (lost : Bool) (stop : Option Nat) (stamp : Nat) : Bytes × List (Nat × Bytes) :=
  if isRead e.d.opc then
    if lost then (batchRecord stDataLost false 0 0, [])
    else if c.poisoned e.resOff then (batchRecord stInternalFault false 0 0, [(e.resOff, (s.readRes e.d (s.digest e.d.ksp e.key) v e.resLen).2)])
    else
      let (r, b) := s.readRes e.d (s.digest e.d.ksp e.key) v e.resLen
      (batchRecord r.status false r.rlen r.rstamp, if b.isEmpty then [] else [(e.resOff, b)])
  else
    let cur := if v.present then v.vlen else 0
    match stop with
    | some _ => (batchRecord ((elemStop e v lost).getD (if elemAbsent e v then stNotFound else stOk)) false cur v.stamp, [])
    | none =>
      if elemAbsent e v then (batchRecord stNotFound false cur v.stamp, [])
      else
        let n := if e.d.opc = opDelete ∨ e.d.opc = opDeleteIf then 0 else (mutEntry e.d v).2.2
        (batchRecord stOk true n stamp, [])

/-- Result records, then read data: the pieces of a batch's result and the offset one past its last byte (R54, R71). -/
def batchPieces (n : Nat) (rs : List (Bytes × List (Nat × Bytes))) : List (Nat × Bytes) × Nat :=
  let ps := [(0, rs.flatMap fun r => r.1)] ++ rs.flatMap fun r => r.2
  (ps, ps.foldl (fun m p => max m (p.1 + p.2.length)) (n * 16))

/-- The member entries of an applied batch (R203, R205). -/
def State.batchEntries (s : State) (b stamp : Nat) (es : List (BatchElem × Ver)) (acked : Bool) : List TunEntry :=
  (es.filter fun x => isMut x.1.d.opc && !elemAbsent x.1 x.2).map fun x =>
    let (kind, off, vlen) := mutEntry x.1.d x.2
    { id := 0, kind := kind, state := .live, ksp := x.1.d.ksp, key := x.1.key, origin := s.memberId, replAck := acked, stamp := stamp,
      vlen := vlen, offset := off, digest := s.digest x.1.d.ksp x.1.key, batch := b, data := x.1.value }

/-- A batch is resolved: its record says so and its intents go (R205 steps 5 and 6). -/
def State.resolveBatch (s : State) (b : Nat) : State :=
  let ids := (s.tun.entries.filter fun e => e.batch == b).map fun e => e.id
  let s := { s with tun := { s.tun with entries := updWhere (fun e => e.batch == b && decide (e.kind = .batchRecord)) (fun e => { e with resolved := true }) s.tun.entries } }
  ids.foldl (fun s id => s.dropRows id true) s

/-- What a batch reports (R54, R56): its result bytes up to `n` unless its status is of a class that reports 0, its stamp, and this member. -/
def State.batchRes (s : State) (st n stamp : Nat) : Res :=
  { status := st, rlen := if st < 0x0100 then n else 0, rstamp := stamp, origin := s.memberId }

/-- Dispatch of a BATCH at its owner (R73 to R76, R205). The flash bytes that its elements need are read before it takes its stamp (DESIGN
CHOICE, log entry 135). A valid batch takes one stamp, applied or not (R73). -/
def State.runBatch (s : State) (c : OpCtx) (rf : Nat) : State :=
  let d := c.desc
  let es := batchElems d c.fx.value
  let vs := es.map fun e => (e, s.curVer d.ksp e.key)
  let need := (vs.flatMap fun x => s.missing c x.2 (elemExts x.1 x.2)).eraseDups
  let muts := es.filter fun e => isMut e.d.opc
  let wards := (es.map fun e => wardOf (s.digest d.ksp e.key)).eraseDups
  let acks := (wards.flatMap fun w => s.receivers w rf).eraseDups
  let ask := s.askStamp
  let (lost, asked) := State.askElems c vs s
  let xs := vs.zip lost
  let stop := batchStop (xs.map fun x => if isMut x.1.1.d.opc then elemStop x.1.1 x.1.2 x.2 else none)
  let pieces := fun (stamp : Nat) => batchPieces es.length (xs.map fun x => s.elemResult c x.1.1 x.1.2 x.2 stop stamp)
  let looked := vs.foldl (fun s x => s.countRead x.2) asked
  let ended := fun (st : Nat) =>
    (match ask with | .stamp v => looked.tookStamp v | _ => looked).finish c (s.batchRes st (pieces 0).2 0) (pieces 0).1
  if vs.any (fun x => x.2.bad || x.2.leaf.any fun l => l.rebuild) then (vs.foldl (fun s x => s.countRead x.2) s).fail c stInternalFault
  else if !need.isEmpty then
    if muts.any (fun e => !s.leafRoom (s.digest d.ksp e.key)) then s.holdFor c else s.readWait c (vs.map fun x => x.2) need
  else if vs.any (fun x => isRead x.1.d.opc && x.2.unacked) then (s.holdVers c (vs.map fun x => x.2)).modCtx c.id fun c => { c with phase := .readAck }
  else if ask = .wait then s.modCtx c.id fun c => { c with phase := .counter }
  else if stop = some stLengthLimit then ended stLengthLimit
  else if !muts.isEmpty ∧ s.media.readOnly then looked.fail c stExhausted
  else if es.any (fun e => addsData e.d.opc) ∧ s.noSpace then looked.fail c stNoSpace
  else if !muts.isEmpty ∧ ask = .refused then looked.refuseTime.fail c stTimeUntrusted
  else
    match stop with
    | some st => ended st
    | none =>
      let b := s.tun.batchNo + 1
      let ents := s.batchEntries b 0 vs acks.isEmpty
      if ents.isEmpty then ended stOk
      else
        let units := (ents.map entryUnits).sum + (64 + 4 * ents.length + 63) / 64
        if !s.tunRoom units (2 * ents.length) ∨ ents.any (fun e => !s.leafRoom e.digest) ∨ !s.townRoom acks.length then s.holdFor c
        else match ask with
          | .stamp st =>
            let (ids, s') := ents.foldl (fun (acc : List Nat × State) e =>
              match acc.2.addEntry { e with stamp := st } false with
              | none => acc
              | some (id, s) => (acc.1 ++ [id], s.addRow e.digest true id e.ksp)) ([], asked)
            let rec_ : TunEntry :=
              { id := 0, kind := .batchRecord, state := .live, ksp := d.ksp, key := [], origin := s.memberId, replAck := acks.isEmpty,
                stamp := st, vlen := 0, digest := 0, batch := b, members := ids }
            match s'.addEntry rec_ false with
            | none => s
            | some (rid, s) =>
              let s := vs.foldl (fun s x => s.countRead x.2) (({ s with tun := { s.tun with batchNo := b } }).tookStamp st)
              let (ps, n) := pieces st
              let r := s.batchRes stOk n st
              let s := s.placeResult c ps
              let s := if acks.isEmpty then s.resolveBatch b else s
              let c' : OpCtx := { c with stamp := st, ponr := true, batchNo := b }
              (s.modCtx c.id fun _ => c').goLive c' (ids ++ [rid]) r acks wards rf
          | _ => s.modCtx c.id fun c => { c with phase := .counter }

/-! ### Staged values (R78 to R83, R260) -/

/-- Write a media map checkpoint with the floors of R79 and R442 (R308). A stamp floor never falls: the greatest stamp assigned may lie before
the last start. -/
def State.checkpoint (s : State) : State :=
  let h := max s.media.stampFloor (if s.kv.lastU = 0 then 1 else s.kv.lastU + 120000000)
  { s with media := MediaSt.mapRecord { s.media with stampFloor := h, handleFloor := (s.kv.handle + 1048576) % 2 ^ 32, checkpointAt := s.clk.cycles } }

/-- The next handle, skipping 0, with a checkpoint first when the counter would pass the floor (R79). -/
def State.nextHandle (s : State) : Nat × State :=
  let h := if (s.kv.handle + 1) % 2 ^ 32 = 0 then 1 else s.kv.handle + 1
  let s := if s.kv.handle = s.media.handleFloor ∨ h = (s.media.handleFloor + 1) % 2 ^ 32 then s.checkpoint else s
  (h, { s with kv := { s.kv with handle := h } })

/-- Drop a staged value (R81, R83): its extents are dead. -/
def State.dropStaged (s : State) (h : Nat) : State :=
  { s with kv := { s.kv with staged := s.kv.staged.filter fun v => v.handle != h } }

/-- STAGE_OPEN (R78). -/
def State.runStageOpen (s : State) (c : OpCtx) : State :=
  let d := c.desc
  if s.media.readOnly then s.fail c stExhausted
  else if s.noSpace then s.fail c stNoSpace
  else
    let (h, s) := s.nextHandle
    let v : Staged := { handle := h, tenant := c.tenant, ksp := d.ksp, key := keyOf d c.fx, declared := d.vlen, last := s.clk.cycles }
    let s := { s with kv := { s.kv with staged := s.kv.staged ++ [v] } }
    let s := s.breakSlumber
    s.finish c { status := stOk, rlen := h, rstamp := 0, origin := s.memberId } []

/-- The extents a piece writes: each whole, merged with the extent's previous contents, zeros where nothing was written. -/
def pieceExtents (m : MediaSt) (v : Staged) (off : Nat) (b : Bytes) : List (Nat × Bytes) :=
  let i0 := off / 1048576
  let i1 := (off + b.length - 1) / 1048576
  (List.range (i1 + 1 - i0)).map fun k =>
    let i := i0 + k
    let size := min 1048576 (v.declared - i * 1048576)
    let old := match v.extents.find? fun e => e.1 == i with
      | some e => ((m.item? e.2).map fun x => x.data).getD []
      | none => []
    let lo := max off (i * 1048576)
    let hi := min (off + b.length) ((i + 1) * 1048576)
    (i, padTo size (overlay old (lo - i * 1048576) (slice b (lo - off) (hi - lo))))

/-- The extents of a staged value with whose former contents a piece is merged (R260): those it covers in part. -/
def mergedExtents (v : Staged) (off n : Nat) : List (Nat × Nat) :=
  v.extents.filter fun e =>
    let lo := e.1 * 1048576
    overlap lo 1048576 off n && !decide (off ≤ lo ∧ min (lo + 1048576) v.declared ≤ off + n)

/-- A STAGE_DATA of the same staged value and OFFSET still waits for acknowledgements: a REPL_ACK names a piece by both, so the later one waits
to be dispatched (DESIGN CHOICE, log entry 159). -/
def State.sameOpen (s : State) (c : OpCtx) (h : Nat) : Bool :=
  s.kv.ctxs.any fun x => x.id != c.id && decide (x.phase = .pages) && x.handle == h && x.desc.offset == c.desc.offset && !x.acks.isEmpty

/-- A piece of a staged value goes to a receiver (R390). -/
def State.sendPiece (s : State) (ward member : Nat) (v : Staged) (off : Nat) (b : Bytes) : State :=
  s.sendTown member { tmsg := 0x0A, ward := ward, arg0 := v.handle, arg1 := off, body := .piece v.handle v.ksp v.key v.declared off b }

/-- STAGE_DATA (R80, R260). The former contents of extents it covers in part are read through the ladder first (R263); where those are lost, the
extents written hold them as lost (DESIGN CHOICE, log entry 159). -/
def State.runStageData (s : State) (c : OpCtx) (v : Staged) (rf : Nat) : State :=
  let d := c.desc
  let b := c.fx.value.take d.vlen
  let w := wardOf (s.digest v.ksp v.key)
  let olds := mergedExtents v d.offset d.vlen
  let need := (olds.filter fun e => !c.got.contains e.2 && !lostAt s.media c e.2).map fun e => (e.2, NandFor.ctx c.id)
  if v.declared < d.offset + d.vlen then s.fail c stLengthLimit
  else if s.media.readOnly then s.fail c stExhausted
  else if s.noSpace then s.fail c stNoSpace
  else if s.sameOpen c v.handle then s.modCtx c.id fun c => { c with phase := .held }
  else if !need.isEmpty then s.waitReads c need
  else if !s.townRoom (s.receivers w rf).length then s.holdFor c
  else match s.storeExtents .staged v.ksp 1 (pieceExtents s.media v d.offset b) [] with
    | none => s.holdFor c
    | some (es, t) =>
      let spoilt := es.filter fun e => olds.any fun o => o.1 == e.1 && lostAt s.media c o.2
      let s := (spoilt.foldl (fun t e => t.modItem e.2 fun i => { i with lost := true }) t).leaveNap
      let acks := s.receivers w rf
      let kept := v.extents.filter fun e => !(es.any fun x => x.1 == e.1)
      let all := sortBy (fun e => e.1) (kept ++ es)
      let s := { s with kv := { s.kv with staged := updWhere (fun x => x.handle == v.handle) (fun x => { x with extents := all, last := s.clk.cycles }) s.kv.staged } }
      let s := acks.foldl (fun s m => s.sendPiece w m v d.offset b) s
      s.modCtx c.id fun c => { c with phase := .pages, ponr := true, need := es.map fun e => e.2, acks := acks, wards := [w], handle := v.handle,
                                      res := { status := stOk, rlen := d.vlen, rstamp := 0, origin := s.memberId } }

/-- STAGE_DATA ends when its extents' pages have passed and its replicas hold the piece (R80, R260). -/
def State.piecesCheck (s : State) : State :=
  (s.kv.ctxs.filter fun c => decide (c.phase = .pages) && c.acks.isEmpty && c.need.all fun a => (s.media.item? a).any fun i => s.media.onFlash i false).foldl
    (fun s c => s.finish c c.res []) s

/-- STAGE_PUBLISH (R81): a PUBLISH entry of the whole declared value; the handle is closed. -/
def State.runPublish (s : State) (c : OpCtx) (v : Staged) (rf : Nat) : State :=
  let dig := s.digest v.ksp v.key
  let acks := s.receivers (wardOf dig) rf
  let e : TunEntry :=
    { id := 0, kind := .publish, state := .live, ksp := v.ksp, key := v.key, origin := s.memberId, replAck := acks.isEmpty, stamp := 0,
      vlen := v.declared, digest := dig, extents := v.extents, handle := v.handle }
  if s.kv.ctxs.any (fun x => decide (x.phase = .pages ∧ x.handle = v.handle)) ∨ s.intentOn v.ksp v.key then s.modCtx c.id fun c => { c with phase := .held }
  else if s.media.readOnly then s.fail c stExhausted
  else if s.noSpace then s.fail c stNoSpace
  else if !s.tunRoom (entryUnits e) 1 ∨ !s.leafRoom dig ∨ !s.townRoom acks.length then s.holdFor c
  else match s.askStamp with
    | .refused => s.refuseTime.fail c stTimeUntrusted
    | .wait => s.modCtx c.id fun c => { c with phase := .counter }
    | .stamp st =>
      match s.addEntry { e with stamp := st } false with
      | none => s
      | some (id, s) =>
        let s := (s.tookStamp st).dropStaged v.handle
        let c' : OpCtx := { c with stamp := st, ponr := true }
        (s.modCtx c.id fun _ => c').goLive c' [id] { status := stOk, rlen := v.declared, rstamp := st, origin := s.memberId } acks [wardOf dig] rf

/-! ### Snapshots (R84 to R87) -/

/-- SNAPSHOT_OPEN (R86). -/
def State.runSnapOpen (s : State) (c : OpCtx) : State :=
  if s.kv.leases.length ≥ 1024 then s.fail c stSnapLimit
  else match s.snapStamp with
    | none => s.refuseTime.fail c stTimeUntrusted
    | some t =>
      if s.retainUs = 0 then s.fail c stSnapTooOld
      else
        let l : Lease := { tenant := c.tenant, stamp := t, reserved := true }
        let s := { s with kv := { s.kv with leases := s.kv.leases ++ [l] } }
        let s := s.breakSlumber
        s.modCtx c.id fun c => { c with phase := .snapOpen, ponr := true, stamp := t }

/-- SNAPSHOT_OPEN ends once the clock has passed T: the lease is recorded with its expiry T + R, and the milliseconds it has left are
reported (R86, R87). -/
def State.snapOpenDone (s : State) (c : OpCtx) : State :=
  let s := { s with kv := { s.kv with leases := updWhere (fun l => l.tenant == c.tenant && l.stamp == c.stamp) (fun l => { l with reserved := false, expiry := c.stamp + s.retainUs * 4096 }) s.kv.leases } }
  s.finish c { status := stOk, rlen := (c.stamp / 4096 + s.retainUs - s.nowUs) / 1000, rstamp := c.stamp, origin := s.memberId } []

/-- SNAPSHOT_CLOSE (R87). Where a tenant holds two leases of one T, both go (DESIGN CHOICE, log entry 136). -/
def State.runSnapClose (s : State) (c : OpCtx) : State :=
  let s := { s with kv := { s.kv with leases := s.kv.leases.filter fun l => !(l.tenant == c.tenant && l.stamp == c.desc.snap && !l.reserved) } }
  s.finish c { status := stOk, rlen := 0, rstamp := c.desc.snap, origin := s.memberId } []

/-! ### Scans (R88 to R92, R210) -/

/-- The order of keys in a scan: digest, then key length, then bytes (R88, R92). -/
def keyLt (a b : Nat × Bytes) : Bool :=
  decide (a.1 < b.1) || (a.1 == b.1 && (decide (a.2.length < b.2.length) || (a.2.length == b.2.length && decide (ofBe a.2 < ofBe b.2))))

/-- Insert a key in scan order, once. -/
def insertKey (x : Nat × Bytes) : List (Nat × Bytes) → List (Nat × Bytes)
  | [] => [x]
  | y :: ys => if x = y then y :: ys else if keyLt x y then x :: y :: ys else y :: insertKey x ys

/-- The keys of a keyspace in the Wards that the part serves, in its Tun or in leaves `ls`, with digests from `lo` up to `hi`, in scan order. -/
def State.scanKeys (s : State) (ls : List Leaf) (ksp lo hi : Nat) : List (Nat × Bytes) :=
  let a := (s.tun.entries.filter fun e => e.ksp == ksp && decide (e.kind ≠ .batchRecord)).map fun e => (e.digest, e.key)
  let b := ls.flatMap fun l => (l.entries.filter fun e => e.ksp == ksp).filterMap fun e =>
    (s.media.item? e.loc).map fun i => (e.digest, i.key)
  ((a ++ b).filter fun k => decide (lo ≤ k.1 ∧ k.1 < hi) && decide (s.wardOwner (wardOf k.1) = .self)).foldl (fun acc k => insertKey k acc) []

/-- A scan record (R90). -/
def scanRecord (key : Bytes) (v : Ver) : Bytes :=
  packLe 24 [(0, 16, key.length), (32, 32, v.vlen), (64, 64, v.stamp), (128, 14, v.origin)] ++ padMul 8 key

/-- The first digest group of a list of records. -/
def headGroup (l : List (Nat × Bytes)) : List (Nat × Bytes) := match l with | [] => [] | x :: _ => l.takeWhile fun y => y.1 == x.1

/-- The records a call returns: whole digest groups while they fit in `cap` bytes and in `left` keys; the first group may
exceed VLEN (R91, R92). -/
def takeGroups : Nat → Nat → Nat → Bool → List (Nat × Bytes) → List (Nat × Bytes)
  | 0, _, _, _, _ => []
  | fuel + 1, cap, left, isFirst, l =>
    let g := headGroup l
    let n := (g.map fun x => x.2.length).sum
    if g.isEmpty ∨ cap < n ∨ (left < g.length ∧ !isFirst) then [] else g ++ takeGroups fuel (cap - n) (left - g.length) false (l.drop g.length)

/-- The scan header (R90). -/
def scanHeader (count : Nat) (atEnd : Bool) (cursor stamp : Nat) : Bytes :=
  packLe 32 [(0, 32, count), (32, 1, b2n atEnd), (64, 128, cursor), (192, 64, stamp)]

/-- The end of a scan call (R90 to R92): the records found, as far as VLEN, the result SGL and whole digest groups allow, after a header.
`atEnd` says that no key remains beyond those found. -/
def State.scanAnswer (s : State) (c : OpCtx) (t carried : Nat) (atEnd : Bool) (recs : List (Nat × Bytes)) : State :=
  let d := c.desc
  let cur := fieldAt (keyOf d c.fx) 0 16
  let cap := sglLen (resultSgl d c.fx)
  let got := takeGroups (recs.length + 1) (cap - 32) d.vlen true recs
  let res := fun (st n : Nat) => ({ status := st, rlen := n, rstamp := t, origin := 0 } : Res)
  if recs.isEmpty then
    if 32 ≤ cap then s.finish c (res stOk 32) [(0, scanHeader 0 true cur carried)] else s.finish c (res stTruncated 32) []
  else if cap < 32 ∨ got.isEmpty then
    let n := 32 + ((headGroup recs).map fun x => x.2.length).sum
    s.finish c (res stTruncated n) (if 32 ≤ cap then [(0, scanHeader 0 false cur carried)] else [])
  else
    let body := scanHeader got.length (atEnd && decide (got.length = recs.length)) ((got.getLast?.map fun x => x.1).getD 0) carried ++ got.flatMap fun x => x.2
    s.finish c (res stOk body.length) [(0, body)]

/-- Digests of Ward `w` begin here. -/
def wardStart (w : Nat) : Nat := w * 2 ^ 108

/-- The replication factor of a keyspace. -/
def State.rfOf (s : State) (ksp : Nat) : Nat := ((s.ksp? ksp).map fun k => k.rf).getD 1

/-- The first Ward from `w` on that this part does not serve at replication factor `rf`, looking at `fuel` Wards. -/
def State.runEnd (s : State) (rf : Nat) : Nat → Nat → Nat
  | 0, w => w
  | fuel + 1, w => if s.wardOwner w = .self ∧ s.orphaned w rf = false then s.runEnd rf fuel (w + 1) else w

/-- Where the Wards end that a scan reads here in one go. A member that walks for its host stops at the first Ward of another owner (R88);
a part that stands alone, or that answers a request, reads all that it holds. -/
def State.scanEnd (s : State) (c : OpCtx) : Nat :=
  match c.src with
  | .ring _ _ => if s.isMember then min (wardStart (s.runEnd (s.rfOf c.desc.ksp) (s.town.wards.length + 1) (wardOf c.scanAt))) (2 ^ 128) else 2 ^ 128
  | _ => 2 ^ 128

/-- Result bytes that a walking initiator accepts of an owner: a header and 4,096 records of the longest key. -/
def scanRbuf : Nat := 32 + 4096 * 1048

/-- The request that a walking initiator sends for the Wards of another owner: it goes on from `scanAt` at the scan stamp. -/
def State.scanAway (s : State) (c : OpCtx) (member carried : Nat) : State :=
  let key := if c.scanAt = 0 then [] else leBytes 16 (c.scanAt - 1) ++ leBytes 8 carried
  s.forwardAs c member
    { c.desc with klen := key.length, snap := if c.scanAt = 0 then carried else 0, vlen := max 1 (c.desc.vlen - c.scanned.length) } key [] scanRbuf

/-- A scan goes on with what it has found (R88, R91, R92): it ends when no Ward is left or what it has found does not fit whole, or asks the
owner of the next Ward. A Ward whose owner is unknown, or that is ORPHAN, ends it (R388, R399). -/
def State.scanNext (s : State) (c : OpCtx) (t carried : Nat) : State :=
  let got := takeGroups (c.scanned.length + 1) (sglLen (resultSgl c.desc c.fx) - 32) c.desc.vlen true c.scanned
  if 2 ^ 128 ≤ c.scanAt then s.scanAnswer c t carried true c.scanned
  else if got.length < c.scanned.length then s.scanAnswer c t carried false c.scanned
  else
    let keep := fun (e : OpCtx) => { e with scanned := c.scanned, scanAt := c.scanAt }
    match s.wardOwner (wardOf c.scanAt) with
    | .remote m => (s.modCtx c.id keep).scanAway c m carried
    | .hold => s.modCtx c.id fun e => { keep e with phase := .held }
    | .self =>
      if s.orphaned (wardOf c.scanAt) (s.rfOf c.desc.ksp) then s.fail c stPeerUnreachable
      else s.modCtx c.id fun e => { keep e with phase := .held }
    | .nobody => s.fail c stPeerUnreachable

/-- A mutation that the scan must see is still FILLING (R206, R210). -/
def State.fillingIn (s : State) (ksp lo hi t : Nat) : Bool :=
  s.tun.entries.any fun e => decide (e.state = .filling ∧ e.kind ≠ .batchRecord) && e.ksp == ksp && decide (lo ≤ e.digest ∧ e.digest < hi ∧ e.stamp ≤ t)

/-- The leaves that a scan of the digests from `lo` up to `hi` walks: those it holds, and of the present ones those that they do not replace
(R187, R210). -/
def State.scanLeaves (s : State) (c : OpCtx) (lo hi : Nat) : List Leaf :=
  (c.leaves ++ s.index.leaves.filter fun l => !(c.leaves.any fun h => decide (h.lo ≤ l.lo ∧ l.hi ≤ h.hi))).filter fun l => decide (l.lo < hi ∧ lo < l.hi)

/-- A scan call at read stamp `t` (R89 to R92): the keys of the Wards that this part serves from `scanAt` on are read, and the scan goes on. -/
def State.scanCall (s : State) (c : OpCtx) (t carried : Nat) : State :=
  let d := c.desc
  let hi := s.scanEnd c
  let walked := s.scanLeaves c c.scanAt hi
  let keys := s.scanKeys walked d.ksp c.scanAt hi
  let vs := keys.map fun k => (k, s.readVer d.ksp k.2 t (c.heldLeaf k.1))
  let all := vs.map (fun x => x.2) ++ walked.map fun l => ({ leaf := some l } : Ver)
  let need := (all.flatMap fun v => s.missing c v []).eraseDups
  let looked := all.foldl (fun s v => s.countRead v) s
  if keys.any (fun k => s.intentOn d.ksp k.2) || s.fillingIn d.ksp c.scanAt hi (max t c.seen) then
    (all.foldl (fun s v => s.countRead { adFalse := v.adFalse, chain := v.chain }) s).modCtx c.id fun c => { c with phase := .intent }
  else if all.any (fun v => v.bad || v.leaf.any fun l => l.rebuild) then looked.fail c stInternalFault
  else if !need.isEmpty then s.readWait c all need
  else if all.any (fun v => v.unacked) then (s.holdVers c all).modCtx c.id fun c => { c with phase := .readAck }
  else
    looked.scanNext { c with scanned := c.scanned ++ (vs.filter fun x => x.2.present).map (fun x => (x.1.1, scanRecord x.1.2 x.2)), scanAt := max c.scanAt hi } t carried

/-- The records of a scan result, each with its key. -/
def scanRecords : Nat → Bytes → List (Bytes × Bytes)
  | 0, _ => []
  | n + 1, b =>
    let k := fieldAt b 0 2
    let len := 24 + (k + 7) / 8 * 8
    if k = 0 ∨ b.length < len then [] else (slice b 24 k, b.take len) :: scanRecords n (b.drop len)

/-- The answer of an owner to a walking initiator: the records of the Ward asked for are kept, and the walk goes on behind them. -/
def State.scanReply (s : State) (c : OpCtx) (status rlen : Nat) (body : Bytes) : State :=
  let w := wardOf c.scanAt
  if status = stTruncated then
    if c.scanned.isEmpty then
      s.finish c { status := stTruncated, rlen := rlen, rstamp := c.readT }
        (if 32 ≤ sglLen (resultSgl c.desc c.fx) then [(0, scanHeader 0 false (fieldAt (keyOf c.desc c.fx) 0 16) c.handle)] else [])
    else s.scanAnswer c c.readT c.handle false c.scanned
  else
    let recs := (scanRecords (fieldAt body 0 4) (body.drop 32)).map fun r => (s.digest c.desc.ksp r.1, r.2)
    let mine := recs.takeWhile fun r => wardOf r.1 == w
    let more := decide (mine.length = recs.length) && decide (fieldAt body 4 1 % 2 = 0)
    let next := match mine.getLast? with | some r => if more then r.1 + 1 else wardStart (w + 1) | none => wardStart (w + 1)
    let c := { c with scanned := c.scanned ++ mine, scanAt := next }
    (s.modCtx c.id fun e => { e with scanned := c.scanned, scanAt := c.scanAt }).scanCall c c.readT c.handle

/-- Dispatch of a SCAN (R89): the stamp it reads at, with a wait when a scan stamp is taken; a scan that has its stamp goes on. -/
def State.runScan (s : State) (c : OpCtx) : State :=
  let d := c.desc
  let cstamp := fieldAt (keyOf d c.fx) 16 8
  let start := if d.klen = 0 then 0 else fieldAt (keyOf d c.fx) 0 16 + 1
  let own := (d.klen = 24 ∧ cstamp = 0) ∨ (d.klen = 0 ∧ d.snap = 0 ∧ s.retainUs = 0)
  if c.ponr then s.scanCall c c.readT c.handle
  else if own then
    let t := s.lastStamp
    let c' : OpCtx := { c with ponr := true, readT := t, handle := 0, scanAt := start, seen := s.lastStamp }
    (s.modCtx c.id fun c => { c with ponr := true, readT := t, handle := 0, scanAt := start, seen := s.lastStamp }).scanCall c' t 0
  else
    let given := if d.klen = 24 then cstamp else d.snap
    if given ≠ 0 ∧ s.tooOld given then s.fail c stSnapTooOld
    else match (if given ≠ 0 then some given else s.snapStamp) with
      | none => s.refuseTime.fail c stTimeUntrusted
      | some t =>
        let seen := s.lastStamp
        let s := s.modCtx c.id fun c => { c with ponr := true, readT := t, handle := t, scanAt := start, seen := seen }
        let c' : OpCtx := { c with ponr := true, readT := t, handle := t, scanAt := start, seen := seen }
        if s.passed t then s.scanCall c' t t
        else s.modCtx c.id fun c => { c with phase := .snapRead, stamp := t }

/-! ### Dispatch (R21) -/

/-- A MOVED answer (R96): the epoch and the new owner's handle. -/
def State.movedRes (s : State) (w : Nat) : Res :=
  let e := s.wardEntry w
  let h := ((s.town.members.find? fun m => m.handle % 16384 == e.owner).map fun m => m.handle).getD 0
  { status := stMoved, rlen := if e.assigned then h else 0, rstamp := s.town.epoch, origin := 0 }

/-- A read is dispatched: its stamp and its retention are judged, then it goes on (R49, R84, R85). -/
def State.runRead (s : State) (c : OpCtx) : State :=
  let d := c.desc
  let t := if d.snap = 0 then s.lastStamp else d.snap
  if d.snap ≠ 0 ∧ s.tooOld d.snap then s.fail c stSnapTooOld
  else
    let s := s.modCtx c.id fun c => { c with ponr := true, readT := t }
    if d.snap ≠ 0 ∧ !s.passed d.snap then s.modCtx c.id fun c => { c with phase := .snapRead, stamp := d.snap }
    else
      let c' : OpCtx := { c with ponr := true, readT := t }
      s.readStep c'

/-- The Ward at which a request or a part outside a Town begins to scan; the scan of a member's host begins with no Ward in particular. -/
def State.scanWards (s : State) (c : OpCtx) : List Nat :=
  let start := if c.desc.klen = 0 then 0 else fieldAt (keyOf c.desc c.fx) 0 16 + 1
  match c.src with
  | .ring _ _ => if s.isMember then [] else [0]
  | _ => if start < 2 ^ 128 then [wardOf start] else []

/-- A STAGE_DATA, STAGE_PUBLISH or STAGE_DISCARD whose handle this part has not issued to the tenant (R79, R82, R83, R388): it goes to the member
that has, while that member owns the value's Ward; any other handle is unknown (R105 ranks STAGE_UNKNOWN before PEER_UNREACHABLE, R6). A keyspace that is being deleted is unknown here already
(R156); the slot of its key is the owner's to judge. -/
def State.runAway (s : State) (c : OpCtx) : State :=
  match (match c.src with | .ring _ _ => s.kv.away? c.tenant (handleOf c.desc) | _ => none) with
  | none => s.fail c stStageUnknown
  | some v =>
    match s.wardOwner (wardOf (s.digest v.ksp v.key)) with
    | .nobody => if s.stageCheck v.ksp v.tenant (fun _ _ => true) = some stKspUnknown then s.fail c stKspUnknown else s.fail c stPeerUnreachable
    | .remote m =>
      if m ≠ v.owner then s.fail c stStageUnknown
      else if s.stageCheck v.ksp v.tenant (fun _ _ => true) = some stKspUnknown then s.fail c stKspUnknown
      else s.forward c m
    | _ => s.fail c stStageUnknown

/-- The record of an operation of this part's own host that has run already, at a former owner of a Ward that has come to this member (R354,
R393). -/
def State.ranBefore (s : State) (c : OpCtx) : Option ReqRecord :=
  if c.onRing && decide (c.reqNo ≠ 0) then s.ywp.records.find? fun r => r.identity == s.handle && r.tenant == c.tenant && r.reqNo == c.reqNo else none

/-- A Town member whose join has not completed: every data operation completes with PEER_UNREACHABLE (R26, R718). R107 lists that status for
no SNAPSHOT opcode and no BARRIER; they complete with it all the same (DEDUCED, log entry 160). -/
def State.notJoined (s : State) : Bool := s.flag .twnCfg_townEn && !s.isMember

/-- Dispatch of a held operation, when nothing holds it any longer. -/
def State.dispatch (s : State) (c : OpCtx) : State :=
  let d := c.desc
  let ksp := s.kspOf d
  let rf := ((s.ksp? ksp).map fun k => k.rf).getD 1
  if s.behind c ∨ s.fillingOn ksp (s.keysOf c) ∨ (changesKeys d.opc ∧ (s.keysOf c).any fun k => s.intentOn ksp k) then
    s.modCtx c.id fun c => { c with phase := if c.phase = .noOwner then .noOwner else .held }
  else if s.notJoined && (d.opc == opSnapOpen || d.opc == opSnapClose || d.opc == opBarrier) then s.fail c stPeerUnreachable
  else if d.opc = opSnapOpen then s.runSnapOpen c
  else if d.opc = opSnapClose then s.runSnapClose c
  else if d.opc = opBarrier then
    if s.kv.ctxs.any (fun e => sameSrc e.src c.src && decide (e.id < c.id)) then s.modCtx c.id fun c => { c with phase := .barrier }
    else s.finish c {} []
  else if d.opc = opStageData ∨ d.opc = opStagePublish ∨ d.opc = opStageDiscard then
    match s.kv.staged.find? fun v => v.handle == handleOf d && v.tenant == c.tenant with
    | none => s.runAway c
    | some v =>
      match s.stageCheck v.ksp v.tenant s.slotLoaded with
      | some st => if d.opc = opStageDiscard ∧ st = stSlotEmpty then (s.dropStaged v.handle).finish c {} [] else s.fail c st
      | none =>
        if s.notJoined then s.fail c stPeerUnreachable
        else if d.opc = opStageData then s.runStageData c v (((s.ksp? v.ksp).map fun k => k.rf).getD 1)
        else if d.opc = opStagePublish then s.runPublish c v (((s.ksp? v.ksp).map fun k => k.rf).getD 1)
        else (s.dropStaged v.handle).finish c {} []
  else match s.kspCheck d.ksp c.tenant s.slotLoaded with
    | some st => s.fail c st
    | none =>
      let ws := if d.opc = opScan then s.scanWards c else s.wardsOf c
      match s.route c ws rf with
        | .wait => s.modCtx c.id fun c => { c with phase := .held }
        | .answer st =>
          if d.opc = opStageOpen ∧ 4096 ≤ s.kv.staged.length then s.fail c stStageLimit
          else if st = stMoved then s.finish c (s.movedRes (ws.headD 0)) [] else s.fail c st
        | .away m => if c.valueDue then (s.modCtx c.id fun c => { c with phase := .fetching, valueDue := false }).fetchValue c else s.forward c m
        | .here =>
          if let some r := s.ranBefore c then s.finish c { status := r.status, rlen := r.rlen, rstamp := r.stamp, origin := r.origin } [(0, r.body)]
          else if d.opc = opScan then s.runScan c
          else if d.opc = opStageOpen ∧ 4096 ≤ s.kv.staged.length then s.fail c stStageLimit
          else if isRead d.opc then s.runRead c
          else if isMut d.opc then s.runMut c rf
          else if d.opc = opBatch then s.runBatch c rf
          else s.runStageOpen c

/-- An operation that has been fetched whole: refused at once, or dispatched, or held (R21, R105). -/
def State.admitCtx (s : State) (c : OpCtx) : State :=
  match s.refused c with
  | some st => s.fail c st
  | none => s.dispatch c

/-- A wait of an operation may be over: go on from where it stands. -/
def State.resume (s : State) (id : Nat) : State :=
  match s.kv.ctx? id with
  | none => s
  | some c =>
    match c.phase with
    | .held | .counter => s.dispatch c
    | .reading =>
      if !c.need.isEmpty then s
      else if !c.ponr then s.dispatch c
      else if isMut c.desc.opc then s.fillStep c
      else if c.desc.opc = opScan then s.scanCall c c.readT c.handle
      else s.readStep c
    | .intent | .readAck | .replica | .buffer =>
      if !c.ponr then s.dispatch c
      else if c.desc.opc = opScan then s.scanCall c c.readT c.handle
      else s.readStep c
    | .commit => s.commitCheck c
    | .snapOpen => if s.passed c.stamp then s.snapOpenDone c else s
    | .snapRead =>
      if !s.passed c.stamp then s
      else if c.desc.opc = opScan then s.scanCall c c.readT c.handle
      else s.readStep c
    | _ => s

end Sys2Proof.Machine
end

