-- ==== Sys2Proof/Machine/KvData.lean ====
section
/-!
DEFINITION. The data operations (rows GET to BARRIER) and the events of the KV engine that end their waits.
-/

namespace Sys2Proof.Machine

/-! ### How a data operation enters the part -/

/-- A request of a session takes a context of the target pool (R32, R33); none while the pool is full. -/
def State.openTarget (s : State) (slot m tenant identity reqNo : Nat) (d : Desc) (x : Fetched) : Option (OpCtx × State) :=
  if poolSize .target ≤ s.inPool .target then none
  else
    let c : OpCtx :=
      { id := s.kv.nextCtx, pool := .target, src := .sess slot m, tenant := tenant, desc := d, fx := x, phase := .held,
        identity := identity, reqNo := reqNo, since := s.clk.cycles }
    some (c, { s with kv := { s.kv with ctxs := s.kv.ctxs ++ [c], nextCtx := c.id + 1 } })

/-- A data operation arrives with everything fetched: from a ring the engine may fetch from (R127), or as the request of an
OPEN session bound to a tenant (R28, R29). On the admin ring it waits for its turn, to be refused then (R135, R151). Where
the ring or the session cannot take it, nothing happens. -/
def State.arrive (s : State) (op : Nat) (src : Src) (d : Desc) (x : Fetched) : State :=
  let d : Desc := { d with opc := op }
  match src with
  | .ring f n =>
    if s.mayFetch f n then
      let c := s.ringCtx f n d x .held
      let s := s.fetchOne f n d x .held
      if n = 64 then s else s.admitCtx c
    else s
  | .town _ => s
  | .sess slot m =>
    match s.ywp.slot? slot with
    | none => s
    | some y =>
      if y.state = .opened ∧ s.serving ∧ s.hasFlash then
        match s.openTarget slot m y.tenant y.identity 0 d x with
        | none => s
        | some (c, s) =>
          if y.ver = 1 ∧ ((opStageOpen ≤ op ∧ op ≤ opStageDiscard) ∨ op = opSnapOpen ∨ op = opSnapClose) then s.fail c stVersion
          else s.admitCtx c
      else s

/-! ### The data operations -/

/-- GET (R57). -/
def execGet (src : Src) (d : Desc) (x : Fetched) (s : State) : Host.Outcome State Fault Refusal :=
  done dataParts dataRegs s (s.arrive opGet src d x)

/-- GET_RANGE (R58). -/
def execGetRange (src : Src) (d : Desc) (x : Fetched) (s : State) : Host.Outcome State Fault Refusal :=
  done dataParts dataRegs s (s.arrive opGetRange src d x)

/-- EXISTS (R59). -/
def execExists (src : Src) (d : Desc) (x : Fetched) (s : State) : Host.Outcome State Fault Refusal :=
  done dataParts dataRegs s (s.arrive opExists src d x)

/-- GET_META (R60). -/
def execGetMeta (src : Src) (d : Desc) (x : Fetched) (s : State) : Host.Outcome State Fault Refusal :=
  done dataParts dataRegs s (s.arrive opGetMeta src d x)

/-- PUT (R63). -/
def execPut (src : Src) (d : Desc) (x : Fetched) (s : State) : Host.Outcome State Fault Refusal :=
  done dataParts dataRegs s (s.arrive opPut src d x)

/-- PUT_IF (R64). -/
def execPutIf (src : Src) (d : Desc) (x : Fetched) (s : State) : Host.Outcome State Fault Refusal :=
  done dataParts dataRegs s (s.arrive opPutIf src d x)

/-- PATCH (R65). -/
def execPatch (src : Src) (d : Desc) (x : Fetched) (s : State) : Host.Outcome State Fault Refusal :=
  done dataParts dataRegs s (s.arrive opPatch src d x)

/-- APPEND (R66). -/
def execAppend (src : Src) (d : Desc) (x : Fetched) (s : State) : Host.Outcome State Fault Refusal :=
  done dataParts dataRegs s (s.arrive opAppend src d x)

/-- DELETE (R68). -/
def execDelete (src : Src) (d : Desc) (x : Fetched) (s : State) : Host.Outcome State Fault Refusal :=
  done dataParts dataRegs s (s.arrive opDelete src d x)

/-- DELETE_IF (R64). -/
def execDeleteIf (src : Src) (d : Desc) (x : Fetched) (s : State) : Host.Outcome State Fault Refusal :=
  done dataParts dataRegs s (s.arrive opDeleteIf src d x)

/-- BATCH (R70). -/
def execBatch (src : Src) (d : Desc) (x : Fetched) (s : State) : Host.Outcome State Fault Refusal :=
  done dataParts dataRegs s (s.arrive opBatch src d x)

/-- STAGE_OPEN (R78). -/
def execStageOpen (src : Src) (d : Desc) (x : Fetched) (s : State) : Host.Outcome State Fault Refusal :=
  done dataParts dataRegs s (s.arrive opStageOpen src d x)

/-- STAGE_DATA (R80). -/
def execStageData (src : Src) (d : Desc) (x : Fetched) (s : State) : Host.Outcome State Fault Refusal :=
  done dataParts dataRegs s (s.arrive opStageData src d x)

/-- STAGE_PUBLISH (R81). -/
def execStagePublish (src : Src) (d : Desc) (x : Fetched) (s : State) : Host.Outcome State Fault Refusal :=
  done dataParts dataRegs s (s.arrive opStagePublish src d x)

/-- STAGE_DISCARD (R81). -/
def execStageDiscard (src : Src) (d : Desc) (x : Fetched) (s : State) : Host.Outcome State Fault Refusal :=
  done dataParts dataRegs s (s.arrive opStageDiscard src d x)

/-- SCAN (R88). -/
def execScan (src : Src) (d : Desc) (x : Fetched) (s : State) : Host.Outcome State Fault Refusal :=
  done dataParts dataRegs s (s.arrive opScan src d x)

/-- SNAPSHOT_OPEN (R86). -/
def execSnapshotOpen (src : Src) (d : Desc) (x : Fetched) (s : State) : Host.Outcome State Fault Refusal :=
  done dataParts dataRegs s (s.arrive opSnapOpen src d x)

/-- SNAPSHOT_CLOSE (R87). -/
def execSnapshotClose (src : Src) (d : Desc) (x : Fetched) (s : State) : Host.Outcome State Fault Refusal :=
  done dataParts dataRegs s (s.arrive opSnapClose src d x)

/-- BARRIER (R94). -/
def execBarrier (src : Src) (d : Desc) (x : Fetched) (s : State) : Host.Outcome State Fault Refusal :=
  done dataParts dataRegs s (s.arrive opBarrier src d x)

/-! ### Events that end waits -/

/-- The part's clock reaches the instant at which a stamp of a later microsecond than the last can be given (R47, R436). -/
def State.waitCounter (s : State) : State := s.waitTai (taiOfUs (s.kv.lastU + 1) - s.epsFor.getD 0)

/-- STAMP_COUNTER_WAIT_END (R47): a mutation that waits for the next microsecond is dispatched in it. -/
def execStampCounterWaitEnd (id : Nat) (s : State) : Host.Outcome State Fault Refusal :=
  done (dataParts ++ [.clk]) dataRegs s (when (s.serving && (s.kv.ctx? id).any fun c => decide (c.phase = .counter)) (fun s => s.waitCounter.resume id) s)

/-- COMMIT_WAIT_DONE (R435): the counter passes the stamp that an operation waits for; a commit wait ends during a flush too (R213). -/
def execCommitWaitDone (id : Nat) (s : State) : Host.Outcome State Fault Refusal :=
  done (dataParts ++ [.clk]) dataRegs s (match s.kv.ctx? id with
    | none => s
    | some c =>
      when ((s.serving && decide (c.phase = .snapOpen ∨ c.phase = .snapRead)) || (s.ready && decide (c.phase = .commit)))
        (fun s => (s.waitTai (taiOfUs (c.stamp / 4096 + 1))).resume id) s)

/-- READ_RESUME (R61, R62, R189): a read that waits for an acknowledgement, a batch, a replica or a leaf buffer selects again. -/
def execReadResume (id : Nat) (s : State) : Host.Outcome State Fault Refusal :=
  done (dataParts ++ [.free]) dataRegs s (when (s.serving && (s.kv.ctx? id).any fun c => decide (c.phase = .intent ∨ c.phase = .readAck ∨ c.phase = .replica ∨ c.phase = .buffer))
    (fun s => s.resume id) s)

/-- STAGED_IDLE_TIMEOUT (R83, R110): IDLE_S seconds after its last activity a staged value is discarded, with an event. -/
def execStagedIdleTimeout (handle : Nat) (s : State) : Host.Outcome State Fault Refusal :=
  done [.clk, .kv, .sup, .ev] [] s (match s.kv.staged? handle with
    | none => s
    | some v => when s.serving (fun s =>
        ((s.waitCycle (v.last + s.fget .kveStageCtrl_idleS * secCycles)).dropStaged handle).report .stagedDiscarded handle) s)

/-- A recorded lease of a tenant at a stamp (R87). -/
def Lease.at_ (l : Lease) (tenant stamp : Nat) : Bool := l.tenant == tenant && l.stamp == stamp && !l.reserved

/-- LEASE_EXPIRY (R87): a lease ends at the expiry it recorded, T + R. -/
def execLeaseExpiry (tenant stamp : Nat) (s : State) : Host.Outcome State Fault Refusal :=
  done [.clk, .kv] [] s (match s.kv.leases.find? fun l => l.at_ tenant stamp with
    | none => s
    | some l => when s.serving (fun s =>
        let s := s.waitTai (taiOfUs (l.expiry / 4096))
        { s with kv := { s.kv with leases := s.kv.leases.filter fun x => !(x.at_ tenant stamp && decide (x.expiry ≤ l.expiry)) } }) s)

end Sys2Proof.Machine
end

