-- ==== Sys2Proof/Machine/YwpOps.lean ====
section
/-!
DEFINITION. What the wire protocol does with packets and sessions (R318 to R360): the checks of a received packet, sending
and protecting, acknowledgement and loss, congestion control, the states of a slot, and messages.
-/

namespace Sys2Proof.Machine

/-! ### Time and sizes -/

/-- The time of TX_TS and ECHO_OWD: nanoseconds of the 96-bit counter (R322). -/
def State.wireNs (s : State) : Nat := s.clk.tai / nsUnits % 2 ^ 64

/-- Cycles of a time in ns, rounded up. -/
def nsCycles (ns : Nat) : Nat := (ns * 3 + 4) / 5

/-- YWP accepts packets and opens sessions (R361, R26, R213). -/
def State.ywpOn (s : State) : Bool := s.netOn && s.flag .ywpCtrl_enable

/-- Count a dropped packet (R325, R370). -/
def State.ydrop (s : State) (f : Fld) : State := s.fadd f 1

/-- Free space of a session's receive queue: the WINDOW it advertises (R342), within what is left of the area that all queues share (R36). -/
def State.window (s : State) (x : Slot) : Nat := min (Config.rxQueueBytes - x.rxQueue) (areaBytes - s.areaUsed)

/-! ### PSNs (R336) -/

/-- a − b in serial arithmetic. -/
def serial (a b : Nat) : Nat := (a + 2 ^ 32 - b % 2 ^ 32) % 2 ^ 32

/-- a is after b. -/
def after (a b : Nat) : Bool := let d := serial a b; decide (1 ≤ d ∧ d < 2 ^ 31)

/-- The ranges of a list of received PSNs, ascending (R338). -/
def rangesOf : List Nat → List (Nat × Nat)
  | [] => []
  | x :: xs =>
    match rangesOf xs with
    | (a, b) :: r => if a = x + 1 then (x, b) :: r else (x, x) :: (a, b) :: r
    | [] => [(x, x)]

/-- The 32 highest ranges received above ACK_PSN. -/
def sackOf (x : Slot) : List (Nat × Nat) :=
  let r := rangesOf (sortBy (fun p => serial p x.rxNext) x.rxAhead)
  r.drop (r.length - 32)

/-! ### Session key positions (R529, R334) -/

/-- A position holds a key of a generation modulo 256. -/
def State.skHas (s : State) (slot dir pos gen : Nat) : Bool :=
  s.cip.sk.any fun k => decide (k.slot = slot ∧ k.dir = dir ∧ k.pos = pos ∧ k.gen = gen)

/-- Zero a position. -/
def State.skErase (s : State) (slot dir pos : Nat) : State :=
  { s with cip := { s.cip with sk := s.cip.sk.filter fun k => !decide (k.slot = slot ∧ k.dir = dir ∧ k.pos = pos) } }

/-- Place a key. -/
def State.skPut (s : State) (k : SessKey) : State :=
  let s := s.skErase k.slot k.dir k.pos
  { s with cip := { s.cip with sk := s.cip.sk ++ [k] } }

/-- Zero every position of a slot. -/
def State.skZero (s : State) (slot : Nat) : State := { s with cip := { s.cip with sk := s.cip.sk.filter fun k => k.slot != slot } }

/-- PENDING becomes CURRENT; the receive side keeps the old generation until it is erased. -/
def State.skPromote (s : State) (slot dir gen : Nat) : State :=
  let s := if dir = 0 then s.skErase slot 0 0 else s.skErase slot 1 3
  let f := fun (k : SessKey) =>
    if k.slot = slot ∧ k.dir = dir ∧ k.pos = 0 then { k with pos := 3 }
    else if k.slot = slot ∧ k.dir = dir ∧ k.pos = 1 ∧ k.gen = gen then { k with pos := 0 } else k
  { s with cip := { s.cip with sk := s.cip.sk.map f } }

/-- What the TLS exporter gives a session under a label for a generation (R328): the context names the client's slot and incarnation, the server's,
and the generation. -/
def Slot.exported (x : Slot) (label : String) (gen : Nat) : Bytes :=
  let (cs, ci, ss, si) := if x.client then (x.n, x.inc, x.peerSlot, x.peerInc) else (x.peerSlot, x.peerInc, x.n, x.inc)
  Config.tlsExport x.secret (ascii label) (beBytes 4 cs ++ beBytes 2 ci ++ beBytes 4 ss ++ beBytes 2 si ++ beBytes 1 gen)

/-- The key of a direction (0 send, 1 receive) and generation: of the 88 bytes exported, the client-to-server key and IV_BASE, then the
server-to-client ones (R328). -/
def Slot.exportedKey (x : Slot) (dir gen : Nat) : Nat × Nat :=
  let b := padTo 88 (x.exported "EXPORTER-YWP keys" gen)
  let off := if (dir == 0) == x.client then 0 else 44
  (ofBe (slice b off 32), ofBe (slice b (off + 32) 12))

/-- The positions that firmware fills at opening: generation 0 CURRENT and generation 1 PENDING of both directions (R334), where it has not placed a
key yet. -/
def State.skOpen (s : State) (slot : Nat) : State :=
  match s.ywp.slot? slot with
  | none => s
  | some x =>
    [(0, 0, 0), (1, 0, 0), (0, 1, 1), (1, 1, 1)].foldl (fun s (w : Nat × Nat × Nat) =>
      if s.cip.sk.any fun k => decide (k.slot = slot ∧ k.dir = w.1 ∧ k.pos = w.2.1) then s
      else
        let r := x.exportedKey w.1 w.2.2
        s.skPut { slot := slot, dir := w.1, pos := w.2.1, gen := w.2.2, key := r.1, iv := r.2 }) s

/-- The key-distribution key of a session slot: the one firmware placed, or the exporter's (R524). -/
def State.kdkOf (s : State) (x : Slot) : Nat :=
  ((s.cip.sk.find? fun k => decide (k.slot = x.n ∧ k.pos = 2)).map fun k => k.key).getD (ofBe ((padTo 88 (x.exported "EXPORTER-YWP keydist" 0)).take 32))

/-! ### Sending (R322, R333, R334) -/

/-- The invocation at which a rekey is needed, and the last of a direction (R334, R335). -/
def rekeyAt : Nat := 4293918720
def lastInvoc : Nat := 4294967295

/-- The send side takes its pending generation when the invocations of the present one run out (R334). -/
def State.txRekey (s : State) (n : Nat) : State :=
  match s.ywp.slot? n with
  | none => s
  | some x =>
    if x.invoc < rekeyAt then s
    else
      let s := if x.invoc = rekeyAt then s.report .rekey n else s
      if s.skHas n 0 1 ((x.txGen + 1) % 256) then
        ((s.skPromote n 0 ((x.txGen + 1) % 256)).modSlot n fun x => { x with txGen := x.txGen + 1, invoc := 0 }).fadd .ywpKeyStat_rekeys 1
      else s

/-- The traffic class of a message (R320, R413): a Town message has that of its type, requests and replies use DATA_TC. For management messages,
and for the ACK and CLOSE packets of a session that carries Town messages, the spec names none: they use DATA_TC too (DESIGN CHOICE, log entry
148). -/
def State.classFor (s : State) : Option YHead → Nat
  | some (.town m) => if m.tmsg = 0x09 ∨ m.tmsg = 0x0C then 1 else if m.tmsg = 0x0A ∨ m.tmsg = 0x0B then s.fget .ywpCtrl_dataTc else 7
  | _ => s.fget .ywpCtrl_dataTc

/-- The priority code point of a traffic class on each port (R472). -/
def State.pcpsOf (s : State) (tc : Nat) : List Nat := (List.range 9).map fun p => bits (s.reg ⟨.netTcMap, p, 0, 0⟩) (3 * tc) 3

/-- What the IP, UDP and Ethernet headers of a sent packet say (R318 to R320, R469, R472), and the UDP payload (R322, R333). -/
def State.addressed (s : State) (x : Slot) (tc : Nat) (q : YPacket) : YPacket :=
  let k := s.cip.sk.find? fun k => decide (k.slot = x.n ∧ k.dir = 0 ∧ k.pos = 0)
  let q : YPacket :=
    { q with df := true, sum := .right, ecn := if q.typ = 2 ∧ s.flag .ywpCtrl_ecnEn then 2 else 0, tc := tc, dscp := Config.dscpOf tc, pcps := s.pcpsOf tc,
             sport := 49152 + x.n % 16384, dst := x.peer, mac := x.hop }
  { q with wire := wirePacket ((k.map fun k => k.key).getD 0) ((k.map fun k => k.iv).getD 0) q }

/-- Send a protected packet of a session: header fields common to every type, and the next invocation (R322, R333). -/
def State.sendPacket (s : State) (n : Nat) (p : YPacket) : State :=
  let s := s.txRekey n
  match s.ywp.slot? n with
  | none => s
  | some x =>
    let q := { p with
      ver := x.ver, sid := x.peerSlot, inc := x.peerInc, ackPsn := x.rxNext, window := s.window x, txTs := s.wireNs, echoTs := x.echoTs,
      echoOwd := x.echoOwd, keyGen := x.txGen % 256, invoc := x.invoc }
    (s.modSlot n fun x => { x with invoc := x.invoc + 1, spoke := s.clk.cycles }).emit (.packet n (s.addressed x (if q.typ = 2 then q.tc else s.fget .ywpCtrl_dataTc) q))

/-- Send an ACK (R338, R345). -/
def State.sendAck (s : State) (n : Nat) (now : Bool) : State :=
  match s.ywp.slot? n with
  | none => s
  | some x =>
    let sack := sackOf x
    let p : YPacket := { typ := 3, psn := x.nextPsn, plen := 8 * sack.length, sack := sack, flags := b2n now + 4 * b2n x.ce }
    (s.sendPacket n p).modSlot n fun x => { x with rxUnacked := 0, ce := false }

/-! ### Slots (R330) -/

/-- The sessions held in SRAM (R331): of the slots that are not FREE the 65,536 most recently used, by the cycles of the last packet of either
direction. -/
def YwpSt.onChip (y : YwpSt) : List Slot :=
  (sortBy (fun x => max x.heard x.spoke) (y.slots.filter fun x => decide (x.state ≠ .free))).reverse.take 65536

/-- Slots in HANDSHAKE. -/
def YwpSt.handshaking (y : YwpSt) : Nat := (y.slots.filter fun x => decide (x.state = .handshake)).length

/-- The slot a new session takes: the lowest FREE one, with the incarnation it has reached; none when all are in use. -/
def YwpSt.newSlot (y : YwpSt) : Option (Nat × Nat) :=
  let n := firstFree ((y.slots.filter fun x => decide (x.state ≠ .free)).map fun x => x.n) (y.slots.length + 1) 0
  if n < 262144 then some (n, ((y.slot? n).map fun x => x.inc).getD 0) else none

/-- Put a new session in its slot. -/
def State.putSlot (s : State) (x : Slot) : State :=
  { s with ywp := { s.ywp with slots := (s.ywp.slots.filter fun y => y.n != x.n) ++ [x] } }

/-- A slot becomes FREE with the next incarnation, and its key positions are zeroed (R529). A CLOSED slot keeps its keys
until then, because it answers authenticated packets (R330; DEDUCED, log entry 45). -/
def State.freeSlot (s : State) (n : Nat) : State :=
  match s.ywp.slot? n with
  | none => s
  | some x => (s.skZero n).putSlot { n := n, state := .free, inc := (x.inc + 1) % 65536 }

/-- What a close does to the requests of a session (R354): those of the peer that are not dispatched are discarded; those of
this part are unresolved and will be reissued. -/
def State.closeRequests (s : State) (n : Nat) : State :=
  match s.ywp.slot? n with
  | none => s
  | some x =>
    let ids := x.tx.filterMap fun m => if m.stale then none else m.ctx
    let cs := updWhere (fun c => ids.contains c.id && decide (c.phase = .forwarded)) (fun (c : OpCtx) => { c with phase := .noOwner, since := s.clk.cycles }) s.kv.ctxs
    let s := { s with kv := { s.kv with ctxs := cs } }
    (s.kv.ctxs.filter fun c => !c.ponr && (match c.src with | .sess k _ => k == n | _ => false)).foldl (fun s c => s.releaseCtx c) s

/-- A slot enters CLOSED with a cause (0 stands for DEAD), with an event. -/
def State.closeSlot (s : State) (n cause : Nat) : State :=
  let s := s.closeRequests n
  let s := { s with ywp := { s.ywp with running := s.ywp.running.filter fun w => w.1 != n } }
  (s.modSlot n fun x => { x with state := .closed, cause := cause, since := s.clk.cycles, tx := [], rx := [], unacked := [] }).report .sessionClosed n cause

/-- Send CLOSE and enter CLOSED (R330, R332). -/
def State.sendClose (s : State) (n code cause : Nat) : State :=
  match s.ywp.slot? n with
  | none => s
  | some x => (s.sendPacket n { typ := 4, psn := x.nextPsn, plen := 8, cause := code }).closeSlot n cause

/-- A protocol violation by an authenticated peer (R325). -/
def State.violation (s : State) (n : Nat) : State := s.sendClose n 2 2

/-! ### The checks of a received packet (R325) -/

/-- A fragment, or a packet whose UDP checksum is wrong or, in IPv6, zero (R319). Both are counted as MALFORMED: of the checksum the spec names no
counter (DESIGN CHOICE, log entry 148). -/
def ipBad (p : YPacket) : Bool := p.frag || decide (p.sum = .wrong) || (p.v6 && decide (p.sum = .none))

/-- Checks 1 to 8 of a protected packet, after those of R319: its slot, or the counter that takes the drop. -/
def State.checkPacket (s : State) (p : YPacket) (typ : Nat) : Except Fld Slot :=
  if ipBad p ∨ p.udpLen ≠ 80 + p.plen ∨ p.typ ≠ typ ∨ p.rsvBad then .error .ywpDrop_malformed
  else
    let slot := s.ywp.slot? p.sid
    let big := match slot with | some x => decide (slotP x < p.plen) | none => decide (8960 < p.plen)
    if big then .error .ywpDrop_malformed
    else match slot with
      | none => .error .ywpDrop_noSession
      | some x =>
        if x.state = .free then .error .ywpDrop_noSession
        else if p.inc ≠ x.inc then .error .ywpDrop_staleInc
        else if p.src ≠ x.peer then .error .ywpDrop_noSession
        else if p.ver ≠ x.ver then .error .ywpDrop_version
        else if x.ver = 0 ∨ !((p.keyGen == x.gen % 256 && s.skHas x.n 1 0 p.keyGen) || (p.keyGen == (x.gen + 1) % 256 && s.skHas x.n 1 1 p.keyGen) || x.oldGen.any fun o => p.keyGen == o.1 % 256) then .error .ywpDrop_staleKey
        else if !p.authOk then .error .ywpDrop_authFail
        else .ok x

/-- The initial congestion window, and the cap of the retransmission timeout (R340, R343). -/
def State.firstCwnd (s : State) (x : Slot) : Nat := s.fget .ywpCcCtrl_initPkts * slotP x
def rtoCap : Nat := 100000000

/-- A session enters OPEN with its keys loaded (R328, R334): those firmware has not placed by SESSION_KEY_LOAD are the exporter's. The authenticated
packet that opens a client's session shows that the server has its last flight; of a server's, what is unacknowledged is sent again (R327). -/
def State.openSlot (s : State) (n : Nat) : State :=
  (s.skOpen n).modSlot n fun x => { x with state := .opened, since := s.clk.cycles, heard := s.clk.cycles, spoke := s.clk.cycles, hsOut := if x.client then [] else x.hsOut, cwnd := s.firstCwnd x, rto := rtoCap, timer := s.clk.cycles }

/-- An authenticated packet has come: a client's session opens with its first, and a packet of the pending generation makes
that generation current (R328, R334). -/
def State.authenticated (s : State) (x : Slot) (p : YPacket) : State :=
  let s := if x.state = .handshake then s.openSlot x.n else s
  let s := s.modSlot x.n fun x => { x with heard := s.clk.cycles, peerWindow := p.window }
  if p.keyGen == (x.gen + 1) % 256 && p.keyGen != x.gen % 256 && s.skHas x.n 1 1 p.keyGen then
    (((s.skPromote x.n 1 p.keyGen).modSlot x.n fun x => { x with oldGen := some (x.gen, s.clk.cycles), gen := x.gen + 1 }).fadd .ywpKeyStat_rekeys 1)
  else s

/-! ### Acknowledgement, loss and congestion (R338 to R344) -/

/-- cwnd within its bounds (R343). -/
def clampCwnd (x : Slot) (w : Nat) : Nat := max 256 (min w (min x.peerWindow 16777216))

/-- A decrease takes effect at most once per SRTT (R344). -/
def decrease (now : Nat) (w : Nat) (x : Slot) : Slot :=
  if x.cut ≠ 0 ∧ now < x.cut + nsCycles x.srtt then x else { x with cwnd := clampCwnd x w, cut := now }

/-- The timers of RFC 6298 after a sample of `r` ns (R340). -/
def State.rttSample (s : State) (x : Slot) (r : Nat) : Slot :=
  let x := if x.srtt = 0 then { x with srtt := r, rttvar := r / 2 }
    else { x with rttvar := (3 * x.rttvar + (if r < x.srtt then x.srtt - r else r - x.srtt)) / 4, srtt := (7 * x.srtt + r) / 8 }
  { x with rto := min rtoCap (max (s.fget .ywpTimerCtrl_minRtoUs * 1000) (x.srtt + 4 * x.rttvar)) }

/-- The change of cwnd that an ACK of `b` new bytes makes (R343, R344). -/
def State.ackCwnd (s : State) (x : Slot) (owd : Int) (b : Nat) (ece : Bool) : Slot :=
  let now := s.clk.cycles
  let win := s.fget .ywpCcCtrl_baseWinMs * msCycles
  let base := (x.baseOwd.filter fun o => decide (now ≤ o.1 + win)) ++ [(now, owd)]
  let least := base.foldl (fun m o => if o.2 < m then o.2 else m) owd
  let q := (owd - least).toNat
  let x := { x with baseOwd := base }
  let tgt := s.fget .ywpCcCtrl_targetNs
  let x :=
    if q < tgt then (if x.cwnd = 0 then x else { x with cwnd := clampCwnd x (x.cwnd + slotP x * b / x.cwnd) })
    else decrease now (max (x.cwnd - x.cwnd * s.fget .ywpCcCtrl_beta * (q - tgt) / (256 * q)) (x.cwnd / 2)) x
  if ece then decrease now (x.cwnd / 2) x else x

/-- R339: a packet is lost when SACK blocks cover DUP_THRESH packets sent after it. -/
def State.markLost (s : State) (x : Slot) : Slot :=
  let th := s.fget .ywpTimerCtrl_dupThresh
  let newly := x.unacked.filter fun p => !p.sacked && !p.lost && decide (th ≤ (x.unacked.filter fun q => q.sacked && after q.psn p.psn).length)
  if newly.isEmpty then x
  else
    let us := updWhere (fun p => newly.any fun q => q.psn == p.psn) (fun p => { p with lost := true }) x.unacked
    decrease s.clk.cycles (x.cwnd / 2) { x with unacked := us }

/-- Messages whose every packet is acknowledged leave the transmit side; a request waits for its reply. -/
def dropSent (x : Slot) : Slot :=
  { x with tx := x.tx.filter fun m => !m.ended || m.ctx.isSome || x.unacked.any fun p => p.msgId == m.msgId }

/-- What ACK_PSN and the SACK blocks of any protected packet acknowledge (R338 to R340). -/
def State.ackTo (s : State) (n : Nat) (p : YPacket) (isAck : Bool) : State :=
  s.modSlot n fun x =>
    let done := x.unacked.filter fun q => after p.ackPsn q.psn
    let rest := (x.unacked.filter fun q => !after p.ackPsn q.psn).map fun q =>
      if p.sack.any fun b => !after b.1 q.psn && !after q.psn b.2 then { q with sacked := true } else q
    let b := (done.map fun q => q.len).sum
    let x := { x with unacked := rest, ackedTo := if after p.ackPsn x.ackedTo then p.ackPsn else x.ackedTo, timer := if done.isEmpty then x.timer else s.clk.cycles }
    let x := if isAck && p.echoTs != 0 then s.rttSample x ((s.wireNs + 2 ^ 64 - p.echoTs) % 2 ^ 64) else x
    let x := if isAck then s.ackCwnd x (toSigned 32 p.echoOwd) b (bitAt p.flags 2) else x
    dropSent (s.markLost x)

/-! ### Messages out (R335, R347, R348) -/

/-- Key bytes that a message's head segment carries. -/
def headKey : YHead → Nat
  | .request d _ _ _ _ _ _ => d.klen
  | _ => 0

/-- Open messages of a direction: started and not ended (R347); a request ends with its reply (R351). -/
def openMsgs (x : Slot) : Nat := (x.tx.filter fun m => m.started && (!m.ended || m.ctx.isSome)).length

/-- A reply: its invocations were reserved when its request was taken, or it is one packet (R335). -/
def isReply : YHead → Bool
  | .reply _ _ _ _ _ _ _ _ => true
  | _ => false

/-- The next segment of a message: offset, body bytes, payload length, whether it is the head (R348). -/
def nextSeg (p : Nat) (m : TxMsg) : Nat × Bytes × Nat × Bool :=
  if m.started then let b := slice m.body m.sent p; (m.sent, b, b.length, false)
  else let b := m.body.take (p - 64 - headKey m.head); (0, b, 64 + headKey m.head + b.length, true)

/-- Send one new segment of the first message that has one and may start (R335, R347), within cwnd and WINDOW (R342). -/
def State.sendNew (s : State) (n : Nat) : Option State := do
  let x ← s.ywp.slot? n
  let inflight := (x.unacked.map fun p => p.len).sum
  let m ← x.tx.find? fun m => !m.ended && (m.started || (decide (openMsgs x < 1024)
    && (decide (m.res ≠ 0) || isReply m.head || !s.cipherFull x (segCount (slotP x) (headKey m.head) m.body.length))))
  let quiet := isReply m.head
  let (off, b, len, hd) := nextSeg (slotP x) m
  if min (max x.cwnd len) x.peerWindow < inflight + len then none
  else
    let all := decide (off + b.length = m.body.length)
    let res := if m.started ∨ m.res ≠ 0 ∨ quiet then m.res else s.reserveFor (segCount (slotP x) (headKey m.head) m.body.length)
    let pk : TxPkt := { psn := x.nextPsn, msgId := m.msgId, off := off, len := len, sentAt := s.clk.cycles, head := hd }
    let p : YPacket := { typ := 2, flags := 8 * b2n hd, psn := x.nextPsn, plen := len, msgId := m.msgId, valOff := off, tc := s.classFor (some m.head), head := if hd then some m.head else none, bytes := b }
    let s := s.sendPacket n p
    some (s.modSlot n fun x =>
      { x with nextPsn := (x.nextPsn + 1) % 2 ^ 32, unacked := x.unacked ++ [pk], timer := if x.unacked.isEmpty then s.clk.cycles else x.timer,
               tx := updWhere (fun t => t.msgId == m.msgId) (fun t => { t with started := true, sent := off + b.length, ended := all, res := res }) x.tx })

/-- Retransmit a packet: same PSN and bytes, RETX set, new INVOC and TX_TS (R336). -/
def State.resend (s : State) (n : Nat) (k : TxPkt) (ackNow : Bool) : State :=
  match s.ywp.slot? n with
  | none => s
  | some x =>
    let m := x.tx.find? fun m => m.msgId == k.msgId
    let h := m.map fun m => m.head
    let len := if k.head then k.len - 64 - (h.map headKey).getD 0 else k.len
    let p : YPacket :=
      { typ := 2, flags := 2 + 8 * b2n k.head + b2n ackNow, psn := k.psn, plen := k.len, msgId := k.msgId, valOff := k.off, tc := s.classFor h,
        head := if k.head then h else none, bytes := slice ((m.map fun m => m.body).getD []) k.off len }
    (s.sendPacket n p).modSlot n fun x =>
      { x with unacked := updWhere (fun q => q.psn == k.psn) (fun q => { q with lost := false, retx := q.retx + 1, sentAt := s.clk.cycles }) x.unacked }

/-- One packet of the pacer: a lost packet ahead of new data (R339, R346). -/
def State.paceOne (s : State) (n : Nat) : State :=
  match s.ywp.slot? n with
  | none => s
  | some x =>
    match x.unacked.find? fun p => p.lost with
    | some k => s.resend n k false
    | none => (s.sendNew n).getD s

/-! ### Messages in (R348 to R351) -/

/-- The body of a complete message. -/
def RxMsg.body (m : RxMsg) : Bytes := m.segs.foldl (fun acc p => overlay acc p.1 p.2) []

/-- A segment breaks the grid of R348, or reaches past the body. The grid of a head whose KLEN is above the limit is not
checked (R359), nor that of a block of a reserved class. -/
def gridBad (p : Nat) (h : Option YHead) (k : YPacket) : Bool :=
  match k.head, h with
  | some (.request d key rb rq ep fl rsv), _ =>
    let hd := YHead.request d key rb rq ep fl rsv
    decide (d.klen ≤ 1024) &&
      (decide (k.valOff ≠ 0) || decide (key.length ≠ d.klen) || decide (k.plen ≠ 64 + d.klen + k.bytes.length)
        || decide (k.bytes.length ≠ min (bodyLen hd) (p - 64 - d.klen)))
  | some (.town _), _ | some .unknown, _ => decide (k.valOff ≠ 0)
  | none, some (.town _) => decide (k.plen ≠ k.bytes.length)
  | some hd, _ => decide (k.valOff ≠ 0) || decide (k.plen ≠ 64 + k.bytes.length) || decide (k.bytes.length ≠ min (bodyLen hd) (p - 64))
  | none, some hd =>
    let h0 := min (bodyLen hd) (p - 64 - headKey hd)
    decide (k.plen ≠ k.bytes.length) || decide (bodyLen hd ≤ k.valOff) || decide (k.valOff < h0) || decide ((k.valOff - h0) % p ≠ 0)
      || decide (k.bytes.length ≠ min p (bodyLen hd - k.valOff))
  | none, none => decide (k.plen ≠ k.bytes.length)

/-- What an initiator keeps of staged values at other owners (R79, R82): the handle that a STAGE_OPEN gave, until it is closed or unknown. -/
def State.awayReply (s : State) (c : OpCtx) (status rlen : Nat) : State :=
  let d := c.desc
  let drop := fun (s : State) (h : Nat) => ({ s with kv := { s.kv with away := s.kv.away.filter fun v => !(v.handle == h && v.tenant == c.tenant) } } : State)
  if d.opc = opStageOpen ∧ status = stOk then
    let s := drop s rlen
    { s with kv := { s.kv with away := s.kv.away ++ [⟨rlen, c.tenant, d.ksp, keyOf d c.fx, c.dest⟩] } }
  else if (d.opc = opStageData ∧ status = stStageUnknown) ∨ ((d.opc = opStagePublish ∨ d.opc = opStageDiscard) ∧ (status = stOk ∨ status = stStageUnknown)) then
    drop s (handleOf d)
  else s

/-- The messages of an operation are taken back: a reply that still comes is discarded (R95, R388). -/
def State.staleMsgs (s : State) (id : Nat) : State :=
  let slots := s.ywp.slots.map fun x => { x with tx := updWhere (fun t => t.ctx == some id) (fun t => { t with stale := true }) x.tx }
  { s with ywp := { s.ywp with slots := slots } }

/-- The later operations of the same ring on a key of `c` that have been sent are taken back, to be sent again after it (R95). -/
def State.recallLater (s : State) (c : OpCtx) : State :=
  (s.kv.ctxs.filter fun e => decide (c.id < e.id ∧ e.phase = .forwarded) && sameSrc e.src c.src && s.kspOf e.desc == s.kspOf c.desc
      && (s.keysOf e).any fun k => (s.keysOf c).contains k).foldl
    (fun s e => (s.staleMsgs e.id).modCtx e.id fun e => { e with phase := .noOwner, since := s.clk.cycles }) s

/-- R107 lists MOVED for the opcode: an operation of another opcode is always sent on, whatever its NOREDIR says. -/
def mayMove (o : Nat) : Bool := decide (1 ≤ o ∧ o ≤ 0x0C)

/-- A reply at an initiator (R31, R96, R388): a forwarded operation ends, or is sent again after MOVED, with the newer map
fetched first; the last MOVED that MAX_REDIR allows ends it. -/
def State.replyArrived (s : State) (n : Nat) (m : TxMsg) (status rlen rstamp origin : Nat) (body : Bytes) : State :=
  let s := s.modSlot n fun x => dropSent { x with tx := updWhere (fun t => t.msgId == m.msgId) (fun (t : TxMsg) => { t with ctx := none, ended := true }) x.tx }
  match (if m.stale then none else m.ctx.bind s.kv.ctx?) with
  | none => s
  | some c =>
    if status = stMoved ∧ !(noRedir c.desc && mayMove c.desc.opc) then
      if s.fget .twnRetryCtrl_maxRedir ≤ c.redirs + 1 then s.fail c stPeerUnreachable
      else
      let s := if s.town.epoch < rstamp then s.sendTown (s.town.hall % 16384) { tmsg := 0x08 } else s
      let s := s.recallLater c
      s.modCtx c.id fun c => { c with phase := .noOwner, redirs := c.redirs + 1, minEpoch := rstamp, since := if c.redirs = 0 then s.clk.cycles else c.since }
    else if c.desc.opc = opScan ∧ (status = stOk ∨ status = stTruncated) then s.scanReply c status rlen body
    else (s.awayReply c status rlen).finish c { status := status, rlen := rlen, rstamp := rstamp, origin := origin } [(0, body)]

/-- A FIELD_INVALID that a request's operation block gives (R51, R52, R84, R89): it comes before a length limit (R105). -/
def State.headField (s : State) (d : Desc) (key : Bytes) : Bool :=
  fieldBad false (if d.opc = opBatch then { d with vlen := 0 } else d) || cursorBad { d with key40 := padTo 40 key } {}
    || ((isRead d.opc || d.opc == opScan) && decide (d.snap ≠ 0 ∧ s.nowUs + 1000 < d.snap / 4096))

/-- The refusal of a request that its operation block alone gives (R105, R356 to R359): version, reserved fields, opcode, key and
value lengths. -/
def State.headRefused (s : State) (x : Slot) (h : YHead) : Option Nat :=
  match h with
  | .unknown => some stFieldInvalid
  | .request d key _ _ _ _ rsv =>
    let o := d.opc
    firstStatus
      [(x.ver == 1 && decide ((opStageOpen ≤ o ∧ o ≤ opStageDiscard) ∨ o = opSnapOpen ∨ o = opSnapClose), stVersion),
       (!isData o, stOpcodeInvalid), (rsv, stFieldInvalid), (lengthBad d && s.headField d key, stFieldInvalid), (hasKey o && (d.klen == 0 || decide (1024 < d.klen)), stLengthLimit),
       (decide (d.vlen > 33554432) && o == opBatch, stBatchTooLarge), (lengthBad d, stLengthLimit)]
  | _ => none

/-- A one-packet reply to a request that no pipeline sees (R335, R359); the rest of the request is discarded. -/
def State.quickReply (s : State) (n msgId : Nat) (h : YHead) (st : Nat) : State :=
  let (opc, rq) := match h with | .request d _ _ rq _ _ _ => (d.opc, rq) | _ => (0, 0)
  (s.sendMsg n (.reply opc st 0 0 0 0 msgId rq) [] none).modSlot n (endRx msgId)

/-- A message has arrived, or its head has: a complete reply, a message without the right of R329 and a request that its
operation block refuses are dealt with at once; the rest waits to be taken. -/
def State.takeMsg (s : State) (x : Slot) (m : RxMsg) : State :=
  let n := x.n
  let drop := fun (s : State) => s.modSlot n (endRx m.msgId)
  match m.head with
  | none => s
  | some .unknown => s.quickReply n m.msgId .unknown stFieldInvalid
  | some (.town _) => if x.member ∧ x.tenant = 0 then drop s else (drop s).ydrop .ywpDrop_classDenied
  | some (.mgmt _ _ _) => if !x.mgmt then (drop s).ydrop .ywpDrop_classDenied else s
  | some (.reply _ st rlen dlen rst org rm _) =>
    (match x.tx.find? fun t => t.msgId == rm && t.ctx.isSome with
    | none => s.violation n
    | some t =>
      let rbuf := match t.head with | .request _ _ r _ _ _ _ => r | _ => 0
      if rbuf < dlen then s.violation n
      else if m.complete then (drop s).replyArrived n t st rlen rst org (m.body.take dlen)
      else s)
  | some (.request d key rbuf rq ep floor rsv) =>
    let h := YHead.request d key rbuf rq ep floor rsv
    let s := { s with ywp := { s.ywp with records := s.ywp.records.filter fun r => !(r.identity == x.identity && decide (r.reqNo < floor)) } }
    (match s.headRefused x h with | some st => s.quickReply n m.msgId h st | none => s)

/-- A segment has been accepted: it is placed at its offset (R348, R351). -/
def State.placeSeg (s : State) (n : Nat) (p : YPacket) : State :=
  match s.ywp.slot? n with
  | none => s
  | some x =>
    match x.rx.find? fun m => m.msgId == p.msgId with
    | none =>
      if p.msgId = 0 ∨ after x.rxOpenFrom p.msgId ∨ 1024 ≤ (x.rx.filter fun m => !m.ended).length ∨ gridBad (slotP x) p.head p then s.violation n
      else
        let m : RxMsg := { msgId := p.msgId, head := p.head, segs := [(p.valOff, p.bytes)], got := p.bytes.length }
        (s.modSlot n fun x => { x with rx := x.rx ++ [m], rxQueue := x.rxQueue + p.bytes.length, used := s.clk.cycles }).takeMsg x m
    | some m =>
      let h := p.head.orElse fun _ => m.head
      if m.ended then
        s.modSlot n fun x => endRx p.msgId { x with rx := updWhere (fun r => r.msgId == p.msgId) (fun r => { r with got := r.got + p.bytes.length }) x.rx }
      else if gridBad (slotP x) h p ∨ (p.head.isSome ∧ m.head.isSome) ∨ (p.head.isSome ∧ m.segs.any fun q => gridBad (slotP x) h { typ := 2, plen := q.2.length, valOff := q.1, bytes := q.2 }) then s.violation n
      else
        let m' := { m with head := h, segs := m.segs ++ [(p.valOff, p.bytes)], got := m.got + p.bytes.length }
        (s.modSlot n fun x =>
          { x with rx := updWhere (fun r => r.msgId == p.msgId) (fun _ => m') x.rx, rxQueue := x.rxQueue + p.bytes.length, used := s.clk.cycles }).takeMsg x m'

end Sys2Proof.Machine
end

