-- ==== Sys2Proof/Machine/AdminOps.lean ====
section
/-!
DEFINITION. What every admin command shares (R151, R152, R777): its arrival at an admin ring, its turn, and the checks before
its own.
-/

namespace Sys2Proof.Machine

/-- The codes of R152. -/
def opIdentify : Nat := 0x80
def opKspCreate : Nat := 0x81
def opKspDelete : Nat := 0x82
def opKspQuery : Nat := 0x83
def opSetPower : Nat := 0x84
def opGetHealth : Nat := 0x85
def opStateDump : Nat := 0x86
def opUpdChunk : Nat := 0x88
def opUpdQuery : Nat := 0x89
def opUpdConfirm : Nat := 0x8A
def opTown : Nat := 0x8B
def opLedgerSet : Nat := 0x8C
def opEventClear : Nat := 0x8D

/-- R151, R129: FLG, KLEN and bytes 16 to 39 of an admin descriptor must be 0, and so must the parameter bytes from `from_`
on, which the opcode does not define. -/
def adminBad (d : Desc) (from_ : Nat) : Bool :=
  decide (d.flg ≠ 0) || decide (d.klen ≠ 0) || decide (d.offset ≠ 0) || decide (d.cond ≠ 0) || decide (d.snap ≠ 0) || !paramZeroFrom d from_

/-- The admin opcodes that take a value SGL. -/
def adminValue (opc : Nat) : Bool := opc == opUpdChunk || opc == opLedgerSet || opc == opEventClear

/-- The statuses of R777 that come before the opcode's own: a failed fetch, a PF-only opcode on a VF, a bad field, a bad SGL
or a result SGL under `need` bytes. An SGL that the opcode does not use is ignored whole (R132, R306). -/
def adminRefused (c : OpCtx) (pfOnly bad : Bool) (need : Nat) : Option Nat :=
  let d := c.desc
  let v := valueSgl d c.fx
  let r := resultSgl d c.fx
  let useV := adminValue d.opc
  let useR := decide (0 < need)
  firstStatus
    [(c.fx.fault, stInternalFault), (pfOnly && decide (c.tenant ≠ 0), stAccessDenied),
     (bad || (useV && decide (d.vsglCnt ≤ 4096) && sglRsv v) || (useR && decide (d.rsglCnt ≤ 4096) && sglRsv r), stFieldInvalid),
     ((useV && (sglBad d.vsglCnt d.vsglPtr d.vsglInl v || decide (sglLen v < d.vlen))) || (useR && (sglBad d.rsglCnt d.rsglPtr d.rsglInl r || decide (sglLen r < need))), stSglInvalid)]

/-- An admin command begins to execute (R143): it is refused by the common checks, or runs. -/
def State.adminRun (s : State) (c : OpCtx) (pfOnly bad : Bool) (need : Nat) (f : State → OpCtx → State) : State :=
  match adminRefused c pfOnly bad need with
  | some st => s.fail c st
  | none =>
    let c' : OpCtx := { c with ponr := true, phase := .admin, since := s.clk.cycles }
    f (s.modCtx c.id fun _ => c') c'

/-- An earlier command of the same admin ring has not completed (R151). -/
def State.adminBusy (s : State) (c : OpCtx) : Bool := s.kv.ctxs.any fun e => decide (e.src = c.src ∧ e.id < c.id)

/-- An admin command arrives at function `f`'s admin ring with everything fetched (R151): it runs at once, or waits for its
turn. -/
def State.adminArrive (s : State) (op f : Nat) (d : Desc) (x : Fetched) (run : State → OpCtx → State) : State :=
  if s.mayFetch f 64 then
    let c := s.ringCtx f 64 { d with opc := op } x .held
    let s := s.fetchOne f 64 { d with opc := op } x .held
    if s.adminBusy c then s else run s c
  else s

/-- A record to the result SGL: OK, with RLEN its length (R54). -/
def State.adminRecord (s : State) (c : OpCtx) (b : Bytes) : State := s.finish c { status := stOk, rlen := b.length } [(0, b)]

end Sys2Proof.Machine
end

