-- ==== Sys2Proof/Machine/CipherOps.lean ====
section
/-!
DEFINITION. The cipher block (R509 to R545): key check values, tenant key pages, the DRBG, and the latch of a wide register.
-/

namespace Sys2Proof.Machine

/-! ### Key check values (R513) -/

/-- The `n` bytes of a key, lowest first. -/
def keyBytes : Nat → Nat → List Nat
  | 0, _ => []
  | n + 1, k => k % 256 :: keyBytes n (k / 256)

/-- The KCV of a key of `n` bytes: the first 4 bytes of SHA-384 over "TF-KCV:" and the key, little-endian. -/
def kcvOf (n key : Nat) : Nat :=
  let h := Config.sha384 ([0x54, 0x46, 0x2D, 0x4B, 0x43, 0x56, 0x3A] ++ keyBytes n key)
  bits h 376 8 + 256 * bits h 368 8 + 65536 * bits h 360 8 + 16777216 * bits h 352 8

/-! ### Tenant key pages (R516 to R523) -/

/-- The tenant root key of a page. -/
def State.trkOf (s : State) (t : Nat) : Option Nat := (s.cip.trks.find? fun k => k.1 == t).map fun k => k.2

/-- The key in a slot. -/
def State.keyIn (s : State) (t slot : Nat) : Option SlotKey := s.cip.keys.find? fun k => k.tenant == t && k.slot == slot

/-- A keyspace names a slot (R537). -/
def namesSlot (t slot : Nat) (k : Keyspace) : Bool := !k.reclaiming && k.tenant == t && k.slot == slot

/-- Check 5 of R517: every bound KCV of the keyspaces that name the slot equals the new key's. -/
def State.kcvFits (s : State) (t slot kcv : Nat) : Bool :=
  s.kv.keyspaces.all fun k => !namesSlot t slot k || k.kcv.all fun b => b == kcv

/-- Set or clear a page's tenant root key, with what CIP_KP_STAT says of it. -/
def State.setTrk (s : State) (t : Nat) (k : Option Nat) : State :=
  let rest := s.cip.trks.filter fun x => x.1 != t
  let s := { s with cip := { s.cip with trks := match k with | some v => rest ++ [(t, v)] | none => rest } }
  (s.fput .cipKpStat_trkLoaded (b2n k.isSome) t).fput .cipKpStat_trkKcv ((k.map fun v => kcvOf 32 v).getD 0) t

/-- A slot takes a key: it is LOADED with its KCV; the usage counters stay for the same key and else start at 0 (R517, R528). -/
def State.putKey (s : State) (t slot key wrapped : Nat) (dist : Bool) : State :=
  let same := (s.keyIn t slot).any fun k => k.key == key
  let k : SlotKey := { tenant := t, slot := slot, key := key, wrapped := wrapped }
  let s := { s with cip := { s.cip with keys := (s.cip.keys.filter fun (k : SlotKey) => !(k.tenant == t && k.slot == slot)) ++ [k] } }
  let s := s.setReg (Fld.at .cipKpSlotStat_loaded t slot 0) (1 + 2 * b2n dist + 2 ^ 32 * kcvOf 64 key)
  if same then s else s.setReg (Fld.at .cipKpUse_enc t slot 0) 0

/-- A slot is zeroed. -/
def State.dropKey (s : State) (t slot : Nat) : State :=
  let s := { s with cip := { s.cip with keys := s.cip.keys.filter fun k => !(k.tenant == t && k.slot == slot) } }
  (s.setReg (Fld.at .cipKpSlotStat_loaded t slot 0) 0).setReg (Fld.at .cipKpUse_enc t slot 0) 0

/-- R518: the first key loaded after a keyspace's creation binds it, on the part whose load binds; in a Town the next epoch
publishes it. -/
def State.bindKey (s : State) (t slot kcv : Nat) : State :=
  let hit := fun (k : Keyspace) => namesSlot t slot k && k.kcv.isNone
  let new := (s.kv.keyspaces.filter hit).map fun k => k.ksp
  { s with
    kv := { s.kv with keyspaces := updWhere hit (fun k => { k with kcv := some kcv }) s.kv.keyspaces }
    cip := { s.cip with bound := if s.isMember then s.cip.bound ++ new else s.cip.bound } }

/-- Reads that were dispatched before a clear and still need a flash data unit of the slot end with KEY_SLOT_EMPTY (R519). -/
def State.emptyReads (s : State) (t slot : Nat) : State :=
  let hit := fun (c : OpCtx) =>
    decide (c.phase = .reading) && !c.need.isEmpty && !isMut c.desc.opc && (s.ksp? (s.kspOf c.desc)).any fun k => namesSlot t slot k
  (s.kv.ctxs.filter hit).foldl (fun s c => s.fail c stSlotEmpty) s

/-- Close the YWP sessions bound to a tenant with cause TENANT_GONE (R332). -/
def State.closeTenant (s : State) (t : Nat) : State :=
  (s.ywp.slots.filter fun x => decide (x.state = .opened) && !x.member && x.tenant == t).foldl (fun s x => s.sendClose x.n 5 5) s

/-- Zero a page: the TRK and all 64 slots (R519, R522). -/
def State.zeroPage (s : State) (t : Nat) : State :=
  let s := (s.cip.keys.filter fun k => k.tenant == t).foldl (fun s k => s.dropKey t k.slot) s
  s.setTrk t none

/-- CLEAR_ALL (R519): the page is zeroed, reads that needed it end, and the tenant's sessions close. -/
def State.clearPage (s : State) (t : Nat) : State :=
  let ks := (s.cip.keys.filter fun k => k.tenant == t).map fun k => k.slot
  let s := s.zeroPage t
  (ks.foldl (fun s k => s.emptyReads t k) s).closeTenant t

/-- Zero every page (R522). -/
def State.zeroPages (s : State) : State :=
  ((s.cip.keys.map fun k => k.tenant) ++ s.cip.trks.map fun k => k.1).eraseDups.foldl (fun s t => s.zeroPage t) s

/-- Checks 4 and 5 of R517 on a key: 0, or the RESULT. -/
def State.keyCheck (s : State) (t slot key : Nat) : Nat :=
  if key % 2 ^ 256 = key / 2 ^ 256 % 2 ^ 256 then 4 else if !s.kcvFits t slot (kcvOf 64 key) then 5 else 0

/-- A key page command of function `f` finishes with RESULT (R521, R536): the TRK and WRAP registers are zeroed, and a result
other than OK is counted and recorded. -/
def State.pageDone (s : State) (f op result : Nat) : State :=
  let s := (s.setReg ⟨.cipKpTrk, f, 0, 0⟩ 0).setReg ⟨.cipKpWrap, f, 0, 0⟩ 0
  let s := ((s.fput .cipKpStat_result result f).fput .cipKpStat_lastOp op f).fput .cipKpStat_done 1 f
  if result = 0 then s else (s.fadd .cipErr_loadRefused 1).report .keyLoadRefused f result

/-- A key page is reachable: its function exists and the host side runs. -/
def State.pageOn (s : State) (f : Nat) : Bool := s.ready && decide (s.power.pstate ≠ 3) && !s.host.perst && s.funcExists f

/-- The part takes key page commands: it stands alone or is the acting Hall (R523). -/
def State.keysHere (s : State) : Bool := decide (s.town.role = 0 ∨ s.town.role = 2)

/-! ### The DRBG (R532, R533) -/

/-- One generate request, of a free value: it reseeds after RESEED_REQS requests. None while the DRBG is not instantiated. -/
def State.draw (s : State) : Option (Nat × State) :=
  if !s.flag .cipDrbgStat_ready then none
  else
    let r := s.fresh
    let s := r.2
    let n := s.cip.requests + 1
    some (r.1, if s.fget .cipDrbgCtrl_reseedReqs ≤ n then { s with cip := { s.cip with requests := 0 } }.fadd .cipDrbgStat_reseeds 1
      else { s with cip := { s.cip with requests := n } })

/-- The DRBG is instantiated after the start-up test of R531. -/
def State.drbgStart (s : State) : State := ({ s with cip := { s.cip with requests := 0 } }.fput .cipDrbgStat_ready 1).fput .cipDrbgStat_failed 0

/-! ### Latches (R754) -/

/-- Keep a copy of a wide register for one requester's reads of its later words. -/
def State.latch (s : State) (who : Requester) (key : RegKey) (v : Nat) : State :=
  { s with latches := (s.latches.filter fun l => !decide (l.who = who ∧ l.key = key)) ++ [⟨who, key, v⟩] }

end Sys2Proof.Machine
end

