-- ==== Sys2Proof/Machine/Codeword.lean ====
section
/-!
DEFINITION. The bytes of what lies on flash: records (R256), leaves and directory entries (R180, R182, R183), segments (R261), block summaries
(R262), and codewords as programmed (R240 to R243) with the parity pages over them (R251).
-/

namespace Sys2Proof.Machine

/-! ### Records, leaves, segments, summaries -/

/-- RKIND of a record (R256). -/
def recordKind : ItemKind → Nat
  | .value => 1
  | .extents => 2
  | .tombstone => 3
  | .extent | .leaf | .segment | .summary => 0

/-- BODY of a record: the value, or the address of each extent of an extent map (R256). -/
def recordBody (i : Item) : Bytes :=
  match i.kind with
  | .value => i.data
  | .extents => (List.range ((i.vlen + 1048575) / 1048576)).flatMap fun n => leBytes 8 (((i.extents.find? fun e => e.1 == n).map fun e => e.2).getD 0)
  | _ => []

/-- A record as it is written: header with DCHECK and HCHECK, key, body, and zeros to 16 bytes (R256). -/
def recordBytes (i : Item) : Bytes :=
  let after := i.key ++ recordBody i
  let h := packLe 44 [(0, 32, 0x52454344), (32, 8, recordKind i.kind), (40, 1, b2n i.staged), (48, 16, i.key.length), (64, 64, i.stamp), (128, 14, i.origin),
    (144, 16, i.ksp), (160, 32, i.vlen), (192, 64, i.pred), (256, 64, i.predStamp), (320, 32, crc32c after)]
  padMul 16 (h ++ leBytes 4 (crc32c h) ++ after)

/-- A leaf entry (R183). -/
def leafEntryBytes (e : LeafEntry) : Bytes :=
  packLe 40 [(0, 128, e.digest), (128, 64, e.loc), (192, 64, e.stamp), (256, 32, e.vlen), (288, 16, e.ksp), (304, 14, e.origin), (318, 1, b2n e.tomb), (319, 1, b2n e.staged)]

/-- One leaf codeword of a bucket (R182): header and entry slots, with the address of the overflow leaf that follows, or 0. -/
def leafCw (l : Leaf) (es : List LeafEntry) (more : Bool) (next : Nat) : Bytes :=
  packLe 256 [(0, 32, 0x4C454146), (32, 20, l.ward), (52, 6, l.ldepth), (64, 38, l.pfx), (128, 8, es.length), (136, 1, b2n more), (192, 64, l.seq),
    (256, 64, next)] ++ padTo 3840 (es.flatMap leafEntryBytes)

/-- A bucket's leaf and its overflow leaves, 96 entries to each, the overflow leaves at the addresses given (R182, R186). -/
def leafChain (l : Leaf) (es : List LeafEntry) (next : List Nat) : Bytes :=
  (List.range (1 + (es.length - 1) / 96)).flatMap fun k =>
    leafCw l ((es.drop (96 * k)).take 96) (decide (96 * (k + 1) < es.length)) (if 96 * (k + 1) < es.length then next.getD k 0 else 0)

/-- A leaf chain that is copied names its overflow leaves where the copy has them. -/
def relinkLeaf (next : List Nat) (d : Bytes) : Bytes :=
  ((List.range next.length).zip next).foldl (fun d x => if 4096 * (x.1 + 1) < d.length then overlay d (4096 * x.1 + 32) (leBytes 8 x.2) else d) d

/-- A directory entry of a segment (R180): the leaf that covers the paths whose top GDEPTH bits equal `i`; 0 where the bucket holds no key. A leaf
that holds keys and has no copy on flash yet has no address: its entry shows LEAF_ADDR 0 with its LDEPTH (DESIGN CHOICE, log entry 166). -/
def IndexSt.dirEntry (x : IndexSt) (r : WardRoot) (i : Nat) : Nat :=
  match x.leaves.find? fun l => l.ward == r.ward && decide (l.ldepth ≤ r.gdepth) && l.pfx == i / 2 ^ (r.gdepth - l.ldepth) with
  | some l => if l.entries.isEmpty then 0 else packNat [(0, 58, l.addr), (58, 6, l.ldepth)]
  | none => 0

/-- A segment as SEGMENT codewords: each with its Ward, the index of its first entry, and 511 entries (R261). -/
def IndexSt.segmentBytes (x : IndexSt) (r : WardRoot) : Bytes :=
  (List.range ((2 ^ r.gdepth + 510) / 511)).flatMap fun k =>
    padTo 4096 (packLe 8 [(0, 20, r.ward), (20, 38, 511 * k)] ++ (List.range (min 511 (2 ^ r.gdepth - 511 * k))).flatMap fun i => leBytes 8 (x.dirEntry r (511 * k + i)))

/-- The records that begin in a block, in write order (R262): pages in order, and in each page its codewords. -/
def State.recordsIn (s : State) (lun blk : Nat) : List Item :=
  sortBy (fun i => i.addr % 2 ^ 23) (s.media.items.filter fun i =>
    decide (i.kind = .value ∨ i.kind = .extents ∨ i.kind = .tombstone) && addrLun i.addr == lun && addrBlk i.addr == blk)

/-- The summary of a block: one entry for each record that begins in it (R262). -/
def State.summaryBytes (s : State) (lun blk : Nat) : Bytes := (s.recordsIn lun blk).flatMap fun i => leafEntryBytes (entryOf (s.digest i.ksp i.key) i)

/-- The plain bytes of an item from its first unit on: of a record its image, of the others what was written. -/
def itemBytes (i : Item) : Bytes :=
  match i.kind with
  | .value | .extents | .tombstone => recordBytes i
  | .extent | .leaf | .segment | .summary => i.data

/-! ### Codewords (R240 to R243) -/

/-- CW_KIND of an item's codewords (R241). -/
def cwKind : ItemKind → Nat
  | .value | .extents | .tombstone => 1
  | .leaf => 2
  | .segment => 3
  | .summary => 4
  | .extent => 5

/-- Codeword metadata up to CHECK (R241). -/
def cwHead (kind keysel ksp wseq a : Nat) : Bytes := packLe 24 [(0, 8, kind), (8, 8, keysel), (16, 16, ksp), (64, 64, wseq), (128, 58, a)]

/-- A codeword (R240): ciphertext of one 4,096-byte data unit under the key given with the address as tweak (R243), metadata with CHECK, parity, and
fill to C bytes. -/
def codeword (g : Geometry) (kind keysel ksp wseq a key : Nat) (plain : Bytes) : Bytes :=
  let x := padTo 4096 (Config.xts key a (padTo 4096 plain))
  let h := cwHead kind keysel ksp wseq a
  let d := x ++ h ++ leBytes 4 (crc32c (x ++ h)) ++ leBytes 4 0
  d ++ padTo g.parityBytes (Config.ldpc g.parityBytes d) ++ List.replicate (g.cwBytes - 4128 - g.parityBytes) 255#8

/-- A codeword of an erased page. -/
def erasedCw (g : Geometry) : Bytes := List.replicate g.cwBytes 255#8

/-- A codeword of a region whose content the spec does not lay out, under a media key (R243). -/
def MediaSt.regionCw (m : MediaSt) (kind keysel wseq a : Nat) : Bytes := codeword m.geom kind keysel 0 wseq a (Config.mediaKey keysel) (Config.regionData kind a)

/-- The key under which an item's codewords are encrypted: that of its keyspace's slot, or the system media key (R243). -/
def State.itemKey? (s : State) (i : Item) : Option Nat :=
  match i.kind with
  | .value | .extents | .tombstone | .extent => (s.ksp? i.ksp).bind fun k => (s.cip.keys.find? fun x => x.tenant == k.tenant && x.slot == k.slot).map fun x => x.key
  | .leaf | .segment | .summary => some (Config.mediaKey 1)

/-- The items that have bytes in the codeword at position `p` (in units) of a set. -/
def State.itemsIn (s : State) (t : TSet) (p : Nat) : List Item :=
  s.media.items.filter fun i => i.wseq == t.wseq && (let q := setPos s.media.geom t i.addr; decide (q < p + 256 ∧ p < q + i.units))

/-- The plain bytes of the codeword at position `p` of a set: of each item what falls in it, and zeros elsewhere. -/
def State.cwPlain (s : State) (t : TSet) (p : Nat) : Bytes :=
  (s.itemsIn t p).foldl (fun d i =>
    let q := setPos s.media.geom t i.addr
    let x := padTo (16 * i.units) (itemBytes i)
    if p ≤ q then padTo 4096 (overlay d (16 * (q - p)) x) else padTo 4096 (overlay d 0 (x.drop (16 * (p - q))))) (padTo 4096 [])

/-- The codeword at position `p` of a set as programmed: of its items, or a PAD codeword. The ciphertext of items whose key is not held now is
free (log entry 157). -/
def State.dataCw (s : State) (t : TSet) (p : Nat) : Bytes :=
  let a := setAddr s.media.geom t p
  match (s.itemsIn t p).head? with
  | none => s.media.regionCw 10 1 t.wseq a
  | some i =>
    let sel := if (match i.kind with | .leaf | .segment | .summary => true | _ => false) then 1 else 2
    codeword s.media.geom (cwKind i.kind) sel (if sel = 2 then i.ksp else 0) t.wseq a ((s.itemKey? i).getD (Config.lostKey a)) (s.cwPlain t p)

/-- Bytewise XOR. -/
def xorBytes (a b : Bytes) : Bytes := (a.zip b).map fun x => x.1 ^^^ x.2

/-- The codeword `cw` of the parity page of Terrace `k`: the XOR of those of the data pages given (R251). -/
def State.parityCw (s : State) (t : TSet) (pages : List Nat) (cw : Nat) : Bytes :=
  pages.foldl (fun x p => xorBytes x (s.dataCw t ((p * s.media.geom.cwpp + cw) * 256))) (padTo s.media.geom.cwBytes [])

/-- The data pages of Terrace `k` of a set. -/
def TSet.terracePages (t : TSet) (k : Nat) : List Nat := (List.range t.blocks.length).map fun i => k * t.blocks.length + i

/-- The scratch page at an address, with the set and Terrace whose parity it holds. -/
def MediaSt.parityAt (m : MediaSt) (a : Nat) : Option (Nat × Nat) :=
  (m.scratch.find? fun b => b.lun == addrLun a && b.blk == addrBlk a).bind fun b => (b.held.find? fun h => h.2.2 == addrPage a).map fun h => (h.1, h.2.1)

/-- The LUN's block is of its label, a Cask copy or a copy of the map region: its CW_KIND (R241, R245). -/
def MediaSt.regionKind (m : MediaSt) (lun blk : Nat) : Option Nat :=
  if blk = 0 then some 11 else if blk < m.sysBlocks lun then some (if caskLun lun then 8 else 9) else none

/-- A codeword of a Cask copy (R658): the first good block is its header area, and piece `i` is codeword `i` of the slot area, page after page. -/
def State.caskCw (s : State) (a : Nat) : Bytes :=
  let good := ((List.range (addrBlk a)).filter fun b => decide (b ≠ 0) && !(s.media.factoryBad (addrLun a)).contains b).length
  if good = 0 then s.media.regionCw 8 0 0 a
  else match s.upd.pieces.find? fun p => p.1 == ((good - 1) * s.media.geom.pages + addrPage a) * s.media.geom.cwpp + addrCw a with
    | some p => codeword s.media.geom 8 0 0 0 a (Config.mediaKey 0) p.2
    | none => erasedCw s.media.geom

/-- A codeword as the flash holds it where nothing but the part has acted on it: C bytes. Which pages of a system region are programmed the spec does
not say; the model takes the first page of a label, every page of the other regions and of a slot that holds an image (DESIGN CHOICE, log
entry 157). -/
def State.cwImage (s : State) (addr : Nat) : Bytes :=
  let a := addr - addrUnit addr
  let (lun, blk, page) := (addrLun a, addrBlk a, addrPage a)
  match s.media.regionKind lun blk with
  | some k => if k = 11 ∧ (page ≠ 0 ∨ (s.media.lun? lun).all fun l => l.label.isNone) then erasedCw s.media.geom
    else if k = 8 then s.caskCw a else s.media.regionCw k 0 0 a
  | none =>
    match s.media.scratch.find? fun b => b.lun == lun && b.blk == blk with
    | some b =>
      if b.used ≤ page then erasedCw s.media.geom
      else match (s.media.parityAt a).bind fun h => (s.media.set? h.1).map fun t => (t, h.2) with
        | some (t, k) => s.parityCw t (t.terracePages k) (addrCw a)
        | none => s.media.regionCw 6 1 0 a
    | none =>
      if s.tun.rescue.any fun l => l.contains (lun, blk) then
        (if ((List.range 2).any fun k => ((s.tun.rescue[k]?).any fun l => l.contains (lun, blk)) && ((s.tun.slots[k]?).any fun i => i.isSome)) then s.media.regionCw 7 1 0 a
         else erasedCw s.media.geom)
      else match (s.media.block? lun blk).bind fun b => s.media.set? b.wseq with
        | none => erasedCw s.media.geom
        | some t =>
          let p := setPos s.media.geom t a
          let n := p / (256 * s.media.geom.cwpp)
          if t.passed.contains n || t.failedPages.contains n then s.dataCw t p else erasedCw s.media.geom

/-- R242: a codeword that decodes is good where its ADDR is the address read and its CHECK holds. A codeword of a parity page is the XOR of others
(R251), and its metadata is theirs: neither is asked of it (DESIGN CHOICE, log entry 167). -/
def State.cwValid (s : State) (addr : Nat) (raw : Bytes) : Bool :=
  (s.media.parityAt addr).isSome ||
    (fieldAt raw 4112 8 % 2 ^ 58 == addr - addrUnit addr && fieldAt raw 4120 4 == crc32c (raw.take 4120))

/-- The Terraces that hold accumulators, in order (R251): the sets by WSEQ, and of each the Terraces begun and not yet programmed to scratch. -/
def MediaSt.accumulating (m : MediaSt) : List (TSet × Nat) :=
  (sortBy (fun t => t.wseq) m.building).flatMap fun t => ((List.range (begun m.geom t t.ptr)).filter fun k => !t.parity.contains k).map fun k => (t, k)

/-- A part of an accumulator (R251, R695): the XOR of the data pages of its Terrace that have been transferred. A Terrace of 32 KiB pages takes two
accumulators of 32 KiB; which accumulator serves which Terrace the spec leaves open (DESIGN CHOICE, log entry 168). -/
def State.accumPart (s : State) (i : Nat) : Bytes :=
  let (per, off) := if s.media.geom.page32 then (i / 16, i % 16) else (i / 8, i % 8)
  match s.media.accumulating[per]? with
  | none => padTo 4096 []
  | some (t, k) =>
    let sent := (t.terracePages k).filter fun p => t.passed.contains p || s.media.ops.any fun o => decide (o.why = .page t.wseq p) && o.issued
    slice (padTo (65536 * 2) ((List.range s.media.geom.cwpp).flatMap fun c => s.parityCw t sent c)) (off * 4096) 4096

end Sys2Proof.Machine
end

