-- ==== Sys2Proof/Machine/MediaOps.lean ====
section
/-!
DEFINITION. What the Tun, the index and the media engine do between commands: drain (R211, R258), leaf write-back (R191),
liveness and the Sparge (R285 to R295), media failures (R298, R300) and the power-fail flush (R213).
-/

namespace Sys2Proof.Machine

/-- Background flash work runs: READY, no flush, neither Nap nor Slumber (R161, R213). -/
def State.mediaOn (s : State) : Bool := s.serving && decide (s.power.pstate < 2)

/-! ### Drain (R211, R244, R258) -/

/-- A LIVE entry whose replicas have acknowledged and whose batch is resolved (R211), and which can be used (R198). -/
def State.settled (s : State) (e : TunEntry) : Bool :=
  decide (e.state = .live ∧ e.recAddr = 0 ∧ e.kind ≠ .batchRecord) && e.good && e.replAck && (e.batch == 0 || (s.tun.record? e.batch).any fun r => r.resolved)

/-- The entries of a key that have not drained before entry `e` (R48, R211). -/
def State.undrained (s : State) (e : TunEntry) : List TunEntry :=
  s.tun.entries.filter fun x => x.ksp == e.ksp && x.key == e.key && decide (x.kind ≠ .batchRecord ∧ x.state ≠ .drained ∧ x.ord < e.ord)

/-- An entry that cannot be used (R198) stands in no full value's way: a later PUT, TOMBSTONE or PUBLISH of its key goes past it once nothing refers
to it (DEDUCED, log entry 163). -/
def State.spoilt (e x : TunEntry) : Bool := !x.good && decide (e.kind ≠ .patch ∧ x.state = .live ∧ x.recAddr = 0) && x.replAck && x.refs == 0

/-- R212: entry `x` may be skipped when the later PUT `e` of its key drains: it is a PUT too, and no lease, no retention window and no running
read admits a read at a stamp between the two. -/
def State.skippable (s : State) (e x : TunEntry) : Bool :=
  State.spoilt e x || (decide (e.kind = .put ∧ x.kind = .put) && s.settled x && x.refs == 0 && s.tooOld (e.stamp - 1)
    && !(s.kv.leases.any fun l => decide (x.stamp ≤ l.stamp ∧ l.stamp < e.stamp)))

/-- An entry may drain: every earlier entry of its key has, or may be skipped under R212, its replicas have acknowledged, its batch is
resolved, its keyspace's key slot holds a key (R244), and the leaf of its key is not under rebuild (R192). The engine may drain only the newest of a run of PUTs: TUN_DRAIN of that entry says that it
does (DESIGN CHOICE, log entry 137). -/
def State.drainable (s : State) (e : TunEntry) : Bool :=
  s.settled e && (s.undrained e).all (s.skippable e) && !(s.index.leaf? e.digest).any (fun l => l.rebuild)
    && (s.ksp? e.ksp).any fun k => !k.reclaiming && s.slotLoaded k.tenant k.slot

/-- The keyspace of the page that the USER stream is forming, while one is begun (R259). -/
def State.pageKsp (s : State) : Option Nat :=
  (s.media.sets.find? fun t => decide (t.stream = .user ∧ t.state = .opened ∧ t.ptr % (256 * s.media.geom.cwpp) ≠ 0) && t.pad.isNone).map fun t => t.ksp

/-- The drain groups entries by keyspace when it forms a page (R259): while an entry of the page's keyspace can drain, one of another waits. -/
def State.drainTurn (s : State) (e : TunEntry) : Bool :=
  s.pageKsp.all fun k => k == e.ksp || !(s.tun.entries.any fun x => x.ksp == k && s.drainable x)

/-- The keyspace of an entry is reclaiming or gone, and the operations dispatched on it before have completed: its data is dead, and its entries
are released without drain (R156). -/
def State.kspGone (s : State) (ksp : Nat) : Bool :=
  (s.ksp? ksp).all (fun k => k.reclaiming) && !(s.kv.ctxs.any fun c => c.ponr && decide (c.pool ≠ .admin) && s.kspOf c.desc == ksp)

/-- The leaf entry of a key (R184, R185). -/
def State.flashEntry (s : State) (ksp : Nat) (key : Bytes) : Option LeafEntry :=
  let d := s.digest ksp key
  (s.index.leaf? d).bind fun l => (s.media.accept key (l.entries.filter fun e => e.digest == d && e.ksp == ksp) []).2

/-- The extents a record of `vlen` bytes must be given anew: those a patch touches, and those its predecessor lacks (R258). -/
def newExtents (e : TunEntry) (old : List (Nat × Nat)) (v : Bytes) : List (Nat × Bytes) :=
  (extentPieces v).filter fun p =>
    !(old.any fun x => x.1 == p.1) || decide (e.kind = .put) || overlap (p.1 * 1048576) 1048576 e.offset e.data.length

/-- The records of a key on flash. -/
def State.recordsOf (s : State) (ksp : Nat) (key : Bytes) : List Item :=
  s.media.items.filter fun i => decide (i.kind = .value ∨ i.kind = .extents ∨ i.kind = .tombstone) && i.ksp == ksp && i.key == key

/-- The record that an entry's record succeeds: the one its key's leaf entry names, or, for an entry older than that (R48), the newest one
before it. -/
def State.predOf (s : State) (e : TunEntry) : Option Item :=
  if e.upTo = 0 then (s.flashEntry e.ksp e.key).bind fun p => s.media.item? p.loc
  else (sortBy (fun i => i.ord) ((s.recordsOf e.ksp e.key).filter fun i => decide (i.ord < e.ord))).getLast?

/-- Write an entry's record (R256 to R258); none when no set can take it (R252). The entries that R212 lets it skip share its record. An entry
older than its key's version on flash takes its place in the chain of predecessors. -/
def State.drainEntry (s : State) (e : TunEntry) : Option State :=
  let v := s.readVer e.ksp e.key e.stamp
  let predItem := s.predOf e
  let skipped := s.undrained e
  let base : Item :=
    { addr := 0, kind := .value, wseq := 0, units := 0, ksp := e.ksp, key := e.key, stamp := e.stamp, origin := e.origin, vlen := e.vlen,
      pred := (predItem.map fun p => p.addr).getD 0, predStamp := (predItem.map fun p => p.stamp).getD 0, succStamp := e.upTo }
  let klen := e.key.length
  let n := (e.vlen + 1048575) / 1048576
  let rank := s.drainRank
  let may := decide (e.kind = .tombstone) || !e.late
  let put := fun (s : State) (i : Item) => (s.store .user i false rank may).map fun (a, s) =>
    let s := (e :: skipped).foldl (fun s y => s.modEntry y.id fun x => { x with recAddr := a }) s
    let next := (sortBy (fun (p : Item) => p.ord) ((s.recordsOf e.ksp e.key).filter fun p => decide (e.ord < p.ord))).head?
    let later := fun (p : Item) => e.upTo != 0 && p.addr != a && next.any fun q => q.addr == p.addr
    let s : State := { s with media := { s.media with items := updWhere later (fun p => { p with pred := a, predStamp := e.stamp }) s.media.items } }
    if i.pred = 0 then s else s.modItem i.pred fun p => { p with succStamp := e.stamp }
  if e.kind = .tombstone then put s { base with kind := .tombstone, vlen := 0, units := recordUnits klen 0 }
  else if e.kind = .publish then put s { base with kind := .extents, staged := true, extents := e.extents, units := recordUnits klen (8 * n) }
  else if e.vlen ≤ 1048576 then put s { base with data := v.data, units := recordUnits klen e.vlen }
  else
    let old := (predItem.map fun i => i.extents).getD []
    let pieces := newExtents e old v.data
    let kept := old.filter fun x => !(pieces.any fun p => p.1 == x.1)
    match s.storeExtents .user e.ksp rank pieces [] may with
    | none => none
    | some (es, s) => put s { base with kind := .extents, extents := sortBy (fun x => x.1) (kept ++ es), units := recordUnits klen (8 * n) }

/-! ### Leaf write-back (R186, R191) -/

/-- Merge a leaf with its sibling when together they hold 48 entries or fewer (R186). Of the kinds of R190 none names a merge: the journal
carries an ENTRY_SET for each entry of the merged leaf (DESIGN CHOICE, log entry 132), and the merge waits for room in it. -/
def State.mergeLeaf (s : State) (l : Leaf) : Leaf × State :=
  match s.index.leaves.find? fun x => x.ward == l.ward && x.ldepth == l.ldepth && x.pfx == (if l.pfx % 2 = 0 then l.pfx + 1 else l.pfx - 1) with
  | none => (l, s)
  | some x =>
    if l.ldepth = 0 ∨ 48 < l.entries.length + x.entries.length ∨ s.journalSlots < s.index.journal.length + 48 then (l, s)
    else
      let es := (l.entries ++ x.entries).foldl (fun acc e => insertBy (fun e => e.digest * 65536 + e.ksp) e acc) []
      let m : Leaf := leafChanged s.clk.cycles
        { ward := l.ward, ldepth := l.ldepth - 1, pfx := l.pfx / 2, entries := es, seq := max l.seq x.seq, stored := l.stored ++ x.stored, storedDepth := max l.storedDepth x.storedDepth,
          rebuild := l.rebuild || x.rebuild }
      let rest := s.index.leaves.filter fun y => !(y.ward == l.ward && y.ldepth == l.ldepth && y.pfx / 2 == l.pfx / 2)
      let s : State := { s with index := { s.index with leaves := rest ++ [m] } }
      (m, es.foldl (fun s e => s.journal 1 0 l.ward m.pfx (some e) 0 0) s)

/-- The rank of a leaf's write (R191, R552). -/
def State.leafRank (s : State) : Nat := if s.someHeld ∨ s.journalOver (s.fget .kveIdxCtrl_wbUrgentPct) then 1 else 2

/-- Write a dirty leaf with its overflow leaves, and its Ward's segment when the journal changed it, as new copies of the INDEX stream (R191,
R261). -/
def State.writeLeaf (s : State) (l : Leaf) : State :=
  let (l, s) := s.mergeLeaf l
  let rank := s.leafRank
  let i : Item := { addr := 0, kind := .leaf, wseq := 0, units := 256 * (1 + (l.entries.length - 1) / 96), ward := l.ward, ldepth := l.ldepth, pfx := l.pfx }
  match s.store .index i true rank with
  | none => s
  | some (a, s) =>
    let q := s.index.leafSeq + 1
    let s := { s with index := { s.index with leafSeq := q } }
    let s := s.modItem a fun i => { i with data := leafChain { l with seq := q } l.entries ((s.media.cwsOf a).drop 1) }
    let s := s.modLeaf l.ward l.pfx l.ldepth fun x =>
      { x with writing := a, seq := q, storing := x.entries, mark := s.index.jseq, changes := 0 }
    if (s.index.journal.any fun r => r.ward == l.ward && decide (r.kind = 3 ∨ r.kind = 4)) && (s.index.root? l.ward).any fun r => r.writing == 0 then
      let g := ((s.index.root? l.ward).map fun r => r.gdepth).getD 0
      let j : Item := { addr := 0, kind := .segment, wseq := 0, units := 256 * ((2 ^ g + 510) / 511), ward := l.ward }
      match s.store .index j true rank with
      | none => s
      | some (b, s) =>
        let s := s.modItem b fun i => { i with data := (s.index.roots.filter fun r => r.ward == l.ward).flatMap s.index.segmentBytes }
        { s with index := { s.index with roots := updWhere (fun r => r.ward == l.ward) (fun r => { r with writing := b, storing := g, mark := s.index.jseq }) s.index.roots } }
    else s

/-- A journal record of a change to a leaf (ENTRY_SET, ENTRY_REMOVE, OVERFLOW_LINK) that the leaf's write makes needless: the bucket that an
OVERFLOW_LINK changed lies in the leaf's, or the leaf's in it, after splits and merges. -/
def coveredBy (l : Leaf) (r : JournalRec) : Bool :=
  r.ward == l.ward && decide (r.seq ≤ l.mark) &&
    ((decide (r.kind = 5) && (if r.depth ≤ l.ldepth then l.pfx / 2 ^ (l.ldepth - r.depth) == r.pfx else r.pfx / 2 ^ (r.depth - l.ldepth) == l.pfx))
      || r.entry.any fun e => pathOf e.digest / 2 ^ (38 - l.ldepth) == l.pfx)

/-- Segments whose new copy has been programmed: the copy counts, and the SPLIT and SEGMENT_DOUBLE records it covers are released (R191). -/
def State.segProgress (s : State) : State :=
  (s.index.roots.filter fun r => decide (r.writing ≠ 0) && (s.media.item? r.writing).any fun i => s.media.onFlash i true).foldl (fun s r =>
    let rs := updWhere (fun x => x.ward == r.ward) (fun x => { x with segAddr := x.writing, writing := 0, storedDepth := x.storing }) s.index.roots
    let js := s.index.journal.filter fun j => !(j.ward == r.ward && decide (j.seq ≤ r.mark ∧ (j.kind = 3 ∨ j.kind = 4)))
    { s with index := { s.index with roots := rs, journal := js } }) s

/-- Leaves whose new copy has been programmed: the copy counts, and the journal records it covers are released (R191). -/
def State.leafProgress (s : State) : State :=
  (s.index.leaves.filter fun l => decide (l.writing ≠ 0) && (s.media.item? l.writing).any fun i => s.media.onFlash i true).foldl (fun s l =>
    let s := s.modLeaf l.ward l.pfx l.ldepth fun x =>
      { x with addr := x.writing, writing := 0, stored := x.storing, storing := [], storedDepth := x.ldepth, dirty := decide (x.changes ≠ 0),
               ovf := (x.ovf.zip ((s.media.cwsOf x.writing).drop 1 ++ List.replicate x.ovf.length 0)).map fun p => p.2 }
    { s with index := { s.index with journal := s.index.journal.filter fun r => !coveredBy l r } }) s

/-- The rescue image is no longer needed once every entry it contributed has been released; its slot is erased (R214, R247), and blocks of it
that the area no longer needs leave it (R215). -/
def State.imageProgress (s : State) : State :=
  if s.tun.needed && s.tun.replayDone && !(s.tun.entries.any fun e => e.restored) then
    let bs := (s.tun.rescue[s.tun.slot]?).getD []
    let out := s.tun.leaving
    let s : State := { s with tun := { s.tun with needed := false, slots := s.tun.slots.set s.tun.slot none, leaving := [] } }
    out.foldl (fun s b => s.leaveSys b) (bs.foldl (fun s b => s.eraseSys b) s)
  else s

/-- The part still holds something of a keyspace: entries, versions on flash, staged values or operations (R156). -/
def State.kspHeld (s : State) (ksp : Nat) : Bool :=
  (s.tun.entries.any fun e => e.ksp == ksp && decide (e.kind ≠ .batchRecord))
    || (s.media.items.any fun i => i.ksp == ksp && decide (i.kind = .value ∨ i.kind = .extents ∨ i.kind = .tombstone))
    || (s.kv.staged.any fun v => v.ksp == ksp) || s.kv.ctxs.any fun c => c.desc.ksp == ksp && decide (c.pool ≠ .admin)

/-- A reclaiming keyspace of which every version has been erased is gone, and its index entries with it (R156), once the journal takes their
records (R190). -/
def State.kspReap (s : State) : State :=
  let gone := (s.kv.keyspaces.filter fun k => k.reclaiming && !s.kspHeld k.ksp).map fun k => k.ksp
  let es := s.index.leaves.flatMap fun l => l.entries.filter fun e => gone.contains e.ksp
  if gone.isEmpty || !s.journalRoom es.length then s
  else
    let s := es.foldl (fun s e => s.removeEntry e) s
    { s with kv := { s.kv with keyspaces := s.kv.keyspaces.filter fun k => !gone.contains k.ksp } }

/-! ### Liveness (R285, R286) -/

/-- The part holds a Ward as owner or replica. -/
def State.holdsWard (s : State) (w : Nat) : Bool :=
  if s.isMember then
    let e := s.wardEntry w
    decide (e.assigned ∧ (e.owner = s.memberId ∨ s.memberId ∈ e.reps)) || s.town.transfers.any fun t => t.ward == w && t.target % 16384 == s.memberId
  else true

/-- A record that an index entry names, of an active keyspace and a Ward the part holds. -/
def State.recordLive (s : State) (i : Item) : Bool :=
  !s.kspGone i.ksp && s.holdsWard (wardOf (s.digest i.ksp i.key)) && s.index.leaves.any fun l => l.entries.any fun e => e.loc == i.addr

/-- R285. -/
def State.itemLive (s : State) (i : Item) : Bool :=
  match i.kind with
  | .value | .extents | .tombstone => s.recordLive i
  | .extent =>
    (s.media.items.any fun r => decide (r.kind = .extents) && (r.extents.any fun e => e.2 == i.addr) && s.recordLive r)
      || (s.kv.staged.any fun v => !s.kspGone v.ksp && v.extents.any fun e => e.2 == i.addr) || (s.town.pieces.any fun v => v.2.2.any fun e => e.2 == i.addr)
      || s.tun.entries.any fun e => !s.kspGone e.ksp && e.extents.any fun x => x.2 == i.addr
  | .leaf => s.index.leaves.any fun l => l.addr == i.addr || l.writing == i.addr
  | .segment => s.index.roots.any fun r => r.segAddr == i.addr || r.writing == i.addr
  | .summary => s.media.blocks.any fun b => b.summary == i.addr

/-- A dead record that a read inside the retention window still needs: its successor's stamp is not yet older than the
window (R208, R286; DEDUCED, log entry 22). -/
def State.recordRetained (s : State) (i : Item) : Bool :=
  decide (i.succStamp ≠ 0) && !s.outOfWindow i.succStamp && !s.kspGone i.ksp

/-- R286, with the extents such records name. -/
def State.itemRetained (s : State) (i : Item) : Bool :=
  match i.kind with
  | .value | .extents | .tombstone => s.recordRetained i
  | .extent => s.media.items.any fun r => decide (r.kind = .extents) && (r.extents.any fun e => e.2 == i.addr) && s.recordRetained r
  | _ => false

/-- The items of a set. -/
def MediaSt.itemsOf (m : MediaSt) (w : Nat) : List Item := m.items.filter fun i => i.wseq == w

/-- Live units of a set. -/
def State.liveUnits (s : State) (w : Nat) : Nat := (((s.media.itemsOf w).filter s.itemLive).map fun i => i.units).sum

/-! ### XTS use (R243, R520, R528) -/

/-- The keyspace under whose key an item is encrypted: that of a record or extent. Data of a keyspace that reclaims is never encrypted again
(R156). -/
def State.itemKsp (s : State) (i : Item) : Option Keyspace :=
  match i.kind with
  | .value | .extents | .tombstone | .extent => if s.kspGone i.ksp then none else s.ksp? i.ksp
  | _ => none

/-- An item's codewords can be encrypted or decrypted: no keyspace's key is needed, or its slot is loaded. -/
def State.itemKeyed (s : State) (i : Item) : Bool := (s.itemKsp i).all fun k => s.slotLoaded k.tenant k.slot

/-- The items whose data a page program encrypts, one for each of its codewords (a codeword holds one keyspace's data). -/
def State.pageItems (s : State) (w page : Nat) : List Item :=
  match s.media.set? w with
  | none => []
  | some t => (List.range s.media.geom.cwpp).filterMap fun i => (s.itemsIn t ((page * s.media.geom.cwpp + i) * 256)).head?

/-- Count data units under an item's slot: encrypted, or decrypted. -/
def State.countUse (s : State) (i : Item) (n : Nat) (enc : Bool) : State :=
  match s.itemKsp i with
  | none => s
  | some k => s.fadd (if enc then .cipKpUse_enc else .cipKpUse_dec) n k.tenant k.slot

/-- A queued operation may run as far as keys go: all it encrypts or decrypts is keyed (R520). -/
def State.opKeyed (s : State) (o : NandOp) : Bool :=
  match o.why with
  | .page w p => (s.pageItems w p).all s.itemKeyed
  | .ctx _ | .copy _ => (s.media.item? o.item).all s.itemKeyed
  | _ => true

/-- The data units an operation encrypts are counted when it is issued. -/
def State.encUse (s : State) (o : NandOp) : State :=
  match o.why with
  | .page w p => (s.pageItems w p).foldl (fun s i => s.countUse i 1 true) s
  | _ => s

/-! ### Victims (R289) -/

/-- A set the Sparge may choose: full, not deferred, not already chosen; unless it is urgent, no live content of a keyspace
whose slot is empty (R520). -/
def State.eligible (s : State) (t : TSet) : Bool :=
  decide (t.state = .full ∨ t.state = .verified) && !(s.media.itemsOf t.wseq).any s.itemRetained
    && (t.urgent.isSome || (s.media.itemsOf t.wseq).all fun i => !s.itemLive i || s.itemKeyed i)

/-- The spread of erase counts of a LUN's blocks that are not retired, and the least count. -/
def State.wearSpread (s : State) (lun : Nat) : Nat × Nat :=
  let bs := s.media.blocks.filter fun b => b.lun == lun && decide (s.media.sysBlocks lun ≤ b.blk)
  let cs := (bs.filter fun b => decide (b.state ≠ .retired)).map fun b => b.erases
  let least := if bs.length < s.media.geom.blocks - s.media.sysBlocks lun then 0 else minOf 0 cs
  (cs.foldl max 0 - least, least)

/-- The wear-levelling victim of step 2: the VERIFIED set of lowest WSEQ that holds the least-worn block of a LUN whose
spread exceeds WL_SPREAD. -/
def State.wearVictim (s : State) : Option TSet :=
  if !s.flag .medSpgCtrl_wlEn then none
  else (sortBy (fun t => t.wseq) s.media.sets).find? fun t => decide (t.state = .verified) && s.eligible t && t.blocks.any fun b =>
    let (sp, least) := s.wearSpread b.1
    decide (s.fget .medWearCtrl_wlSpread < sp) && (s.media.block? b.1 b.2).any fun x => x.erases == least

/-- The score (1 − u) × a / (1 + u) of a set, as numerator and denominator. -/
def State.score (s : State) (t : TSet) : Nat × Nat :=
  let total := setUnits s.media.geom t
  let live := s.liveUnits t.wseq
  ((total - live) * min 86400 ((s.clk.cycles - t.fullAt) / secCycles), total + live)

/-- The victim of step 3: the highest score, the lower WSEQ on a tie. -/
def State.scoreVictim (s : State) : Option TSet :=
  let cs := (sortBy (fun t => t.wseq) s.media.sets).filter fun t =>
    decide (t.state = .verified) && s.eligible t && decide (s.liveUnits t.wseq < setUnits s.media.geom t)
  cs.foldl (fun best t =>
    match best with
    | none => some t
    | some b => let (n, d) := s.score t; let (bn, bd) := s.score b; if bn * d < n * bd then some t else some b) none

/-- The next victim (R289). -/
def State.victim (s : State) : Option TSet :=
  match (sortBy (fun t => t.urgent.getD 0) (s.media.sets.filter fun t => t.urgent.isSome && s.eligible t)).head? with
  | some t => some t
  | none =>
    if s.freePm < s.fget .medSpaceCtrl_startPm ∨ 1 ≤ s.media.spaceState then s.wearVictim.orElse fun _ => s.scoreVictim else none

/-! ### Copy and switch (R287, R288, R292, R293) -/

/-- A victim whose every live item has been switched leaves service (R292 step 6). -/
def State.victimsDone (s : State) : State :=
  (s.media.sets.filter fun t => decide (t.state = .sparging) && !((s.media.itemsOf t.wseq).any fun i => s.itemLive i || s.itemRetained i)
      && !(t.blocks.all fun b => (s.media.block? b.1 b.2).any fun x => decide (x.state = .retiring ∨ x.state = .erasing ∨ x.state = .retired ∨ x.state = .free))).foldl
    (fun s t => s.retireSet t) s

/-- The victim is marked SPARGING and a read of each live item is queued (R292 steps 1 and 2), of an urgent set at the drain's rank (R290). -/
def State.beginVictim (s : State) (t : TSet) : State :=
  let rank := if t.urgent.isSome then 2 else 3
  let s := s.modSet t.wseq fun t => { t with state := .sparging, urgent := none, wasVerified := decide (t.state = .verified), copyRank := rank }
  let s := ((s.media.itemsOf t.wseq).filter s.itemLive).foldl (fun s i => s.queueRead i.addr (.copy t.wseq) rank) s
  s.victimsDone

/-- Copy an item that has been read (R287, R288, R292 step 2). -/
def State.copyItem (s : State) (victim : Nat) (i : Item) : State :=
  let target := match i.kind with | .leaf | .segment | .summary => Stream.index | _ => .sparge
  let dirty := s.index.leaves.filter fun l => l.addr == i.addr && l.dirty
  let rank := ((s.media.set? victim).map fun t => t.copyRank).getD 3
  if !s.itemLive i then s.victimsDone
  else if decide (i.kind = .leaf) && !dirty.isEmpty then (dirty.filter fun l => l.writing == 0).foldl (fun s l => s.writeLeaf l) s
  else if i.kind = .tombstone ∧ s.outOfWindow i.stamp then
    if s.journalRoom 1 ∧ s.leafRoom (s.digest i.ksp i.key) then
      (match s.flashEntry i.ksp i.key with | some e => s.removeEntry e | none => s).victimsDone
    else s.queueRead i.addr (.copy victim) rank
  else
    let keepPred := (s.media.item? i.pred).any s.recordRetained
    let c := { i with copyOf := i.addr, pred := if keepPred then i.pred else 0, predStamp := if keepPred then i.predStamp else 0 }
    match s.store target c (decide (i.kind ≠ .value ∧ i.kind ≠ .extents ∧ i.kind ≠ .tombstone)) rank with
    | none => s.queueRead i.addr (.copy victim) rank
    | some (a, s) =>
      let s := if i.kind = .leaf then s.modItem a fun x => { x with data := relinkLeaf ((s.media.cwsOf a).drop 1) x.data } else s
      match s.media.item? a with
      | none => s
      | some x => s.modSet x.wseq fun t => { t with victims := if t.victims.contains victim then t.victims else t.victims ++ [victim], fullAt := s.clk.cycles }

/-- The journal records and the leaf cache slot that the switch of an item takes can be had (R189, R190). -/
def State.switchRoom (s : State) (c : Item) : Bool :=
  match c.kind with
  | .value | .extents | .tombstone => s.journalRoom 1 && s.leafRoom (s.digest c.ksp c.key)
  | .extent => s.journalRoom (s.media.items.filter fun i => i.extents.any fun e => e.2 == c.copyOf).length
  | _ => s.journalRoom 1

/-- Switch one copied item, if its source is still named (R293), with the journal records of what it changes (R190). Of R190's kinds none is for
a leaf or a segment that has moved: the record is an OVERFLOW_LINK with the leaf's addresses, or a SEGMENT_DOUBLE with the GDEPTH as it is
(DESIGN CHOICE, log entry 132). An extent's switch is journalled by an ENTRY_SET of every record that names it, a summary's by the media map. -/
def State.switchNow (s : State) (c : Item) : State :=
  let src := c.copyOf
  match c.kind with
  | .value | .extents | .tombstone =>
    match s.index.leaves.find? fun l => l.entries.any fun e => e.loc == src with
    | none => s
    | some l =>
      let es := updWhere (fun e => e.loc == src) (fun e => { e with loc := c.addr }) l.entries
      let s := s.modLeaf l.ward l.pfx l.ldepth fun l => leafChanged s.clk.cycles { l with entries := es }
      s.journal 1 0 l.ward l.pfx (es.find? fun e => e.loc == c.addr) 0 0
  | .extent =>
    let sub := fun (es : List (Nat × Nat)) => es.map fun e => if e.2 = src then (e.1, c.addr) else e
    let named := (s.media.items.filter fun i => i.extents.any fun e => e.2 == src).map fun i => i.addr
    let s := (s.index.leaves.flatMap fun l => (l.entries.filter fun e => named.contains e.loc).map fun e => (l, e)).foldl (fun s x =>
      s.journal 1 0 x.1.ward x.1.pfx (some x.2) 0 0) s
    { s with media := { s.media with items := s.media.items.map fun i => { i with extents := sub i.extents } }
             kv := { s.kv with staged := s.kv.staged.map fun v => { v with extents := sub v.extents } }
             town := { s.town with pieces := s.town.pieces.map fun v => (v.1, v.2.1, sub v.2.2) }
             tun := { s.tun with entries := s.tun.entries.map fun e => { e with extents := sub e.extents } } }
  | .leaf =>
    let ovf := (s.media.cwsOf c.addr).drop 1
    let s := (s.index.leaves.filter fun l => l.addr == src).foldl (fun s l => s.journal 5 0 l.ward l.pfx none c.addr (ovf.headD 0) l.ldepth) s
    { s with index := { s.index with leaves := updWhere (fun l => l.addr == src) (fun l => { l with addr := c.addr, ovf := (l.ovf.zip (ovf ++ l.ovf)).map fun p => p.2 }) s.index.leaves } }
  | .segment =>
    let s := (s.index.roots.filter fun r => r.segAddr == src).foldl (fun s r => s.journal 4 0 r.ward 0 none r.gdepth 0) s
    { s with index := { s.index with roots := updWhere (fun r => r.segAddr == src) (fun r => { r with segAddr := c.addr }) s.index.roots } }
  | .summary => (s.media.blocks.filter fun b => b.summary == src).foldl (fun s b => s.modBlock b.lun b.blk fun b => { b with summary := c.addr }) s

/-- Switch one copied item once its records find room; made or not, the switch is over then. -/
def State.switchItem (s : State) (c : Item) : State :=
  if s.switchRoom c then (s.switchNow c).modItem c.addr fun i => { i with copyOf := 0 } else s

/-- A set has been verified: the copies it holds are switched (R292 step 5). -/
def State.switchSet (s : State) (w : Nat) : State :=
  (((s.media.itemsOf w).filter fun i => i.copyOf != 0).foldl (fun s i => s.switchItem i) s).victimsDone

/-- The switches that waited for room in the journal go on. -/
def State.switchesGo (s : State) : State :=
  (s.media.sets.filter fun t => decide (t.state = .verified)).foldl (fun s t => if (s.media.itemsOf t.wseq).any fun i => i.copyOf != 0 then s.switchSet t.wseq else s) s

/-! ### Program, erase and verification failures (R298) -/

/-- A staged extent that lies on pages that failed is placed anew (R298), as soon as a set can take it. -/
def State.restage (s : State) : State :=
  let stuck := s.media.items.filter fun i => decide (i.kind = .extent) && !s.media.onFlash i false && s.itemLive i && (s.media.set? i.wseq).any fun t => !t.failedPages.isEmpty
  stuck.foldl (fun s i =>
    match s.store .staged i true 1 with
    | none => s
    | some (a, s) =>
      let sub := fun (x : Nat) => if x = i.addr then a else x
      { s with media := { s.media with items := s.media.items.filter fun x => x.addr != i.addr }
               tun := { s.tun with entries := s.tun.entries.map fun v => { v with extents := v.extents.map fun e => (e.1, sub e.2) } }
               town := { s.town with pieces := s.town.pieces.map fun v => (v.1, v.2.1, v.2.2.map fun e => (e.1, sub e.2)) }
               kv := { s.kv with staged := s.kv.staged.map fun v => { v with extents := v.extents.map fun e => (e.1, sub e.2) }
                                 ctxs := updWhere (fun c => decide (c.phase = .pages)) (fun c => { c with need := c.need.map sub }) s.kv.ctxs } }) s

/-- What a set held that is not on flash goes back to its sources: entries drain again, leaves are written again, summaries too, Sparge copies are
made again, and staged extents are placed anew (R298 first row). -/
def State.rescueSet (s : State) (w : Nat) : State :=
  let gone := (s.media.itemsOf w).filter fun i => !s.media.onFlash i false && !(decide (i.kind = .extent) && s.itemLive i)
  let dead := fun (a : Nat) => gone.any fun i => i.addr == a
  let again := (gone.filter fun i => i.copyOf != 0).filterMap fun i => s.media.item? i.copyOf
  let es := updWhere (fun e => decide (e.recAddr ≠ 0) && dead e.recAddr) (fun e => { e with recAddr := 0 }) s.tun.entries
  let rs := updWhere (fun r => decide (r.writing ≠ 0) && dead r.writing) (fun r => { r with writing := 0 }) s.index.roots
  let ls := updWhere (fun l => decide (l.writing ≠ 0) && dead l.writing) (fun l => { l with writing := 0, dirty := true, changes := l.changes + 1 }) s.index.leaves
  let s := { s with tun := { s.tun with entries := es }, index := { s.index with leaves := ls, roots := rs } }
  let bs := updWhere (fun b => decide (b.summary ≠ 0) && dead b.summary) (fun b => { b with summary := 0 }) s.media.blocks
  let s := { s with media := { s.media with items := s.media.items.filter fun i => !dead i.addr, blocks := bs } }
  (again.foldl (fun s i => s.queueRead i.addr (.copy i.wseq) (((s.media.set? i.wseq).map fun t => t.copyRank).getD 3)) s).restage

/-- Close a set: the Terrace that is open is padded and its parity will follow (R298). -/
def State.closeSet (s : State) (w rank : Nat) : State :=
  match s.media.set? w with
  | none => s
  | some t =>
    let ter := 256 * s.media.geom.cwpp * t.blocks.length
    (s.movePtr w ((t.ptr + (ter - 1)) / ter * ter) rank).modSet w fun t => { t with state := .full, fullAt := s.clk.cycles }

/-- A page of a set has failed: the parity of its Terrace follows once the other pages are programmed (R298). -/
def State.pageFailed (s : State) (w page : Nat) (rank : Nat) : State :=
  let s := s.modSet w fun t => { t with failedPages := t.failedPages ++ [page] }
  match s.media.set? w with
  | none => s
  | some t => if t.terraceDone (page / t.blocks.length) then s.queueParity w (page / t.blocks.length) rank else s

/-- An operation programs a page of set `w`, or its parity. -/
def NandOp.ofSet (o : NandOp) (w : Nat) : Bool := match o.why with | .page v _ => v == w | .parity v _ => v == w | _ => false

/-- Programs of a set on a block that can take none any more count as failed. -/
def State.dropPages (s : State) (w lun : Nat) (blk : Option Nat) : State :=
  (s.media.ops.filter fun o => o.ofSet w && addrLun o.addr == lun && blk.all fun b => addrBlk o.addr == b).foldl (fun s o =>
    match o.why with
    | .page _ p => (s.dropOp o.id).pageFailed w p o.rank
    | _ => s) s

/-- A program of data page `page` failed at a block of set `t` (R298). -/
def State.programFailed (s : State) (t : TSet) (page lun blk : Nat) : State :=
  if t.stream = .sparge then
    let s := ((s.closeSet t.wseq 3).pageFailed t.wseq page 3).modSet t.wseq fun t => { t with state := .failed }
    let s := ((s.fadd .medSpgStat_targetFails 1).retireBlock lun blk).dropPages t.wseq lun (some blk)
    let s := { s with media := { s.media with items := s.media.items.filter fun i => i.wseq != t.wseq } }
    t.victims.foldl (fun s v => ((s.media.itemsOf v).filter s.itemLive).foldl (fun s i =>
      s.queueRead i.addr (.copy v) (((s.media.set? v).map fun t => t.copyRank).getD 3)) s) s
  else
    let s := (s.closeSet t.wseq 2).pageFailed t.wseq page 2
    let s := s.modBlock lun blk fun b => { b with state := .failing }
    (s.markUrgent t.wseq).rescueSet t.wseq

/-- The blocks of FAILED sets are erased once the programs that close the set have ended (R298). -/
def State.failedGo (s : State) : State :=
  (s.media.sets.filter fun t => decide (t.state = .failed) && !(s.media.ops.any fun o => o.ofSet t.wseq)).foldl (fun s t =>
    (t.blocks.filter fun b => (s.media.block? b.1 b.2).any fun x => x.wseq == t.wseq && decide (x.state = .inSet)).foldl (fun s b =>
      (s.modBlock b.1 b.2 fun x => { x with state := .erasing }).queueOp .erase (mkAddr b.1 b.2 0 0 0) .erase 4 3) s) s

/-- Note the block of a failed program or erase of a LUN; the fourth different one in a row fails the LUN (R300). -/
def State.lunFailCount (s : State) (lun blk : Nat) : Nat × State :=
  let l := ((s.media.lun? lun).map fun l => l.failBlks).getD []
  let bs := if l.contains blk then l else l ++ [blk]
  (bs.length, s.modLun lun fun l => { l with failBlks := bs })

/-! ### The end of a read -/

/-- A leaf that cannot be recovered is rebuilt (R192, R265). What the journal and the summaries give it is what it held (DEDUCED, log entry
138), so its entries stand; until the rebuild ends no operation uses them. -/
def State.startRebuild (s : State) (l : Leaf) : State :=
  (s.modLeaf l.ward l.pfx l.ldepth fun l => { l with rebuild := true }).report .leafRebuildStart l.addr

/-- A codeword of an item is lost (R265): a leaf is rebuilt, a summary is written again from the record headers, other content stays lost. -/
def State.itemLost (s : State) (a : Nat) : State :=
  match s.index.leaves.find? fun l => l.addr == a with
  | some l => s.startRebuild l
  | none =>
    let s := s.modItem a fun i => { i with lost := true }
    (s.media.blocks.filter fun b => decide (b.summary = a ∧ a ≠ 0)).foldl (fun s b => s.modBlock b.lun b.blk fun b => { b with summary := 0 }) s

/-- A raw diagnostic read ends (R268, R270, R271, R284), `erased` when its page was; bytes whose buffer was found uncorrectable go poisoned
(R776), and none go once an FLR of the PF has cut them off (R150). -/
def State.rawEnded (s : State) (status step table corrected : Nat) (erased : Bool) (data : Bytes) : State :=
  let out := !data.isEmpty && !s.media.raw.cut
  let bad := s.media.rawPoison && out
  let s := if out then s.emit (.memWrite s.media.raw.dest data bad) else s
  let s : State := if bad then ({ s with media := { s.media with rawPoison := false } } : State).report .resultPoisoned 0 else s
  let s := ((s.fput .medRawStat_status (if bad then stInternalFault else status)).fput .medRawStat_busy 0).fput .medRawStat_erased (b2n erased)
  ((s.fput .medRawStat_step step).fput .medRawStat_table table).fput .medRawStat_corrected (min corrected 65535)

/-- A codeword read for an operation, a copy or a raw read has ended at the ladder's end, decoded or not; what it was read for goes on once
every codeword of the item has been. -/
def State.readEnded (s : State) (o : NandOp) (ok : Bool) : State :=
  let s := match s.media.item? o.item with | some i => if ok then s.countUse i 1 false else s | none => s
  let rest := s.media.ops.filter fun x => decide (x.why = o.why) && x.item == o.item
  match o.why with
  | .ctx id =>
    if ok && !rest.isEmpty then s
    else
      let s := rest.foldl (fun s x => s.dropOp x.id) s
      let s := s.modCtx id fun c =>
        { c with need := c.need.filter (fun a => a != o.item), got := if ok then c.got ++ [o.item] else c.got, lost := if ok then c.lost else c.lost ++ [o.item] }
      let s := if !ok then s.itemLost o.item
        else match s.index.leaves.find? fun l => l.addr == o.item with
          | some l => s.cacheLeaf l.ward l.pfx l.ldepth
          | none => s
      s.resume id
  | .copy v =>
    let s := if ok then s else s.itemLost o.item
    if !rest.isEmpty then s
    else match s.media.item? o.item with
      | none => s.victimsDone
      | some i => if decide (i.kind = .leaf) && s.index.leaves.any (fun l => l.addr == i.addr && l.rebuild) then s else s.copyItem v i
  | .raw => if ok then s else s.rawEnded stDataLost 5 0 0 false []
  | _ => s

/-! ### Step 4 of the ladder (R263) -/

/-- The parity page of Terrace `k` of a set, where it has been programmed and is held (R251). -/
def MediaSt.parityPage (m : MediaSt) (t : TSet) (k : Nat) : Option Nat :=
  if !t.parity.contains k then none
  else (m.scratch.flatMap fun b => b.held.map fun h => (b, h)).findSome? fun x => if x.2.1 = t.wseq ∧ x.2.2.1 = k then some (mkAddr x.1.lun x.1.blk x.2.2.2 0 0) else none

/-- What step 4 reads for a codeword: the same codeword of the Terrace's other data pages that have been transferred, and of its parity page, or
of the accumulator as long as that holds the parity; `none` where the page is in no set or its parity page is lost. -/
def State.rebuildFrom (s : State) (a : Nat) : Option (List Nat) :=
  match (s.media.block? (addrLun a) (addrBlk a)).bind fun b => s.media.set? b.wseq with
  | none => none
  | some t =>
    let n := t.blocks.length
    let k := addrPage a
    let sent := fun (p : Nat) => decide (p * (256 * s.media.geom.cwpp) < t.ptr) && !(s.media.ops.any fun o => decide (o.why = .page t.wseq p) && !o.issued)
    let others := ((List.range n).map fun i => k * n + i).filter fun p => decide (t.blocks[p % n]? ≠ some (addrLun a, addrBlk a)) && sent p
    let par := s.media.parityPage t k
    if t.parity.contains k && par.isNone then none
    else some ((others.map fun p => setAddr s.media.geom t ((p * s.media.geom.cwpp + addrCw a) * 256)) ++ (par.map fun b => b + addrCw a * 256).toList)

/-- A read ends at step 4, rebuilt or not. -/
def State.step4End (s : State) (o : NandOp) (ok : Bool) : State := ((s.dropOp o.id).ladderEnd o.addr (if ok then 4 else 5) 0 0).readEnded o ok

/-- A read goes to step 4: its codeword is rebuilt from others of its Terrace, each read through steps 1 to 3. -/
def State.step4 (s : State) (o : NandOp) : State :=
  let s : State := { s with media := { s.media with ops := updWhere (fun x => x.id == o.id) (fun x => { x with step := 4, issued := false }) s.media.ops } }
  match s.rebuildFrom o.addr with
  | none => s.step4End o false
  | some [] => s.step4End o true
  | some l => l.foldl (fun s a => s.queueOp .read a (.rebuild o.id) 0 o.rank a) s

/-- A codeword that step 4 reads has ended. -/
def State.rebuildEnd (s : State) (op : Nat) (ok : Bool) : State :=
  let rest := s.media.ops.filter fun x => decide (x.why = .rebuild op)
  match s.media.op? op with
  | none => s
  | some o =>
    if !ok then (rest.foldl (fun s x => s.dropOp x.id) s).step4End o false
    else if rest.isEmpty then s.step4End o true else s

/-! ### LUN failure (R300) -/

/-- A record or extent has a codeword on a LUN. -/
def State.itemOn (s : State) (n : Nat) (i : Item) : Bool := (s.media.cwsOf i.addr).any fun a => addrLun a == n

/-- The key and keyspace whose Ward's replicas hold an item's data: the record's own, or those of a record that names the extent. -/
def State.itemKey (s : State) (i : Item) : Option (Nat × Bytes) :=
  if i.kind = .extent then (s.media.items.find? fun r => decide (r.kind = .extents) && r.extents.any fun e => e.2 == i.addr).map fun r => (r.ksp, r.key)
  else some (i.ksp, i.key)

/-- The walk of R300: each lost version on a failed LUN that a replica holds is written to the SPARGE stream, stamp and origin unchanged, and
switched when its set is VERIFIED. Whether a replica holds it is free; one that finds no room is not written (DESIGN CHOICE, log entry 26). -/
def State.healLun (s : State) (n : Nat) : State :=
  (s.media.items.filter fun i => decide (i.kind = .value ∨ i.kind = .extents ∨ i.kind = .tombstone ∨ i.kind = .extent) && s.media.verifiedAt i.addr && s.itemOn n i && s.itemLive i).foldl (fun s i =>
    match s.itemKey i with
    | none => s
    | some (ksp, key) =>
      let (gone, t) := s.askReplica (s.digest ksp key) ksp
      if gone then t
      else ((t.store .sparge { i with copyOf := i.addr, lost := false } (decide (i.kind = .extent)) 3).map fun x => x.2).getD t) s

/-- The leaves whose copy lies on a failed LUN: one in the cache is written anew, another is rebuilt (R192, R300). -/
def State.leavesOff (s : State) (n : Nat) : State :=
  (s.index.leaves.filter fun l => decide (l.addr ≠ 0) && s.media.verifiedAt l.addr && (s.media.cwsOf l.addr).any fun a => addrLun a == n).foldl (fun s l =>
    if l.cached then s.modLeaf l.ward l.pfx l.ldepth fun l => leafChanged s.clk.cycles l else s.startRebuild l) s

/-- A LUN fails: it is never addressed again until the next start; unverified sets that hold it are closed and become urgent, what they have not
programmed is written again; its spares and one block for each other block neither free nor retired, those of its system regions too, leave the
spare pool; reads of VERIFIED data on it end at step 5, other reads go to step 4. -/
def State.failLun (s : State) (n : Nat) : State :=
  let used := s.media.sysBlocks n + (s.media.blocks.filter fun b => b.lun == n && decide (s.media.sysBlocks n ≤ b.blk) && decide (b.state ≠ .free ∧ b.state ≠ .retired)).length
  let spares := ((s.media.lun? n).map fun l => l.spares).getD 0
  let s := s.modLun n fun l => { l with state := .failed, spares := 0, erase := none, suspended := false }
  let s := { s with media := { s.media with health := { s.media.health with lunsFailed := satAdd 16 s.media.health.lunsFailed 1 } } }
  let s := ((s.report .lunFailed n).takeSpare (spares + used)).updateSpace
  let s := (s.media.sets.filter fun t => decide (t.state = .opened ∨ t.state = .full) && t.blocks.any fun b => b.1 == n).foldl
    (fun s t => (((if t.state = .opened then s.closeSet t.wseq 2 else s).dropPages t.wseq n none).markUrgent t.wseq).rescueSet t.wseq) s
  let s := (s.media.ops.filter fun o => addrLun o.addr == n && decide (o.step ≠ 4)).foldl (fun s o =>
    if (s.media.op? o.id).isNone then s
    else if o.kind ≠ .read then s.dropOp o.id
    else match o.why with
      | .rebuild p => ((s.dropOp o.id).ladderEnd o.addr 5 0 0).rebuildEnd p false
      | _ => if s.mayRebuild o then s.step4 o else ((s.dropOp o.id).ladderEnd o.addr 5 0 0).readEnded o false) s
  (s.healLun n).leavesOff n

/-! ### What goes on whenever programs, parities or erases have ended -/

/-- Blocks of the USER, STAGED and SPARGE streams all of whose pages have passed, and that have no summary, get theirs once the INDEX stream can
take it (R262). -/
def State.summarise (s : State) : State :=
  (s.media.sets.filter fun t => decide (t.stream ≠ .index ∧ t.state ≠ .failed ∧ t.state ≠ .sparging)).foldl (fun s t =>
    ((List.range t.blocks.length).zip t.blocks).foldl (fun s x =>
      let all := (List.range s.media.geom.pages).all fun k => t.passed.contains (k * t.blocks.length + x.1)
      if !all || !((s.media.block? x.2.1 x.2.2).any fun b => decide (b.summary = 0 ∧ b.wseq = t.wseq)) then s
      else match s.store .index { addr := 0, kind := .summary, wseq := 0, units := 256 * max 1 (((s.recordsIn x.2.1 x.2.2).length * 40 + 4095) / 4096) } true 2 with
        | none => s
        | some (a, s) =>
          (s.modItem a fun i => { i with data := s.summaryBytes x.2.1 x.2.2 }).modBlock x.2.1 x.2.2 fun b => { b with summary := a }) s) s

/-- What follows whenever programs have passed: entries drain, leaves are written, staged pieces stand on flash, pads, summaries, switches and
what a failure left to do go on. -/
def State.progress (s : State) : State :=
  (s.mediaProgress.leafProgress.segProgress.padsGo.summarise.switchesGo.failedGo.restage.victimsDone).piecesCheck.imageProgress.kspReap

/-! ### The power-fail flush (R213, R214, R678) -/

/-- The recorder writes a counter entry (R678). -/
def State.counterEntry (s : State) : State :=
  let e : CounterEntry :=
    { opS := s.opSeconds, cycle := s.ev.cycle, lost := s.ev.lost, pending := s.ev.front, clearing := s.ev.clearing.map fun c => c.keyId }
  { s with ev := { s.ev with counter := some e } }

/-- Steps 2 and 3 of R213: the host and network engines stop, FILLING mutations are abandoned without a completion. -/
def State.startFlush (s : State) (for_ : Nat) : State :=
  let filling := (s.tun.entries.filter fun e => decide (e.state = .filling)).map fun e => e.id
  let s := { s with tun := { s.tun with flushing := true, flushFrom := s.clk.cycles, flushFor := for_ } }
  let s := (s.kv.ctxs.filter fun c => c.entries.any fun e => filling.contains e).foldl (fun s c => s.releaseCtx c) s
  filling.foldl (fun s id => s.freeEntry id) s

/-- Pack items with their sizes into pages of `cap` bytes, each whole in one page; an item longer than a page begins one of its own (DESIGN
CHOICE, log entry 150). -/
def packPages (cap : Nat) : List (RescueItem × Nat) → List RescueItem → Nat → List (List RescueItem)
  | [], cur, _ => if cur.isEmpty then [] else [cur]
  | (i, n) :: l, cur, used =>
    if used + n ≤ cap then packPages cap l (cur ++ [i]) (used + n)
    else (if cur.isEmpty then [] else [cur]) ++ packPages cap l [i] n

/-- The slot that a flush writes: the one that does not hold the needed image (R214). -/
def TunSt.target (t : TunSt) : Nat := if t.needed then 1 - t.slot else t.slot

/-- The image of a flush (R214, R215): its markers, and every LIVE and DRAINED entry, the journal and the front buffer in pages. -/
def State.image (s : State) (complete : Bool) : Image :=
  let es := s.tun.entries.filter fun e => decide (e.state ≠ .filling)
  let evs := s.ev.log.filter fun r => !r.prog2
  let items := (es.map fun e => (RescueItem.entry e.id, 64 * entryUnits e)) ++ (s.index.journal.map fun r => (RescueItem.journal r.seq, 64))
    ++ (List.range evs.length).map fun i => (RescueItem.event i, 64)
  { seq := s.tun.flushSeq + 1, complete := complete, sizeMib := s.tun.sizeMib, blocks := (s.tun.rescue[s.tun.target]?).getD [],
    pages := packPages s.media.geom.pageBytes items [] 0, entries := es, journal := s.index.journal, events := evs }

/-- The flash keeps an image: it is the needed one from then on (R214). -/
def TunSt.keepImage (t : TunSt) (im : Image) : TunSt :=
  { t with slots := t.slots.set t.target (some im), slot := t.target, needed := true, flushSeq := im.seq, flushing := false }

/-- A flush ends for want of power after its begin marker and before its end marker (R219): the image stands incomplete, and what of it does not
pass its CHECK, the START_STAGE_DONE that replays it says. -/
def State.cutImage (s : State) : State := { s with tun := s.tun.keepImage (s.image false) }

/-- Steps 6 and 7 of R213: the image of every LIVE and DRAINED entry, the journal and the front buffer is complete. -/
def State.writeImage (s : State) (lastUs : Nat) : State :=
  let im := s.image true
  let s := { s with tun := s.tun.keepImage im, media := { s.media with health := { s.media.health with tunFlushes := satAdd 32 s.media.health.tunFlushes 1 } } }
  ((s.fput .tunFlushLast_lastUs lastUs).fput .tunFlushLast_seqLo (im.seq % 2 ^ 32)).checkpoint

end Sys2Proof.Machine
end

