-- ==== Sys2Proof/Machine/TownOps.lean ====
section
/-!
DEFINITION. What Towns share (R371 to R411): the tables, applying an epoch, publishing one, replication, transfers, and the
acting Hall's part in each.
-/

namespace Sys2Proof.Machine

/-! ### The tables -/

/-- Member IDs and incarnations of a handle (R371). -/
def idOf (h : Nat) : Nat := h % 16384

/-- The membership entry of a member ID. -/
def TownSt.member? (t : TownSt) (id : Nat) : Option Member := t.members.find? fun m => idOf m.handle == id

/-- Members that get no Wards: those that leave and those that are read-only (R380, R305). -/
def TownSt.closing (t : TownSt) : List Nat := t.leaving ++ t.emptying

/-- LIVE members. -/
def TownSt.live (t : TownSt) : List Member := sortBy (fun m => idOf m.handle) (t.members.filter fun m => m.state == 2)

/-- Put a member's entry in place of that of its ID. -/
def putMember (m : Member) (l : List Member) : List Member := (l.filter fun x => idOf x.handle != idOf m.handle) ++ [m]

/-- Put a Ward's entry in place. -/
def putWard (w : WardEntry) (l : List WardEntry) : List WardEntry := insertBy (fun e => e.ward) w (l.filter fun x => x.ward != w.ward)

/-- Put a keyspace's entry in place. -/
def putKsp (k : Keyspace) (l : List Keyspace) : List Keyspace := insertBy (fun e => e.ksp) k (l.filter fun x => x.ksp != k.ksp)

/-- A handle can be reached: this part unless it is fenced, or a member with an OPEN session. -/
def State.reach (s : State) (h : Nat) : Bool :=
  decide (h ≠ 0) && (if h = s.handle then decide (s.town.state ≠ 3) else (s.slotTo (idOf h)).isSome)

/-- R403: neither the acting Hall nor the standby can be reached. -/
def State.frozen (s : State) : Bool := s.isMember && !s.reach s.town.hall && !s.reach s.town.standby

/-- This part is the acting Hall and not fenced (R401). -/
def State.acting (s : State) : Bool := decide (s.town.role = 2 ∧ s.town.state ≠ 3)

/-- Watchers of a member and what it needs of them (R395): Q = ⌊w / 2⌋ + 1. -/
def quorum (w : Nat) : Nat := w / 2 + 1

/-- The watchers of this member. -/
def State.watchers (s : State) : List Nat := ((s.town.member? s.memberId).map fun m => m.watchers).getD []

/-- The members this one watches. -/
def State.watched (s : State) : List Nat := (s.town.live.filter fun m => m.watchers.contains s.memberId).map fun m => m.handle

/-- The cycle at which this member's lease lapses (R395): that of the Q-th newest heartbeat of its watchers, plus LEASE_US. A
member without watchers, alone in its Town, keeps its lease. -/
def State.leaseEnd (s : State) : Option Nat :=
  let ws := s.watchers
  if ws.isEmpty then none
  else
    let hs := sortBy id (ws.map fun w => ((s.town.heard.find? fun h => h.1 == w).map fun h => h.2).getD 0)
    some ((hs.getD (ws.length - quorum ws.length) 0) + s.fget .twnHbCtrl_leaseUs * usCycles)

/-- The lease is valid now. -/
def State.leaseValid (s : State) : Bool :=
  match s.leaseEnd with
  | none => true
  | some e => decide (s.clk.cycles < e)

/-- The settings of R408 as this part holds them. -/
def State.settings (s : State) : Settings :=
  { retainMs := s.fget .kveSnapCtrl_retainMs, hb := s.reg ⟨.twnHbCtrl, 0, 0, 0⟩, retry := s.reg ⟨.twnRetryCtrl, 0, 0, 0⟩, level := s.town.level }

/-- This part's own membership record (R378 step 2). -/
def State.ownMember (s : State) : Member :=
  let held := (s.index.roots.map fun r => r.ward) ++ ((s.tun.entries.filter fun e => decide (e.kind ≠ .batchRecord)).map fun e => wardOf e.digest)
  { handle := s.handle, state := 1, addr := s.town.addr, port := s.fget .ywpPort_udpPort, domain := s.town.domain, yMin := s.fget .ywpCtrl_verMin,
    yMax := s.fget .ywpCtrl_verMax, fMin := s.ident.featMin, fMax := s.ident.featMax, luns := (s.media.luns.filter fun l => decide (l.state = .accepted)).length,
    capacity := s.media.geom.blocks, held := held.eraseDups }

/-! ### Replication at a receiver (R391) -/

/-- An entry whose stamp and origin the part already holds. -/
def State.holdsVersion (s : State) (e : TunEntry) : Bool :=
  (s.tun.entries.any fun x => x.ksp == e.ksp && x.key == e.key && x.stamp == e.stamp && x.origin == e.origin && decide (x.kind ≠ .batchRecord))
    || s.media.items.any fun i => decide (i.kind = .value ∨ i.kind = .extents ∨ i.kind = .tombstone) && i.ksp == e.ksp && i.key == e.key && i.stamp == e.stamp && i.origin == e.origin

/-- An entry as this part keeps it: its digest computed here (R178), the stamp of the version on flash that has superseded it, if any (R48); a
PUBLISH names the extents held for its staged value, or becomes a whole value when they are not all here. -/
def State.localEntry (s : State) (sender : Nat) (e : TunEntry) : TunEntry :=
  let later := (((sortBy (fun i => i.ord) (s.recordsOf e.ksp e.key)).find? fun i => decide (e.ord < i.ord)).map fun i => i.stamp).getD 0
  let e : TunEntry :=
    { e with recAddr := 0, refs := 0, restored := false, replAck := true, good := true, digest := s.digest e.ksp e.key, upTo := later, batch := 0 }
  if e.kind = .publish then
    match s.town.pieces.find? fun p => p.1 == sender && p.2.1 == e.handle with
    | some p => if p.2.2.length = e.extents.length then { e with extents := p.2.2, data := [], handle := 0 } else { e with kind := .put, extents := [], handle := 0 }
    | none => { e with kind := .put, extents := [], handle := 0 }
  else e

/-- Entries of a key of the list wait: one that was dispatched before is FILLING, or a change that came before still waits (R21, R34). -/
def State.changeBehind (s : State) (id : Nat) (es : List TunEntry) : Bool :=
  es.any fun e => decide (e.kind ≠ .batchRecord) && (s.fillingOn e.ksp [e.key] || s.kv.ctxs.any fun c => decide (c.id < id) && (match c.repl with
    | some m => (match m.body with | .repl xs _ | .versions xs _ _ => xs.any fun x => x.ksp == e.ksp && x.key == e.key && decide (x.kind ≠ .batchRecord) | _ => false)
    | none => false))

/-- Write entries with their given stamps and origins (R391), in one step: a batch comes whole, with its BATCH_RECORD, under a batch number of
this part and RESOLVED (R75, R205). None while there is no room for them (R34). -/
def State.takeEntries (s : State) (sender : Nat) (es : List TunEntry) : Option State :=
  let rec_ := es.find? fun e => decide (e.kind = .batchRecord)
  let es := (es.filter fun e => decide (e.kind ≠ .batchRecord) && !s.holdsVersion e).map (s.localEntry sender)
  let b := s.tun.batchNo + 1
  let units := (es.map entryUnits).sum + if rec_.isSome then tunUnits 0 (4 * es.length) else 0
  if !s.tunRoom units es.length then none
  else
    let (ids, s) := es.foldl (fun (acc : List Nat × State) e =>
      match acc.2.addEntry { e with batch := if rec_.isSome then b else 0 } false with
      | none => acc
      | some (id, s) => (acc.1 ++ [id], s)) ([], s)
    let s := match rec_ with
      | none => s
      | some r =>
        if ids.isEmpty then s
        else
          let r : TunEntry := { r with batch := b, members := ids, resolved := true, replAck := true, good := true, refs := 0, restored := false, recAddr := 0 }
          (({ s with tun := { s.tun with batchNo := b } } : State).addEntry r false).elim s fun x => x.2
    some { s with town := { s.town with pieces := s.town.pieces.filter fun p => !(p.1 == sender && es.any fun e => e.kind == .publish && e.handle == p.2.1) } }

/-- A receiver of changes of Ward `w` from its owner (R391). -/
def State.receiverOf (s : State) (w sender : Nat) : Bool :=
  let e := s.wardEntry w
  e.assigned && e.owner == idOf sender && (e.reps.contains s.memberId || s.town.transfers.any fun t => t.ward == w && idOf t.target == s.memberId)

/-- A piece of another owner's staged value is written as extents (R391, R253) under context `id`; the acknowledgement follows when they are
on flash. -/
def State.takePiece (s : State) (id : Nat) (m : TMsg) (handle ksp : Nat) (key : Bytes) (declared off : Nat) (b : Bytes) : Option State :=
  let old := ((s.town.pieces.find? fun p => p.1 == m.sender && p.2.1 == handle).map fun p => p.2.2).getD []
  let v : Staged := { handle := handle, tenant := 0, ksp := ksp, key := key, declared := declared, last := 0, extents := old }
  (s.storeExtents .staged ksp 1 (pieceExtents s.media v off b) []).map fun (es, s) =>
    let kept := old.filter fun e => !(es.any fun x => x.1 == e.1)
    let ps := (s.town.pieces.filter fun p => !(p.1 == m.sender && p.2.1 == handle)) ++ [(m.sender, handle, kept ++ es)]
    let c : OpCtx :=
      { id := id, pool := .town, src := .town (idOf m.sender), tenant := 0, desc := {}, phase := .pages, ponr := true,
        need := es.map fun e => e.2, handle := m.arg0, readT := m.arg1, dest := m.ward, res := { status := stOk, rstamp := m.stamp } }
    { s with town := { s.town with pieces := ps }, kv := { s.kv with ctxs := insertBy (fun c => c.id) c s.kv.ctxs, nextCtx := max s.kv.nextCtx (id + 1) } }

/-- A message of changes is accepted under the map the part holds: REPLICATE of a Ward from its owner at one of its receivers (R391),
TRANSFER_DATA at the target of its transfer (R404). -/
def State.takesChange (s : State) (m : TMsg) : Bool :=
  if m.tmsg = 0x0A then s.receiverOf m.ward m.sender
  else
    let e := s.wardEntry m.ward
    e.assigned && e.owner == idOf m.sender && s.town.transfers.any fun t => t.ward == m.ward && idOf t.target == s.memberId

/-- A message of changes that is not accepted is discarded and counted; a REPLICATE is answered MOVED (R391). -/
def State.refuseChange (s : State) (m : TMsg) : State :=
  let s := s.fadd .twnDrop_notOwner 1
  if m.tmsg = 0x0A then
    s.sendTown (idOf m.sender) { tmsg := 0x0B, ward := m.ward, stamp := m.stamp, arg0 := m.arg0, arg1 := m.arg1, status := stMoved }
  else s

/-- Request records that come with a change are kept, each once (R353, R391). -/
def State.keepRecords (s : State) (rs : List ReqRecord) : State :=
  { s with ywp := { s.ywp with records := s.ywp.records ++ rs.filter fun r => !(s.ywp.records.any fun q => q.identity == r.identity && q.reqNo == r.reqNo) } }

/-- The changes of a message are made under context `id`: REPLICATE's entries with their request record, or a piece (R391); TRANSFER_DATA's
versions as they come, with the request records (R404). None while they wait for an earlier change of one of their keys, or for room. -/
def State.applyChange (s : State) (id : Nat) (m : TMsg) : Option State :=
  match m.body with
  | .repl es r =>
    if s.changeBehind id es then none
    else (s.takeEntries m.sender es).map fun s =>
      (s.keepRecords r.toList).sendTown (idOf m.sender) { tmsg := 0x0B, ward := m.ward, stamp := m.stamp, status := stOk }
  | .piece h k key dl off b => s.takePiece id m h k key dl off b
  | .versions es rs _ =>
    if s.changeBehind id es then none
    else (s.takeEntries m.sender es).map fun s => s.keepRecords rs
  | _ => some s

/-- A member may take one more Town context: the pool has one, and the member holds fewer than 4,096 (R32, R33). -/
def State.townFree (s : State) (sender : Nat) : Bool :=
  s.townRoom 1 && decide ((s.kv.ctxs.filter fun c => decide (c.src = .town sender ∧ c.pool = .town)).length < 4096)

/-- A message of changes waits: in a Town context (R34), or in its session's receive queue (R33). -/
def State.holdChange (s : State) (m : TMsg) (p : Pool) : State :=
  let c : OpCtx :=
    { id := s.kv.nextCtx, pool := p, src := .town (idOf m.sender), tenant := 0, desc := {}, phase := .held, ponr := true, repl := some m, since := s.clk.cycles }
  { s with kv := { s.kv with ctxs := s.kv.ctxs ++ [c], nextCtx := c.id + 1 } }

/-- A message of changes arrives, or has waited for its epoch (R384, R391, R404). -/
def State.takeChange (s : State) (m : TMsg) : State :=
  if !s.takesChange m then s.refuseChange m
  else if s.townFree (idOf m.sender) then (s.applyChange s.kv.nextCtx m).getD (s.holdChange m .town)
  else s.holdChange m .queue

/-- A message of changes that waits is taken up again (R33, R34). -/
def State.takeAgain (s : State) (c : OpCtx) (m : TMsg) : State :=
  let t : State := { s with kv := { s.kv with ctxs := s.kv.ctxs.filter fun x => x.id != c.id } }
  if c.pool = .queue ∧ !s.townFree (idOf m.sender) then s
  else if !s.takesChange m then t.refuseChange m
  else (t.applyChange c.id m).getD (s.modCtx c.id fun c => { c with pool := .town })

/-! ### Applying an epoch (R383) -/

/-- Greatest stamp the part holds for a Ward (R399, R404). -/
def State.topStamp (s : State) (w : Nat) : Nat :=
  (((s.tun.entries.filter fun e => decide (e.kind ≠ .batchRecord) && wardOf e.digest == w).map fun e => e.stamp)
    ++ (s.index.leaves.filter fun l => l.ward == w).flatMap fun l => l.entries.map fun e => e.stamp).foldl max 0

/-- The Wards of an operation. -/
def State.ctxWard (s : State) (c : OpCtx) : Nat :=
  if c.phase = .forwarded ∧ c.desc.opc = opScan then wardOf c.scanAt
  else if c.phase = .forwarded ∧ opStageData ≤ c.desc.opc ∧ c.desc.opc ≤ opStageDiscard then
    ((s.kv.away? c.tenant (handleOf c.desc)).map fun v => wardOf (s.digest v.ksp v.key)).getD 0
  else if c.desc.opc = opStageData ∨ c.desc.opc = opStageOpen then
    ((s.kv.staged? c.handle).map fun v => wardOf (s.digest v.ksp v.key)).getD ((s.wardsOf c).headD 0)
  else (s.wardsOf c).headD 0

/-- The Wards of a Tun entry: of its key, or of every member of its batch (R75). -/
def State.entryWards (s : State) (e : TunEntry) : List Nat :=
  if e.batch = 0 then [wardOf e.digest]
  else ((s.tun.entries.filter fun x => x.batch == e.batch && decide (x.kind ≠ .batchRecord)).map fun x => wardOf x.digest).eraseDups

/-- The receivers of changes of some Wards at a keyspace's replication factor (R390). -/
def State.receiversOf (s : State) (ws : List Nat) (ksp : Nat) : List Nat :=
  (ws.flatMap fun w => s.receivers w (((s.ksp? ksp).map fun k => k.rf).getD 1)).eraseDups

/-- A change, alone or a batch with its record, goes to its receivers again, as with REPL_ACK 0 (R394, R399). -/
def State.offerEntries (s : State) (es : List TunEntry) : State :=
  match es with
  | [] => s
  | e :: _ =>
    let ws := s.entryWards e
    let rs := s.receiversOf ws e.ksp
    let s := es.foldl (fun s e => s.modEntry e.id fun e => { e with replAck := rs.isEmpty }) s
    if rs.isEmpty then s
    else
      let s := s.replicateAll ws (((s.ksp? e.ksp).map fun k => k.rf).getD 1) e.stamp rs es none
      { s with town := { s.town with offers := (s.town.offers.filter fun o => !(es.any fun e => e.id == o.1)) ++ es.map fun e => (e.id, rs) } }

/-- The owner's offer of the LIVE entries of a Ward to its receivers: all of them when it has been promoted (R399), those with REPL_ACK 0 after
a replay (R394). A batch goes as one. -/
def State.offerWard (s : State) (w : Nat) (all : Bool) : State :=
  let es := s.tun.entries.filter fun e => decide (e.state = .live ∧ e.kind ≠ .batchRecord) && wardOf e.digest == w && (all || !e.replAck)
  let s := (es.filter fun e => e.batch == 0).foldl (fun s e => s.offerEntries [e]) s
  ((es.filter fun e => e.batch != 0).map fun e => e.batch).eraseDups.foldl (fun s b => s.offerEntries (s.tun.entries.filter fun e => e.batch == b && decide (e.state = .live))) s

/-- A Ward comes to this member: no stamp below those held, and the entries are offered (R394, R399, R404). -/
def State.gainWard (s : State) (w : Nat) (all : Bool) : State :=
  let t := s.topStamp w
  let s := if s.kv.lastU * 4096 + s.kv.lastK < t then s.tookStamp t else s
  s.offerWard w all

/-- A dispatched change is not acknowledged yet: it fills, or waits for its replicas. -/
def OpCtx.open_ (c : OpCtx) : Bool := !c.entries.isEmpty && decide (c.phase = .commit ∧ c.acks ≠ [] ∨ c.phase = .value ∨ c.phase = .reading)

/-- A dispatched change of a Ward that has left this member (R393): a batch, and entries that are still FILLING, are abandoned. A request gets no
reply; an operation of this part's own host is sent to the new owner, with its request number (R388). -/
def State.loseOp (s : State) (c : OpCtx) : State :=
  let s := if c.batchNo = 0 ∧ c.phase = .commit then s else c.entries.foldl (fun s id => s.freeEntry id) s
  let s := s.releaseCtx c
  match c.src with
  | .ring _ _ =>
    let c' : OpCtx :=
      { c with phase := if c.phase = .value then .fetching else .noOwner, ponr := decide (c.phase ≠ .value), valueDue := false, entries := [], refs := [], need := [],
               got := [], lost := [], acks := [], epoch := none, stamp := 0, batchNo := 0, wards := [], clock := false, res := {}, since := s.clk.cycles }
    { s with kv := { s.kv with ctxs := insertBy (fun x => x.id) c' s.kv.ctxs } }
  | .sess slot m => s.modSlot slot (endRx m)
  | .town _ => s

/-- A Ward leaves this member (R393, R404, R83): staged values are discarded, with events, and changes that are not acknowledged end. -/
def State.loseWard (s : State) (w : Nat) : State :=
  let gone := s.kv.staged.filter fun v => wardOf (s.digest v.ksp v.key) == w
  let s := gone.foldl (fun s v => (s.dropStaged v.handle).report .stagedDiscarded v.handle) s
  (s.kv.ctxs.filter fun c => c.open_ && (if c.wards.isEmpty then s.ctxWard c == w else c.wards.contains w)).foldl (fun s c => s.loseOp c) s

/-- The part keeps what it has of a Ward: it holds it, nobody is assigned, or the Ward waits to come back to it (R400). -/
def State.keepsWard (s : State) (w : Nat) : Bool :=
  let e := s.wardEntry w
  s.holdsWard w || !e.assigned || (e.orphan && e.orphanOf == s.memberId)

/-- What the part has of Wards it no longer holds is dead (R285, R179, R400): the segment, its leaves and journal records, and the Tun entries. A
Ward that a dispatched operation is still on goes with a later epoch (R405; DESIGN CHOICE, log entry 144). -/
def State.dropWards (s : State) : State :=
  let busy := fun (w : Nat) => s.kv.ctxs.any fun c => c.ponr && (s.wardsOf c).contains w
  let mine := ((s.index.roots.map fun r => r.ward) ++ (s.tun.entries.filter fun e => decide (e.kind ≠ .batchRecord)).map fun e => wardOf e.digest).eraseDups
  let gone := mine.filter fun w => !s.keepsWard w && !busy w
  if gone.isEmpty then s
  else
    let es := s.tun.entries.filter fun e => decide (e.kind ≠ .batchRecord) && e.refs == 0 && gone.contains (wardOf e.digest)
    let s := es.foldl (fun s e => s.freeEntry e.id) s
    let x := s.index
    { s with index := { x with roots := x.roots.filter fun r => !gone.contains r.ward, leaves := x.leaves.filter fun l => !gone.contains l.ward,
                               journal := x.journal.filter fun r => !gone.contains r.ward } }

/-- The first map after a replay (R394): replayed entries of a Ward that the member no longer holds go, on keyspaces of replication factor 2 or
more. -/
def State.dropReplayed (s : State) : State :=
  (s.tun.entries.filter fun e => e.restored && decide (e.kind ≠ .batchRecord) && decide (2 ≤ ((s.ksp? e.ksp).map fun k => k.rf).getD 1)
    && (s.wardEntry (wardOf e.digest)).assigned && !s.holdsWard (wardOf e.digest)).foldl (fun s e => s.freeEntry e.id) s

/-- Waits for receivers that a new epoch no longer names end (R392). -/
def State.trimAcks (s : State) : State :=
  let cs := s.kv.ctxs.filter fun c => !c.acks.isEmpty
  let s := cs.foldl (fun s c =>
    let rs := s.receiversOf (if c.wards.isEmpty then [s.ctxWard c] else c.wards) (s.kspOf c.desc)
    let l := c.acks.filter fun m => rs.contains m
    if l = c.acks then s
    else
      let s := s.modCtx c.id fun c => { c with acks := l }
      if !l.isEmpty then s
      else
        let s := c.entries.foldl (fun s id => s.modEntry id fun e => { e with replAck := true }) s
        let s := if c.batchNo = 0 then s else s.resolveBatch c.batchNo
        if c.phase = .commit then s.commitCheck c else s) s
  let os := s.town.offers.map fun o => (o.1, match s.tun.entry? o.1 with
    | some e => let rs := s.receiversOf (s.entryWards e) e.ksp; o.2.filter fun m => rs.contains m
    | none => [])
  let s := (os.filter fun o => o.2.isEmpty).foldl (fun s o => s.modEntry o.1 fun e => { e with replAck := true }) s
  { s with town := { s.town with offers := os.filter fun o => !o.2.isEmpty } }.piecesCheck

/-- A command that this member has sent to the acting Hall: a change of a keyspace, or a TOWN_CONTROL that the acting Hall judges (R407, R414). -/
def OpCtx.atHall (c : OpCtx) : Bool :=
  decide (c.phase = .admin ∧ c.dest ≠ 0) && (c.desc.opc == opKspCreate || c.desc.opc == opKspDelete || (c.desc.opc == opTown && decide (3 ≤ param c.desc 56 1)))

/-- Commands sent to a Hall that an epoch no longer names, and unanswered, wait to be sent to the one it names (R407). -/
def State.rerouteHall (s : State) : State :=
  let gone := fun (c : OpCtx) => c.atHall && c.dest != s.town.hall
  { s with kv := { s.kv with ctxs := updWhere gone (fun c => { c with phase := .noOwner, since := s.clk.cycles, dest := 0 }) s.kv.ctxs } }

/-- Forwarded operations whose owner has changed are sent again; on an ORPHAN Ward those of replication factor 1 end with
PEER_UNREACHABLE (R388, R389). -/
def State.rerouteOps (s : State) : State :=
  (s.kv.ctxs.filter fun c => decide (c.phase = .forwarded)).foldl (fun s c =>
    let w := s.ctxWard c
    let e := s.wardEntry w
    let rf : Nat := ((s.ksp? (s.kspOf c.desc)).map fun (k : Keyspace) => k.rf).getD 1
    if e.assigned && e.owner == c.dest && !(e.orphan && decide (rf ≤ 1)) then s
    else
      let s := s.staleMsgs c.id
      if e.orphan ∧ rf ≤ 1 then s.fail c stPeerUnreachable else s.modCtx c.id fun c => { c with phase := .noOwner, since := s.clk.cycles }) s

/-- Settings of the acting Hall are written into this part's registers, whatever the lock (R408). -/
def State.applySettings (s : State) (x : Settings) : State :=
  let s := (s.fput .kveSnapCtrl_retainMs x.retainMs).setReg ⟨.twnHbCtrl, 0, 0, 0⟩ x.hb
  let s := s.setReg ⟨.twnRetryCtrl, 0, 0, 0⟩ x.retry
  { s with town := { s.town with level := x.level } }

/-- Close the Town sessions (R380). -/
def State.closeTown (s : State) : State :=
  ((s.ywp.slots.filter fun x => x.member && decide (x.state = .opened)).map fun x => x.n).foldl (fun s n => s.sendClose n 1 1) s

/-- Send JOIN to the acting Hall (R378). -/
def State.sendJoin (s : State) : State :=
  let s := { s with town := { s.town with state := 1, joinSince := some s.clk.cycles } }
  s.sendTown (idOf s.town.hall) { tmsg := 0x01, body := .member s.ownMember }

/-- What a receiver still has to acknowledge goes out when a session to it opens (R392, R394): the changes that wait for it, the pieces of staged
values, and the entries offered to it after a replay or a promotion. A receiver that holds one acknowledges it again (R391). -/
def State.resendTo (s : State) (id : Nat) : State :=
  let waits := s.kv.ctxs.filter fun c => c.acks.contains id
  let s := waits.foldl (fun s c =>
    if c.phase = .commit then s.replicateAll c.wards (s.rfOf (s.kspOf c.desc)) c.stamp [id] (s.tun.entries.filter fun e => c.entries.contains e.id) (s.changeRecord c c.res)
    else if c.phase = .pages then
      match s.kv.staged? c.handle with
      | none => s
      | some v => s.sendPiece (c.wards.headD 0) id v c.desc.offset (c.fx.value.take c.desc.vlen)
    else s) s
  let owed := s.tun.entries.filter fun e => s.town.offers.any fun o => o.1 == e.id && o.2.contains id
  let s := (owed.filter fun e => e.batch == 0).foldl (fun s e => s.replicateAll (s.entryWards e) (s.rfOf e.ksp) e.stamp [id] [e] none) s
  (((owed.filter fun e => e.batch != 0).map fun e => e.batch).eraseDups).foldl (fun s b =>
    let es := s.tun.entries.filter fun e => e.batch == b && decide (e.state = .live)
    match es with
    | [] => s
    | e :: _ => s.replicateAll (s.entryWards e) (s.rfOf e.ksp) e.stamp [id] es none) s

/-- A session has opened. Its peer gets what it has not acknowledged (R392). A part that joins, and is neither defined Hall nor defined Deputy, sends
its JOIN over the first session to the defined Hall or the defined Deputy (R378 step 1). -/
def State.sessionUp (s : State) (n : Nat) : State :=
  match s.ywp.slot? n with
  | none => s
  | some x =>
    let id := idOf x.identity
    let s := if x.state = .opened ∧ x.member ∧ x.tenant = 0 ∧ s.isMember then s.resendTo id else s
    if s.flag .twnCfg_townEn ∧ x.state = .opened ∧ x.member ∧ s.fget .twnCfg_definedRole = 0 ∧ s.town.state = 1 ∧ s.town.role = 0
        ∧ (s.town.hall = 0 ∨ s.town.hall = x.identity) ∧ (id = s.fget .twnCfg_hallId ∨ id = s.fget .twnCfg_deputyId) then
      { s with town := { s.town with hall := x.identity } }.sendJoin
    else s

/-- What this member's own entry makes of it: LIVE with its role, REMOVED, or FAILED, after which it rejoins under a new
incarnation (R378, R380, R400). -/
def State.ownState (s : State) : State :=
  match s.town.member? s.memberId with
  | none => s
  | some m =>
    if m.state = 2 ∧ m.handle = s.handle then
      let role := if s.town.hall = s.handle then 2 else if s.town.standby = s.handle then 3 else 1
      let joined := decide (s.town.state = 1)
      let s := { s with town := { s.town with role := role, state := if s.town.state = 1 then 2 else s.town.state, joinSince := none } }
      match (if joined then s.town.joinCtx.bind s.kv.ctx? else none) with
      | some c => { s with town := { s.town with joinCtx := none } }.finish c {} []
      | none => s
    else if m.state = 4 then
      let s := { s with town := { s.town with role := 0, state := 0, joinSince := none } }.closeTown
      match s.town.joinCtx.bind s.kv.ctx? with
      | some c => { s with town := { s.town with joinCtx := none } }.finish c {} []
      | none => s
    else if m.state = 3 ∧ m.handle = s.handle then
      let inc := if (s.town.incarnation + 1) % 262144 = 0 then 1 else s.town.incarnation + 1
      { s with town := { s.town with role := 0, incarnation := inc, granted := s.town.granted }, ywp := { s.ywp with reqNo := 1 } }.sendJoin
    else s

/-- A member that is leaving asks a new acting Hall again (R380). -/
def State.askLeave (s : State) (was : Nat) : State :=
  if s.town.state = 4 ∧ s.town.hall ≠ was then s.sendTown (idOf s.town.hall) { tmsg := 0x03 } else s

/-- Apply an epoch: the tables change, then what follows for Wards, operations and this member (R383, R388, R392 to R394). -/
def State.applyMap (s : State) (b : MapBody) (epoch : Nat) (full : Bool) : State :=
  let old := s.town
  let wasMember := s.isMember
  let hadStandby := decide (s.town.standby ≠ 0)
  let ws := if full then b.wards else b.wards.foldl (fun l w => putWard w l) s.town.wards
  let ms := if full then b.members else b.members.foldl (fun l m => putMember m l) s.town.members
  let ks := if full then b.keyspaces else b.keyspaces.foldl (fun l k => putKsp k l) s.kv.keyspaces
  let s := { s with
    town := { s.town with wards := ws, members := ms, transfers := b.transfers.getD (if full then [] else s.town.transfers), epoch := epoch, hall := b.hall,
                          standby := b.standby, noStandby := decide (b.standby = 0) }
    kv := { s.kv with keyspaces := ks } }
  let s := match b.settings with | some x => s.applySettings x | none => s
  let s := if hadStandby && decide (b.standby = 0) then s.report .noStandby else s
  let s := s.ownState
  let mine := fun (t : TownSt) (w : Nat) => (t.wards.find? fun e => e.ward == w).any fun e => e.assigned && e.owner == s.memberId
  let ids := ((old.wards.map fun e => e.ward) ++ s.town.wards.map fun e => e.ward).eraseDups
  let lost := if wasMember then ids.filter fun w => mine old w && !mine s.town w else []
  let won := ids.filter fun w => !(wasMember && mine old w) && mine s.town w
  let s := lost.foldl (fun s w => s.loseWard w) s
  let s := if wasMember then s else s.dropReplayed
  let s := won.foldl (fun s w => s.gainWard w wasMember) s
  let gone := fun (w : Nat) => !(s.town.transfers.any fun t => t.ward == w)
  let s := { s with town := { s.town with cuts := s.town.cuts.filter fun c => !gone c.1, copied := s.town.copied.filter fun w => !gone w } }
  let s := (s.trimAcks.rerouteOps.rerouteHall.dropWards).askLeave old.hall
  let go := s.town.waiting.filter fun m => full || decide (m.2.epoch ≤ epoch)
  let s := { s with town := { s.town with waiting := s.town.waiting.filter fun m => !(full || decide (m.2.epoch ≤ epoch)) } }
  go.foldl (fun s m => s.takeChange m.2) s

/-! ### Publishing (R377, R383, R407) -/

/-- The whole map, as MAP_FULL carries it. -/
def State.fullMap (s : State) : MapBody :=
  { wards := s.town.wards, transfers := some s.town.transfers, members := s.town.members, keyspaces := s.kv.keyspaces, settings := some s.settings,
    hall := s.town.hall, standby := s.town.standby }

/-- Members that hear of an epoch: LIVE and JOINING, but this one. -/
def State.audience (s : State) : List Nat :=
  (s.town.members.filter fun m => (m.state == 1 || m.state == 2) && m.handle != s.handle).map fun m => idOf m.handle

/-- A publication whose every LIVE member has acknowledged ends: the command that waits for it completes (R407, R416). -/
def State.published (s : State) (p : Publish) : State :=
  let s := match p.answer with | some (m, t) => s.sendTown m t | none => s
  match p.ctx.bind s.kv.ctx? with
  | some c => s.finish c c.res []
  | none => s

/-- Send an epoch to every member and apply it here. -/
def State.sendEpoch (s : State) (p : Publish) : State :=
  let aud := s.audience
  let prev := s.town.epoch
  let s := s.applyMap p.body p.epoch false
  let msg : TMsg := { tmsg := if p.takeover then 0x0E else 0x06, epoch := p.epoch, arg0 := prev, body := .map p.body }
  let s := (aud ++ s.audience.filter fun m => !aud.contains m).foldl (fun s m => s.sendTown m msg) s
  let wait := ((s.town.live.filter fun m => m.handle != s.handle).map fun m => idOf m.handle)
  if p.atSend ∨ wait.isEmpty then s.published p else { s with town := { s.town with publish := s.town.publish ++ [{ p with sentAll := true, waiting := wait }] } }

/-- The acting Hall publishes a change: to the standby first, whose MAP_ACK it awaits (R377). Bound KCVs not yet published go
with it (R518). -/
def State.publishAs (s : State) (p : Publish) : State :=
  let known := p.body.keyspaces.map fun k => k.ksp
  let bound := s.kv.keyspaces.filter fun k => s.cip.bound.contains k.ksp && !known.contains k.ksp
  let body : MapBody := { p.body with keyspaces := p.body.keyspaces ++ bound }
  let p : Publish := { p with epoch := (s.town.publish.map fun p => p.epoch).foldl max s.town.epoch + 1, body := body }
  let s : State := { s with cip := { s.cip with bound := [] } }
  if s.town.standby ≠ 0 ∧ (s.slotTo (idOf s.town.standby)).isSome ∧ !p.takeover then
    let s := s.sendTown (idOf s.town.standby) { tmsg := 0x06, epoch := p.epoch, arg0 := p.epoch - 1, body := .map p.body }
    { s with town := { s.town with publish := s.town.publish ++ [p] } }
  else s.sendEpoch p

/-- Publish a change that nobody waits for. -/
def State.publishMap (s : State) (b : MapBody) : State := s.publishAs { body := b }

/-- A change that leaves the Hall, the standby and everything else as they are. -/
def State.noChange (s : State) : MapBody := { hall := s.town.hall, standby := s.town.standby }

/-! ### Who watches, owns and replicates -/

/-- `n` members after `id` in the circle of `l`. -/
def following (id n : Nat) (l : List Nat) : List Nat := ((l.filter fun x => id < x) ++ l.filter fun x => x < id).take n

/-- The members with their watchers assigned (R395): w = min(3, LIVE − 1), the next LIVE IDs; the standby always watches the
acting Hall. -/
def assignWatchers (hall standby : Nat) (ms : List Member) : List Member :=
  let live := sortBy id ((ms.filter fun m => m.state == 2).map fun m => idOf m.handle)
  let w := min 3 (live.length - 1)
  ms.map fun m =>
    if m.state != 2 then { m with watchers := [] }
    else
      let f := following (idOf m.handle) w live
      { m with watchers := if m.handle = hall ∧ standby ≠ 0 ∧ !f.contains (idOf standby) ∧ w ≠ 0 then idOf standby :: f.take (w - 1) else f }

/-- The feature level in force (R410): the least FEAT_MAX of LIVE and FAILED members; it never falls. -/
def levelOf (now : Nat) (ms : List Member) : Nat :=
  let l := (ms.filter fun m => m.state == 2 || m.state == 3).map fun m => m.fMax
  match l with | [] => now | x :: xs => max now (xs.foldl min x)

/-- A LIVE member with flash (R6) that neither owns nor replicates a Ward, not one of `no`: of another failure domain when there is one, the
lowest ID first (R382). -/
def spareFor (ms : List Member) (e : WardEntry) (no : List Nat) : Option Nat :=
  let used := e.owner :: e.reps
  let can := (sortBy (fun m => idOf m.handle) ms).filter fun m => m.state == 2 && decide (0 < m.luns) && !used.contains (idOf m.handle) && !no.contains (idOf m.handle)
  let doms := (ms.filter fun m => used.contains (idOf m.handle)).map fun m => m.domain
  ((can.find? fun m => !doms.contains m.domain).orElse fun _ => can.head?).map fun m => m.handle

/-- NREP: the greatest replication factor of any keyspace, minus 1 (R382). -/
def nrep (ks : List Keyspace) : Nat := (ks.map fun k => k.rf).foldl max 1 - 1

/-- FILL transfers for Wards that lack replicas (R382, R397), within the 4,096 entries of R385. -/
def fills (ms : List Member) (ks : List Keyspace) (ws : List WardEntry) (ts : List Transfer) (no : List Nat) : List Transfer :=
  ws.foldl (fun ts e =>
    if !e.assigned ∨ nrep ks ≤ e.reps.length ∨ ts.any (fun t => t.ward == e.ward) ∨ 4096 ≤ ts.length then ts
    else match spareFor ms e no with
      | some h => ts ++ [{ ward := e.ward, move := false, target := h }]
      | none => ts) ts

/-- TRANSFER bits that agree with a transfer table. -/
def markTransfers (ts : List Transfer) (ws : List WardEntry) : List WardEntry := ws.map fun e => { e with transfer := ts.any fun t => t.ward == e.ward }

/-! ### Failure and takeover (R397, R401) -/

/-- The epoch that declares a member FAILED: its Wards go to their first replicas, it leaves the replica fields, its
transfers end, and FILL transfers begin. `hall` and `standby` are those after the change. -/
def State.failBody (s : State) (h hall standby : Nat) : MapBody :=
  let id := idOf h
  let rf1 := s.kv.keyspaces.any fun k => decide (k.rf ≤ 1) && !k.reclaiming
  let ms := assignWatchers hall standby (updWhere (fun m => m.handle == h) (fun m => { m with state := 3, watchers := [] }) s.town.members)
  let hit := s.town.wards.filter fun e => (e.assigned && e.owner == id) || e.reps.contains id
  let ws := hit.map fun e =>
    let reps := e.reps.filter fun r => r != id
    if e.assigned ∧ e.owner = id then
      match reps with
      | r :: rs => { e with owner := r, reps := rs, orphan := e.orphan || rf1, orphanOf := if rf1 ∧ !e.orphan then id else e.orphanOf }
      | [] => { e with assigned := false, reps := [], orphan := e.orphan || rf1, orphanOf := if rf1 ∧ !e.orphan then id else e.orphanOf }
    else { e with reps := reps }
  let ts := s.town.transfers.filter fun t => t.target != h && !((s.wardEntry t.ward).owner == id)
  let ts := fills ms s.kv.keyspaces ws ts s.town.closing
  let all := ws ++ s.town.wards.filter fun e => !(ws.any fun x => x.ward == e.ward)
  { wards := (markTransfers ts all).filter fun e => !(s.town.wards.contains e), transfers := some ts, members := ms, hall := hall, standby := standby }

/-- The acting Hall declares a member FAILED (R397). -/
def State.declareFailed (s : State) (h : Nat) : State :=
  let standby := if s.town.standby = h then 0 else s.town.standby
  let s := s.report .memberFailed h
  let s := { s with town := { s.town with suspects := s.town.suspects.filter fun x => x.1 != h, suspected := s.town.suspected.filter fun x => x != h } }
  s.publishMap (s.failBody h s.town.hall standby)

/-- Become acting Hall with a term (R376, R401, R402): publish TAKEOVER with the next epoch. -/
def State.becomeHall (s : State) (term : Nat) (b : MapBody) : State :=
  let s := { s with town := { s.town with term := term, hall := s.handle, round := none } }
  s.publishAs { body := b, takeover := true }

/-- The standby takes over from a failed Hall (R401). -/
def State.takeOver (s : State) : State :=
  let h := s.town.hall
  let s := s.report .memberFailed h
  let s := { s with town := { s.town with suspects := s.town.suspects.filter fun x => x.1 != h, publish := [] } }
  s.becomeHall (s.town.term + 1) (s.failBody h s.handle 0)

/-! ### Term rounds (R376) -/

/-- The stored members a candidate asks (R376): JOINING, LIVE and FAILED ones, without those REMOVED, and itself, with or without a table. R376 does not
say which entries count (DESIGN CHOICE, log entry 176). -/
def State.electors (s : State) : List Nat :=
  let l := (s.town.members.filter fun m => m.state == 1 || m.state == 2 || m.state == 3).map fun m => idOf m.handle
  if l.contains s.memberId then l else s.memberId :: l

/-- A candidate begins a round with a term above every one it knows; it grants the term to itself. -/
def State.beginRound (s : State) : State :=
  let seen := max s.town.term (max ((s.town.granted.map fun g => g.1).getD 0) ((s.town.round.map fun r => r.greatest).getD 0))
  let t := seen + 1
  let s := { s with town := { s.town with granted := some (t, s.handle), round := some { term := t, since := s.clk.cycles, grants := [s.memberId], answers := [s.memberId] } } }
  let s := s.report .termRound t
  (s.electors.filter fun m => m != s.memberId).foldl (fun s m => s.sendTown m { tmsg := 0x0F, term := t }) s

/-- A round with a majority of the stored members ends it (R376): the candidate becomes acting Hall, LIVE in its own table. -/
def State.checkRound (s : State) : State :=
  match s.town.round with
  | none => s
  | some r =>
    if s.electors.length < 2 * r.grants.length then
      let me : Member := { s.ownMember with state := 2 }
      let ms := assignWatchers s.handle 0 (putMember me s.town.members)
      s.becomeHall r.term { members := ms, settings := some { s.settings with level := levelOf s.town.level ms }, hall := s.handle, standby := 0 }
    else s

/-- A LIVE acting Hall that this part knows: its handle, or 0. -/
def State.liveHall (s : State) : Nat :=
  if s.isMember ∧ s.reach s.town.hall ∧ (s.town.member? (idOf s.town.hall)).any (fun m => m.state == 2) then s.town.hall else 0

/-- Answer a TERM_QUERY (R376). -/
def State.answerQuery (s : State) (m : TMsg) : State :=
  let g := s.town.granted.getD (0, 0)
  let seen := max s.town.term g.1
  let grant := decide (s.liveHall = 0) && (decide (seen < m.term) || (decide (s.town.term < m.term) && g == (m.term, m.sender)))
  let ans : TMsg := { tmsg := 0x0F, term := max 1 seen, arg0 := s.liveHall, flags := if grant then 4 else 0 }
  (if grant then { s with town := { s.town with granted := some (m.term, m.sender) } } else s).sendTown (idOf m.sender) ans

/-! ### Keys in a Town (R523 to R526) -/

/-- Tenants whose page holds something. -/
def State.keyTenants (s : State) : List Nat := (s.cip.trks.map fun k => k.1).eraseDups

/-- A tenant's slots that are LOADED, in ascending order. -/
def State.pageSlots (s : State) (t : Nat) : List SlotKey := sortBy (fun k => k.slot) (s.cip.keys.filter fun k => k.tenant == t)

/-- Send KEY_DIST for a tenant to a member with whom a session is OPEN (R524). -/
def State.sendKeys (s : State) (t member : Nat) : State :=
  match s.slotTo member with
  | none => s
  | some x =>
    match s.trkOf t with
    | none => s.sendTown member { tmsg := 0x11, arg0 := t + 256 }
    | some k =>
      let l := s.pageSlots t
      s.sendTown member { tmsg := 0x11, arg0 := t, arg1 := (l.map fun k => 2 ^ k.slot).sum, count := l.length,
                          body := .keyPage (Config.keyWrap (s.kdkOf x) k) (l.map fun k => (k.slot, k.wrapped)) }

/-- LIVE and JOINING members but this part and `no`. -/
def State.keyMembers (s : State) (no : Nat) : List Nat :=
  ((s.town.members.filter fun m => (m.state == 1 || m.state == 2) && m.handle != s.handle && m.handle != no).map fun m => idOf m.handle)

/-- After a page changes, the acting Hall sends it to the standby first, else to every member; nothing while frozen (R525, R526). -/
def State.distribute (s : State) (t : Nat) : State :=
  if !s.acting ∨ s.frozen then s
  else if s.town.standby ≠ 0 ∧ (s.slotTo (idOf s.town.standby)).isSome then
    let s := s.sendKeys t (idOf s.town.standby)
    { s with cip := { s.cip with dist := s.cip.dist.filter (fun x => x != t) ++ [t] } }
  else (s.keyMembers 0).foldl (fun s m => s.sendKeys t m) s

/-- Tenants whose KEY_DIST the standby has acknowledged in full go to the other members (R525). -/
def State.distCheck (s : State) : State :=
  let waits := fun (t : Nat) => (s.slotTo (idOf s.town.standby)).any fun x => x.tx.any fun m =>
    !m.ended && (match m.head with | .town y => y.tmsg == 0x11 && y.arg0 % 256 == t | _ => false)
  let go := s.cip.dist.filter fun t => !waits t
  let s := { s with cip := { s.cip with dist := s.cip.dist.filter waits } }
  if s.acting ∧ !s.frozen then go.foldl (fun s t => (s.keyMembers s.town.standby).foldl (fun s m => s.sendKeys t m) s) s else s

/-! ### The acting Hall's answers -/

/-- R379: why a join is refused. -/
def State.joinRefused (s : State) (m : Member) : Option Nat :=
  let e := s.town.member? (idOf m.handle)
  firstStatus
    [(e.any fun x => (x.state == 1 || x.state == 2) && x.handle != m.handle, stMemberConflict), (e.any fun x => x.handle == m.handle, stMemberConflict),
     (e.any fun x => x.state == 4, stMemberConflict),
     (decide (min m.yMax (s.fget .ywpCtrl_verMax) < max m.yMin (s.fget .ywpCtrl_verMin) ∨ m.fMax < s.town.level ∨ s.town.level < m.fMin), stVersion),
     (!m.certOk, stAccessDenied)]

/-- JOIN at the acting Hall (R378 step 3). -/
def State.hallJoin (s : State) (sender : Nat) (m : Member) : State :=
  match s.joinRefused m with
  | some st => s.sendTown (idOf sender) { tmsg := 0x02, status := st }
  | none =>
    let s := { s with town := { s.town with members := putMember { m with state := 1, watchers := [] } s.town.members } }
    let s := s.sendTown (idOf sender) { tmsg := 0x02, status := stOk }
    let s := s.sendTown (idOf sender) { tmsg := 0x09, body := .map s.fullMap }
    s.keyTenants.foldl (fun s t => s.sendKeys t (idOf sender)) s

/-- A member may become the owner of a Ward: it has flash (R6). -/
def State.mayOwn (s : State) (id : Nat) : Bool := (s.town.member? id).any fun m => decide (0 < m.luns)

/-- The Wards a returning member's ORPHAN marks give back to it (R400), where it has flash (R6). -/
def State.returnMoves (s : State) (h : Nat) : List Transfer :=
  if !s.mayOwn (idOf h) then []
  else ((s.town.wards.filter fun e => e.orphan && e.orphanOf == idOf h && !(s.town.transfers.any fun t => t.ward == e.ward)).map fun e =>
    { ward := e.ward, move := true, target := h : Transfer }).take (4096 - s.town.transfers.length)

/-- A JOINING member has its map: it becomes LIVE, with watchers, in the next epoch (R378 step 5, R376, R410). Unassigned
ORPHAN Wards of its own go straight back to it, where it has flash (R6). -/
def State.makeLive (s : State) (m : Member) : State :=
  let other := if idOf s.town.hall = s.fget .twnCfg_hallId then s.fget .twnCfg_deputyId else s.fget .twnCfg_hallId
  let standby := if s.town.standby = 0 ∧ idOf m.handle = other then m.handle else s.town.standby
  let ms := assignWatchers s.town.hall standby (putMember { m with state := 2 } s.town.members)
  let back := s.town.wards.filter fun e => e.orphan && e.orphanOf == idOf m.handle && !e.assigned && decide (0 < m.luns)
  let backW := back.map fun e => { e with owner := idOf m.handle, assigned := true, orphan := false, orphanOf := 0 }
  let ts := s.town.transfers ++ (s.returnMoves m.handle).filter fun t => !(back.any fun e => e.ward == t.ward)
  let ts := fills ms s.kv.keyspaces s.town.wards ts s.town.closing
  let all := backW ++ s.town.wards.filter fun e => !(backW.any fun x => x.ward == e.ward)
  s.publishMap
    { wards := (markTransfers ts all).filter fun e => !(s.town.wards.contains e), transfers := some ts, members := ms,
      settings := some { s.settings with level := levelOf s.town.level ms }, hall := s.town.hall, standby := standby }

/-- MOVE and FILL transfers that take the Wards `ws` from a member, beside the transfers `ts` (R380, R305): a MOVE goes to the first replica that can
have it, else to a spare member. -/
def State.emptyMember (s : State) (ws : List WardEntry) (ts : List Transfer) (id : Nat) : List Transfer :=
  (ws.filter fun e => e.assigned && (e.owner == id || e.reps.contains id)).foldl (fun ts e =>
    if ts.any (fun t => t.ward == e.ward) ∨ 4096 ≤ ts.length then ts
    else
      match (if e.owner = id then ((e.reps.find? fun r => !s.town.closing.contains r).bind s.town.member?).map (fun m => m.handle) else none).orElse
          fun _ => spareFor s.town.members e (id :: s.town.closing) with
      | some h => ts ++ [{ ward := e.ward, move := decide (e.owner = id), target := h }]
      | none => ts) ts

/-- The acting Hall begins the transfers that empty a member. -/
def State.beginEmpty (s : State) (id : Nat) : State :=
  let ts := s.emptyMember s.town.wards s.town.transfers id
  if ts = s.town.transfers then s
  else s.publishMap { s.noChange with transfers := some ts, wards := (markTransfers ts s.town.wards).filter fun e => !(s.town.wards.contains e) }

/-- A leaving member that neither owns nor replicates a Ward is REMOVED (R380). -/
def State.leftCheck (s : State) : State :=
  (s.town.leaving.filter fun id => !(s.town.wards.any fun e => (e.assigned && e.owner == id) || e.reps.contains id)).foldl (fun s id =>
    let ms := assignWatchers s.town.hall s.town.standby (updWhere (fun m => idOf m.handle == id) (fun m => { m with state := 4, watchers := [] }) s.town.members)
    let s := { s with town := { s.town with leaving := s.town.leaving.filter fun x => x != id } }
    s.publishMap { s.noChange with members := ms, settings := some { s.settings with level := levelOf s.town.level ms } }) s

/-- LEAVE at the acting Hall (R380). -/
def State.hallLeave (s : State) (sender : Nat) : State :=
  if sender = s.town.standby ∨ sender = s.town.hall then s
  else
    let s := { s with town := { s.town with leaving := if s.town.leaving.contains (idOf sender) then s.town.leaving else s.town.leaving ++ [idOf sender] } }
    (s.beginEmpty (idOf sender)).leftCheck

/-- The request of a read-only member at the acting Hall (R305): its Wards move away, and it stays LIVE. -/
def State.hallEmpty (s : State) (sender : Nat) : State :=
  let s := { s with town := { s.town with emptying := if s.town.emptying.contains (idOf sender) then s.town.emptying else s.town.emptying ++ [idOf sender] } }
  s.beginEmpty (idOf sender)

/-- TRANSFER_READY at the acting Hall (R404, R406): the target becomes owner or replica, or the transfer goes; a target without flash does not become
owner (R6). A closing member's place among the replicas goes with its FILL, and what it still has is moved on as the transfer table allows. -/
def State.hallReady (s : State) (sender w : Nat) (aborted : Bool) : State :=
  let e := s.wardEntry w
  match s.town.transfers.find? fun t => t.ward == w with
  | none => s
  | some t =>
    if e.owner ≠ idOf sender then s
    else
      let ts := s.town.transfers.filter fun t => t.ward != w
      let b := idOf t.target
      let e' : WardEntry :=
        if aborted ∨ (t.move ∧ !s.mayOwn b) then e
        else if t.move then
          { e with owner := b, reps := e.reps.filter (fun r => r != b), orphan := e.orphan && e.orphanOf != b, orphanOf := if e.orphanOf = b then 0 else e.orphanOf }
        else { e with reps := (e.reps.filter fun r => !s.town.closing.contains r) ++ [b] }
      let all := putWard e' s.town.wards
      let ts := fills s.town.members s.kv.keyspaces [e'] ts s.town.closing
      let ts := s.town.closing.foldl (fun ts id => s.emptyMember all ts id) ts
      (s.publishMap { s.noChange with wards := (markTransfers ts all).filter fun e => !(s.town.wards.contains e), transfers := some ts }).leftCheck

/-- SUSPECT at the acting Hall or the standby (R396). -/
def State.takeSuspect (s : State) (h reporter : Nat) (cleared : Bool) : State :=
  let l := s.town.suspects.filter fun x => !(x.1 == h && x.2.1 == reporter)
  { s with town := { s.town with suspects := if cleared then l else l ++ [(h, reporter, s.clk.cycles)] } }

/-- A keyspace as the newest publication under way will leave it (R40, R377): two commands of one keyspace follow one another. -/
def State.kspNext (s : State) (ksp : Nat) : Option Keyspace :=
  ((s.town.publish.reverse.flatMap fun p => p.body.keyspaces).find? fun k => k.ksp == ksp).orElse fun _ => s.ksp? ksp

/-- The creation of a keyspace at the part that accepts it (R155, R157, R382): its status, or the keyspace. The salt is drawn
when SALT is 0, which fails with the DRBG (R533); a key already in its slot binds it (R518). -/
def State.kspNew (s : State) (f : Nat) (d : Desc) : Except Nat (Keyspace × State) :=
  let tenant := param d 56 1
  let rf := param d 57 1
  let slot := param d 58 1
  if rf = 0 ∨ 4 < rf ∨ (1 < rf ∧ !s.isMember) ∨ 63 < slot ∨ (s.isMember ∧ s.town.live.length < rf) then .error stFieldInvalid
  else if f ≠ 0 ∧ tenant ≠ f then .error stAccessDenied
  else match s.kspNext d.ksp with
    | some k => .error (if k.reclaiming then stKspBusy else stKspExists)
    | none =>
      let salt := param d 64 16
      let created := if s.below2020 then 0 else s.nowUs * 4096
      let kcv := (s.keyIn tenant slot).map fun k => kcvOf 64 k.key
      match (if salt = 0 then s.draw else some (salt, s)) with
      | none => .error stInternalFault
      | some (drawn, s) =>
        .ok ({ ksp := d.ksp, tenant := tenant, rf := rf, slot := slot, salt := drawn % 2 ^ 128, created := created, kcv := kcv }, s)

/-- The deletion of a keyspace (R156): its status, or the keyspace reclaiming. -/
def State.kspGoneNew (s : State) (f : Nat) (d : Desc) : Except Nat Keyspace :=
  match s.kspNext d.ksp with
  | none => .error stKspUnknown
  | some k => if k.reclaiming then .error stKspUnknown else if f ≠ 0 ∧ k.tenant ≠ f then .error stAccessDenied else .ok { k with reclaiming := true }

/-- A keyspace command at the acting Hall (R407): refused, or published in an epoch. `fin` ends it with a status. -/
def State.hallKeyspace (s : State) (f : Nat) (d : Desc) (ctx : Option Nat) (answer : Option (Nat × TMsg)) (fin : State → Nat → State) : State :=
  let pub := fun (s : State) (k : Keyspace) (stamp : Nat) =>
    let s := match ctx with
      | some id => s.modCtx id fun c => { c with res := { status := stOk, rstamp := stamp } }
      | none => s
    let ts := fills s.town.members (putKsp k s.kv.keyspaces) s.town.wards s.town.transfers s.town.closing
    let b : MapBody := { s.noChange with keyspaces := [k], transfers := some ts, wards := (markTransfers ts s.town.wards).filter fun e => !(s.town.wards.contains e) }
    s.publishAs { body := b, ctx := ctx, answer := answer.map fun a => (a.1, { a.2 with stamp := stamp }) }
  if d.opc = opKspCreate then
    match s.kspNew f d with
    | .error st => fin s st
    | .ok (k, s) => pub s k k.created
  else match s.kspGoneNew f d with
    | .error st => fin s st
    | .ok k => pub s k 0

/-- The acting Hall's judgement of REMOVE, MOVE and HALL_RETURN (R414, R416, R400, R402): a status, or a change to publish;
HALL_RETURN answers once the former Hall has its state. A MOVE to a member without flash, which R6 keeps from becoming owner, is refused like one
to a member that is not LIVE (DESIGN CHOICE, log entry 147). A MOVE of a Ward that no member owns assigns it at once, and one that finds the transfer
table full is refused with FIELD_INVALID: R404 and R416 give neither case (DESIGN CHOICE, log entry 177). -/
def State.hallControl (s : State) (d : Desc) : Except Nat (Option MapBody) :=
  let action := param d 56 1
  let id := param d 58 2 % 16384
  let w := param d 60 4 % 2 ^ 20
  if action = 3 then
    match s.town.member? id with
    | some m =>
      if m.state ≠ 3 then .error stFieldInvalid
      else
        let ms := assignWatchers s.town.hall s.town.standby (putMember { m with state := 4 } s.town.members)
        let ws := (s.town.wards.filter fun e => e.orphan && e.orphanOf == id).map fun e => { e with orphan := false, orphanOf := 0 }
        .ok (some { s.noChange with members := ms, wards := ws, settings := some { s.settings with level := levelOf s.town.level ms } })
    | none => .error stFieldInvalid
  else if action = 4 then
    let e := s.wardEntry w
    match s.town.member? id with
    | some m =>
      if m.state ≠ 2 ∨ m.luns = 0 ∨ (e.assigned ∧ e.owner = id) ∨ s.town.transfers.any (fun t => t.ward == w) ∨ 4096 ≤ s.town.transfers.length then .error stFieldInvalid
      else if !e.assigned then .ok (some { s.noChange with wards := [{ e with owner := id, assigned := true }] })
      else
        let ts := s.town.transfers ++ [{ ward := w, move := true, target := m.handle }]
        .ok (some { s.noChange with transfers := some ts, wards := [{ e with transfer := true }] })
    | none => .error stFieldInvalid
  else
    if s.town.standby = 0 ∨ idOf s.town.standby ≠ s.fget .twnCfg_hallId then .error stFieldInvalid else .ok none

/-- Wards that REMOVE abandons (R400). -/
def State.abandoned (s : State) (id : Nat) : Nat := (s.town.wards.filter fun e => e.orphan && e.orphanOf == id).length

/-- REMOVE, MOVE or HALL_RETURN at the acting Hall. -/
def State.runControl (s : State) (d : Desc) (ctx : Option Nat) (answer : Option (Nat × TMsg)) (fin : State → Nat → State) : State :=
  match s.hallControl d with
  | .error st => fin s st
  | .ok (some b) =>
    let s := if param d 56 1 = 3 ∧ s.abandoned (param d 58 2 % 16384) ≠ 0 then s.report .wardsAbandoned (param d 58 2 % 16384) (s.abandoned (param d 58 2 % 16384)) else s
    s.publishAs { body := b, ctx := ctx, answer := answer, atSend := true }
  | .ok none =>
    let h := s.town.standby
    let s := s.sendTown (idOf h) { tmsg := 0x09, epoch := s.town.epoch + 1, arg1 := 1, body := .map s.fullMap }
    let s := { s with town := { s.town with returning := some h } }
    { s with town := { s.town with publish := s.town.publish ++ [{ body := {}, sentAll := true, waiting := [idOf h], ctx := ctx, answer := answer }] } }

/-- MAP_ACK at the acting Hall (R377, R378, R402, R407). -/
def State.hallAck (s : State) (sender epoch : Nat) : State :=
  let id := idOf sender
  -- The standby's acknowledgement lets the epoch go to every other member.
  let due := if sender = s.town.standby then s.town.publish.filter fun p => !p.sentAll && decide (p.epoch ≤ epoch) else []
  let s := { s with town := { s.town with publish := s.town.publish.filter fun p => !(sender == s.town.standby && !p.sentAll && decide (p.epoch ≤ epoch)) } }
  let s := due.foldl (fun s p => s.sendEpoch p) s
  -- Every LIVE member's acknowledgement ends a publication.
  let ps := s.town.publish.map fun p => if p.sentAll && decide (p.epoch ≤ epoch) then { p with waiting := p.waiting.filter fun m => m != id } else p
  let ended : List Publish := ps.filter fun p => p.sentAll && p.waiting.isEmpty
  let s := { s with town := { s.town with publish := ps.filter fun p => !(p.sentAll && p.waiting.isEmpty) } }
  let s := ended.foldl (fun s p => s.published p) s
  let s : State := (match s.town.member? id with
    | some m => if m.state = 1 ∧ m.handle = sender then s.makeLive m else s
    | none => s)
  if s.town.returning = some sender then
    { s with town := { s.town with returning := none, role := 3, hall := sender, standby := s.handle } }
  else s

/-! ### Messages to the acting Hall -/

/-- Send a message to the acting Hall, or act on it here when this part is the acting Hall. -/
def State.toHall (s : State) (m : TMsg) (here : State → State) : State :=
  if s.acting then here s else s.sendTown (idOf s.town.hall) m

/-- A cut ends when every dispatched mutation of the Ward has been acknowledged by all receivers and no batch of it is open
(R406): TRANSFER_READY goes to the acting Hall. -/
def State.cutCheck (s : State) : State :=
  (s.town.cuts.filter fun c => !s.town.copied.contains c.1).foldl (fun s c =>
    let w := c.1
    let busy := (s.kv.ctxs.any fun c => (!c.acks.isEmpty || c.open_) && (if c.wards.isEmpty then s.ctxWard c == w else c.wards.contains w))
      || s.tun.rows.any fun r => r.intent && wardOf r.digest == w
    if busy then s
    else
      let s := { s with town := { s.town with copied := s.town.copied ++ [w] } }
      s.toHall { tmsg := 0x0D, ward := w } (fun s => s.hallReady s.handle w false)) s

/-! ### A received Town message (R373, R375) -/

/-- A Town message is judged: its sender must be current, unless it comes from or to a part that is joining or seeking the
acting role. In a flush acknowledgements are still taken, so that committed operations end (R213). -/
def State.onTown (s : State) (m : TMsg) (f : State → State) : State :=
  when (s.netOn || (s.linkOn && m.tmsg == 0x0B)) (fun s =>
    let open_ := m.tmsg == 0x01 || m.tmsg == 0x0F || !s.isMember
    let cur := match s.town.member? (idOf m.sender) with
      | some x => x.handle == m.sender
      | none => false
    if cur || open_ then f s else s.fadd .twnDrop_staleHandle 1) s

/-- R375: a map or takeover message of the acting Hall of the greatest term, with an epoch above this part's. -/
def State.mapAccepted (s : State) (m : TMsg) (takeover : Bool) : Bool :=
  (if takeover then decide (s.town.term < m.term) else decide (s.town.term < m.term) || (decide (s.town.term = m.term) && (m.sender == s.town.hall || !s.isMember)))
    && decide (s.town.epoch < m.epoch)

/-- A message that was sent under a newer map waits (R384). -/
def State.underMap (s : State) (m : TMsg) (f : State → State) : State :=
  if s.town.epoch < m.epoch then { s with town := { s.town with waiting := s.town.waiting ++ [(s.clk.cycles, m)] } } else f s

end Sys2Proof.Machine
end

