-- ==== Sys2Proof/Machine/CipherCmds.lean ====
section
/-!
DEFINITION. The commands of the cipher block (R516 to R545): key page commands, key distribution, session keys, and the random
bit generator. A key page or session key command finishes as it is taken (DESIGN CHOICE, log entry 46).
-/

namespace Sys2Proof.Machine

/-- Do a key page command of function `f`: NOT_HALL where another part holds the reference copy (R523), else what `g` makes of
it with its RESULT. A page that has changed is distributed (R525). -/
def State.pageCommand (s : State) (f op : Nat) (g : State → State × Nat) : State :=
  when (s.pageOn f) (fun s =>
    if !s.keysHere then s.pageDone f op 1
    else
      let r := g s
      let s := r.1.pageDone f op r.2
      if r.2 = 0 then s.distribute f else s) s

/-- The tenant root key is loaded (R516). -/
def State.loadTrk (s : State) (f : Nat) : State := s.pageCommand f 1 fun s => (s.setTrk f (some (s.reg ⟨.cipKpTrk, f, 0, 0⟩)), 0)

/-- LOAD_TRK (R516). -/
def execLoadTrk (f : Nat) (s : State) : Host.Outcome State Fault Refusal :=
  done [.ywp, .cip, .sup, .ev, .out] [.cipErr, .cipKpStat, .cipKpTrk, .cipKpWrap] s (s.loadTrk f)

/-- A slot key is unwrapped, checked in the order of R517 and loaded; its KCV binds keyspaces that have none (R518). -/
def State.loadSlot (s : State) (f slot : Nat) : State :=
  s.pageCommand f 2 fun s =>
    let n := slot % 64
    let w := s.reg ⟨.cipKpWrap, f, 0, 0⟩
    match s.trkOf f with
    | none => (s, 2)
    | some t =>
      match Config.keyUnwrap t 72 w with
      | none => (s, 3)
      | some k =>
        let k := k % 2 ^ 512
        let r := s.keyCheck f n k
        if r = 0 then ((s.putKey f n k w false).bindKey f n (kcvOf 64 k), 0) else (s, r)

/-- LOAD_SLOT (R517). -/
def execLoadSlot (f slot : Nat) (s : State) : Host.Outcome State Fault Refusal :=
  done [.kv, .ywp, .cip, .sup, .ev, .out] (keyPageRegs ++ [.cipErr]) s (s.loadSlot f slot)

/-- A slot is zeroed (R519). -/
def State.clearSlot (s : State) (f slot : Nat) : State := s.pageCommand f 3 fun s => ((s.dropKey f (slot % 64)).emptyReads f (slot % 64), 0)

/-- CLEAR_SLOT (R519). -/
def execClearSlot (f slot : Nat) (s : State) : Host.Outcome State Fault Refusal :=
  done (finishParts ++ [.cip]) (keyPageRegs ++ ringRegs ++ [.cipErr]) s (s.clearSlot f slot)

/-- The TRK and every slot are zeroed (R519). -/
def State.clearAll (s : State) (f : Nat) : State := s.pageCommand f 4 fun s => (s.clearPage f, 0)

/-- CLEAR_ALL (R519). -/
def execClearAll (f : Nat) (s : State) : Host.Outcome State Fault Refusal :=
  done (finishParts ++ [.cip]) (keyPageRegs ++ ringRegs ++ [.cipErr, .ywpKeyStat]) s (s.clearAll f)

/-- A write of CIP_KP_CMD (R535): an OP that is reserved takes no command. -/
def State.keyCommand (s : State) (f op slot : Nat) : State :=
  match op with
  | 1 => s.loadTrk f
  | 2 => s.loadSlot f slot
  | 3 => s.clearSlot f slot
  | 4 => s.clearAll f
  | _ => s

/-- KEY_PAGE_ISOLATION_FAULT (R515): an access to the page of another function. -/
def State.keyIsolation (s : State) (who : Requester) (page : Nat) : State :=
  let n := match who with | .func f => f | .sup => 256
  ((s.emit (.unsupported who)).fadd .cipErr_isolation 1).report .keyIsolation (n + 65536 * page)

/-- KEY_PAGE_ISOLATION_FAULT (R515). A function's own page is no fault. -/
def execKeyPageIsolationFault (who : Requester) (page : Nat) (s : State) : Host.Outcome State Fault Refusal :=
  done [.sup, .ev, .out] [.cipErr] s (when (s.ready && decide (who ≠ .func page)) (fun s => s.keyIsolation who page) s)

/-- What a KEY_DIST's slot images unwrap to under a TRK, with checks 4 and 5 of R517: none when one fails. -/
def State.distKeys (s : State) (t trk : Nat) (l : List (Nat × Nat)) : Option (List SlotKey) :=
  l.foldr (fun x acc => do
    let ks ← acc
    let k ← Config.keyUnwrap trk 72 x.2
    let k := k % 2 ^ 512
    if s.keyCheck t x.1 k = 0 then some (({ tenant := t, slot := x.1, key := k, wrapped := x.2 } : SlotKey) :: ks) else none) (some [])

/-- Replace a tenant's page by what a KEY_DIST carries (R526). -/
def State.replacePage (s : State) (t trk : Nat) (ks : List SlotKey) : State :=
  let old := (s.cip.keys.filter fun k => k.tenant == t && !(ks.any fun x => x.slot == k.slot)).map fun k => k.slot
  let s := old.foldl (fun s n => s.dropKey t n) s
  ks.foldl (fun s k => s.putKey t k.slot k.key k.wrapped true) (s.setTrk t (some trk))

/-- KEY_DIST (R524, R526) from the acting Hall: the page is replaced whole, or kept with an event when a check fails. -/
def execKeyDist (m : TMsg) (s : State) : Host.Outcome State Fault Refusal :=
  done (finishParts ++ [.cip]) (ringRegs ++ [.cipErr, .cipKpSlotStat, .cipKpStat, .cipKpUse, .twnDrop, .ywpKeyStat]) s (s.onTown m fun s =>
    let t := m.arg0 % 256
    let refuse := fun (s : State) => (s.fadd .cipErr_loadRefused 1).report .keyDistRefused t
    if s.town.role = 2 ∨ m.sender ≠ s.town.hall then s
    else if bitAt m.arg0 8 then s.clearPage t
    else match m.body, s.slotTo (idOf m.sender) with
      | .keyPage w l, some x =>
        (match Config.keyUnwrap (s.kdkOf x) 40 w with
          | none => refuse s
          | some k =>
            match s.distKeys t (k % 2 ^ 256) l with
            | none => refuse s
            | some ks => s.replacePage t (k % 2 ^ 256) ks)
      | _, _ => s)

/-! ### Session keys (R529, R541, R542) -/

/-- Finish a session key command: CIP_SK_DATA is zeroed and RESULT set. -/
def State.skDone (s : State) (result : Nat) : State := (s.setReg ⟨.cipSkData, 0, 0, 0⟩ 0).fput .cipSkStat_result result

/-- The supervisor's cipher registers answer: the part is out of reset and not in Slumber. -/
def State.skOn (s : State) : Bool := s.alive && decide (s.power.pstate ≠ 3)

/-- CIP_SK_CMD LOAD (R529): CURRENT and the KDK only in HANDSHAKE, PENDING in HANDSHAKE and OPEN. -/
def State.skLoad (s : State) : State :=
  when s.skOn (fun s =>
    let pos := s.fget .cipSkSel_pos
    match s.ywp.slot? (s.fget .cipSkSel_session) with
    | none => s.skDone 2
    | some x =>
      if x.state = .free then s.skDone 2
      else if x.state = .handshake ∨ (x.state = .opened ∧ pos = 1) then
        let gen := if pos = 2 then 0 else s.fget .cipSkSel_gen
        let k : SessKey := { slot := x.n, dir := s.fget .cipSkSel_dir, pos := pos, gen := gen, key := s.fget .cipSkData_key, iv := s.fget .cipSkData_ivBase }
        (s.skPut k).skDone 0
      else s.skDone 1) s

/-- SESSION_KEY_LOAD (R529). -/
def execSessionKeyLoad (s : State) : Host.Outcome State Fault Refusal :=
  done [.cip] [.cipSkData, .cipSkStat] s s.skLoad

/-- CIP_SK_CMD ERASE (R529). -/
def State.skZap (s : State) : State :=
  when s.skOn (fun s =>
    match s.ywp.slot? (s.fget .cipSkSel_session) with
    | none => s.skDone 2
    | some x => if x.state = .free then s.skDone 2 else (s.skErase x.n (s.fget .cipSkSel_dir) (s.fget .cipSkSel_pos)).skDone 0) s

/-- SESSION_KEY_ERASE (R529). -/
def execSessionKeyErase (s : State) : Host.Outcome State Fault Refusal :=
  done [.cip] [.cipSkData, .cipSkStat] s s.skZap

/-! ### Random bits (R531 to R533, R545) -/

/-- ENTROPY_HEALTH_FAIL (R533): the third within 60 s leaves FAILED set until the next reset. -/
def execEntropyHealthFail (s : State) : Host.Outcome State Fault Refusal :=
  done [.cip, .sup, .ev] [.cipDrbgStat] s (when s.skOn (fun s =>
    let recent := (s.cip.failTimes.filter fun c => decide (s.clk.cycles ≤ c + 60 * secCycles)) ++ [s.clk.cycles]
    let s := { s with cip := { s.cip with failTimes := recent, locked := s.cip.locked || decide (3 ≤ recent.length) } }
    let s := ((s.fput .cipDrbgStat_ready 0).fput .cipDrbgStat_failed 1).fadd .cipDrbgStat_fails 1
    s.report .drbgFail) s)

/-- Restart the DRBG after a failure (R533). -/
def State.drbgRestart (s : State) : State := if s.flag .cipDrbgStat_failed ∧ !s.cip.locked then s.drbgStart else s

/-- DRBG_RESTART (R533): the start-up test is repeated; should it fail, ENTROPY_HEALTH_FAIL follows. -/
def execDrbgRestart (s : State) : Host.Outcome State Fault Refusal :=
  done [.cip] [.cipDrbgStat] s (when s.skOn (fun s => s.drbgRestart) s)

/-- RNG_READ (R532, R545): a supervisor read of word 0 draws 64 bits, which the read of word 1 completes; 0 with VALID 0 while
the DRBG is not instantiated. -/
def execRngRead (s : State) : Host.Outcome State Fault Refusal :=
  done [.latches, .cip, .out, .free] [.cipDrbgStat, .cipRngValid] s (when s.skOn (fun s =>
    match s.draw with
    | none => ((s.fput .cipRngValid_valid 0).latch .sup ⟨.cipRng, 0, 0, 0⟩ 0).emit (.readData .sup 0)
    | some (v, s) =>
      let v := v % 2 ^ 64
      ((s.fput .cipRngValid_valid 1).latch .sup ⟨.cipRng, 0, 0, 0⟩ v).emit (.readData .sup (v % 2 ^ 32))) s)

end Sys2Proof.Machine
end

