-- ==== Sys2Proof/Machine/DraughtOps.lean ====
section
/-!
DEFINITION. The Draught channels (R579 to R603): a channel's record and its changes of state, loss of synchronism, the speed
curve, the evaluation of the demand, and what holds every channel.
-/

namespace Sys2Proof.Machine

/-- A channel's record. -/
def State.chan (s : State) (c : Nat) : Chan := (s.drt.chans.find? fun x => x.c == c).getD { c := c }

/-- Change a channel's record. -/
def State.modChan (s : State) (c : Nat) (g : Chan → Chan) : State :=
  { s with drt := { s.drt with chans := insertBy (fun x => x.c) (g (s.chan c)) (s.drt.chans.filter fun x => x.c != c) } }

/-- Channels 10 and 11 are the main ones. -/
def mainChan (c : Nat) : Bool := decide (10 ≤ c)

/-- The channels run: the part is past stage OPTION, out of Slumber, neither inert nor in recovery mode, and not in a halt that
holds every gate command at 0 (R581, R603, R666, R669, R710). -/
def State.drtOn (s : State) : Bool :=
  !s.power.porstLow && decide (3 ≤ s.power.stage) && decide (s.power.pstate ≠ 3) && !s.upd.recovery && !s.upd.inert &&
    (match s.power.halt with
      | none | some .thermal | some .startFail => true
      | some .powerFail => s.flag .drtBusCtrl_pfRun
      | some .refclk => false)

/-- Every channel is held: overvoltage, undervoltage, a driver fault, or PWRFAIL_N without PF_RUN. -/
def State.chanHeld (s : State) : Bool :=
  s.drt.ov || s.drt.uv || s.drt.fault || (s.power.pwrfailLow && !s.flag .drtBusCtrl_pfRun)

/-- A channel enters a state (the codes of STATE) with its bridge as given. -/
def State.chanTo (s : State) (c st : Nat) (d : Drive) : State :=
  s.modChan c fun x => { x with st := st, since := s.clk.cycles, drive := d, short := false, regen := false, bemfBad := 0, powerDw := 0, limited := false,
                                rpm := if st = 8 then 0 else x.rpm }

/-- The channel drives its motor: six steps on a plain channel, space-vector modulation on a main one. -/
def driveOf (c k : Nat) : Drive := if mainChan c then .vector else .step k

/-- A channel enters RUN at a speed (R588, R592). -/
def State.chanRun (s : State) (c rpm : Nat) : State :=
  (s.chanTo c 5 (driveOf c (s.chan c).stepNo)).modChan c fun x => { x with ref := rpm * secCycles, lastRpm := rpm, rpm := rpm }

/-- Loss of synchronism (R587, R596): COAST with a restart counted, or FAULT at the third. -/
def State.loseSync (s : State) (c : Nat) : State :=
  if (s.chan c).restarts < 3 then
    ((s.chanTo c 7 .off).modChan c fun x => { x with restarts := x.restarts + 1 }).report .channelRestart c
  else ((s.chanTo c 8 .off).modChan c fun x => { x with cause := 1 }).report .channelFault c 1

/-- A channel that moves or may move its motor. -/
def Chan.active (x : Chan) : Bool := decide (1 ≤ x.st ∧ x.st ≤ 7)

/-- Every channel that is not OFF or in FAULT coasts (R597, R600, R601, R603; those two keep their state, log entry 47). -/
def State.coastAll (s : State) (mark : Bool) : State :=
  (s.drt.chans.filter Chan.active).foldl (fun s x =>
    (s.chanTo x.c 7 .off).modChan x.c fun y => { y with stopped := mark && decide (4 ≤ x.st ∧ x.st ≤ 6) }) s

/-- Channels that are on listen again, uncounted, once nothing holds them (R600, R601). -/
def State.relisten (s : State) : State :=
  if s.chanHeld then s else (s.drt.chans.filter fun x => decide (x.st = 7) && x.isOn).foldl (fun s x => s.chanTo x.c 1 .off) s

/-! ### Speed (R593) -/

/-- The points of DRT_CURVE as written. -/
def State.curveRegs (s : State) (c : Nat) : List (Nat × Nat) := (List.range 16).map fun i => (s.fget .drtCurve_demandPm c i, s.fget .drtCurve_rpm c i)

/-- The points that reset leaves. -/
def curveReset (c : Nat) : List (Nat × Nat) :=
  (List.range 16).map fun i => (bits (RegKey.reset ⟨.drtCurve, c, i, 0⟩) 0 10, bits (RegKey.reset ⟨.drtCurve, c, i, 0⟩) 10 15)

/-- Check a curve: demands increase strictly, speeds do not decrease. -/
def curveOk : List (Nat × Nat) → Bool
  | a :: b :: l => decide (a.1 < b.1 ∧ a.2 ≤ b.2) && curveOk (b :: l)
  | _ => true

/-- Linear interpolation between points, rounded down; the first value below the first point, the last above the last. -/
def interp (d : Nat) : List (Nat × Nat) → Nat
  | [] => 0
  | [p] => p.2
  | a :: b :: l => if d ≤ a.1 then a.2 else if d < b.1 then a.2 + (b.2 - a.2) * (d - a.1) / (b.1 - a.1) else interp d (b :: l)

/-- The target speed of a channel that is on. -/
def State.targetOf (s : State) (x : Chan) : Nat := min (interp x.demand (x.curve.getD (curveReset x.c))) (s.fget .drtChCfg_maxRpm x.c)

/-- A channel is on at a demand (R587). -/
def State.chanOn (s : State) (x : Chan) (d : Nat) : Bool :=
  s.flag .drtChCtrl_en x.c && (if x.isOn then decide (s.fget .drtChCfg_donPm x.c ≤ d + s.fget .drtChCfg_hystPm x.c) else decide (s.fget .drtChCfg_donPm x.c ≤ d))

/-- A channel follows a change of its being on (R587). -/
def State.chanFollow (s : State) (c : Nat) : State :=
  let x := s.chan c
  if x.isOn then
    if x.st = 0 ∧ !s.chanHeld then s.chanTo c 1 .off
    else if x.st = 6 then (s.chanTo c 5 (driveOf c x.stepNo)).modChan c fun y => { y with rpm := x.rpm } else s
  else if x.st = 5 then (s.chanTo c 6 (driveOf c x.stepNo)).modChan c fun y => { y with rpm := x.rpm }
  else if 1 ≤ x.st ∧ x.st ≤ 4 then s.chanTo c 0 .off
  else s

/-- The channels read their demand (R587, R593). -/
def State.chanEvaluate (s : State) (demand : Nat) : State :=
  (List.range 12).foldl (fun s c =>
    let x := s.chan c
    if !s.flag .drtChCtrl_en c ∧ x.st = 0 then s
    else
      let d := if s.flag .drtChCtrl_mode c then s.fget .drtChCtrl_fixPm c else demand
      let x' : Chan := { x with demand := d, isOn := s.chanOn x d }
      let x' : Chan := { x' with target := if x'.isOn then s.targetOf x' else 0 }
      (s.modChan c fun _ => x').chanFollow c) s

/-- EN written 0: OFF from any state (R587). -/
def State.chanOff (s : State) (c : Nat) : State := (s.chanTo c 0 .off).modChan c fun x => { x with isOn := false, target := 0 }

/-- A write of 1 to CLEAR leaves FAULT; it is ignored in other states (R587, R604). -/
def State.chanClear (s : State) (c : Nat) : State :=
  if (s.chan c).st = 8 then (s.chanTo c 0 .off).modChan c fun x => { x with restarts := 0, cause := 0 } else s

/-- A write of 1 to CURVE_APPLY (R593). -/
def State.curveApply (s : State) (c : Nat) : State :=
  if curveOk (s.curveRegs c) then s.modChan c fun x => { x with curve := some (s.curveRegs c) } else s.fput .drtChStat_curveErr 1 c

/-- A write of 1 to CLEAR_CHOP (R599, R614). -/
def State.clearChop (s : State) : State :=
  { s with drt := { s.drt with chopFault := false, chans := s.drt.chans.map fun x => { x with shortOnly := false } } }

/-- The modulation settings in force (R585). -/
def State.pwmOf (s : State) (c : Nat) : Nat := let p := (s.chan c).pwm; if p = 0 then s.reg ⟨.drtChPwm, c, 0, 0⟩ else p

/-- Clock counts of a PWM period, to the nearest count (R585). -/
def pwmCounts (khz : Nat) : Nat := if khz = 0 then 0 else (400000 + khz) / (2 * khz)

/-- The electrical power the channels report for a ledger window, in mW (R602). -/
def State.drtPower (s : State) : Nat := (s.drt.chans.map fun x => x.powerDw * 100).sum

/-- PWRFAIL_N falls (R603). -/
def State.drtPowerFail (s : State) : State := if s.flag .drtBusCtrl_pfRun then s else s.coastAll false

/-- Every gate command at 0: Slumber, a halt for REFCLK, a reset. -/
def State.drtStop (s : State) : State := s.coastAll false

end Sys2Proof.Machine
end

