-- ==== Sys2Proof/Machine/LedgerOps.lean ====
section
/-!
DEFINITION. The energy ledger and thermal policy (R546 to R566): costs, buckets and windows, what fits, the choice of the next
NAND operation, sensor groups, curves and levels.
-/

namespace Sys2Proof.Machine

/-- The ledger and the sensors run: the option area has been read, and the part is powered, not halted and not in Slumber. -/
def State.ledOn (s : State) : Bool := s.alive && decide (3 ≤ s.power.stage) && decide (s.power.pstate ≠ 3)

/-! ### Costs (R546, R547) -/

/-- The KiB of a flash page. -/
def pageKib (g : Geometry) : Nat := if g.page32 then 32 else 16

/-- ENERGY and PEAK_MA of a class, as in force. -/
def LedSt.cost (l : LedSt) (k : Nat) : Nat × Nat := (l.costs[k]?).getD (0, 0)

/-- The page or block that an operation works on; a first read whose codeword comes with the page that another read of its item takes works on
none of its own. -/
def NandOp.pages (o : NandOp) : Nat := if o.shares ∧ o.step = 1 then 0 else 1

/-- The tokens an operation costs on its plane (R547): its page at its class with its transfer; an erase transfers nothing. -/
def State.opCost (s : State) (o : NandOp) : Nat :=
  o.pages * ((s.led.cost o.cls).1 + if o.kind = .erase then 0 else pageKib s.media.geom * (s.led.cost 5).1)

/-- The peak current that an operation draws on its plane. -/
def State.opPeak (s : State) (o : NandOp) : Nat := o.pages * (s.led.cost o.cls).2

/-- An operation draws its peak current: it runs and is not suspended (R550). -/
def State.opRuns (s : State) (o : NandOp) : Bool :=
  o.issued && !(decide (o.kind = .erase) && (s.media.lun? (addrLun o.addr)).any fun l => l.suspended)

/-- The peak current of all operations that run, but for those of `but`. -/
def State.peakNow (s : State) (but : List Nat) : Nat :=
  ((s.media.ops.filter fun o => s.opRuns o && !but.contains o.id).map fun o => s.opPeak o).sum

/-- The peak current of an operation fits, on all its planes together (R547, R550, R551). -/
def State.peakFits (s : State) (l : List NandOp) : Bool :=
  let p := (l.map fun o => s.opPeak o).sum
  let own := l.map fun o => o.id
  decide (s.led.peakMa = 0) || decide (s.peakNow own + p ≤ s.led.peakMa)
    || (decide (s.led.peakMa < p) && !(s.media.ops.any fun x => s.opRuns x && !own.contains x.id))

/-! ### Buckets (R548 to R551, R557) -/

/-- The effective cap and the depth of a bucket. -/
def LedSt.cap (l : LedSt) (b : Nat) : Nat := (l.caps[b]?).getD 0
def State.depth (s : State) (b : Nat) : Nat := s.led.cap b * s.fget .ledCtrl_burstWin
def LedSt.token (l : LedSt) (b : Nat) : Int := (l.tokens[b]?).getD 0

/-- Set a bucket's tokens; one without a cap holds 0 (R548). -/
def State.setToken (s : State) (b : Nat) (v : Int) : State :=
  { s with led := { s.led with tokens := s.led.tokens.set b (if s.led.cap b = 0 then 0 else v) } }

/-- A charge that cannot be refused (R549): it does not take the bucket below its floor. -/
def State.chargeForced (s : State) (b n : Nat) : State :=
  s.setToken b (max (s.led.token b - n) (min (s.led.token b) (-(s.depth b : Int))))

/-- The charge of an operation: whole, to FLASH and ENCL. -/
def State.chargeOp (s : State) (o : NandOp) : State :=
  let c := s.opCost o
  (s.setToken 0 (s.led.token 0 - c)).setToken 2 (s.led.token 2 - c)

/-- An amount fits a bucket: no cap, enough tokens, or an oversized amount and a full bucket. -/
def State.bucketFits (s : State) (b n : Nat) : Bool :=
  decide (s.led.cap b = 0) || decide ((n : Int) ≤ s.led.token b) || (decide (s.depth b < n) && decide ((s.depth b : Int) ≤ s.led.token b))

/-- An operation on the planes given fits (R550, R551): its cost and its peak current are those of all its planes (R547). -/
def State.planesFit (s : State) (l : List NandOp) : Bool :=
  let n := (l.map fun o => s.opCost o).sum
  s.bucketFits 0 n && s.bucketFits 2 n && decide (0 ≤ s.led.token 1) && s.peakFits l

/-- An operation on one plane fits. -/
def State.opFits (s : State) (o : NandOp) : Bool := s.planesFit [o]

/-- The ledger holds nothing back (R557). -/
def State.bypass (s : State) : Bool := s.tun.flushing

/-! ### Ranks (R552 to R555) -/

/-- SPARGE stands above DRAIN (R553). -/
def State.spargeRaised (s : State) : Bool := s.noSpace

/-- The place of a rank in the order in force. -/
def State.rankPos (s : State) (r : Nat) : Nat := if s.spargeRaised then (if r = 2 then 3 else if r = 3 then 2 else r) else r

/-- The operation reserved, while it waits (R555). -/
def State.reservedOp (s : State) : Option NandOp := (s.led.reserved.bind fun n => s.media.op? n).filter fun o => !o.issued

/-- The oldest waiting operation of the highest rank that is waiting. -/
def State.foremost (s : State) : Option NandOp :=
  (s.media.ops.filter fun o => !o.issued).foldl (fun best o =>
    match best with
    | none => some o
    | some b => if s.rankPos o.rank < s.rankPos b.rank ∨ (s.rankPos o.rank = s.rankPos b.rank ∧ o.id < b.id) then some o else best) none

/-- The end of a window counts against the foremost operation when it does not fit; at HOLD_WIN windows it is reserved. -/
def State.holdWindow (s : State) : State :=
  let s : State := if s.reservedOp.isNone then { s with led := { s.led with reserved := none } } else s
  match s.foremost with
  | none => { s with led := { s.led with holding := none } }
  | some o =>
    if s.opFits o then { s with led := { s.led with holding := none } }
    else
      let n := match s.led.holding with | some (i, k) => if i = o.id then k + 1 else 1 | none => 1
      let s : State := { s with led := { s.led with holding := some (o.id, n) } }
      if s.fget .ledCtrl_holdWin ≤ n ∧ s.led.reserved.isNone then
        { s with led := { s.led with reserved := some o.id } }.fadd .ledStat_holds 1
      else s

/-! ### Windows (R548, R549, R556) -/

/-- TIME-domain cycles of a window. -/
def windowCycles : Nat := 10 * usCycles

/-- LED_CAP of a bucket. -/
def State.capReg (s : State) (b : Nat) : Nat := bits (s.reg ⟨.ledCap, 0, 0, 0⟩) (20 * b) 20

/-- E_b of R564. -/
def effCap (cap factor : Nat) : Nat := if cap = 0 then 0 else max 1 (cap * factor / 1000)

/-- The caps that the registers and the factors ask for. -/
def State.capsWanted (s : State) : List Nat := (List.range 3).map fun b => effCap (s.capReg b) ((s.led.factors[b]?).getD 1000)

/-- Caps, bases, costs and peak limit as the registers have them take force, and tokens outside a changed bucket's bounds are
brought to them (R556). -/
def State.ledTake (s : State) : State :=
  let old := s.led.caps
  let l : LedSt :=
    { s.led with caps := s.capsWanted, bases := [s.fget .ledLimit_ctrlBaseMw, s.fget .ledLimit_enclBaseMw], peakMa := s.fget .ledLimit_peakMa,
                 costs := (List.range 8).map fun k => (s.fget .ledCost_energy k, if k < 5 then s.fget .ledCost_peakMa k else 0) }
  let s : State := { s with led := l }
  (List.range 3).foldl (fun s b =>
    let t := s.led.token b
    let t := min t (s.depth b)
    s.setToken b (if old[b]? = some (s.led.cap b) then t else max t (-(s.depth b : Int)))) s

/-- A window ends and the next begins. -/
def State.ledWindow (s : State) (dramKib netKib : Nat) : State :=
  let s := s.holdWindow
  let io := dramKib * (s.led.cost 6).1 + netKib * (s.led.cost 7).1
  let s := (s.chargeForced 1 (io + (s.led.bases[0]?).getD 0)).chargeForced 2 (io + (s.led.bases[1]?).getD 0 + s.drtPower)
  let s := s.ledTake
  let s := (List.range 3).foldl (fun s b => s.setToken b (min (s.led.token b + s.led.cap b) (s.depth b))) s
  { s with led := { s.led with windowAt := s.clk.cycles } }

/-! ### Granting (R554, R266, R267) -/

/-- Some group is tripped: DRAIN, SPARGE and SCRUB are not issued (R565). -/
def State.tripped (s : State) : Bool := decide (s.fget .ledThermStat_trip ≠ 0)

/-- A read may suspend, or be served within the suspension of, the erase that holds its LUN. -/
def State.readDuringErase (s : State) (l : Lun) (o : NandOp) : Bool :=
  decide (o.kind = .read) && decide (l.erase ≠ some (addrBlk o.addr)) &&
    !(s.media.ops.any fun x => decide (x.kind = .erase) && x.issued && decide (addrLun x.addr = l.n ∧ addrBlk x.addr = addrBlk o.addr)) &&
    (if l.suspended then decide (l.burst < s.fget .medSuspCtrl_burst)
     else decide (l.suspends < 8) && decide (l.resumed + s.fget .medSuspCtrl_minResumeUs * usCycles ≤ s.clk.cycles))

/-- What a flush still lets issue (R213): the reads of operations, and the pages of staged pieces, on which completions past their point of no
return wait. -/
def State.inFlush (s : State) (o : NandOp) : Bool :=
  s.bypass && (match o.why with | .page w _ | .parity w _ => (s.media.set? w).any fun t => decide (t.stream = .staged) | _ => false)

/-- An operation is ready (R554): its LUN can accept it, and what it encrypts or decrypts is keyed. A read at step 4 waits for the reads of its
Terrace and takes no LUN. During a flush, drain, Sparge and scrub issue nothing (R213); a LUN under release is erased (R238). -/
def State.opReady (s : State) (o : NandOp) : Bool :=
  !o.issued && decide (o.step ≠ 4) && s.opKeyed o && (decide (o.rank = 0) || s.mediaOn || s.inFlush o) &&
    (match s.media.lun? (addrLun o.addr) with
      | none => false
      | some l =>
        (decide (l.state = .accepted) || (l.releaseAt.isSome && decide (o.kind = .erase))) &&
          (match (s.media.ops.filter fun x => x.issued && addrLun x.addr == l.n) with
            | [] => true
            | xs => (xs.all fun x => decide (x.kind = .erase)) && s.readDuringErase l o))

/-- What the trip level and a reservation let through. -/
def State.rankOpen (s : State) (o : NandOp) : Bool :=
  (decide (o.rank < 2) || !s.tripped) &&
    (match s.reservedOp with
      | none => true
      | some r => r.id == o.id || decide (s.rankPos o.rank < s.rankPos r.rank))

/-- The order of R554: rank, then LUN from the one after the last granted, then age. -/
def State.grantKey (s : State) (o : NandOp) : Nat :=
  let last := ((s.led.lastLun.find? fun x => x.1 == o.rank).map fun x => x.2 + 1).getD 0
  (s.rankPos o.rank * 8192 + (addrLun o.addr + 8192 - last % 8192) % 8192) * 2 ^ 64 + o.id

/-- The next operation to issue. -/
def State.nextGrant (s : State) : Option NandOp :=
  (s.media.ops.filter fun o => s.opReady o && (s.bypass || (s.rankOpen o && s.opFits o))).foldl (fun best o =>
    match best with
    | none => some o
    | some b => if s.grantKey o < s.grantKey b then some o else best) none

/-- The plane of a block. The spec does not say which blocks lie on which plane: here the block number modulo the planes, as NANDs number them
(PRESUMED, log entry 169). -/
def State.planeOf (s : State) (o : NandOp) : Nat := addrBlk o.addr % s.media.geom.planes

/-- The waiting operations that one multi-plane operation takes along with `o` (R231): of its LUN, kind, class and rank, on the same page of blocks
of other planes, ready, and as many as fit together. -/
def State.planeMates (s : State) (o : NandOp) : List NandOp :=
  if s.media.geom.planes < 2 ∨ o.step ≠ 1 ∨ (s.media.lun? (addrLun o.addr)).any fun l => l.erase.isSome then []
  else
    s.media.ops.foldl (fun acc x =>
      if decide (x.id ≠ o.id ∧ x.step = 1 ∧ x.kind = o.kind ∧ x.cls = o.cls ∧ x.rank = o.rank ∧ addrLun x.addr = addrLun o.addr ∧ addrPage x.addr = addrPage o.addr)
          && s.opReady x && !((o :: acc).any fun y => s.planeOf y == s.planeOf x) && (s.bypass || s.planesFit (o :: acc ++ [x])) then acc ++ [x] else acc) []

/-- An operation issues: it is charged, its keys are used, and an erase or a suspension is noted in its LUN. -/
def State.grant (s : State) (o : NandOp) : State :=
  let n := addrLun o.addr
  let s := (s.chargeOp o).encUse o
  let s : State := { s with media := { s.media with ops := updWhere (fun x => x.id == o.id) (fun x => { x with issued := true }) s.media.ops } }
  let last := (s.led.lastLun.filter fun x => x.1 != o.rank) ++ [(o.rank, n)]
  let held := if s.led.reserved = some o.id then none else s.led.reserved
  let s : State := { s with led := { s.led with lastLun := last, reserved := held } }
  s.modLun n fun l =>
    if o.kind = .erase then { l with erase := some (addrBlk o.addr), suspended := false, suspends := 0, burst := 0, resumed := 0 }
    else if l.erase.isSome ∧ !l.suspended ∧ o.kind = .read then { l with suspended := true, suspends := l.suspends + 1, burst := 0 }
    else l

/-- An operation issues on all its planes. -/
def State.grantAll (s : State) (o : NandOp) : State := (o :: s.planeMates o).foldl (fun s x => s.grant x) s

/-! ### Sensors (R558 to R562) -/

/-- An external sensor's record. -/
def State.sensor (s : State) (i : Nat) : Sensor := (s.led.sensors.find? fun x => x.n == i).getD { n := i }

/-- LED_TEMP[n] reports a reading in 1/16 °C. -/
def State.setTemp (s : State) (n : Nat) (t : Int) : State := (s.fput .ledTemp_temp (ofSigned 16 t) n).fput .ledTemp_valid 1 n

/-- A reading from the two bytes fetched, the first in bits 7:0, in 1/16 °C (R561). Both formats give the upper twelve bits: a
signed 16-bit number of 1/256 °C loses its low four bits, a signed 12-bit number of 1/16 °C stands in bits 15 to 4. -/
def convertTemp (bigEnd : Bool) (raw : Nat) : Int :=
  let v := if bigEnd then raw % 256 * 256 + raw / 256 % 256 else raw % 65536
  toSigned 16 v / 16

/-- A read of an external sensor (R561, R562). -/
def State.readSensor (s : State) (i : Nat) (raw : Option Nat) : State :=
  let x := s.sensor i
  let got := raw.map fun r => convertTemp (s.flag .ledSens_bigEnd i) r
  let good := got.any fun t => decide (-640 ≤ t ∧ t ≤ 2400)
  let x' : Sensor := { x with bad := if good then 0 else x.bad + 1, good := if good then x.good + 1 else 0, at_ := s.clk.cycles }
  let falls := !x.invalid && decide (3 ≤ x'.bad)
  let rises := x.invalid && decide (3 ≤ x'.good)
  let x' : Sensor := { x' with invalid := (x.invalid || falls) && !rises }
  let s : State := { s with led := { s.led with sensors := insertBy (fun y => y.n) x' (s.led.sensors.filter fun y => y.n != i) } }
  let s := match got with
    | some t => if good ∧ !x'.invalid then s.setTemp (32 + i) (t + toSigned 8 (s.fget .ledSens_offset i)) else s
    | none => s
  if falls then (s.fput .ledTemp_valid 0 (32 + i)).report .sensorInvalid i else s

/-- The sensors of a group, as indices of LED_TEMP (R558). -/
def State.groupSensors (s : State) (g : Nat) : List Nat :=
  if g = 0 then List.range 32
  else ((List.range 64).filter fun i => s.flag .ledSens_en i && s.fget .ledSens_group i == g).map fun i => 32 + i

/-- How a group stands: it takes no part, it has a temperature in 1/16 °C, or it has failed (R562). -/
inductive GroupTemp where
  | absent
  | at_ (t : Int)
  | failed
  deriving DecidableEq, Repr

/-- A group's temperature: the highest valid reading. -/
def State.groupTemp (s : State) (g : Nat) : GroupTemp :=
  let ns := s.groupSensors g
  let ts := (ns.filter fun n => s.flag .ledTemp_valid n).map fun n => toSigned 16 (s.fget .ledTemp_temp n)
  match ts with
  | t :: l => .at_ (l.foldl max t)
  | [] => if ns.all fun n => decide (32 ≤ n) && (s.sensor (n - 32)).invalid then (if ns.isEmpty then .absent else .failed) else .absent

/-! ### Policy (R563 to R565) -/

/-- Signed °C of a register field, in 1/16 °C. -/
def State.degrees (s : State) (f : Fld) (i : Nat) (j : Nat := 0) : Int := toSigned 8 (s.fget f i j) * 16

/-- Linear interpolation over points (temperature, value), rounded down; the end values hold outside. -/
def interpT (t : Int) : List (Int × Int) → Int
  | [] => 0
  | [p] => p.2
  | a :: b :: l => if t ≤ a.1 then a.2 else if t < b.1 then a.2 + (b.2 - a.2) * (t - a.1) / (b.1 - a.1) else interpT t (b :: l)

/-- A group's curve value (R563). -/
def State.curveAt (s : State) (f : Fld) (g : Nat) (t : Int) : Nat :=
  (interpT t ((List.range 8).map fun i => (s.degrees .ledCurve_tempC g i, (s.fget f g i : Int)))).toNat

/-- The temperature policy takes for a group. -/
def State.policyTemp (s : State) (g : Nat) : Option Int :=
  match s.groupTemp g with
  | .absent => none
  | .at_ t => some t
  | .failed => some (s.degrees .ledGrpCtrl_failC g)

/-- The levels of a group (R565). -/
def State.groupLevel (s : State) (g : Nat) : State :=
  let s := s.fput .ledThermStat_fail (setBits (s.fget .ledThermStat_fail) g 1 (b2n (decide (s.groupTemp g = .failed))))
  let t := s.policyTemp g
  let step := fun (s : State) (f : Fld) (lvl : Int) (back : Int) (e : EvKind) =>
    let was := bitAt (s.fget f) g
    let now := t.any fun t => decide (lvl ≤ t) || (was && decide (lvl - back ≤ t))
    let s := s.fput f (setBits (s.fget f) g 1 (b2n now))
    if now && !was then s.report e g else s
  step (step s .ledThermStat_warn (s.degrees .ledGrpCtrl_warnC g) 48 .groupWarn) .ledThermStat_trip (s.degrees .ledGrpCtrl_tripC g) 80 .groupTrip

/-- The target factor of a bucket (R564). -/
def State.factorTarget (s : State) (b : Nat) : Nat :=
  minOf 1000 ((List.range 8).filterMap fun g =>
    if bitAt (s.fget .ledGrpCtrl_capSel g) b then (s.policyTemp g).map fun t => s.curveAt .ledCurve_factorPm g t else none)

/-- The factor after an evaluation: it falls at once and rises by at most RISE_PM. -/
def State.factorNext (s : State) (b : Nat) : Nat :=
  let old := (s.led.factors[b]?).getD 1000
  min (s.factorTarget b) (old + s.fget .ledThermCtrl_risePm)

/-- The Draught demand (R564, R562). -/
def State.demandNext (s : State) : Nat :=
  if s.tripped ∨ s.fget .ledThermStat_fail ≠ 0 then 1000
  else ((List.range 8).filterMap fun g => (s.policyTemp g).map fun t => s.curveAt .ledCurve_demandPm g t).foldl max (s.fget .ledThermCtrl_demandMinPm)

/-- The demand in force (R564): until the first evaluation, DEMAND_MIN_PM. -/
def State.demandNow (s : State) : Nat := if s.led.evalAt.isNone then s.fget .ledThermCtrl_demandMinPm else s.fget .ledThermStat_demandPm

/-- An evaluation of thermal policy (R564). -/
def State.thermal (s : State) : State :=
  let s := (List.range 8).foldl (fun s g => s.groupLevel g) s
  let l : LedSt := { s.led with factors := (List.range 3).map s.factorNext, evalAt := some s.clk.cycles }
  let s : State := { s with led := l }
  let d := s.demandNext
  (s.fput .ledThermStat_demandPm d).chanEvaluate d

/-- An on-die sensor at or above the critical temperature (R565). -/
def State.critical (s : State) (temps : List Int) : Bool :=
  temps.any fun t => decide ((if s.ident.grade = 1 then 1920 else 1840) ≤ t)

/-- The critical-temperature halt (R565): the Tun goes to the rescue area, then the part halts; a part with nothing to flush
halts at once. The channels run at full demand (R603). -/
def State.criticalHalt (s : State) : State :=
  let s := (s.report .critHalt).chanEvaluate 1000
  if s.tun.replayDone ∧ s.hasFlash ∧ s.power.pstate ≠ 3 then s.startFlush 3
  else ({ s with power := { s.power with halt := some .thermal } }).emit .alert

/-! ### LEDGER_SET (R566) -/

/-- The tokens of a full operation of class `k` at the costs the registers hold. -/
def State.fullCost (s : State) (k : Nat) : Nat :=
  s.media.geom.planes * (s.fget .ledCost_energy k + pageKib s.media.geom * s.fget .ledCost_energy 5)

/-- A full operation of class 0 to 4 exceeds the depth of FLASH or ENCL at the caps the registers hold. -/
def State.ledOversized (s : State) : Bool :=
  (List.range 5).any fun k => [0, 2].any fun b =>
    let e := effCap (s.capReg b) ((s.led.factors[b]?).getD 1000)
    decide (e ≠ 0) && decide (e * s.fget .ledCtrl_burstWin < s.fullCost k)

/-- TEMP_C increases strictly over a group's curve. -/
def State.curveRises (s : State) (g : Nat) : Bool := (List.range 7).all fun i => decide (s.degrees .ledCurve_tempC g i < s.degrees .ledCurve_tempC g (i + 1))

/-- The size LEDGER_SET's ITEM asks for. -/
def ledItemLen (item : Nat) : Nat := if item = 0 then 16 else if item = 1 then 64 else 36

/-- The registers that an image sets, each with its value and the bits it defines. -/
def ledImage (item g : Nat) (b : Bytes) : List (RegKey × Nat × Nat) :=
  if item = 0 then [(⟨.ledCap, 0, 0, 0⟩, fieldAt b 0 8, 60), (⟨.ledLimit, 0, 0, 0⟩, fieldAt b 8 8, 56)]
  else if item = 1 then (List.range 8).map fun k => (⟨.ledCost, k, 0, 0⟩, fieldAt b (8 * k) 8, 40)
  else (⟨.ledGrpCtrl, g, 0, 0⟩, fieldAt b 0 4, 32) :: (List.range 8).map fun i => (⟨.ledCurve, g, i, 0⟩, fieldAt b (4 + 4 * i) 4, 28)

/-- Every field of a group's registers lies in its range. -/
def State.groupInRange (s : State) (g : Nat) : Bool :=
  bits (s.reg ⟨.ledGrpCtrl, g, 0, 0⟩) 3 5 == 0 &&
    (List.range 8).all fun i => decide (50 ≤ s.fget .ledCurve_factorPm g i ∧ s.fget .ledCurve_factorPm g i ≤ 1000 ∧ s.fget .ledCurve_demandPm g i ≤ 1000)

/-- The state with an image applied, or none when LEDGER_SET refuses it (R566). -/
def State.ledApply (s : State) (item g : Nat) (b : Bytes) : Option State :=
  let im := ledImage item g b
  let t := im.foldl (fun s x => s.setReg x.1 x.2.1) s
  let bad := (im.any fun x => decide (2 ^ x.2.2 ≤ x.2.1)) || t.ledOversized ||
    (item == 2 && (!t.groupInRange g || !t.curveRises g || decide (t.degrees .ledGrpCtrl_tripC g ≤ t.degrees .ledGrpCtrl_warnC g)))
  if bad then none else some t

end Sys2Proof.Machine
end

