-- ==== Sys2Proof/Machine/RegOps.lean ====
section
/-!
DEFINITION. The register map as addresses (R750 to R757, R765), the encodings that a write may set (R12), and the fields that the option
area sets (R636, R766) or that take effect at the next start (R774).
-/

namespace Sys2Proof.Machine

/-! ### Addresses -/

/-- The array indices at a distance from an array's base, and what is left of the distance. -/
def arrayAt : List (Nat × Nat) → Nat → Option (List Nat × Nat)
  | [], r => some ([], r)
  | (st, n) :: l, r => if r / st < n then (arrayAt l (r % st)).map fun x => (r / st :: x.1, x.2) else none

/-- Where an offset of a space falls in a register: its indices and the byte within it. -/
def RegName.at? (n : RegName) (sp : Space) (off : Nat) : Option (List Nat × Nat) :=
  let p := n.place
  if p.space = sp ∧ p.base ≤ off then (arrayAt p.dims (off - p.base)).filter fun x => decide (8 * x.2 < p.width) else none

/-- The register that holds an offset of a space, with its indices and the byte within it; none where the offset is reserved. -/
def findReg (sp : Space) (off : Nat) : Option (RegName × List Nat × Nat) :=
  RegName.all.findSome? fun n => (n.at? sp off).map fun x => (n, x)

/-- A register of a function's page, or of a space without pages. -/
def pageKey (n : RegName) (page : Option Nat) (is : List Nat) : RegKey :=
  let l := page.toList ++ is
  ⟨n, (l[0]?).getD 0, (l[1]?).getD 0, (l[2]?).getD 0⟩

/-! ### Encodings -/

/-- A value is an encoding that a field defines (R12). -/
def Enc.ok (e : Enc) (w v : Nat) : Bool :=
  match e with
  | .any => true
  | .rng lo hi => decide (lo ≤ v ∧ v ≤ hi)
  | .mul lo hi m => decide (lo ≤ v ∧ v ≤ hi ∧ v % m = 0)
  | .oneOf vs => vs.contains v
  | .srng lo hi => decide (lo ≤ toSigned w v ∧ toSigned w v ≤ hi)

/-- The bits of a field in its register. -/
def FieldDef.mask (f : FieldDef) : Nat := (2 ^ f.w - 1) * 2 ^ f.lsb

/-- A number with the bits of a mask taken from another. -/
def mergeBits (old new m : Nat) : Nat := old - (old &&& m) + (new &&& m)

/-! ### The option area's fields and the fields of the next start -/

/-- The fields whose reset value is "From option area" (R766), as bits of their register. -/
def RegName.optMask : RegName → Nat
  | .drmCtrl => 0x3
  | .drtBusCfg => 0xffffffffffffffff
  | .drtChCfg => 0x7ffffffffffff
  | .drtChCtrl => 0x5
  | .drtChLimit => 0xffffffff
  | .drtCurve => 0x1ffffff
  | .drtMotor => 0xffffffffffffffff
  | .drtScale => 0xffffffff
  | .ledCap => 0xfffffffffffffff
  | .ledCost => 0xffffffffff
  | .ledCurve => 0xfffffff
  | .ledGrpCtrl => 0xffffff07
  | .ledLimit => 0xffffffffffffff
  | .ledSens => 0xffffffffffff00000000ffff7fff
  | .ledThermCtrl => 0x3ff00000
  | .medNandCfg => 0xf1fffff
  | .medRrTable => 0xffffffffffffffffffffffffffffff
  | .medSpareCtrl => 0x7f
  | .medWearCtrl => 0xffff
  | .netMacAddr => 0xffffffffffff
  | .netMgmtCtrl => 0xc
  | .netMode => 0x3
  | .netPortCtrl => 0x7
  | .ptpLat => 0xffffffff
  | .twnCfg => 0x3fff3fff0003ffff
  | _ => 0

/-- The fields of R774, as (lowest bit, width) of their register. -/
def RegName.nextStart : RegName → List (Nat × Nat)
  | .tunCtrl => [(0, 14), (16, 3)]
  | .medPhyCtrl => [(0, 3)]
  | .medTerCtrl => [(17, 7)]
  | .netMode => [(0, 2)]
  | .drmCtrl => [(0, 2)]
  | _ => []

/-- Their bits. -/
def RegName.nextMask (n : RegName) : Nat := (n.nextStart.map fun f => (2 ^ f.2 - 1) * 2 ^ f.1).sum

/-- A register's fields that share bits with a mask hold defined encodings in `v`. -/
def RegName.encOk (n : RegName) (m v : Nat) : Bool := n.fields.all fun f => decide (f.mask &&& m = 0) || f.enc.ok f.w (bits v f.lsb f.w)

/-- A reset entry is applied, or ignored whole with an event (R636). -/
def State.optEntry (s : State) (i : Nat) (b : Bytes) : State :=
  let off := fieldAt b 0 4
  let mask := fieldAt b 12 4
  let bad := s.report .optEntryIgnored i
  if 2 ≤ fieldAt b 4 1 ∨ off % 4 ≠ 0 then bad
  else if mask = 0 then s
  else match findReg (if fieldAt b 4 1 = 0 then .glob else .sup) off with
    | none => bad
    | some (n, is, r) =>
      let k := pageKey n none is
      let m := mask * 2 ^ (8 * r)
      let v := mergeBits (s.reg k) (fieldAt b 8 4 * 2 ^ (8 * r)) m
      if m &&& (n.optMask ||| n.nextMask) = m ∧ n.encOk m v then s.setReg k v else bad

end Sys2Proof.Machine
end

