-- ==== Sys2Proof/Machine/TownCmds.lean ====
section
/-!
DEFINITION. The commands of the Town (R376 to R416): TOWN_CONTROL, Town messages and the Town's timers.
-/

namespace Sys2Proof.Machine

/-! ### TOWN_CONTROL (R414 to R416) -/

/-- The record of QUERY (R415); a part outside a Town reports none. -/
def State.townRecord (s : State) : Bytes :=
  let t := s.town
  let mem := s.isMember
  let z := fun (n : Nat) => if mem then n else 0
  packLe 64 [(0, 8, t.role), (8, 8, t.state), (16, 8, z t.level), (24, 1, b2n s.frozen), (25, 1, b2n (mem && t.noStandby)), (32, 32, z s.handle), (64, 64, z t.epoch),
    (128, 32, z t.term), (160, 32, z t.hall), (192, 32, z t.standby), (224, 16, z t.live.length), (240, 16, z (t.members.filter fun m => m.state == 3).length),
    (256, 32, z (t.wards.filter fun e => e.orphan).length), (288, 32, z t.transfers.length),
    (320, 32, z (t.wards.filter fun e => e.assigned && e.owner == s.memberId).length), (352, 32, z (t.wards.filter fun e => e.reps.contains s.memberId).length)]

/-- A reserved field or encoding of TOWN_CONTROL's parameter block is used (R414). -/
def townBad (d : Desc) : Bool :=
  let action := param d 56 1
  adminBad d 64 || decide (5 < action) || decide (param d 57 1 ≠ 0) || decide (16384 ≤ param d 58 2) || decide (2 ^ 20 ≤ param d 60 4)
    || (!(action == 3 || action == 4) && decide (param d 58 2 ≠ 0)) || (!(action == 4) && decide (param d 60 4 ≠ 0))

/-- JOIN (R378, R416): a new incarnation, and JOIN to the acting Hall when a session to it is OPEN; a defined Hall or Deputy
seeks the acting role instead (R376). -/
def State.townJoin (s : State) (ctx : Option Nat) : State :=
  let inc := if (s.town.incarnation + 1) % 262144 = 0 then 1 else s.town.incarnation + 1
  let s := { s with town := { s.town with incarnation := inc, state := 1, joinSince := some s.clk.cycles, joinCtx := ctx, hall := 0 }, ywp := { s.ywp with reqNo := 1 } }
  if s.fget .twnCfg_definedRole ≠ 0 then s
  else match (s.slotTo (s.fget .twnCfg_hallId)).orElse fun _ => s.slotTo (s.fget .twnCfg_deputyId) with
    | some x => { s with town := { s.town with hall := x.identity } }.sendJoin
    | none => s

/-- LEAVE (R380): TRANSFERs empty the member before the acting Hall sets it REMOVED. -/
def State.townLeave (s : State) (c : OpCtx) : State :=
  let s := { s with town := { s.town with state := 4, joinCtx := some c.id } }
  s.sendTown (idOf s.town.hall) { tmsg := 0x03 }

/-- TOWN_CONTROL (R414): the checks of R416 in its order, then the action; REMOVE, MOVE and HALL_RETURN go to the acting Hall. -/
def State.runTown (s : State) (c : OpCtx) : State :=
  let d := c.desc
  let action := param d 56 1
  let t := s.town
  let bad := townBad d || (action == 1 && (!s.flag .twnCfg_townEn || s.crossingFails)) || (action == 2 && s.isMember && (t.hall == s.handle || t.standby == s.handle))
  s.adminRun c true bad (if action = 0 then 64 else 0) fun s c =>
    if action = 0 then s.adminRecord c s.townRecord
    else if s.frozen then s.fail c stTownFrozen
    else if action = 1 then (if t.state = 2 ∨ t.state = 1 then s.fail c stNotMember else s.townJoin (some c.id))
    else if t.state ≠ 2 then s.fail c stNotMember
    else if action = 2 then s.townLeave c
    else if s.acting then s.runControl d (some c.id) none fun s st => match s.kv.ctx? c.id with | some c => s.fail c st | none => s
    else if s.reach t.hall then (s.sendTown (idOf t.hall) { tmsg := 0x10, arg0 := c.id, body := .command c.tenant d }).modCtx c.id fun c => { c with since := s.clk.cycles, dest := t.hall }
    else s.modCtx c.id fun c => { c with phase := .noOwner, since := s.clk.cycles }

/-- A TOWN_CONTROL with its action. -/
def State.townArrive (s : State) (action f : Nat) (d : Desc) (x : Fetched) : State :=
  s.adminArrive opTown f { d with key40 := padTo 40 (BitVec.ofNat 8 action :: d.key40.drop 1) } x fun s c => s.runTown c

/-- TOWN_QUERY (R415). -/
def execTownQuery (f : Nat) (d : Desc) (x : Fetched) (s : State) : Host.Outcome State Fault Refusal :=
  done townParts townRegs s (s.townArrive 0 f d x)

/-- TOWN_JOIN (R378). -/
def execTownJoin (f : Nat) (d : Desc) (x : Fetched) (s : State) : Host.Outcome State Fault Refusal :=
  done townParts townRegs s (s.townArrive 1 f d x)

/-- TOWN_LEAVE (R380). -/
def execTownLeave (f : Nat) (d : Desc) (x : Fetched) (s : State) : Host.Outcome State Fault Refusal :=
  done townParts townRegs s (s.townArrive 2 f d x)

/-- TOWN_REMOVE (R400). -/
def execTownRemove (f : Nat) (d : Desc) (x : Fetched) (s : State) : Host.Outcome State Fault Refusal :=
  done townParts townRegs s (s.townArrive 3 f d x)

/-- TOWN_MOVE (R404). -/
def execTownMove (f : Nat) (d : Desc) (x : Fetched) (s : State) : Host.Outcome State Fault Refusal :=
  done townParts townRegs s (s.townArrive 4 f d x)

/-- TOWN_HALL_RETURN (R402). -/
def execTownHallReturn (f : Nat) (d : Desc) (x : Fetched) (s : State) : Host.Outcome State Fault Refusal :=
  done townParts townRegs s (s.townArrive 5 f d x)

/-! ### The acting role (R376) -/

/-- TERM_ROUND (R376): a defined Hall or Deputy that has not joined begins a round, or ends one that has run for 10 ms with
the next. -/
def execTermRound (s : State) : Host.Outcome State Fault Refusal :=
  done (townParts ++ [.clk]) townRegs s (when (s.netOn && s.flag .twnCfg_townEn && decide (s.fget .twnCfg_definedRole = 1 ∨ s.fget .twnCfg_definedRole = 2) && !s.isMember && decide (s.town.state = 1)
      && decide (s.town.hall = 0)) (fun s =>
    match s.town.round with
    | some r => (s.waitCycle (r.since + 10 * msCycles)).beginRound.checkRound
    | none =>
      let s := if s.fget .twnCfg_definedRole = 2 then s.waitCycle (s.town.joinSince.getD 0 + 10 * msCycles) else s
      s.beginRound.checkRound) s)

/-- TERM_QUERY (R376): a query is answered. While a round of this part runs, an answer counts; a message of the other
candidate that grants nothing and names no Hall is taken as its query (DESIGN CHOICE, log entry 41). -/
def execTermQuery (m : TMsg) (s : State) : Host.Outcome State Fault Refusal :=
  done townParts townRegs s (s.onTown m fun s =>
    match s.town.round with
    | none => s.answerQuery m
    | some r =>
      let id := idOf m.sender
      let other := if s.fget .twnCfg_definedRole = 1 then s.fget .twnCfg_deputyId else s.fget .twnCfg_hallId
      if id = other ∧ m.arg0 = 0 ∧ !bitAt m.flags 2 then s.answerQuery m
      else if m.arg0 ≠ 0 then { s with town := { s.town with round := none, hall := m.arg0 } }.sendJoin
      else
        let r : Round :=
          { r with answers := if r.answers.contains id then r.answers else r.answers ++ [id], greatest := max r.greatest m.term,
                   grants := if bitAt m.flags 2 && !r.grants.contains id then r.grants ++ [id] else r.grants }
        { s with town := { s.town with round := some r } }.checkRound)

/-! ### Joining and leaving (R378 to R380) -/

/-- JOIN (R378, R379): the acting Hall judges it; in the frozen state nothing is answered (R403). -/
def execJoin (m : TMsg) (s : State) : Host.Outcome State Fault Refusal :=
  done [.town, .ywp, .out] [.twnDrop] s (s.onTown m fun s =>
    match m.body with
    | .member x => if s.acting ∧ !s.frozen then s.hallJoin m.sender x else s
    | _ => s)

/-- JOIN_REPLY (R379): a refused part stays outside, with an event; TOWN_CONTROL JOIN ends with the status. -/
def execJoinReply (m : TMsg) (s : State) : Host.Outcome State Fault Refusal :=
  done (finishParts ++ [.town]) (ringRegs ++ [.twnDrop]) s (s.onTown m fun s =>
    if s.town.state ≠ 1 then s
    else if m.status = stOk then { s with town := { s.town with hall := m.sender, term := max s.town.term m.term } }
    else
      let s := { s with town := { s.town with state := 5, role := 0, joinSince := none } }.report .joinRefused m.status
      match s.town.joinCtx.bind s.kv.ctx? with
      | some c => { s with town := { s.town with joinCtx := none } }.fail c m.status
      | none => s)

/-- LEAVE (R380); with ARG0 1 the request of a read-only member (R305; DESIGN CHOICE, log entry 178). -/
def execLeave (m : TMsg) (s : State) : Host.Outcome State Fault Refusal :=
  done townParts townRegs s (s.onTown m fun s => if s.acting ∧ !s.frozen then (if m.arg0 = 1 then s.hallEmpty m.sender else s.hallLeave m.sender) else s)

/-! ### Heartbeats (R395, R396) -/

/-- A fenced member whose lease is valid again serves again (R395). -/
def State.unfence (s : State) : State :=
  if s.town.state = 3 ∧ s.leaseValid then { s with town := { s.town with state := 2 } } else s

/-- HEARTBEAT (R395, R396): it is noted, and a suspicion of its sender is withdrawn. -/
def execHeartbeat (m : TMsg) (s : State) : Host.Outcome State Fault Refusal :=
  done [.town, .ywp, .out] [.twnDrop] s (s.onTown m fun s =>
    let id := idOf m.sender
    let s := { s with town := { s.town with heard := (s.town.heard.filter fun (h : Nat × Nat) => h.1 != id) ++ [(id, s.clk.cycles)] } }
    let s := s.unfence
    if s.town.suspected.contains m.sender then
      let s := { s with town := { s.town with suspected := s.town.suspected.filter fun h => h != m.sender } }
      let msg : TMsg := { tmsg := 0x05, flags := 1, arg0 := m.sender }
      let s := s.toHall msg fun s => s.takeSuspect m.sender s.memberId true
      if s.town.standby = s.handle then s.takeSuspect m.sender s.memberId true
      else if s.town.standby = 0 then s else s.sendTown (idOf s.town.standby) msg
    else s)

/-- Free space in ‰ with STATE above it, as a heartbeat carries them (R413; the packing is DESIGN CHOICE, log entry 42). -/
def State.heartArg (s : State) : Nat := s.freePm + 65536 * s.town.state

/-- A read-only member asks the acting Hall, once, to move its Wards away (R305): a LEAVE with ARG0 1, sent with a heartbeat (DESIGN CHOICE, log entry
178). -/
def State.askEmpty (s : State) : State :=
  if s.media.readOnly ∧ s.town.state = 2 ∧ !s.frozen ∧ s.reach s.town.hall ∧ s.town.asked ≠ some s.town.hall then
    ({ s with town := { s.town with asked := some s.town.hall } } : State).toHall { tmsg := 0x03, arg0 := 1 } fun s => s.hallEmpty s.handle
  else s

/-- HEARTBEAT_SEND (R395, R396): every PERIOD_US to the watchers and to the watched members that are not suspected. -/
def execHeartbeatSend (s : State) : Host.Outcome State Fault Refusal :=
  done (townParts ++ [.clk]) townRegs s (when (s.netOn && s.isMember) (fun s =>
    let s := s.waitCycle (s.town.heartAt + s.fget .twnHbCtrl_periodUs * usCycles)
    let s := { s with town := { s.town with heartAt := s.clk.cycles } }
    let dests := (s.watchers ++ (s.watched.filter fun h => !s.town.suspected.contains h).map idOf).eraseDups.filter fun m => m != s.memberId
    (dests.foldl (fun s m => s.sendTown m { tmsg := 0x04, arg0 := s.heartArg }) s).askEmpty) s)

/-- HEARTBEAT_MISS (R396): after MISS_US of silence a watcher suspects a watched member and reports it. -/
def execHeartbeatMiss (handle : Nat) (s : State) : Host.Outcome State Fault Refusal :=
  done [.clk, .town, .ywp, .out] [] s (when (s.netOn && s.isMember && s.watched.contains handle && !s.town.suspected.contains handle) (fun s =>
    let last := ((s.town.heard.find? fun h => h.1 == idOf handle).map fun h => h.2).getD 0
    let s := s.waitCycle (last + s.fget .twnHbCtrl_missUs * usCycles)
    let s := { s with town := { s.town with suspected := s.town.suspected ++ [handle] } }
    let msg : TMsg := { tmsg := 0x05, arg0 := handle }
    let s := if s.town.hall = handle then s else s.toHall msg fun s => s.takeSuspect handle s.memberId false
    if s.town.standby = s.handle then s.takeSuspect handle s.memberId false
    else if s.town.standby = 0 ∨ s.town.standby = handle then s else s.sendTown (idOf s.town.standby) msg) s)

/-- LEASE_LAPSE (R395): without heartbeats of Q watchers within LEASE_US the member is FENCED. -/
def execLeaseLapse (s : State) : Host.Outcome State Fault Refusal :=
  done [.clk, .town, .sup, .ev] [] s (match s.leaseEnd with
    | none => s
    | some e => when (s.netOn && s.isMember && decide (s.town.state = 2 ∨ s.town.state = 4)) (fun s =>
        let s := s.waitCycle e
        { s with town := { s.town with state := 3 } }.report .fenced) s)

/-- SUSPECT (R396) at the acting Hall or the standby. -/
def execSuspect (m : TMsg) (s : State) : Host.Outcome State Fault Refusal :=
  done [.town] [.twnDrop] s (s.onTown m fun s =>
    if s.town.role = 2 ∨ s.town.role = 3 then s.takeSuspect m.arg0 (idOf m.sender) (bitAt m.flags 0) else s)

/-- MEMBER_FAILED_DECLARE (R397, R401): LEASE_US + GUARD_US after Q reports stand unwithdrawn, the acting Hall declares the
member FAILED; of the acting Hall itself, the standby does and takes over. -/
def execMemberFailedDeclare (handle : Nat) (s : State) : Host.Outcome State Fault Refusal :=
  done (townParts ++ [.clk]) townRegs s (match s.town.member? (idOf handle) with
    | none => s
    | some m =>
      let times := sortBy id ((s.town.suspects.filter fun x => x.1 == handle && m.watchers.contains x.2.1).map fun x => x.2.2)
      let q := quorum m.watchers.length
      when (s.netOn && decide (m.handle = handle ∧ m.state = 2 ∧ q ≤ times.length) && !s.frozen) (fun s =>
        let s := s.waitCycle (times.getD (q - 1) 0 + (s.fget .twnHbCtrl_leaseUs + s.fget .twnHbCtrl_guardUs) * usCycles)
        if s.acting ∧ handle ≠ s.handle then s.declareFailed handle
        else if s.town.role = 3 ∧ s.town.state ≠ 3 ∧ handle = s.town.hall then s.takeOver
        else s) s)

/-! ### The map (R375, R383, R384) -/

/-- A map message of a lesser term or epoch is discarded and counted (R375). -/
def State.dropMap (s : State) : State := s.fadd .twnDrop_term 1

/-- MAP_DELTA (R383): applied when it follows this part's epoch, and acknowledged; otherwise the whole map is fetched. -/
def execMapDelta (m : TMsg) (s : State) : Host.Outcome State Fault Refusal :=
  done townParts townRegs s (s.onTown m fun s =>
    match m.body with
    | .map b =>
      if !s.mapAccepted m false then s.dropMap
      else
        let s := { s with town := { s.town with term := m.term } }
        if m.arg0 ≠ s.town.epoch then s.sendTown (idOf m.sender) { tmsg := 0x08 }
        else (s.applyMap b m.epoch false).sendTown (idOf m.sender) { tmsg := 0x07, epoch := m.epoch }
    | _ => s)

/-- MAP_ACK (R377, R378, R402, R407) at the acting Hall. -/
def execMapAck (m : TMsg) (s : State) : Host.Outcome State Fault Refusal :=
  done townParts townRegs s (s.onTown m fun s => if s.acting then s.hallAck m.sender m.epoch else s)

/-- MAP_FETCH (R383) at the acting Hall. -/
def execMapFetch (m : TMsg) (s : State) : Host.Outcome State Fault Refusal :=
  done [.ywp, .out] [.twnDrop] s (s.onTown m fun s => if s.acting then s.sendTown (idOf m.sender) { tmsg := 0x09, epoch := s.town.epoch, body := .map s.fullMap } else s)

/-- The standby to which the acting Hall hands its role takes the next term (R402; ARG1 1 of the whole map marks the
hand-over, DESIGN CHOICE, log entry 43). -/
def State.takeHandOver (m : TMsg) (s : State) : State :=
  if m.arg1 = 1 ∧ s.town.role = 3 ∧ s.memberId = s.fget .twnCfg_hallId then
    s.becomeHall (s.town.term + 1) { hall := s.handle, standby := m.sender }
  else s

/-- The whole map `b` of message `m` is taken and acknowledged (R378, R383). -/
def State.takeMapFull (m : TMsg) (b : MapBody) (s : State) : State :=
  let s := { s with town := { s.town with term := m.term } }
  ((s.applyMap b m.epoch true).sendTown (idOf m.sender) { tmsg := 0x07, epoch := m.epoch }).takeHandOver m

/-- MAP_FULL (R378, R383): the whole map is replaced and acknowledged. -/
def execMapFull (m : TMsg) (s : State) : Host.Outcome State Fault Refusal :=
  done townParts townRegs s (s.onTown m fun s => match m.body with
    | .map b => if s.mapAccepted m false then s.takeMapFull m b else s.dropMap
    | _ => s)

/-- EPOCH_WAIT_TIMEOUT (R384): after 1 ms a waiting message makes the part fetch the map. -/
def execEpochWaitTimeout (s : State) : Host.Outcome State Fault Refusal :=
  done [.clk, .ywp, .out] [] s (match s.town.waiting with
    | [] => s
    | (t, _) :: _ => when s.netOn (fun s => (s.waitCycle (t + msCycles)).sendTown (idOf s.town.hall) { tmsg := 0x08 }) s)

/-- TAKEOVER (R375, R401): the new acting Hall's term and epoch are accepted; a map that does not follow this part's is
fetched. -/
def execTakeover (m : TMsg) (s : State) : Host.Outcome State Fault Refusal :=
  done townParts townRegs s (s.onTown m fun s =>
    match m.body with
    | .map b =>
      if !s.mapAccepted m true then s.dropMap
      else
        let next := decide (m.arg0 = s.town.epoch)
        let s := { s with town := { s.town with term := m.term, hall := m.sender, publish := [] } }
        if next then (s.applyMap b m.epoch false).sendTown (idOf m.sender) { tmsg := 0x07, epoch := m.epoch }
        else s.sendTown (idOf m.sender) { tmsg := 0x08 }
    | _ => s)

/-! ### Replication and transfers (R390, R391, R404 to R406) -/

/-- What a message of changes can write. -/
def changeParts : List Part := [.power, .kv, .tun, .index, .media, .time, .town, .ywp, .net, .sup, .ev, .out]
def changeRegs : List RegName := countRegs ++ [.adStat, .twnDrop]

/-- REPLICATE (R391). -/
def execReplicate (m : TMsg) (s : State) : Host.Outcome State Fault Refusal :=
  done changeParts changeRegs s (s.onTown m fun s => s.underMap m fun s => s.takeChange m)

/-- What a receiver's acknowledgement ends: the waits of the operation it belongs to (of two pieces of one staged value at one offset, the
first: the messages of a session come in order), or of an offered entry. -/
def State.ackFrom (s : State) (m : TMsg) : State :=
  let id := idOf m.sender
  let hit := fun (c : OpCtx) => c.acks.contains id && (if m.arg0 = 0 then c.stamp == m.stamp else decide (c.phase = .pages ∧ c.handle = m.arg0 ∧ c.desc.offset = m.arg1))
  let cs := if m.arg0 = 0 then s.kv.ctxs.filter hit else (s.kv.ctxs.filter hit).take 1
  let s := cs.foldl (fun s c =>
    let l := c.acks.filter fun a => a != id
    let s := s.modCtx c.id fun c => { c with acks := l }
    if !l.isEmpty then s
    else
      let s := c.entries.foldl (fun s e => s.modEntry e fun e => { e with replAck := true }) s
      let s := if c.batchNo = 0 then s else s.resolveBatch c.batchNo
      if c.phase = .commit then s.commitCheck c else s) s
  let os := s.town.offers.map fun o => if m.arg0 = 0 ∧ (s.tun.entry? o.1).any fun e => e.stamp == m.stamp then (o.1, o.2.filter fun a => a != id) else o
  let s := (os.filter fun o => o.2.isEmpty).foldl (fun s o => s.modEntry o.1 fun e => { e with replAck := true }) s
  { s with town := { s.town with offers := os.filter fun o => !o.2.isEmpty } }.piecesCheck.cutCheck

/-- REPL_ACK (R390, R391): an OK counts toward step 3 of R22; MOVED makes the owner fetch the map. -/
def execReplAck (m : TMsg) (s : State) : Host.Outcome State Fault Refusal :=
  done townParts townRegs s (s.onTown m fun s =>
    if m.status = stOk then s.ackFrom m
    else if m.status = stMoved then s.toHall { tmsg := 0x08 } fun s => s
    else s)

/-- TRANSFER_DATA (R404). -/
def execTransferData (m : TMsg) (s : State) : Host.Outcome State Fault Refusal :=
  done changeParts changeRegs s (s.onTown m fun s => s.underMap m fun s => s.takeChange m)

/-- A stored record as an entry image, for a transfer. -/
def State.imageOfItem (s : State) (i : Item) : TunEntry :=
  { id := 0, kind := if i.kind = .tombstone then .tombstone else .put, state := .live, ksp := i.ksp, key := i.key, origin := i.origin, replAck := true,
    stamp := i.stamp, vlen := i.vlen, digest := s.digest i.ksp i.key, data := if i.kind = .extents then s.media.extentBytes i.extents i.vlen else i.data }

/-- Every version of a Ward that the part holds and retains (R404 step 2). -/
def State.versionsOf (s : State) (w : Nat) : List TunEntry :=
  let t := (s.tun.entries.filter fun e => decide (e.state = .live ∧ e.kind ≠ .batchRecord) && wardOf e.digest == w).map fun e =>
    if e.kind = .publish then { e with data := s.media.extentBytes e.extents e.vlen } else e
  let f := (s.media.items.filter fun i => decide (i.kind = .value ∨ i.kind = .extents ∨ i.kind = .tombstone) && !i.lost && decide (i.copyOf = 0)
    && wardOf (s.digest i.ksp i.key) == w && (s.recordLive i || s.recordRetained i)).map s.imageOfItem
  f ++ t

/-- TRANSFER_COPY_DONE (R404, R406): the copy of a Ward has been sent; a MOVE begins its cut, a FILL reports readiness. -/
def execTransferCopyDone (ward : Nat) (s : State) : Host.Outcome State Fault Refusal :=
  done townParts townRegs s (match s.town.transfers.find? fun t => t.ward == ward with
    | none => s
    | some t =>
      when (s.netOn && decide (s.wardOwner ward = .self) && !s.town.copied.contains ward) (fun s =>
        let s := s.sendTown (idOf t.target) { tmsg := 0x0C, ward := ward, body := .versions (s.versionsOf ward) s.ywp.records true }
        let s := { s with town := { s.town with cuts := s.town.cuts ++ [(ward, s.clk.cycles)] } }
        if t.move then s.cutCheck
        else
          let s := { s with town := { s.town with cuts := s.town.cuts.filter fun c => c.1 != ward, copied := s.town.copied ++ [ward] } }
          s.toHall { tmsg := 0x0D, ward := ward } fun s => s.hallReady s.handle ward false) s)

/-- TRANSFER_READY (R404) at the acting Hall. -/
def execTransferReady (m : TMsg) (s : State) : Host.Outcome State Fault Refusal :=
  done townParts townRegs s (s.onTown m fun s => if s.acting ∧ !s.frozen then s.hallReady m.sender m.ward (bitAt m.flags 1) else s)

/-- CUT_TIMEOUT (R406): a cut of 5 ms is abandoned. -/
def execCutTimeout (ward : Nat) (s : State) : Host.Outcome State Fault Refusal :=
  done (townParts ++ [.clk]) townRegs s (match s.town.cuts.find? fun c => c.1 == ward with
    | none => s
    | some c => when (s.netOn && !s.town.copied.contains ward) (fun s =>
        let s := (s.waitCycle (c.2 + 5 * msCycles)).fadd .twnDrop_cutAborts 1
        let s := { s with town := { s.town with cuts := s.town.cuts.filter fun c => c.1 != ward } }
        s.toHall { tmsg := 0x0D, flags := 2, ward := ward } fun s => s.hallReady s.handle ward true) s)

/-! ### Forwarded commands (R407, R414) -/

/-- KEYSPACE_REQ (R407): the acting Hall judges a forwarded keyspace command and answers once its epoch is acknowledged. -/
def execKeyspaceReq (m : TMsg) (s : State) : Host.Outcome State Fault Refusal :=
  done (townParts ++ [.free]) (townRegs ++ [.cipDrbgStat]) s (s.onTown m fun s =>
    match m.body with
    | .command f d =>
      let ans := fun (st : Nat) => ({ tmsg := 0x10, arg0 := m.arg0, status := st } : TMsg)
      if s.acting ∧ !s.frozen ∧ (d.opc = opKspCreate ∨ d.opc = opKspDelete) then
        s.hallKeyspace f d none (some (idOf m.sender, ans stOk)) fun s st => s.sendTown (idOf m.sender) (ans st)
      else s
    | _ => s)

/-- FORWARDED_TOWN_CONTROL (R414, R416): the acting Hall acts on a REMOVE, MOVE or HALL_RETURN of another member. -/
def execForwardedTownControl (m : TMsg) (s : State) : Host.Outcome State Fault Refusal :=
  done townParts townRegs s (s.onTown m fun s =>
    match m.body with
    | .command _ d =>
      let ans := fun (st : Nat) => ({ tmsg := 0x10, arg0 := m.arg0, status := st } : TMsg)
      if s.acting ∧ !s.frozen ∧ d.opc = opTown then
        s.runControl d none (some (idOf m.sender, ans stOk)) fun s st => s.sendTown (idOf m.sender) (ans st)
      else s
    | _ => s)

/-- KEYSPACE_REQ_ANSWER (R407): the forwarded command completes. -/
def execKeyspaceReqAnswer (m : TMsg) (s : State) : Host.Outcome State Fault Refusal :=
  done finishParts (ringRegs ++ [.twnDrop]) s (s.onTown m fun s =>
    match s.kv.ctx? m.arg0 with
    | some c =>
      if decide (c.phase = .admin ∧ c.pool = .admin) && (c.desc.opc == opKspCreate || c.desc.opc == opKspDelete || c.desc.opc == opTown) then
        if m.status = stOk then s.finish c { status := stOk, rstamp := m.stamp } [] else s.fail c m.status
      else s
    | none => s)

/-- OWNER_RETRY_TIMEOUT (R388): RETRY_MS without an OPEN session to the owner. -/
def execOwnerRetryTimeout (id : Nat) (s : State) : Host.Outcome State Fault Refusal :=
  done (finishParts ++ [.clk]) ringRegs s (match s.kv.ctx? id with
    | none => s
    | some c => when (s.ready && decide (c.phase = .noOwner ∧ c.pool ≠ .admin)) (fun s =>
        (s.waitCycle (c.since + s.fget .twnRetryCtrl_retryMs * msCycles)).fail c stPeerUnreachable) s)

/-- A command that was sent to the acting Hall, which can no longer be reached, has no answer (R407, R416). -/
def State.hallLost (s : State) (c : OpCtx) : Bool :=
  decide (c.phase = .admin) && (c.desc.opc == opKspCreate || c.desc.opc == opKspDelete || (c.desc.opc == opTown && decide (3 ≤ param c.desc 56 1)))
    && s.isMember && !s.acting && !s.reach s.town.hall

/-- HALL_UNREACHABLE_TIMEOUT (R407, R416): RETRY_MS without the acting Hall ends a forwarded command or a JOIN; a frozen
Town ends it with TOWN_FROZEN (R403). -/
def execHallUnreachableTimeout (id : Nat) (s : State) : Host.Outcome State Fault Refusal :=
  done (finishParts ++ [.clk, .town]) ringRegs s (match s.kv.ctx? id with
    | none => s
    | some c =>
      let join := decide (s.town.joinCtx = some id)
      when (s.ready && decide (c.pool = .admin) && (decide (c.phase = .noOwner) || s.hallLost c || (join && decide (s.town.state = 1)))) (fun s =>
        let s := s.waitCycle (c.since + s.fget .twnRetryCtrl_retryMs * msCycles)
        let s := if join then { s with town := { s.town with joinCtx := none } } else s
        s.fail c (if s.frozen then stTownFrozen else stPeerUnreachable)) s)

end Sys2Proof.Machine
end

