-- ==== Sys2Proof/Machine/EventOps.lean ====
section
/-!
DEFINITION. The event recorder (R675 to R685): records and their bytes, programming the front buffer, reading the log through a
window, and the nonce.
-/

namespace Sys2Proof.Machine

/-! ### Records (R675, R676) -/

/-- The severity of an event (R676; the catalogues of the other blocks are not in the spec). -/
def evSeverity : EvKind → Nat
  | .start => 0
  | .logCleared => 1
  | .replayed => 0
  | k => Config.eventSeverity (evCode k) % 5

/-- The 60 bytes that CHECK covers. -/
def recBody (r : EvRec) : Bytes :=
  packLe 60 [(0, 16, evCode r.kind), (16, 8, r.source), (24, 3, evSeverity r.kind), (32, 32, r.cycle), (64, 32, r.firstS), (96, 96, r.key),
    (192, 64, r.data), (256, 32, r.lastS), (288, 16, r.rep), (304, 1, b2n r.repUnknown)]

/-- The 64 bytes of a record. -/
def recBytes (r : EvRec) : Bytes := recBody r ++ leBytes 4 (crc32c (recBody r))

/-- A 32-byte chunk of an erased area. -/
def erasedChunk : Bytes := List.replicate 32 0xFF#8

/-- The 32-byte chunk at an offset of the record area, as programmed. -/
def EvSt.chunk (e : EvSt) (off : Nat) : Bytes :=
  match (if e.clearing.isSome then none else e.log[off / 64]?) with
  | none => erasedChunk
  | some r =>
    if off / 32 % 2 = 0 then (if r.prog1 then (recBytes r).take 32 else erasedChunk)
    else if r.prog2 then (recBytes r).drop 32 else erasedChunk

/-- The record that a window shows at an index: 64 bytes of 0xFF past the log's end (R683). -/
def EvSt.shown (e : EvSt) (i : Nat) : Bytes :=
  match e.log[i]? with
  | some r => recBytes r
  | none => List.replicate 64 0xFF#8

/-! ### Programming (R679, R680) -/

/-- The first record with a chunk that may be programmed: the open one has its first only. -/
def EvSt.nextProg (e : EvSt) : Option Nat :=
  let last := e.log.length - 1
  (List.range e.log.length).find? fun i => match e.log[i]? with
    | some r => if i = last ∧ e.isOpen then !r.prog1 else !r.prog2
    | none => false

/-- Program a record: the open one its first chunk, another both. -/
def EvSt.program (e : EvSt) (i : Nat) : EvSt :=
  let isLast := decide (i + 1 = e.log.length) && e.isOpen
  { e with log := (List.range e.log.length).filterMap fun n => (e.log[n]?).map fun (r : EvRec) => if n = i then { r with prog1 := true, prog2 := r.prog2 || !isLast } else r }

/-- The recorder may program: the code flash is up, no clear runs, and no replay is awaited (R682, R685). -/
def State.recProg (s : State) : Bool :=
  s.alive && decide (2 ≤ s.power.stage) && decide (s.power.pstate ≠ 3) && !s.ev.holdProg && s.ev.clearing.isNone

/-- Cycles between programs at 8,000 records per second. -/
def progCycles : Nat := 125 * usCycles

/-- The power-fail handling of a part without LUNs (R682): the open record is closed, and as many buffered records are programmed as
complete within 2 ms. -/
def EvSt.lastPrograms (e : EvSt) : EvSt :=
  (List.range 16).foldl (fun (e : EvSt) _ => match e.nextProg with | some i => e.program i | none => e) { e with isOpen := false }

/-! ### Reading (R683, R684) -/

/-- The window's index: a function's number, or 256 for the supervisor. -/
def whoIdx : Requester → Nat
  | .func f => f
  | .sup => 256

/-- A requester may read the log: its bit in EVT_ACCESS, or the supervisor. -/
def State.mayReadLog (s : State) : Requester → Bool
  | .func f => bitAt (s.reg ⟨.evtAccess, f / 32, 0, 0⟩) (f % 32)
  | .sup => true

/-- The latched record of a window. -/
def State.evLatch (s : State) (who : Requester) : Nat :=
  match s.latches.find? fun l => decide (l.who = who ∧ l.key = ⟨.evtWindow, whoIdx who, 0, 0⟩) with
  | some l => l.value
  | none => ofLe (s.ev.shown (s.fget .evtCursor_index (whoIdx who)))

/-- A current nonce (R684). -/
def State.nonceNow (s : State) : Option Nat := (s.ev.nonce.filter fun n => decide (s.clk.cycles < n.2 + 60 * secCycles)).map fun n => n.1

end Sys2Proof.Machine
end

