-- ==== Sys2Proof/Machine/CflOps.lean ====
section
/-!
DEFINITION. The code flash (R616 to R649): sectors and their bytes, parameter maps, the option area, write protection, bus
faults, and the taking and ending of descriptors.
-/

namespace Sys2Proof.Machine

/-! ### Arrays and sectors (R616, R617) -/

/-- Sectors of an array. -/
def cflSectors (a : Nat) : Nat := if a = 2 then 260 else 279

/-- The physical sectors of a bank are its 32 parameter sectors and then its 255 main ones; those of Array R its sectors in order. -/
def physSectors (a : Nat) : Nat := if a = 2 then 260 else 287

/-- The array offset and the size of a physical sector. -/
def physBase (a k : Nat) : Nat := if a = 2 ∨ k < 32 then 0x1000 * k else 0x20000 * (k - 31)
def physSize (a k : Nat) : Nat := if a = 2 ∨ k < 32 then 0x1000 else 0x20000

/-- The physical sector that holds a physical offset. -/
def physAt (a off : Nat) : Nat := if a = 2 ∨ off < 0x20000 then off / 0x1000 else 31 + off / 0x20000

/-- The sector that an array offset of R617 lies in: none in the hole and past the array. -/
def sectorAt (a off : Nat) : Option Nat :=
  if a = 2 then (if off < 0x104000 then some (off / 0x1000) else none)
  else if off < 0x18000 then some (off / 0x1000)
  else if off < 0x20000 then none
  else if off < 0x2000000 then some (24 + (off - 0x20000) / 0x20000)
  else none

/-- The first array offset of a sector, and its size. -/
def sectorBase (a n : Nat) : Nat := if a = 2 ∨ n < 24 then 0x1000 * n else 0x20000 * (n - 23)
def sectorSize (a n : Nat) : Nat := if a = 2 ∨ n < 24 then 0x1000 else 0x20000

/-- A cell's address. -/
def cellAddr (a off : Nat) : Nat := a * 2 ^ 25 + off

/-! ### Parameter maps (R631) -/

/-- The tag of a physical parameter sector; manufacture tags physical s as logical s. -/
def CflSt.tag (x : CflSt) (b p : Nat) : ParamTag :=
  (x.tags.find? fun t => t.bank == b && t.phys == p).getD ⟨b, p, if p < 24 then some p else none, 0⟩

/-- Set a tag. -/
def CflSt.setTag (x : CflSt) (t : ParamTag) : CflSt :=
  { x with tags := x.tags.filter (fun (y : ParamTag) => !(y.bank == t.bank && y.phys == t.phys)) ++ [t] }

/-- The tags of a bank in physical order. -/
def CflSt.tagsOf (x : CflSt) (b : Nat) : List ParamTag := (List.range 32).map fun p => x.tag b p

/-- The physical sector of a logical parameter sector: the tagged one with the greatest sequence. -/
def CflSt.physOf (x : CflSt) (b n : Nat) : Nat :=
  (((x.tagsOf b).filter fun t => t.logical == some n).foldl (fun (best : Option ParamTag) t => match best with
    | none => some t
    | some y => if y.seq < t.seq then some t else some y) none).elim n fun t => t.phys

/-- A bank's next tag sequence. -/
def CflSt.nextSeq (x : CflSt) (b : Nat) : Nat := ((x.tagsOf b).map fun t => t.seq).foldl max 0 + 1

/-- The physical sector of a sector. -/
def CflSt.phys (x : CflSt) (a n : Nat) : Nat := if a = 2 then n else if n < 24 then x.physOf a n else n + 8

/-! ### Bytes -/

/-- A sector holds what manufacture left: Bank A's first 24 parameter sectors and its main sectors, and the option area. -/
def CflSt.asMade (x : CflSt) (a k : Nat) : Bool :=
  ((a == 0 && (decide (k < 24) || decide (32 ≤ k))) || (a == 2 && decide (256 ≤ k))) && !x.erased.contains (a * 1024 + k)

/-- The byte of a marker chunk that is set (R661). -/
def markerByte (n i : Nat) : Nat := if i < 4 then 0x54464D4B / 256 ^ i % 256 else if i = 4 then n else 0

/-- What manufacture leaves at an offset: Bank A's record is INSTALLED and CONFIRMED; each option copy begins with MAGIC, FORMAT 1,
no reset entries and SEQ 0; the rest is the implementation's. -/
def factoryAt (a off : Nat) : Nat :=
  if a = 0 ∧ off < 512 then
    (if off < 28 then Config.factoryByte 0 off % 256
     else if off < 32 then crc32c ((List.range 28).map fun i => BitVec.ofNat 8 (Config.factoryByte 0 i)) / 256 ^ (off - 28) % 256
     else if 64 ≤ off ∧ off < 96 then markerByte 2 (off - 64) else 255)
  else if a = 2 ∧ (off - 0x100000) % 0x2000 < 18 then
    (let i := (off - 0x100000) % 0x2000
     if i < 4 then 0x4F505431 / 256 ^ i % 256 else if i = 4 then 1 else 0)
  else Config.factoryByte a off % 256

/-- What a byte that no cell lists reads as: what manufacture left, or erased. -/
def CflSt.cflDefault (x : CflSt) (addr : Nat) : Byte :=
  let a := addr / 2 ^ 25
  let off := addr % 2 ^ 25
  if x.asMade a (physAt a off) then BitVec.ofNat 8 (factoryAt a off) else 0xFF#8

/-- The cell of an address in a list of cells. -/
def cellAt (addr : Nat) : List Host.Cell → Option Byte
  | [] => none
  | (a, b) :: l => if a = addr then some b else if addr < a then none else cellAt addr l

/-- The list with the cell of an address set, or removed when none is given; addresses rise strictly. -/
def cellSet (addr : Nat) (v : Option Byte) : List Host.Cell → List Host.Cell
  | [] => match v with | some b => [(addr, b)] | none => []
  | (a, b) :: l =>
    if a = addr then (match v with | some x => (addr, x) :: l | none => l)
    else if addr < a then (match v with | some x => (addr, x) :: (a, b) :: l | none => (a, b) :: l)
    else (a, b) :: cellSet addr v l

/-- A byte of the die at a cell address: undefined, listed, or by default. -/
def CflSt.byte (x : CflSt) (addr : Nat) : Byte :=
  match x.undef.find? fun u => decide (u.1 ≤ addr ∧ addr < u.1 + u.2.1) with
  | some u => BitVec.ofNat 8 (u.2.2 / 256 ^ (addr - u.1))
  | none => (cellAt addr x.mem).getD (x.cflDefault addr)

/-- What is left of an undefined range when the cells from `lo` up to `hi` are written. -/
def cutRange (lo hi : Nat) (u : Nat × Nat × Nat) : List (Nat × Nat × Nat) :=
  let m := max u.1 hi
  (if u.1 < lo then [(u.1, min u.2.1 (lo - u.1), u.2.2)] else []) ++
    (if m < u.1 + u.2.1 then [(m, u.1 + u.2.1 - m, u.2.2 / 256 ^ (m - u.1))] else [])

/-- Write a byte, keeping the cells canonical. -/
def CflSt.put (x : CflSt) (addr : Nat) (b : Byte) : CflSt :=
  { x with mem := cellSet addr (if b = x.cflDefault addr then none else some b) x.mem, undef := x.undef.flatMap (cutRange addr (addr + 1)) }

/-- Cells in canonical form: addresses rise strictly, and no cell says what an unlisted byte reads as. -/
def CflSt.wf (x : CflSt) : Bool :=
  (x.mem.zip (x.mem.drop 1)).all (fun p => decide (p.1.1 < p.2.1)) && x.mem.all fun c => decide (c.2 ≠ x.cflDefault c.1)

/-- The bytes at array offsets of a bank or of Array R, as the map of R631 places them; the record area shows the log. -/
def State.cflRead (s : State) (a off n : Nat) : Bytes :=
  (List.range n).map fun i =>
    let o := off + i
    if a = 2 ∧ o < 0x100000 then ((s.ev.chunk (o / 32 * 32))[o % 32]?).getD 0xFF#8
    else match sectorAt a o with
      | none => 0#8
      | some k => s.cfl.byte (cellAddr a (physBase a (s.cfl.phys a k) + (o - sectorBase a k)))

/-- The cell address of an array offset that lies in a sector. -/
def CflSt.place (x : CflSt) (a o : Nat) : Nat :=
  match sectorAt a o with
  | none => cellAddr a o
  | some k => cellAddr a (physBase a (x.phys a k) + (o - sectorBase a k))

/-- A chunk has been programmed since its sector's last erase; of Bank A's record as made, INSTALLED, CONFIRMED and the header. -/
def CflSt.chunkUsed (x : CflSt) (addr : Nat) : Bool :=
  let a := addr / 2 ^ 25
  let off := addr % 2 ^ 25
  x.programmed.contains (addr / 32) ||
    (x.asMade a (physAt a off) && (decide (a ≠ 0) || decide (0x1000 ≤ off) || off / 32 == 0 || off / 32 == 2 || decide (16 ≤ off / 32 ∧ off / 32 < 32)))

/-- Program bytes at an array offset. -/
def CflSt.programAt (x : CflSt) (a off : Nat) (bs : Bytes) : CflSt :=
  let x := (List.range bs.length).foldl (fun (x : CflSt) i => x.put (x.place a (off + i)) ((bs[i]?).getD 0#8)) x
  let cs := (List.range ((bs.length + 31) / 32)).map fun i => x.place a (off + 32 * i) / 32
  { x with programmed := x.programmed ++ cs.filter fun c => !x.programmed.contains c }

/-- A physical sector is erased. -/
def CflSt.erase (x : CflSt) (a k : Nat) : CflSt :=
  let lo := cellAddr a (physBase a k)
  let hi := lo + physSize a k
  let e := a * 1024 + k
  { x with mem := x.mem.filter fun c => decide (c.1 < lo ∨ hi ≤ c.1)
           programmed := x.programmed.filter fun c => decide (32 * c < lo ∨ hi ≤ 32 * c)
           undef := x.undef.flatMap (cutRange lo hi)
           erased := if x.erased.contains e then x.erased else x.erased ++ [e] }

/-- A range becomes undefined (R629, R630). -/
def State.cflUndef (s : State) (addr n : Nat) : State :=
  let r := s.fresh
  { r.2 with cfl := { r.2.cfl with undef := r.2.cfl.undef ++ [(addr, n, r.1)] } }

/-! ### Write protection (R633, R634) and the option area (R635, R637) -/

/-- The base of an option copy in Array R. -/
def optBase (c : Nat) : Nat := 0x100000 + 0x2000 * c

/-- The option copy in use. -/
def State.optCopy (s : State) : Nat := s.fget .cflStat_optCopy

/-- Bytes of the option copy in use. -/
def State.optBytes (s : State) (off n : Nat) : Bytes := s.cflRead 2 (optBase s.optCopy + off) n

/-- Both sectors of an option copy hold what manufacture left. -/
def State.optAsMade (s : State) (c : Nat) : Bool := s.cfl.asMade 2 (256 + 2 * c) && s.cfl.asMade 2 (257 + 2 * c)

/-- A copy is valid (R637); one as made is. -/
def State.optValid (s : State) (c : Nat) : Bool :=
  let b := s.cflRead 2 (optBase c) 8192
  s.optAsMade c ||
    (decide (fieldAt b 0 4 = 0x4F505431) && decide (fieldAt b 4 2 = 1) && decide (fieldAt b 6 2 ≤ 384) && decide (fieldAt b 16 2 ≤ 1008)
      && decide (fieldAt b 8188 4 = crc32c (b.take 8188)))

/-- The bit of a sector in WP_OPENABLE and WP_BOOT_OPEN (R635). -/
def wpBit (a n : Nat) : Nat := 288 * a + n

/-- A sector's bit in a bitmap of the option copy in use, at offset 128 or 256. -/
def State.optWp (s : State) (off a n : Nat) : Bool :=
  bitAt (ofLe (s.optBytes (off + wpBit a n / 8) 1)) (wpBit a n % 8)

/-- A sector is protected. -/
def CflSt.locked (x : CflSt) (a n : Nat) : Bool := !x.wpOpen.contains (a, n)

/-- Open sectors of both option copies at once. -/
def bothCopies (l : List (Nat × Nat)) : Bool :=
  (l.contains (2, 256) || l.contains (2, 257)) && (l.contains (2, 258) || l.contains (2, 259))

/-- SET_WP (R634): none when refused. -/
def State.setWp (s : State) (a from_ n mode : Nat) : Option State :=
  let range := (List.range n).map fun i => from_ + i
  if mode = 0 then
    some { s with cfl := { s.cfl with wpOpen := s.cfl.wpOpen.filter fun w => !(w.1 == a && range.contains w.2) } }
  else
    let l := s.cfl.wpOpen ++ (range.filter fun k => s.cfl.locked a k).map fun k => (a, k)
    if (!s.flag .cflStat_romMode && !range.all (fun k => s.optWp 128 a k)) || (a == 2 && range.any fun k => decide (k < 256)) || bothCopies l then none
    else some { s with cfl := { s.cfl with wpOpen := l } }

/-! ### Bus faults (R620) -/

/-- The operation that runs on an array. -/
def CflSt.running (x : CflSt) (a : Nat) : Option CflJob := (x.run.find? fun j => j.1 == a).map fun j => j.2

/-- The suspended erase of an array. -/
def CflSt.suspended (x : CflSt) (a : Nat) : Option CflJob := (x.susp.find? fun j => j.1 == a).map fun j => j.2

/-- A physical sector is under an erase. -/
def jobHits (a : Nat) (j : CflJob) (k : Nat) : Bool :=
  decide (j.op = 3) || (decide (j.op = 2) && (match j.phys with | some p => k == p | none => k == (if a = 2 then j.d.addr else j.d.addr + 8)))

/-- The array and offset of a supervisor address in the code flash (R617). -/
def cflDecode (addr : Nat) : Option (Nat × Nat) :=
  if 0x10000000 ≤ addr ∧ addr < 0x12000000 then some (0, addr - 0x10000000)
  else if 0x12000000 ≤ addr ∧ addr < 0x14000000 then some (1, addr - 0x12000000)
  else if 0x14000000 ≤ addr ∧ addr < 0x14104000 then some (2, addr - 0x14000000)
  else none

/-- An access is a bus fault for a reason other than an uncorrectable chunk. -/
def State.busFaults (s : State) (k : Access) (a off : Nat) : Bool :=
  (s.cfl.running a).isSome || (a == 2 && s.ev.clearing.isSome) || decide (k = .store) || (sectorAt a off).isNone ||
    (match s.cfl.suspended a, sectorAt a off with
      | some j, some n => jobHits a j (s.cfl.phys a n)
      | _, _ => false) ||
    (decide (k = .fetch) && (a == 2 || !bitAt (s.reg ⟨.cflBankExec, 0, 0, 0⟩) a))

/-- A supervisor core runs. -/
def State.coreRuns (s : State) (n : Nat) : Bool := s.sup.cores.any fun c => c.n == n

/-- An access fault reaches a core. -/
def State.busFault (s : State) (core : Nat) (k : Access) (addr : Nat) : State :=
  let s : State := { s with sup := { s.sup with cores := updWhere (fun c => c.n == core) (fun (c : SupCore) => { c with trap := some (k, addr) }) s.sup.cores } }
  s.emit (.busFault core k addr)

/-- A read that reaches WARN_BITS (R618): the address of its chunk is recorded, and an event. -/
def State.cflWarn (s : State) (a off n : Nat) : State :=
  let s := (((s.fput .cflEccStat_warn 1).fput .cflEccStat_array a).fput .cflEccStat_addr (off / 32 * 32)).fadd .cflEccStat_warns n
  (s.emit .cflWarn).report .cflWarn (a * 2 ^ 32 + off / 32 * 32)

/-- An uncorrectable chunk (R618). -/
def State.cflUncorr (s : State) (a off : Nat) : State :=
  let s := ((s.fput .cflEccStat_uncorr 1).fput .cflEccStat_array a).fput .cflEccStat_addr (off / 32 * 32)
  s.report .cflUncorr (a * 2 ^ 32 + off / 32 * 32)

/-! ### Descriptors (R624 to R632) -/

/-- A descriptor completes (R625): STATUS, WARN and INFO are written, OWN cleared, and CFL_DONE raised. -/
def State.cflComplete (s : State) (slot st : Nat) (warn : Bool) (info : Nat) : State :=
  let l := s.cfl.slots.filter fun x => x.1 != slot
  let s : State := { s with cfl := { s.cfl with slots := l ++ [(slot, st, warn, info)] }, sup := { s.sup with plic := { s.sup.plic with cflDone := true } } }
  s.emit (.cflDone slot st warn info)

/-- The statuses this chapter adds (R629). -/
def stBankInUse : Nat := 0x0600
def stWpViolation : Nat := 0x0601
def stVerifyFail : Nat := 0x0602
def stNotErased : Nat := 0x0603
def stSectorSuspended : Nat := 0x0604
def stUncorrectable : Nat := 0x0605

/-- A range of sectors outside its array. -/
def rangeBad (d : CflDesc) : Bool := d.len == 0 || decide (cflSectors d.array < d.addr + d.len)

/-- The first condition of R629: a reserved or ill-formed field. -/
def cflFieldBad (op : Nat) (d : CflDesc) : Bool :=
  decide (2 < d.array) || d.rsv || decide ((if op = 4 ∨ op = 8 then 1 else 0) < d.mode) ||
    (match op with
      | 1 => decide (d.addr % 32 ≠ 0) || decide (d.len % 32 ≠ 0) || decide (d.len < 32) || decide (512 < d.len % 2 ^ 32)
          || decide (512 < d.addr % 512 + d.len) || (sectorAt d.array d.addr).isNone
          || (d.array == 2 && (sectorAt 2 d.addr).any fun k => decide (k < 256))
      | 2 => decide (d.len ≠ 0) || decide (cflSectors d.array ≤ d.addr) || (d.array == 2 && decide (d.addr < 256))
      | 3 => decide (d.len ≠ 0) || decide (d.array = 2)
      | 6 => decide (d.len ≠ 0)
      | 7 => decide (d.len ≠ 0)
      | _ => rangeBad d)

/-- The sectors a program or erase touches. -/
def cflTouched (op : Nat) (d : CflDesc) : List Nat :=
  if op = 1 then (sectorAt d.array d.addr).toList else if op = 2 then [d.addr] else List.range 279

/-- The status with which a program or erase ends when it is taken, if it does not start (R629). -/
def State.cflRefused (s : State) (op : Nat) (d : CflDesc) : Option Nat :=
  let x := s.cfl
  let lo := x.place d.array d.addr
  firstStatus
    [(cflFieldBad op d, stFieldInvalid),
     (decide (d.array < 2) && bitAt (s.reg ⟨.cflBankExec, 0, 0, 0⟩) d.array, stBankInUse),
     ((cflTouched op d).any fun k => x.locked d.array k, stWpViolation),
     (op == 1 && (x.suspended d.array).any fun j => jobHits d.array j (physAt d.array (lo % 2 ^ 25)), stSectorSuspended),
     (op == 1 && (List.range (d.len / 32)).any fun i => x.chunkUsed (lo + 32 * i), stNotErased),
     (op == 1 && d.buf.isNone, stInternalFault)]

/-- The spare that a parameter erase takes: the first erased one after PTR (R632). -/
def CflSt.spare (x : CflSt) (b ptr : Nat) : Option Nat :=
  let order := (List.range 32).map fun i => (ptr + 1 + i) % 32
  let free := order.filter fun p => (x.tag b p).logical.isNone
  let good := free.filter fun p => !(x.undef.any fun u => decide (u.1 < cellAddr b (physBase b p) + physSize b p ∧ cellAddr b (physBase b p) < u.1 + u.2.1))
  good.head?.orElse fun _ => free.head?

/-- A program or erase starts; a parameter erase first gives the logical sector to a spare (R632 steps 1 and 2). -/
def State.cflStart (s : State) (slot op : Nat) (d : CflDesc) : State :=
  let job : CflJob := { slot := slot, op := op, d := d, since := s.clk.cycles }
  if op = 2 ∧ d.array < 2 ∧ d.addr < 24 then
    let old := s.cfl.physOf d.array d.addr
    match s.cfl.spare d.array (s.fget .cflParamPtr_ptr d.array) with
    | none => s.cflComplete slot stVerifyFail false 0
    | some p =>
      let x := s.cfl.setTag ⟨d.array, p, some d.addr, s.cfl.nextSeq d.array⟩
      { s with cfl := { x with run := x.run ++ [(d.array, { job with phys := some old })] } }
  else { s with cfl := { s.cfl with run := s.cfl.run ++ [(d.array, job)] } }

/-- A margin or ECC read of sectors (R628, R629). -/
def State.cflScan (s : State) (slot op : Nat) (d : CflDesc) : State :=
  if cflFieldBad op d then s.cflComplete slot stFieldInvalid false 0
  else
    let warn := decide (0 < d.warns)
    let r := s.fresh
    let s := if warn then r.2.cflWarn d.array (r.1 % 2 ^ 24) d.warns else s
    let s := if d.uncorr then s.cflUncorr d.array (r.1 % 2 ^ 24) else s
    if op = 4 then s.cflComplete slot (if d.failed = 0 then stOk else stVerifyFail) warn d.failed
    else s.cflComplete slot (if d.uncorr then stUncorrectable else stOk) warn (d.worst % 256 + d.warns % 2 ^ 24 * 256)

/-- A descriptor is taken: it starts, or completes. -/
def State.cflTake (s : State) (slot op : Nat) (d : CflDesc) : State :=
  if 4 ≤ op then s.cflScan slot op d
  else match s.cflRefused op d with
    | some st => s.cflComplete slot st false 0
    | none => s.cflStart slot op d

/-- An array can take no descriptor of this operation now (R626, R627). -/
def State.cflBusy (s : State) (op : Nat) (d : CflDesc) : Bool :=
  decide (d.array ≤ 2) &&
    ((s.cfl.running d.array).isSome || (d.array == 2 && s.ev.clearing.isSome) || (op != 1 && (s.cfl.suspended d.array).isSome))

/-- Waiting descriptors of an array are taken as far as it allows, in order. -/
def State.cflNext (s : State) (a : Nat) : State :=
  (List.range s.cfl.waiting.length).foldl (fun s _ =>
    match s.cfl.waiting.find? fun w => w.2.2.array == a with
    | none => s
    | some w =>
      if s.cflBusy w.2.1 w.2.2 then s
      else
        let s : State := { s with cfl := { s.cfl with waiting := s.cfl.waiting.erase w } }
        s.cflTake w.1 w.2.1 w.2.2) s

/-- SUSPEND (R628, R630). -/
def State.cflSuspend (s : State) (slot : Nat) (d : CflDesc) : State :=
  match s.cfl.running d.array with
  | some j =>
    if j.op = 2 ∨ j.op = 3 then
      let j' : CflJob := { j with suspends := j.suspends + 1 }
      let s : State := { s with cfl := { s.cfl with run := s.cfl.run.erase (d.array, j), susp := s.cfl.susp ++ [(d.array, j')] } }
      (s.cflComplete slot stOk false (1 + min 65535 j'.suspends * 65536)).cflNext d.array
    else s.cflComplete slot stOk false 0
  | none => s.cflComplete slot stOk false 0

/-- RESUME (R628): the erase goes on, after a program that runs beside it. -/
def State.cflResume (s : State) (slot : Nat) (d : CflDesc) : State :=
  match s.cfl.suspended d.array with
  | some j =>
    let s : State := { s with cfl := { s.cfl with susp := s.cfl.susp.erase (d.array, j), run := s.cfl.run ++ [(d.array, j)] } }
    s.cflComplete slot stOk false 1
  | none => s.cflComplete slot stOk false 0

/-- The controller reads slots (R625): the queue is enabled and holds one. -/
def State.cflQueued (s : State) : Bool :=
  s.alive && s.flag .cflStat_ready && decide (s.power.pstate ≠ 3) && s.flag .cflQCtrl_en && decide (s.fget .cflQCtrl_head ≠ s.fget .cflQCtrl_tail)

/-- The controller reads the descriptor at HEAD (R625, R626): it acts, is taken, or waits for its array. -/
def State.cflDescriptor (s : State) (op : Nat) (d : CflDesc) : State :=
  if s.cflQueued then
    let slot := s.fget .cflQCtrl_head
    let s := s.fput .cflQCtrl_head ((slot + 1) % 64)
    if 6 ≤ op then
      if cflFieldBad op d then s.cflComplete slot stFieldInvalid false 0
      else if op = 6 then s.cflSuspend slot d
      else if op = 7 then s.cflResume slot d
      else match s.setWp d.array d.addr d.len d.mode with
        | some t => t.cflComplete slot stOk false 0
        | none => s.cflComplete slot stWpViolation false 0
    else if s.cflBusy op d || s.cfl.waiting.any fun w => w.2.2.array == d.array then
      { s with cfl := { s.cfl with waiting := s.cfl.waiting ++ [(slot, op, d)] } }
    else s.cflTake slot op d
  else s

/-- The cell range that an operation leaves undefined when it fails or is cut short. -/
def CflSt.jobRange (x : CflSt) (a : Nat) (j : CflJob) : Nat × Nat :=
  if j.op = 1 then (x.place a j.d.addr, j.d.len)
  else if j.op = 3 then (cellAddr a 0, 2 ^ 25)
  else
    let k := match j.phys with | some p => p | none => x.phys a j.d.addr
    (cellAddr a (physBase a k), physSize a k)

/-- A bank's tags as an erase of the bank leaves them (R628). -/
def CflSt.freshTags (x : CflSt) (b : Nat) : CflSt :=
  { x with tags := x.tags.filter fun t => t.bank != b }

/-- A bank is erased whole. -/
def CflSt.eraseBank (x : CflSt) (b : Nat) : CflSt :=
  ((List.range (physSectors b)).foldl (fun (x : CflSt) k => x.erase b k) x).freshTags b

/-- What a parameter erase does to its tags and pointer at its end (R632 steps 3 and 5). -/
def State.cflRotate (s : State) (a : Nat) (j : CflJob) : State :=
  match j.phys with
  | none => s
  | some old =>
    let s : State := { s with cfl := s.cfl.setTag ⟨a, old, none, 0⟩ }
    s.fput .cflParamPtr_ptr (s.cfl.physOf a j.d.addr) a

/-- An operation ends well: its bytes are there, or its sectors erased. -/
def State.cflDid (s : State) (a : Nat) (j : CflJob) : State :=
  if j.op = 1 then { s with cfl := s.cfl.programAt a j.d.addr ((j.d.buf.getD []).take j.d.len) }
  else if j.op = 3 then { s with cfl := s.cfl.eraseBank a }
  else
    let k := match j.phys with | some p => p | none => s.cfl.phys a j.d.addr
    ({ s with cfl := s.cfl.erase a k } : State).cflRotate a j

/-- The chunks of a program that failed or was cut short count as programmed. -/
def State.cflUsed (s : State) (addr n : Nat) : State :=
  let cs := (List.range (n / 32)).map fun i => addr / 32 + i
  { s with cfl := { s.cfl with programmed := s.cfl.programmed ++ cs.filter fun c => !s.cfl.programmed.contains c } }

/-- An operation ends with a failed margin read-back: the range is undefined (R629). -/
def State.cflFailed (s : State) (a : Nat) (j : CflJob) : State :=
  let r := s.cfl.jobRange a j
  let s := (s.cflUndef r.1 r.2).report .cflVerifyFail r.1
  if j.op = 1 then s.cflUsed r.1 j.d.len
  else if j.op = 3 then { s with cfl := s.cfl.freshTags a }
  else s.cflRotate a j

/-- The operation that runs on an array ends after `us` microseconds (R625, R628). -/
def State.cflEnd (s : State) (a : Nat) (pass : Bool) (us : Nat) : State :=
  match s.cfl.running a with
  | none => s
  | some j =>
    let s := s.waitCycle (j.since + us * usCycles)
    let s : State := { s with cfl := { s.cfl with run := s.cfl.run.erase (a, j) } }
    let s := if pass then s.cflDid a j else s.cflFailed a j
    (s.cflComplete j.slot (if pass then stOk else stVerifyFail) false (if j.op = 3 then us / 1000 else us)).cflNext a

/-- A reset or PWRFAIL_N ends every running and suspended operation with its range undefined (R630). -/
def State.cflAbort (s : State) : State :=
  let s := (s.cfl.run ++ s.cfl.susp).foldl (fun s j =>
    let r := s.cfl.jobRange j.1 j.2
    let s := s.cflUndef r.1 r.2
    if j.2.op = 1 then s.cflUsed r.1 j.2.d.len else s) s
  { s with cfl := { s.cfl with run := [], susp := [], waiting := [] } }

/-- Start-up builds the maps (R631): a physical sector with an older tag of the same number is erased, and its tag with it. -/
def State.cflMaps (s : State) : State :=
  [0, 1].foldl (fun s b =>
    (List.range 32).foldl (fun s p =>
      match (s.cfl.tag b p).logical with
      | none => s
      | some n => if s.cfl.physOf b n = p then s else { s with cfl := (s.cfl.erase b p).setTag ⟨b, p, none, 0⟩ }) s) s

end Sys2Proof.Machine
end

