-- ==== Sys2Proof/Machine/UpdOps.lean ====
section
/-!
DEFINITION. Firmware update and recovery (R650 to R674): packages and their checks, bank records, the boot selection, the Cask, trial
and confirmation, and recovery staging.
-/

namespace Sys2Proof.Machine

/-! ### The boot selection record (R653) -/

/-- A field of the BOOT record of the option copy in use. -/
def State.bootField (s : State) (off n : Nat) : Nat := ofLe (s.optBytes (64 + off) n)
def State.ownerOnly (s : State) : Bool := bitAt (s.bootField 2 1) 2
def State.recovMgmt (s : State) : Bool := bitAt (s.bootField 2 1) 0
def State.recovBar (s : State) : Bool := bitAt (s.bootField 2 1) 1
def State.minSvn (s : State) : Nat := s.bootField 4 4

/-- The trial window in seconds (R653). -/
def State.confirmS (s : State) : Nat := let v := s.bootField 8 4; if 60 ≤ v ∧ v ≤ 86400 then v else 600

/-- SHA-384 of a byte string, and its first 16 bytes. -/
def sha (b : Bytes) : Nat := Config.sha384 (b.map fun x => x.toNat)
def sha16 (b : Bytes) : Bytes := (beBytes 48 (sha b)).take 16

/-! ### Packages (R650 to R652, R660) -/

/-- Pieces of a package, and the bytes of one (R654). -/
def pieceCount (len : Nat) : Nat := (len + 4095) / 4096
def pieceLen (len i : Nat) : Nat := min 4096 (len - 4096 * i)

/-- A package length in range. -/
def pkgLenOk (len : Nat) : Bool := decide (529 ≤ len ∧ len ≤ 25166352)

/-- A signer is trusted (R651). -/
def State.signerTrusted (s : State) (signer : Bytes) : Bool :=
  let h := sha signer
  (decide (h = Config.ulsubelKeyHash) && !s.ownerOnly) || (decide (h = ofBe (s.optBytes 80 48)) && decide (h ≠ 0))

/-- Steps 2 to 5 of R660 on a header: 0, or the code of the first that fails. -/
def State.headerCheck (s : State) (h : Bytes) : Nat :=
  let zero := fun (off n : Nat) => fieldAt h off n == 0
  if !(decide (fieldAt h 0 4 = 0x5446494D) && decide (fieldAt h 4 2 = 1) && decide (1 ≤ fieldAt h 8 4 ∧ fieldAt h 8 4 ≤ 25165824)
      && zero 6 2 && zero 38 2 && zero 52 12 && zero 208 176 && zero 480 32) then 2
  else if !s.signerTrusted (slice h 112 96) then 3
  else if !Config.ecdsaVerify (ofBe (slice h 112 96)) (sha (h.take 384)) (ofBe (slice h 384 96)) then 4
  else if fieldAt h 12 4 < s.minSvn then 5
  else 0

/-- Step 7 of R660. -/
def digestOk (h body : Bytes) : Bool := decide (ofBe (slice h 64 48) = sha body)

/-- The check of a package (R660), with what reading and decrypting it gives. -/
def State.packageCheck (s : State) (len : Nat) (h : Bytes) (r : ReadBack) : Nat :=
  if !r.readable then 1
  else
    let c := s.headerCheck h
    if decide (c = 0 ∨ 2 < c) && decide (len ≠ 512 + fieldAt h 8 4 + 16) then 2
    else if c ≠ 0 then c
    else match r.body with
      | none => 6
      | some b => if digestOk h b then 0 else 7

/-! ### Banks (R661) -/

/-- A bank record's bytes. -/
def State.bankRecord (s : State) (b : Nat) : Bytes := s.cflRead b 0 1024

/-- The image of a bank as manufacture left it. -/
def State.bankAsMade (s : State) (b : Nat) : Bool := s.cfl.asMade b (s.cfl.phys b 0)

/-- The INSTALLED chunk is valid. -/
def State.installed (s : State) (b : Nat) : Bool :=
  let r := s.bankRecord b
  s.bankAsMade b || decide (crc32c (r.take 28) = fieldAt r 28 4)

/-- A marker chunk is set: 1 TRIAL, 2 CONFIRMED, 3 FAILED, 4 SUPERSEDED. -/
def State.marked (s : State) (b n : Nat) : Bool :=
  slice (s.bankRecord b) (32 * n) 32 == (List.range 32).map fun i => BitVec.ofNat 8 (markerByte n i)

/-- Program a marker. -/
def State.mark (s : State) (b n : Nat) : State :=
  { s with cfl := s.cfl.programAt b (32 * n) ((List.range 32).map fun i => BitVec.ofNat 8 (markerByte n i)) }

/-- A_STATE and B_STATE of UPD_STAT (R672). -/
def State.bankState (s : State) (b : Nat) : Nat :=
  if s.marked b 4 then 5 else if s.marked b 3 then 4 else if s.marked b 2 then 3 else if s.marked b 1 then 2 else if s.installed b then 1 else 0

/-- IMAGE_ID, SVN, IMAGE_LEN and INSTALL_SEQ of a bank record, and its package header. -/
def State.imageId (s : State) (b : Nat) : Bytes := (s.bankRecord b).take 16
def State.bankSvn (s : State) (b : Nat) : Nat := fieldAt (s.bankRecord b) 16 4
def State.imageLen (s : State) (b : Nat) : Nat := fieldAt (s.bankRecord b) 20 4
def State.installSeq (s : State) (b : Nat) : Nat := fieldAt (s.bankRecord b) 24 4
def State.bankHeader (s : State) (b : Nat) : Bytes := slice (s.bankRecord b) 512 512

/-- The check of a bank (R660): steps 1 to 5 and 7. The image that manufacture left is whole and signed by Ulsubel. -/
def State.bankCheck (s : State) (b : Nat) (r : ReadBack) : Nat :=
  if !r.readable then 1
  else if s.bankAsMade b then (if s.ownerOnly then 3 else if s.bankSvn b < s.minSvn then 5 else 0)
  else
    let h := s.bankHeader b
    let c := s.headerCheck h
    if c ≠ 0 then c else if digestOk h (s.cflRead b 0x20000 (s.imageLen b)) then 0 else 7

/-- Install a package into a bank (R662): the bank is erased, body, header and INSTALLED are programmed, and then TRIAL. -/
def State.installBank (s : State) (b : Nat) (h body : Bytes) : State :=
  let seq := max (if s.installed 0 then s.installSeq 0 else 0) (if s.installed 1 then s.installSeq 1 else 0) + 1
  let rec_ := sha16 h ++ leBytes 4 (fieldAt h 12 4) ++ leBytes 4 (fieldAt h 8 4) ++ leBytes 4 seq
  let x := s.cfl.eraseBank b
  let x := ((x.programAt b 0x20000 body).programAt b 512 h).programAt b 0 (rec_ ++ leBytes 4 (crc32c rec_))
  ({ s with cfl := x } : State).mark b 1

/-! ### Boot selection (R662, R663) -/

/-- Identity data that the booted image gives: FW_VERSION of its header, and the Town feature levels of the image `lv`. -/
def State.identFrom (s : State) (b lv : Nat) : State :=
  let h := s.bankHeader b
  let g := s.bankHeader lv
  let made := s.bankAsMade lv
  { s with ident := { s.ident with fwVersion := slice h 16 16, featMin := if made then 1 else fieldAt g 36 1, featMax := if made then 2 else fieldAt g 37 1 } }

/-- Boot a bank (R641 steps 6 and 7), on trial or not; `prev` is the bank whose feature levels a trial image advertises (R665). -/
def State.bootBank (s : State) (b : Nat) (trial : Bool) (prev : Option Nat) : State :=
  let s := (s.setReg ⟨.cflBankExec, 0, 0, 0⟩ (2 ^ b)).fput .cflStat_bootBank b
  let s := (s.fput .cflStat_romMode 0).identFrom b (if trial then prev.getD b else b)
  let w := s.bootField 8 4
  let s : State := { s with upd := { s.upd with svn := s.bankSvn b, recovery := false, trial := if trial then some (s.clk.cycles, s.confirmS) else none } }
  if w ≠ 0 ∧ w ≠ s.confirmS then s.report .confirmTimeoutBad else s

/-- The boot ROM enters recovery mode (R666). -/
def State.enterRecovery (s : State) : State :=
  ({ s with upd := { s.upd with recovery := true, stageLen := 0, staged := [], rcvBusy := false, rcvResult := 255 } } : State).emit .alert |>.report .recoveryEntered

/-- IMAGE_ID of the Cask's package: from its first piece, while it holds one. -/
def State.caskId (s : State) : Option Bytes :=
  if s.upd.head.state = 0 then none else (s.upd.pieces.find? fun p => p.1 == 0).map fun p => sha16 (p.2.take 512)

/-- A bank's ending at the start of the selection: an unconfirmed trial, or an install that the Cask no longer names, fails. -/
def State.bankEnds (s : State) (b : Nat) : State :=
  if s.marked b 3 then s
  else if s.marked b 1 && !s.marked b 2 then (s.mark b 3).report .bankRejected b
  else if s.installed b && !s.marked b 2 && s.caskId != some (s.imageId b) then (s.mark b 3).report .bankRejected b
  else s

/-- The confirmed bank to boot. -/
def State.currentBank (s : State) (ra rb : ReadBack) : Option Nat :=
  let ok := fun (b : Nat) (r : ReadBack) => s.installed b && s.marked b 2 && !s.marked b 3 && !s.marked b 4 && decide (s.bankCheck b r = 0)
  match ok 0 ra, ok 1 rb with
  | true, true => some (if s.installSeq 0 < s.installSeq 1 then 1 else 0)
  | true, false => some 0
  | false, true => some 1
  | false, false => none

/-- boot_select() of R662, with what reading the banks and the Cask's package finds. -/
def State.bootSelect (s : State) (f : StageFound) : State :=
  let s := (s.bankEnds 0).bankEnds 1
  let s : State := { s with upd := { s.upd with result := 0, trial := none } }
  let cur := s.currentBank f.bankA f.bankB
  let pends := [0, 1].find? fun b => s.installed b && !s.marked b 1 && !s.marked b 3 && s.caskId == some (s.imageId b)
  let fallback := fun (s : State) => match cur with
    | some b => s.bootBank b false none
    | none => s.enterRecovery
  match pends with
  | some b => (s.mark b 1).bootBank b true cur
  | none =>
    let known := [0, 1].any fun b => s.installed b && s.caskId == some (s.imageId b)
    if s.upd.head.state = 2 ∧ s.caskId.isSome ∧ !known then
      let h := ((s.upd.pieces.find? fun p => p.1 == 0).map fun p => p.2.take 512).getD []
      let r := s.packageCheck s.upd.head.pkgLen h f.pkg
      if r = 0 then
        let t := if cur = some 0 then 1 else 0
        (s.installBank t h (f.pkg.body.getD [])).bootBank t true cur
      else fallback (({ s with upd := { s.upd with result := r } } : State).report .bankRejected 2 r)
    else fallback s

/-! ### The Cask (R656 to R659) -/

/-- The Cask copies that exist: those whose LUN is accepted (R245). -/
def State.caskCopies (s : State) : Nat := ([0, 21 * 128, 42 * 128].filter fun n => (s.media.lun? n).any fun l => decide (l.state = .accepted)).length

/-- Write the Cask header as firmware holds it. -/
def State.caskWrite (s : State) : State :=
  let h : CaskHead := { s.upd.head with seq := s.upd.head.seq + 1 }
  { s with upd := { s.upd with head := h, written := h } }

/-- The Cask is erased: the erase count of each of its good blocks rises (R301). That every block of every copy is erased once is the model's choice
(DESIGN CHOICE, log entry 173). -/
def State.caskErase (s : State) : State :=
  (([0, 21 * 128, 42 * 128].filter fun n => (s.media.lun? n).any fun l => decide (l.state = .accepted))).foldl (fun s n =>
    (((List.range (s.media.sysBlocks n)).filter fun b => decide (b ≠ 0) && !(s.media.factoryBad n).contains b).map fun b => (n, b)).foldl
      (fun s b => s.modBlock b.1 b.2 fun x => { x with state := .system, erases := x.erases + 1 }) s) s

/-- The Cask is erased and begins a package; its header names the package from then on. -/
def State.caskBegin (s : State) (len id : Nat) : State :=
  let s := s.caskErase
  ({ s with upd := { s.upd with head := { state := 1, seq := s.upd.head.seq, pkgLen := len, pkgId := id }, pieces := [] } } : State).caskWrite

/-- The Cask is written EMPTY. -/
def State.caskEmpty (s : State) : State :=
  ({ s with upd := { s.upd with head := { seq := s.upd.head.seq }, pieces := [] } } : State).caskWrite

/-- The statuses this chapter adds (R670). -/
def stCaskBusy : Nat := 0x0606
def stNoCask : Nat := 0x0607

/-- Program a piece into its slot of every copy; `copies` says where that passes (R656, R659). -/
def State.caskProgram (s : State) (i : Nat) (b : Bytes) (copies : List Bool) : Nat × State :=
  let cs := copies.take s.caskCopies
  let s := if cs.all id then s else s.report .pieceSlotFail i
  if !cs.any id then (stInternalFault, s)
  else
    let h : CaskHead := { s.upd.head with received := insertBy id i s.upd.head.received }
    let full := decide (h.received.length = pieceCount h.pkgLen)
    let h : CaskHead := { h with state := if full then 2 else h.state }
    let s : State := { s with upd := { s.upd with head := h, pieces := s.upd.pieces ++ [(i, b)], pieceAt := s.clk.cycles } }
    (stOk, if full ∨ h.received.length % 64 = 0 then s.caskWrite else s)

/-- Firmware takes a piece (R655 to R657): its status and the state. -/
def State.takeCaskPiece (s : State) (i len id : Nat) (restart : Bool) (b : Bytes) (copies : List Bool) : Nat × State :=
  if s.caskCopies = 0 then (stNoCask, s)
  else if restart && s.upd.trial.isSome then (stCaskBusy, s)
  else if restart || s.upd.head.state == 0 then (s.leaveNap.caskBegin len id).caskProgram i b copies
  else if s.upd.head.pkgLen ≠ len ∨ s.upd.head.pkgId ≠ id then (stCaskBusy, s)
  else if s.upd.head.received.contains i then (stOk, s)
  else s.leaveNap.caskProgram i b copies

/-- The parameter block of a piece (R655), from the bytes at descriptor offset 56 on. -/
def pieceParams (p : Bytes) : Nat × Bool × Nat × Nat := (fieldAt p 0 2, bitAt (fieldAt p 2 1) 0, fieldAt p 4 4, fieldAt p 8 16)

/-- The parameter block of a management message, whose fields are in network byte order (R11), in the order of a descriptor (DEDUCED, log entry
146). -/
def hostOrder (p : Bytes) : Bytes := (p.take 2).reverse ++ slice p 2 2 ++ (slice p 4 4).reverse ++ (slice p 8 16).reverse ++ p.drop 24

/-- A field of a piece's parameter block is reserved or out of range, or the piece has another length (R670). -/
def pieceBad (p : Bytes) (n : Nat) : Bool :=
  let (i, _, len, _) := pieceParams p
  decide (fieldAt p 2 2 / 2 ≠ 0) || decide (fieldAt p 24 16 ≠ 0) || !pkgLenOk len || decide (pieceCount len ≤ i) || decide (n ≠ pieceLen len i)

/-- A bit map of numbers in `n` bytes. -/
def bitMap (n : Nat) (l : List Nat) : Bytes := leBytes n (l.foldl (fun acc i => acc + 2 ^ i) 0)

/-- The Cask header as its object and codeword show it (R658). -/
def caskHeader (h : CaskHead) : Bytes :=
  let b := packLe 40 [(0, 32, 0x4341534B), (32, 16, 1), (48, 8, h.state), (56, 8, h.cause), (64, 64, h.seq), (128, 32, h.pkgLen),
      (160, 16, if h.state = 0 then 0 else pieceCount h.pkgLen), (176, 16, h.received.length), (192, 128, h.pkgId)] ++ bitMap 1024 h.received ++ List.replicate 3028 0#8
  b ++ leBytes 4 (crc32c b)

/-- Seconds left of a trial (R663). -/
def State.remainS (s : State) : Nat :=
  match s.upd.trial with
  | none => 0
  | some t => t.2 - (s.clk.cycles - t.1) / secCycles

/-- UPD_STAT (R672). -/
def State.updStatValue (s : State) : Nat :=
  packNat [(0, 3, s.bankState 0), (3, 3, s.bankState 1), (6, 1, b2n s.upd.recovery), (8, 8, s.upd.result), (32, 32, s.upd.svn)]

/-- The record of UPDATE_QUERY (R671). -/
def State.updQuery (s : State) : Bytes :=
  let h := s.upd.head
  packLe 64 [(0, 8, h.state), (8, 8, h.cause), (16, 16, if h.state = 0 then 0 else pieceCount h.pkgLen), (32, 16, h.received.length), (64, 32, h.pkgLen),
    (128, 128, h.pkgId), (256, 64, s.updStatValue), (320, 32, s.remainS)] ++ bitMap 1024 h.received

/-- Firmware confirms the trial image (R664): the status, RLEN and the state. -/
def State.confirm (s : State) : Nat × Nat × State :=
  if s.upd.trial.isNone then (stOk, 0, s)
  else
    let t := s.fget .cflStat_bootBank
    if !s.optWp 128 t 0 then (stWpViolation, 0, s)
    else
      let s := (s.mark t 2).report .bankConfirmed t
      if !s.optWp 128 (1 - t) 0 then (stWpViolation, 0, s)
      else
        let s := s.mark (1 - t) 4
        (stOk, 1, ({ s with upd := { s.upd with trial := none } } : State).caskEmpty)

/-! ### Recovery staging (R666 to R668) -/

/-- Blocks of 1,024 bytes of a package, and the bytes of one. -/
def blockCount (len : Nat) : Nat := (len + 1023) / 1024
def blockLen (len i : Nat) : Nat := min 1024 (len - 1024 * i)

/-- A change of package length discards the staging. -/
def State.stageFor (s : State) (len : Nat) : State :=
  if s.upd.stageLen = len then s
  else { s with upd := { s.upd with stageLen := len, staged := [], rcvResult := 255 } }

/-- Store a block that has its length; with every byte there, the check begins. -/
def State.stageBlock (s : State) (i : Nat) (b : Bytes) : State :=
  let len := s.upd.stageLen
  if s.upd.rcvBusy || !pkgLenOk len || decide (blockCount len ≤ i) || decide (b.length ≠ blockLen len i) then s
  else
    let l := if s.upd.staged.any (fun x => x.1 == i) then s.upd.staged else s.upd.staged ++ [(i, b)]
    { s with upd := { s.upd with staged := l, rcvResult := 255, rcvBusy := decide (l.length = blockCount len) } }

/-- The lowest byte of a package not yet received. -/
def State.stageNext (s : State) : Nat :=
  min s.upd.stageLen (1024 * ((List.range (blockCount s.upd.stageLen)).find? fun i => !(s.upd.staged.any fun x => x.1 == i)).getD (blockCount s.upd.stageLen))

/-- Pieces of 4,096 bytes that are whole. -/
def State.stagePieces (s : State) : Nat :=
  ((List.range (pieceCount s.upd.stageLen)).filter fun p =>
    (List.range 4).all fun k => decide (blockCount s.upd.stageLen ≤ 4 * p + k) || s.upd.staged.any fun x => x.1 == 4 * p + k).length

/-- The staged package's header. -/
def State.stageHeader (s : State) : Bytes := ((s.upd.staged.find? fun x => x.1 == 0).map fun x => x.2.take 512).getD []

/-- The answer to a recovery request over the management port (R667). -/
def State.stageStatus (s : State) : State := s.emit (.recovery s.upd.rcvResult s.stageNext)

end Sys2Proof.Machine
end

