-- ==== Sys2Proof/Machine/ResetOps.lean ====
section
/-!
DEFINITION. Resets and start-up (R710 to R724): what each reset keeps, the flush before it, what an FLR does (R150), and the work of
each start-up stage (R717): option area, boot, DRAM, discovery of flash (R236 to R239), replay (R220) and the rescue area (R215, R247).
-/

namespace Sys2Proof.Machine

/-! ### The log across a reset (R678, R682, R713) -/

/-- A record cut short by the loss of its second chunk (R682 step 3). -/
def closeUnknown (r : EvRec) : EvRec := if r.prog2 then r else { r with rep := 0, repUnknown := true, lastS := r.firstS }

/-- The recorder at a start: after PORST_N only what is programmed is left, and the counters come from the counter store; after an
internal cold reset everything is kept. A clear cut short is finished first (R685); PORST_N loses how many records it cleared, and the
count is free. -/
def State.startLog (s : State) (porst : Bool) : State :=
  let e := s.ev
  let c := e.counter.getD ⟨0, 0, 0, 0, none⟩
  let lost := if porst then c.lost else e.lost
  let log := if porst then (e.log.filter fun r => r.prog1).map closeUnknown else e.log
  let now := if porst then c.opS else s.opSeconds
  let cyc := satAdd 32 (if porst then c.cycle else e.cycle) 1
  let fr := s.fresh
  let clr : Option (Nat × Nat) := if porst then c.clearing.map fun k => (k, fr.1 % 2 ^ 32) else e.clearing.map fun r => (r.keyId, r.records)
  let s : State := if porst && c.clearing.isSome then fr.2 else s
  let log := match clr with
    | none => log
    | some (k, n) =>
      { kind := .logCleared, source := 0x11, cycle := cyc, firstS := now, key := k, data := n + lost * 2 ^ 32, lastS := now } :: log
  let e' : EvSt :=
    { log := log, isOpen := if porst then clr.isSome else e.isOpen, full := decide (16384 ≤ log.length), lost := if clr.isSome then 0 else lost,
      baseS := if porst then c.opS else e.baseS, since := if porst then s.clk.cycles else e.since, cycle := cyc, counter := e.counter,
      startLen := log.length, pendingWas := if porst then c.pending else 0 }
  ({ s with ev := e' } : State).counterEntry

/-- A record of the image is one that the log holds. -/
def sameRec (a b : EvRec) : Bool := decide (a.kind = b.kind ∧ a.source = b.source ∧ a.key = b.key ∧ a.cycle = b.cycle ∧ a.firstS = b.firstS ∧ a.data = b.data)

/-- The recorder after the replay, or once none runs (R682 steps 2 to 5): the image's records that the log lacks take their places before
those of this start, a record closed as unknown takes its flushed REPEAT and LAST_S, and LOST takes the rest. -/
def State.recorderReplay (s : State) (im : List EvRec) : State :=
  let e := s.ev
  let old := (e.log.take e.startLen).map fun r => if r.repUnknown then (match im.find? (sameRec r) with | some x => { r with rep := x.rep, repUnknown := false, lastS := x.lastS } | none => r) else r
  let new := (im.filter fun r => !old.any (sameRec r)).map fun r => { r with prog1 := false, prog2 := false }
  let missing := e.pendingWas - im.length
  let log := old ++ new ++ e.log.drop e.startLen
  let s : State := { s with ev := { e with log := log, lost := satAdd 32 e.lost missing, holdProg := false, full := decide (16384 ≤ log.length), pendingWas := 0 } }
  let s := s.reportFrom .replayed 0x11 0 (new.length % 65536 + missing % 2 ^ 32 * 65536)
  s.reportFrom .start 0x11 (if s.power.resetType = 0 then 0 else 1) s.opSeconds

/-! ### What a cold start keeps -/

/-- A leaf as its newest copy on flash gives it (R191, R220): of the bucket at depth `dep` that covers `l`, with the entries of `es` in it. -/
def storedLeaf (l : Leaf) (dep pfx : Nat) (es : List LeafEntry) : Leaf :=
  { ward := l.ward, ldepth := dep, pfx := pfx, seq := l.seq, addr := l.addr, entries := es, stored := es, storedDepth := dep, cached := false }

/-- The depth at which the flash holds what a leaf covers: that of its newest copy, unless a leaf beside it under that copy's prefix has a
deeper copy of its own. -/
def IndexSt.flashDepth (x : IndexSt) (l : Leaf) : Nat :=
  if l.ldepth ≤ l.storedDepth then l.storedDepth
  else
    let kin := x.leaves.filter fun y => y.ward == l.ward && decide (l.storedDepth ≤ y.ldepth) && y.pfx / 2 ^ (y.ldepth - l.storedDepth) == l.pfx / 2 ^ (l.ldepth - l.storedDepth)
    if kin.all fun y => decide (y.storedDepth ≤ l.storedDepth) then l.storedDepth else l.ldepth

/-- The leaves as their newest copies on flash give them: halves of a split not yet written come together again, and the sides of a merge not
yet written stand apart. -/
def IndexSt.flashLeaves (x : IndexSt) : List Leaf :=
  let parts := x.leaves.flatMap fun l =>
    let dep := x.flashDepth l
    if dep ≤ l.ldepth then [storedLeaf l dep (l.pfx / 2 ^ (l.ldepth - dep)) l.stored]
    else (List.range (2 ^ (dep - l.ldepth))).map fun i =>
      let p := l.pfx * 2 ^ (dep - l.ldepth) + i
      storedLeaf l dep p (l.stored.filter fun e => pathOf e.digest / 2 ^ (38 - dep) == p)
  parts.foldl (fun acc l =>
    if acc.any fun y => y.ward == l.ward && y.ldepth == l.ldepth && y.pfx == l.pfx then
      updWhere (fun y => y.ward == l.ward && y.ldepth == l.ldepth && y.pfx == l.pfx) (fun y =>
        storedLeaf y y.ldepth y.pfx (l.stored.foldl (fun es e => insertBy (fun z => z.digest * 65536 + z.ksp) e es) y.stored)) acc
    else acc ++ [l]) []

/-- A set has left service: every block of it is retiring, under erase, retired, or its own no more. -/
def MediaSt.left (m : MediaSt) (t : TSet) : Bool :=
  t.blocks.all fun b => (m.block? b.1 b.2).all fun x => decide (x.wseq ≠ t.wseq) || decide (x.state = .retiring ∨ x.state = .erasing ∨ x.state = .retired)

/-- A set at a start: one still open, or not wholly programmed, is closed and becomes urgent; a victim that has not left service is a candidate
again, as what it was when the Sparge took it (R294). -/
def MediaSt.setAtStart (m : MediaSt) (t : TSet) : TSet :=
  let victim := decide (t.state = .sparging) && !m.left t
  let cut := decide (t.state = .opened) || (victim && !t.wasVerified)
    || (decide (t.state = .full) && !(decide (t.passed.length = m.geom.pages * t.blocks.length) && decide (t.parity.length = m.geom.pages)))
  { t with state := if cut then .full else if victim then .verified else t.state
           urgent := if cut then some (t.urgent.getD (t.wseq + 1)) else t.urgent
           victims := [], pad := none, copyRank := 3 }

/-- The flash as its map and its codewords give it at a start (R246): items whose pages have not passed are gone. Where no copy of the map that is
present holds its last record, the model takes the map as it was last recorded all the same (DESIGN CHOICE, log entry 170). -/
def MediaSt.atStart (m : MediaSt) : MediaSt :=
  { geom := m.geom, luns := m.luns.map fun l => { n := l.n, state := .absent, spares := l.spares, label := l.label, factoryBad := l.factoryBad }, blocks := m.blocks, scratch := m.scratch,
    sets := m.sets.map m.setAtStart, items := (m.items.filter fun i => m.onFlash i false).map fun i => { i with copyOf := 0 },
    nextOp := m.nextOp, nextWseq := m.nextWseq, spareBlocks := m.spareBlocks, spareInitial := m.spareInitial, readOnly := m.readOnly,
    spareWarn := m.spareWarn, stampFloor := m.stampFloor, handleFloor := m.handleFloor, mapPresent := m.mapPresent, health := m.health, mapSeq := m.mapSeq, mapCopies := m.mapCopies }

/-- The index on flash (R220 step 1): the segments that have a copy there, at its GDEPTH, with their leaves; overflow leaves are the next codewords
of a leaf's copy in stream order. -/
def IndexSt.atStart (x : IndexSt) (m : MediaSt) : IndexSt :=
  let rs := x.roots.filter fun r => r.segAddr != 0
  let chain := fun (l : Leaf) => { l with ovf := ((m.cwsOf l.addr).drop 1 ++ List.replicate ((l.entries.length - 1) / 96) 0).take ((l.entries.length - 1) / 96) }
  let ls := (x.flashLeaves.filter fun l => rs.any fun r => r.ward == l.ward).map chain
  let deep := fun (r : WardRoot) => ((ls.filter fun l => l.ward == r.ward).map fun l => l.ldepth).foldl max r.storedDepth
  { roots := rs.map fun r => { ward := r.ward, gdepth := deep r, segAddr := r.segAddr, storedDepth := r.storedDepth }, leaves := ls, jseq := x.jseq, leafSeq := x.leafSeq }

/-- The rescue area. -/
def TunSt.atStart (t : TunSt) : TunSt :=
  { sizeMib := t.sizeMib, journalEighths := t.journalEighths, slots := t.slots, slot := t.slot, needed := t.needed, flushSeq := t.flushSeq,
    rescue := t.rescue, leaving := t.leaving }

/-- What a member stores in code flash (R372, R376). -/
def TownSt.atStart (t : TownSt) : TownSt :=
  { incarnation := t.incarnation, members := t.members, granted := t.granted, addr := t.addr, domain := t.domain, term := (t.granted.map fun g => g.1).getD 0 }

/-- The Cask and the bank records are on flash; firmware rebuilds the map of pieces from their slots (R659). -/
def UpdSt.atStart (u : UpdSt) : UpdSt :=
  { head := { u.written with received := (u.pieces.map fun p => p.1).foldl (fun l i => insertBy id i l) [] }, written := u.written, pieces := u.pieces }

/-- A port carries traffic. -/
def State.somePort (s : State) : Bool := s.net.ports.any fun p => p.link

/-- Sessions end with CLOSE, cause SHUTDOWN, where a port is up (R713, R721). -/
def State.shutdownSessions (s : State) : State :=
  if s.alive && s.somePort then
    ((s.ywp.slots.filter fun x => decide (x.state = .opened)).map fun x => x.n).foldl (fun s n => s.sendClose n 4 4) s
  else s

/-- A cold start of type 0 (PORST_N) or an internal cold reset of type 1, with its cause (R711, R713, R724): everything returns to reset
but what flash, the always-on domain and the pins hold. -/
def State.coldReset (s : State) (type cause : Nat) : State :=
  let s := if type = 1 then s.shutdownSessions else s
  let s := (s.startLog (decide (type = 0))).cflAbort
  let p : PowerSt :=
    { resetType := type, resetCause := cause, startAt := s.clk.cycles, pwrfailLow := s.power.pwrfailLow, strap := s.power.strap,
      carried := if type = 0 then [] else s.power.carried }
  let t : State :=
    { clk := ⟨s.clk.cycles, 0⟩, ident := s.ident, power := p, kv := { keyspaces := s.kv.keyspaces, handle := s.media.handleFloor, nextCtx := s.kv.nextCtx },
      host := { perst := s.host.perst, wakeLow := decide (type = 1 ∧ cause = 5) }, index := s.index.atStart s.media, tun := s.tun.atStart, media := s.media.atStart,
      town := s.town.atStart, cfl := { s.cfl with wpOpen := [], slots := [] }, upd := s.upd.atStart, ev := s.ev, out := s.out, free := s.free, pending := s.pending }
  let t := s.kv.staged.foldl (fun t v => t.report .stagedDiscarded v.handle) t
  let t := t.fput .ledThermStat_critLast (b2n (decide (s.power.halt = some .thermal)))
  if type = 0 ∧ s.power.strap / 4 % 4 ≠ 0 then t.report .strapReserved else t

/-- A flush can run: replay has finished, there is a rescue area, and the part is out of Slumber. -/
def State.canFlush (s : State) : Bool := s.tun.replayDone && s.hasFlash && decide (s.power.pstate ≠ 3) && s.power.halt.isNone

/-- An internal cold reset is requested (R712): the flush runs first when the Tun holds anything. -/
def State.askCold (s : State) (cause : Nat) : State :=
  if s.tun.flushing then s
  else if s.canFlush && !(s.tun.entries.isEmpty && s.index.journal.isEmpty) then
    ({ s with power := { s.power with pendCause := cause } } : State).startFlush 4
  else s.coldReset 1 cause

/-- The part halts. -/
def State.haltWith (s : State) (h : Halt) : State :=
  let s : State := { s with power := { s.power with halt := some h } }
  if h = .powerFail then s else s.emit .alert

/-- ALERT_N is low: inert, in recovery mode, failed at start-up, or halted at a critical temperature or for want of REFCLK (R747). -/
def State.alertLow (s : State) : Bool :=
  s.upd.inert || s.upd.recovery || decide (s.power.failStage ≠ 0) || decide (s.power.halt = some .thermal ∨ s.power.halt = some .refclk)

/-! ### Function level and host reset (R150, R714, R762) -/

/-- A register of function `f`'s pages. -/
def pageReg (f : Nat) (k : RegKey) : Bool := k.i == f && decide (k.name.place.space = .setup ∨ k.name.place.space = .win ∨ k.name.place.space = .key)

/-- The rings, registers and MSI-X table of a function return to reset, and its commands end as R150 says: a raw read that runs for the PF writes
nothing more to host memory. -/
def State.resetFunction (s : State) (f : Nat) : State :=
  let mine := fun (c : OpCtx) => match c.src with | .ring g _ => g == f | _ => false
  let s := (s.kv.ctxs.filter fun c => mine c && !c.ponr).foldl (fun s c => s.releaseCtx c) s
  let s : State := { s with kv := { s.kv with ctxs := updWhere mine (fun (c : OpCtx) => { c with orphan := true }) s.kv.ctxs } }
  let s : State := if f = 0 then { s with media := { s.media with raw := { s.media.raw with cut := true } } } else s
  { s with
    host := { s.host with rings := s.host.rings.filter fun r => r.f != f, funcs := s.host.funcs.filter fun x => x.f != f, msix := s.host.msix.filter fun x => x.1 != f }
    regs := s.regs.filter fun r => !pageReg f r.1
    latches := s.latches.filter fun l => !pageReg f l.key
    held := s.held.filter fun l => !pageReg f l.key
    winLatch := s.winLatch.filter fun l => l.fn != f }

/-- FLR of a function, or VF Enable cleared for it: also its key page, as CLEAR_ALL (R522). -/
def State.flr (s : State) (f : Nat) : State := ((s.clearPage f).resetFunction f).distribute f

/-! ### Stage OPTION (R636, R637, R766, R774) -/

/-- The default of NET_MAC_ADDR[p] (R766); byte 0 lies in bits [7:0] (R11). -/
def State.macDefault (s : State) (p : Nat) : Nat :=
  let c := crc32c (padTo 16 s.ident.serial)
  2 + bits c 24 8 * 2 ^ 8 + bits c 16 8 * 2 ^ 16 + bits c 8 8 * 2 ^ 24 + bits c 0 8 * 2 ^ 32 + p * 2 ^ 40

/-- What the settings bring into force at a start. -/
def State.inForce (s : State) : State :=
  let s : State := { s with
    net := { s.net with mode := s.fget .netMode_mode }
    led := { s.led with caps := [s.fget .ledCap_flashMw, s.fget .ledCap_ctrlMw, s.fget .ledCap_enclMw], bases := [s.fget .ledLimit_ctrlBaseMw, s.fget .ledLimit_enclBaseMw],
                        peakMa := s.fget .ledLimit_peakMa, costs := (List.range 8).map fun k => (s.fget .ledCost_energy k, s.fget .ledCost_peakMa k), windowAt := s.clk.cycles }
    drt := { s.drt with chans := (List.range 12).map fun c => { c := c, curve := some (s.curveRegs c) } } }
  if s.flag .ptpCtrl_enable then s.ptpBegin else s

/-- Stage OPTION: the copy is chosen, its entries are applied and then the values written since the last start, which are carried no further (R774); without a valid copy the
part is inert (R669). No set of entries can cover every field of R766, so the event of a defaulted field is always recorded. -/
def State.stageOption (s : State) : State :=
  let v0 := s.optValid 0
  let v1 := s.optValid 1
  if !v0 && !v1 then
    (({ s with upd := { s.upd with inert := true } } : State).fput .glbGpio_out 5).emit .alert
  else
    let q := fun (c : Nat) => fieldAt (s.cflRead 2 (optBase c) 16) 8 8
    let copy := if v0 && v1 then (if q 0 < q 1 then 1 else 0) else if v0 then 0 else 1
    let s := s.fput .cflStat_optCopy copy
    let s := if v0 && v1 then s else (s.fput .cflStat_optDegraded 1).report .optDegraded
    let s := (List.range 9).foldl (fun s p => s.fput .netMacAddr_addr (s.macDefault p) p) s
    let s := (List.range (ofLe (s.optBytes 6 2))).foldl (fun s i => s.optEntry i (s.optBytes (1024 + 16 * i) 16)) s
    let s := s.report .optFieldDefault
    let s := s.power.carried.foldl (fun s c => s.setReg c.1 (setBits (s.reg c.1) c.2.1 c.2.2.1 c.2.2.2)) s
    ({ s with power := { s.power with stage := 3, carried := [] } } : State).inForce

/-! ### Stages IMAGE and DRAM (R641, R662, R716) -/

/-- The sectors that the boot ROM opens (R641 step 4). -/
def State.bootOpen (s : State) : List (Nat × Nat) :=
  [0, 1, 2].flatMap fun a => ((List.range (cflSectors a)).filter fun n => s.optWp 128 a n && s.optWp 256 a n).map fun n => (a, n)

/-- Stage IMAGE ends: a bank boots, or the part is in recovery mode (R666). -/
def State.stageImage (s : State) (r : StageFound) : State :=
  let s := ({ s with cfl := { s.cfl with wpOpen := s.bootOpen } } : State).bootSelect r
  if s.upd.recovery then s.fput .glbGpio_out 9 else { s with power := { s.power with stage := 5 } }

/-- A channel trains (R716): at the selected rate, or at a lower one when it may step down. -/
def rateOk (target most : Nat) (step : Bool) (r : Option Nat) : Bool := r.any fun x => decide (x = target) || (step && decide (target < x ∧ x ≤ most))

/-- Stage DRAM: whether it passes, and the state. -/
def State.stageDram (s : State) (r : StageFound) : Bool × State :=
  let target := s.fget .drmCtrl_rate
  let good := fun (x : Option Nat) => rateOk target 3 (s.flag .drmCtrl_stepDownEn) x
  let chs := r.dram.take 8
  let s := (List.range chs.length).foldl (fun s c => match chs[c]? with
    | some (x, _) => (s.fput .drmChStat_rate (x.getD 3) c).fput .drmChStat_trained (b2n (good x)) c
    | none => s) s
  let mib : Nat := (chs.map fun (x : Option Nat × Nat) => x.2).sum
  let ok := r.ok && chs.all (fun x => good x.1 && decide (some x.2 = (chs.head?.map fun y => y.2))) && decide (65536 ≤ mib)
  (ok, { s with ident := { s.ident with dramBytes := mib * 1048576 } })

/-! ### Stage NAND (R232, R236 to R239, R246, R443) -/

/-- The parameter page that discovery uses (R236 step 3): the first copy whose CRC is correct. -/
def lunPage (l : LunFound) : Option ParamPage := l.pages.find? fun p => p.crcOk

/-- The geometry of a LUN found. -/
def lunGeom (l : LunFound) : Option Geometry := (lunPage l).map fun p => p.geom

/-- A LUN passes step 5 of R236 but for R237: it has a parameter page, the required features and a geometry that R231 and R240 allow. -/
def lunFits (l : LunFound) : Bool := (lunPage l).any fun p => p.volumes && p.slcMode && p.eraseSuspend && p.validBlock && p.geom.allowed

/-- A LUN's label names this part (R238). -/
def State.labelled (s : State) (l : LunFound) : Bool := l.label.any fun b => b.serial == s.ident.serial

/-- Enter a LUN in the table of LUNs. -/
def State.putLun (s : State) (x : Lun) : State :=
  { s with media := { s.media with luns := insertBy (fun y => y.n) x (s.media.luns.filter fun y => y.n != x.n) } }

/-- A LUN that discovery takes into use, with the state it had on this part (R238). Of two LUNs that claim one number, as a blank one at the place
that another's label names, R238 does not say which is used: here the later in ascending position replaces the earlier, and a blank one drops the
blocks that the map had under its number (DESIGN CHOICE, log entry 171). -/
def State.takeLun (s : State) (l : LunFound) : State :=
  match l.label with
  | none =>
    let s := s.putLun { n := l.n, state := .accepted, factoryBad := l.factoryBad }
    ({ s with media := { s.media with blocks := s.media.blocks.filter fun b => b.lun != l.n, scratch := s.media.scratch.filter fun b => b.lun != l.n } } : State).formatLun l.n
  | some b =>
    if s.labelled l then
      let spares := s.media.geom.blocks * s.fget .medSpareCtrl_sparePm / 1000
      s.putLun { n := b.lun, state := .accepted, spares := ((s.media.lun? b.lun).map fun y => y.spares).getD spares, label := some b, factoryBad := l.factoryBad }
    else s.putLun { n := l.n, state := .foreign, label := some b, factoryBad := l.factoryBad }

/-- A LUN that discovery accepted on a part with fewer than 4 such channels: it is reported, and nothing is done with it (R239, R273). -/
def State.showLun (s : State) (l : LunFound) : State :=
  s.putLun { n := l.n, state := if l.label.isSome && !s.labelled l then .foreign else .unused, spares := ((s.media.lun? l.n).map fun y => y.spares).getD 0,
             label := l.label, factoryBad := l.factoryBad }

/-- A LUN that discovery excludes. -/
def State.excludeLun (s : State) (l : LunFound) : State :=
  s.putLun { n := l.n, state := .excluded, spares := ((s.media.lun? l.n).map fun y => y.spares).getD 0, label := l.label, factoryBad := l.factoryBad }

/-- A channel's trained rate, where it is usable (R232). -/
def State.chanRate (s : State) (r : StageFound) (ch : Nat) : Option Nat :=
  ((r.rates.find? fun x => x.1 == ch).bind fun x => x.2).filter fun x => rateOk (s.fget .medPhyCtrl_rate) 5 (s.flag .medPhyCtrl_stepDownEn) (some x)

/-- The steps down of a channel's training (R232): to the rate it reaches, or to the lowest. -/
def State.trainSteps (s : State) (r : StageFound) (ch : Nat) : Nat :=
  if s.flag .medPhyCtrl_stepDownEn then (s.chanRate r ch).getD 5 - s.fget .medPhyCtrl_rate else 0

/-- The stamp floor (R442, R443): a part that does not join a Town sets its counter forward to microsecond H. -/
def State.applyFloor (s : State) : State :=
  let h := if s.media.mapPresent && s.hasFlash then s.media.stampFloor else 1
  if s.flag .twnCfg_townEn ∨ taiOfUs h ≤ s.clk.tai then s
  else ({ s with clk := ⟨s.clk.cycles, taiOfUs h⟩ } : State).report .floorSet h

/-- What the media map needs after discovery: cut erases run again, unverified sets with a missing LUN become urgent, and every copy of the map is
brought up to date (R246). -/
def State.reconcile (s : State) : State :=
  let s := (s.media.accepted.map fun l => l.n).foldl (fun s n => s.takeScratch n) s
  let here := fun (n : Nat) => (s.media.lun? n).any fun l => decide (l.state = .accepted)
  let s := (s.media.blocks.filter fun b => decide (b.state = .retiring ∨ b.state = .erasing) && here b.lun).foldl (fun s b =>
    (s.modBlock b.lun b.blk fun x => { x with state := .erasing }).queueOp .erase (mkAddr b.lun b.blk 0 0 0) .erase 4 3) s
  let s := (s.media.sets.filter fun t => decide (t.state = .full) && t.blocks.any fun b => !here b.1).foldl (fun s t => s.markUrgent t.wseq) s
  ({ s with media := s.media.mapRecord } : State).updateSpace

/-- Stage NAND: whether it passes, and the state. -/
def State.stageNand (s : State) (r : StageFound) : Bool × State :=
  if !s.ident.flashPart then (true, s.applyFloor)
  else
    let cand := sortBy (fun l => l.n) (r.luns.filter fun l => lunFits l && decide (l.n < 8192) && (s.chanRate r (l.n / 128)).isSome)
    let geom := (cand.head?.bind lunGeom).getD {}
    let acc := cand.filter fun l => decide (lunGeom l = some geom)
    let out := r.luns.filter fun l => !acc.contains l
    let chs := (acc.map fun l => l.n / 128).eraseDups
    let all : List Nat := ((r.rates.map fun (x : Nat × Option Nat) => x.1) ++ (r.luns.map fun (l : LunFound) => l.n / 128)).eraseDups
    let s := all.foldl (fun s c => (List.range (s.trainSteps r c)).foldl (fun s _ => s.report .trainStep c) s) s
    let s := out.foldl (fun s l => s.report .lunExcluded l.n) s
    let s : State := { s with media := { s.media with rates := all.filterMap fun c => (s.chanRate r c).map fun x => (c, x)
                                                      unusable := all.filter fun c => (s.chanRate r c).isNone } }
    let s : State := if cand.isEmpty then s else { s with media := { s.media with geom := geom, geomOn := true } }
    let s := out.foldl (fun s l => s.excludeLun l) s
    if chs.length < 4 then
      let s := acc.foldl (fun s l => s.showLun l) (s.report .fewChannels chs.length)
      if acc.any s.labelled then (false, s) else (r.ok, s.applyFloor)
    else
      let s : State := { s with media := { s.media with scratchWant := s.fget .medTerCtrl_scratchBlocks } }
      (r.ok, ((acc.foldl (fun s l => s.takeLun l) s).reconcile).applyFloor)

/-! ### Stage REPLAY (R219 to R221) -/

/-- Entries of one key. -/
def sameKey (a b : TunEntry) : Bool := a.ksp == b.ksp && a.key == b.key && decide (a.kind ≠ .batchRecord ∧ b.kind ≠ .batchRecord)

/-- R220 step 3: a PATCH stands only when every entry between it and the newest restored full value is restored. -/
def patchStands (all good : List TunEntry) (e : TunEntry) : Bool :=
  decide (e.kind ≠ .patch) ||
    (let base := ((good.filter fun x => sameKey x e && decide (x.kind ≠ .patch ∧ x.ord < e.ord)).map fun x => x.ord).foldl max 0
     all.all fun x => !(sameKey x e && decide (base < x.ord ∧ x.ord < e.ord)) || good.any fun y => y.id == x.id)

/-- R220 step 4: a batch stands only with its record and every entry that belongs to it. -/
def batchStands (all good : List TunEntry) (e : TunEntry) : Bool :=
  e.batch == 0 || (match good.find? fun r => decide (r.kind = .batchRecord) && r.batch == e.batch with
    | none => false
    | some r => (r.members.all fun i => good.any fun y => y.id == i) && all.all fun x => !(x.batch == e.batch && decide (x.kind ≠ .batchRecord)) || r.members.contains x.id)

/-- The entries that steps 3 and 4 leave of those not discarded yet. -/
def restoreStep (all good : List TunEntry) : List TunEntry :=
  let good := good.filter (patchStands all good)
  good.filter (batchStands all good)

/-- The entries of an image that steps 3 and 4 restore: each pass that discards anything is followed by another. -/
def restorable (all : List TunEntry) (bad : List Nat) : List TunEntry :=
  (List.range all.length).foldl (fun good _ => restoreStep all good) (all.filter fun e => e.good && !bad.contains e.id)

/-- Give restored entries their places in a new Tun. -/
def repack (l : List TunEntry) : List TunEntry :=
  let ids := (l.foldl (fun (acc : List (Nat × Nat) × Nat) e => (acc.1 ++ [(e.id, acc.2)], acc.2 + entryUnits e)) ([], 0)).1
  let to_ := fun (i : Nat) => (ids.find? fun x => x.1 == i).map fun x => x.2
  l.map fun e => { e with id := (to_ e.id).getD 0, members := e.members.filterMap to_, state := .live, recAddr := 0, refs := 0, restored := true, resolved := true }

/-- Apply one journal record (R190, R220 step 2). -/
def State.applyRecord (s : State) (r : JournalRec) : State :=
  match r.kind, r.entry with
  | 1, some e => (match s.media.item? e.loc with | some i => s.setEntry i.key e | none => s)
  | 2, some e => s.removeEntry e
  | 3, _ =>
    (match s.index.leaves.find? fun l => l.ward == r.ward && l.ldepth + 1 == r.ldepth && l.pfx == r.pfx with
      | some l => if (s.index.root? r.ward).any fun x => decide (r.ldepth ≤ x.gdepth) then s.splitLeaf l else s
      | none => s)
  | 4, _ =>
    (match s.index.root? r.ward with
      | none => s.ensureRoot r.ward
      | some x => if x.gdepth < r.a then s.doubleSegment r.ward else s)
  | 5, _ =>
    (match s.index.leaves.find? fun l => l.ward == r.ward && l.pfx == r.pfx && decide (96 * (l.ovf.length + 1) ≤ l.entries.length) with
      | some l => (s.modLeaf l.ward l.pfx l.ldepth fun l => leafChanged s.clk.cycles { l with ovf := l.ovf ++ [0] }).journal 5 0 l.ward l.pfx none 0 0
      | none => s)
  | _, _ => s

/-- Apply the image's journal in SEQ order, but for the records whose CHECK fails (R220 step 2). -/
def State.applyJournal (s : State) (l : List JournalRec) (bad : List Nat) : State :=
  (sortBy (fun r => r.seq) (l.filter fun r => !bad.contains r.seq)).foldl (fun s r => s.applyRecord r) s

/-- The image that is replayed has no valid end marker (R219). -/
def State.imageShort (s : State) : State :=
  let h : Health := { s.media.health with flushesIncomplete := satAdd 32 s.media.health.flushesIncomplete 1 }
  (({ s with media := { s.media with health := h } } : State).fput .tunStat_flushIncomplete 1).report .flushIncomplete

/-- Replay of an image, or of none: the recorder follows (R220, R221, R682). -/
def State.replay (s : State) (r : StageFound) : State :=
  let im := if s.tun.needed then (s.tun.slots[s.tun.slot]?).join else none
  let all := (im.map fun x => x.entries).getD []
  let s := s.applyJournal ((im.map fun x => x.journal).getD []) r.badJournal
  let good := (restorable all r.bad).filter fun e => decide (e.kind = .batchRecord) || !((s.flashEntry e.ksp e.key).any fun x => decide (e.stamp ≤ x.stamp))
  let live := good.filter fun e => decide (e.kind ≠ .batchRecord) || e.members.any fun i => good.any fun y => y.id == i
  let es := repack live
  let s : State := { s with tun := { s.tun with entries := es, replayDone := true, batchNo := (es.map fun e => e.batch).foldl max 0 } }
  let s := (es.filter fun e => decide (e.kind ≠ .batchRecord)).foldl (fun s e => s.addRow e.digest false e.id e.ksp) s
  let top := (es.map (fun e => e.stamp) ++ s.media.items.map fun i => i.stamp).foldl max 0
  let s : State := if top = 0 then s else { s with kv := { s.kv with lastU := top / 4096, lastK := top % 4096 } }
  let s := if im.any fun x => !x.complete then s.imageShort else s
  let s := s.report .replayDone 0 (es.length + (all.length - es.length) * 2 ^ 32)
  let evs := (im.map fun x => x.events).getD []
  (s.recorderReplay ((List.range evs.length).filterMap fun i => if r.badEvents.contains i then none else evs[i]?)).imageProgress

/-! ### Stage ERASE and READY (R36, R215, R247) -/

/-- The LUNs that a rescue slot is striped over (R245). -/
def MediaSt.rescueLuns (m : MediaSt) : List Nat := (m.accepted.map fun l => l.n).take 4096

/-- The blocks that a slot of `mib` MiB takes on each of them. -/
def MediaSt.rescuePer (m : MediaSt) (mib : Nat) : Nat :=
  let per := m.geom.blockBytes * m.rescueLuns.length
  if per = 0 then 0 else (mib * 1048576 + per - 1) / per

/-- A slot's recorded blocks on a LUN. -/
def TunSt.slotOn (t : TunSt) (k lun : Nat) : List (Nat × Nat) := ((t.rescue[k]?).getD []).filter fun b => b.1 == lun

/-- Free space can supply the blocks that two slots of `n` blocks a LUN need beyond the recorded ones (R215). -/
def State.rescueFits (s : State) (n : Nat) : Bool :=
  s.media.accepted.all fun l => !s.media.rescueLuns.contains l.n || decide ((n - (s.tun.slotOn 0 l.n).length) + (n - (s.tun.slotOn 1 l.n).length) ≤ s.freeOf l)

/-- Form slot `k` with `n` blocks a LUN (R215 step 3): recorded blocks are kept where they suffice, others come from the free pool, and blocks
the slot no longer needs leave it, in the slot that holds the needed image not before that image is needed no more. -/
def State.formSlot (s : State) (k n : Nat) : State :=
  let luns := s.media.rescueLuns
  let keep := luns.flatMap fun l => (s.tun.slotOn k l).take n
  let drop := ((s.tun.rescue[k]?).getD []).filter fun b => !keep.contains b
  let s := luns.foldl (fun s l =>
    (List.range (n - (keep.filter fun b => b.1 == l).length)).foldl (fun s _ =>
      match s.pickFree l true with
      | none => s
      | some b => ({ s with tun := { s.tun with rescue := s.tun.rescue.set k (((s.tun.rescue[k]?).getD []) ++ [(l, b)]) } } : State).modBlock l b
          fun x => { x with state := .system }) s)
    ({ s with tun := { s.tun with rescue := s.tun.rescue.set k keep } } : State)
  if s.tun.needed && s.tun.slot == k then { s with tun := { s.tun with leaving := s.tun.leaving ++ drop } }
  else (drop.filter fun b => luns.contains b.1).foldl (fun s b => s.leaveSys b) s

/-- Stage ERASE: the journal share that the register names comes into force, and the protected size when the restored entries and free space allow
it; the slots are formed for the size in force, and the slot without the needed image is erased (R215, R220, R225, R247). -/
def State.stageErase (s : State) : State :=
  let s : State := { s with tun := { s.tun with journalEighths := s.fget .tunCtrl_journalEighths } }
  let t : State := { s with tun := { s.tun with sizeMib := s.fget .tunCtrl_sizeMib } }
  let used := (s.tun.entries.map entryUnits).sum
  let fits := decide (used ≤ t.entrySpace) && t.rescueFits (t.media.rescuePer t.tun.sizeMib)
  let same := decide (s.tun.sizeMib = t.tun.sizeMib)
  let n := t.media.rescuePer t.tun.sizeMib
  let s := if fits then (t.formSlot 0 n).formSlot 1 n else if same then s else s.report .tunSizeKept
  let keep := if s.tun.needed then [s.tun.slot] else []
  let sl := [0, 1].map fun n => if keep.contains n then (s.tun.slots[n]?).join else none
  let bs := ([0, 1].filter fun n => !keep.contains n).flatMap fun n => (s.tun.rescue[n]?).getD []
  (bs.foldl (fun s b => s.eraseSys b) ({ s with tun := { s.tun with slots := sl } } : State)).updateSpace

/-- The part is READY (R717): ELAPSED_MS is set, and firmware writes a Cask whose package failed its check REJECTED (R662). -/
def State.becomeReady (s : State) : State :=
  let s : State := { s with power := { s.power with ready := true, stage := 10, elapsedMs := s.msSince s.power.startAt % 2 ^ 32 }
                            index := { s.index with slots := s.leafSlots } }
  if s.upd.result ≠ 0 ∧ s.upd.head.state = 2 ∧ 0 < s.caskCopies then
    ({ s with upd := { s.upd with head := { s.upd.head with state := 3, cause := s.upd.result } } } : State).caskWrite
  else s

/-- Stage TOWN begins: the part joins when it is to (R378), unless its Crossing refuses class 7 (R478). -/
def State.stageTown (s : State) : State :=
  let s : State := { s with power := { s.power with stage := 9 } }
  if s.flag .twnCfg_townEn ∧ s.flag .twnCfg_autoJoin then
    (if s.crossingFails then ({ s with town := { s.town with state := 5, joinSince := some s.clk.cycles } } : State).report .class7Refused else s.townJoin none)
  else s

/-- A stage failed (R719). -/
def State.failStart (s : State) (stage : Nat) : State :=
  (({ s with power := { s.power with failStage := stage } } : State).report .pdFailedStage stage).emit .alert

/-- A start-up stage runs: not READY, failed, inert, in recovery, or held in ROOT by TEST_N (R739). -/
def State.starting (s : State) : Bool :=
  s.alive && !s.power.ready && decide (s.power.failStage = 0) && !s.upd.recovery && (decide (s.power.stage ≠ 0) || decide (16 ≤ s.power.strap))

/-- After stage NAND: a part without flash skips REPLAY and ERASE, and the recorder goes on (R682, R717). -/
def State.afterNand (s : State) : State :=
  if s.hasFlash then { s with power := { s.power with stage := 7 } }
  else ({ s with tun := { s.tun with replayDone := true, sizeMib := 0 } } : State).recorderReplay [] |>.stageTown

/-- The stage that runs ends with what it finds (R717, R719). -/
def State.endStage (s : State) (r : StageFound) : State :=
  let to_ := fun (s : State) (n : Nat) => ({ s with power := { s.power with stage := n } } : State)
  match s.power.stage with
  | 0 => to_ (s.fput .clkStat_rootLock 1 |>.fput .clkStat_domainLock (2 ^ 18 - 1)) 1
  | 1 => if r.ok then to_ (s.cflMaps.fput .cflStat_ready 1) 2 else s.failStart 1
  | 2 => s.stageOption
  | 3 => to_ (s.drbgStart.setReg ⟨.cipDevPub, 0, 0, 0⟩ Config.devicePublicKey) 4
  | 4 => s.stageImage r
  | 5 => let (ok, t) := s.stageDram r; if ok then to_ t 6 else (t.report .dramTrainFail).failStart 5
  | 6 => let (ok, t) := s.stageNand r; if ok then t.afterNand else t.failStart 6
  | 7 => if r.ok then to_ (s.replay r) 8 else s.failStart 7
  | 8 => s.stageErase.stageTown
  | _ => if s.town.state = 1 ∨ s.town.state = 5 then s else s.becomeReady

end Sys2Proof.Machine
end

