-- ==== Sys2Proof/Machine/NetCmds.lean ====
section
/-!
DEFINITION. The commands of the network engine (R459 to R508).
-/

namespace Sys2Proof.Machine

/-! ### Receive (R465 to R468) -/

/-- PTP group addresses of IEEE 1588 over Ethernet, IPv4 and IPv6. PRESUMED, log entry 50. -/
def ptpGroups : List Nat := [0x000000191B01, 0x8101005E0001, 0x6B00005E0001, 0x810100003333, 0x6B0000003333]

/-- Row 2 of R467 lets the frame pass. -/
def State.macAccepts (s : State) (p : Nat) (f : Frame) : Bool :=
  (decide (f.dst = s.fget .netMacAddr_addr p ∨ f.dst = 2 ^ 48 - 1 ∨ f.dst = lldpAddr) || ptpGroups.contains f.dst
    || (List.range 32).any fun i => s.flag .netMcast_en p i && decide (f.dst = s.fget .netMcast_addr p i))
  && f.vid.all fun v => decide (v = 0 ∨ v = s.fget .netPortCtrl_vid p)

/-- A local address of a port (R467). -/
def State.localAddr (s : State) (p : Nat) (a : Nat × Nat) : Bool :=
  (List.range 16).any fun i => decide (s.fget .netAddr_kind p i = a.1 ∧ s.fget .netAddr_addr p i = a.2) && decide (a.1 ≠ 0)

/-- A frame goes to the firmware receive queue, or is dropped when that is full (R467, R468). An LLDP data unit gives or ends the
partner (R479, R480). -/
def State.fwReceive (s : State) (p : Nat) (f : Frame) (trunc : Bool) : State :=
  let depth := 2 ^ s.fget .netFwqCtrl_depthLog2 p
  let x := s.port p
  let used := (x.rxTail + 65536 - s.fget .netFwqCtrl_rxHead p) % 65536
  if !s.flag .netFwqCtrl_en p ∨ depth ≤ used then s.netCount p 25
  else
    let ns := s.clk.tai / nsUnits - s.fget .ptpLat_rxNs p
    let len := (if trunc then min f.len (s.fget .netPortCtrl_maxFrame p) else f.len) - 4
    let s := (s.modPort p fun x => { x with rxTail := (x.rxTail + 1) % 65536 }).emit (.fwFrame p (x.rxTail % depth) len trunc (ns % 2 ^ 32))
    if f.ethertype = 0x88CC ∧ !trunc ∧ s.dataPort p then
      match f.tlv with
      | some (park, lanes, ttl) =>
        s.modPort p fun x => { x with partner := if park && decide (lanes = s.fullLanes ∧ ttl ≠ 0) then some (f.src, s.clk.cycles + ttl * secCycles) else none }
      | none => s.modPort p fun x => { x with partner := x.partner.filter fun y => y.1 != f.src }
    else s

/-- A lane-parking frame of this version (R483): MAGIC and VERSION after the EtherType. -/
def parkFrame (f : Frame) : Bool :=
  let at_ := if f.vid.isSome then 18 else 14
  decide (ofBe (slice f.bytes at_ 2) = 0x5446 ∧ ofBe (slice f.bytes (at_ + 2) 1) = 1)

/-- Rows 5 to 8 of R467, for a frame without error. -/
def State.consume (s : State) (p : Nat) (f : Frame) : State :=
  let here := s.localAddr p f.ip
  if f.ethertype = 0x88B5 ∧ s.partner p = some f.src ∧ parkFrame f then s.netCount p 18
  else if f.ethertype = 0x88F7 ∨ ((f.udp = some 319 ∨ f.udp = some 320) ∧ here) then
    let s := s.netCount p 16
    if s.fget .ptpCtrl_port = p then s else s.fwReceive p f false
  else if f.udp = some (s.fget .ywpPort_udpPort) ∧ here ∧ (p ≠ 8 ∨ s.flag .netMgmtCtrl_ywpEn) then s.netCount p 15
  else (if f.ethertype = 0x88CC then s.netCount p 17 else s).fwReceive p f false

/-- A MAC receives a frame (R465 to R467, R471). -/
def State.rxFrame (s : State) (p : Nat) (f : Frame) : State :=
  let most := s.fget .netPortCtrl_maxFrame p
  let trunc := decide (most < f.len)
  if !f.room then s.netCount p 25
  else
    let s := if f.len < 64 then s else s.netCount p (if trunc then 10 else lenBin f.len)
    if !trunc && !f.fcsOk then s.netCount p (if f.len < 64 then 23 else 21)
    else if f.len < 64 then s.netCount p 22
    else
      let s := if trunc then s else
        let s := ((s.netCount p (11 + dstKind f.dst)).netCount p 20 f.len)
        if f.vid.isSome then s.netCount p 14 else s
      if !s.macAccepts p f then s.netCount p 26
      else if f.ethertype = 0x8808 then s.netCount p 19
      else if trunc then
        let s := s.netCount p 24
        if s.flag .netPortCtrl_truncToFw p then s.fwReceive p f true else s
      else s.consume p f

/-- Wake pattern `i` matches a frame (R489, R490). -/
def State.wakeMatch (s : State) (f : Frame) (i : Nat) : Bool :=
  let mask := s.fget .netWakePat_mask i
  let pat := leBytes 128 (s.fget .netWakePat_bytes i)
  s.flag .netWakePat_en i && decide (mask ≠ 0) && f.fcsOk && decide (Nat.log2 mask < f.len)
    && (List.range 128).all fun j => !bitAt mask j || decide (f.bytes.getD j 0 = pat.getD j 0)

/-- FRAME_RECEIVE (R467); in Slumber the management port matches wake patterns (R489). What a consumer does with the frame is the
command of its protocol. -/
def execFrameReceive (p : Nat) (f : Frame) (s : State) : Host.Outcome State Fault Refusal :=
  done coldParts RegName.all s (
    if s.alive && decide (s.power.pstate = 3) && decide (p = 8) then
      match (List.range 32).find? fun i => s.wakeMatch f i with
      | none => s
      | some i => (((s.coldReset 1 5).fput .netWakeStat_pattern i).fput .netWakeStat_matched 1).netCount 8 61
    else when (s.macOn && s.portExists p && (s.port p).link) (fun s => s.rxFrame p f) s)

/-! ### Transmit (R468, R472, R473, R477) -/

/-- TX_FRAME_START (R477). -/
def execTxFrameStart (p : Nat) (s : State) : Host.Outcome State Fault Refusal :=
  done [.clk, .net, .out] countRegs s (when (s.macOn && s.portExists p && (s.port p).link) (fun s => s.txStart p) s)

/-- FW_TRANSMIT (R468, R498): TX_TAIL is written and, with EN 1, the descriptors up to it are read; the MAC tags (R472), pads to the least length and
appends the FCS. `len` of a frame given here is the descriptor's LEN. -/
def execFwTransmit (p tail : Nat) (fs : List TxFrame) (s : State) : Host.Outcome State Fault Refusal :=
  done [.net] [.netFwqCtrl] s (when (s.alive && s.portExists p) (fun s => when (s.macOn && s.flag .netFwqCtrl_en p) (fun s =>
    let x := s.port p
    let n := min ((tail + 65536 - x.txHead) % 65536) (2 ^ s.fget .netFwqCtrl_depthLog2 p)
    let tag := s.flag .netPortCtrl_vlanEn p
    let qs := (fs.take n).map fun f => { f with tc := f.tc % 8, vlan := tag, len := max 60 f.len + 4 + if tag then 4 else 0 }
    s.modPort p fun x => { x with queue := x.queue ++ qs, txHead := tail % 65536 }) (s.fput .netFwqCtrl_txTail tail p)) s)

/-! ### Links (R461 to R463) -/

/-- A port with ENABLE 1 is brought up, on the bank that BANK names first (R461, R462). -/
def State.portStart (s : State) (p : Nat) : State :=
  let x := s.port p
  if x.link ∨ x.up then s
  else (s.modPort p fun x => { x with bank := if s.fget .netPortCtrl_bank p = 1 then 1 else 0, lost := s.clk.cycles }).bringUp p

/-- PORT_ENABLE (R462, R494): ENABLE is written with 1. -/
def execPortEnable (p : Nat) (s : State) : Host.Outcome State Fault Refusal :=
  done [.net] [.netPortCtrl] s (when (s.macOn && s.portExists p) (fun s => (s.fput .netPortCtrl_enable 1 p).portStart p) s)

/-- LINK_UP (R462): step 5 is reached. -/
def execLinkUp (p : Nat) (s : State) : Host.Outcome State Fault Refusal :=
  done [.time, .net, .sup, .ev] [] s (when (s.macOn && s.portExists p && (s.port p).up && !(s.port p).link) (fun s => s.linkUp p) s)

/-- LINK_TIMEOUT (R462): LINK_TIMEOUT_MS without step 5. It is ignored on port 8 (R494). -/
def execLinkTimeout (p : Nat) (s : State) : Host.Outcome State Fault Refusal :=
  done [.clk, .net] countRegs s (when (s.macOn && s.dataPort p && (s.port p).up) (fun s =>
    ((s.waitCycle ((s.port p).since + s.fget .netPortCtrl_linkTimeoutMs p * msCycles)).netCount p 57).bringUp p) s)

/-- LINK_DOWN (R463): alignment or FEC lock has been lost for 10 µs. -/
def execLinkDown (p : Nat) (s : State) : Host.Outcome State Fault Refusal :=
  done [.time, .net, .sup, .ev] countRegs s (when (s.macOn && s.portExists p && (s.port p).link) (fun s => s.linkDown p) s)

/-- BANK_FAILOVER (R461): the link on the bank in use has been down for FAIL_MS. -/
def execBankFailover (p : Nat) (s : State) : Host.Outcome State Fault Refusal :=
  done [.clk, .net, .sup, .ev] countRegs s (when (s.macOn && s.dataPort p && (s.port p).up && decide (s.fget .netPortCtrl_bank p = 2)) (fun s =>
    let x := s.port p
    (s.waitCycle (x.lost + s.fget .netPortCtrl_failMs p * msCycles)).toBank p (1 - x.bank)) s)

/-! ### Lane parking (R479 to R487) -/

/-- PARTNER_TTL_EXPIRY (R480). -/
def execPartnerTtlExpiry (p : Nat) (s : State) : Host.Outcome State Fault Refusal :=
  done [.clk, .net] [] s (
    match (s.port p).partner with
    | none => s
    | some y => when s.macOn (fun s => (s.waitCycle y.2).modPort p fun x => { x with partner := none }) s)

/-- PARK_EVALUATION (R481): the next whole millisecond, with the utilisation in percent of the current rate over it. -/
def execParkEvaluation (p txPct rxPct : Nat) (s : State) : Host.Outcome State Fault Refusal :=
  done [.clk, .net, .out] countRegs s (when (s.macOn && s.dataPort p && (s.port p).link) (fun s =>
    let s := s.waitCycle ((s.clk.cycles / msCycles + 1) * msCycles)
    let low := decide (txPct < s.fget .netParkCtrl_parkPct ∧ rxPct < s.fget .netParkCtrl_parkPct)
    if !low then s.modPort p fun x => { x with quietAt := s.clk.cycles }
    else if s.mayPark p && (s.port p).idle then s.sendReq p false ((s.port p).lanes / 2) s.clk.cycles
    else s) s)

/-- RESTORE_DEMAND (R482, R485, R161): the deepest transmit queue in KiB and the utilisation of the last 8 µs. In Nap, more than one lane
is needed, and the part returns to Active. -/
def execRestoreDemand (p kib pct : Nat) (s : State) : Host.Outcome State Fault Refusal :=
  done [.power, .time, .net, .sup, .ev, .out] countRegs s (when (s.macOn && s.dataPort p && (s.port p).link && decide ((s.port p).lanes < s.fullLanes)
      && decide (s.fget .netParkCtrl_restoreKib < kib ∨ s.fget .netParkCtrl_restorePct < pct)) (fun s =>
    let s := s.leaveNap
    (s.modPort p fun x => { x with demand := !x.req.any fun r => r.restore }).parkNext p) s)

/-- Parking frames are taken on a data port that carries traffic. -/
def State.parkOn (s : State) (p : Nat) : Bool := s.macOn && s.dataPort p && (s.port p).link

/-- PARK_REQ (R484). -/
def execParkReq (p : Nat) (m : ParkMsg) (s : State) : Host.Outcome State Fault Refusal :=
  done [.net, .out] countRegs s (when (s.parkOn p) (fun s => s.parkRequest p false m) s)

/-- PARK_ACK (R484). -/
def execParkAck (p : Nat) (m : ParkMsg) (s : State) : Host.Outcome State Fault Refusal :=
  done [.net, .sup, .ev, .out] countRegs s (when (s.parkOn p) (fun s => s.parkAck p false m) s)

/-- NAK (R484): the request it answers is cancelled. -/
def execNak (p : Nat) (m : ParkMsg) (s : State) : Host.Outcome State Fault Refusal :=
  done [.net, .sup, .ev, .out] countRegs s (when (s.parkOn p && decide (s.partner p = some m.src) && (s.port p).req.any fun r => decide (r.seq = m.seq) && !r.acked) (fun s => s.reqFailed p) s)

/-- RESTORE_REQ (R484). -/
def execRestoreReq (p : Nat) (m : ParkMsg) (s : State) : Host.Outcome State Fault Refusal :=
  done [.net, .out] countRegs s (when (s.parkOn p) (fun s => s.parkRequest p true m) s)

/-- RESTORE_ACK (R484). -/
def execRestoreAck (p : Nat) (m : ParkMsg) (s : State) : Host.Outcome State Fault Refusal :=
  done [.net, .sup, .ev, .out] countRegs s (when (s.parkOn p) (fun s => s.parkAck p true m) s)

/-- LANE_SWITCH_POINT (R484): the port's next codeword point. -/
def execLaneSwitchPoint (p : Nat) (s : State) : Host.Outcome State Fault Refusal :=
  done [.clk, .net, .sup, .ev, .out] countRegs s (when (s.parkOn p) (fun s => s.switchPoint p) s)

/-- ALIGNMENT_RECOVERY (R486): the lane set on which the receiver aligns, or none, which takes the link down. How many codewords were lost
is free. -/
def execAlignmentRecovery (p : Nat) (lanes : Option Nat) (s : State) : Host.Outcome State Fault Refusal :=
  done [.time, .net, .sup, .ev, .free] countRegs s (when (s.parkOn p) (fun s =>
    match lanes with
    | none => s.linkDown p
    | some n =>
      let x := s.port p
      if !([1, 2, 4, 8].contains n) ∨ s.fullLanes < n ∨ n = x.rxLanes then s
      else
        let (lost, s) := s.fresh
        let s := s.modPort p fun x => { x with rxLanes := n, rxCw := s.rxCw p, rxCwAt := s.clk.cycles, rxSwitch := none }
        ((s.netCount p 60).report .parkRecovery p n).netCount p 28 lost) s)

/-- RESTORE_NO_ANSWER (R487): without a partner, a restore has had no answer for 100 µs; the port goes down and comes up at full width. -/
def execRestoreNoAnswer (p : Nat) (s : State) : Host.Outcome State Fault Refusal :=
  done [.clk, .time, .net, .sup, .ev] countRegs s (
    match (s.port p).req with
    | none => s
    | some r => when (s.parkOn p && r.restore && !r.acked && (s.partner p).isNone) (fun s => (s.waitCycle (r.sentAt + 100 * usCycles)).linkDown p) s)

/-! ### Crossing schedules (R474 to R478) -/

/-- After an accepted CHANGE, a part whose join the class 7 test refused tries again under AUTO_JOIN (R478). -/
def State.rejoin (s : State) : State := if s.town.state = 5 ∧ s.flag .twnCfg_autoJoin ∧ s.flag .twnCfg_townEn ∧ !s.crossingFails then s.townJoin none else s

/-- CHANGE is written with 1 (R475, R478). -/
def State.crossChange (s : State) (p : Nat) : State :=
  let x := s.port p
  if x.change.isSome then s
  else
    let len := s.fget .netCrossCtrl_adminLen p
    let bank := 1 - x.sched.bank
    let cyc := s.fget .netCrossCycle_cycleNs p
    if s.flag .twnCfg_townEn ∧ crossFails (s.crossList p bank len) cyc then (s.fput .netCrossCtrl_changeErr 1 p).report .changeErr p
    else
      let base := (s.fget .netCrossBase_sec p * 1000000000 + s.fget .netCrossBase_ns p) * nsUnits
      let c : Sched := { bank := bank, len := len, base := base, cycleNs := cyc }
      let soon := s.clk.tai + 10000 * nsUnits
      let t := if soon < base then base else base + ((soon - base) / (cyc * nsUnits) + 1) * (cyc * nsUnits)
      (if s.flag .netCrossCtrl_en p then s.modPort p fun x => { x with change := some (c, t) } else s.modPort p fun x => { x with sched := c }).rejoin

/-- CROSS_CHANGE (R475). -/
def execCrossChange (p : Nat) (s : State) : Host.Outcome State Fault Refusal :=
  done [.town, .ywp, .net, .sup, .ev, .out] [.netCrossCtrl] s (when (s.macOn && s.dataPort p) (fun s => s.crossChange p) s)

/-- CROSS_CHANGE_TIME (R475, R477): the banks exchange roles, and head frames that no longer fit are dropped. -/
def execCrossChangeTime (p : Nat) (s : State) : Host.Outcome State Fault Refusal :=
  done [.clk, .net] countRegs s (
    match (s.port p).change with
    | none => s
    | some c => when (s.macOn && s.dataPort p) (fun s =>
        let s := (s.waitTai c.2).modPort p fun x => { x with sched := c.1, change := none }
        (List.range 8).foldl (fun s t => s.dropUnfit p t) s) s)

/-- Time left of the entry that runs at a position of the cycle, in ns. -/
def entryLeft : Nat → List (Nat × Nat) → Nat
  | _, [] => 0
  | pos, (_, n) :: l => if pos < n ∨ l.isEmpty then n - pos else entryLeft (pos - n) l

/-- GATE_ENTRY_ADVANCE (R476): the next entry's gates apply. -/
def execGateEntryAdvance (p : Nat) (s : State) : Host.Outcome State Fault Refusal :=
  done [.clk, .net] [] s (when (s.macOn && s.dataPort p && s.flag .netCrossCtrl_en p) (fun s =>
    let spans := s.operSpans p
    let s := s.waitTai ((s.clk.tai / nsUnits + entryLeft (s.cyclePos p) spans) * nsUnits)
    s.modPort p fun x => { x with gates := gatesAt (s.cyclePos p) spans }) s)

/-! ### Slumber and the management port (R489 to R492, R508) -/

/-- CHECK of pattern `i` (R490): the CRC-32 over the masked bytes in ascending order. -/
def State.wakeCrc (s : State) (i : Nat) : Nat :=
  let mask := s.fget .netWakePat_mask i
  let pat := leBytes 128 (s.fget .netWakePat_bytes i)
  crc32ieee (((List.range 128).filter fun j => bitAt mask j).map fun j => pat.getD j 0)

/-- The check of every enabled pattern (R490). -/
def State.wakeVerify (s : State) : State :=
  let s := (List.range 32).foldl (fun s i =>
    if s.flag .netWakePat_en i && decide (s.wakeCrc i ≠ s.fget .netWakePat_check i) then
      ((s.fput .netWakePat_en 0 i).fput .netWakeBad_bad (s.fget .netWakeBad_bad ||| 2 ^ i)).report .wakeBad i
    else s) s
  { s with net := { s.net with checkedAt := s.clk.cycles } }

/-- WAKE_CHECK_REVERIFY (R490): every 1 s in Slumber. -/
def execWakeCheckReverify (s : State) : Host.Outcome State Fault Refusal :=
  done [.clk, .net, .sup, .ev] [.netWakeBad, .netWakePat] s (when (s.alive && decide (s.power.pstate = 3)) (fun s => (s.waitCycle (s.net.checkedAt + secCycles)).wakeVerify) s)

/-- MANAGEMENT_LINK_CHANGE (R492). -/
def execManagementLinkChange (s : State) : Host.Outcome State Fault Refusal :=
  done coldParts RegName.all s (when (s.alive && decide (s.power.pstate = 3) && s.flag .netWakeCtrl_wakeLink) (fun s => s.coldReset 1 5) s)

/-- An MDIO access starts (R507, R508): a Clause 22 frame is 64 bits of MDC, and a Clause 45 access two. -/
def State.mdioStart (s : State) : State :=
  let v := s.reg ⟨.netMgmtMdio, 0, 0, 0⟩
  let len := 64 * (if s.flag .netMgmtMdio_c45 then 2 else 1) * 2 * s.fget .netMgmtCtrl_mdcDiv * 12
  ({ s with net := { s.net with mdio := some (s.clk.cycles + len) } } : State).emit (.mdio v)

/-- MDIO_GO (R508): `v` is written with GO 1; while BUSY, GO is ignored. -/
def execMdioGo (v : Nat) (s : State) : Host.Outcome State Fault Refusal :=
  done [.net, .out] [.netMgmtMdio] s (when s.macOn (fun s =>
    let v := setBits (setBits (v % 2 ^ 48) 28 2 0) 30 2 0
    let s := s.setReg ⟨.netMgmtMdio, 0, 0, 0⟩ v
    if s.net.mdio.isSome then s else s.mdioStart) s)

/-- MDIO_DONE (R508): BUSY clears, with the data read. -/
def execMdioDone (data : Nat) (s : State) : Host.Outcome State Fault Refusal :=
  done [.clk, .net] [.netMgmtMdio] s (
    match s.net.mdio with
    | none => s
    | some t => when s.macOn (fun s =>
        let s := s.waitCycle t
        let s := if s.flag .netMgmtMdio_read then s.fput .netMgmtMdio_data data else s
        { s with net := { s.net with mdio := none } }) s)

end Sys2Proof.Machine
end

