-- ==== Sys2Proof/Machine/AdminCmds.lean ====
section
/-!
DEFINITION. The admin commands of the host interface (R153 to R161) and GET_HEALTH (R306), with power state entries (R158 to R160, R720,
R721).
-/

namespace Sys2Proof.Machine

/-! ### IDENTIFY (R153) -/

/-- Raw bytes of the accepted flash. -/
def State.rawBytes (s : State) : Nat :=
  let g := s.media.geom
  (s.media.luns.filter fun l => decide (l.state = .accepted ∨ l.state = .failed)).length * g.blocks * g.pages * (if g.page32 then 32 else 16) * 1024

/-- ORDER_CODE. -/
def State.orderCode (s : State) : Bytes :=
  ascii (if s.ident.flashPart then (if s.ident.grade = 1 then "TF-9400-AC-E" else "TF-9400-AC") else if s.ident.grade = 1 then "TF-9400-IC-E" else "TF-9400-IC")

/-- The identity record as function `f` reads it. -/
def State.identity (s : State) (f : Nat) : Bytes :=
  let mem := fun (v : Nat) => if s.isMember then v else 0
  let head := padTo 16 s.orderCode ++ ascii "B1" ++ [0, 0] ++ leBytes 4 (packNat [(0, 8, s.ident.grade), (8, 8, f), (16, 7, s.fget .hqQuota_rings f)])
  let mid := padTo 16 s.ident.serial ++ padTo 16 s.ident.fwVersion
  let tail := packLe 52 [(0, 16, if s.hasFlash then (s.media.luns.filter fun l => decide (l.state ≠ .absent)).length else 0), (64, 64, s.rawBytes),
    (128, 64, if s.hasFlash then s.tun.sizeMib * 1048576 else 0), (192, 64, s.ident.dramBytes), (256, 14, s.memberId), (288, 18, mem s.town.incarnation),
    (320, 16, s.fget .ywpCtrl_verMin), (336, 16, s.fget .ywpCtrl_verMax), (352, 16, mem s.town.level), (384, 32, s.kv.keyspaces.length)]
  padTo 4096 (head ++ mid ++ tail)

/-- IDENTIFY runs. -/
def State.runIdentify (s : State) (c : OpCtx) : State :=
  s.adminRun c false (adminBad c.desc 56) 4096 fun s c => s.adminRecord c (s.identity c.tenant)

/-- IDENTIFY (R153). -/
def execIdentify (f : Nat) (d : Desc) (x : Fetched) (s : State) : Host.Outcome State Fault Refusal :=
  done finishParts ringRegs s (s.adminArrive opIdentify f d x State.runIdentify)

/-! ### Keyspaces (R154 to R157, R407) -/

/-- A keyspace change at a part that belongs to no Town. -/
def State.kspHere (s : State) (c : OpCtx) : State :=
  if c.desc.opc = opKspCreate then
    match s.kspNew c.tenant c.desc with
    | .error st => s.fail c st
    | .ok (k, s) => ({ s with kv := { s.kv with keyspaces := putKsp k s.kv.keyspaces } } : State).finish c { status := stOk, rstamp := k.created } []
  else match s.kspGoneNew c.tenant c.desc with
    | .error st => s.fail c st
    | .ok k => (({ s with kv := { s.kv with keyspaces := putKsp k s.kv.keyspaces } } : State).finish c { status := stOk } []).kspReap

/-- A keyspace change on a Town member goes to the acting Hall (R407). -/
def State.kspTown (s : State) (c : OpCtx) : State :=
  if s.frozen then s.fail c stTownFrozen
  else if s.acting then s.hallKeyspace c.tenant c.desc (some c.id) none fun s st => match s.kv.ctx? c.id with | some c => s.fail c st | none => s
  else if s.reach s.town.hall then
    (s.sendTown (idOf s.town.hall) { tmsg := 0x10, arg0 := c.id, body := .command c.tenant c.desc }).modCtx c.id fun e => { e with phase := .admin, since := s.clk.cycles, dest := s.town.hall }
  else s.modCtx c.id fun e => { e with phase := .noOwner, since := if e.phase = .noOwner then e.since else s.clk.cycles }

/-- KEYSPACE_CREATE runs (R154, R155). -/
def State.runKspCreate (s : State) (c : OpCtx) : State :=
  let d := c.desc
  let rf := param d 57 1
  let bad := adminBad d 80 || decide (param d 59 5 ≠ 0 ∨ rf = 0 ∨ 4 < rf ∨ (1 < rf ∧ !s.isMember) ∨ 63 < param d 58 1)
  s.adminRun c false bad 0 fun s c =>
    if c.tenant ≠ 0 ∧ param d 56 1 ≠ c.tenant then s.fail c stAccessDenied
    else if s.isMember then s.kspTown c else s.kspHere c

/-- KEYSPACE_CREATE (R155). -/
def execKeyspaceCreate (f : Nat) (d : Desc) (x : Fetched) (s : State) : Host.Outcome State Fault Refusal :=
  done (townParts ++ [.free]) (townRegs ++ [.cipDrbgStat]) s (s.adminArrive opKspCreate f d x State.runKspCreate)

/-- KEYSPACE_DELETE runs (R156). -/
def State.runKspDelete (s : State) (c : OpCtx) : State :=
  s.adminRun c false (adminBad c.desc 56) 0 fun s c => if s.isMember then s.kspTown c else s.kspHere c

/-- KEYSPACE_DELETE (R156). -/
def execKeyspaceDelete (f : Nat) (d : Desc) (x : Fetched) (s : State) : Host.Outcome State Fault Refusal :=
  done (townParts ++ [.free]) (townRegs ++ [.cipDrbgStat]) s (s.adminArrive opKspDelete f d x State.runKspDelete)

/-- Value lengths of a keyspace's present keys that this part holds. -/
def State.heldKeys (s : State) (ksp : Nat) : List Nat :=
  let a := (s.tun.entries.filter fun e => e.ksp == ksp && decide (e.kind ≠ .batchRecord)).map fun e => e.key
  let b := s.index.leaves.flatMap fun l => (l.entries.filter fun e => e.ksp == ksp).filterMap fun e => (s.media.item? e.loc).map fun i => i.key
  ((a ++ b).eraseDups.map fun k => s.curVer ksp k).filterMap fun v => if v.present then some v.vlen else none

/-- The keyspace record (R157). -/
def State.kspRecord (s : State) (k : Keyspace) : Bytes :=
  let l := if k.reclaiming then [] else s.heldKeys k.ksp
  packLe 64 [(0, 16, k.ksp), (16, 8, k.tenant), (24, 8, k.rf), (32, 8, k.slot), (40, 8, if k.reclaiming then 2 else 1), (64, 64, l.length), (128, 64, l.sum),
    (192, 128, k.salt), (320, 64, k.created)]

/-- KEYSPACE_QUERY runs (R157). -/
def State.runKspQuery (s : State) (c : OpCtx) : State :=
  s.adminRun c false (adminBad c.desc 56) 64 fun s c =>
    match s.ksp? c.desc.ksp with
    | none => s.fail c stKspUnknown
    | some k => if c.tenant ≠ 0 ∧ k.tenant ≠ c.tenant then s.fail c stAccessDenied else s.adminRecord c (s.kspRecord k)

/-- KEYSPACE_QUERY (R157). -/
def execKeyspaceQuery (f : Nat) (d : Desc) (x : Fetched) (s : State) : Host.Outcome State Fault Refusal :=
  done finishParts ringRegs s (s.adminArrive opKspQuery f d x State.runKspQuery)

/-! ### GET_HEALTH (R306) -/

/-- The erase counts of data blocks, or with `sys` of every block in use, those of the system regions among them. -/
def State.eraseCounts (s : State) (sys : Bool) : List Nat :=
  (s.media.blocks.filter fun b => decide (b.state ≠ .retired) && (sys || (decide (b.state ≠ .system) && decide (s.media.sysBlocks b.lun ≤ b.blk)))
    && (s.media.lun? b.lun).any fun l => decide (l.state = .accepted)).map fun b => b.erases

/-- The health page. -/
def State.healthPage (s : State) : Bytes :=
  let m := s.media
  let h := m.health
  let avg := if s.dataBlocks = 0 then 0 else (s.eraseCounts false).sum / s.dataBlocks
  let top := (s.eraseCounts true).foldl max 0
  let rated := s.fget .medWearCtrl_peRated
  let wear := fun (n : Nat) => if rated = 0 then 65535 else min 65535 (n * 10000 / rated)
  let head := packLe 88 [(0, 16, 1), (16, 8, if m.spareInitial = 0 then 0 else m.spareBlocks * 100 / m.spareInitial), (24, 1, b2n m.readOnly),
    (25, 1, b2n (decide (2 ≤ m.spaceState))), (26, 1, b2n m.spareWarn), (27, 1, s.fget .tunStat_flushIncomplete), (32, 32, m.spareBlocks), (64, 32, m.spareInitial),
    (96, 16, h.lunsFailed), (128, 32, avg), (160, 32, top), (192, 32, rated), (224, 16, wear avg), (240, 16, wear top), (256, 64, h.corrected),
    (320, 64, h.retried), (384, 64, h.softDecoded), (448, 64, h.unrecoverable), (512, 32, h.programFails), (544, 32, h.eraseFails), (576, 32, h.tunFlushes),
    (608, 32, h.flushesIncomplete), (640, 32, h.powerFails), (672, 16, s.freePm), (688, 8, m.spaceState)]
  let temps := h.temps.foldl (fun b t => overlay b (128 * t.1 + 4 * t.2.1) (leBytes 4 t.2.2)) (List.replicate 1024 0#8)
  padTo 2048 (padTo 256 head ++ temps)

/-- GET_HEALTH runs. -/
def State.runGetHealth (s : State) (c : OpCtx) : State := s.adminRun c false (adminBad c.desc 56) 2048 fun s c => s.adminRecord c s.healthPage

/-- GET_HEALTH (R306). -/
def execGetHealth (f : Nat) (d : Desc) (x : Fetched) (s : State) : Host.Outcome State Fault Refusal :=
  done finishParts ringRegs s (s.adminArrive opGetHealth f d x State.runGetHealth)

/-! ### Power states (R158 to R161, R720, R721) -/

/-- R159: an I/O ring that is not DISABLED, an open staged value or a snapshot lease keeps the part out of Slumber. -/
def State.slumberBusy (s : State) : Bool :=
  (s.host.rings.any fun r => decide (r.n ≠ 64) && decide (s.ringState r.f r.n ≠ 0)) || !s.kv.staged.isEmpty || !s.kv.leases.isEmpty

/-- SET_POWER_STATE runs: the entry begins, or is refused. -/
def State.runSetPower (s : State) (c : OpCtx) : State :=
  let t := param c.desc 56 1
  s.adminRun c true (adminBad c.desc 57 || decide (3 < t)) 0 fun s c =>
    if t = s.power.pstate then s.finish c { status := stOk, rlen := t } []
    else if t = 3 ∧ s.slumberBusy then s.fail c stPowerBusy
    else
      let s : State := { s with power := { s.power with entry := some (t, s.clk.cycles, c.id) } }
      if t = 2 then s.portsNap else s

/-- SET_POWER_STATE (R158). -/
def execSetPowerState (f : Nat) (d : Desc) (x : Fetched) (s : State) : Host.Outcome State Fault Refusal :=
  done (finishParts ++ [.power, .time, .net]) (countRegs ++ ringRegs) s (s.adminArrive opSetPower f d x State.runSetPower)

/-- The part goes into Slumber (R721, R490, R492): sessions are closed, key pages zeroed, the completion posted; then the link and the
ports are down, the gates are off, and the PHY is set to 100BASE-TX by an MDIO access whose words the spec does not give. -/
def State.toSlumber (s : State) (c : OpCtx) : State :=
  let s := (s.shutdownSessions.zeroPages).finish c { status := stOk, rlen := 3 } []
  let s := (s.tickN msCycles).drtStop
  let (v, s) := s.fresh
  let s := (s.emit (.mdio (v % 2 ^ 64))).wakeVerify
  { s with power := { s.power with pstate := 3, entry := none }, host := { s.host with linkUp := false }
           net := { s.net with ports := s.net.ports.map fun p => { p with link := false, up := false } } }

/-- POWER_ENTRY_DONE (R160): the entry has finished, and no other command is in flight; an entry to Slumber finishes when the Tun has
drained, its journal with it. One that has not finished 100 ms after its dispatch is abandoned. -/
def execPowerEntryDone (s : State) : Host.Outcome State Fault Refusal :=
  done (finishParts ++ [.clk, .power, .time, .net, .cip, .drt, .free]) (countRegs ++ ringRegs ++ [.cipKpSlotStat, .cipKpStat, .cipKpUse, .netWakeBad, .netWakePat, .ywpKeyStat]) s (
    match s.power.entry with
    | none => s
    | some (t, since, id) =>
      match s.kv.ctx? id with
      | none => s
      | some c =>
        let alone := s.kv.ctxs.all fun e => decide (e.id = id ∨ e.pool = .town ∨ e.pool = .queue)
        if !s.serving ∨ !alone then s
        else if since + 100 * msCycles ≤ s.clk.cycles then s.abandonEntry
        else if t = 3 then (if s.tun.entries.isEmpty && s.index.journal.isEmpty then s.toSlumber c else s)
        else
          let nap := decide (s.power.pstate = 2)
          let s : State := { s with power := { s.power with pstate := t, entry := none } }
          (if nap then s.portsActive else s).finish c { status := stOk, rlen := t } [])

/-- POWER_ENTRY_ABANDON (R160): 100 ms after its dispatch the entry has not finished. -/
def execPowerEntryAbandon (s : State) : Host.Outcome State Fault Refusal :=
  done (finishParts ++ [.clk, .power, .time, .net]) (countRegs ++ ringRegs) s (
    match s.power.entry with
    | none => s
    | some (_, at_, _) => when s.serving (fun s => (s.waitCycle (at_ + 100 * msCycles)).abandonEntry) s)

end Sys2Proof.Machine
end

