-- ==== Sys2Proof/Machine/LedgerCmds.lean ====
section
/-!
DEFINITION. The commands of the ledger and thermal policy: windows, grants, sensor reads, evaluations, LEDGER_SET and the
temperature histogram.
-/

namespace Sys2Proof.Machine

/-- LEDGER_WINDOW (R548, R549, R555, R556): the next window boundary, with the KiB that DRAM and the data ports moved in the
window that ends. -/
def execLedgerWindow (dramKib netKib : Nat) (s : State) : Host.Outcome State Fault Refusal :=
  done [.clk, .led] [.ledStat] s (when s.ledOn (fun s => (s.waitCycle ((s.clk.cycles / windowCycles + 1) * windowCycles)).ledWindow dramKib netKib) s)

/-- NAND_OP_GRANT (R231, R554, R557). -/
def execNandOpGrant (s : State) : Host.Outcome State Fault Refusal :=
  done [.media, .led] [.cipKpUse] s (when s.ledOn (fun s => match s.nextGrant with | some o => s.grantAll o | none => s) s)

/-- DIE_SENSOR_READ (R559, R565): the on-die sensors, in 1/16 °C, 100 µs after the last read; one at the critical temperature
starts the critical halt. -/
def execDieSensorRead (temps : List Int) (s : State) : Host.Outcome State Fault Refusal :=
  done [.clk, .power, .kv, .tun, .media, .led, .drt, .sup, .ev, .out] [.ledTemp] s (when s.ledOn (fun s =>
    let s := s.waitCycle (s.led.dieAt + 100 * usCycles)
    let s : State := { s with led := { s.led with dieAt := s.clk.cycles } }
    let ts := temps.take 32
    let s := (List.range ts.length).foldl (fun s n => s.setTemp n ((ts[n]?).getD 0)) s
    if s.critical ts && !s.tun.flushing then s.criticalHalt else s) s)

/-- EXTERNAL_SENSOR_READ (R561, R562): sensor `i` answers with two bytes, or fails to. -/
def execExternalSensorRead (i : Nat) (raw : Option Nat) (s : State) : Host.Outcome State Fault Refusal :=
  done [.clk, .led, .sup, .ev] [.ledTemp] s (when (s.ledOn && decide (i < 64) && s.flag .ledSens_en i) (fun s =>
    let x := s.sensor i
    (if x.at_ = 0 then s else s.waitCycle (x.at_ + s.fget .ledThermCtrl_periodMs * msCycles)).readSensor i raw) s)

/-- THERMAL_EVALUATION (R564). -/
def execThermalEvaluation (s : State) : Host.Outcome State Fault Refusal :=
  done [.clk, .led, .drt, .sup, .ev] [.ledThermStat] s (when s.ledOn (fun s => (s.waitCycle (s.led.evalAt.getD s.power.startAt + s.fget .ledThermCtrl_periodMs * msCycles)).thermal) s)

/-- LEDGER_SET once it executes (R566). -/
def State.runLedgerSet (s : State) (c : OpCtx) : State :=
  let d := c.desc
  let item := param d 56 1
  let g := param d 57 1
  let bad := adminBad d 58 || decide (2 < item) || decide (7 < g) || (decide (item < 2) && decide (g ≠ 0)) || decide (d.vlen ≠ ledItemLen item)
  s.adminRun c true bad 0 fun s c =>
    match s.ledApply item g (c.fx.value.take d.vlen) with
    | none => s.fail c stFieldInvalid
    | some t => t.finish c { status := stOk } []

/-- LEDGER_SET (R566). -/
def execLedgerSet (f : Nat) (d : Desc) (x : Fetched) (s : State) : Host.Outcome State Fault Refusal :=
  done finishParts (ledRegs ++ ringRegs) s (s.adminArrive opLedgerSet f d x State.runLedgerSet)

/-- The bin of a temperature in 1/16 °C (R307). -/
def tempBin (t : Int) : Nat := min 31 ((t + 320) / 80).toNat

/-- One second into a group's bin. -/
def Health.tempAdd (h : Health) (g b : Nat) : Health :=
  if h.temps.any fun x => x.1 == g && x.2.1 == b then
    { h with temps := updWhere (fun x => x.1 == g && x.2.1 == b) (fun x => (x.1, x.2.1, satAdd 32 x.2.2 1)) h.temps }
  else { h with temps := h.temps ++ [(g, b, 1)] }

/-- TEMP_HISTOGRAM_TICK (R307): the next whole second of the part's running. -/
def execTempHistogramTick (s : State) : Host.Outcome State Fault Refusal :=
  done [.clk, .media] [] s (when s.ledOn (fun s =>
    let s := s.waitCycle ((s.clk.cycles / secCycles + 1) * secCycles)
    (List.range 8).foldl (fun s g =>
      match s.groupTemp g with
      | .at_ t => { s with media := { s.media with health := s.media.health.tempAdd g (tempBin t) } }
      | _ => s) s) s)

end Sys2Proof.Machine
end

