-- ==== Sys2Proof/Machine/UpdCmds.lean ====
section
/-!
DEFINITION. The commands of firmware update and recovery (R650 to R674).
-/

namespace Sys2Proof.Machine

/-! ### Delivery (R655 to R659) -/

/-- UPDATE_CHUNK runs (R655 to R657): it completes with RLEN equal to the pieces received. -/
def State.runUpdateChunk (copies : List Bool) (s : State) (c : OpCtx) : State :=
  let d := c.desc
  s.adminRun c true (adminBad d 96 || pieceBad d.key40 d.vlen) 0 fun s c =>
    let (i, again, len, id) := pieceParams d.key40
    let (st, s) := s.takeCaskPiece i len id again (c.fx.value.take d.vlen) copies
    s.finish c { status := st, rlen := s.upd.head.received.length } []

/-- UPDATE_CHUNK (R656). `copies` says in which Cask copies the piece's slot programs. -/
def execUpdateChunk (f : Nat) (d : Desc) (x : Fetched) (copies : List Bool) (s : State) : Host.Outcome State Fault Refusal :=
  done (finishParts ++ [.upd, .power, .net, .time]) (ringRegs ++ countRegs) s (s.adminArrive opUpdChunk f d x (State.runUpdateChunk copies))

/-- UPDATE_QUERY runs (R671). -/
def State.runUpdateQuery (s : State) (c : OpCtx) : State :=
  s.adminRun c true (adminBad c.desc 56) 1088 fun s c =>
    s.finish c { status := stOk, rlen := s.upd.head.received.length } [(0, s.updQuery)]

/-- UPDATE_QUERY (R671). -/
def execUpdateQuery (f : Nat) (d : Desc) (x : Fetched) (s : State) : Host.Outcome State Fault Refusal :=
  done finishParts ringRegs s (s.adminArrive opUpdQuery f d x State.runUpdateQuery)

/-- UPDATE_CONFIRM runs (R664). -/
def State.runUpdateConfirm (s : State) (c : OpCtx) : State :=
  s.adminRun c true (adminBad c.desc 56) 0 fun s c =>
    let (st, n, s) := s.confirm
    s.finish c { status := st, rlen := n } []

/-- UPDATE_CONFIRM (R664). -/
def execUpdateConfirm (f : Nat) (d : Desc) (x : Fetched) (s : State) : Host.Outcome State Fault Refusal :=
  done (finishParts ++ [.cfl, .upd]) ringRegs s (s.adminArrive opUpdConfirm f d x State.runUpdateConfirm)

/-- What a MGMT message does (R655): STATUS, RLEN, the body of the reply, and the state. -/
def State.mgmtDo (s : State) (opc : Nat) (param body : Bytes) (copies : List Bool) : Nat × Nat × Bytes × State :=
  let p := hostOrder (padTo 40 param)
  let clear := p.all fun b => b == 0#8
  if opc = opUpdChunk then
    if pieceBad p body.length then (stFieldInvalid, 0, [], s)
    else
      let (i, again, len, id) := pieceParams p
      let (st, t) := s.takeCaskPiece i len id again body copies
      (st, t.upd.head.received.length, [], t)
  else if opc = opUpdQuery then
    if clear then (stOk, s.upd.head.received.length, s.updQuery, s) else (stFieldInvalid, 0, [], s)
  else if opc = opUpdConfirm then
    if clear then (let (st, n, t) := s.confirm; (st, n, [], t)) else (stFieldInvalid, 0, [], s)
  else (stOpcodeInvalid, 0, [], s)

/-- MGMT_MESSAGE (R655, R358): a complete management message on an open session with the right; the reply is in the layout of R350. -/
def execMgmtMessage (slot msgId : Nat) (copies : List Bool) (s : State) : Host.Outcome State Fault Refusal :=
  done [.ywp, .cfl, .upd, .sup, .ev, .media, .power, .net, .time, .out] countRegs s (
    match s.ywp.slot? slot with
    | none => s
    | some x =>
      if s.ywpOn && s.ready && decide (x.state = .opened) && x.mgmt then
        match x.rx.find? fun m => m.msgId == msgId with
        | none => s
        | some m =>
          match m.head with
          | some (.mgmt opc param _) =>
            if !m.complete || m.taken || m.ended then s
            else
              let (st, n, b, s) := s.mgmtDo opc param m.body copies
              (s.modSlot slot (endRx msgId)).sendMsg slot (.reply opc st n b.length 0 0 msgId 0) b none
          | _ => s
      else s)

/-- CASK_HEADER_IDLE_WRITE (R659): 5 s have passed without a piece, and the header on flash is behind. -/
def execCaskHeaderIdleWrite (s : State) : Host.Outcome State Fault Refusal :=
  done [.clk, .upd] [] s (when (s.serving && decide (0 < s.caskCopies) && decide (s.upd.head ≠ s.upd.written)) (fun s =>
    (s.waitCycle (s.upd.pieceAt + 5 * secCycles)).caskWrite) s)

/-! ### Trial (R663, R673) -/

/-- TRIAL_EXPIRY (R663): REMAIN_S has reached 0. -/
def execTrialExpiry (s : State) : Host.Outcome State Fault Refusal :=
  done coldParts RegName.all s (
    match s.upd.trial with
    | none => s
    | some t => when (s.alive && !s.tun.flushing) (fun s => ((s.waitCycle (t.1 + t.2 * secCycles)).report .trialExpired).askCold 2) s)

/-- STOP of UPD_TRIAL (R673). -/
def State.trialStop (s : State) : State := { s with upd := { s.upd with trial := none } }

/-- TRIAL_STOP (R673): 1 is written to STOP. -/
def execTrialStop (s : State) : Host.Outcome State Fault Refusal :=
  done [.upd] [] s (when (s.alive && !s.upd.recovery) (fun s => s.trialStop) s)

/-! ### Recovery (R666 to R668) -/

/-- The boot ROM is in recovery mode. -/
def State.recovering (s : State) : Bool := s.alive && s.upd.recovery

/-- A request's PKG_LEN: a change discards the staging, but not under a check. -/
def State.stageLenOf (s : State) (len : Nat) : State := if s.upd.rcvBusy then s else s.stageFor len

/-- RECOVERY_DATA (R667): a DATA request over the management port; every one is answered with STATUS. -/
def execRecoveryData (pkgLen off : Nat) (data : Bytes) (s : State) : Host.Outcome State Fault Refusal :=
  done [.upd, .out] [] s (when (s.recovering && s.recovMgmt) (fun s =>
    let s := s.stageLenOf pkgLen
    (if off % 1024 = 0 ∧ pkgLen = s.upd.stageLen then s.stageBlock (off / 1024) data else s).stageStatus) s)

/-- RECOVERY_QUERY (R667). -/
def execRecoveryQuery (pkgLen : Nat) (s : State) : Host.Outcome State Fault Refusal :=
  done [.upd, .out] [] s (when (s.recovering && s.recovMgmt) (fun s => (s.stageLenOf pkgLen).stageStatus) s)

/-- The host reaches the recovery BAR (R668). -/
def State.recovBarOn (s : State) : Bool := s.recovering && s.recovBar && s.host.linkUp

/-- UPD_RCV_CMD is written: the piece in the window is taken, unless a check runs (R674). -/
def State.recovPiece (s : State) (piece pkgLen : Nat) : State :=
  if s.upd.rcvBusy then s
  else
    let w := padTo 4096 s.upd.window
    (List.range 4).foldl (fun s k => s.stageBlock (4 * piece + k) (slice w (1024 * k) (blockLen pkgLen (4 * piece + k)))) (s.stageFor pkgLen)

/-- RECOVERY_PIECE (R668, R674). -/
def execRecoveryPiece (piece pkgLen : Nat) (s : State) : Host.Outcome State Fault Refusal :=
  done [.upd] [] s (when s.recovBarOn (fun s => s.recovPiece piece pkgLen) s)

/-- RECOVERY_CHECK_DONE (R666): the check of the whole package ends. It is installed into Bank A and booted on trial, or discarded. -/
def execRecoveryCheckDone (r : ReadBack) (s : State) : Host.Outcome State Fault Refusal :=
  done [.ident, .power, .cfl, .upd, .sup, .ev] [.cflBankExec, .cflStat] s (when (s.recovering && s.upd.rcvBusy) (fun s =>
    let h := s.stageHeader
    let c := s.packageCheck s.upd.stageLen h r
    if c = 0 then
      let s := (s.installBank 0 h (r.body.getD [])).bootBank 0 true none
      { s with upd := { s.upd with stageLen := 0, staged := [], window := [], rcvBusy := false, rcvResult := 255, result := 0 }, power := { s.power with stage := 5 } }
    else { s with upd := { s.upd with staged := [], rcvBusy := false, rcvResult := c } }) s)

end Sys2Proof.Machine
end

