-- ==== Sys2Proof/Machine/EventCmds.lean ====
section
/-!
DEFINITION. The commands of the event recorder: reports, programming, counter entries, the log window, the nonce, and the clear.
-/

namespace Sys2Proof.Machine

/-- EVENT_REPORT (R679, R675): a block reports an event by its code, whose high byte is the block's ID. -/
def execEventReport (block code key data : Nat) (s : State) : Host.Outcome State Fault Refusal :=
  done [.sup, .ev] [] s (when (!s.power.porstLow && decide (code / 256 = block ∧ code ≠ 0 ∧ code < 0xFFFF)) (fun s =>
    s.reportFrom (.other code) block (key % 2 ^ 96) (data % 2 ^ 64)) s)

/-- FRONT_BUFFER_PROGRAM (R679, R680): the next record goes to the record area, 125 µs or more after the last. -/
def execFrontBufferProgram (s : State) : Host.Outcome State Fault Refusal :=
  done [.clk, .ev] [] s (when s.recProg (fun s =>
    match s.ev.nextProg with
    | none => s
    | some i =>
      let s := if s.ev.progAt = 0 then s else s.waitCycle (s.ev.progAt + progCycles)
      { s with ev := { s.ev.program i with progAt := s.clk.cycles } }) s)

/-- COUNTER_ENTRY_WRITE (R678): the next whole minute of the part's running. -/
def execCounterEntryWrite (s : State) : Host.Outcome State Fault Refusal :=
  done [.clk, .ev] [] s (when (s.alive && decide (s.power.pstate ≠ 3)) (fun s =>
    let p := 60 * secCycles
    (s.waitCycle (s.ev.since + ((s.clk.cycles - s.ev.since) / p + 1) * p)).counterEntry) s)

/-- A requester can reach a state window: its function exists and the host side runs, or it is the supervisor. -/
def State.windowOn (s : State) : Requester → Bool
  | .func f => s.pageOn f
  | .sup => s.alive && decide (s.power.pstate ≠ 3)

/-- EVT_CURSOR_WRITE (R683, R701): INDEX and AUTO; an INDEX above 16,384 is a reserved encoding. -/
def execEvtCursorWrite (who : Requester) (v : Nat) (s : State) : Host.Outcome State Fault Refusal :=
  done [] [.evtCursor] s (when (s.windowOn who) (fun s =>
    let s := if bits v 0 15 ≤ 16384 then s.fput .evtCursor_index (bits v 0 15) (whoIdx who) else s
    s.fput .evtCursor_auto (bits v 15 1) (whoIdx who)) s)

/-- EVT_WINDOW_LATCH (R683): a read of word 0 latches the record at INDEX and returns its first word; 0 where the log may not be
read. -/
def execEvtWindowLatch (who : Requester) (s : State) : Host.Outcome State Fault Refusal :=
  done [.latches, .out] [] s (when (s.windowOn who) (fun s =>
    if s.mayReadLog who then
      let v := ofLe (s.ev.shown (s.fget .evtCursor_index (whoIdx who)))
      (s.latch who ⟨.evtWindow, whoIdx who, 0, 0⟩ v).emit (.readData who (v % 2 ^ 64))
    else s.emit (.readData who 0)) s)

/-- EVT_WINDOW_ADVANCE (R683): a read of word 7 returns the latched copy's last word and, with AUTO, advances INDEX by 1, up to
16,384. -/
def execEvtWindowAdvance (who : Requester) (s : State) : Host.Outcome State Fault Refusal :=
  done [.out] [.evtCursor] s (when (s.windowOn who) (fun s =>
    let i := whoIdx who
    let s := s.emit (.readData who (if s.mayReadLog who then s.evLatch who / 2 ^ 448 else 0))
    if s.flag .evtCursor_auto i then s.fput .evtCursor_index (min 16384 (s.fget .evtCursor_index i + 1)) i else s) s)

/-- NONCE_DRAW (R684, R704): a read of EVT_NONCE word 0 by the PF draws a fresh nonce, which is current for 60 s; with the DRBG failed
none is current and the read returns 0. A VF's page, and the supervisor's (R757), read 0 and draw nothing. -/
def execNonceDraw (who : Requester) (s : State) : Host.Outcome State Fault Refusal :=
  done [.latches, .cip, .ev, .out, .free] [.cipDrbgStat] s (when (s.windowOn who) (fun s =>
    if who = .func 0 then
      match s.draw with
      | none => ({ s with ev := { s.ev with nonce := none } } : State).emit (.readData who 0)
      | some (v, s) =>
        let n := v % 2 ^ 256
        let s : State := { s with ev := { s.ev with nonce := some (n, s.clk.cycles) } }
        (s.latch who ⟨.evtNonce, whoIdx who, 0, 0⟩ n).emit (.readData who (n % 2 ^ 64))
    else s.emit (.readData who 0)) s)

/-- NONCE_EXPIRY (R684): 60 s after it was drawn, a nonce is no longer current. -/
def execNonceExpiry (s : State) : Host.Outcome State Fault Refusal :=
  done [.clk, .ev] [] s (match s.ev.nonce with
    | none => s
    | some n =>
      when s.alive (fun s =>
        let s := s.waitCycle (n.2 + 60 * secCycles)
        { s with ev := { s.ev with nonce := none } }) s)

/-! ### EVENT_CLEAR (R684 to R686) -/

/-- The bytes that an EVENT_CLEAR signature covers. -/
def State.clearMessage (s : State) (nonce count : Nat) : Bytes :=
  ascii "TF9400 EVENT_CLEAR" ++ leBytes 32 nonce ++ padTo 16 s.ident.serial ++ leBytes 4 count

/-- SHA-384 of bytes. -/
def shaBytes (b : Bytes) : Nat := Config.sha384 (b.map fun x => x.toNat)

/-- OWNER_KEY_HASH of the option copy in use (R635, R653), as SHA-384 gives a digest. -/
def State.ownerHash (s : State) : Nat := ofBe (s.optBytes 80 48)

/-- The status of an EVENT_CLEAR's checks (R685 steps 1 to 4), or none when all hold. -/
def State.clearRefused (s : State) (nonce : Option Nat) (v : Bytes) (count : Nat) : Option Nat :=
  let h := shaBytes (v.take 96)
  firstStatus
    [(decide (s.ownerHash = 0) || decide (h ≠ s.ownerHash), stAccessDenied),
     (nonce.isNone, stNonceStale),
     (!(nonce.any fun n => Config.ecdsaVerify (ofBe (v.take 96)) (shaBytes (s.clearMessage n count)) (ofBe (slice v 96 96))), stIntegrityFail),
     (decide (count ≠ s.ev.log.length), stCondFalse)]

/-- The clear begins (R685 step 5). -/
def State.beginClear (s : State) (c : OpCtx) (signer : Bytes) : State :=
  let key := ofLe ((beBytes 48 (shaBytes signer)).take 8)
  let e : EvSt := { s.ev with clearing := some ⟨c.id, key, s.ev.log.length, s.ev.full⟩, log := [], isOpen := false, full := false }
  ({ s with ev := e } : State).counterEntry

/-- EVENT_CLEAR once it executes; whatever its outcome it withdraws the nonce. -/
def State.runEventClear (s : State) (c : OpCtx) : State :=
  let nonce := s.nonceNow
  let s : State := { s with ev := { s.ev with nonce := none } }
  let d := c.desc
  s.adminRun c true (adminBad d 60 || decide (d.vlen ≠ 192)) 0 fun s c =>
    let v := c.fx.value.take 192
    match s.clearRefused nonce v (param d 56 4) with
    | some st => s.fail c st
    | none => s.beginClear c (v.take 96)

/-- EVENT_CLEAR (R684, R685). -/
def execEventClear (f : Nat) (d : Desc) (x : Fetched) (s : State) : Host.Outcome State Fault Refusal :=
  done finishParts ringRegs s (s.adminArrive opEventClear f d x State.runEventClear)

/-- LOG_ERASE_DONE (R685 steps 6 and 7): LOG_CLEARED becomes record 0, the waiting records follow, and the command completes. -/
def execLogEraseDone (s : State) : Host.Outcome State Fault Refusal :=
  done (finishParts ++ [.cfl, .free]) (ringRegs ++ [.cflEccStat]) s (match s.ev.clearing with
    | none => s
    | some r =>
      when (s.alive && decide (s.power.pstate ≠ 3)) (fun s =>
        let now := s.opSeconds
        let x : EvRec := { kind := .logCleared, source := 0x11, cycle := s.ev.cycle, firstS := now, key := r.keyId,
                           data := r.records + s.ev.lost * 2 ^ 32, lastS := now }
        let e : EvSt := { s.ev with log := x :: s.ev.log, isOpen := s.ev.isOpen || s.ev.log.isEmpty, full := false, lost := 0, clearing := none }
        let s := (({ s with ev := e } : State).counterEntry).cflNext 2
        match s.kv.ctx? r.ctx with
        | none => s
        | some c => s.finish c { status := stOk, rlen := r.records } []) s)

end Sys2Proof.Machine
end

