-- ==== Sys2Proof/Machine/Objects.lean ====
section
/-!
DEFINITION. What state objects hold (R3, R690, R691, R695, R696). An object whose layout the spec gives is laid out by it. Of any other the spec
names the contents and leaves the places to the part's own LAYOUT: its fields stand where the entries of Config.layout say, in order.
-/

namespace Sys2Proof.Machine

open Sys2Proof.Config (LayoutField)

/-! ### LAYOUT and CATALOGUE (R691) -/

/-- A LAYOUT entry; `last` marks the last of its list. -/
def layoutBytes (f : LayoutField) (last : Bool) : Bytes :=
  padTo 10 (f.name.map fun c => BitVec.ofNat 8 c) ++ packLe 6 [(0, 16, f.word), (16, 8, f.msb), (24, 8, f.lsb), (32, 1, b2n f.signed), (33, 1, b2n f.zero), (34, 1, b2n last)]

/-- The entries of a field list. -/
def layoutList : List LayoutField → Bytes
  | [] => []
  | [f] => layoutBytes f true
  | f :: g :: l => layoutBytes f false ++ layoutList (g :: l)

/-- A field of a layout that the spec prints: name, lowest bit of the object, width. -/
def fieldOf (f : String × Nat × Nat) : LayoutField :=
  { name := f.1.toList.map fun c => c.toNat, word := f.2.1 / 64, lsb := f.2.1 % 64, msb := f.2.1 % 64 + f.2.2 - 1 }

/-- The fields of the objects whose layout the spec prints (R179, R182, R190, R193, R202, R381, R157, R675, R696). -/
def printedLayout : Nat → Nat → Option (List (String × Nat × Nat))
  | 0x01, 2 => some [("STAT", 0, 64), ("CTRL", 64, 32), ("COAL", 96, 32), ("SQ_BASE", 128, 64), ("CQ_BASE", 192, 64), ("SQ_TAIL_SE", 256, 32),
      ("CQ_HEAD_SE", 288, 32), ("PHASE", 320, 1), ("CHANGE_SEQ", 448, 64)]
  | 0x03, 1 => some [("GDEPTH", 0, 6), ("PRESENT", 6, 1), ("SEG_ADDR", 8, 56)]
  | 0x03, 4 => some [("KIND", 0, 8), ("LDEPTH", 8, 6), ("WARD", 32, 20), ("SEQ", 64, 64), ("BODY", 128, 320), ("CHECK", 448, 32)]
  | 0x04, 1 => some [("DIGEST", 0, 128), ("KIND", 128, 2), ("ENTRY", 130, 27), ("KSP", 157, 16), ("VALID", 192, 1), ("CLASS", 193, 6), ("PARITY", 199, 4)]
  | 0x05, 1 => some [("KIND", 0, 8), ("STATE", 8, 8), ("KSP", 16, 16), ("KLEN", 32, 16), ("ORIGIN", 48, 14), ("REPL_ACK", 62, 1), ("RESOLVED", 63, 1),
      ("STAMP", 64, 64), ("DLEN", 128, 32), ("VLEN", 160, 32), ("OFFSET", 192, 64), ("DIGEST", 256, 128), ("BATCH", 384, 32), ("CHECK", 416, 32), ("LOC", 448, 64)]
  | 0x0B, 2 => some [("OWNER", 0, 14), ("REP0", 14, 14), ("REP1", 28, 14), ("REP2", 42, 14), ("NREP", 56, 2), ("ASSIGNED", 58, 1), ("ORPHAN", 59, 1), ("TRANSFER", 60, 1)]
  | 0x0B, 4 => some [("KSP", 0, 16), ("TENANT", 16, 8), ("RF", 24, 8), ("KEY_SLOT", 32, 8), ("STATE", 40, 8), ("OBJECTS", 64, 64), ("BYTES", 128, 64),
      ("SALT", 192, 128), ("CREATED", 320, 64)]
  | 0x11, 2 => some [("CODE", 0, 16), ("SOURCE", 16, 8), ("SEVERITY", 24, 3), ("CYCLE", 32, 32), ("FIRST_S", 64, 32), ("KEY", 96, 96), ("DATA", 192, 64),
      ("LAST_S", 256, 32), ("REPEAT", 288, 16), ("REPEAT_UNK", 304, 1), ("CHECK", 480, 32)]
  | _, _ => none

/-- The field list of a type. -/
def layoutOf (b t : Nat) : List LayoutField := match printedLayout b t with | some l => l.map fieldOf | none => Config.layout b t

/-- Every event that the spec names. -/
def allEvents : List EvKind :=
  [.pdFailedStage, .setupDenied, .optEntryIgnored, .optFieldDefault, .optDegraded, .strapReserved, .refLost, .uncleanOff,
   .swapRefused, .swapFailed, .dbInvalid, .fetchError, .napExit, .resultPoisoned, .stagedDiscarded, .internalFault,
   .leafRebuildStart, .leafRebuildEnd, .adParity, .tunEntryBad, .tunSizeKept, .flushIncomplete, .replayDone,
   .trainStep, .lunExcluded, .fewChannels, .unrecoverable, .programFail, .eraseFail, .verifyFail, .parityLost, .rebuilt,
   .lunFailed, .readOnlySet, .spareWarn, .dramUncorrectable, .dramTrainFail,
   .bankChange, .linkDown, .parkStopped, .parkRecovery, .changeErr, .class7Refused, .wakeBad, .rekey, .sessionClosed,
   .termRound, .joinRefused, .wardsAbandoned, .noStandby, .memberFailed, .fenced,
   .ptpNoPort, .backwardIgnored, .timeFault, .timeLocked, .timeHoldover, .timePps, .timeUnsynced, .untrusted, .trusted, .floorSet,
   .keyIsolation, .keyLoadRefused, .keyDistRefused, .drbgFail, .sensorInvalid, .groupWarn, .groupTrip, .critHalt,
   .channelRestart, .channelFault, .driverFault, .chopFault, .overvoltage, .undervoltage, .busShort,
   .cflWarn, .cflUncorr, .cflVerifyFail, .cflBusFault,
   .pieceSlotFail, .confirmTimeoutBad, .bankRejected, .bankConfirmed, .trialExpired, .recoveryEntered, .start, .logCleared, .replayed]

/-- The texts of an event's catalogue entry: the recorder's events have the names of R676. -/
def catalogueTexts (k : EvKind) : Bytes × Bytes × Bytes :=
  let x := Config.catalogueText (evCode k)
  let txt := fun (l : List Nat) => l.map fun c => BitVec.ofNat 8 c
  let name := match k with | .start => ascii "START" | .logCleared => ascii "LOG_CLEARED" | .replayed => ascii "REPLAYED" | _ => txt x.1
  (name, txt x.2.1, txt x.2.2)

/-- A CATALOGUE entry. -/
def catalogueEntry (k : EvKind) : Bytes :=
  let (n, f, d) := catalogueTexts k
  packLe 4 [(0, 16, evCode k), (16, 3, evSeverity k)] ++ padTo 24 n ++ padTo 16 f ++ padTo 16 d ++ leBytes 4 0

/-- The catalogue of a block: its events. -/
def catalogueObj (b : Nat) : Bytes := (allEvents.filter fun k => evSource k == b).flatMap catalogueEntry

/-! ### Objects that the spec lays out -/

/-- CHANGE_SEQ of a block (R690). -/
def State.changeSeq (s : State) (b : Nat) : Nat := ((s.changes.find? fun x => x.1 == b).map fun x => x.2).getD 0

/-- RING (R696). -/
def State.ringObj (s : State) (f n : Nat) : Bytes :=
  let r := s.ring f n
  packLe 64 [(0, 64, s.reg (ringKey .hqRingStat_state f n)), (64, 32, s.reg (ringKey .hqRingCtrl_enable f n)), (96, 32, s.reg (ringKey .hqCoal_count f n)),
    (128, 64, s.reg (ringKey .hqSqBase_addr f n)), (192, 64, s.reg (ringKey .hqCqBase_addr f n)), (256, 32, r.tailSeen), (288, 32, r.headSeen),
    (320, 1, b2n r.phase), (448, 64, r.changeSeq)]

/-- A journal record (R190). -/
def journalBytes (r : JournalRec) : Bytes :=
  let body := match r.entry with
    | some e => leafEntryBytes e
    | none => if r.kind = 4 then padTo 40 (leBytes 8 r.a) else padTo 40 (leBytes 8 r.pfx ++ leBytes 8 r.a ++ leBytes 8 r.b)
  let h := packLe 16 [(0, 8, r.kind), (8, 6, r.ldepth), (32, 20, r.ward), (64, 64, r.seq)] ++ body
  h ++ leBytes 4 (crc32c h) ++ [0, 0, 0, 0]

/-- Parity of a number's bits. -/
def parity (n : Nat) : Nat := (Nat.digits 2 n).sum % 2

/-- An AD row (R193): even parity over each 64-bit third of the row in ascending order, then over the valid bit and the class tag. The spec gives
neither the polarity nor the order (DESIGN CHOICE, log entry 153). -/
def rowBytes (r : AdRow) : Bytes :=
  let w := packNat [(0, 2, b2n r.intent), (2, 27, r.entry), (29, 16, r.ksp)]
  let cls := r.digest / 2 ^ 64 % 64
  let par := packNat [(0, 1, parity (r.digest % 2 ^ 64)), (1, 1, parity (r.digest / 2 ^ 64 % 2 ^ 64)), (2, 1, parity w), (3, 1, (1 + parity cls) % 2)]
  packLe 32 [(0, 128, r.digest), (128, 64, w), (192, 1, 1), (193, 6, cls), (199, 4, par)]

/-- The header and key of a Tun entry (R202). -/
def entryBytes (e : TunEntry) : Bytes := padTo 1088 (entryHeader e ++ e.key)

/-- The segment pages in order of Ward, each as the segment's root and its first entry: 512 directory entries to a page (DESIGN CHOICE, log
entry 155). -/
def IndexSt.dirPages (x : IndexSt) : List (WardRoot × Nat) :=
  (sortBy (fun r => r.ward) x.roots).flatMap fun r => (List.range ((2 ^ r.gdepth + 511) / 512)).map fun k => (r, 512 * k)

/-- A page of directory entries. -/
def IndexSt.dirBytes (x : IndexSt) (p : WardRoot × Nat) : Bytes :=
  padTo 4096 ((List.range (min 512 (2 ^ p.1.gdepth - p.2))).flatMap fun k => leBytes 8 (x.dirEntry p.1 (p.2 + k)))

/-- A leaf of the cache as its codeword (R182): header, and the entries that its own 96 slots hold; the rest lie in its overflow leaves. -/
def leafBytes (l : Leaf) : Bytes := (leafChain l l.entries l.ovf).take 4096

/-- The descriptors of a ring that are prefetched and not yet dispatched (R127). -/
def State.prefetched (s : State) (f n : Nat) : List Desc :=
  (s.kv.ctxs.filter fun c => decide (c.src = .ring f n) && !c.ponr && decide (c.phase = .fetching ∨ c.phase = .held ∨ c.phase = .barrier ∨ c.phase = .counter)).map fun c => c.desc

/-- An object, or the part of one, whose bytes the spec gives in full. -/
def State.objPrinted (s : State) (b t i : Nat) : Option Bytes :=
  match b, t with
  | 0x01, 2 => some (s.ringObj (i / 65) (i % 65))
  | 0x01, 3 => some (padTo 4096 ((s.prefetched (i / 65) (i % 65)).flatMap descBytes))
  | 0x02, 3 => some (padTo 1024 (((s.kv.staged[i]?).map fun v => v.key).getD []))
  | 0x03, 1 =>
    match s.index.roots.find? fun r => r.ward == i with
    | some r => some (packLe 8 [(0, 6, r.gdepth), (6, 1, 1), (8, 56, Config.segmentAt r.ward r.gdepth)])
    | none => some (leBytes 8 0)
  | 0x03, 2 => some (((s.index.dirPages[i]?).map s.index.dirBytes).getD (leBytes 4096 0))
  | 0x03, 3 => some ((((s.index.leaves.filter fun l => l.cached)[i]?).map leafBytes).getD (leBytes 4096 0))
  | 0x03, 4 => some (((s.index.journal.find? fun r => r.seq % max 1 s.journalSlots == i).map journalBytes).getD (leBytes 64 0))
  | 0x04, 1 => some (((s.tun.rows.find? fun r => r.row == i).map rowBytes).getD (leBytes 32 0))
  | 0x04, 2 => some (((s.tun.rows.find? fun r => r.row == i).map fun r => slice (rowBytes r) 16 8).getD (leBytes 8 0))
  | 0x05, 1 => some (((s.tun.entries.find? fun e => e.id == i).map entryBytes).getD (leBytes 1088 0))
  | 0x06, 6 =>
    let bs := (s.media.sets.filter fun x => decide (x.state = .opened)).flatMap fun x => x.blocks.map fun b => (x.wseq, b)
    some (padTo 8192 (((bs[i]?).map fun x => (s.media.items.filter fun it => it.wseq == x.1 && (addrLun it.addr, addrBlk it.addr) == x.2
        && decide (it.kind = .value ∨ it.kind = .extents ∨ it.kind = .tombstone)).flatMap fun it => leafEntryBytes (entryOf (s.digest it.ksp it.key) it)).getD []))
  | 0x06, 5 => some (s.accumPart i)
  | 0x08, 2 => some (leBytes 8 (s.reg ⟨.netCrossList, i / 2048, i / 1024 % 2, i % 1024⟩))
  | 0x08, 5 => some (leBytes 160 (s.reg ⟨.netWakePat, i, 0, 0⟩))
  | 0x08, 6 => some (leBytes 32 (s.reg ⟨.netAddr, i / 16, i % 16, 0⟩))
  | 0x0B, 2 => some (wardBytes (s.wardEntry i))
  | 0x0B, 4 => some (((s.ksp? i).map s.kspRecord).getD (leBytes 64 0))
  | 0x10, 1 => some (caskHeader s.upd.written)
  | 0x10, 2 => some (s.bankRecord i)
  | 0x11, 2 => some ((((s.ev.log.filter fun r => !r.prog2)[i]?).map recBytes).getD (leBytes 64 0))
  | _, _ => none

/-! ### Objects under the part's own layout -/

/-- Lay fields (lowest bit, width, value) over a value. -/
def overlayFields (v : Nat) (fs : List (Nat × Nat × Nat)) : Nat := fs.foldl (fun v f => setBits v f.1 f.2.1 f.2.2) v

/-- HQ_FUNC_STAT as it reads (R165): the rings of the function's quota, and those that are not DISABLED. -/
def State.funcStatView (s : State) (f v : Nat) : Nat := overlayFields v [(0, 7, s.fget .hqQuota_rings f), (7, 7, s.activeRings f)]

/-- CIP_KP_SLOT_STAT as it reads (R537): BOUND and KEYSPACES of the keyspaces that name the slot. -/
def State.slotStatView (s : State) (t slot v : Nat) : Nat :=
  let l := s.kv.keyspaces.filter fun x => namesSlot t slot x
  overlayFields v [(2, 1, b2n (l.any fun x => x.kcv.isSome)), (8, 17, l.length)]

/-- An integer as a field. -/
def ofInt (v : Int) : Nat := ofSigned 64 v

/-- A byte string as a field. -/
def optN (o : Option Nat) : Nat := o.getD 0

/-- A phase, pool and the other states of the model as numbers, in the order of their declaration. -/
def poolNo : Pool → Nat | .host => 0 | .target => 1 | .town => 2 | .admin => 3 | .queue => 4
def lunNo : LunState → Nat | .absent => 0 | .accepted => 1 | .excluded => 2 | .foreign => 3 | .failed => 4 | .unused => 5
def blockNo : BlockState → Nat | .free => 0 | .inSet => 1 | .failing => 2 | .retiring => 3 | .erasing => 4 | .retired => 5 | .system => 6
def setNo : SetState → Nat | .opened => 0 | .full => 1 | .verified => 2 | .sparging => 3 | .failed => 4
def slotNo : SlotState → Nat | .free => 0 | .handshake => 1 | .opened => 2 | .closed => 3
def heardNo : Heard → Nat | .standing => 0 | .forward r => 4 * r + 1 | .backward r => 4 * r + 2 | .unclear => 3

/-- The fields of an object of the global block, the host, KV and index engines, the Tun and the media engine. -/
def State.fieldsA (s : State) (b t i : Nat) : List Nat :=
  match b, t with
  | 0x00, 1 => [s.power.resetType, s.power.resetCause]
  | 0x00, 2 => [s.power.pstate, b2n s.power.entry.isSome, optN (s.power.entry.map fun e => e.1)]
  | 0x01, 1 =>
    let x := s.fn i
    [s.reg ⟨.hqFuncCtrl, i, 0, 0⟩, s.funcStatView i (s.reg ⟨.hqFuncStat, i, 0, 0⟩), s.reg ⟨.hqSumAddr, i, 0, 0⟩, s.reg ⟨.hqDbBase, i, 0, 0⟩, x.intervalNs,
      b2n x.msixOn, b2n x.msixMask, (x.msixPba.map fun v => 2 ^ v).sum] ++ ((s.host.msix.filter fun m => m.1 == i).map fun m => m.2.2.2)
  | 0x02, 1 =>
    match s.kv.ctxs.find? fun c => c.id % 131072 == i with
    | none => []
    | some c =>
      let (f, n) := match c.src with | .ring f n => (f, n) | .sess k _ => (k, 0) | .town m => (m, 0)
      [f, n, c.gen, c.desc.tag, c.desc.opc, b2n c.ponr, poolNo c.pool, c.stamp]
  | 0x02, 2 => match s.kv.leases[i]? with | none => [] | some l => [l.stamp, l.tenant, l.expiry, b2n l.reserved]
  | 0x02, 3 => match s.kv.staged[i]? with | none => [] | some v => [v.handle, v.tenant, v.ksp, v.key.length, v.declared, v.last]
  | 0x03, 2 => match s.index.dirPages[i]? with | none => [] | some p => [p.1.ward, p.2]
  | 0x03, 3 => match (s.index.leaves.filter fun l => l.cached)[i]? with | none => [] | some l => [1, b2n l.dirty, l.changes, l.oldest, l.addr, l.writing, b2n l.rebuild]
  | 0x05, 2 =>
    let q := fun (k : Nat) => optN ((s.tun.slots[k]?).join.map fun (im : Image) => im.seq)
    [s.tun.slot, b2n s.tun.needed, s.tun.flushSeq, q 0, q 1, s.media.flushLuns * 96000 / 4096]
  | 0x06, 1 => match s.media.lun? i with | none => [] | some l => [lunNo l.state, optN ((s.media.rates.find? fun x => x.1 == i / 128).map fun x => x.2), l.suspends, b2n l.suspended, l.failBlks.length, l.timeouts]
  | 0x06, 2 => match s.media.block? (i / 262144) (i % 262144) with | none => [] | some x => [blockNo x.state, x.erases, x.wseq, x.epoch, x.summary]
  | 0x06, 3 => match s.media.sets[i]? with
    | none => []
    | some x => [setNo x.state, x.wseq, 16 * s.liveUnits x.wseq, x.blocks.length] ++ x.blocks.map fun y => mkAddr y.1 y.2 0 0 0
  | 0x06, 4 =>
    let ts := (s.media.sets.filter fun x => decide (x.state = .opened ∨ x.state = .full)).flatMap fun x =>
      ((List.range s.media.geom.pages).filter fun k => decide (k * (256 * s.media.geom.cwpp * x.blocks.length) < x.ptr) && !x.parity.contains k).map fun k => (x.wseq, k)
    match ts[i]? with | none => [] | some y => [y.1, y.2]
  | 0x06, 7 => match s.media.slots.find? fun x => x.epoch % 16 == i with | none => [] | some x => [x.epoch, x.readers, x.since]
  | 0x06, 8 => match (s.media.sets.filter fun x => x.urgent.isSome || (s.media.itemsOf x.wseq).any s.itemRetained)[i]? with | none => [] | some x => [x.wseq, optN x.urgent]
  | 0x06, 9 => match s.media.lun? i with | none => [] | some l => [s.freeOf l, l.spares]
  | 0x07, 1 => [s.reg ⟨.drmChStat, i, 0, 0⟩]
  | _, _ => []

/-- The fields of an object of the network, wire protocol, time and Town blocks. -/
def State.fieldsB (s : State) (b t i : Nat) : List Nat :=
  match b, t with
  | 0x08, 1 => let x := s.port i; [b2n x.link, x.bank, x.lanes, x.rxLanes, x.lost]
  | 0x08, 3 => let x := s.port i; [x.cw, x.rxCw, b2n x.stopped, x.seq, x.fails, optN (x.req.map fun r => r.seq)]
  | 0x08, 4 => let x := s.port i; [s.reg ⟨.netFwqBase, i, 0, 0⟩, s.reg ⟨.netFwqCtrl, i, 0, 0⟩, x.rxTail, x.txHead]
  | 0x09, 1 => match s.ywp.slots.find? fun x => x.n == i with
    | none => []
    | some x => [slotNo x.state, x.inc, x.peer, x.hop, x.peerSlot, x.peerInc, x.ver, x.tenant, x.identity, b2n x.member, b2n x.mgmt, x.gen, x.invoc, x.nextPsn, x.ackedTo,
        x.rxNext, x.srtt, x.rttvar, x.rto, x.cwnd, x.peerWindow, x.rxQueue, x.nextMsg, x.rxOpenFrom] ++ (x.tx.flatMap fun m => [m.msgId, m.body.length, m.sent, b2n m.ended])
        ++ (x.rx.flatMap fun m => [m.msgId, m.got, b2n m.ended]) ++ x.unacked.flatMap fun p => [p.psn, p.msgId, p.off, p.len, p.retx]
  | 0x09, 2 => match s.ywp.records[i]? with | none => [] | some r => [r.identity, r.tenant, r.reqNo, r.stamp, r.status, r.rlen, r.origin]
  | 0x09, 3 => match (s.ywp.slots.filter fun x => decide (x.state = .handshake))[i]? with | none => [] | some x => [x.n, x.inc, x.peer, x.hsRx, x.hsTx, x.since]
  | 0x0A, 1 => [s.time.state, b2n s.time.untrusted, ofInt s.time.m, s.time.a, (s.epsUnits).getD (2 ^ 64 - 1), ofInt s.time.integral, optN s.time.path]
  | 0x0A, 2 => match s.time.updates[i]? with | none => [] | some u => [ofInt u.1, u.2]
  | 0x0A, 3 => match s.time.foreign[i]? with | none => [] | some f => [f.clockId, f.priority1, f.cls, f.accuracy, f.variance, f.priority2, f.steps, f.last]
  | 0x0A, 4 => [s.kv.lastU, s.kv.lastK]
  | 0x0A, 5 => match s.kv.ctxs.find? fun c => c.id % 131072 == i with | none => [] | some c => if c.clock then [c.stamp, c.since] else []
  | 0x0B, 1 => match s.town.members.find? fun m => idOf m.handle == i with
    | none => []
    | some m => [m.handle, m.state, m.addr, m.port, m.domain, m.watchers.getD 0 0, m.watchers.getD 1 0, m.watchers.getD 2 0, m.luns, m.capacity]
  | 0x0B, 3 => match s.town.transfers[i]? with | none => [] | some x => [x.ward, b2n x.move, x.target]
  | 0x0B, 5 => [s.town.role, s.town.state, s.town.term, s.town.epoch, s.town.hall, s.town.standby, s.town.heartAt, optN s.leaseEnd]
      ++ s.watchers.flatMap fun w => [w, optN ((s.town.heard.find? fun h => h.1 == w).map fun h => h.2)]
  | 0x0B, 6 => match (s.kv.ctxs.filter fun c => !c.ponr && c.wards.any fun w => s.town.cuts.any fun x => x.1 == w)[i]? with | none => [] | some c => [c.id, c.desc.opc]
  | _, _ => []

/-- The fields of an object of the cipher, ledger, fan, code flash, update, recorder, clock and supervisor blocks. Key and session key values, V and
Key read 0 (R3). -/
def State.fieldsC (s : State) (b t i : Nat) : List Nat :=
  match b, t with
  | 0x0C, 1 => [s.slotStatView (i / 64) (i % 64) (s.reg ⟨.cipKpSlotStat, i / 64, i % 64, 0⟩), s.reg ⟨.cipKpUse, i / 64, i % 64, 0⟩]
  | 0x0C, 2 => [s.reg ⟨.cipLaneCtrl, 0, 0, 0⟩]
  | 0x0C, 3 => [((s.cip.sk.filter fun k => k.slot == i).map fun k => 2 ^ (4 * k.dir + k.pos)).sum]
  | 0x0C, 4 => [s.cip.requests, s.cip.failTimes.length, b2n s.cip.locked]
  | 0x0D, 1 => [ofInt (s.led.token i), s.led.cap i, (s.led.factors[i]?).getD 1000]
  | 0x0D, 2 => let ops := s.media.ops.filter fun o => o.rank == i && !o.issued; [ops.length, optN (ops.head?.map fun o => o.id), optN (ops.head?.map fun o => o.addr)]
  | 0x0D, 3 => match s.reservedOp with | none => [] | some o => [1, o.id, o.rank, o.addr]
  | 0x0D, 4 => [s.fget .ledTemp_temp i, s.fget .ledTemp_valid i]
  | 0x0D, 5 => [(s.led.factors[i]?).getD 1000, s.reg ⟨.ledThermStat, 0, 0, 0⟩]
  | 0x0E, 1 => let x := s.chan i; [x.angle, x.rpm, x.lastRpm, x.duty, x.ref, x.stepNo, x.st]
  | 0x0E, 2 => match (s.chan i).heard with | none => [] | some h => [heardNo h]
  | 0x0E, 3 => (s.chan i).pulses
  | 0x0E, 4 => s.drt.samples.flatMap fun x => [x.1, x.2]
  | 0x0F, 1 => match s.cfl.waiting.find? fun x => x.1 == i with | none => [] | some x => [x.2.1, x.2.2.array, x.2.2.mode, x.2.2.addr, x.2.2.len]
  | 0x0F, 2 =>
    let job := fun (o : Option CflJob) => match o with | none => [0, 0, 0, 0] | some j => [1, j.slot, j.op, j.suspends]
    job (s.cfl.running i) ++ job (s.cfl.suspended i)
  | 0x0F, 3 => s.reg ⟨.cflParamPtr, i, 0, 0⟩ :: (s.cfl.tags.filter fun x => x.bank == i).flatMap fun x => [x.phys, match x.logical with | none => 0 | some l => l + 1, x.seq]
  | 0x0F, 4 => (List.range 32).map fun n => ((List.range 32).map fun k => b2n (s.cfl.locked i (32 * n + k)) * 2 ^ k).sum
  | 0x10, 3 => [b2n s.upd.trial.isSome, s.remainS]
  | 0x11, 1 => (match s.ev.counter with | none => [0, 0, 0, 0, 0] | some c => [c.opS, c.cycle, c.lost, c.pending, optN c.clearing]) ++ [b2n s.ev.full, s.ev.lost, s.ev.log.length]
  | 0x12, 1 => [bitAt (s.fget .clkStat_domainLock) i |> b2n]
  | 0x13, 1 => match s.sup.cores.find? fun c => c.n == i with
    | none => [0]
    | some c => [1, c.entry, match c.trap with | none => 0 | some (.fetch, _) => 1 | some (.load, _) => 2 | some (.store, _) => 3, match c.trap with | none => 0 | some x => x.2]
      ++ [b2n s.sup.plic.cflDone, b2n s.sup.plic.event] ++ s.sup.plic.claimed ++ (s.sup.plic.prio ++ s.sup.plic.enable ++ s.sup.plic.threshold).flatMap fun x => [x.1, x.2]
  | _, _ => []

/-- Place field values under a field list, in order; write-only contents read 0 (R3, R688). -/
def placeFields (n : Nat) (fs : List LayoutField) (vs : List Nat) : Bytes :=
  packLe n ((fs.zip vs).map fun x => (64 * x.1.word + x.1.lsb, x.1.msb + 1 - x.1.lsb, if x.1.zero then 0 else x.2))

/-- The contents of an object of `n` bytes: what the spec lays out, behind or in place of the fields under the part's own layout. -/
def State.objBody (s : State) (b t i n : Nat) : Bytes :=
  let tail := (s.objPrinted b t i).getD []
  placeFields (n - tail.length) (Config.layout b t) (s.fieldsA b t i ++ s.fieldsB b t i ++ s.fieldsC b t i) ++ tail

end Sys2Proof.Machine
end

