-- ==== Sys2Proof/Machine/WindowOps.lean ====
section
/-!
DEFINITION. State objects (R687 to R695): the types and their instances, who may read an object, its size and bytes, and the state windows.
-/

namespace Sys2Proof.Machine

/-- The types of a block (R695): code, size in bytes, and whether a VF reads its own instances. -/
def objTypes : Nat → List (Nat × Nat × Bool)
  | 0x00 => [(1, 64, false), (2, 64, false)]
  | 0x01 => [(1, 64, true), (2, 64, true), (3, 4096, true)]
  | 0x02 => [(1, 64, true), (2, 32, true), (3, 1088, true)]
  | 0x03 => [(1, 8, false), (2, 4112, false), (3, 4160, false), (4, 64, false)]
  | 0x04 => [(1, 32, false), (2, 8, false)]
  | 0x05 => [(1, 1088, false), (2, 64, false)]
  | 0x06 => [(1, 128, false), (2, 32, false), (3, 256, false), (4, 64, false), (5, 4096, false), (6, 8192, false), (7, 16, false), (8, 16, false), (9, 32, false)]
  | 0x07 => [(1, 256, false)]
  | 0x08 => [(1, 128, false), (2, 8, false), (3, 64, false), (4, 64, false), (5, 160, false), (6, 32, false)]
  | 0x09 => [(1, 256, true), (2, 64, false), (3, 64, false)]
  | 0x0A => [(1, 128, false), (2, 32, false), (3, 64, false), (4, 16, false), (5, 16, false)]
  | 0x0B => [(1, 64, false), (2, 8, false), (3, 16, false), (4, 64, true), (5, 64, false), (6, 16, false)]
  | 0x0C => [(1, 64, true), (2, 16, false), (3, 16, false), (4, 32, false)]
  | 0x0D => [(1, 16, false), (2, 32, false), (3, 32, false), (4, 16, false), (5, 16, false)]
  | 0x0E => [(1, 64, false), (2, 64, false), (3, 64, false), (4, 256, false)]
  | 0x0F => [(1, 32, false), (2, 32, false), (3, 256, false), (4, 64, false)]
  | 0x10 => [(1, 4096, false), (2, 1024, false), (3, 16, false)]
  | 0x11 => [(1, 64, false), (2, 64, false)]
  | 0x12 => [(1, 16, false)]
  | 0x13 => [(1, 64, false)]
  | _ => []

/-- Instances of a block's type (R695). -/
def State.objCount (s : State) (b t : Nat) : Nat :=
  let pick := fun (l : List Nat) => l.getD (t - 1) 0
  if t = 0x00 ∨ t = 0xFE then 1
  else if t = 0xFD then (objTypes b).length
  else match b with
    | 0x00 => pick [1, 1]
    | 0x01 => pick [256, 16640, 16640]
    | 0x02 => pick [131072, 1024, 4096]
    | 0x03 => pick [1048576, 8388608, s.index.slots, s.journalSlots]
    | 0x04 => pick [1048576, 1048576]
    | 0x05 => pick [134217728, 1]
    | 0x06 => pick [8192, 2 ^ 31, Config.setSlots, 512, 4096, ((s.media.sets.filter fun x => decide (x.state = .opened)).map fun x => x.blocks.length).sum, 16, 65536, 8192]
    | 0x07 => pick [8]
    | 0x08 => pick [9, 16384, 8, 9, 32, 144]
    | 0x09 => pick [262144, 2097152, 1024]
    | 0x0A => pick [1, 64, 16, 8, 131072]
    | 0x0B => pick [16384, 1048576, 4096, 65536, 1, 4096]
    | 0x0C => pick [16384, 48, 262144, 1]
    | 0x0D => pick [3, 5, 1, 96, 8]
    | 0x0E => pick [12, 12, 12, 1]
    | 0x0F => pick [64, 3, 2, 3]
    | 0x10 => pick [1, 2, 1]
    | 0x11 => pick [1, 256]
    | 0x12 => pick [18]
    | 0x13 => pick [8]
    | _ => 0

/-- A type common to every block (R690). -/
def commonType (t : Nat) : Bool := t == 0x00 || t == 0xFD || t == 0xFE

/-- A type exists in a block. -/
def typeKnown (b t : Nat) : Bool := decide (b ≤ 0x13) && (commonType t || (objTypes b).any fun x => x.1 == t)

/-- A type that a VF may read (R689). -/
def typeOwn (b t : Nat) : Bool := commonType t || (objTypes b).any fun x => x.1 == t && x.2.2

/-- The contexts of the part in order, as instances. -/
def State.ctxAt (s : State) (i : Nat) : Option OpCtx := s.kv.ctxs.find? fun c => c.id % 131072 == i

/-- An instance belongs to function or tenant `f` (R689). -/
def State.instOwn (s : State) (b t i f : Nat) : Bool :=
  if commonType t then true
  else match b, t with
    | 0x01, 1 => i == f
    | 0x01, _ => i / 65 == f
    | 0x02, 1 => (s.ctxAt i).any fun c => c.tenant == f
    | 0x02, 2 => (s.kv.leases[i]?).any fun l => l.tenant == f
    | 0x02, _ => (s.kv.staged[i]?).any fun v => v.tenant == f
    | 0x09, _ => (s.ywp.slot? i).any fun x => decide (x.state ≠ .free) && x.tenant == f
    | 0x0B, _ => (s.ksp? i).any fun k => k.tenant == f
    | 0x0C, _ => i / 64 == f
    | _, _ => false

/-- STATUS of a selection (R699) in the window of `w`: function number, or 256 for the supervisor. -/
def State.objStatus (s : State) (w b t i : Nat) : Nat :=
  let vf := decide (w ≠ 0 ∧ w ≠ 256)
  if !typeKnown b t then 1
  else if vf && !typeOwn b t then 3
  else if s.objCount b t ≤ i then 2
  else if vf && !s.instOwn b t i w then 3
  else 0

/-! ### Contents -/

/-- HEAD (R690): CHANGE_SEQ, then the instance count of each type of R695 in a word of its own. -/
def State.headObj (s : State) (b : Nat) : Bytes :=
  leBytes 8 (s.changeSeq b) ++ (objTypes b).flatMap fun x => leBytes 8 (s.objCount b x.1)

/-- An object of a common type (R690). -/
def State.commonObj (s : State) (b t i : Nat) : Bytes :=
  if t = 0x00 then s.headObj b
  else if t = 0xFD then (layoutList (layoutOf b (((objTypes b).map fun x => x.1).getD i 0))).take 8192
  else (catalogueObj b).take 8192

/-- Size of an object in bytes. -/
def State.objSize (s : State) (b t i : Nat) : Nat :=
  if commonType t then (s.commonObj b t i).length
  else (((objTypes b).find? fun x => x.1 == t).map fun x => x.2.1).getD 0

/-- The bytes of an object at this instant. -/
def State.objBytes (s : State) (b t i : Nat) : Bytes := if commonType t then s.commonObj b t i else s.objBody b t i (s.objSize b t i)

/-! ### The window (R687 to R689, R697 to R700) -/

/-- The selection of a window: block, type, word, instance. -/
def State.stwSel (s : State) (w : Nat) : Nat × Nat × Nat × Nat :=
  (s.fget .stwSel_block w, s.fget .stwSel_type w, s.fget .stwSel_word w, s.fget .stwSel_instance w)

/-- STW_STAT. -/
def State.stwStat (s : State) (w : Nat) : Nat :=
  let (b, t, _, i) := s.stwSel w
  let st := s.objStatus w b t i
  packNat [(0, 3, st), (3, 1, b2n (s.winLatch.any fun l => l.fn == w)), (16, 11, if st = 0 then (s.objSize b t i + 7) / 8 else 0)]

/-- STW_DATA[n]: from the latch, or live. -/
def State.stwData (s : State) (w n : Nat) : Nat :=
  let (b, t, word, i) := s.stwSel w
  if s.objStatus w b t i ≠ 0 then 0
  else match s.winLatch.find? fun l => l.fn == w with
    | some l => l.words.getD (word + n) 0
    | none => fieldAt (s.objBytes b t i) (8 * (word + n)) 8

/-- The latch of a window takes the whole object. -/
def State.stwLatch (s : State) (w : Nat) : State :=
  let (b, t, word, i) := s.stwSel w
  if word ≠ 0 ∨ s.objStatus w b t i ≠ 0 ∨ s.winLatch.any (fun l => l.fn == w) then s
  else
    let x := s.objBytes b t i
    let l : WinLatch := { fn := w, size := x.length, words := (List.range ((x.length + 7) / 8)).map fun k => fieldAt x (8 * k) 8 }
    { s with winLatch := s.winLatch ++ [l] }

end Sys2Proof.Machine
end

