-- ==== Sys2Proof/Machine/WindowCmds.lean ====
section
/-!
DEFINITION. The state window's commands and STATE_DUMP (R687 to R694).
-/

namespace Sys2Proof.Machine

/-- A window whose selection has gone from `old` to another BLOCK, TYPE or INSTANCE drops its latch (R688). -/
def State.stwChanged (s : State) (w : Nat) (old : Nat × Nat × Nat × Nat) : State :=
  let new := s.stwSel w
  if old.1 = new.1 ∧ old.2.1 = new.2.1 ∧ old.2.2.2 = new.2.2.2 then s else { s with winLatch := s.winLatch.filter fun l => l.fn != w }

/-- STW_SELECT (R688, R698). -/
def execStwSelect (who : Requester) (v : Nat) (s : State) : Host.Outcome State Fault Refusal :=
  done [.winLatch] [.stwSel] s (when (s.windowOn who) (fun s =>
    let w := whoIdx who
    ((((s.fput .stwSel_block v w).fput .stwSel_type (bits v 8 8) w).fput .stwSel_word (bits v 16 10) w).fput .stwSel_instance (bits v 32 32) w).stwChanged w (s.stwSel w)) s)

/-- STW_LATCH (R688): STW_DATA[0] is read; at WORD 0 the whole object is latched. -/
def execStwLatch (who : Requester) (s : State) : Host.Outcome State Fault Refusal :=
  done [.winLatch, .out] [] s (when (s.windowOn who) (fun s =>
    let s := s.stwLatch (whoIdx who)
    s.emit (.readData who (s.stwData (whoIdx who) 0))) s)

/-! ### STATE_DUMP (R692 to R694) -/

/-- The instances of a type that a function may dump, as ranges [i, j). -/
def State.dumpRanges (s : State) (b t f first count : Nat) : List (Nat × Nat × Nat) :=
  let top := if count = 0 then s.objCount b t else min (first + count) (s.objCount b t)
  let cut := fun (i j : Nat) => let i := max first i; let j := min top j; if i < j then [(t, i, j)] else []
  let ones := fun (l : List Nat) => l.flatMap fun i => cut i (i + 1)
  let own := fun (α : Type) (l : List α) (p : α → Bool) => (List.range l.length).filter fun i => (l[i]?).any p
  if f = 0 ∨ commonType t then cut 0 top
  else match b, t with
    | 0x01, 1 => cut f (f + 1)
    | 0x01, _ => cut (65 * f) (65 * f + 65)
    | 0x02, 1 => ones (sortBy id ((s.kv.ctxs.filter fun c => c.tenant == f).map fun c => c.id % 131072))
    | 0x02, 2 => ones (own Lease s.kv.leases fun l => l.tenant == f)
    | 0x02, _ => ones (own Staged s.kv.staged fun v => v.tenant == f)
    | 0x09, _ => ones (sortBy id ((s.ywp.slots.filter fun x => decide (x.state ≠ .free) && x.tenant == f).map fun x => x.n))
    | 0x0B, _ => ones (sortBy id ((s.kv.keyspaces.filter fun k => k.tenant == f).map fun k => k.ksp))
    | 0x0C, _ => cut (64 * f) (64 * f + 64)
    | _, _ => []

/-- One object with its header (R693). -/
def State.dumpObj (s : State) (b t i : Nat) : Bytes :=
  let x := s.objBytes b t i
  packLe 16 [(0, 8, t), (32, 32, i), (64, 32, x.length)] ++ padMul 16 x

/-- Write whole objects while they fit in `cap` bytes: the bytes, their count, and where it stopped. -/
def State.dumpAll (s : State) (b : Nat) : Nat → Nat → List (Nat × Nat × Nat) → Bytes × Nat × Option (Nat × Nat)
  | 0, _, l => ([], 0, l.head?.map fun (x : Nat × Nat × Nat) => (x.1, x.2.1))
  | _, _, [] => ([], 0, none)
  | fuel + 1, cap, (t, i, j) :: l =>
    if j ≤ i then s.dumpAll b fuel cap l
    else
      let need := 16 + (s.objSize b t i + 15) / 16 * 16
      if cap < need then ([], 0, some (t, i))
      else
        let (r, n, e) := s.dumpAll b fuel (cap - need) ((t, i + 1, j) :: l)
        (s.dumpObj b t i ++ r, n + 1, e)

/-- The types a STATE_DUMP names that function `f` may read, in ascending order. -/
def dumpTypes (b t f : Nat) : List Nat :=
  if t ≠ 0xFF then [t] else ([0x00] ++ ((objTypes b).map fun (x : Nat × Nat × Bool) => x.1) ++ [0xFD, 0xFE]).filter fun x => decide (f = 0) || typeOwn b x

/-- STATE_DUMP runs. -/
def State.runStateDump (s : State) (c : OpCtx) : State :=
  let d := c.desc
  let b := param d 56 1
  let t := param d 57 1
  let bad := adminBad d 68 || decide (param d 58 2 ≠ 0) || decide (0x13 < b) || (decide (t ≠ 0xFF) && !typeKnown b t)
  let todo := (dumpTypes b t c.tenant).flatMap fun x => s.dumpRanges b x c.tenant (param d 60 4) (param d 64 4)
  let need := 64 + (match todo with | [] => 0 | x :: _ => 16 + (s.objSize b x.1 x.2.1 + 15) / 16 * 16)
  s.adminRun c false bad need fun s c =>
    if c.tenant ≠ 0 ∧ t ≠ 0xFF ∧ !typeOwn b t then s.fail c stAccessDenied
    else
      let q := s.changeSeq b
      let cap := sglLen (resultSgl d c.fx)
      let (x, n, stop) := s.dumpAll b (cap / 16 + todo.length) (cap - 64) todo
      let nt := (stop.map fun e => e.1).getD 0
      let ni := (stop.map fun e => e.2).getD 0
      let head := packLe 64 [(0, 32, 0x53544450), (32, 8, b), (40, 8, t), (48, 1, b2n stop.isNone), (64, 32, n), (96, 32, nt), (128, 32, ni), (192, 64, q), (256, 64, q)]
      s.finish c { status := if stop.isNone then stOk else stTruncated, rlen := 64 + x.length } [(0, head ++ x)]

/-- STATE_DUMP (R692). -/
def execStateDump (f : Nat) (d : Desc) (x : Fetched) (s : State) : Host.Outcome State Fault Refusal :=
  done finishParts ringRegs s (s.adminArrive opStateDump f d x State.runStateDump)

end Sys2Proof.Machine
end

