-- ==== Sys2Proof/Machine/AdminDispatch.lean ====
section
/-!
DEFINITION. OPERATION_DISPATCH (R21, R34, R151, R388): an operation that waits for its turn runs once nothing holds it.
-/

namespace Sys2Proof.Machine

/-- An admin command whose turn has come runs, by its opcode (R152); a data opcode or a code that R152 does not list is refused. -/
def State.runAdmin (s : State) (c : OpCtx) : State :=
  let o := c.desc.opc
  if o = opIdentify then s.runIdentify c
  else if o = opKspCreate then s.runKspCreate c
  else if o = opKspDelete then s.runKspDelete c
  else if o = opKspQuery then s.runKspQuery c
  else if o = opSetPower then s.runSetPower c
  else if o = opGetHealth then s.runGetHealth c
  else if o = opStateDump then s.runStateDump c
  else if o = opUpdChunk then State.runUpdateChunk [true, true, true] s c
  else if o = opUpdQuery then s.runUpdateQuery c
  else if o = opUpdConfirm then s.runUpdateConfirm c
  else if o = opTown then s.runTown c
  else if o = opLedgerSet then s.runLedgerSet c
  else if o = opEventClear then s.runEventClear c
  else s.fail c stOpcodeInvalid

/-- An admin command that waited for a session to the acting Hall is sent, or done here by a part that has become the acting Hall (R407,
R414). -/
def State.adminAgain (s : State) (c : OpCtx) : State :=
  let d := c.desc
  if d.opc ≠ opTown then s.kspTown c
  else if s.frozen then s.fail c stTownFrozen
  else if s.acting then s.runControl d (some c.id) none fun s st => match s.kv.ctx? c.id with | some c => s.fail c st | none => s
  else if s.reach s.town.hall then
    (s.sendTown (idOf s.town.hall) { tmsg := 0x10, arg0 := c.id, body := .command c.tenant d }).modCtx c.id fun e => { e with phase := .admin, since := s.clk.cycles, dest := s.town.hall }
  else s

/-- OPERATION_DISPATCH (R21, R33, R34, R151): a held operation is dispatched, a message of changes that waits is taken up; an operation that
waited for its owner is routed again, once the epoch that a MOVED answer named has been applied (R388). -/
def execOperationDispatch (id : Nat) (s : State) : Host.Outcome State Fault Refusal :=
  done (townParts ++ [.cfl, .upd, .free]) (ledRegs ++ townRegs ++ [.adErr, .cipDrbgStat, .kveIdxStat, .ptpWaitStat]) s (
    match s.kv.ctx? id with
    | none => s
    | some c => when s.serving (fun s =>
        if c.pool = .admin then
          (if c.phase = .held ∧ !s.adminBusy c then s.runAdmin c else if c.phase = .noOwner then s.adminAgain c else s)
        else if let some m := c.repl then s.takeAgain c m
        else if c.phase = .held then s.resume id
        else if c.phase = .noOwner ∧ c.minEpoch ≤ s.town.epoch then s.dispatch c
        else s) s)

end Sys2Proof.Machine
end

