-- ==== Sys2Proof/Machine/CflCmds.lean ====
section
/-!
DEFINITION. The commands of the code flash: one for each descriptor operation, the end of an operation, the execute interlock,
and supervisor reads and bus faults.
-/

namespace Sys2Proof.Machine

/-- PROGRAM (R628, R629): the controller reads it at HEAD. -/
def execProgram (d : CflDesc) (s : State) : Host.Outcome State Fault Refusal :=
  done [.cfl, .sup, .ev, .out, .free] [.cflEccStat, .cflQCtrl] s (s.cflDescriptor 1 d)

/-- ERASE_SECTOR (R628, R632). -/
def execEraseSector (d : CflDesc) (s : State) : Host.Outcome State Fault Refusal :=
  done [.cfl, .sup, .ev, .out, .free] [.cflEccStat, .cflQCtrl] s (s.cflDescriptor 2 d)

/-- ERASE_BANK (R628). -/
def execEraseBank (d : CflDesc) (s : State) : Host.Outcome State Fault Refusal :=
  done [.cfl, .sup, .ev, .out, .free] [.cflEccStat, .cflQCtrl] s (s.cflDescriptor 3 d)

/-- MARGIN_VERIFY (R628). -/
def execMarginVerify (d : CflDesc) (s : State) : Host.Outcome State Fault Refusal :=
  done [.cfl, .sup, .ev, .out, .free] [.cflEccStat, .cflQCtrl] s (s.cflDescriptor 4 d)

/-- ECC_STATUS (R628). -/
def execEccStatus (d : CflDesc) (s : State) : Host.Outcome State Fault Refusal :=
  done [.cfl, .sup, .ev, .out, .free] [.cflEccStat, .cflQCtrl] s (s.cflDescriptor 5 d)

/-- SUSPEND (R628, R630). -/
def execSuspend (d : CflDesc) (s : State) : Host.Outcome State Fault Refusal :=
  done [.cfl, .sup, .ev, .out, .free] [.cflEccStat, .cflQCtrl] s (s.cflDescriptor 6 d)

/-- RESUME (R628). -/
def execResume (d : CflDesc) (s : State) : Host.Outcome State Fault Refusal :=
  done [.cfl, .sup, .ev, .out, .free] [.cflEccStat, .cflQCtrl] s (s.cflDescriptor 7 d)

/-- SET_WP (R634). -/
def execSetWp (d : CflDesc) (s : State) : Host.Outcome State Fault Refusal :=
  done [.cfl, .sup, .ev, .out, .free] [.cflEccStat, .cflQCtrl] s (s.cflDescriptor 8 d)

/-- CFL_OPERATION_DONE (R625, R628): the operation that runs on an array ends, with its margin read-back passed or failed. -/
def execCflOperationDone (array : Nat) (pass : Bool) (us : Nat) (s : State) : Host.Outcome State Fault Refusal :=
  done [.clk, .cfl, .sup, .ev, .out, .free] [.cflEccStat, .cflParamPtr] s (when s.alive (fun s => s.cflEnd array pass us) s)

/-- One execute bit of a write to CFL_BANK_EXEC (R622). -/
def State.execBit (s : State) (v b : Nat) : State :=
  let old := s.reg ⟨.cflBankExec, 0, 0, 0⟩
  if bitAt v b && !bitAt old b then
    if (s.cfl.running b).isSome || (s.cfl.suspended b).isSome then s.fput .cflBankExec_setRefused 1
    else s.setReg ⟨.cflBankExec, 0, 0, 0⟩ (setBits old b 1 1)
  else s.setReg ⟨.cflBankExec, 0, 0, 0⟩ (setBits old b 1 (v / 2 ^ b))

/-- A write of CFL_BANK_EXEC (R622, R644). -/
def State.bankExec (s : State) (v : Nat) : State := ((if bitAt v 2 then s.fput .cflBankExec_setRefused 0 else s).execBit v 0).execBit v 1

/-- BANK_EXEC_WRITE (R622, R644). -/
def execBankExecWrite (v : Nat) (s : State) : Host.Outcome State Fault Refusal :=
  done [] [.cflBankExec] s (when (s.alive && decide (s.power.pstate ≠ 3)) (fun s => s.bankExec v) s)

/-- An access of a running core to the code flash that faults, or finds an uncorrectable chunk (R618, R620). -/
def State.coreFault (s : State) (core : Nat) (k : Access) (addr : Nat) (uncorr : Bool) : State :=
  match cflDecode addr with
  | none => s
  | some (a, off) =>
    if !s.coreRuns core then s
    else if s.busFaults k a off then s.busFault core k addr
    else if uncorr then (s.cflUncorr a off).busFault core k addr
    else s

/-- CFL_BUS_FAULT (R620). -/
def execCflBusFault (core : Nat) (kind : Access) (addr : Nat) (uncorr : Bool) (s : State) : Host.Outcome State Fault Refusal :=
  done [.sup, .ev, .out] [.cflEccStat] s (when (s.alive && decide (s.power.pstate ≠ 3)) (fun s => s.coreFault core kind addr uncorr) s)

/-- CODE_FLASH_READ (R618, R620): a load of the chunk at an address, with the bits corrected in it (more than 4: uncorrectable). -/
def execCodeFlashRead (core addr corrected : Nat) (s : State) : Host.Outcome State Fault Refusal :=
  done [.sup, .ev, .out] [.cflEccStat] s (when (s.alive && decide (s.power.pstate ≠ 3)) (fun s =>
    match cflDecode addr with
    | none => s
    | some (a, off) =>
      if !s.coreRuns core then s
      else if s.busFaults .load a off || decide (4 < corrected) then s.coreFault core .load addr (decide (4 < corrected))
      else
        let bs := s.cflRead a (off / 32 * 32) 32
        let s := if s.fget .cflEccCtrl_warnBits ≤ corrected then s.cflWarn a off 1 else s
        s.emit (.codeRead core addr bs)) s)

end Sys2Proof.Machine
end

