-- ==== Sys2Proof/Machine/DraughtCmds.lean ====
section
/-!
DEFINITION. The commands of the Draught channels and the fan bus (R582 to R604).
-/

namespace Sys2Proof.Machine

/-- Do something with a channel while the channels run. -/
def State.onChan (s : State) (c : Nat) (g : Chan → State → State) : State := when (s.drtOn && decide (c < 12)) (fun s => g (s.chan c) s) s

/-- The measured back-EMF is plausible at a speed (R596): within BEMF_TOL_PCT of KE × speed / 1,000. -/
def State.bemfOk (s : State) (c rpm mv : Nat) : Bool :=
  let want := s.fget .drtMotor_ke c * rpm
  let got := mv * 1000
  decide (((got - want) + (want - got)) * 100 ≤ s.fget .drtMotor_bemfTolPct c * want)

/-- R586. -/
def State.overcurrent (s : State) (c ma : Nat) : Bool := decide (3 * s.fget .drtChLimit_iLimitMa c < 2 * ma)

/-- The speed changes by more than JUMP_PM within an electrical period (R596). -/
def State.jumped (s : State) (c old new : Nat) : Bool := decide (0 < old ∧ s.fget .drtMotor_jumpPm c * old < ((new - old) + (old - new)) * 1000)

/-- The speed reference after a PWM period of `n` clock cycles (R592, R594): toward the target at ACCEL, DECEL or the ramp's
rate. -/
def State.refNext (s : State) (x : Chan) (n : Nat) : Nat :=
  let goal := (if x.st = 6 then 0 else x.target) * secCycles
  if x.st = 4 then x.ref + s.fget .drtChStart_rampRpmS x.c * n
  else if x.ref < goal then min goal (x.ref + s.fget .drtChLimit_accelRpmS x.c * n)
  else max goal (x.ref - s.fget .drtChLimit_decelRpmS x.c * n)

/-- The loops of a driven channel in one period: the speed and power sampled, the reference, the duty (a free value: the loops'
gains come from no register), LIMITED, and short braking in place of regeneration while SHORT_ONLY is set (R584, R589,
R594, R595). -/
def State.chanLoop (s : State) (x : Chan) (m : PwmSample) : State :=
  let n := 3 * pwmCounts (bits (s.pwmOf x.c) 0 7)
  let ref := s.refNext x n
  let slowing := decide (x.st ≠ 4 ∧ (if x.st = 6 then 0 else x.target) * secCycles < x.ref)
  let regen := slowing || decide (m.powerDw < 0)
  let short := x.shortOnly && regen
  let r := s.fresh
  let bad := if m.periodEnd then (if s.bemfOk x.c m.rpm m.bemfMv then 0 else x.bemfBad + 1) else x.bemfBad
  let y : Chan :=
    { x with rpm := m.rpm % 32768, powerDw := min 65535 m.powerDw.toNat, ref := ref, regen := regen, short := short, bemfBad := bad,
             drive := if short then .zero else driveOf x.c x.stepNo, duty := r.1 % (pwmCounts (bits (s.pwmOf x.c) 0 7) + 1),
             limited := m.atLimit && decide (m.rpm * 100 < 98 * x.target), lastRpm := if m.periodEnd then m.rpm else x.lastRpm,
             pwm := s.reg ⟨.drtChPwm, x.c, 0, 0⟩ }
  (r.2.modChan x.c fun _ => y)

/-- PWM_PERIOD (R580, R584, R585, R592 to R596): one period of a channel in BRAKE, RAMP, RUN or STOPPING; in other states only
the modulation settings take effect. -/
def execPwmPeriod (c : Nat) (m : PwmSample) (s : State) : Host.Outcome State Fault Refusal :=
  done [.drt, .sup, .ev, .free] [] s (s.onChan c fun x s =>
    if x.st = 2 then
      let s := s.modChan c fun x => { x with rpm := m.rpm % 32768, pwm := s.reg ⟨.drtChPwm, c, 0, 0⟩ }
      if s.overcurrent c m.ma then s.loseSync c else if m.rpm < 300 then s.chanTo c 3 .pulses else s
    else if 4 ≤ x.st ∧ x.st ≤ 6 then
      if s.overcurrent c m.ma then s.loseSync c
      else
        let t := s.chanLoop x m
        let y := t.chan c
        if (m.periodEnd && s.jumped c x.lastRpm m.rpm) || decide (3 ≤ y.bemfBad) || (m.missedZc && !mainChan c) then t.loseSync c
        else if x.st = 4 ∧ s.fget .drtChStart_handoffRpm c ≤ m.rpm ∧ s.bemfOk c m.rpm m.bemfMv then t.chanRun c m.rpm
        else if x.st = 6 ∧ m.rpm ≤ 300 then (t.chanTo c 0 .off).modChan c fun x => { x with rpm := m.rpm }
        else t
    else s.modChan c fun x => { x with pwm := s.reg ⟨.drtChPwm, c, 0, 0⟩ })

/-- COMMUTATION (R582): 30 − ADVANCE_DEG degrees after a zero crossing, timed from the last step of `stepCycles`, a plain
channel takes its next step; the order of steps is reversed by REVERSE. -/
def execCommutation (c stepCycles : Nat) (s : State) : Host.Outcome State Fault Refusal :=
  done [.clk, .drt] [] s (s.onChan c fun x s =>
    if mainChan c ∨ !(decide (x.st = 5 ∨ x.st = 6)) then s
    else
      let adv := bits (s.pwmOf c) 24 6
      let s := s.tickN (stepCycles * (30 - adv) / 60)
      let k := if s.flag .drtChCtrl_reverse c then (x.stepNo + 5) % 6 else (x.stepNo + 1) % 6
      s.modChan c fun x => { x with stepNo := k, drive := if x.short then .zero else .step k })

/-- OVERCURRENT_TRIP (R586): handled as a loss of synchronism. -/
def execOvercurrentTrip (c ma : Nat) (s : State) : Host.Outcome State Fault Refusal :=
  done [.drt, .sup, .ev] [] s (s.onChan c fun x s => if 2 ≤ x.st ∧ x.st ≤ 6 ∧ s.overcurrent c ma then s.loseSync c else s)

/-- LISTEN_END (R588): the start decision table, 20 ms after LISTEN began. -/
def execListenEnd (c : Nat) (h : Heard) (s : State) : Host.Outcome State Fault Refusal :=
  done [.clk, .drt] [] s (s.onChan c fun x s =>
    if x.st ≠ 1 then s
    else
      let s := s.waitCycle (x.since + 20 * msCycles)
      let back := match h with | .backward _ | .unclear => true | _ => false
      let s := s.modChan c fun x => { x with heard := some h, dirSeen := back }
      match h with
      | .standing => (s.chanTo c 3 .pulses).modChan c fun x => { x with rpm := 0, repeated := false }
      | .forward r =>
        if s.fget .drtChCfg_catchRpm c ≤ r then s.chanRun c r
        else (s.chanTo c 3 .pulses).modChan c fun x => { x with rpm := r, repeated := false }
      | .backward r => (s.chanTo c 2 .zero).modChan c fun x => { x with rpm := r, repeated := false }
      | .unclear => (s.chanTo c 2 .zero).modChan c fun x => { x with repeated := false })

/-- BRAKE_TIMEOUT (R587). -/
def execBrakeTimeout (c : Nat) (s : State) : Host.Outcome State Fault Refusal :=
  done [.clk, .drt, .sup, .ev] [] s (s.onChan c fun x s =>
    if x.st ≠ 2 then s
    else (((s.waitCycle (x.since + 10 * secCycles)).chanTo c 8 .off).modChan c fun x => { x with cause := 2 }).report .channelFault c 2)

/-- DETECT_DONE (R591): the direction of the greatest of the 12 peak currents is the rotor's; contrast below 5 % repeats the set
once, and then counts as a loss of synchronism. -/
def execDetectDone (c : Nat) (peaks : List Nat) (s : State) : Host.Outcome State Fault Refusal :=
  done [.drt, .sup, .ev] [] s (s.onChan c fun x s =>
    if x.st ≠ 3 ∨ peaks.length ≠ 12 then s
    else
      let hi := peaks.foldl max 0
      let lo := minOf 0 peaks
      let s := s.modChan c fun x => { x with pulses := peaks }
      if (hi - lo) * 100 < 5 * hi ∨ hi = 0 then
        if x.repeated then s.loseSync c else s.modChan c fun x => { x with repeated := true }
      else
        let k := peaks.findIdx fun p => p == hi
        (s.chanTo c 4 (driveOf c (k / 2))).modChan c fun x => { x with angle := 30 * k, stepNo := k / 2, ref := 0, lastRpm := 0 })

/-- RAMP_TIMEOUT (R592). -/
def execRampTimeout (c : Nat) (s : State) : Host.Outcome State Fault Refusal :=
  done [.clk, .drt, .sup, .ev] [] s (s.onChan c fun x s => if x.st ≠ 4 then s else (s.waitCycle (x.since + s.fget .drtChStart_startLimit c * 100 * msCycles)).loseSync c)

/-- COAST_END (R587): after 50 ms of COAST, unless something holds the channels. -/
def execCoastEnd (c : Nat) (s : State) : Host.Outcome State Fault Refusal :=
  done [.clk, .drt] [] s (s.onChan c fun x s => if x.st ≠ 7 ∨ s.chanHeld then s else (s.waitCycle (x.since + 50 * msCycles)).chanTo c 1 .off)

/-- RUN_STABLE (R587): RESTARTS returns to 0 after 10 s of RUN. -/
def execRunStable (c : Nat) (s : State) : Host.Outcome State Fault Refusal :=
  done [.clk, .drt] [] s (s.onChan c fun x s => if x.st ≠ 5 then s else (s.waitCycle (x.since + 10 * secCycles)).modChan c fun x => { x with restarts := 0 })

/-- DRIVER_FAULT (R597): DRT_FLT_N falls. -/
def execDriverFault (s : State) : Host.Outcome State Fault Refusal :=
  done [.drt, .sup, .ev] [] s (when (s.drtOn && !s.drt.fault) (fun s => ({ s with drt := { s.drt with fault := true } }.coastAll true).report .driverFault) s)

/-- DRIVER_FAULT_CLEAR (R597): DRT_FLT_N has been high for 100 ms. -/
def execDriverFaultClear (s : State) : Host.Outcome State Fault Refusal :=
  done [.drt, .sup, .ev] [] s (when (s.drtOn && s.drt.fault) (fun s =>
    let s := { s with drt := { s.drt with fault := false } }
    (s.drt.chans.filter fun x => x.stopped).foldl (fun s x =>
      let s := s.modChan x.c fun x => { x with stopped := false }
      if 3 ≤ x.restarts then ((s.chanTo x.c 8 .off).modChan x.c fun x => { x with cause := 1 }).report .channelFault x.c 1
      else ((s.chanTo x.c 1 .off).modChan x.c fun x => { x with restarts := x.restarts + 1 }).report .channelRestart x.c) s) s)

/-! ### The fan bus (R598 to R601) -/

/-- The chopper is faulty (R599): CHOP_G at 0, SHORT_ONLY everywhere, and every channel that is slowing brakes short. -/
def State.chopFaulty (s : State) : State :=
  let cs : List Chan := s.drt.chans.map fun (x : Chan) => { x with shortOnly := true }
  let s : State := { s with drt := { s.drt with chopFault := true, chopOn := false, chans := cs } }
  let s := s.report .chopFault
  (s.drt.chans.filter fun x => x.regen && decide (x.st = 5 ∨ x.st = 6)).foldl (fun s x =>
    (s.modChan x.c fun x => { x with short := true, drive := .zero, powerDw := 0 }).report .busShort x.c) s

/-- V_CHOP_MV − CHOP_HYST. -/
def State.chopLow (s : State) : Nat := s.fget .drtBusCfg_vChopMv - 100 * s.fget .drtBusCfg_chopHyst

/-- The chopper follows a sample (R598, R599). -/
def State.chopSample (s : State) (mv ma : Nat) : State :=
  let v := s.fget .drtBusCfg_vChopMv
  if s.drt.chopFault then s
  else if s.drt.chopOn then
    let s := { s with drt := { s.drt with samples := (s.drt.samples ++ [(mv, ma)]).take 200 } }
    if v + 3000 < mv ∧ s.clk.cycles ≤ s.drt.chopAt + 200 * usCycles then s.chopFaulty
    else if mv < s.chopLow then { s with drt := { s.drt with chopOn := false } } else s
  else if v ≤ mv then { s with drt := { s.drt with chopOn := true, chopAt := s.clk.cycles, chopTested := false, samples := [] } }
  else s

/-- Overvoltage (R600). -/
def State.ovSample (s : State) (mv : Nat) : State :=
  let n := if s.fget .drtBusCfg_vAbsMv < mv then s.drt.ovRun + 1 else 0
  let s := { s with drt := { s.drt with ovRun := n } }
  if 2 ≤ n ∧ !s.drt.ov then ({ s with drt := { s.drt with ov := true } }.coastAll false).report .overvoltage mv
  else if s.drt.ov ∧ mv < s.chopLow then { s with drt := { s.drt with ov := false } }.relisten
  else s

/-- Undervoltage (R601). -/
def State.uvSample (s : State) (mv : Nat) : State :=
  if mv < s.fget .drtBusCfg_vUvMv ∧ !s.drt.uv then ({ s with drt := { s.drt with uv := true } }.coastAll false).report .undervoltage mv
  else if s.drt.uv ∧ s.fget .drtBusCfg_vUvMv + 1000 < mv then { s with drt := { s.drt with uv := false } }.relisten
  else s

/-- FBUS_SAMPLE (R598 to R601): every 1 µs. -/
def execFbusSample (mv ma : Nat) (s : State) : Host.Outcome State Fault Refusal :=
  done [.clk, .drt, .sup, .ev] [.drtBusStat] s (when s.drtOn (fun s =>
    let s := s.waitCycle ((s.clk.cycles / usCycles + 1) * usCycles)
    let s := (s.fput .drtBusStat_vbusMv (min mv 65535)).fput .drtBusStat_chopMa (min ma 65535)
    ((s.chopSample mv ma).ovSample mv).uvSample mv) s)

/-- The mean current of every 10 µs interval from 10 µs to 100 µs after chopper-on is below 20 % of V / R_CHOP (R598, R599). -/
def State.chopWeak (s : State) : Bool :=
  (List.range 9).all fun k =>
    let l := (s.drt.samples.drop (10 * (k + 1))).take 10
    decide (l.length = 10 ∧ (l.map fun x => x.2).sum * 5 * s.fget .drtBusCfg_rChop < (l.map fun x => x.1).sum * 10)

/-- CHOPPER_TEST_END (R599): 100 µs after chopper-on. -/
def execChopperTestEnd (s : State) : Host.Outcome State Fault Refusal :=
  done [.clk, .drt, .sup, .ev] [] s (when (s.drtOn && s.drt.chopOn && !s.drt.chopTested) (fun s =>
    let s := s.waitCycle (s.drt.chopAt + 100 * usCycles)
    let s := { s with drt := { s.drt with chopTested := true } }
    if s.chopWeak then s.chopFaulty else s) s)

/-- CHANNEL_CLEAR (R604). -/
def execChannelClear (c : Nat) (s : State) : Host.Outcome State Fault Refusal :=
  done [.drt] [] s (s.onChan c fun _ s => s.chanClear c)

/-- CURVE_APPLY (R593, R604). -/
def execCurveApply (c : Nat) (s : State) : Host.Outcome State Fault Refusal :=
  done [.drt] [.drtChStat] s (s.onChan c fun _ s => s.curveApply c)

/-- CLEAR_CHOP (R614). -/
def execClearChop (s : State) : Host.Outcome State Fault Refusal :=
  done [.drt] [] s (when s.drtOn (fun s => s.clearChop) s)

end Sys2Proof.Machine
end

