-- ==== Sys2Proof/Machine/HostCmds.lean ====
section
/-!
DEFINITION. The host engine's commands: summary and doorbell polling (R118 to R128), fetching (R127, R134), enabling and
resetting rings (R142 to R149, R170), interrupt coalescing (R141) and the VFs (R112).
-/

namespace Sys2Proof.Machine

/-! ### Poll intervals and the read budget (R119, R121, R122, R124) -/

/-- Cycles of an interval given in ns. -/
def cyclesOfNs (ns : Nat) : Nat := ns * 3 / 5

/-- The next poll interval: 250 ns after news, else twice as long up to POLL_MAX_US. -/
def State.nextInterval (s : State) (f now : Nat) (news : Bool) : Nat :=
  if news then 250 else min (2 * now) (s.fget .hqFuncCtrl_pollMaxUs f * 1000)

/-- The reads of the budget issued in the present microsecond (R122). -/
def State.readsNow (s : State) : List Nat := s.host.reads.filter fun c => decide (c / usCycles = s.clk.cycles / usCycles)

/-- The latest run of microseconds with a spent budget, once that of microsecond `u` is spent. -/
def spentNext (p : Option (Nat × Nat)) (u : Nat) : Option (Nat × Nat) :=
  match p with
  | some (a, b) => if u ≤ b + 1 then some (a, u) else some (u, u)
  | none => some (u, u)

/-- A poll that fell due at cycle `due` is late (R122): the budget is spent now, or it was when the poll fell due. -/
def State.pollLate (s : State) (due : Nat) : Bool :=
  decide (s.fget .hqPollCtrl_budgetM ≤ s.readsNow.length)
    || s.host.spent.any fun r => decide (r.1 ≤ due / usCycles ∧ due / usCycles ≤ r.2 ∧ due / usCycles < s.clk.cycles / usCycles)

/-- Issue one read of the budget of R122: in a microsecond whose budget is spent the read is issued in the next. `poll` is the cycle at which a
poll fell due; a poll issued late is counted. The reads that R119 and the summary bits add share the budget and are no polls (DEDUCED, log
entry 161). -/
def State.budgetRead (s : State) (poll : Option Nat) : State :=
  let late := poll.any s.pollLate
  let s := if s.fget .hqPollCtrl_budgetM ≤ s.readsNow.length then s.waitCycle ((s.clk.cycles / usCycles + 1) * usCycles) else s
  let s := if late then s.fadd .hqPollStat_late 1 else s
  let rs := s.readsNow ++ [s.clk.cycles]
  { s with host := { s.host with reads := rs, spent := if s.fget .hqPollCtrl_budgetM ≤ rs.length then spentNext s.host.spent (s.clk.cycles / usCycles) else s.host.spent } }

/-- The host address of a doorbell record (R114): the admin ring's record lies at 0x400. -/
def State.dbAddr (s : State) (f n : Nat) : Nat := s.fget .hqDbBase_addr f * 4096 + 16 * n

/-- Read a ring's doorbell record. -/
def State.readDb (s : State) (f n : Nat) : State :=
  (s.emit (.memRead f (s.dbAddr f n) 16)).modRing f n fun r => { r with reading := r.reading + 1 }

/-- A function's polling is on (R120, R164). -/
def State.polls (s : State) (f mode : Nat) : Bool :=
  s.hostOn && s.funcExists f && s.flag .hqFuncCtrl_enable f && decide (s.fget .hqFuncCtrl_pollMode f = mode)

/-- A poll falls due before cycle `t` (R122): of a function's summary word, or of a ring's record in the fallback mode. -/
def State.pollBefore (s : State) (t : Nat) : Bool :=
  ((List.range (s.host.vfs + 1)).any fun f =>
      s.polls f 0 && !s.flag .hqFuncStat_swapUr f && !s.flag .hqFuncStat_swapErr f && !(s.fn f).swapOut && decide ((s.fn f).due < t))
    || s.host.rings.any fun r => s.polls r.f 1 && decide (r.n < 64 ∧ s.ringState r.f r.n = 1 ∧ r.reading = 0 ∧ r.due < t)

/-! ### Reset requests (R142) -/

/-- A reset request with a cause (R172): only an ACTIVE ring takes one. Of two requests before the first is taken, CAUSE keeps the first
(DESIGN CHOICE, log entry 139). -/
def State.askReset (s : State) (f n cause : Nat) : State :=
  if s.ringState f n = 1 then s.modRing f n fun r => { r with resetReq := some (r.resetReq.getD cause) } else s

/-! ### Polling -/

/-- SUMMARY_POLL (R120 to R122): a Swap of 0 into the summary word, when no other poll falls due earlier. -/
def execSummaryPoll (f : Nat) (s : State) : Host.Outcome State Fault Refusal :=
  done [.clk, .host, .out] [.hqPollStat] s (when (s.polls f 0 && !s.flag .hqFuncStat_swapUr f && !s.flag .hqFuncStat_swapErr f && !(s.fn f).swapOut && !s.pollBefore (s.fn f).due) (fun s =>
    (((s.waitCycle (s.fn f).due).budgetRead (some (s.fn f).due)).emit (.swap f (s.fget .hqSumAddr_addr f * 8))).modFn f fun x => { x with swapOut := true }) s)

/-- SWAP_RETURN (R120, R121, R125): the returned bits name the rings whose doorbell records are read, on the budget (R119). A failed Swap leaves the interval and
the due cycle as they are (DESIGN CHOICE, log entry 140). -/
def execSwapReturn (f : Nat) (r : SwapResult) (s : State) : Host.Outcome State Fault Refusal :=
  done [.clk, .host, .sup, .ev, .out] [.hqFuncStat] s (when (s.hostOn && (s.fn f).swapOut) (fun s =>
    let s := s.modFn f fun x => { x with swapOut := false }
    match r with
    | .value v =>
      let i := s.nextInterval f (s.fn f).intervalNs (decide (v ≠ 0))
      let s := s.modFn f fun x => { x with intervalNs := i, due := s.clk.cycles + cyclesOfNs i }
      ((List.range 64).filter fun n => bitAt v n && decide (s.ringState f n = 1)).foldl (fun s n => (s.budgetRead none).readDb f n) s
    | .refused => (s.fput .hqFuncStat_swapUr 1 f).report .swapRefused f
    | .failed => (s.fput .hqFuncStat_swapErr 1 f).report .swapFailed f) s)

/-- DOORBELL_POLL (R124): in the fallback mode a ring's record is read when its interval ends. -/
def execDoorbellPoll (f n : Nat) (s : State) : Host.Outcome State Fault Refusal :=
  done [.clk, .host, .out] [.hqPollStat] s (when (s.polls f 1 && decide (n < 64) && decide (s.ringState f n = 1 ∧ (s.ring f n).reading = 0) && !s.pollBefore (s.ring f n).due)
    (fun s => (((s.waitCycle (s.ring f n).due).budgetRead (some (s.ring f n).due)).readDb f n).modRing f n fun r => { r with polled := true }) s)

/-- A ring has descriptors to fetch and waits for completion room (R119). -/
def State.waitsRoom (s : State) (f n : Nat) : Bool := (s.ring f n).pendingFetch && !s.cqRoom f n

/-- DOORBELL_READ_DONE (R119, R123, R124, R128): the tail and head are taken, or are invalid. Of a ring whose record was polled a changed SQ_TAIL is news
(R124); while it waits for room, a changed CQ_HEAD is (R119). -/
def execDoorbellReadDone (f n tail head : Nat) (s : State) : Host.Outcome State Fault Refusal :=
  done [.host, .sup, .ev] [] s (when (s.hostOn && decide (0 < (s.ring f n).reading)) (fun s =>
    let r := s.ring f n
    let waited := s.waitsRoom f n
    let s := s.modRing f n fun r => { r with reading := r.reading - 1, polled := false }
    if s.ringState f n ≠ 1 then s
    else if s.ringN f n ≤ tail ∨ s.ringN f n ≤ head then (s.askReset f n 2).report .dbInvalid (f * 128 + n)
    else
      let s := s.modRing f n fun r => { r with tailSeen := tail, headSeen := head, pendingFetch := decide (tail ≠ s.rg f n .hqRingStat_sqHead) }
      let s := if r.polled && s.polls f 1 then
          let i := s.nextInterval f r.intervalNs (decide (tail ≠ r.tailSeen))
          s.modRing f n fun r => { r with intervalNs := i, due := s.clk.cycles + cyclesOfNs i }
        else s
      if s.waitsRoom f n then
        let i := s.nextInterval f r.roomNs (!waited || decide (head ≠ r.headSeen))
        s.modRing f n fun r => { r with roomNs := i, roomDue := s.clk.cycles + cyclesOfNs i }
      else s) s)

/-- CQ_HEAD_REREAD (R119): the record of a ring that waits for room is read again. -/
def execCqHeadReread (f n : Nat) (s : State) : Host.Outcome State Fault Refusal :=
  done [.clk, .host, .out] [] s (when (s.hostOn && decide (s.ringState f n = 1) && s.waitsRoom f n && decide ((s.ring f n).reading = 0))
    (fun s => ((s.waitCycle (s.ring f n).roomDue).budgetRead none).readDb f n) s)

/-- A function has doorbell records (R114): its HQ_DB_BASE is not 0. That the admin record of a function without them is not read is a DESIGN
CHOICE (log entry 33). -/
def State.hasDb (s : State) (f : Nat) : Bool := s.funcExists f && decide (s.fget .hqDbBase_addr f ≠ 0)

/-- ADMIN_DOORBELL_POLL (R126): every 100 µs the admin record of every enabled function, whatever the state of its admin ring. -/
def execAdminDoorbellPoll (s : State) : Host.Outcome State Fault Refusal :=
  done [.clk, .host, .out] [] s (when s.hostOn (fun s =>
    let s := s.waitCycle ((s.clk.cycles / 60000 + 1) * 60000)
    ((List.range 256).filter fun f => s.hasDb f && s.flag .hqFuncCtrl_enable f).foldl (fun s f => s.readDb f 64) s) s)

/-- A write of 1 to HQ_ADM_KICK (R126, R168). R168 names no condition: the record is read whatever ENABLE of the function and the state of its
admin ring are (DESIGN CHOICE, log entry 33). -/
def State.admKick (s : State) (f : Nat) : State := when (s.hostOn && s.hasDb f) (fun s => s.readDb f 64) s

/-- HQ_ADM_KICK (R168). -/
def execHqAdmKick (f : Nat) (s : State) : Host.Outcome State Fault Refusal :=
  done [.host, .out] [] s (s.admKick f)

/-! ### Fetching -/

/-- A command has element arrays to fetch (R131). -/
def hasArrays (admin : Bool) (d : Desc) : Bool :=
  ((admin || usesValue d.opc) && decide (2 ≤ d.vsglCnt ∧ d.vsglCnt ≤ 4096)) || ((admin || usesResult d.opc) && decide (2 ≤ d.rsglCnt ∧ d.rsglCnt ≤ 4096))

/-- A reserved field of an element that the descriptor itself holds is not zero (R12, R131). -/
def inlineRsv (d : Desc) : Bool :=
  (usesValue d.opc && d.vsglCnt == 1 && sglRsv [d.vsglInl]) || (usesResult d.opc && d.rsglCnt == 1 && sglRsv [d.rsglInl])

/-- The statuses of a data command that its descriptor alone gives, before anything else is fetched (R105 items 1 to 3, R130). Whose clock
judges SNAP is known once the key is (R84); a length limit waits for the element arrays, whose reserved fields come before it (R105). -/
def State.refusedEarly (s : State) (c : OpCtx) : Option Nat :=
  let d := c.desc
  firstStatus
    [(!isData d.opc, stOpcodeInvalid),
     (if d.opc = opBatch then fieldBad false { d with vlen := 0 } else fieldBad false d, stFieldInvalid),
     (decide (d.klen ≤ 40 ∨ 1024 < d.klen) && s.snapAhead c, stFieldInvalid),
     (cursorBad d {}, stFieldInvalid),
     (inlineRsv d, stFieldInvalid),
     (!hasArrays false d && lengthBad d, stLengthLimit)]

/-- The operations that take their value from host memory after their dispatch (R27). -/
def fillsLate (o : Nat) : Bool := isMut o && usesValue o

/-- A command's value lies behind an element array (R131), or is fetched after its dispatch (R27): it is not among the first fetches. -/
def valueLater (admin : Bool) (d : Desc) : Bool :=
  (admin || usesValue d.opc) && decide (0 < d.vlen) && (decide (2 ≤ d.vsglCnt ∧ d.vsglCnt ≤ 4096) || (!admin && fillsLate d.opc))

/-- The first fetches of a command from host memory: its key where KLEN is within its limits, its element arrays, the value of a single element
(R130, R131, R53). -/
def hostFetches (admin : Bool) (d : Desc) : List (Nat × Nat) :=
  let uv := admin || usesValue d.opc
  let ur := admin || usesResult d.opc
  (if !admin && decide (40 < d.klen ∧ d.klen ≤ 1024) then [(keyPtr d, d.klen)] else [])
    ++ (if uv && decide (2 ≤ d.vsglCnt ∧ d.vsglCnt ≤ 4096) then [(d.vsglPtr, 16 * d.vsglCnt)] else [])
    ++ (if ur && decide (2 ≤ d.rsglCnt ∧ d.rsglCnt ≤ 4096) then [(d.rsglPtr, 16 * d.rsglCnt)] else [])
    ++ (if uv && d.vsglCnt == 1 && decide (0 < d.vlen) && !valueLater admin d then [(d.vsglInl.addr, min d.vlen d.vsglInl.len)] else [])

/-- One descriptor has been read: the command waits for its fetches, or goes on. -/
def State.takeDesc (s : State) (f n : Nat) (d : Desc) : State :=
  let s := s.emit (.memRead f ((s.rg f n .hqSqBase_addr) * 4096 + 128 * s.rg f n .hqRingStat_sqHead) 128)
  let early := if n = 64 then none else s.refusedEarly (s.ringCtx f n d {} .held)
  let fs := if early.isSome then [] else hostFetches (n == 64) d
  let ph : Phase := if fs.isEmpty then .held else .fetching
  let c := s.ringCtx f n d {} ph (valueLater (n == 64) d)
  let s := s.fetchOne f n d {} ph (valueLater (n == 64) d)
  match early with
  | some st => s.fail c st
  | none => if fs.isEmpty then (if n = 64 then s else s.admitCtx c) else fs.foldl (fun s r => s.emit (.memRead f r.1 r.2)) s

/-- Fetch descriptors one after the other while the rules of R127 allow and the host has filled slots. -/
def State.fetchMany (s : State) (f n : Nat) : List Bytes → State
  | [] => s
  | b :: bs =>
    if s.mayFetch f n && decide ((s.ring f n).tailSeen ≠ s.rg f n .hqRingStat_sqHead) then (s.takeDesc f n (descOfBytes b)).fetchMany f n bs else s

/-- How far a ring's turn is away in the round that follows the ring served last. -/
def State.turnOf (s : State) (f n : Nat) : Nat := (65 * f + n + 16640 - s.host.turn % 16640) % 16640

/-- It is a pending ring's turn (R127): no other pending ring that may fetch comes before it in the round, whose order is that of function and
ring number (DESIGN CHOICE, log entry 141). -/
def State.itsTurn (s : State) (f n : Nat) : Bool :=
  s.host.rings.all fun r => !(r.pendingFetch && s.mayFetch r.f r.n) || decide (s.turnOf f n ≤ s.turnOf r.f r.n)

/-- DESCRIPTOR_FETCH (R119, R123, R127): one turn of a pending ring fetches at most 32 descriptors. Where they use up the completion room, the
first reread is due 250 ns later (R119; that it counts from the fetch, as no read found the room missing, is DEDUCED, log entry 161). -/
def execDescriptorFetch (f n : Nat) (ds : List Bytes) (s : State) : Host.Outcome State Fault Refusal :=
  done dataParts dataRegs s (when ((s.ring f n).pendingFetch && s.itsTurn f n) (fun s =>
    let s : State := { s with host := { s.host with turn := 65 * f + n + 1 } }
    let head := s.rg f n .hqRingStat_sqHead
    let s := s.fetchMany f n (ds.take 32)
    let s := s.modRing f n fun r => { r with pendingFetch := decide (r.tailSeen ≠ s.rg f n .hqRingStat_sqHead) }
    if s.waitsRoom f n ∧ s.rg f n .hqRingStat_sqHead ≠ head then s.modRing f n fun r => { r with roomNs := 250, roomDue := s.clk.cycles + cyclesOfNs 250 }
    else s) s)

/-- DESCRIPTOR_READ_FAULT (R147). -/
def execDescriptorReadFault (f n : Nat) (s : State) : Host.Outcome State Fault Refusal :=
  done [.host, .sup, .ev] [] s (when (s.hostOn && decide (s.ringState f n = 1)) (fun s =>
    ((s.modRing f n fun r => { r with reading := r.reading - 1 }).askReset f n 1).report .fetchError (f * 128 + n)) s)

/-- What a command has of host memory once further fetches have come. -/
def joinFetched (a b : Fetched) : Fetched :=
  { key := if a.key.isEmpty then b.key else a.key, vsgl := if a.vsgl.isEmpty then b.vsgl else a.vsgl,
    rsgl := if a.rsgl.isEmpty then b.rsgl else a.rsgl, value := if a.value.isEmpty then b.value else a.value, fault := a.fault || b.fault }

/-- The fetches under way of a command have come: it goes on to its value (R131), unless what has come refuses it (R105), or to its admission. -/
def State.fetched (s : State) (c : OpCtx) (x : Fetched) : State :=
  let fx := joinFetched c.fx (if c.valueDue then { x with value := [] } else x)
  if c.valueDue && !fx.fault && !(decide (c.pool ≠ .admin) && fillsLate c.desc.opc) then
    let c' : OpCtx := { c with fx := fx, valueDue := false }
    let s := s.modCtx c.id fun _ => c'
    match (if c.pool = .admin ∨ c.desc.opc = opBatch then none else s.refused c') with
    | some st => s.fail c' st
    | none => s.fetchValue c'
  else
    let c' : OpCtx := { c with fx := fx, phase := .held }
    let s := s.modCtx c.id fun _ => c'
    if c.pool = .admin then s else s.admitCtx c'

/-- HOST_FETCH_DONE (R27, R130, R131, R134): the fetches under way of a command have come, or one has failed. -/
def execHostFetchDone (id : Nat) (x : Fetched) (s : State) : Host.Outcome State Fault Refusal :=
  done dataParts dataRegs s (match s.kv.ctx? id with
    | none => s
    | some c =>
      when s.serving (fun s =>
        if c.phase = .fetching then s.fetched c x
        else if c.phase = .value ∧ (x.fault ∨ c.desc.vlen ≤ x.value.length) then s.valueCome c x
        else s) s)

/-! ### Enabling and resetting rings -/

/-- The refusal of an ENABLE (R172): 0 for none, else the lowest code that applies. -/
def State.setupErr (s : State) (f n : Nat) : Nat :=
  let size := s.rg f n .hqRingCtrl_sizeLog2
  if size < 4 ∨ 16 < size then 1
  else if s.rg f n .hqSqBase_addr = 0 ∨ s.rg f n .hqCqBase_addr = 0 ∨ s.fget .hqDbBase_addr f = 0 then 2
  else if n ≠ 64 ∧ s.fget .hqQuota_rings f ≤ s.activeRings f then 3
  else if n ≠ 64 ∧ s.fget .hqSumAddr_addr f = 0 ∧ s.fget .hqFuncCtrl_pollMode f = 0 then 4
  else 0

/-- A write of ENABLE 1 (R170): a DISABLED ring becomes ACTIVE when its set-up is valid. An I/O ring ends a Slumber entry
(R160). -/
def State.enableRing (s : State) (f n : Nat) : State :=
  if s.ringState f n ≠ 0 then s
  else
    let e := s.setupErr f n
    let s := s.rp f n .hqRingStat_setupErr e
    if e ≠ 0 then s
    else
      let s := (s.rp f n .hqRingStat_state 1).rp f n .hqRingCtrl_enable 1
      let s := s.modRing f n fun r => { r with intervalNs := 250, due := s.clk.cycles + cyclesOfNs 250, phase := true, resetReq := none }
      if n = 64 then s else s.breakSlumber

/-- RING_ENABLE (R170). -/
def execRingEnable (f n : Nat) (s : State) : Host.Outcome State Fault Refusal :=
  done (finishParts ++ [.power, .time, .net]) (countRegs ++ ringRegs ++ [.hqAdmCtrl, .hqRingCtrl]) s (when (s.hostOn && s.funcExists f && decide (n ≤ 64)) (fun s => s.enableRing f n) s)

/-- A reset request by a write (R142, R170); `keep` is the ENABLE bit of what was written. -/
def State.writeReset (s : State) (f n : Nat) (keep : Bool) : State :=
  if s.ringState f n = 1 ∧ keep = false then (s.askReset f n 0).rp f n .hqRingCtrl_enable 0 else s.askReset f n 0

/-- RING_RESET_REQUEST (R142): a write of RESET 1 or ENABLE 0. The row stands for a write in which ENABLE is 0 (DESIGN CHOICE, log entry 139); a
write of RESET 1 with ENABLE 1 is REGISTER_WRITE's. -/
def execRingResetRequest (f n : Nat) (s : State) : Host.Outcome State Fault Refusal :=
  done [.host] [.hqAdmCtrl, .hqRingCtrl] s (when (s.hostOn && s.funcExists f && decide (n ≤ 64)) (fun s => s.writeReset f n false) s)

/-- The commands of a ring that hold contexts and will complete there: none that an FLR has orphaned (R145, R150). -/
def State.ringCtxs (s : State) (f n : Nat) : List OpCtx := s.kv.ctxs.filter fun c => decide (c.src = .ring f n) && !c.orphan

/-- QUEUE_RESET_TAKEN (R142, R144): the ring is RESETTING and every command before its point of no return is aborted. -/
def execQueueResetTaken (f n : Nat) (s : State) : Host.Outcome State Fault Refusal :=
  done [.kv, .host, .tun, .media, .ywp, .out] ringRegs s (match (s.ring f n).resetReq with
    | none => s
    | some cause =>
      when (s.hostOn && decide (s.ringState f n = 1)) (fun s =>
        let s := (s.rp f n .hqRingStat_state 2).rp f n .hqRingStat_cause cause
        let s := s.modRing f n fun r => { r with resetReq := none, doneAfter := 0, aborted := 0, reading := 0, pendingFetch := false }
        ((s.ringCtxs f n).filter fun c => !c.ponr).foldl (fun s c => s.finishAt c { status := stAborted } []) s) s)

/-- QUEUE_RESET_DONE (R145): the marker is posted and the ring is DISABLED with the next generation. -/
def execQueueResetDone (f n : Nat) (s : State) : Host.Outcome State Fault Refusal :=
  done [.host, .out] (ringRegs ++ [.hqAdmCtrl, .hqRingCtrl]) s (when (s.hostOn && decide (s.ringState f n = 2) && (s.ringCtxs f n).isEmpty) (fun s =>
    let r := s.ring f n
    let head := s.rg f n .hqRingStat_sqHead
    let gen := s.rg f n .hqRingStat_gen
    let s := s.postEntry f n 0 stResetDone head (r.doneAfter + r.aborted * 2 ^ 32) 0 gen true
    let s := ((s.rp f n .hqRingStat_gen ((gen + 1) % 256)).rp f n .hqRingStat_state 0).rp f n .hqRingCtrl_enable 0
    let s := (s.rp f n .hqRingStat_sqHead 0).rp f n .hqRingStat_cqTail 0
    s.modRing f n fun r => { r with phase := true, tailSeen := 0, headSeen := 0, pendingFetch := false, counted := 0, doneAfter := 0, aborted := 0 }) s)

/-! ### Interrupts -/

/-- MSIX_COALESCE_TIMEOUT (R141): the oldest counted completion has waited TIME_US. -/
def execMsixCoalesceTimeout (f n : Nat) (s : State) : Host.Outcome State Fault Refusal :=
  done [.clk, .host, .out] [] s (when (s.hostOn && decide (0 < (s.ring f n).counted) && decide (s.rg f n .hqRingCtrl_irqEn = 1) && decide (0 < s.rg f n .hqCoal_timeUs)) (fun s =>
    let s := s.waitCycle ((s.ring f n).oldest + s.rg f n .hqCoal_timeUs * usCycles)
    (s.modRing f n fun r => { r with counted := 0 }).sendMsix f n) s)

/-! ### Virtual functions -/

/-- VF_ENABLE_SET (R112): VFs 1 to `n` come into existence while VF Enable is clear. -/
def execVfEnableSet (n : Nat) (s : State) : Host.Outcome State Fault Refusal :=
  done [.host] [] s (when (s.hostOn && decide (s.host.vfs = 0)) (fun s => { s with host := { s.host with vfs := min n 255 } }) s)

end Sys2Proof.Machine
end

