-- ==== Sys2Proof/Machine/MediaCmds.lean ====
section
/-!
DEFINITION. The commands of the index, the AD, the Tun and the media engine: write-back and rebuild of leaves, the AD scrub,
drain, the ends of NAND operations, Terraces, verification, the Sparge, erases, scrub, raw reads, and LUN events.
-/

namespace Sys2Proof.Machine

/-! ### Index, AD and Tun -/

/-- A leaf of a bucket. -/
def IndexSt.leafAt (x : IndexSt) (w p dep : Nat) : Option Leaf := x.leaves.find? fun l => l.ward == w && l.pfx == p && l.ldepth == dep

/-- Per cent of the leaf cache's slots that dirty leaves occupy (R189). -/
def IndexSt.dirtyPct (x : IndexSt) : Nat := if x.slots = 0 then 0 else (x.leaves.filter fun l => l.dirty).length * 100 / x.slots

/-- LEAF_WRITE_BACK (R191, R189): on WB_CHANGES changes, on journal or cache occupancy, on the way into Slumber (R159), or else when
the oldest change becomes WB_AGE_MS old. -/
def execLeafWriteBack (ward pfx ldepth : Nat) (s : State) : Host.Outcome State Fault Refusal :=
  done [.clk, .power, .index, .media, .time, .net, .sup, .ev, .out] countRegs s (match s.index.leafAt ward pfx ldepth with
    | none => s
    | some l =>
      when (s.mediaOn && l.dirty && l.writing == 0) (fun s =>
        let urgent := s.fget .kveIdxCtrl_wbUrgentPct
        if s.power.entry.any (fun e => e.1 == 3) ∨ s.fget .kveIdxCtrl_wbChanges ≤ l.changes ∨ s.journalOver urgent ∨ urgent ≤ s.index.dirtyPct then s.writeLeaf l
        else (s.waitCycle (l.oldest + s.fget .kveIdxCtrl_wbAgeMs * msCycles)).writeLeaf l) s)

/-- LEAF_REBUILD_DONE (R192): the leaf stands again in the cache, dirty, and an event marks the end. -/
def execLeafRebuildDone (ward pfx ldepth : Nat) (s : State) : Host.Outcome State Fault Refusal :=
  done [.index, .sup, .ev] [] s (match s.index.leafAt ward pfx ldepth with
    | none => s
    | some l =>
      when (s.serving && l.rebuild) (fun s =>
        (s.modLeaf ward pfx ldepth fun l => leafChanged s.clk.cycles { l with rebuild := false }).report .leafRebuildEnd l.addr) s)

/-- A parity error of an AD row (R198): the row is rebuilt from its shadow; an entry whose CHECK fails cannot be used. -/
def State.adFault (s : State) (row : Nat) (good : Bool) : State :=
  match s.tun.rows.find? fun r => r.row == row with
  | none => s
  | some r =>
    let s := (s.fadd .adErr_parityErrs 1).report .adParity row
    if good then s else (s.modEntry r.entry fun e => { e with good := false }).report .tunEntryBad r.entry

/-- AD_SCRUB (R198, R199, R222): a pass over every row, once every SCRUB_MS; `bad` names the rows with a parity error and whether
their entries pass their CHECK. With SCRUB_EN 0 there is no pass: the row then stands for a search that finds the errors, at once (DESIGN
CHOICE, log entry 165). -/
def execAdScrub (bad : List (Nat × Bool)) (s : State) : Host.Outcome State Fault Refusal :=
  done [.clk, .tun, .sup, .ev] [.adErr] s (when s.serving (fun s =>
    let p := if s.flag .adCtrl_scrubEn then s.fget .adCtrl_scrubMs * msCycles else 0
    bad.foldl (fun s b => s.adFault b.1 b.2) (if p = 0 then s else s.waitCycle ((s.clk.cycles / p + 1) * p))) s)

/-- TUN_DRAIN (R211, R156, R259): an entry that may drain, in its turn, is written to flash; one of a reclaiming keyspace is released. -/
def execTunDrain (entry : Nat) (s : State) : Host.Outcome State Fault Refusal :=
  done (dataParts ++ [.town]) (countRegs ++ ringRegs ++ [.adErr, .adStat, .kveIdxStat]) s (match s.tun.entry? entry with
    | none => s
    | some e =>
      if !s.mediaOn then s
      else if s.kspGone e.ksp && decide (e.kind ≠ .batchRecord) && e.refs == 0 then (s.freeEntry e.id).progress
      else if s.drainable e && s.drainTurn e then (((s.countRead (s.readVer e.ksp e.key e.stamp)).drainEntry e).getD s).progress
      else s)

/-! ### NAND operations -/

/-- An operation of a kind that has been issued. -/
def State.running (s : State) (op : Nat) (k : NandKind) : Option NandOp :=
  (s.media.op? op).filter fun o => decide (o.kind = k) && o.issued

/-- A successful operation ends a LUN's row of failures and timeouts (R300). -/
def State.lunAnswered (s : State) (lun : Nat) : State := s.modLun lun fun l => { l with timeouts := 0 }

/-- A read of a suspended erase has been served (R266). -/
def State.burstRead (s : State) (lun : Nat) : State := s.modLun lun fun l => if l.suspended then { l with burst := l.burst + 1 } else l

/-- The bytes that an operation's read gives: those the flash is found to hold, or, where the command names none, what the part programmed
there. -/
def State.readBytes (s : State) (o : NandOp) (raw : Bytes) : Bytes := if raw.isEmpty then s.cwImage o.addr else raw

/-- NAND_READ_DONE (R242, R263 to R265): the attempt converges, with `corrected` bits, or leaves `unsat` checks unsatisfied; the codeword, which
decodes where ADDR and CHECK of what was read agree too, goes on down the ladder or ends. `raw` holds the bytes where they are not those
programmed. A raw read of MODE 1 ends with the bytes as read, one of an erased page with that page (R268; that a MODE 0 read of it ends at step
1 is a DESIGN CHOICE, log entry 157). -/
def execNandReadDone (op : Nat) (decoded : Bool) (corrected unsat : Nat) (raw : Bytes) (s : State) : Host.Outcome State Fault Refusal :=
  done dataParts (dataRegs ++ [.cipKpUse, .medRawStat]) s (match s.running op .read with
    | none => s
    | some o =>
      let s := (s.lunAnswered (addrLun o.addr)).burstRead (addrLun o.addr)
      let bytes := s.readBytes o raw
      let erased := decide (o.why = .raw) && !bytes.isEmpty && bytes.all fun b => decide (b = 255#8)
      if decide (o.why = .raw) && (s.media.raw.mode || erased) then
        (s.dropOp op).rawEnded stOk (if s.media.raw.mode then 0 else 1) 0 0 erased (bytes.take (if s.media.raw.mode then s.media.geom.cwBytes else 4128))
      else match s.ladder o (decoded && (raw.isEmpty || s.cwValid o.addr raw)) unsat with
        | .again step tried =>
          if step = 4 then s.step4 { o with tried := tried }
          else { s with media := { s.media with ops := updWhere (fun x => x.id == op) (fun x =>
                  { x with step := step, tried := tried, issued := false, order := if x.order.isEmpty then s.tablesNow x else x.order }) s.media.ops } }
        | .ended step table =>
          let s := (s.dropOp op).ladderEnd o.addr step table corrected
          match o.why with
          | .raw => if step = 5 then s.readEnded o false else s.rawEnded stOk step table corrected false (padTo 4128 (bytes.take 4128))
          | .rebuild p => s.rebuildEnd p (decide (step ≠ 5))
          | _ => s.readEnded o (decide (step ≠ 5)))

/-- A data page has passed: the last of its Terrace starts the parity program (R251), the last of its set makes it full. -/
def State.pagePassed (s : State) (w page : Nat) (rank : Nat) : State :=
  let s := s.modSet w fun t => { t with passed := t.passed ++ [page] }
  match s.media.set? w with
  | none => s
  | some t =>
    let n := t.blocks.length
    let k := page / n
    let s := if t.terraceDone k then s.queueParity w k rank else s
    if t.state = .opened ∧ t.ptr = setUnits s.media.geom t then s.modSet w fun t => { t with state := .full, fullAt := s.clk.cycles } else s

/-- A program of a parity scratch page failed (R298): its block is retired, and the least-worn free block of the LUN takes its place. -/
def State.retireScratch (s : State) (lun blk : Nat) : State :=
  let s := s.retireBlock lun blk
  let rest := s.media.scratch.filter fun b => !(b.lun == lun && b.blk == blk)
  match s.pickFree lun true with
  | none => { s with media := { s.media with scratch := rest } }
  | some nb => ({ s with media := { s.media with scratch := rest ++ [{ lun := lun, blk := nb }] } } : State).modBlock lun nb fun x => { x with state := .system }

/-- NAND_PROGRAM_DONE (R251, R253, R298). -/
def execNandProgramDone (op : Nat) (pass : Bool) (s : State) : Host.Outcome State Fault Refusal :=
  done (dataParts ++ [.town]) (dataRegs ++ [.cipKpUse, .medRawStat, .medSpgStat]) s (match s.running op .program with
    | none => s
    | some o =>
      let lun := addrLun o.addr
      let s := s.lunAnswered lun
      let s := s.dropOp op
      if pass then
        let s := s.modLun lun fun l => { l with failBlks := [] }
        (match o.why with
          | .page w p => s.pagePassed w p o.rank
          | .parity w k => s.modSet w fun t => { t with parity := t.parity ++ [k] }
          | _ => s).progress
      else
        let s := { s with media := { s.media with health := { s.media.health with programFails := satAdd 32 s.media.health.programFails 1 } } }
        let s := s.report .programFail o.addr
        let (n, s) := s.lunFailCount lun (addrBlk o.addr)
        let s := match o.why with
          | .page w p => (match s.media.set? w with | some t => s.programFailed t p lun (addrBlk o.addr) | none => s)
          | .parity w k => (s.retireScratch lun (addrBlk o.addr)).queueParity w k o.rank
          | _ => s
        (if 4 ≤ n then s.failLun lun else s).progress)

/-- A set all of whose blocks have left service is forgotten, with what it held, and its scratch pages come free (R279, R298). -/
def State.dropSets (s : State) : State :=
  let gone := (s.media.sets.filter fun t => decide (t.state = .sparging ∨ t.state = .failed) && t.blocks.all fun b =>
    !((s.media.block? b.1 b.2).any fun x => x.wseq == t.wseq && decide (x.state ≠ .retired))).map fun t => t.wseq
  let s := gone.foldl (fun s w => s.releaseParity w) s
  { s with media := { s.media with sets := s.media.sets.filter fun t => !gone.contains t.wseq, items := s.media.items.filter fun i => !gone.contains i.wseq } }

/-- A block has been erased: it is free, or its scratch pages are (R254). -/
def State.erasedBlock (s : State) (lun blk : Nat) : State :=
  if s.media.scratch.any fun b => b.lun == lun && b.blk == blk then
    let sc := updWhere (fun b => b.lun == lun && b.blk == blk) (fun b => { b with used := 0, held := [] }) s.media.scratch
    (({ s with media := { s.media with scratch := sc } } : State).eraseSys (lun, blk)).parityDue
  else s.modBlock lun blk fun b => { b with state := .free, erases := b.erases + 1, wseq := 0, summary := 0 }

/-- The release of a LUN goes on to its next block, and ends with its format (R238). -/
def State.releaseNext (s : State) (n : Nat) : State :=
  match (s.media.lun? n).bind fun l => l.releaseAt with
  | none => s
  | some k =>
    if k + 1 < s.media.geom.blocks then
      (s.modLun n fun l => { l with releaseAt := some (k + 1) }).queueOp .erase (mkAddr n (k + 1) 0 0 0) .erase 4 3
    else (s.formatLun n).takeScratch n

/-- NAND_ERASE_DONE (R297, R298). -/
def execNandEraseDone (op : Nat) (pass : Bool) (s : State) : Host.Outcome State Fault Refusal :=
  done (dataParts ++ [.town]) (dataRegs ++ [.cipKpUse, .medRawStat]) s (match (s.running op .erase).filter fun o => !((s.media.lun? (addrLun o.addr)).any fun l => l.suspended) with
    | none => s
    | some o =>
      let lun := addrLun o.addr
      let s := (s.lunAnswered lun).dropOp op
      let next := ((s.media.ops.find? fun x => decide (x.kind = .erase) && x.issued && addrLun x.addr == lun).map fun x => addrBlk x.addr)
      let s := s.modLun lun fun l => if next.isSome then { l with erase := next } else { l with erase := none, suspended := false, suspends := 0, burst := 0 }
      if pass then
        let s := s.modLun lun fun l => { l with failBlks := [] }
        (((s.erasedBlock lun (addrBlk o.addr)).releaseNext lun).updateSpace).dropSets.progress
      else
        let s := { s with media := { s.media with health := { s.media.health with eraseFails := satAdd 32 s.media.health.eraseFails 1 } } }
        let s := (s.report .eraseFail o.addr).retireBlock lun (addrBlk o.addr)
        let s : State := { s with media := { s.media with scratch := s.media.scratch.filter fun b => !(b.lun == lun && b.blk == addrBlk o.addr) } }
        let (n, s) := s.lunFailCount lun (addrBlk o.addr)
        (if 4 ≤ n then s.failLun lun else s.releaseNext lun).dropSets.progress)

/-- LUN_TIMEOUT (R300): an issued operation of the LUN passes ten times its longest time; the third in a row fails the LUN,
and before that the operation is issued again. -/
def execLunTimeout (lun : Nat) (s : State) : Host.Outcome State Fault Refusal :=
  done (dataParts ++ [.town]) (dataRegs ++ [.cipKpUse, .medRawStat]) s (when (s.serving && (s.media.lun? lun).any (fun l => decide (l.state = .accepted) || l.releaseAt.isSome) && s.media.ops.any fun o => o.issued && addrLun o.addr == lun) (fun s =>
    let n := ((s.media.lun? lun).map fun l => l.timeouts + 1).getD 0
    let s := s.modLun lun fun l => { l with timeouts := n }
    if 3 ≤ n then s.failLun lun
    else { s with media := { s.media with ops := updWhere (fun o => o.issued && addrLun o.addr == lun) (fun o => { o with issued := false }) s.media.ops } }) s)

/-! ### Terraces and verification -/

/-- TERRACE_CLOSE_TIMEOUT (R252): the open Terrace of a set is padded CLOSE_US after it opened. -/
def execTerraceCloseTimeout (wseq : Nat) (s : State) : Host.Outcome State Fault Refusal :=
  done [.clk, .power, .media, .time, .net, .sup, .ev, .out] countRegs s (match s.media.set? wseq with
    | none => s
    | some t =>
      let ter := terUnits s.media.geom t
      when (s.mediaOn && decide (t.state = .opened) && decide (t.ptr % ter ≠ 0)) (fun s =>
        let s := s.waitCycle (t.openedAt + s.fget .medTerCtrl_closeUs * usCycles)
        s.movePtr wseq ((t.ptr / ter + 1) * ter) s.drainRank) s)

/-- Every data page and every parity page of a set has passed. -/
def State.programmed (s : State) (t : TSet) : Bool :=
  decide (t.ptr = setUnits s.media.geom t) && decide (t.passed.length = s.media.geom.pages * t.blocks.length)
    && decide (t.parity.length = s.media.geom.pages)

/-- The victims whose copies stand in a set that failed its verification are copied again, from their sources or from that set: while a source is
named it is what is read (R292, R298), so a victim whose live items were not switched becomes a candidate again. -/
def State.spargeAgain (s : State) (t : TSet) : State :=
  let back := fun (v : TSet) => t.victims.contains v.wseq && v.state == SetState.sparging
  let ss := updWhere back (fun v => if v.wasVerified then { v with state := .verified } else { v with state := .full, urgent := some (v.urgent.getD (v.wseq + 1)) }) s.media.sets
  { s with media := { s.media with sets := ss } }

/-- SET_VERIFY (R254, R265, R298): `worst` gives, for each data block, the most bits corrected in a codeword at the shifted
thresholds of MARGIN steps, or none when one did not decode; `parityOk` is false when a parity page is unrecoverable. Of a failure the events
name the blocks with a failing codeword, or the first parity page held (DESIGN CHOICE, log entry 164). -/
def execSetVerify (wseq : Nat) (worst : List (Option Nat)) (parityOk : Bool) (s : State) : Host.Outcome State Fault Refusal :=
  done (finishParts ++ [.index, .town]) ringRegs s (match s.media.set? wseq with
    | none => s
    | some t =>
      when (s.mediaOn && decide (t.state = .full) && t.urgent.isNone && s.programmed t) (fun s =>
        let good := fun (w : Option Nat) => w.any fun b => decide (b ≤ s.fget .medVerifyCtrl_maxBits)
        let s := if parityOk then s else s.report .parityLost (((List.range s.media.geom.pages).findSome? (s.media.parityPage t)).getD 0)
        if parityOk && decide (worst.length = t.blocks.length) && worst.all good then
          let s := s.modSet wseq fun t => { t with state := .verified, wasVerified := true, scrubbed := s.clk.cycles }
          ((s.releaseParity wseq).switchSet wseq).progress
        else
          let bad := (t.blocks.zip worst).filter fun b => !good b.2
          let s := bad.foldl (fun s b => s.modBlock b.1.1 b.1.2 fun x => { x with state := .failing }) s
          let bs := if bad.isEmpty then t.blocks else bad.map fun b => b.1
          (bs.foldl (fun s b => s.report .verifyFail (mkAddr b.1 b.2 0 0 0)) (s.markUrgent wseq)).spargeAgain t) s)

/-! ### The Sparge and erases -/

/-- SPARGE_VICTIM_SELECT (R289, R290, R292). -/
def execSpargeVictimSelect (s : State) : Host.Outcome State Fault Refusal :=
  done [.power, .media, .time, .net, .sup, .ev, .out] countRegs s (when s.mediaOn (fun s => match s.victim with | some t => s.beginVictim t | none => s) s)

/-- SPARGE_TARGET_PAD (R292 step 3): a target set, of the SPARGE stream or one of the INDEX stream with copies, that no live content has reached
for FILL_MS is padded to its end. -/
def execSpargeTargetPad (wseq : Nat) (s : State) : Host.Outcome State Fault Refusal :=
  done [.clk, .power, .media, .time, .net, .sup, .ev, .out] countRegs s (match s.media.set? wseq with
    | none => s
    | some t =>
      when (s.mediaOn && (decide (t.stream = .sparge) || (decide (t.stream = .index) && !t.victims.isEmpty)) && decide (t.state = .opened) && !(s.media.ops.any fun o => match o.why with | .copy _ => true | _ => false)) (fun s =>
        (s.waitCycle (t.fullAt + s.fget .medSpgCtrl_fillMs * msCycles)).padSet wseq 3) s)

/-- EPOCH_ADVANCE (R296). -/
def execEpochAdvance (s : State) : Host.Outcome State Fault Refusal :=
  done [.clk, .media] [] s (when (s.serving && s.hasFlash) (fun s => (s.waitCycle (s.media.epochAt + s.fget .medSpgCtrl_epochUs * usCycles)).epochAdvance) s)

/-- BLOCK_ERASE (R295): a RETIRING block whose epochs have drained begins its erase. -/
def execBlockErase (lun blk : Nat) (s : State) : Host.Outcome State Fault Refusal :=
  done [.power, .media, .time, .net, .sup, .ev, .out] countRegs s (match s.media.block? lun blk with
    | none => s
    | some b =>
      when (s.mediaOn && decide (b.state = .retiring) && s.media.drained b.epoch) (fun s =>
        (s.modBlock lun blk fun b => { b with state := .erasing }).queueOp .erase (mkAddr lun blk 0 0 0) .erase 4 3) s)

/-- Reads that wait for a LUN. -/
def State.readsWait (s : State) (lun : Nat) : Bool := s.media.ops.any fun o => decide (o.kind = .read) && !o.issued && addrLun o.addr == lun

/-- A read of the LUN is running. -/
def State.readRuns (s : State) (lun : Nat) : Bool := s.media.ops.any fun o => decide (o.kind = .read) && o.issued && addrLun o.addr == lun

/-- The peak current of the LUN's suspended erase fits (R550). -/
def State.erasePeakFits (s : State) (lun : Nat) : Bool :=
  s.peakFits (s.media.ops.filter fun o => decide (o.kind = .erase) && o.issued && addrLun o.addr == lun)

/-- ERASE_RESUME (R266, R269, R550): the erase goes on after BURST reads have been served, or when none waits or runs, once its peak current
fits; never during a flush. -/
def execEraseResume (lun : Nat) (s : State) : Host.Outcome State Fault Refusal :=
  done [.media] [] s (match s.media.lun? lun with
    | none => s
    | some l =>
      when (s.serving && l.suspended && (decide (s.fget .medSuspCtrl_burst ≤ l.burst) || !s.readsWait lun) && !s.readRuns lun && s.erasePeakFits lun) (fun s =>
        s.modLun lun fun l => { l with suspended := false, burst := 0, resumed := s.clk.cycles }) s)

/-! ### Scrub, raw reads, checkpoints, foreign LUNs -/

/-- A codeword of a scrub pass: its place in the set's stream order, the bits corrected and the step at which it ended. -/
def State.scrubCw (s : State) (t : TSet) (x : Nat × Nat × Nat) : State :=
  let a := setAddr s.media.geom t (x.1 * 256)
  let s := s.ladderEnd a (min 5 (max 1 x.2.2)) 0 x.2.1
  if s.fget .medScrubCtrl_relocBits ≤ x.2.1 ∨ 3 ≤ x.2.2 then (s.markUrgent t.wseq).report .rebuilt a else s

/-- SCRUB_PASS (R299, R298): every codeword of a VERIFIED set has gone through the ladder, PERIOD_H hours after its verification or its last
pass; `cws` gives, in stream order, the bits corrected and the step at which each ended, and codewords beyond the list ended at step 1 without
any. Of a finding the event is that of a rebuilt codeword (R298 states them in one row). -/
def execScrubPass (wseq : Nat) (cws : List (Nat × Nat)) (s : State) : Host.Outcome State Fault Refusal :=
  done [.clk, .media, .sup, .ev] [] s (match s.media.set? wseq with
    | none => s
    | some t =>
      when (s.mediaOn && s.flag .medScrubCtrl_scrubEn && decide (t.state = .verified)) (fun s =>
        let s := s.waitCycle (t.scrubbed + s.fget .medScrubCtrl_periodH * 3600 * secCycles)
        let l := cws.take (setUnits s.media.geom t / 256)
        let s := ((List.range l.length).zip l).foldl (fun s x => s.scrubCw t x) s
        s.modSet wseq fun t => { t with scrubbed := s.clk.cycles }) s)

/-- Whether an address lies in the geometry of an accepted LUN (R271). -/
def State.rawAddrOk (s : State) (a : Nat) : Bool :=
  decide (a / 2 ^ 54 = 0) && decide (addrPage a < s.media.geom.pages) && decide (addrCw a < s.media.geom.cwpp)
    && decide (addrBlk a < s.media.geom.blocks) && (s.media.lun? (addrLun a)).any fun l => decide (l.state = .accepted)

/-- A write of GO with its MODE (R268, R270, R283). A GO while BUSY is ignored, its MODE too. The read keeps MODE and the destination as they stand
at GO (DESIGN CHOICE, log entry 157), and what it refuses leaves MED_RAW_STAT with that status alone. -/
def State.rawGo (s : State) (mode : Nat) : State :=
  if s.flag .medRawStat_busy then s
  else
    let s := s.fput .medRawCtrl_mode mode
    let a := s.fget .medRawAddr_addr / 256 * 256
    let s : State := { s with media := { s.media with raw := { mode := decide (mode = 1), dest := s.fget .medRawDest_addr * 16 } } }
    if !s.rawAddrOk a then s.rawEnded stFieldInvalid 0 0 0 false []
    else if s.media.ops.any fun o => decide (o.kind = .erase) && o.issued && decide (addrLun o.addr = addrLun a ∧ addrBlk o.addr = addrBlk a)
        && (s.media.lun? (addrLun a)).any fun l => l.suspended then s.rawEnded stEraseSuspended 0 0 0 false []
    else (s.fput .medRawStat_busy 1).queueOp .read a .raw 0 4 a

/-- RAW_READ_GO (R270). -/
def execRawReadGo (mode : Nat) (s : State) : Host.Outcome State Fault Refusal :=
  done [.power, .media, .time, .net, .sup, .ev, .out] (countRegs ++ [.medRawCtrl, .medRawStat]) s (when s.ready (fun s => s.rawGo mode) s)

/-- MEDIA_MAP_CHECKPOINT (R308, R442, R79). -/
def execMediaMapCheckpoint (s : State) : Host.Outcome State Fault Refusal :=
  done [.media] [] s (when (s.ready && s.hasFlash && decide (s.power.pstate ≠ 3)) (fun s => s.checkpoint) s)

/-- The owner releases a FOREIGN LUN (R238, R274): the erase of every block begins, one after the other, and the format follows
(DESIGN CHOICE where an erase fails, log entry 157). -/
def State.releaseLun (s : State) (n : Nat) : State :=
  match s.media.lun? n with
  | none => s
  | some l =>
    if l.state ≠ .foreign || l.releaseAt.isSome then s
    else
      let s : State := { s with media := { s.media with blocks := s.media.blocks.filter fun b => b.lun != n } }
      (s.modLun n fun l => { l with releaseAt := some 0, failBlks := [], timeouts := 0 }).queueOp .erase (mkAddr n 0 0 0 0) .erase 4 3

/-- LUN_RELEASE (R238, R274). -/
def execLunRelease (lun : Nat) (s : State) : Host.Outcome State Fault Refusal :=
  done [.media] [.medLunCtrl] s (when s.ready (fun s => (s.fput .medLunCtrl_lun lun).releaseLun lun) s)

end Sys2Proof.Machine
end

