-- ==== Sys2Proof/Machine/ResetCmds.lean ====
section
/-!
DEFINITION. The commands of clocks, resets and start-up (R710 to R724), of a power failure (R213, R218) and of the PCIe link (R26, R714,
R732), with FLR (R150) and the DRAM patrol scrub (R715).
-/

namespace Sys2Proof.Machine

/-! ### Flush and halt -/

/-- A start-up command of the reset pins is acted on: out of reset, or while the flush before it runs. -/
def State.pinsActive (s : State) : Bool := !(s.power.porstLow && !s.tun.flushing) && !s.upd.inert

/-- A part without a flush halts for a power failure (R218, R682). -/
def State.powerHalt (s : State) : State :=
  (if s.hasFlash && decide (s.power.pstate ≠ 3) then s else { s with ev := s.ev.lastPrograms }).haltWith .powerFail

/-- POWER_FAIL_FLUSH (R213, R218): PWRFAIL_N falls. The recorder writes its counter entry (R682), code flash operations stop, and the flush
begins; a part whose replay has not finished halts at once, and a flush that runs goes on to the halt. -/
def execPowerFailFlush (s : State) : Host.Outcome State Fault Refusal :=
  done [.power, .kv, .tun, .media, .drt, .cfl, .ev, .out, .free] [] s (when s.pinsActive (fun s =>
    let h : Health := { s.media.health with powerFails := satAdd 32 s.media.health.powerFails 1 }
    let s : State := { s with power := { s.power with pwrfailLow := true }, media := { s.media with health := h } }
    if s.power.halt.isSome then s
    else
      let s := (s.counterEntry.cflAbort).drtPowerFail
      if s.tun.flushing then (if s.tun.flushFor = 4 then { s with tun := { s.tun with flushFor := 0 } } else s)
      else if s.canFlush then s.startFlush 0
      else s.powerHalt) s)

/-- FLUSH_END (R213, R218, R565, R710, R712): the end marker is programmed `lastUs` after the flush began, and the part halts or enters
reset, as what began the flush has it. -/
def execFlushEnd (lastUs : Nat) (s : State) : Host.Outcome State Fault Refusal :=
  done coldParts RegName.all s (when s.tun.flushing (fun s =>
    let s := (s.waitCycle (s.tun.flushFrom + lastUs * usCycles)).writeImage lastUs
    match s.tun.flushFor with
    | 0 => s.haltWith .powerFail
    | 1 => if s.power.porstLow then s else s.coldReset 0 0
    | 2 => let s := s.haltWith .refclk
           if s.power.refclkLost then s else s.coldReset 1 4
    | 3 => s.haltWith .thermal
    | _ => s.coldReset 1 s.power.pendCause) s)

/-- PWRFAIL_RESTART (R218): PWRFAIL_N has been high for 10 ms after the halt. -/
def execPwrfailRestart (s : State) : Host.Outcome State Fault Refusal :=
  done coldParts RegName.all s (when (s.pinsActive && s.power.pwrfailLow && decide (s.power.halt = some .powerFail)) (fun s =>
    let s := s.tickN (10 * msCycles)
    ({ s with power := { s.power with pwrfailLow := false } } : State).coldReset 1 1) s)

/-- REFCLK_LOSS (R710): the event, the flush, and the halt with every gate command at 0; the link and the ports go down. -/
def execRefclkLoss (s : State) : Host.Outcome State Fault Refusal :=
  done [.power, .kv, .host, .tun, .media, .net, .drt, .sup, .ev, .out] [.clkStat] s (when (s.pinsActive && !s.power.refclkLost && decide (s.power.pstate ≠ 3)) (fun s =>
    let s := ((s.report .refLost).fput .clkStat_refLost 1).drtStop
    let s : State := { s with
      power := { s.power with refclkLost := true }
      host := { s.host with linkUp := false }
      net := { s.net with ports := s.net.ports.map fun p => { p with link := false, up := false } } }
    if s.power.halt.isSome then s
    else if s.tun.flushing then (if s.tun.flushFor = 4 then { s with tun := { s.tun with flushFor := 2 } } else s)
    else if s.canFlush then s.startFlush 2
    else s.haltWith .refclk) s)

/-- REFCLK_RETURN (R710): REFCLK has been present for 10 ms. -/
def execRefclkReturn (s : State) : Host.Outcome State Fault Refusal :=
  done coldParts RegName.all s (when (s.pinsActive && s.power.refclkLost) (fun s =>
    let s := s.tickN (10 * msCycles)
    let s : State := { s with power := { s.power with refclkLost := false } }
    if s.power.halt = some .refclk then s.coldReset 1 4 else s) s)

/-! ### Resets (R711 to R714, R723) -/

/-- Power has been lost (R219, R743): a flush that ran leaves an incomplete image, once its begin marker has been programmed at 100 µs (R213). A loss that neither PORST_N nor PWRFAIL_N announced is
recorded at the start that follows. -/
def State.afterLoss (s : State) : State :=
  let quiet := !s.power.porstLow && !s.power.pwrfailLow && s.power.halt.isNone
  let s := if s.tun.flushing ∧ s.tun.flushFrom + 100 * usCycles ≤ s.clk.cycles then s.cutImage else s
  let s := s.coldReset 0 0
  if quiet then s.report .uncleanOff else s

/-- COLD_START (R711): PORST_N rises, and the straps are latched (R748). A flush that still runs ends first (R712), unless `lost`: all power
was lost meanwhile. -/
def execColdStart (strap : Nat) (lost : Bool) (s : State) : Host.Outcome State Fault Refusal :=
  done coldParts RegName.all s (when (s.power.porstLow || lost) (fun s =>
    let t : State := { s with power := { s.power with strap := strap % 32 } }
    if lost then t.afterLoss
    else
      let t : State := { t with power := { t.power with porstLow := false } }
      if t.tun.flushing then t else t.coldReset 0 0) s)

/-- PORST_N_FALL (R712): a flush runs first when replay has finished; it starts none beside one that runs. -/
def execPorstNFall (s : State) : Host.Outcome State Fault Refusal :=
  done [.power, .kv, .tun, .media, .drt, .cfl, .ev, .free] [] s (when (!s.power.porstLow) (fun s =>
    let can := s.canFlush && !s.upd.inert
    let s : State := { s with power := { s.power with porstLow := true } }
    if s.tun.flushing then { s with tun := { s.tun with flushFor := 1 } }
    else if can then ((s.counterEntry.cflAbort).drtStop).startFlush 1
    else (s.counterEntry.cflAbort).drtStop) s)

/-- INTERNAL_COLD_RESET (R723): COLD is written with 1. -/
def execInternalColdReset (s : State) : Host.Outcome State Fault Refusal :=
  done coldParts RegName.all s (when (s.alive && decide (s.power.pstate ≠ 3)) (fun s => s.askCold 3) s)

/-- HOST_RESET (R713, R714): PERST_N is asserted. A part that serves resets every function, as by FLR but with no YWP session closed
(R522); during start-up only the link trains again. -/
def execHostReset (s : State) : Host.Outcome State Fault Refusal :=
  done [.latches, .held, .winLatch, .power, .kv, .host, .tun, .media, .cip] pageRegs s (when s.pinsActive (fun s =>
    let s : State := { s with host := { s.host with perst := true, linkUp := false } }
    if s.ready && decide (s.power.pstate ≠ 3) then
      let s := (List.range (s.host.vfs + 1)).foldl (fun s f => s.resetFunction f) s.zeroPages
      { s with host := { s.host with vfs := 0 }, power := { s.power with resetType := 2, resetCause := 6 } }
    else s) s)

/-- PERST_N_RELEASE (R714, R720): link training begins again; in Slumber, the part leaves it. -/
def execPerstNRelease (s : State) : Host.Outcome State Fault Refusal :=
  done coldParts RegName.all s (when (s.pinsActive && s.host.perst) (fun s =>
    let s : State := { s with host := { s.host with perst := false } }
    if s.alive && decide (s.power.pstate = 3) then s.coldReset 1 5 else s) s)

/-- FUNCTION_LEVEL_RESET (R150). -/
def execFunctionLevelReset (f : Nat) (s : State) : Host.Outcome State Fault Refusal :=
  done (finishParts ++ [.latches, .held, .winLatch, .cip]) (pageRegs ++ [.ywpKeyStat]) s (when (s.ready && !s.host.perst && decide (s.power.pstate ≠ 3) && decide (f ≤ s.host.vfs)) (fun s => s.flr f) s)

/-- VF_ENABLE_CLEAR (R150): every VF is reset as by FLR and is gone. -/
def execVfEnableClear (s : State) : Host.Outcome State Fault Refusal :=
  done (finishParts ++ [.latches, .held, .winLatch, .cip]) (pageRegs ++ [.ywpKeyStat]) s (when (s.ready && !s.host.perst && decide (s.power.pstate ≠ 3)) (fun s =>
    let s := (List.range s.host.vfs).foldl (fun s k => s.flr (k + 1)) s
    { s with host := { s.host with vfs := 0 } }) s)

/-! ### Start-up (R717 to R719) -/

/-- START_STAGE_DONE (R717): the stage that runs ends with what it finds, and the next begins, or the stage has failed. -/
def execStartStageDone (r : StageFound) (s : State) : Host.Outcome State Fault Refusal :=
  done (sessionParts ++ [.clk, .ident, .power, .index, .time, .town, .net, .led, .drt, .cfl, .upd]) RegName.all s (when s.starting (fun s => s.endStage r) s)

/-- TOWN_JOIN_TIMEOUT (R718): stage TOWN has run for 2 s; the part is READY and goes on joining. -/
def execTownJoinTimeout (s : State) : Host.Outcome State Fault Refusal :=
  done [.clk, .power, .index, .upd] [] s (when (s.starting && decide (s.power.stage = 9)) (fun s =>
    (s.waitCycle (s.town.joinSince.getD s.clk.cycles + 2 * secCycles)).becomeReady) s)

/-- DRAM_PATROL_SCRUB (R715, R777): one pass in 24 h over all DRAM, which counts errors (R716) and marks the result buffers found uncorrectable
(R776). -/
def execDramPatrolScrub (found : PatrolFound) (s : State) : Host.Outcome State Fault Refusal :=
  done [.clk, .kv, .media, .sup, .ev] [.drmChStat] s (when (s.alive && decide (5 < s.power.stage) && decide (s.power.pstate ≠ 3)) (fun s =>
    let s := s.waitCycle (s.sup.patrolAt + 86400 * secCycles)
    let s := (found.bad.filter fun x => decide (x.1 < 8)).foldl (fun s x =>
      if x.2 then (s.fadd .drmChStat_uncorr 1 x.1).report .dramUncorrectable x.1 else s.fadd .drmChStat_corrected 1 x.1) s
    let s := found.bufs.foldl (fun s b => s.modCtx b.1 fun c => { c with poison := c.poison ++ [b.2] }) s
    { s with sup := { s.sup with patrolAt := s.clk.cycles }, media := { s.media with rawPoison := s.media.rawPoison || found.raw } }) s)

/-! ### PCI Express (R26, R668, R732) -/

/-- The PCIe link may train: from the end of stage OPTION on (R717), not in Slumber or under PERST_N; in recovery mode where BOOT says. -/
def State.linkMay (s : State) : Bool :=
  s.alive && !s.host.perst && !s.power.refclkLost && decide (3 ≤ s.power.stage) && decide (s.power.pstate ≠ 3) && (!s.upd.recovery || s.recovBar)

/-- PCIE_LINK_REACHES_L0 (R732): the link is up, and PE_WAKE_N is released. -/
def execPcieLinkReachesL0 (s : State) : Host.Outcome State Fault Refusal :=
  done [.host] [] s (when s.linkMay (fun s => { s with host := { s.host with linkUp := true, wakeLow := false } }) s)

/-- MSI-X Enable and Function Mask are written (R140): messages that no mask holds back any longer are sent. -/
def State.msixControl (s : State) (f : Nat) (on mask : Bool) : State :=
  let s := s.modFn f fun x => { x with msixOn := on, msixMask := mask }
  let go := (s.fn f).msixPba.filter fun v => !s.vecMasked f v
  go.foldl (fun s v => s.emit (.msix f v)) (if go.isEmpty then s else s.modFn f fun x => { x with msixPba := x.msixPba.filter fun v => !go.contains v })

/-- CONFIGURATION_REQUEST (R26, R112, R668): answered once the part is READY, by a function that exists; until then it gets Configuration
Request Retry Status. In recovery mode the PF alone is enumerated. A write of the MSI-X Message Control sets MSI-X Enable and
Function Mask (R140). -/
def execConfigurationRequest (r : CfgRequest) (s : State) : Host.Outcome State Fault Refusal :=
  done [.host, .out] [] s (when s.linkMay (fun s =>
    let answers := s.ready || s.upd.recovery
    let here := decide (r.f ≤ if s.upd.recovery then 0 else s.host.vfs)
    if !answers then s.emit (.cfg (.func r.f) true)
    else if here then (match r.msix with | some (on, mask) => s.msixControl r.f on mask | none => s).emit (.cfg (.func r.f) false)
    else s.emit (.unsupported (.func r.f))) s)

end Sys2Proof.Machine
end

