-- ==== Sys2Proof/Machine/RegView.lean ====
section
/-!
DEFINITION. What every register reads (R13, R754, R765): the stored value, with the fields that other state holds laid over it.
-/

namespace Sys2Proof.Machine

/-- A value that saturates at a field's largest. -/
def sat (w n : Nat) : Nat := min n (2 ^ w - 1)

/-- The registers of a port (R765): a port that the mode in force does not have reads 0 and ignores writes, and port 8 has no Crossing
schedule (R491). -/
def crossingReg : RegName → Bool
  | .netCrossBase | .netCrossCtrl | .netCrossCycle | .netCrossList => true
  | _ => false

/-- A register array with one element or row for each port. -/
def portReg : RegName → Bool
  | .netAddr | .netCnt | .netCntHalf | .netFwqBase | .netFwqCtrl | .netMacAddr | .netMcast | .netPortCtrl | .netPortStat | .netTcMap => true
  | n => crossingReg n

/-- A register that is there in the port mode in force. -/
def State.regThere (s : State) (k : RegKey) : Bool := !portReg k.name || (s.portExists k.i && !(crossingReg k.name && k.i == 8))

/-- The requester of a state window page. -/
def pageWho (i : Nat) : Requester := if i = 256 then .sup else .func i

/-! ### The views of the blocks -/

/-- GLB registers (R724, R725, R748, R749, R763). -/
def State.viewGlb (s : State) (n : RegName) (v : Nat) : Nat :=
  match n with
  | .glbResetStat => overlayFields v [(0, 2, s.power.resetType), (2, 4, s.power.resetCause)]
  | .glbStart => overlayFields v [(0, 4, s.power.stage), (4, 4, s.power.failStage), (8, 1, b2n s.power.ready), (32, 32, sat 32 s.power.elapsedMs)]
  | .glbStrap => overlayFields v [(0, 5, s.power.strap)]
  | .glbGpio => overlayFields v [(32, 16, bits v 0 16 &&& bits v 16 16)]
  | .glbSupRelease => (s.sup.cores.map fun c => 2 ^ c.n).foldl (fun a b => a ||| b) 1
  | .cflStat => overlayFields v [(1, 3, ((List.range 3).map fun a => b2n (s.cfl.running a).isSome * 2 ^ a).sum), (4, 3, ((List.range 3).map fun a => b2n (s.cfl.suspended a).isSome * 2 ^ a).sum)]
  | _ => v

/-- HQ registers of function `f`, and ring `n` of it (R165, R170). -/
def State.viewHq (s : State) (k : RegKey) (v : Nat) : Nat :=
  match k.name with
  | .hqFuncStat => s.funcStatView k.i v
  | .hqRingCtrl => overlayFields v [(7, 1, b2n (decide (s.ringState k.i k.j = 2)))]
  | .hqAdmCtrl => overlayFields v [(7, 1, b2n (decide (s.ringState k.i 64 = 2)))]
  | _ => v

/-- KVE, AD and TUN registers (R109, R110, R226 to R230). The spec states no rounding: RATE_MBS, FREE_KIB and JOURNAL_PCT are rounded down, BUDGET_US
and USED_KIB up, and each saturates at its field; nor what TUN_STAT.SLOT reads while no image is needed: here the slot of the last one (DESIGN
CHOICE, log entry 152). -/
def State.viewKv (s : State) (n : RegName) (v : Nat) : Nat :=
  match n with
  | .kveSnapCtrl => overlayFields v [(16, 11, s.kv.leases.length)]
  | .kveStageCtrl => overlayFields v [(19, 13, s.kv.staged.length)]
  | .kveIdxStat => overlayFields v [(0, 33, if s.tun.replayDone then s.index.dirEntries else 1048576), (49, 15, if s.tun.replayDone then sat 15 ((s.index.leaves.map fun l => l.ovf.length).sum) else 0)]
  | .adStat => overlayFields v [(0, 21, s.tun.rows.length), (21, 21, max (bits v 21 21) s.tun.rows.length)]
  | .tunStat =>
    overlayFields v [(0, 14, if s.hasFlash then s.tun.sizeMib else 0), (14, 1, if s.hasFlash then s.tun.slot else 0), (15, 1, b2n s.tun.flushing), (32, 21, s.tun.entries.length), (54, 10, s.journalPct)]
  | .tunUse =>
    let used := (s.tun.entries.map entryUnits).sum
    overlayFields v [(0, 24, sat 24 ((used + 15) / 16)), (24, 24, if s.hasFlash then sat 24 ((s.entrySpace - used) / 16) else 0)]
  | .tunFlushInfo => overlayFields v [(0, 24, s.media.flushLuns * 96000 / 4096), (24, 24, sat 24 (s.media.flushUs s.tun.sizeMib))]
  | _ => v

/-- MED registers (R273 to R283, R309 to R316); `c` is the channel of MED_CH_STAT. -/
def State.viewMed (s : State) (n : RegName) (c v : Nat) : Nat :=
  let here := s.media.luns.filter fun l => l.n / 128 == c
  let g := s.media.geom
  match n with
  | .medChStat =>
    overlayFields v [(0, 8, (here.filter fun l => decide (l.state = .accepted ∨ l.state = .unused)).length), (8, 3, ((s.media.rates.find? fun x => x.1 == c).map fun x => x.2).getD 0),
      (11, 1, b2n (s.media.unusable.contains c)), (12, 8, (here.filter fun l => decide (l.state = .excluded ∨ l.state = .foreign)).length),
      (20, 8, (here.filter fun l => decide (l.state = .foreign)).length)]
  | .medGeom =>
    if s.media.geomOn then overlayFields v [(0, 1, b2n g.page32), (1, 3, g.planes), (4, 2, g.cell), (16, 16, g.cwBytes), (32, 18, g.blocks - 1), (50, 13, g.pages)] else v
  | .medTerStat =>
    overlayFields v [(0, 6, s.media.width), (6, 10, s.media.openTerraces), (16, 16, sat 16 (s.media.sets.filter fun t => decide (t.state = .full)).length), (32, 32, s.media.scratchFree)]
  | .medLunCtrl => overlayFields v [(13, 1, b2n (s.media.luns.any fun l => l.releaseAt.isSome))]
  | .medRawCtrl => overlayFields v [(0, 1, s.fget .medRawStat_busy)]
  | .medSpaceStat =>
    overlayFields v [(0, 10, s.freePm), (10, 2, s.media.spaceState), (12, 1, b2n s.media.readOnly), (16, 10, if s.hasFlash then sat 10 s.reserveEff else 0), (32, 32, s.freeBlocks)]
  | .medSpareStat => overlayFields v [(0, 32, s.media.spareBlocks), (32, 32, s.media.spareInitial)]
  | .medSpgStat =>
    let deferred := s.media.sets.filter fun t => decide (t.state = .full ∨ t.state = .verified) && (s.media.itemsOf t.wseq).any s.itemRetained
    overlayFields v [(0, 16, (s.media.sets.filter fun t => decide (t.state = .sparging)).length),
      (16, 16, sat 16 (s.media.sets.filter fun t => t.urgent.isSome && decide (t.state ≠ .sparging)).length), (32, 16, sat 16 deferred.length)]
  | .medEpochStat =>
    let held := s.media.slots.filter fun x => decide (0 < x.readers)
    let oldest := s.media.oldestEpoch
    let age := ((held.find? fun x => x.epoch == oldest).map fun x => s.usSince x.since).getD 0
    overlayFields v [(0, 16, s.media.epoch), (16, 16, oldest), (32, 16, sat 16 age), (48, 16, sat 16 (s.media.blocks.filter fun b => decide (b.state = .retiring)).length)]
  | _ => v

/-- PARK_STATE (R495): parking stopped, a restore exchange, a park exchange, or idle. A committed exchange is a park where it takes lanes
away. -/
def Port.parkState (x : Port) : Nat :=
  if x.stopped then 3
  else if x.req.any fun r => r.restore then 2
  else if x.req.isSome then 1
  else match x.txSwitch, x.rxSwitch with
    | some t, _ => if t.2 < x.lanes then 1 else 2
    | none, some t => if t.2 < x.rxLanes then 1 else 2
    | none, none => 0

/-- NET registers (R495, R501, R508). -/
def State.viewNet (s : State) (n : RegName) (p v : Nat) : Nat :=
  let x := s.port p
  match n with
  | .netPortStat =>
    overlayFields v [(0, 1, b2n x.link), (1, 1, x.bank), (2, 1, b2n (s.partner p).isSome), (3, 4, x.rxLanes), (7, 3, x.parkState),
      (10, 3, if p = 8 then s.fget .netMgmtCtrl_speed + 1 else 0), (32, 32, s.txCw p)]
  | .netCrossCtrl => overlayFields v [(1, 1, b2n x.change.isSome), (3, 1, x.sched.bank)]
  | .netMgmtMdio => overlayFields v [(28, 1, b2n s.net.mdio.isSome), (29, 1, b2n s.net.mdio.isSome)]
  | _ => v

/-- PTP registers (R448, R453, R454). -/
def State.viewPtp (s : State) (n : RegName) (v : Nat) : Nat :=
  match n with
  | .ptpTime => timeWord s.clk.tai
  | .ptpEps =>
    let eps := match s.epsUnits with | none => 2 ^ 32 - 1 | some e => sat 32 ((e + nsUnits - 1) / nsUnits)
    let age := match s.time.updated with | none => 2 ^ 32 - 1 | some c => sat 32 (s.msSince c)
    overlayFields v [(0, 32, eps), (32, 32, age)]
  | .ptpStat =>
    let m := (s.time.updates.getLast?.map fun (x : Int × Nat) => x.1).getD 0
    overlayFields v [(0, 3, s.time.state), (3, 1, b2n s.time.untrusted), (4, 4, s.time.portState), (32, 32, ofSigned 32 m)]
  | _ => v

/-- YWP and TWN registers (R367, R368, R418 to R420). R368 does not say whether slots in HANDSHAKE and CLOSED are sessions held in SRAM: ON_CHIP counts
every slot that is not FREE (DESIGN CHOICE, log entry 172). -/
def State.viewTown (s : State) (n : RegName) (v : Nat) : Nat :=
  let live := s.ywp.slots.filter fun x => decide (x.state ≠ .free)
  match n with
  | .ywpStat =>
    overlayFields v [(0, 19, (live.filter fun x => decide (x.state = .opened)).length), (32, 17, s.ywp.onChip.length),
      (49, 11, (live.filter fun x => decide (x.state = .handshake)).length)]
  | .ywpDedupStat => overlayFields v [(0, 22, s.ywp.records.length)]
  | .twnStat =>
    overlayFields v [(0, 2, s.town.role), (2, 3, s.town.state), (5, 1, b2n s.frozen), (6, 1, b2n s.town.noStandby), (14, 18, s.town.incarnation),
      (32, 15, if s.isMember then s.town.live.length else 0)]
  | .twnEpoch => if s.isMember then s.town.epoch else 0
  | .twnTerm => if s.isMember then s.town.term else 0
  | .twnFeat =>
    let up := decide (5 ≤ s.power.stage) && !s.upd.recovery
    overlayFields v [(0, 8, if up then s.ident.featMin else 0), (8, 8, if up then s.ident.featMax else 0), (16, 8, if s.isMember then s.town.level else 0)]
  | _ => v

/-- CIP registers (R537) and the parts of LED and DRT that are state (R570, R571, R612, R615). -/
def State.viewCore (s : State) (k : RegKey) (v : Nat) : Nat :=
  match k.name with
  | .cipDevPub => if 4 ≤ s.power.stage then Config.devicePublicKey % 2 ^ 768 else 0
  | .cipKpSlotStat => s.slotStatView k.i k.j v
  | .ledBucket => overlayFields v [(0, 32, ofSigned 32 (s.led.token k.i)), (32, 20, s.led.cap k.i), (52, 10, (s.led.factors[k.i]?).getD 1000)]
  | .ledStat => overlayFields v [(0, 1, b2n s.spargeRaised), (1, 1, b2n s.bypass), (2, 1, b2n s.reservedOp.isSome)]
  | .drtChStat =>
    let x := s.chan k.i
    overlayFields v [(0, 4, x.st), (4, 1, b2n x.limited), (5, 1, b2n x.shortOnly), (7, 1, b2n x.dirSeen), (8, 2, x.restarts), (10, 2, x.cause), (16, 15, sat 15 x.rpm),
      (32, 15, sat 15 x.target), (48, 16, if x.regen then 0 else sat 16 x.powerDw)]
  | .drtBusStat => overlayFields v [(16, 1, b2n s.drt.chopOn), (17, 1, b2n s.drt.chopFault), (18, 1, b2n s.drt.ov), (19, 1, b2n s.drt.uv), (20, 1, b2n s.drt.fault)]
  | .cflWp => ((List.range 32).map fun i => b2n (decide (cflSectors k.i ≤ 32 * k.j + i) || s.cfl.locked k.i (32 * k.j + i)) * 2 ^ i).sum
  | _ => v

/-- EVT and STW registers of a state window page (R697 to R705), and UPD registers (R672 to R674). -/
def State.viewWin (s : State) (k : RegKey) (v : Nat) : Nat :=
  match k.name with
  | .evtStat =>
    overlayFields v [(0, 15, s.ev.log.length), (15, 1, b2n s.ev.full), (16, 9, s.ev.front), (25, 1, b2n s.ev.clearing.isSome),
      (26, 1, b2n (!s.mayReadLog (pageWho k.i))), (32, 32, s.ev.lost)]
  | .evtTime => s.opSeconds + s.ev.cycle * 2 ^ 32 + s.opSeconds / 3600 * 2 ^ 64
  | .evtWindow => if s.mayReadLog (pageWho k.i) then ofLe (s.ev.shown (s.fget .evtCursor_index k.i)) else 0
  | .evtNonce => if k.i = 0 then s.nonceNow.getD 0 else 0
  | .stwStat => s.stwStat k.i
  | .updStat => s.updStatValue
  | .updTrial => overlayFields v [(0, 17, s.remainS), (17, 1, b2n s.upd.trial.isSome)]
  | .updRcvStat => overlayFields v [(0, 16, s.stagePieces), (16, 1, b2n s.upd.rcvBusy), (24, 8, s.upd.rcvResult)]
  | _ => v

/-- WO fields read 0 (R13). -/
def hideWo (n : RegName) (v : Nat) : Nat := overlayFields v ((n.fields.filter fun f => decide (f.acc = .wo)).map fun f => (f.lsb, f.w, 0))

/-- What a register reads now, but for the fields whose reading changes the machine. -/
def State.regView (s : State) (k : RegKey) : Nat :=
  if !s.regThere k then 0
  else
    let v := hideWo k.name (s.reg k)
    s.viewWin k (s.viewCore k (s.viewTown k.name (s.viewPtp k.name (s.viewNet k.name k.i (s.viewMed k.name k.i (s.viewKv k.name (s.viewHq k (s.viewGlb k.name v))))))))

end Sys2Proof.Machine
end

