-- ==== Sys2Proof/Machine/RegRead.lean ====
section
/-!
DEFINITION. Reads of the register map (R750 to R758): where an access falls, who may make it, what it returns, and the interrupt
controller.
-/

namespace Sys2Proof.Machine

/-! ### The interrupt controller (R758) -/

/-- What a list of (index, value) pairs holds at an index; 0 when it is not listed. -/
def tableGet (l : List (Nat × Nat)) (i : Nat) : Nat := ((l.find? fun x => x.1 == i).map fun x => x.2).getD 0

/-- The list with a value at an index, in ascending order; zeros are not listed. -/
def tableSet (l : List (Nat × Nat)) (i v : Nat) : List (Nat × Nat) :=
  let l := l.filter fun x => x.1 != i
  if v = 0 then l else insertBy (fun (x : Nat × Nat) => x.1) (i, v) l

/-- A source is asserted (R758). -/
def State.irqRaw (s : State) (n : Nat) : Bool :=
  if n = 1 then s.sup.plic.cflDone
  else if n = 2 then s.flag .cflEccStat_warn
  else if n = 3 then (List.range 9).any fun p => decide (s.fget .netCntHalf_half p ≠ 0)
  else if 4 ≤ n ∧ n ≤ 12 then s.flag .netFwqCtrl_en (n - 4) && decide ((s.port (n - 4)).rxTail % 65536 ≠ s.fget .netFwqCtrl_rxHead (n - 4))
  else if n = 13 then s.sup.plic.event
  else if n = 14 then s.kv.ctxs.any fun c => decide (c.pool = .admin ∧ c.phase = .held)
  else false

/-- A source pends: asserted, and not claimed without completion. -/
def State.irqPending (s : State) (n : Nat) : Bool := s.irqRaw n && !s.sup.plic.claimed.contains n

/-- The pending sources that a context enables with a priority above `t`. -/
def State.irqReady (s : State) (ctx t : Nat) : List Nat :=
  (List.range 64).filter fun n => s.irqPending n && bitAt (tableGet s.sup.plic.enable ctx) n && decide (t < tableGet s.sup.plic.prio n)

/-- The external interrupt of a context. -/
def State.extInt (s : State) (ctx : Nat) : Bool := !(s.irqReady ctx (tableGet s.sup.plic.threshold ctx)).isEmpty

/-- The source a claim takes: the highest priority, the lowest number among equals; 0 for none. -/
def State.irqBest (s : State) (ctx : Nat) : Nat :=
  (s.irqReady ctx 0).foldl (fun b n => if b = 0 ∨ tableGet s.sup.plic.prio b < tableGet s.sup.plic.prio n then n else b) 0

/-- Change the controller. -/
def State.modPlic (s : State) (g : Plic → Plic) : State := { s with sup := { s.sup with plic := g s.sup.plic } }

/-- A claim (R758). -/
def State.irqClaim (s : State) (ctx : Nat) : Nat × State :=
  let n := s.irqBest ctx
  if n = 0 then (0, s)
  else (n, s.modPlic fun p => { p with claimed := p.claimed ++ [n], cflDone := p.cflDone && decide (n ≠ 1), event := p.event && decide (n ≠ 13) })

/-- A 32-bit read of the controller; the layout is that of the RISC-V PLIC specification (PRESUMED, log entry 51). -/
def State.plicRead (s : State) (off : Nat) : Nat × State :=
  let p := s.sup.plic
  if off < 0x1000 then (if off / 4 < 64 then tableGet p.prio (off / 4) else 0, s)
  else if off < 0x1008 then (((List.range 32).map fun i => b2n (s.irqPending (off / 4 % 2 * 32 + i)) * 2 ^ i).sum, s)
  else if 0x2000 ≤ off ∧ off < 0x2000 + 0x80 * 16 then
    (if off % 0x80 < 8 then bits (tableGet p.enable ((off - 0x2000) / 0x80)) (off % 0x80 / 4 * 32) 32 else 0, s)
  else if 0x200000 ≤ off ∧ off < 0x200000 + 0x1000 * 16 then
    let ctx := (off - 0x200000) / 0x1000
    if off % 0x1000 = 0 then (tableGet p.threshold ctx, s) else if off % 0x1000 = 4 then s.irqClaim ctx else (0, s)
  else (0, s)

/-- A 32-bit write of the controller: a write of the claim register completes the source it names. -/
def State.plicWrite (s : State) (off v : Nat) : State :=
  if off < 0x1000 then (if 0 < off / 4 ∧ off / 4 < 15 then s.modPlic fun p => { p with prio := tableSet p.prio (off / 4) v } else s)
  else if 0x2000 ≤ off ∧ off < 0x2000 + 0x80 * 16 then
    (if off % 0x80 < 8 then
      let ctx := (off - 0x2000) / 0x80
      s.modPlic fun p => { p with enable := tableSet p.enable ctx (setBits (setBits (tableGet p.enable ctx) (off % 0x80 / 4 * 32) 32 v) 0 1 0) }
    else s)
  else if 0x200000 ≤ off ∧ off < 0x200000 + 0x1000 * 16 then
    let ctx := (off - 0x200000) / 0x1000
    if off % 0x1000 = 0 then s.modPlic fun p => { p with threshold := tableSet p.threshold ctx v }
    else if off % 0x1000 = 4 ∧ bitAt (tableGet s.sup.plic.enable ctx) v then s.modPlic fun p => { p with claimed := p.claimed.filter fun n => n != v }
    else s
  else s

/-! ### The MSI-X page (R140, R752) -/

/-- A 32-bit read of a function's MSI-X page: the table, then the Pending Bit Array. -/
def State.msixRead (s : State) (f off : Nat) : Nat :=
  if off < 65 * 16 then
    match s.host.msix.find? fun x => x.1 == f && x.2.1 == off / 16 && x.2.2.1 == off / 4 % 4 with
    | some x => x.2.2.2
    | none => if off / 4 % 4 = 3 then 1 else 0
  else if 0x800 ≤ off ∧ off < 0x810 then
    (((s.fn f).msixPba.filter fun v => v / 32 == off / 4 % 4).map fun v => 2 ^ (v % 32)).sum
  else 0

/-- A 32-bit write of the table: unmasking a pending vector sends its message. -/
def State.msixWrite (s : State) (f off v : Nat) : State :=
  if 65 * 16 ≤ off then s
  else
    let vec := off / 16
    let d := off / 4 % 4
    let v := if d = 3 then v % 2 else if d = 0 then v / 4 * 4 else v
    let l := s.host.msix.filter fun x => !(x.1 == f && x.2.1 == vec && x.2.2.1 == d)
    let s : State := { s with host := { s.host with msix := l ++ [(f, vec, d, v)] } }
    if d = 3 ∧ v = 0 ∧ (s.fn f).msixPba.contains vec ∧ s.vecMasked f vec = false then (s.modFn f fun x => { x with msixPba := x.msixPba.filter fun n => n != vec }).emit (.msix f vec) else s

/-! ### Where an access falls (R750 to R757) -/

/-- The targets of an access: a register's word (read-only at another function's set-up page), nothing, an Unsupported Request, another
function's key page, an MSI-X page, the interrupt controller, the recovery BAR. -/
inductive Place where
  | reg (k : RegKey) (word : Nat) (ro : Bool)
  | blank
  | refuse
  | foreign (page : Nat)
  | vectors (f off : Nat)
  | plic (off : Nat)
  | recov (off : Nat)
  deriving DecidableEq, Repr

/-- A register of a space, at an offset within it. -/
def wordAt (sp : Space) (page : Option Nat) (off : Nat) (ro : Bool) : Place :=
  match findReg sp off with
  | none => .blank
  | some (n, is, r) => .reg (pageKey n page is) (r / 4) ro

/-- The pages of function `f` (R751, R752), as the function itself sees them (`own`), or as the PF BAR shows them. -/
def placePage (f off : Nat) (own : Bool) : Place :=
  if off < 0x1000 then wordAt .setup (some f) off !own
  else if off < 0x2000 then (if own then wordAt .key (some f) (off - 0x1000) false else .foreign f)
  else if !own then .blank
  else if off < 0x3000 then wordAt .win (some f) (off - 0x2000) false
  else .vectors f (off - 0x3000)

/-- Where a requester's offset falls: an offset in its BAR, or from 0x3000_0000 for the supervisor. -/
def State.placeOf (s : State) (who : Requester) (off : Nat) : Place :=
  match who with
  | .func 0 =>
    if s.upd.recovery then (if off < 0x2000 then .recov off else .refuse)
    else if off < 0x100000 then wordAt .glob none off false
    else if 0x1000000 ≤ off ∧ off < 0x1400000 then placePage ((off - 0x1000000) / 0x4000) (off % 0x4000) (decide (off < 0x1004000))
    else if off < 0x2000000 then .blank
    else .refuse
  | .func f => if off < 0x4000 then placePage f off true else .refuse
  | .sup =>
    if off < 0x100000 then wordAt .glob none off false
    else if 0x108000 ≤ off ∧ off < 0x109000 then wordAt .win (some 256) (off - 0x108000) false
    else if off < 0x400000 then wordAt .sup none off false
    else if off < 0x800000 then .plic (off - 0x400000)
    else if off < 0x1000000 then .blank
    else .refuse

/-- The requester's access reaches the part. -/
def State.regReach (s : State) (who : Requester) : Bool :=
  match who with
  | .func 0 => if s.upd.recovery then s.recovBarOn else s.pageOn 0
  | .func f => s.pageOn f
  | .sup => s.windowOn .sup

/-- A naturally aligned access of 4 or 8 bytes (R753). -/
def accessOk (off size : Nat) : Bool := decide ((size = 4 ∨ size = 8) ∧ off % size = 0)

/-! ### Reading a register (R754) -/

/-- The value of a register whose reading takes something of the machine: input balls are free. -/
def State.regNow (s : State) (k : RegKey) : Nat × State :=
  match k.name with
  | .stwData => (s.stwData k.i k.j, s)
  | .glbGpio =>
    let v := s.regView k
    let (x, s) := s.fresh
    (v + (bits x 0 16 &&& (2 ^ 16 - 1 - bits v 16 16)) * 2 ^ 32, s)
  | _ => (s.regView k, s)

/-- The value that a read of word 0 latches: EVT_NONCE draws a nonce for the PF, CIP_RNG draws, STW_DATA[0] latches its object. -/
def State.regAtLatch (s : State) (k : RegKey) : Nat × State :=
  match k.name with
  | .evtNonce =>
    if k.i ≠ 0 then (0, s)
    else match s.draw with
      | none => (0, { s with ev := { s.ev with nonce := none } })
      | some (v, s) => (v % 2 ^ 256, { s with ev := { s.ev with nonce := some (v % 2 ^ 256, s.clk.cycles) } })
  | .cipRng =>
    match s.draw with
    | none => (0, s.fput .cipRngValid_valid 0)
    | some (v, s) => (v % 2 ^ 64, s.fput .cipRngValid_valid 1)
  | .stwData => (if k.j = 0 then s.stwLatch k.i else s).regNow k
  | _ => s.regNow k

/-- What an RC field holds after a read has cleared it (R13): 0, but ROWS_PEAK the rows in use then, the greatest number since (R223). -/
def State.rcAfter (s : State) (n : RegName) (f : FieldDef) : Nat := if n = .adStat ∧ f.lsb = 21 then s.tun.rows.length else 0

/-- RC fields clear (R13). -/
def State.clearRc (s : State) (k : RegKey) : State :=
  let fs := k.name.fields.filter fun f => decide (f.acc = .rc)
  if fs.isEmpty then s else s.setReg k (overlayFields (s.reg k) (fs.map fun f => (f.lsb, f.w, s.rcAfter k.name f)))

/-- A read of one 32-bit word of a register. Word 15 of EVT_WINDOW advances its cursor (R683). -/
def State.readWord (s : State) (who : Requester) (k : RegKey) (w : Nat) (ro : Bool) : Nat × State :=
  if w = 0 then
    let (v, s) := s.regAtLatch k
    let s := if k.name.place.width ≤ 32 then s else s.latch who k v
    (v % 2 ^ 32, if ro then s else s.clearRc k)
  else
    let (v, s) := match s.latches.find? fun l => decide (l.who = who ∧ l.key = k) with
      | some l => (l.value, s)
      | none => s.regNow k
    let s := if k.name = .evtWindow ∧ w = 15 ∧ s.flag .evtCursor_auto k.i then s.fput .evtCursor_index (min 16384 (s.fget .evtCursor_index k.i + 1)) k.i else s
    (v / 2 ^ (32 * w) % 2 ^ 32, s)

/-- A read of the recovery BAR (R756). -/
def State.recovRead (s : State) (off : Nat) : Nat :=
  if off < 4 then s.regView ⟨.updRcvStat, 0, 0, 0⟩
  else if 0x1000 ≤ off ∧ off < 0x2000 then fieldAt (padTo 4096 s.upd.window) (off - 0x1000) 4
  else 0

/-- A read of 32 bits at a place. -/
def State.placeRead (s : State) (who : Requester) : Place → Nat × State
  | .reg k w ro => s.readWord who k w ro
  | .vectors f off => (s.msixRead f off, s)
  | .plic off => s.plicRead off
  | .recov off => (s.recovRead off, s)
  | _ => (0, s)

/-- A read of 4 or 8 bytes, of ascending words. -/
def State.regRead (s : State) (who : Requester) (off size : Nat) : State :=
  if !accessOk off size then s.emit (.unsupported who)
  else match s.placeOf who off with
    | .refuse => s.emit (.unsupported who)
    | .foreign page => s.keyIsolation who page
    | p =>
      let (a, s) := s.placeRead who p
      if size = 4 then s.emit (.readData who a)
      else
        let (b, s) := s.placeRead who (s.placeOf who (off + 4))
        s.emit (.readData who (a + b * 2 ^ 32))

end Sys2Proof.Machine
end

