-- ==== Sys2Proof/Machine/TimeCmds.lean ====
section
/-!
DEFINITION. The commands of the time engine (R424 to R446).
-/

namespace Sys2Proof.Machine

/-- An update is accepted: the servo acts on it, and STATE follows (R430 to R433, R438). -/
def State.acceptUpdate (s : State) (m : Int) (a path : Nat) : State :=
  let s := { s with time := { s.time with path := some (s.pathAfter path), rejects := 0 } }
  let r := s.actOn m a
  (r.1.stateAfter r.2).trustCheck

/-- PTP_SYNC_EXCHANGE (R431): an exchange with `master` estimates that its time leads the counter by `m` ns over a path delay of
`path` ns. The selected master's exchanges count, in HOLDOVER any master's. -/
def execPtpSyncExchange (master : Nat) (m : Int) (path : Nat) (s : State) : Host.Outcome State Fault Refusal :=
  done [.clk, .time, .sup, .ev] [.ptpIncr, .ptpStat] s (when (s.ptpOn && s.flag .ptpServoCtrl_servoEn && decide (s.time.state ≠ 4) && (decide (s.time.master = some master) || decide (s.time.state = 3))) (fun s =>
    let a := s.fget .ptpEpsCtrl_asymNs + 4
    if s.pathRejects path a then { s with time := { s.time with rejects := s.time.rejects + 1, streak := 0 } }.fadd .ptpStat_rejects 1
    else s.acceptUpdate m a path) s)

/-- PTP_ANNOUNCE (R424): the sender joins the foreign master list, and the BMCA runs. -/
def execPtpAnnounce (domain : Nat) (a : Foreign) (s : State) : Host.Outcome State Fault Refusal :=
  done [.time] [] s (when (s.ptpOn && decide (domain = s.fget .ptpCtrl_domain) && decide (a.clockId ≠ s.clockId)) (fun s =>
    let old := s.time.foreign.find? fun (f : Foreign) => f.clockId == a.clockId
    let e : Foreign := { a with last := s.clk.cycles, prev := old.map fun (f : Foreign) => f.last }
    { s with time := { s.time with foreign := s.time.foreign.filter (fun (f : Foreign) => f.clockId != a.clockId) ++ [e] } }.bmca) s)

/-- PTP_MESSAGE_SEND (R424, R446): kind 0 is a Sync, 1 a Delay_Req (or the request of the peer-to-peer mechanism), 2 an Announce.
A master's event messages carry the counter + ε / 2, with TX_NS added (R426). -/
def execPtpMessageSend (kind : Nat) (s : State) : Host.Outcome State Fault Refusal :=
  done [.out] [] s (when (s.ptpOn) (fun s =>
    let master := decide (s.time.portState = 6)
    let tx := s.clk.tai + s.fget .ptpLat_txNs (s.fget .ptpCtrl_port) * nsUnits
    if master && decide (kind = 0 ∨ kind = 2) then s.emit (.ptp kind (timeWord (tx + (s.epsUnits.getD 0) / 2)))
    else if decide (s.time.portState = 8 ∨ s.time.portState = 9) && decide (kind = 1) then s.emit (.ptp kind (timeWord tx))
    else s) s)

/-- The selected master is lost: a BMCA clock becomes master, a slave listens. -/
def State.masterLost (s : State) : State :=
  let gone := s.time.master
  { s with time := { s.time with master := none, foreign := s.time.foreign.filter fun f => some f.clockId != gone,
                                 portState := if s.fget .ptpCtrl_role = 1 then 6 else 4 } }

/-- ANNOUNCE_RECEIPT_TIMEOUT (R424, R432): three Announce intervals without the selected master's message, or in LOCKED eight
Sync intervals without an accepted update, whichever ends first. -/
def execAnnounceReceiptTimeout (s : State) : Host.Outcome State Fault Refusal :=
  done [.clk, .time, .sup, .ev] [] s (when (s.ptpOn && decide (s.time.state ≠ 4)) (fun s =>
    let heard := (s.time.foreign.find? fun f => some f.clockId == s.time.master).map fun f => f.last + 3 * logCycles (s.fget .ptpCtrl_logAnnounce)
    let quiet := if s.time.state = 2 then s.time.updated.map fun u => u + 8 * logCycles (s.fget .ptpCtrl_logSync) else none
    let hold := fun (s : State) => if s.time.state = 2 then { s with time := { s.time with state := 3 } }.report .timeHoldover else s
    match heard, quiet with
    | some h, some q => if h ≤ q then hold (s.waitCycle h).masterLost else hold (s.waitCycle q)
    | some h, none => hold (s.waitCycle h).masterLost
    | none, some q => hold (s.waitCycle q)
    | none, none => s) s)

/-- The edge of a second set by PTP_TOD_SET (R445): the counter is set to the lower edge, and PPS begins; a setting backward is
ignored with an event (R428). -/
def State.todEdge (s : State) (sec : Nat) : State :=
  let eps := s.fget .ptpPpsCtrl_inEpsNs
  let t := (sec * 1000000000 - eps) * nsUnits
  let s := { s with time := { s.time with tod := none } }
  if sec = 0 ∨ t < s.clk.tai then s.report .backwardIgnored
  else
    let s := { s with
      clk := ⟨s.clk.cycles, t⟩
      time := { s.time with state := 4, portState := 6, m := eps, a := eps, epsInf := false, updated := some s.clk.cycles, streak := 0,
                            updates := (s.time.updates ++ [((eps : Int), eps)]).drop (s.time.updates.length + 1 - 8) } }
    (s.report .timePps).trustCheck

/-- A further edge in PPS (R445): an update whose second is the one nearest to the counter. -/
def State.ppsUpdate (s : State) : State :=
  let su := 1000000000 * nsUnits
  let second := (s.clk.tai + su / 2) / su
  let m : Int := ((second * su : Nat) : Int) - s.clk.tai
  let r := s.actOn (m / nsUnits) (s.fget .ptpPpsCtrl_inEpsNs)
  r.1.trustCheck

/-- PPS_IN_EDGE (R444, R445): timestamped; an edge within 0.5 s of the one before is ignored and counted. -/
def execPpsInEdge (s : State) : Host.Outcome State Fault Refusal :=
  done [.clk, .time, .sup, .ev] [.ptpIncr, .ptpPpsTs, .ptpStat] s (when (s.alive && decide (s.power.pstate ≠ 3) && s.flag .ptpPpsCtrl_inEn) (fun s =>
    if (s.time.lastEdge.map fun e => decide (s.clk.cycles < e + secCycles / 2)).getD false then { s with time := { s.time with ignored := s.time.ignored + 1 } }
    else
      let s := { s with time := { s.time with lastEdge := some s.clk.cycles } }.setReg ⟨.ptpPpsTs, 0, 0, 0⟩ (timeWord s.clk.tai)
      if s.ptpOn && decide (s.fget .ptpCtrl_role = 2) then
        match s.time.tod with
        | some sec => s.todEdge sec
        | none => if s.time.state = 4 ∧ s.flag .ptpServoCtrl_servoEn then s.ppsUpdate else s
      else { s with time := { s.time with tod := none } }) s)

/-- PPS_LOSS (R432): 1.5 s without a PPS_IN edge. -/
def execPpsLoss (s : State) : Host.Outcome State Fault Refusal :=
  done [.clk, .time, .sup, .ev] [] s (match s.time.lastEdge with
    | none => s
    | some e => when (s.alive && decide (s.time.state = 4)) (fun s =>
        { s.waitCycle (e + secCycles * 3 / 2) with time := { s.time with state := 3, portState := 4 } }.report .timeHoldover) s)

/-- PTP_TOD_SET (R445, R449). -/
def execPtpTodSet (sec : Nat) (s : State) : Host.Outcome State Fault Refusal :=
  done [.time] [] s (when (s.alive && decide (s.power.pstate ≠ 3)) (fun s => { s with time := { s.time with tod := some (sec % 2 ^ 48) } }) s)

/-- PPS_OUT_EDGE (R446): PPS_OUT rises when the counter + ε / 2 crosses the next whole second. -/
def execPpsOutEdge (s : State) : Host.Outcome State Fault Refusal :=
  done [.clk, .time] [] s (match s.epsUnits with
    | none => s
    | some e => when (s.alive && decide (s.power.pstate ≠ 3) && s.flag .ptpPpsCtrl_outEn && !s.time.ppsOut) (fun s =>
        let su := 1000000000 * nsUnits
        let s := s.waitTai (((s.clk.tai + e / 2) / su + 1) * su - e / 2)
        { s with time := { s.time with ppsOut := true, ppsRise := s.clk.cycles } }) s)

/-- PPS_OUT_WIDTH_END (R446): PPS_OUT falls after OUT_WIDTH_US. -/
def execPpsOutWidthEnd (s : State) : Host.Outcome State Fault Refusal :=
  done [.clk, .time] [] s (when (s.alive && s.time.ppsOut) (fun s =>
    { s.waitCycle (s.time.ppsRise + s.fget .ptpPpsCtrl_outWidthUs * usCycles) with time := { s.time with ppsOut := false } }) s)

end Sys2Proof.Machine
end

