-- ==== Sys2Proof/Machine/RegWrite.lean ====
section
/-!
DEFINITION. Writes of the register map (R12 to R14, R753, R754, R759, R774): held words and the commit, access codes, encodings and the
rules across fields, and what a write makes the part do.
-/

namespace Sys2Proof.Machine

/-! ### Words (R754) -/

/-- The words of a commit: the held words of a register and the highest one, as a value and its mask. -/
def wordsValue (ws : List (Nat × Nat)) : Nat := (ws.map fun w => w.2 % 2 ^ 32 * 2 ^ (32 * w.1)).sum
def wordsMask (ws : List (Nat × Nat)) : Nat := (ws.map fun w => (2 ^ 32 - 1) * 2 ^ (32 * w.1)).sum

/-- WO fields that stay in the register until a command uses them (R517, R534, R543). -/
def keepsWo : RegName → Bool
  | .cipKpTrk | .cipKpWrap | .cipSkData | .updRcvCmd => true
  | _ => false

/-! ### Access codes and encodings (R12, R13) -/

/-- One field after a write of `v` under the mask `m`; `lock` is GLB_SETUP_LOCK.LOCK. -/
def fieldNext (n : RegName) (lock : Bool) (old v m : Nat) (f : FieldDef) : Nat :=
  let x := bits (mergeBits old v m) f.lsb f.w
  let o := bits old f.lsb f.w
  let put := if f.enc.ok f.w x then x else o
  match f.acc with
  | .rw => put
  | .rwl => if lock then o else put
  | .wo => if keepsWo n then x else o
  | .w1c => o - (o &&& bits (v &&& m) f.lsb f.w)
  | .ro | .w1s | .rc => o

/-- Every field after a write. -/
def fieldsNext (n : RegName) (lock : Bool) (old v m : Nat) : Nat :=
  overlayFields old (n.fields.map fun f => (f.lsb, f.w, fieldNext n lock old v m f))

/-- Take fields back to what they were. -/
def takeBack (old new : Nat) (fs : List (Nat × Nat)) : Nat := overlayFields new (fs.map fun f => (f.1, f.2, bits old f.1 f.2))

/-- Take every field of a register back that the mask touches. -/
def takeBackAll (n : RegName) (old new m : Nat) : Nat :=
  takeBack old new ((n.fields.filter fun f => decide (f.mask &&& m ≠ 0)).map fun f => (f.lsb, f.w))

/-- The rules across fields, and the fields that a command rather than the store changes (R113, R169, R170, R309, R361, R364, R421, R450,
R474, R498, R539, R605, R607, R613, R622, R642, R749). -/
def State.crossFields (s : State) (k : RegKey) (old new m : Nat) : Nat :=
  let b := fun (lsb w : Nat) => bits new lsb w
  match k.name with
  | .medSpaceCtrl => if b 16 8 < b 8 8 ∧ b 8 8 < b 0 8 then new else takeBack old new [(0, 8), (8, 8), (16, 8)]
  | .ywpSessCtrl => if b 16 14 < 2 * b 0 10 then takeBack old new [(0, 10), (16, 14)] else new
  | .ywpCtrl => if b 16 8 < b 8 8 then takeBack old new [(8, 8), (16, 8)] else new
  | .twnHbCtrl => if b 16 12 < 2 * b 0 10 ∨ b 32 12 < 2 * b 0 10 then takeBackAll k.name old new m else new
  | .cipLaneCtrl => if 48 < b 0 6 + b 8 6 then takeBack old new [(0, 6), (8, 6)] else new
  | .drtChCfg => if b 4 15 < b 19 15 ∨ 200000 < b 4 15 * b 0 4 ∨ b 34 10 < b 44 7 then takeBackAll k.name old new m else new
  | .drtChLimit => if b 0 16 < b 16 16 then takeBack old new [(16, 16)] else new
  | .drtBusCfg =>
    if b 32 16 + 1000 + 100 * b 48 8 < b 0 16 ∧ b 0 16 + 3000 ≤ b 16 16 ∧ b 16 16 ≤ 65000 then new else takeBackAll k.name old new m
  | .hqQuota => if 4096 < ((List.range 256).map fun f => if f = k.i then b 0 7 else s.fget .hqQuota_rings f).sum then old else new
  | .hqSqBase | .hqCqBase => if s.ringState k.i k.j = 0 then new else old
  | .hqAdmSqBase | .hqAdmCqBase => if s.ringState k.i 64 = 0 then new else old
  | .hqRingCtrl => takeBack old new (if s.ringState k.i k.j = 0 then [(5, 1)] else [(0, 5), (5, 1)])
  | .hqAdmCtrl => takeBack old new (if s.ringState k.i 64 = 0 then [(5, 1)] else [(0, 5), (5, 1)])
  | .netFwqBase => if s.flag .netFwqCtrl_en k.i then old else new
  | .netFwqCtrl => if bitAt old 4 ∧ b 0 4 ≠ bits old 0 4 then old else new
  | .netCrossList => if (s.port k.i).change.isSome ∨ k.j = (s.port k.i).sched.bank then old else new
  | .ptpIncr => if s.flag .ptpServoCtrl_servoEn then old else new
  | .cflQBase => if s.flag .cflQCtrl_en then old else new
  | .cflBankExec => old
  | .glbGpio => if s.flag .cflStat_romMode then takeBack old new [(0, 4), (16, 4)] else new
  | _ => new

/-! ### The set-up lock (R759, R760) -/

/-- LOCK is set. -/
def State.setLock (s : State) : State :=
  if s.flag .glbSetupLock_lock then s else ({ s with power := { s.power with deniedSeen := false } } : State).fput .glbSetupLock_lock 1

/-- A write has been ignored for the lock. -/
def State.denied (s : State) (k : RegKey) : State :=
  let s := s.fadd .glbSetupLock_denied 1
  if s.power.deniedSeen then s else ({ s with power := { s.power with deniedSeen := true } } : State).report .setupDenied k.code

/-- The fields of R774 that a write has set are carried to the next start. -/
def State.carry (s : State) (k : RegKey) (lock : Bool) (v m : Nat) : State :=
  let ok := fun (f : FieldDef) => decide (f.mask &&& m ≠ 0) && k.name.nextStart.contains (f.lsb, f.w) && !(lock && decide (f.acc = .rwl)) && f.enc.ok f.w (bits v f.lsb f.w)
  let l := (k.name.fields.filter ok).map fun f => (k, f.lsb, f.w, bits v f.lsb f.w)
  if l.isEmpty then s
  else { s with power := { s.power with carried := (s.power.carried.filter fun (x : RegKey × Nat × Nat × Nat) => !(l.any fun y => decide (y.1 = x.1 ∧ y.2.1 = x.2.1))) ++ l } }

/-! ### What a write makes the part do -/

/-- The secondary cores (R641, R763, R764): a core released at no executable region faults at its first fetch. -/
def State.execRegion (s : State) (addr : Nat) : Bool :=
  decide (addr < 0x40000) || decide (0x08000000 ≤ addr ∧ addr < 0x08200000) ||
    (match cflDecode addr with | some (a, off) => !s.busFaults .fetch a off | none => false) ||
    (decide (0x4000000000 ≤ addr ∧ addr < 0x4040000000) && (List.range 8).any fun c => s.flag .drmChStat_trained c)

/-- Release one core. -/
def State.releaseCore (s : State) (n : Nat) : State :=
  if s.coreRuns n then s
  else
    let addr := s.fget .glbSupEntry_addr * 4
    let s : State := { s with sup := { s.sup with cores := s.sup.cores ++ [⟨n, addr, none⟩] } }
    if s.execRegion addr then s else s.busFault n .fetch addr

/-- A write to GLB_SUP_RELEASE. -/
def State.releaseCores (s : State) (v : Nat) : State :=
  (List.range 8).foldl (fun s n => if 1 ≤ n ∧ bitAt v n then s.releaseCore n else s) s

/-- ENABLE and RESET of a ring (R170): RESET has no effect unless the ring is ACTIVE, and ENABLE then acts as it does alone. -/
def State.ringAct (s : State) (f n v : Nat) : State :=
  if s.ringState f n = 1 then (if bitAt v 7 ∨ bitAt v 5 = false then s.writeReset f n (bitAt v 5) else s)
  else if bitAt v 5 then s.enableRing f n
  else s

/-- NET_PORT_CTRL has changed from `old` (R461, R462). -/
def State.portAct (s : State) (p old : Nat) : State :=
  let on := s.flag .netPortCtrl_enable p
  let want := s.fget .netPortCtrl_bank p
  if !s.macOn then s
  else if bitAt old 0 && !on then s.portClear p
  else if !bitAt old 0 && on then s.portStart p
  else if on && decide (p ≠ 8 ∧ want ≠ bits old 1 2 ∧ want < 2 ∧ want ≠ (s.port p).bank) then (s.portClear p).toBank p want
  else s

/-- ENABLE of a function has been set: its poll interval and those of its rings start at 250 ns (R121, R124). -/
def State.funcAct (s : State) (f : Nat) : State :=
  let due := s.clk.cycles + cyclesOfNs 250
  let s := s.modFn f fun x => { x with intervalNs := 250, due := due }
  { s with host := { s.host with rings := updWhere (fun r => r.f == f) (fun r => { r with intervalNs := 250, due := due }) s.host.rings } }

/-- PTP_CTRL has changed from `old` (R425, R432). -/
def State.ptpAct (s : State) (old : Nat) : State :=
  let on := s.flag .ptpCtrl_enable
  if bitAt old 0 && !on then s.ptpOff
  else if !bitAt old 0 && on then s.ptpBegin
  else if on && decide (bits old 5 4 ≠ s.fget .ptpCtrl_port) then s.ptpOff.ptpBegin
  else s

/-- DRT_CH_CTRL has been written with `v`, from `old` (R587, R593). -/
def State.chanAct (s : State) (c old v : Nat) : State :=
  s.onChan c fun _ s =>
    let s := if bitAt old 0 && !s.flag .drtChCtrl_en c then s.chanOff c else s
    let s := if bitAt v 3 then s.chanClear c else s
    if bitAt v 4 then s.curveApply c else s

/-- The acting Hall has changed a Town-wide setting (R408). -/
def State.settingsAct (s : State) (changed : Bool) : State :=
  if s.town.role = 2 ∧ changed then s.publishMap { s.noChange with settings := some s.settings } else s

/-- The command in a write: `v` are the bits written, `old` what the register held. -/
def State.regAct (s : State) (k : RegKey) (old v : Nat) : State :=
  match k.name with
  | .glbSetupLock => if bitAt v 0 then s.setLock else s
  | .glbResetCtrl => if bitAt v 0 then s.askCold 3 else s
  | .glbSupRelease => s.releaseCores v
  | .hqAdmKick => if bitAt v 0 then s.admKick k.i else s
  | .hqRingCtrl => s.ringAct k.i k.j v
  | .hqAdmCtrl => s.ringAct k.i 64 v
  | .hqFuncCtrl => if !bitAt old 0 && s.flag .hqFuncCtrl_enable k.i then s.funcAct k.i else s
  | .medLunCtrl => if bitAt v 13 then s.releaseLun (s.fget .medLunCtrl_lun) else s
  | .medRawCtrl => if bitAt v 0 ∧ s.ready then s.rawGo (bits v 1 1) else s
  | .medSpaceCtrl => s.updateSpace
  | .cipKpCmd => s.keyCommand k.i (bits v 0 3) (bits v 8 6)
  | .cipSkCmd => if bits v 0 2 = 1 then s.skLoad else if bits v 0 2 = 2 then s.skZap else s
  | .cipDrbgCtrl => if bitAt v 25 then s.drbgRestart else s
  | .cflBankExec => s.bankExec v
  | .drtChCtrl => s.chanAct k.i old v
  | .drtBusCtrl => if bitAt v 0 ∧ s.drtOn then s.clearChop else s
  | .netCrossCtrl => if bitAt v 1 ∧ s.macOn ∧ s.dataPort k.i then s.crossChange k.i else s
  | .netPortCtrl => s.portAct k.i old
  | .netMgmtMdio => if bitAt v 28 ∧ s.macOn ∧ s.net.mdio.isNone then s.mdioStart else s
  | .ptpCtrl => s.ptpAct old
  | .ptpTodSet => { s with time := { s.time with tod := some (v % 2 ^ 48) } }
  | .updTrial => if bitAt v 18 then s.trialStop else s
  | .kveSnapCtrl | .twnHbCtrl | .twnRetryCtrl => s.settingsAct (decide (s.reg k ≠ old))
  | _ => s

/-- The value that a commit of `v` under `m` stores. -/
def State.regNext (s : State) (k : RegKey) (lock : Bool) (v m : Nat) : Nat := s.crossFields k (s.reg k) (fieldsNext k.name lock (s.reg k) v m) m

/-- A commit (R754): access codes and the lock apply, the register takes its value, and the part does what the write commands. -/
def State.commit (s : State) (k : RegKey) (v m : Nat) : State :=
  let old := s.reg k
  let lock := s.flag .glbSetupLock_lock
  let new := s.regNext k lock v m
  let sel := s.stwSel k.i
  let s := if lock ∧ s.regNext k false v m ≠ new then s.denied k else s
  let s := (s.setReg k new).carry k lock v m
  let s := if k.name = .stwSel then s.stwChanged k.i sel else s
  s.regAct k old (v &&& m)

/-- A write of one 32-bit word of a register (R754): held, or committed with what is held. -/
def State.writeWord (s : State) (k : RegKey) (w v : Nat) : State :=
  if !s.regThere k then s
  else if 32 * (w + 1) < k.name.place.width then
    { s with held := (s.held.filter fun h => !decide (h.key = k ∧ h.word = w)) ++ [⟨k, w, v⟩] }
  else
    let ws := ((s.held.filter fun h => decide (h.key = k)).map fun h => (h.word, h.value)) ++ [(w, v)]
    ({ s with held := s.held.filter fun h => !decide (h.key = k) } : State).commit k (wordsValue ws) (wordsMask ws)

/-- A write of the recovery BAR (R756, R674). -/
def State.recovWrite (s : State) (off v : Nat) : State :=
  let k : RegKey := ⟨.updRcvCmd, 0, 0, 0⟩
  if off < 4 then s.writeWord k 0 v
  else if off < 8 then
    let s := s.writeWord k 1 v
    s.recovPiece (bits (s.reg k) 0 16) (bits (s.reg k) 32 32)
  else if 0x1000 ≤ off ∧ off < 0x2000 then { s with upd := { s.upd with window := overlay (padTo 4096 s.upd.window) (off - 0x1000) (leBytes 4 v) } }
  else s

/-- A write of 32 bits at a place. -/
def State.placeWrite (s : State) (v : Nat) : Place → State
  | .reg k w false => s.writeWord k w v
  | .vectors f off => s.msixWrite f off v
  | .plic off => s.plicWrite off v
  | .recov off => s.recovWrite off v
  | _ => s

/-- A write of 4 or 8 bytes, of ascending words. -/
def State.regWriteAt (s : State) (who : Requester) (off size v : Nat) : State :=
  if !accessOk off size then s.emit (.unsupported who)
  else match s.placeOf who off with
    | .refuse => s.emit (.unsupported who)
    | .foreign page => s.keyIsolation who page
    | p =>
      let s := s.placeWrite (v % 2 ^ 32) p
      if size = 4 then s else s.placeWrite (v / 2 ^ 32 % 2 ^ 32) (s.placeOf who (off + 4))

end Sys2Proof.Machine
end

