-- ==== Sys2Proof/Machine/Registers.lean ====
section
/-!
DEFINITION. The commands of the register map: an access by a requester, the set-up lock, and the release of the secondary cores.
-/

namespace Sys2Proof.Machine

/-- SETUP_LOCK (R759): the PF or the supervisor writes LOCK 1. -/
def execSetupLock (who : Requester) (s : State) : Host.Outcome State Fault Refusal :=
  done [.power] [.glbSetupLock] s (when (s.regReach who && !s.upd.recovery && decide (who = .sup ∨ who = .func 0)) (fun s => s.setLock) s)

/-- SUP_RELEASE (R763, R764): the supervisor writes GLB_SUP_RELEASE. -/
def execSupRelease (v : Nat) (s : State) : Host.Outcome State Fault Refusal :=
  done [.sup, .out] [] s (when (s.regReach .sup) (fun s => s.releaseCores v) s)

/-- REGISTER_LATCHING_READ (R754): a read of `size` bytes at an offset of the requester's register space. -/
def execRegisterLatchingRead (who : Requester) (off size : Nat) (s : State) : Host.Outcome State Fault Refusal :=
  done [.latches, .winLatch, .cip, .sup, .ev, .out, .free] RegName.all s (when (s.regReach who) (fun s => s.regRead who off size) s)

/-- REGISTER_WRITE (R13, R754): a write of `size` bytes. -/
def execRegisterWrite (who : Requester) (off size v : Nat) (s : State) : Host.Outcome State Fault Refusal :=
  done coldParts RegName.all s (when (s.regReach who) (fun s => s.regWriteAt who off size v) s)

end Sys2Proof.Machine
end

