-- ==== Sys2Proof/Machine/YwpCmds.lean ====
section
/-!
DEFINITION. The commands of the wire protocol (R325 to R354): received packets, the timers of a session, the pacer, and the
dispatch of requests with their records.
-/

namespace Sys2Proof.Machine

/-- R335: a sender without a reservation whose invocations run out, or that has used the last, closes with CIPHER_LIMIT. -/
def State.limitCheck (s : State) (n : Nat) : State :=
  match s.ywp.slot? n with
  | none => s
  | some x =>
    if x.state = .opened ∧ ((reservedOf x = 0 ∧ 4294901760 < x.invoc) ∨ lastInvoc ≤ x.invoc) then s.sendClose n 3 3 else s

/-- Do something with an OPEN session while YWP runs. -/
def State.onOpen (s : State) (n : Nat) (f : Slot → State → State) : State :=
  match s.ywp.slot? n with
  | none => s
  | some x => when (s.linkOn && decide (x.state = .opened)) (fun s => (f x s).limitCheck n) s

/-! ### The handshake (R326 to R329) -/

/-- Cut a TLS flight into HANDSHAKE payloads: PSN, offset, bytes (R327). -/
def hsPieces (psn off : Nat) (b : Bytes) : List (Nat × Nat × Bytes) :=
  (List.range ((b.length + 1343) / 1344)).map fun i => (psn + i, off + i * 1344, slice b (i * 1344) 1344)

/-- Send HANDSHAKE packets of a slot. -/
def State.sendHs (s : State) (x : Slot) (ps : List (Nat × Nat × Bytes)) : State :=
  let s := ps.foldl (fun s q => s.emit (.packet x.n
    (s.addressed x 0
    { ver := 0, typ := 1, flags := 16 * s.fget .ywpCtrl_jumboEn + 32 * b2n (x.client && !x.peerKnown), sid := x.peerSlot, inc := x.peerInc,
      plen := q.2.2.length, psn := q.1, ackPsn := x.hsRx, window := s.window x, txTs := s.wireNs, msgId := x.n, valOff := q.2.1, srcInc := x.inc, bytes := q.2.2 }))) s
  if ps.isEmpty then s else s.modSlot x.n fun x => { x with spoke := s.clk.cycles }

/-- A handshake ends as failed: the slot is FREE with the next incarnation, with an event (R330). -/
def State.hsFail (s : State) (n : Nat) : State := (s.freeSlot n).report .sessionClosed n

/-- TLS has bytes to send; a stream over 65,536 bytes fails (R327). -/
def State.hsReply (s : State) (n : Nat) (b : Bytes) : State :=
  match s.ywp.slot? n with
  | none => s
  | some x =>
    if 65536 < x.hsSent + b.length then s.hsFail n
    else
      let ps := hsPieces x.hsTx x.hsSent b
      (s.modSlot n fun x => { x with hsTx := x.hsTx + ps.length, hsSent := x.hsSent + b.length, hsOut := x.hsOut ++ ps }).sendHs x ps

/-- The TLS options that the part supports (R326): suite, group and first key share, signature scheme, mutual authentication, ALPN, and nothing else. -/
def tlsSupported (p : TlsParams) : Bool :=
  decide (p.suite = 0x1302 ∧ p.group = 0x0018 ∧ p.sig = 0x0503) && p.bothAuth && p.alpn && !p.extra

/-- TLS takes the bytes of HANDSHAKE packets (R326 to R329, R357): firmware's result is an input; every handshake fails while
the DRBG has failed (R533). The session's exporter secret is a free value. The server enters OPEN and
sends an ACK; the client waits for the first authenticated packet. -/
def State.tlsStep (s : State) (n : Nat) (t : TlsStep) : State :=
  if s.flag .cipDrbgStat_failed then s.hsFail n
  else match t with
  | .more b => s.hsReply n b
  | .failed => s.hsFail n
  | .done b ver tenant identity member mgmt ps =>
    if ver < s.fget .ywpCtrl_verMin ∨ s.fget .ywpCtrl_verMax < ver ∨ !tlsSupported ps then s.hsFail n
    else
      let s := s.hsReply n b
      let (secret, s) := s.fresh
      let s := s.modSlot n fun x => { x with secret := secret, ver := ver, tenant := tenant, identity := identity, member := member, mgmt := mgmt }
      match s.ywp.slot? n with
      | none => s
      | some x => if x.state = .handshake ∧ !x.client then ((s.openSlot n).sendAck n false).sessionUp n else s

/-- The slot of a HANDSHAKE packet (R325, R327): by INIT the slot of (peer, MSG_ID), else the slot named. -/
def State.hsSlot (s : State) (p : YPacket) : Option Slot :=
  if bitAt p.flags 5 then s.ywp.slots.find? fun x => decide (x.state ≠ .free) && !x.client && x.peer == p.src && x.hsKey == p.msgId
  else (s.ywp.slot? p.sid).bind fun x => if x.state = .free then none else some x

/-- The TLS stream of a slot after a packet in order and those received ahead of it that follow on: the next PSN, the bytes so far, and whether each
packet's VAL_OFFSET is where the one before it ended (R327). -/
def hsAdvance (l : List (Nat × Nat × Nat)) (rx got : Nat) : Nat × Nat × Bool :=
  (sortBy (fun q => q.1) l).foldl (fun (r : Nat × Nat × Bool) q => if q.1 = r.1 then (r.1 + 1, r.2.1 + q.2.2, r.2.2 && q.2.1 == r.2.1) else r) (rx, got, true)

/-- A HANDSHAKE packet for a slot, from check 4 on. One ahead of the stream is kept until those before it have come. A stream that does not fit
together fails the handshake (DEDUCED, log entry 175). -/
def State.hsTake (s : State) (x : Slot) (p : YPacket) (t : TlsStep) : State :=
  let init := bitAt p.flags 5
  if !init ∧ p.inc ≠ x.inc then s.ydrop .ywpDrop_staleInc
  else if !init ∧ x.peerKnown ∧ p.src ≠ x.peer then s.ydrop .ywpDrop_noSession
  else if p.ver ≠ 0 then s.ydrop .ywpDrop_version
  else if p.psn < x.hsRx then s.ydrop .ywpDrop_duplicate
  else if x.hsRx + 8191 < p.psn then s.ydrop .ywpDrop_outOfWindow
  else
    let s := s.modSlot x.n fun x =>
      let x := if x.peerKnown then x else
        { x with peer := p.src, peerSlot := p.msgId, peerInc := p.srcInc, peerKnown := true, jumbo := x.jumbo && bitAt p.flags 4 }
      { x with hsOut := x.hsOut.filter fun q => decide (p.ackPsn ≤ q.1) }
    if p.psn ≠ x.hsRx then
      s.modSlot x.n fun x => { x with hsAhead := if x.hsAhead.any fun q => q.1 == p.psn then x.hsAhead else x.hsAhead ++ [(p.psn, p.valOff, p.plen)] }
    else
      let (rx, got, fits) := hsAdvance (x.hsAhead ++ [(p.psn, p.valOff, p.plen)]) x.hsRx x.hsStream
      let s := s.modSlot x.n fun x => { x with hsRx := rx, hsStream := got, hsAhead := x.hsAhead.filter fun q => decide (rx ≤ q.1) }
      if x.state ≠ .handshake ∨ x.ver ≠ 0 then s
      else if 65536 < got ∨ !fits then s.hsFail x.n
      else s.tlsStep x.n t

/-- HANDSHAKE (R325, R327): checks 1 to 3, then the slot's; a packet that a check drops takes no new slot. -/
def execHandshake (p : YPacket) (t : TlsStep) (s : State) : Host.Outcome State Fault Refusal :=
  done [.town, .ywp, .cip, .sup, .ev, .out, .free] [.ywpDrop, .ywpKeyStat] s (when (s.netOn) (fun s =>
    if ipBad p ∨ p.udpLen ≠ 64 + p.plen ∨ p.typ ≠ 1 ∨ p.rsvBad ∨ 1344 < p.plen then s.ydrop .ywpDrop_malformed
    else match s.hsSlot p with
      | some x => s.hsTake x p t
      | none =>
        if !bitAt p.flags 5 ∨ !s.ywpOn ∨ !s.ready ∨ 1024 ≤ s.ywp.handshaking then s.ydrop .ywpDrop_noSession
        else if p.ver ≠ 0 then s.ydrop .ywpDrop_version
        else if p.psn = 0 then s.ydrop .ywpDrop_duplicate
        else if 8192 < p.psn then s.ydrop .ywpDrop_outOfWindow
        else match s.ywp.newSlot with
          | none => s.ydrop .ywpDrop_noSession
          | some (n, inc) =>
            let x : Slot :=
              { n := n, state := .handshake, inc := inc, peer := p.src, hop := p.mac, peerSlot := p.msgId, peerInc := p.srcInc, peerKnown := true, hsKey := p.msgId,
                jumbo := bitAt p.flags 4 && s.flag .ywpCtrl_jumboEn, since := s.clk.cycles }
            (s.putSlot x).hsTake x p t) s)

/-- SESSION_OPEN (R330, R469): the part opens a session as client to a peer over a next hop, for a Town
member where `member` is its handle; `tls` is the first TLS flight. Before READY only the sessions of a join are opened (R26, R378). Without a
first flight firmware rewrites the next hop of the sessions to that peer, for which the table has no row (DESIGN CHOICE, log entry 145). -/
def execSessionOpen (peer : PeerAt) (member : Nat) (tls : Bytes) (s : State) : Host.Outcome State Fault Refusal :=
  done [.ywp, .cip, .sup, .ev, .out] [] s (if tls.isEmpty then { s with ywp := { s.ywp with slots := updWhere (fun x => x.peer == peer.peer) (fun x => { x with hop := peer.hop }) s.ywp.slots } }
    else when (s.ywpOn && (s.ready || decide (member ≠ 0)) && decide (s.ywp.handshaking < 1024)) (fun s =>
    match s.ywp.newSlot with
    | none => s
    | some (n, inc) =>
      let x : Slot :=
        { n := n, state := .handshake, inc := inc, client := true, peer := peer.peer, hop := peer.hop, identity := member, jumbo := s.flag .ywpCtrl_jumboEn, since := s.clk.cycles }
      (s.putSlot x).hsReply n tls) s)

/-- HANDSHAKE_RETRANSMIT (R327): packets unacknowledged after 10 ms are sent again. -/
def execHandshakeRetransmit (slot : Nat) (s : State) : Host.Outcome State Fault Refusal :=
  done [.clk, .ywp, .out] [] s (match s.ywp.slot? slot with
    | none => s
    | some x => when (s.netOn && decide (x.state = .handshake ∨ x.state = .opened) && !x.hsOut.isEmpty) (fun s =>
        (s.waitCycle (x.spoke + 10 * msCycles)).sendHs x x.hsOut) s)

/-- HANDSHAKE_TIMEOUT (R327, R330). -/
def execHandshakeTimeout (slot : Nat) (s : State) : Host.Outcome State Fault Refusal :=
  done [.clk, .ywp, .cip, .sup, .ev] [] s (match s.ywp.slot? slot with
    | none => s
    | some x => when (s.netOn && decide (x.state = .handshake)) (fun s =>
        (s.waitCycle (x.since + s.fget .ywpSessCtrl_hsTimeoutMs * msCycles)).hsFail slot) s)

/-- CLOSED_SLOT_FREE (R330): a CLOSED slot is FREE after 200 ms. -/
def execClosedSlotFree (slot : Nat) (s : State) : Host.Outcome State Fault Refusal :=
  done [.clk, .ywp, .cip] [] s (match s.ywp.slot? slot with
    | none => s
    | some x => when (s.netOn && decide (x.state = .closed)) (fun s => (s.waitCycle (x.since + 200 * msCycles)).freeSlot slot) s)

/-- OLD_GENERATION_ERASE (R334): 100 ms after the change the old receive generation is erased, with an event. -/
def execOldGenerationErase (slot : Nat) (s : State) : Host.Outcome State Fault Refusal :=
  done [.clk, .ywp, .cip, .sup, .ev] [] s (match (s.ywp.slot? slot).bind fun x => x.oldGen with
    | none => s
    | some g => when s.netOn (fun s =>
        (((s.waitCycle (g.2 + 100 * msCycles)).skErase slot 1 3).modSlot slot fun x => { x with oldGen := none }).report .rekey slot) s)

/-! ### Protected packets -/

/-- In CLOSED, an authenticated packet is answered with a CLOSE of the same cause (R330); DEAD went out as PROTOCOL. -/
def State.answerClosed (s : State) (x : Slot) : State :=
  s.sendPacket x.n { typ := 4, psn := x.nextPsn, plen := 8, cause := if x.cause = 0 then 2 else x.cause }

/-- Checks 1 to 8 of a protected packet, then its effect on a slot that is not CLOSED. -/
def State.receive (s : State) (p : YPacket) (typ : Nat) (f : Slot → State → State) : State :=
  when (s.linkOn) (fun s =>
    match s.checkPacket p typ with
    | .error c => s.ydrop c
    | .ok x =>
      if x.state = .closed then s.answerClosed x
      else
        let s := f x s
        ((if x.state = .handshake then s.sessionUp x.n else s).limitCheck x.n).distCheck) s

/-- Move ACK_PSN past a PSN and those received after it. -/
def advance : Nat → Slot → Slot
  | 0, x => x
  | k + 1, x =>
    let x := { x with rxNext := (x.rxNext + 1) % 2 ^ 32 }
    if x.rxAhead.contains x.rxNext then advance k { x with rxAhead := x.rxAhead.filter fun q => q != x.rxNext } else x

/-- A DATA packet is taken: acknowledgement state, its segment, and the ACK it calls for (R337, R338, R345). -/
def State.takeData (s : State) (x : Slot) (p : YPacket) : State :=
  let inOrder := p.psn == x.rxNext
  let gap := !inOrder || !x.rxAhead.isEmpty
  let s := ((s.authenticated x p).ackTo x.n p false).modSlot x.n fun x =>
    let x := if inOrder then advance (x.rxAhead.length + 1) x else { x with rxAhead := x.rxAhead ++ [p.psn] }
    { x with echoTs := p.txTs, echoOwd := (s.wireNs + 2 ^ 64 - p.txTs) % 2 ^ 32, ce := x.ce || p.ce, rxUnacked := x.rxUnacked + 1,
             rxFirst := if x.rxUnacked = 0 then s.clk.cycles else x.rxFirst }
  let s := s.placeSeg x.n p
  match s.ywp.slot? x.n with
  | none => s
  | some y =>
    if y.state = .opened ∧ (gap ∨ p.ce ∨ bitAt p.flags 0 ∨ s.fget .ywpTimerCtrl_ackPkts ≤ y.rxUnacked) then s.sendAck x.n false else s

/-- DATA (R325, R337). -/
def execData (p : YPacket) (s : State) : Host.Outcome State Fault Refusal :=
  done (townParts ++ [.free]) (dataRegs ++ [.ywpDrop]) s (s.receive p 2 fun x s =>
    if after x.rxNext p.psn ∨ x.rxAhead.contains p.psn then (s.ydrop .ywpDrop_duplicate).sendAck x.n false
    else if 8191 < serial p.psn x.rxNext then s.ydrop .ywpDrop_outOfWindow
    else s.takeData x p)

/-- ACK (R338 to R344, R359). -/
def execAck (p : YPacket) (s : State) : Host.Outcome State Fault Refusal :=
  done (sessionParts ++ [.town, .free]) [.ywpDrop, .ywpKeyStat] s (s.receive p 3 fun x s =>
    let s := s.authenticated x p
    if p.plen ≠ 8 * p.sack.length ∨ 32 < p.sack.length then s.violation x.n
    else
      let s := s.ackTo x.n p true
      if bitAt p.flags 0 then s.sendAck x.n false else s)

/-- CLOSE (R323, R330, R332): a cause that is not defined is treated as PROTOCOL; a payload of other than 8 bytes is a violation of it. -/
def execClose (p : YPacket) (s : State) : Host.Outcome State Fault Refusal :=
  done (sessionParts ++ [.town, .free]) [.ywpDrop, .ywpKeyStat] s (s.receive p 4 fun x s => if p.plen ≠ 8 then (s.authenticated x p).violation x.n else (s.authenticated x p).closeSlot x.n (if 1 ≤ p.cause ∧ p.cause ≤ 5 then p.cause else 2))

/-! ### Timers of an OPEN session -/

/-- ACK_DELAY_TIMEOUT (R338): ACK_DELAY_US after the first packet not yet acknowledged. -/
def execAckDelayTimeout (slot : Nat) (s : State) : Host.Outcome State Fault Refusal :=
  done (sessionParts ++ [.clk]) [.ywpKeyStat] s (s.onOpen slot fun x s =>
    if x.rxUnacked = 0 then s else (s.waitCycle (x.rxFirst + s.fget .ywpTimerCtrl_ackDelayUs * usCycles)).sendAck slot false)

/-- RETRANSMIT_TIMEOUT (R340, R341, R344). -/
def execRetransmitTimeout (slot : Nat) (s : State) : Host.Outcome State Fault Refusal :=
  done (sessionParts ++ [.clk]) [.ywpKeyStat] s (s.onOpen slot fun x s =>
    match sortBy (fun (k : TxPkt) => serial k.psn x.ackedTo) x.unacked with
    | [] => s
    | k :: _ =>
      let s := s.waitCycle (x.timer + nsCycles x.rto)
      if s.fget .ywpTimerCtrl_maxRetx ≤ k.retx then s.sendClose slot 2 0
      else
        (s.resend slot k true).modSlot slot fun x =>
          let x := if slotP x < x.cwnd then decrease s.clk.cycles (slotP x) x else x
          { x with rto := min rtoCap (2 * x.rto), timer := s.clk.cycles })

/-- SESSION_DEAD (R341): nothing authenticated for IDLE_MS. -/
def execSessionDead (slot : Nat) (s : State) : Host.Outcome State Fault Refusal :=
  done (sessionParts ++ [.clk]) [.ywpKeyStat] s (s.onOpen slot fun x s => (s.waitCycle (x.heard + s.fget .ywpSessCtrl_idleMs * msCycles)).sendClose slot 2 0)

/-- KEEPALIVE (R341): while nothing arrives, an ACK with ACK_NOW every KEEPALIVE_MS. -/
def execKeepalive (slot : Nat) (s : State) : Host.Outcome State Fault Refusal :=
  done (sessionParts ++ [.clk]) [.ywpKeyStat] s (s.onOpen slot fun x s =>
    let k := s.fget .ywpSessCtrl_keepaliveMs * msCycles
    (s.waitCycle (x.heard + ((s.clk.cycles - x.heard) / k + 1) * k)).sendAck slot true)

/-- WINDOW_PROBE (R342): while the peer's WINDOW is 0, an ACK with ACK_NOW once per RTO. -/
def execWindowProbe (slot : Nat) (s : State) : Host.Outcome State Fault Refusal :=
  done (sessionParts ++ [.clk]) [.ywpKeyStat] s (s.onOpen slot fun x s =>
    if x.peerWindow = 0 then (s.waitCycle (x.spoke + nsCycles x.rto)).sendAck slot true else s)

/-- PACED_TRANSMIT (R346): a burst of at most BURST_PKTS packets, or one packet while cwnd is below P. -/
def execPacedTransmit (slot : Nat) (s : State) : Host.Outcome State Fault Refusal :=
  done sessionParts [.ywpKeyStat] s (s.onOpen slot fun x s =>
    (List.range (if x.cwnd < slotP x then 1 else s.fget .ywpCcCtrl_burstPkts)).foldl (fun s _ => s.paceOne slot) s)

/-- IDLE_SESSION_CLOSE (R332): firmware closes an idle session with NORMAL. -/
def execIdleSessionClose (slot : Nat) (s : State) : Host.Outcome State Fault Refusal :=
  done sessionParts [.ywpKeyStat] s (s.onOpen slot fun _ s => s.sendClose slot 1 1)

/-! ### Requests (R352, R353) -/

/-- Space a request's record takes, of the 2,097,152 records of R353. -/
def reqRecordUnits (d : Desc) (body : Bytes) : Nat := if d.opc = opBatch then 1 + (batchCount body + 3) / 4 else 1

/-- Records in use. -/
def YwpSt.recordsUsed (y : YwpSt) : Nat := (y.records.map fun r => 1 + (r.body.length + 63) / 64).sum

/-- A request waits for one that was sent before it (R352): a segment of an earlier message may still name its key, or an
earlier message has not been dispatched and is on its key or is a BARRIER; a BARRIER waits for every earlier one. -/
def reqBehind (x : Slot) (m : RxMsg) (d : Desc) (key : Bytes) : Bool :=
  let before := x.rx.filter fun e => after m.msgId e.msgId && !after x.rxOpenFrom e.msgId
  decide ((before.filter fun e => e.head.isSome).length < serial m.msgId x.rxOpenFrom) ||
    before.any fun e => !e.taken && !e.ended && (match e.head with
      | some (.request d' key' _ _ _ _ _) => d.opc == opBarrier || d'.opc == opBarrier || (decide (d.ksp = d'.ksp) && key == key')
      | _ => false)

/-- REQUEST_DISPATCH (R352, R353, R335): a complete request, of which none is accepted in a flush (R213), is answered from its record, waits for its running twin, is
refused for want of invocations, or takes a context. -/
def execRequestDispatch (slot msgId : Nat) (s : State) : Host.Outcome State Fault Refusal :=
  done (dataParts ++ [.cip]) (dataRegs ++ [.ywpDedupStat]) s (s.onOpen slot fun x s =>
    match x.rx.find? fun m => m.msgId == msgId with
    | none => s
    | some m =>
      match m.head with
      | some (.request d key rbuf rq epoch _ _) =>
        let h := YHead.request d key rbuf rq epoch 0 false
        let fx : Fetched := { key := key, value := m.body.take d.vlen }
        let d : Desc := { d with key40 := padTo 40 key, vsglCnt := 0, rsglCnt := 1, rsglInl := { addr := 0, len := rbuf } }
        let rec_ := decide (rq ≠ 0) && leavesRecord d fx
        let need := s.reserveFor (segCount (slotP x) 0 (if usesResult d.opc then rbuf else 0))
        if !s.netOn ∨ !s.hasFlash ∨ !m.complete ∨ m.taken ∨ m.ended ∨ reqBehind x m d key ∨ (s.isMember ∧ s.town.epoch < epoch) then s
        else match (if rec_ then s.ywp.records.find? fun r => r.identity == x.identity && r.tenant == x.tenant && r.reqNo == rq else none) with
          | some r =>
            ((s.modSlot slot (endRx msgId)).sendMsg slot (.reply d.opc r.status r.rlen r.body.length r.stamp r.origin msgId rq) r.body none).fadd .ywpDedupStat_hits 1
          | none =>
            if rec_ ∧ s.kv.ctxs.any (fun c => c.identity == x.identity && c.reqNo == rq && decide (c.pool = .target)) then
              let s := s.modSlot slot fun x => { x with rx := updWhere (fun e => e.msgId == msgId) (fun e => { e with taken := true }) x.rx }
              { s with ywp := { s.ywp with running := s.ywp.running ++ [(slot, msgId, x.identity, rq)] } }
            else if 4294901760 < x.invoc + reservedOf x + need then (s.quickReply slot msgId h stCipherLimit).fadd .ywpKeyStat_cipherLimits 1
            else if rec_ ∧ 2097152 < s.ywp.recordsUsed + reqRecordUnits d fx.value then s
            else match s.openTarget slot msgId x.tenant x.identity rq d fx with
              | none => s
              | some (c, s) =>
                let s := s.modSlot slot fun x =>
                  { x with rx := updWhere (fun e => e.msgId == msgId) (fun e => { e with taken := true, segs := [], res := need }) x.rx,
                           rxQueue := x.rxQueue - (m.segs.map fun q => q.2.length).sum }
                s.admitCtx c
      | _ => s)

/-- REQUEST_RECORD_EXPIRY (R353): HOLD_MS after completion a record goes. -/
def execRequestRecordExpiry (identity reqNo : Nat) (s : State) : Host.Outcome State Fault Refusal :=
  done [.clk, .ywp] [] s (match s.ywp.records.find? fun r => r.identity == identity && r.reqNo == reqNo with
    | none => s
    | some r => when s.netOn (fun s =>
        let s := s.waitCycle (r.made + s.fget .ywpDedupCtrl_holdMs * msCycles)
        { s with ywp := { s.ywp with records := s.ywp.records.filter fun q => !(q.identity == identity && q.reqNo == reqNo) } }) s)

end Sys2Proof.Machine
end

