-- ==== Sys2Proof/Machine/Dispatch.lean ====
section
/-!
DEFINITION. The dispatch of commands to their meanings: one arm per constructor of Instr, one direct call each.
-/

namespace Sys2Proof.Machine

/-- The effect of a command on everything but the queue. -/
def exec (i : Instr) (s : State) : Host.Outcome State Fault Refusal :=
  match i with
  | .get src d x => Sys2Proof.Machine.execGet src d x s
  | .getRange src d x => Sys2Proof.Machine.execGetRange src d x s
  | .exists src d x => Sys2Proof.Machine.execExists src d x s
  | .getMeta src d x => Sys2Proof.Machine.execGetMeta src d x s
  | .put src d x => Sys2Proof.Machine.execPut src d x s
  | .putIf src d x => Sys2Proof.Machine.execPutIf src d x s
  | .patch src d x => Sys2Proof.Machine.execPatch src d x s
  | .append src d x => Sys2Proof.Machine.execAppend src d x s
  | .delete src d x => Sys2Proof.Machine.execDelete src d x s
  | .deleteIf src d x => Sys2Proof.Machine.execDeleteIf src d x s
  | .batch src d x => Sys2Proof.Machine.execBatch src d x s
  | .stageOpen src d x => Sys2Proof.Machine.execStageOpen src d x s
  | .stageData src d x => Sys2Proof.Machine.execStageData src d x s
  | .stagePublish src d x => Sys2Proof.Machine.execStagePublish src d x s
  | .stageDiscard src d x => Sys2Proof.Machine.execStageDiscard src d x s
  | .scan src d x => Sys2Proof.Machine.execScan src d x s
  | .snapshotOpen src d x => Sys2Proof.Machine.execSnapshotOpen src d x s
  | .snapshotClose src d x => Sys2Proof.Machine.execSnapshotClose src d x s
  | .barrier src d x => Sys2Proof.Machine.execBarrier src d x s
  | .operationDispatch id => Sys2Proof.Machine.execOperationDispatch id s
  | .stampCounterWaitEnd id => Sys2Proof.Machine.execStampCounterWaitEnd id s
  | .commitWaitDone id => Sys2Proof.Machine.execCommitWaitDone id s
  | .readResume id => Sys2Proof.Machine.execReadResume id s
  | .stagedIdleTimeout handle => Sys2Proof.Machine.execStagedIdleTimeout handle s
  | .leaseExpiry tenant stamp => Sys2Proof.Machine.execLeaseExpiry tenant stamp s
  | .identify f d x => Sys2Proof.Machine.execIdentify f d x s
  | .keyspaceCreate f d x => Sys2Proof.Machine.execKeyspaceCreate f d x s
  | .keyspaceDelete f d x => Sys2Proof.Machine.execKeyspaceDelete f d x s
  | .keyspaceQuery f d x => Sys2Proof.Machine.execKeyspaceQuery f d x s
  | .setPowerState f d x => Sys2Proof.Machine.execSetPowerState f d x s
  | .powerEntryDone => Sys2Proof.Machine.execPowerEntryDone s
  | .powerEntryAbandon => Sys2Proof.Machine.execPowerEntryAbandon s
  | .getHealth f d x => Sys2Proof.Machine.execGetHealth f d x s
  | .stateDump f d x => Sys2Proof.Machine.execStateDump f d x s
  | .updateChunk f d x copies => Sys2Proof.Machine.execUpdateChunk f d x copies s
  | .updateQuery f d x => Sys2Proof.Machine.execUpdateQuery f d x s
  | .updateConfirm f d x => Sys2Proof.Machine.execUpdateConfirm f d x s
  | .townQuery f d x => Sys2Proof.Machine.execTownQuery f d x s
  | .townJoin f d x => Sys2Proof.Machine.execTownJoin f d x s
  | .townLeave f d x => Sys2Proof.Machine.execTownLeave f d x s
  | .townRemove f d x => Sys2Proof.Machine.execTownRemove f d x s
  | .townMove f d x => Sys2Proof.Machine.execTownMove f d x s
  | .townHallReturn f d x => Sys2Proof.Machine.execTownHallReturn f d x s
  | .ledgerSet f d x => Sys2Proof.Machine.execLedgerSet f d x s
  | .eventClear f d x => Sys2Proof.Machine.execEventClear f d x s
  | .logEraseDone => Sys2Proof.Machine.execLogEraseDone s
  | .summaryPoll f => Sys2Proof.Machine.execSummaryPoll f s
  | .swapReturn f r => Sys2Proof.Machine.execSwapReturn f r s
  | .doorbellPoll f n => Sys2Proof.Machine.execDoorbellPoll f n s
  | .doorbellReadDone f n tail head => Sys2Proof.Machine.execDoorbellReadDone f n tail head s
  | .cqHeadReread f n => Sys2Proof.Machine.execCqHeadReread f n s
  | .adminDoorbellPoll => Sys2Proof.Machine.execAdminDoorbellPoll s
  | .hqAdmKick f => Sys2Proof.Machine.execHqAdmKick f s
  | .descriptorFetch f n ds => Sys2Proof.Machine.execDescriptorFetch f n ds s
  | .descriptorReadFault f n => Sys2Proof.Machine.execDescriptorReadFault f n s
  | .hostFetchDone id x => Sys2Proof.Machine.execHostFetchDone id x s
  | .ringEnable f n => Sys2Proof.Machine.execRingEnable f n s
  | .ringResetRequest f n => Sys2Proof.Machine.execRingResetRequest f n s
  | .queueResetTaken f n => Sys2Proof.Machine.execQueueResetTaken f n s
  | .queueResetDone f n => Sys2Proof.Machine.execQueueResetDone f n s
  | .msixCoalesceTimeout f n => Sys2Proof.Machine.execMsixCoalesceTimeout f n s
  | .functionLevelReset f => Sys2Proof.Machine.execFunctionLevelReset f s
  | .vfEnableClear => Sys2Proof.Machine.execVfEnableClear s
  | .leafWriteBack ward pfx ldepth => Sys2Proof.Machine.execLeafWriteBack ward pfx ldepth s
  | .leafRebuildDone ward pfx ldepth => Sys2Proof.Machine.execLeafRebuildDone ward pfx ldepth s
  | .adScrub bad => Sys2Proof.Machine.execAdScrub bad s
  | .tunDrain entry => Sys2Proof.Machine.execTunDrain entry s
  | .powerFailFlush => Sys2Proof.Machine.execPowerFailFlush s
  | .flushEnd lastUs => Sys2Proof.Machine.execFlushEnd lastUs s
  | .pwrfailRestart => Sys2Proof.Machine.execPwrfailRestart s
  | .lunRelease lun => Sys2Proof.Machine.execLunRelease lun s
  | .nandReadDone op decoded corrected unsat raw => Sys2Proof.Machine.execNandReadDone op decoded corrected unsat raw s
  | .nandProgramDone op pass => Sys2Proof.Machine.execNandProgramDone op pass s
  | .nandEraseDone op pass => Sys2Proof.Machine.execNandEraseDone op pass s
  | .terraceCloseTimeout wseq => Sys2Proof.Machine.execTerraceCloseTimeout wseq s
  | .setVerify wseq worst parityOk => Sys2Proof.Machine.execSetVerify wseq worst parityOk s
  | .eraseResume lun => Sys2Proof.Machine.execEraseResume lun s
  | .rawReadGo mode => Sys2Proof.Machine.execRawReadGo mode s
  | .lunTimeout lun => Sys2Proof.Machine.execLunTimeout lun s
  | .mediaMapCheckpoint => Sys2Proof.Machine.execMediaMapCheckpoint s
  | .spargeVictimSelect => Sys2Proof.Machine.execSpargeVictimSelect s
  | .spargeTargetPad wseq => Sys2Proof.Machine.execSpargeTargetPad wseq s
  | .epochAdvance => Sys2Proof.Machine.execEpochAdvance s
  | .blockErase lun blk => Sys2Proof.Machine.execBlockErase lun blk s
  | .scrubPass wseq cws => Sys2Proof.Machine.execScrubPass wseq cws s
  | .tempHistogramTick => Sys2Proof.Machine.execTempHistogramTick s
  | .handshake p t => Sys2Proof.Machine.execHandshake p t s
  | .data p => Sys2Proof.Machine.execData p s
  | .ack p => Sys2Proof.Machine.execAck p s
  | .close p => Sys2Proof.Machine.execClose p s
  | .sessionOpen peer member tls => Sys2Proof.Machine.execSessionOpen peer member tls s
  | .handshakeRetransmit slot => Sys2Proof.Machine.execHandshakeRetransmit slot s
  | .handshakeTimeout slot => Sys2Proof.Machine.execHandshakeTimeout slot s
  | .closedSlotFree slot => Sys2Proof.Machine.execClosedSlotFree slot s
  | .oldGenerationErase slot => Sys2Proof.Machine.execOldGenerationErase slot s
  | .ackDelayTimeout slot => Sys2Proof.Machine.execAckDelayTimeout slot s
  | .retransmitTimeout slot => Sys2Proof.Machine.execRetransmitTimeout slot s
  | .sessionDead slot => Sys2Proof.Machine.execSessionDead slot s
  | .keepalive slot => Sys2Proof.Machine.execKeepalive slot s
  | .windowProbe slot => Sys2Proof.Machine.execWindowProbe slot s
  | .pacedTransmit slot => Sys2Proof.Machine.execPacedTransmit slot s
  | .requestDispatch slot msgId => Sys2Proof.Machine.execRequestDispatch slot msgId s
  | .requestRecordExpiry identity reqNo => Sys2Proof.Machine.execRequestRecordExpiry identity reqNo s
  | .termRound => Sys2Proof.Machine.execTermRound s
  | .termQuery m => Sys2Proof.Machine.execTermQuery m s
  | .join m => Sys2Proof.Machine.execJoin m s
  | .joinReply m => Sys2Proof.Machine.execJoinReply m s
  | .leave m => Sys2Proof.Machine.execLeave m s
  | .heartbeat m => Sys2Proof.Machine.execHeartbeat m s
  | .heartbeatSend => Sys2Proof.Machine.execHeartbeatSend s
  | .heartbeatMiss handle => Sys2Proof.Machine.execHeartbeatMiss handle s
  | .leaseLapse => Sys2Proof.Machine.execLeaseLapse s
  | .suspect m => Sys2Proof.Machine.execSuspect m s
  | .memberFailedDeclare handle => Sys2Proof.Machine.execMemberFailedDeclare handle s
  | .mapDelta m => Sys2Proof.Machine.execMapDelta m s
  | .mapAck m => Sys2Proof.Machine.execMapAck m s
  | .mapFetch m => Sys2Proof.Machine.execMapFetch m s
  | .mapFull m => Sys2Proof.Machine.execMapFull m s
  | .epochWaitTimeout => Sys2Proof.Machine.execEpochWaitTimeout s
  | .replicate m => Sys2Proof.Machine.execReplicate m s
  | .replAck m => Sys2Proof.Machine.execReplAck m s
  | .transferData m => Sys2Proof.Machine.execTransferData m s
  | .transferCopyDone ward => Sys2Proof.Machine.execTransferCopyDone ward s
  | .transferReady m => Sys2Proof.Machine.execTransferReady m s
  | .cutTimeout ward => Sys2Proof.Machine.execCutTimeout ward s
  | .takeover m => Sys2Proof.Machine.execTakeover m s
  | .keyspaceReq m => Sys2Proof.Machine.execKeyspaceReq m s
  | .keyDist m => Sys2Proof.Machine.execKeyDist m s
  | .ownerRetryTimeout id => Sys2Proof.Machine.execOwnerRetryTimeout id s
  | .townJoinTimeout => Sys2Proof.Machine.execTownJoinTimeout s
  | .ptpSyncExchange master m path => Sys2Proof.Machine.execPtpSyncExchange master m path s
  | .ptpAnnounce domain a => Sys2Proof.Machine.execPtpAnnounce domain a s
  | .ptpMessageSend kind => Sys2Proof.Machine.execPtpMessageSend kind s
  | .announceReceiptTimeout => Sys2Proof.Machine.execAnnounceReceiptTimeout s
  | .ppsInEdge => Sys2Proof.Machine.execPpsInEdge s
  | .ppsLoss => Sys2Proof.Machine.execPpsLoss s
  | .ptpTodSet sec => Sys2Proof.Machine.execPtpTodSet sec s
  | .ppsOutEdge => Sys2Proof.Machine.execPpsOutEdge s
  | .ppsOutWidthEnd => Sys2Proof.Machine.execPpsOutWidthEnd s
  | .frameReceive p f => Sys2Proof.Machine.execFrameReceive p f s
  | .txFrameStart p => Sys2Proof.Machine.execTxFrameStart p s
  | .fwTransmit p tail fs => Sys2Proof.Machine.execFwTransmit p tail fs s
  | .portEnable p => Sys2Proof.Machine.execPortEnable p s
  | .linkUp p => Sys2Proof.Machine.execLinkUp p s
  | .linkTimeout p => Sys2Proof.Machine.execLinkTimeout p s
  | .linkDown p => Sys2Proof.Machine.execLinkDown p s
  | .bankFailover p => Sys2Proof.Machine.execBankFailover p s
  | .partnerTtlExpiry p => Sys2Proof.Machine.execPartnerTtlExpiry p s
  | .parkEvaluation p txPct rxPct => Sys2Proof.Machine.execParkEvaluation p txPct rxPct s
  | .restoreDemand p kib pct => Sys2Proof.Machine.execRestoreDemand p kib pct s
  | .parkReq p m => Sys2Proof.Machine.execParkReq p m s
  | .parkAck p m => Sys2Proof.Machine.execParkAck p m s
  | .nak p m => Sys2Proof.Machine.execNak p m s
  | .restoreReq p m => Sys2Proof.Machine.execRestoreReq p m s
  | .restoreAck p m => Sys2Proof.Machine.execRestoreAck p m s
  | .laneSwitchPoint p => Sys2Proof.Machine.execLaneSwitchPoint p s
  | .alignmentRecovery p lanes => Sys2Proof.Machine.execAlignmentRecovery p lanes s
  | .restoreNoAnswer p => Sys2Proof.Machine.execRestoreNoAnswer p s
  | .crossChange p => Sys2Proof.Machine.execCrossChange p s
  | .crossChangeTime p => Sys2Proof.Machine.execCrossChangeTime p s
  | .gateEntryAdvance p => Sys2Proof.Machine.execGateEntryAdvance p s
  | .wakeCheckReverify => Sys2Proof.Machine.execWakeCheckReverify s
  | .managementLinkChange => Sys2Proof.Machine.execManagementLinkChange s
  | .mdioGo v => Sys2Proof.Machine.execMdioGo v s
  | .mdioDone data => Sys2Proof.Machine.execMdioDone data s
  | .loadTrk f => Sys2Proof.Machine.execLoadTrk f s
  | .loadSlot f slot => Sys2Proof.Machine.execLoadSlot f slot s
  | .clearSlot f slot => Sys2Proof.Machine.execClearSlot f slot s
  | .clearAll f => Sys2Proof.Machine.execClearAll f s
  | .keyPageIsolationFault who page => Sys2Proof.Machine.execKeyPageIsolationFault who page s
  | .sessionKeyLoad => Sys2Proof.Machine.execSessionKeyLoad s
  | .sessionKeyErase => Sys2Proof.Machine.execSessionKeyErase s
  | .entropyHealthFail => Sys2Proof.Machine.execEntropyHealthFail s
  | .drbgRestart => Sys2Proof.Machine.execDrbgRestart s
  | .rngRead => Sys2Proof.Machine.execRngRead s
  | .ledgerWindow dramKib netKib => Sys2Proof.Machine.execLedgerWindow dramKib netKib s
  | .nandOpGrant => Sys2Proof.Machine.execNandOpGrant s
  | .dieSensorRead temps => Sys2Proof.Machine.execDieSensorRead temps s
  | .externalSensorRead n raw => Sys2Proof.Machine.execExternalSensorRead n raw s
  | .thermalEvaluation => Sys2Proof.Machine.execThermalEvaluation s
  | .pwmPeriod c m => Sys2Proof.Machine.execPwmPeriod c m s
  | .commutation c stepCycles => Sys2Proof.Machine.execCommutation c stepCycles s
  | .overcurrentTrip c ma => Sys2Proof.Machine.execOvercurrentTrip c ma s
  | .listenEnd c h => Sys2Proof.Machine.execListenEnd c h s
  | .brakeTimeout c => Sys2Proof.Machine.execBrakeTimeout c s
  | .detectDone c peaks => Sys2Proof.Machine.execDetectDone c peaks s
  | .rampTimeout c => Sys2Proof.Machine.execRampTimeout c s
  | .coastEnd c => Sys2Proof.Machine.execCoastEnd c s
  | .runStable c => Sys2Proof.Machine.execRunStable c s
  | .driverFault => Sys2Proof.Machine.execDriverFault s
  | .driverFaultClear => Sys2Proof.Machine.execDriverFaultClear s
  | .fbusSample mv ma => Sys2Proof.Machine.execFbusSample mv ma s
  | .chopperTestEnd => Sys2Proof.Machine.execChopperTestEnd s
  | .channelClear c => Sys2Proof.Machine.execChannelClear c s
  | .curveApply c => Sys2Proof.Machine.execCurveApply c s
  | .clearChop => Sys2Proof.Machine.execClearChop s
  | .program d => Sys2Proof.Machine.execProgram d s
  | .eraseSector d => Sys2Proof.Machine.execEraseSector d s
  | .eraseBank d => Sys2Proof.Machine.execEraseBank d s
  | .marginVerify d => Sys2Proof.Machine.execMarginVerify d s
  | .eccStatus d => Sys2Proof.Machine.execEccStatus d s
  | .suspend d => Sys2Proof.Machine.execSuspend d s
  | .resume d => Sys2Proof.Machine.execResume d s
  | .setWp d => Sys2Proof.Machine.execSetWp d s
  | .cflOperationDone array pass us => Sys2Proof.Machine.execCflOperationDone array pass us s
  | .bankExecWrite v => Sys2Proof.Machine.execBankExecWrite v s
  | .cflBusFault core kind addr uncorr => Sys2Proof.Machine.execCflBusFault core kind addr uncorr s
  | .mgmtMessage slot msgId copies => Sys2Proof.Machine.execMgmtMessage slot msgId copies s
  | .caskHeaderIdleWrite => Sys2Proof.Machine.execCaskHeaderIdleWrite s
  | .trialExpiry => Sys2Proof.Machine.execTrialExpiry s
  | .trialStop => Sys2Proof.Machine.execTrialStop s
  | .recoveryData pkgLen off data => Sys2Proof.Machine.execRecoveryData pkgLen off data s
  | .recoveryQuery pkgLen => Sys2Proof.Machine.execRecoveryQuery pkgLen s
  | .recoveryPiece piece pkgLen => Sys2Proof.Machine.execRecoveryPiece piece pkgLen s
  | .recoveryCheckDone r => Sys2Proof.Machine.execRecoveryCheckDone r s
  | .eventReport block code key data => Sys2Proof.Machine.execEventReport block code key data s
  | .frontBufferProgram => Sys2Proof.Machine.execFrontBufferProgram s
  | .counterEntryWrite => Sys2Proof.Machine.execCounterEntryWrite s
  | .evtCursorWrite who v => Sys2Proof.Machine.execEvtCursorWrite who v s
  | .evtWindowLatch who => Sys2Proof.Machine.execEvtWindowLatch who s
  | .evtWindowAdvance who => Sys2Proof.Machine.execEvtWindowAdvance who s
  | .nonceDraw who => Sys2Proof.Machine.execNonceDraw who s
  | .nonceExpiry => Sys2Proof.Machine.execNonceExpiry s
  | .stwSelect who v => Sys2Proof.Machine.execStwSelect who v s
  | .stwLatch who => Sys2Proof.Machine.execStwLatch who s
  | .coldStart strap lost => Sys2Proof.Machine.execColdStart strap lost s
  | .porstNFall => Sys2Proof.Machine.execPorstNFall s
  | .hostReset => Sys2Proof.Machine.execHostReset s
  | .perstNRelease => Sys2Proof.Machine.execPerstNRelease s
  | .internalColdReset => Sys2Proof.Machine.execInternalColdReset s
  | .startStageDone r => Sys2Proof.Machine.execStartStageDone r s
  | .refclkLoss => Sys2Proof.Machine.execRefclkLoss s
  | .refclkReturn => Sys2Proof.Machine.execRefclkReturn s
  | .dramPatrolScrub found => Sys2Proof.Machine.execDramPatrolScrub found s
  | .setupLock who => Sys2Proof.Machine.execSetupLock who s
  | .supRelease v => Sys2Proof.Machine.execSupRelease v s
  | .registerLatchingRead who off size => Sys2Proof.Machine.execRegisterLatchingRead who off size s
  | .registerWrite who off size v => Sys2Proof.Machine.execRegisterWrite who off size v s
  | .vfEnableSet n => Sys2Proof.Machine.execVfEnableSet n s
  | .configurationRequest r => Sys2Proof.Machine.execConfigurationRequest r s
  | .pcieLinkReachesL0 => Sys2Proof.Machine.execPcieLinkReachesL0 s
  | .keyspaceReqAnswer m => Sys2Proof.Machine.execKeyspaceReqAnswer m s
  | .hallUnreachableTimeout id => Sys2Proof.Machine.execHallUnreachableTimeout id s
  | .forwardedTownControl m => Sys2Proof.Machine.execForwardedTownControl m s
  | .idleSessionClose slot => Sys2Proof.Machine.execIdleSessionClose slot s
  | .codeFlashRead core addr corrected => Sys2Proof.Machine.execCodeFlashRead core addr corrected s

end Sys2Proof.Machine
end

