-- ==== Sys2Proof/Safety.lean ====
section
/-!
DEFINITION. What a safe run of the block is said in: what a command can write at most (its reach), what it keeps, and the
canonical form that every step keeps.
-/

namespace Sys2Proof.Safety

open Sys2Proof.Machine

/-- Two states agree on a part. -/
def Agree : Part → State → State → Prop
  | .clk, s, t => t.clk = s.clk
  | .latches, s, t => t.latches = s.latches
  | .held, s, t => t.held = s.held
  | .winLatch, s, t => t.winLatch = s.winLatch
  | .ident, s, t => t.ident = s.ident
  | .power, s, t => t.power = s.power
  | .kv, s, t => t.kv = s.kv
  | .host, s, t => t.host = s.host
  | .index, s, t => t.index = s.index
  | .tun, s, t => t.tun = s.tun
  | .media, s, t => t.media = s.media
  | .time, s, t => t.time = s.time
  | .town, s, t => t.town = s.town
  | .ywp, s, t => t.ywp = s.ywp
  | .net, s, t => t.net = s.net
  | .cip, s, t => t.cip = s.cip
  | .led, s, t => t.led = s.led
  | .drt, s, t => t.drt = s.drt
  | .cfl, s, t => t.cfl = s.cfl
  | .upd, s, t => t.upd = s.upd
  | .sup, s, t => t.sup = s.sup
  | .ev, s, t => t.ev = s.ev
  | .changes, s, t => t.changes = s.changes
  | .out, s, t => t.out = s.out
  | .free, s, t => t.free = s.free

/-- What stays when only the parts `ps` and the registers named in `ns` can be written: the queue, every other part, and every
other register. The change counts (R690) are the block's own record of what changed, and stand apart. -/
def Keeps (ps : List Part) (ns : List RegName) (s t : State) : Prop :=
  t.pending = s.pending ∧ (∀ p, p ∉ ps → p ≠ .changes → Agree p s t) ∧ ∀ r : RegKey, r.name ∉ ns → t.reg r = s.reg r

/-- The canonical form of the registers: `RegKey.code` rises strictly, and no entry equals the reset value of R765. -/
def Inv (s : State) : Prop := regsOk s.regs = true

/-- What each command can write at most: parts of the state, and registers by name. -/
def reachOf : Instr → List Part × List RegName
  | .get .. | .getRange .. | .exists .. | .getMeta .. | .put .. | .putIf .. | .patch .. | .append .. | .delete ..
  | .deleteIf .. | .batch .. | .stageOpen .. | .stageData .. | .stagePublish .. | .stageDiscard .. | .scan ..
  | .snapshotOpen .. | .snapshotClose .. | .barrier .. | .descriptorFetch .. | .hostFetchDone .. =>
    (dataParts, dataRegs)
  | .readResume .. =>
    (dataParts ++ [.free], dataRegs)
  | .operationDispatch .. =>
    (townParts ++ [.cfl, .upd, .free], ledRegs ++ townRegs ++ [.adErr, .cipDrbgStat, .kveIdxStat, .ptpWaitStat])
  | .stampCounterWaitEnd .. | .commitWaitDone .. =>
    (dataParts ++ [.clk], dataRegs)
  | .stagedIdleTimeout .. =>
    ([.clk, .kv, .sup, .ev], [])
  | .leaseExpiry .. =>
    ([.clk, .kv], [])
  | .identify .. | .keyspaceQuery .. | .getHealth .. | .updateQuery .. | .eventClear .. =>
    (finishParts, ringRegs)
  | .keyspaceCreate .. | .keyspaceDelete .. =>
    (townParts ++ [.free], townRegs ++ [.cipDrbgStat])
  | .setPowerState .. =>
    (finishParts ++ [.power, .time, .net], countRegs ++ ringRegs)
  | .powerEntryDone .. =>
    (finishParts ++ [.clk, .power, .time, .net, .cip, .drt, .free], countRegs ++ ringRegs ++ [.cipKpSlotStat, .cipKpStat, .cipKpUse, .netWakeBad, .netWakePat, .ywpKeyStat])
  | .powerEntryAbandon .. =>
    (finishParts ++ [.clk, .power, .time, .net], countRegs ++ ringRegs)
  | .stateDump .. =>
    (finishParts, ringRegs)
  | .updateChunk .. =>
    (finishParts ++ [.upd, .power, .net, .time], ringRegs ++ countRegs)
  | .updateConfirm .. =>
    (finishParts ++ [.cfl, .upd], ringRegs)
  | .townQuery .. | .townJoin .. | .townLeave .. | .townRemove .. | .townMove .. | .townHallReturn .. | .termQuery ..
  | .leave .. | .mapDelta .. | .mapAck .. | .mapFull .. | .replAck .. | .transferCopyDone .. | .transferReady ..
  | .takeover .. | .forwardedTownControl .. =>
    (townParts, townRegs)
  | .ledgerSet .. =>
    (finishParts, ledRegs ++ ringRegs)
  | .logEraseDone .. =>
    (finishParts ++ [.cfl, .free], ringRegs ++ [.cflEccStat])
  | .summaryPoll .. | .doorbellPoll .. =>
    ([.clk, .host, .out], [.hqPollStat])
  | .swapReturn .. =>
    ([.clk, .host, .sup, .ev, .out], [.hqFuncStat])
  | .doorbellReadDone .. | .descriptorReadFault .. =>
    ([.host, .sup, .ev], [])
  | .adminDoorbellPoll .. | .msixCoalesceTimeout .. | .cqHeadReread .. =>
    ([.clk, .host, .out], [])
  | .hqAdmKick .. =>
    ([.host, .out], [])
  | .ringEnable .. =>
    (finishParts ++ [.power, .time, .net], countRegs ++ ringRegs ++ [.hqAdmCtrl, .hqRingCtrl])
  | .ringResetRequest .. =>
    ([.host], [.hqAdmCtrl, .hqRingCtrl])
  | .vfEnableSet .. | .pcieLinkReachesL0 .. =>
    ([.host], [])
  | .queueResetTaken .. =>
    ([.kv, .host, .tun, .media, .ywp, .out], ringRegs)
  | .queueResetDone .. =>
    ([.host, .out], ringRegs ++ [.hqAdmCtrl, .hqRingCtrl])
  | .functionLevelReset .. | .vfEnableClear .. =>
    (finishParts ++ [.latches, .held, .winLatch, .cip], pageRegs ++ [.ywpKeyStat])
  | .leafWriteBack .. =>
    ([.clk, .power, .index, .media, .time, .net, .sup, .ev, .out], countRegs)
  | .leafRebuildDone .. =>
    ([.index, .sup, .ev], [])
  | .adScrub .. =>
    ([.clk, .tun, .sup, .ev], [.adErr])
  | .tunDrain .. =>
    (dataParts ++ [.town], countRegs ++ ringRegs ++ [.adErr, .adStat, .kveIdxStat])
  | .powerFailFlush .. =>
    ([.power, .kv, .tun, .media, .drt, .cfl, .ev, .out, .free], [])
  | .flushEnd .. | .pwrfailRestart .. | .frameReceive .. | .managementLinkChange .. | .trialExpiry .. | .coldStart ..
  | .perstNRelease .. | .internalColdReset .. | .refclkReturn .. | .registerWrite .. =>
    (coldParts, RegName.all)
  | .lunRelease .. =>
    ([.media], [.medLunCtrl])
  | .nandReadDone .. =>
    (dataParts, dataRegs ++ [.cipKpUse, .medRawStat])
  | .nandProgramDone .. =>
    (dataParts ++ [.town], dataRegs ++ [.cipKpUse, .medRawStat, .medSpgStat])
  | .nandEraseDone .. | .lunTimeout .. =>
    (dataParts ++ [.town], dataRegs ++ [.cipKpUse, .medRawStat])
  | .terraceCloseTimeout .. | .spargeTargetPad .. =>
    ([.clk, .power, .media, .time, .net, .sup, .ev, .out], countRegs)
  | .setVerify .. =>
    (finishParts ++ [.index, .town], ringRegs)
  | .eraseResume .. | .mediaMapCheckpoint .. =>
    ([.media], [])
  | .rawReadGo .. =>
    ([.power, .media, .time, .net, .sup, .ev, .out], countRegs ++ [.medRawCtrl, .medRawStat])
  | .spargeVictimSelect .. | .blockErase .. =>
    ([.power, .media, .time, .net, .sup, .ev, .out], countRegs)
  | .epochAdvance .. | .tempHistogramTick .. =>
    ([.clk, .media], [])
  | .scrubPass .. =>
    ([.clk, .media, .sup, .ev], [])
  | .handshake .. =>
    ([.town, .ywp, .cip, .sup, .ev, .out, .free], [.ywpDrop, .ywpKeyStat])
  | .data .. =>
    (townParts ++ [.free], dataRegs ++ [.ywpDrop])
  | .ack .. | .close .. =>
    (sessionParts ++ [.town, .free], [.ywpDrop, .ywpKeyStat])
  | .sessionOpen .. =>
    ([.ywp, .cip, .sup, .ev, .out], [])
  | .handshakeRetransmit .. | .epochWaitTimeout .. =>
    ([.clk, .ywp, .out], [])
  | .handshakeTimeout .. | .oldGenerationErase .. =>
    ([.clk, .ywp, .cip, .sup, .ev], [])
  | .closedSlotFree .. =>
    ([.clk, .ywp, .cip], [])
  | .ackDelayTimeout .. | .retransmitTimeout .. | .sessionDead .. | .keepalive .. | .windowProbe .. =>
    (sessionParts ++ [.clk], [.ywpKeyStat])
  | .pacedTransmit .. | .idleSessionClose .. =>
    (sessionParts, [.ywpKeyStat])
  | .requestDispatch .. =>
    (dataParts ++ [.cip], dataRegs ++ [.ywpDedupStat])
  | .requestRecordExpiry .. =>
    ([.clk, .ywp], [])
  | .termRound .. | .memberFailedDeclare .. | .cutTimeout .. =>
    (townParts ++ [.clk], townRegs)
  | .join .. | .heartbeat .. =>
    ([.town, .ywp, .out], [.twnDrop])
  | .joinReply .. =>
    (finishParts ++ [.town], ringRegs ++ [.twnDrop])
  | .heartbeatSend .. =>
    (townParts ++ [.clk], townRegs)
  | .heartbeatMiss .. =>
    ([.clk, .town, .ywp, .out], [])
  | .leaseLapse .. =>
    ([.clk, .town, .sup, .ev], [])
  | .suspect .. =>
    ([.town], [.twnDrop])
  | .mapFetch .. =>
    ([.ywp, .out], [.twnDrop])
  | .replicate .. | .transferData .. =>
    (changeParts, changeRegs)
  | .keyspaceReq .. =>
    (townParts ++ [.free], townRegs ++ [.cipDrbgStat])
  | .keyDist .. =>
    (finishParts ++ [.cip], ringRegs ++ [.cipErr, .cipKpSlotStat, .cipKpStat, .cipKpUse, .twnDrop, .ywpKeyStat])
  | .ownerRetryTimeout .. =>
    (finishParts ++ [.clk], ringRegs)
  | .townJoinTimeout .. =>
    ([.clk, .power, .index, .upd], [])
  | .ptpSyncExchange .. =>
    ([.clk, .time, .sup, .ev], [.ptpIncr, .ptpStat])
  | .ptpAnnounce .. | .ptpTodSet .. =>
    ([.time], [])
  | .configurationRequest .. =>
    ([.host, .out], [])
  | .ptpMessageSend .. =>
    ([.out], [])
  | .announceReceiptTimeout .. | .ppsLoss .. =>
    ([.clk, .time, .sup, .ev], [])
  | .ppsInEdge .. =>
    ([.clk, .time, .sup, .ev], [.ptpIncr, .ptpPpsTs, .ptpStat])
  | .ppsOutEdge .. | .ppsOutWidthEnd .. =>
    ([.clk, .time], [])
  | .txFrameStart .. | .parkEvaluation .. =>
    ([.clk, .net, .out], countRegs)
  | .fwTransmit .. =>
    ([.net], [.netFwqCtrl])
  | .portEnable .. =>
    ([.net], [.netPortCtrl])
  | .linkUp .. =>
    ([.time, .net, .sup, .ev], [])
  | .linkTimeout .. | .crossChangeTime .. =>
    ([.clk, .net], countRegs)
  | .linkDown .. =>
    ([.time, .net, .sup, .ev], countRegs)
  | .bankFailover .. =>
    ([.clk, .net, .sup, .ev], countRegs)
  | .partnerTtlExpiry .. | .gateEntryAdvance .. =>
    ([.clk, .net], [])
  | .restoreDemand .. =>
    ([.power, .time, .net, .sup, .ev, .out], countRegs)
  | .parkReq .. | .restoreReq .. =>
    ([.net, .out], countRegs)
  | .parkAck .. | .nak .. | .restoreAck .. =>
    ([.net, .sup, .ev, .out], countRegs)
  | .laneSwitchPoint .. =>
    ([.clk, .net, .sup, .ev, .out], countRegs)
  | .alignmentRecovery .. =>
    ([.time, .net, .sup, .ev, .free], countRegs)
  | .restoreNoAnswer .. =>
    ([.clk, .time, .net, .sup, .ev], countRegs)
  | .crossChange .. =>
    ([.town, .ywp, .net, .sup, .ev, .out], [.netCrossCtrl])
  | .wakeCheckReverify .. =>
    ([.clk, .net, .sup, .ev], [.netWakeBad, .netWakePat])
  | .mdioGo .. =>
    ([.net, .out], [.netMgmtMdio])
  | .mdioDone .. =>
    ([.clk, .net], [.netMgmtMdio])
  | .loadTrk .. =>
    ([.ywp, .cip, .sup, .ev, .out], [.cipErr, .cipKpStat, .cipKpTrk, .cipKpWrap])
  | .loadSlot .. =>
    ([.kv, .ywp, .cip, .sup, .ev, .out], keyPageRegs ++ [.cipErr])
  | .clearSlot .. =>
    (finishParts ++ [.cip], keyPageRegs ++ ringRegs ++ [.cipErr])
  | .clearAll .. =>
    (finishParts ++ [.cip], keyPageRegs ++ ringRegs ++ [.cipErr, .ywpKeyStat])
  | .keyPageIsolationFault .. =>
    ([.sup, .ev, .out], [.cipErr])
  | .sessionKeyLoad .. | .sessionKeyErase .. =>
    ([.cip], [.cipSkData, .cipSkStat])
  | .entropyHealthFail .. =>
    ([.cip, .sup, .ev], [.cipDrbgStat])
  | .drbgRestart .. =>
    ([.cip], [.cipDrbgStat])
  | .rngRead .. =>
    ([.latches, .cip, .out, .free], [.cipDrbgStat, .cipRngValid])
  | .ledgerWindow .. =>
    ([.clk, .led], [.ledStat])
  | .nandOpGrant .. =>
    ([.media, .led], [.cipKpUse])
  | .dieSensorRead .. =>
    ([.clk, .power, .kv, .tun, .media, .led, .drt, .sup, .ev, .out], [.ledTemp])
  | .externalSensorRead .. =>
    ([.clk, .led, .sup, .ev], [.ledTemp])
  | .thermalEvaluation .. =>
    ([.clk, .led, .drt, .sup, .ev], [.ledThermStat])
  | .pwmPeriod .. =>
    ([.drt, .sup, .ev, .free], [])
  | .commutation .. | .listenEnd .. | .coastEnd .. | .runStable .. =>
    ([.clk, .drt], [])
  | .overcurrentTrip .. | .detectDone .. | .driverFault .. | .driverFaultClear .. =>
    ([.drt, .sup, .ev], [])
  | .brakeTimeout .. | .rampTimeout .. | .chopperTestEnd .. =>
    ([.clk, .drt, .sup, .ev], [])
  | .fbusSample .. =>
    ([.clk, .drt, .sup, .ev], [.drtBusStat])
  | .channelClear .. | .clearChop .. =>
    ([.drt], [])
  | .curveApply .. =>
    ([.drt], [.drtChStat])
  | .program .. | .eraseSector .. | .eraseBank .. | .marginVerify .. | .eccStatus .. | .suspend .. | .resume .. | .setWp .. =>
    ([.cfl, .sup, .ev, .out, .free], [.cflEccStat, .cflQCtrl])
  | .cflOperationDone .. =>
    ([.clk, .cfl, .sup, .ev, .out, .free], [.cflEccStat, .cflParamPtr])
  | .bankExecWrite .. =>
    ([], [.cflBankExec])
  | .cflBusFault .. | .codeFlashRead .. =>
    ([.sup, .ev, .out], [.cflEccStat])
  | .mgmtMessage .. =>
    ([.ywp, .cfl, .upd, .sup, .ev, .media, .power, .net, .time, .out], countRegs)
  | .caskHeaderIdleWrite .. =>
    ([.clk, .upd], [])
  | .trialStop .. | .recoveryPiece .. =>
    ([.upd], [])
  | .recoveryData .. | .recoveryQuery .. =>
    ([.upd, .out], [])
  | .recoveryCheckDone .. =>
    ([.ident, .power, .cfl, .upd, .sup, .ev], [.cflBankExec, .cflStat])
  | .eventReport .. =>
    ([.sup, .ev], [])
  | .frontBufferProgram .. | .counterEntryWrite .. | .nonceExpiry .. =>
    ([.clk, .ev], [])
  | .evtCursorWrite .. =>
    ([], [.evtCursor])
  | .evtWindowLatch .. =>
    ([.latches, .out], [])
  | .evtWindowAdvance .. =>
    ([.out], [.evtCursor])
  | .nonceDraw .. =>
    ([.latches, .cip, .ev, .out, .free], [.cipDrbgStat])
  | .stwSelect .. =>
    ([.winLatch], [.stwSel])
  | .stwLatch .. =>
    ([.winLatch, .out], [])
  | .porstNFall .. =>
    ([.power, .kv, .tun, .media, .drt, .cfl, .ev, .free], [])
  | .hostReset .. =>
    ([.latches, .held, .winLatch, .power, .kv, .host, .tun, .media, .cip], pageRegs)
  | .startStageDone .. =>
    (sessionParts ++ [.clk, .ident, .power, .index, .time, .town, .net, .led, .drt, .cfl, .upd], RegName.all)
  | .refclkLoss .. =>
    ([.power, .kv, .host, .tun, .media, .net, .drt, .sup, .ev, .out], [.clkStat])
  | .dramPatrolScrub .. =>
    ([.clk, .kv, .media, .sup, .ev], [.drmChStat])
  | .setupLock .. =>
    ([.power], [.glbSetupLock])
  | .supRelease .. =>
    ([.sup, .out], [])
  | .registerLatchingRead .. =>
    ([.latches, .winLatch, .cip, .sup, .ev, .out, .free], RegName.all)
  | .keyspaceReqAnswer .. =>
    (finishParts, ringRegs ++ [.twnDrop])
  | .hallUnreachableTimeout .. =>
    (finishParts ++ [.clk, .town], ringRegs)

/-- An operation on keys that has been fetched whole runs at once: nothing refuses it (R105), nothing holds it (R21, R34), its keyspace is its
tenant's and has its key (R41), and this part owns its Wards (R387). -/
def Runs (s : State) (c : OpCtx) : Prop :=
  s.refused c = none ∧ s.behind c = false ∧ s.fillingOn c.desc.ksp (s.keysOf c) = false ∧
  (changesKeys c.desc.opc = true → ∀ k ∈ s.keysOf c, s.intentOn c.desc.ksp k = false) ∧
  s.kspCheck c.desc.ksp c.tenant s.slotLoaded = none ∧
  s.route c (s.wardsOf c) (((s.ksp? c.desc.ksp).map fun k => k.rf).getD 1) = .here

/-- The completion entry (R136) that the end of an operation of ring `n` of function `f` writes at CQ_TAIL. -/
def entryAt (s : State) (f n : Nat) (d : Desc) (r : Res) : Output :=
  .memWrite (s.rg f n .hqCqBase_addr * 4096 + 32 * s.rg f n .hqRingStat_cqTail)
    (cqEntry d.tag r.status r.rlen r.rstamp r.origin (s.rg f n .hqRingStat_gen) (s.ring f n).phase (s.rg f n .hqRingStat_sqHead)) false

/-- An operation of ring `n` of function `f` has ended: its result lies in host memory, its completion entry is written, what was written
before stands, and its context has gone. -/
def Ends (s : State) (f n : Nat) (d : Desc) (x : Fetched) (id : Nat) (r : Res) (ps : List (Nat × Bytes)) (t : State) : Prop :=
  entryAt s f n d r ∈ t.out ∧ (∀ p ∈ ps, ∀ w ∈ scatterAt p.1 (resultSgl d x) p.2, Output.memWrite w.1 w.2 false ∈ t.out) ∧
  (∀ o ∈ s.out, o ∈ t.out) ∧ ∀ e ∈ t.kv.ctxs, e.id ≠ id

/-- An operation that nothing refuses or holds for its order or its keys (R105, R21, R34, R775). -/
def Free (s : State) (c : OpCtx) : Prop :=
  s.refused c = none ∧ s.behind c = false ∧ s.fillingOn (s.kspOf c.desc) (s.keysOf c) = false ∧
  (changesKeys c.desc.opc = true → ∀ k ∈ s.keysOf c, s.intentOn (s.kspOf c.desc) k = false)

/-- The command of an admin ring that a row stands for: its opcode (R152), function, descriptor, fetched bytes, and how it runs. -/
def adminOf : Instr → Option (Nat × Nat × Desc × Fetched × (State → OpCtx → State))
  | .identify f d x => some (0x80, f, d, x, State.runIdentify)
  | .keyspaceCreate f d x => some (0x81, f, d, x, State.runKspCreate)
  | .keyspaceDelete f d x => some (0x82, f, d, x, State.runKspDelete)
  | .keyspaceQuery f d x => some (0x83, f, d, x, State.runKspQuery)
  | .setPowerState f d x => some (0x84, f, d, x, State.runSetPower)
  | .getHealth f d x => some (0x85, f, d, x, State.runGetHealth)
  | .stateDump f d x => some (0x86, f, d, x, State.runStateDump)
  | .updateChunk f d x copies => some (0x88, f, d, x, State.runUpdateChunk copies)
  | .updateQuery f d x => some (0x89, f, d, x, State.runUpdateQuery)
  | .updateConfirm f d x => some (0x8A, f, d, x, State.runUpdateConfirm)
  | .townQuery f d x => some (0x8B, f, { d with key40 := padTo 40 (0 :: d.key40.drop 1) }, x, State.runTown)
  | .townJoin f d x => some (0x8B, f, { d with key40 := padTo 40 (1 :: d.key40.drop 1) }, x, State.runTown)
  | .townLeave f d x => some (0x8B, f, { d with key40 := padTo 40 (2 :: d.key40.drop 1) }, x, State.runTown)
  | .townRemove f d x => some (0x8B, f, { d with key40 := padTo 40 (3 :: d.key40.drop 1) }, x, State.runTown)
  | .townMove f d x => some (0x8B, f, { d with key40 := padTo 40 (4 :: d.key40.drop 1) }, x, State.runTown)
  | .townHallReturn f d x => some (0x8B, f, { d with key40 := padTo 40 (5 :: d.key40.drop 1) }, x, State.runTown)
  | .ledgerSet f d x => some (0x8C, f, d, x, State.runLedgerSet)
  | .eventClear f d x => some (0x8D, f, d, x, State.runEventClear)
  | _ => none

/-- A start of a type and for a cause has begun (R711 to R713, R724): no stage has ended, sessions, rings, commands, keys and the Tun are gone, the
counter is 0, every register but LED_THERM_STAT holds its reset value, and flash with what it holds is as it was. -/
def Restarted (s t : State) (type cause : Nat) : Prop :=
  t.power.resetType = type ∧ t.power.resetCause = cause ∧ t.power.stage = 0 ∧ t.power.ready = false ∧ t.power.failStage = 0 ∧
  t.power.halt = none ∧ t.power.pstate = 0 ∧ t.power.entry = none ∧ t.power.porstLow = false ∧ t.clk.tai = 0 ∧
  t.kv.ctxs = [] ∧ t.kv.staged = [] ∧ t.kv.leases = [] ∧ t.kv.keyspaces = s.kv.keyspaces ∧ t.kv.handle = s.media.handleFloor ∧
  t.host.rings = [] ∧ t.host.linkUp = false ∧ t.host.vfs = 0 ∧ t.cip.keys = [] ∧ t.ywp.slots = [] ∧ t.net.ports = [] ∧
  t.tun.entries = [] ∧ t.tun.rows = [] ∧ t.tun.slots = s.tun.slots ∧ t.tun.flushing = false ∧ t.index.journal = [] ∧
  t.media.blocks = s.media.blocks ∧ t.media.ops = [] ∧ t.ident = s.ident ∧ t.upd.pieces = s.upd.pieces ∧
  ∀ r : RegKey, r.name ≠ .ledThermStat → t.reg r = r.reset

/-- A Town message as this part sends it (R412): its own handle, and the term and epoch in force where the sender names none. -/
def headed (s : State) (m : TMsg) : TMsg :=
  { m with sender := s.handle, term := if m.term = 0 then s.town.term else m.term, epoch := if m.epoch = 0 then s.town.epoch else m.epoch }

/-- The outputs of sending messages to members, in order. -/
def sends (s : State) (l : List (Nat × TMsg)) : List Output := l.map fun p => .town p.1 (headed s p.2)

/-- The sender of a Town message is current (R373), or the message comes from or to a part that joins or seeks the acting role. -/
def Heard (s : State) (m : TMsg) : Prop :=
  s.netOn = true ∧ ((s.town.member? (idOf m.sender)).map (fun x => x.handle) = some m.sender ∨ m.tmsg = 0x01 ∨ m.tmsg = 0x0F ∨ s.isMember = false)

/-- A message of changes waits in a new context of pool `p` (R33, R34), with no other effect. -/
def HeldChange (s : State) (m : TMsg) (p : Pool) (t : State) : Prop :=
  ∃ c : OpCtx, t.kv.ctxs = s.kv.ctxs ++ [c] ∧ c.id = s.kv.nextCtx ∧ c.repl = some m ∧ c.pool = p ∧ c.phase = .held ∧ t.tun = s.tun ∧ t.media = s.media ∧
    t.town = s.town ∧ t.ywp = s.ywp ∧ t.out = s.out

/-- The acting Hall's changes go to a standby first, and no KCV waits for its epoch (R377, R518). -/
def ByStandby (s : State) : Prop :=
  s.acting = true ∧ s.frozen = false ∧ s.town.standby ≠ 0 ∧ (s.slotTo (idOf s.town.standby)).isSome = true ∧ s.cip.bound = [] ∧ s.town.leaving = []

/-- The epoch of the next publication. -/
def nextEpoch (s : State) : Nat := (s.town.publish.map fun p => p.epoch).foldl max s.town.epoch + 1

/-- A change `b` has been sent to the standby, after the outputs `o`, in the next epoch. -/
def ToStandby (s : State) (o : List Output) (b : MapBody) (t : State) : Prop :=
  t.out = o ++ sends s [(idOf s.town.standby, { tmsg := 0x06, epoch := nextEpoch s, arg0 := nextEpoch s - 1, body := .map b })]

/-- The end of a program: what `progress` makes of the state `v` that the end itself has left. -/
def ProgramEnd (s v : State) : State :=
  settle s (s.within (dataParts ++ [.town]) (dataRegs ++ [.cipKpUse, .medRawStat, .medSpgStat]) v.progress)

/-- The end of an erase, likewise. -/
def EraseEnd (s v : State) : State :=
  settle s (s.within (dataParts ++ [.town]) (dataRegs ++ [.cipKpUse, .medRawStat]) v.progress)

/-- An operation that a ring gave has ended: its completion entry carries the generation under which it was fetched (R139). -/
def Finishes (s : State) (c : OpCtx) (f n : Nat) (r : Res) (t : State) : Prop :=
  .memWrite (s.rg f n .hqCqBase_addr * 4096 + 32 * s.rg f n .hqRingStat_cqTail)
    (cqEntry c.desc.tag r.status r.rlen r.rstamp r.origin c.gen (s.ring f n).phase (s.rg f n .hqRingStat_sqHead)) false ∈ t.out ∧
  ∀ e ∈ t.kv.ctxs, e.id ≠ c.id

end Sys2Proof.Safety
end

