-- ==== Sys2Proof/Certificates/Slice0/Obligations.lean ====
section
/-!
DEFINITION. The statements for the provers, block by block.
-/

section

open Sys2Proof Sys2Proof.Machine

/-! ### The block as a whole -/

/-- A step takes the command at the front of the queue and runs it with the queue's rest. On an empty queue one cycle of the TIME domain passes: the
counter of R427 adds PTP_INCR, and nothing else changes; that this idle step is one cycle is the model's choice (log entry 2). -/
def Obligations.StepRunsTheFrontCommandOrLetsACyclePass : Prop :=
  (∀ (c : Instr) (q : List Instr) (s : State), step { s with pending := c :: q } = exec c { s with pending := q }) ∧
  (∀ s : State, s.pending = [] → ∃ t : State, step s = .next t ∧ t.clk.cycles = s.clk.cycles + 1 ∧
    t.clk.tai = s.clk.tai + s.fget .ptpIncr_ns * 2 ^ 32 + s.fget .ptpIncr_fracNs ∧ t = { s with clk := t.clk })

/-- At reset every register holds the value of R765, no start-up stage has ended, and nothing waits, runs or is remembered.
Choices of the model: log entries 16, 17. -/
def Obligations.ResetHoldsTheValuesOfTheRegisterIndex : Prop :=
  (∀ r : RegKey, State.reset.reg r = r.reset) ∧
  (∀ p ∈ ([(⟨.adCtrl, 0, 0, 0⟩, 0x6401), (⟨.cflEccCtrl, 0, 0, 0⟩, 3), (⟨.cflStat, 0, 0, 0⟩, 0x80), (⟨.cipDrbgCtrl, 0, 0, 0⟩, 0x10000),
      (⟨.cipLaneCtrl, 0, 0, 0⟩, 0x1010), (⟨.glbGpio, 0, 0, 0⟩, 0xF0000), (⟨.glbSupRelease, 0, 0, 0⟩, 1), (⟨.hqPollCtrl, 0, 0, 0⟩, 0x40),
      (⟨.kveIdxCtrl, 0, 0, 0⟩, 0x4B003208), (⟨.kveIdxStat, 0, 0, 0⟩, 0x100000), (⟨.kveSnapCtrl, 0, 0, 0⟩, 0x1388),
      (⟨.kveStageCtrl, 0, 0, 0⟩, 0x258), (⟨.ledCtrl, 0, 0, 0⟩, 0x80A), (⟨.ledI3cCtrl, 0, 0, 0⟩, 0x64186A), (⟨.medPhyCtrl, 0, 0, 0⟩, 8),
      (⟨.medScrubCtrl, 0, 0, 0⟩, 0x3C1801), (⟨.medSpaceCtrl, 0, 0, 0⟩, 0x050A1E64), (⟨.medSpgCtrl, 0, 0, 0⟩, 0x326401),
      (⟨.medSuspCtrl, 0, 0, 0⟩, 0x0810012C), (⟨.medTerCtrl, 0, 0, 0⟩, 0x2007D0), (⟨.medVerifyCtrl, 0, 0, 0⟩, 0x328),
      (⟨.netParkCtrl, 0, 0, 0⟩, 0x0005DC04002A8143), (⟨.ptpCtrl, 0, 0, 0⟩, 0x000080800CC00004),
      (⟨.ptpEpsCtrl, 0, 0, 0⟩, 0x00003E8000C800C8), (⟨.ptpIncr, 0, 0, 0⟩, 0x1AAAAAAAB), (⟨.ptpPpsCtrl, 0, 0, 0⟩, 0x640640),
      (⟨.ptpServoCtrl, 0, 0, 0⟩, 0x1F403E8631), (⟨.tunCtrl, 0, 0, 0⟩, 0x10800), (⟨.twnHbCtrl, 0, 0, 0⟩, 0x0003212C012C0064),
      (⟨.twnRetryCtrl, 0, 0, 0⟩, 0xA0008), (⟨.ywpCcCtrl, 0, 0, 0⟩, 0x0008271010CD2710), (⟨.ywpCtrl, 0, 0, 0⟩, 0x03020106),
      (⟨.ywpDedupCtrl, 0, 0, 0⟩, 0x2710), (⟨.ywpPort, 0, 0, 0⟩, 0xADDE), (⟨.ywpSessCtrl, 0, 0, 0⟩, 0x1F403E80064),
      (⟨.ywpTimerCtrl, 0, 0, 0⟩, 0x44380064)] : List (RegKey × Nat)), State.reset.reg p.1 = p.2) ∧
  (∀ a w, State.reset.reg ⟨.cflWp, a, w, 0⟩ = 0xFFFFFFFF) ∧
  (∀ f, State.reset.reg ⟨.hqQuota, f, 0, 0⟩ = if f = 0 then 0x40 else 0) ∧
  (∀ w, State.reset.reg ⟨.evtAccess, w, 0, 0⟩ = if w = 0 then 1 else 0) ∧
  (∀ f n, State.reset.reg ⟨.hqCoal, f, n, 0⟩ = 1 ∧ State.reset.reg ⟨.hqAdmCoal, f, 0, 0⟩ = 1) ∧
  (∀ b, State.reset.reg ⟨.ledBucket, b, 0, 0⟩ = 0x3E80000000000000) ∧
  (∀ c, State.reset.reg ⟨.drtChPwm, c, 0, 0⟩ = 0xF2820 ∧ State.reset.reg ⟨.drtChStart, c, 0, 0⟩ = 0x001407D001F40028) ∧
  (∀ p, State.reset.reg ⟨.netCrossCtrl, p, 0, 0⟩ = 0x10 ∧ State.reset.reg ⟨.netCrossCycle, p, 0, 0⟩ = 0xF4240 ∧
    State.reset.reg ⟨.netFwqCtrl, p, 0, 0⟩ = 8 ∧ State.reset.reg ⟨.netTcMap, p, 0, 0⟩ = 0xFAC688) ∧
  State.reset.power.stage = 0 ∧ State.reset.power.ready = false ∧ State.reset.power.halt = none ∧ State.reset.pending = [] ∧
  State.reset.kv.ctxs = [] ∧ State.reset.kv.keyspaces = [] ∧ State.reset.ywp.slots = [] ∧ State.reset.cip.keys = [] ∧
  State.reset.upd.rcvResult = 0xFF

/-- No run stops. Any number of steps takes that many commands from the queue, first in, first out, and never takes the clock back.
Choices of the model: log entries 1, 2, 3. -/
def Obligations.EveryRunTakesItsCommandsInOrder : Prop :=
  ∀ (n : Nat) (s : State), ∃ t : State, core.run n s = .next t ∧ t.pending = s.pending.drop n ∧ s.clk.cycles ≤ t.clk.cycles ∧
    (s.pending.length < n → s.clk.cycles < t.clk.cycles)

/-- Every step keeps the canonical form of the registers: one entry a register, in one order, none equal to its reset value.
Choices of the model: log entry 14. -/
def Obligations.EveryStepKeepsTheRegistersCanonical : Prop :=
  ∀ s t : State, Safety.Inv s → step s = .next t → Safety.Inv t

/-- The canonical form of the registers holds at reset.
Choices of the model: log entry 14. -/
def Obligations.TheRegistersAreCanonicalAtReset : Prop := Safety.Inv State.reset

/-- Every command answers a next state, in every state and with every operand, and the frame of every command: it leaves the queue, every part of
the state and every register outside the reach that `Safety.reachOf` gives it.
Choices of the model: log entries 3, 18. -/
def Obligations.EveryCommandKeepsWhatLiesOutsideItsReach : Prop :=
  ∀ (i : Instr) (s : State), ∃ t : State, exec i s = .next t ∧ Safety.Keeps (Safety.reachOf i).1 (Safety.reachOf i).2 s t

/-- What the firmware that runs is (its version and feature levels) changes only where a bank is started or a recovery package
installed. A data command that arrives never touches the keys of tenants, the code flash, an update, the ledger, the fans or the
Ward map. No command of the fans, the energy windows, the clock, the ports' schedules and lanes, or the code flash touches
stored data: the key-value engine, the index, the Tun or the flash.
Choices of the model: log entries 3, 18. -/
def Obligations.BlocksKeepToTheirOwnState : Prop :=
  (∀ (i : Instr) (s t : State), exec i s = .next t → t.ident ≠ s.ident → (∃ r, i = .startStageDone r) ∨ ∃ r, i = .recoveryCheckDone r) ∧
  (∀ (src : Src) (d : Desc) (x : Fetched) (s t : State), ∀ i ∈ [Instr.get src d x, .getRange src d x, .exists src d x, .getMeta src d x,
      .put src d x, .putIf src d x, .patch src d x, .append src d x, .delete src d x, .deleteIf src d x, .batch src d x,
      .stageOpen src d x, .stageData src d x, .stagePublish src d x, .stageDiscard src d x, .scan src d x, .snapshotOpen src d x,
      .snapshotClose src d x, .barrier src d x],
    exec i s = .next t → t.cip = s.cip ∧ t.cfl = s.cfl ∧ t.upd = s.upd ∧ t.led = s.led ∧ t.drt = s.drt ∧ t.town = s.town ∧
      t.latches = s.latches ∧ t.winLatch = s.winLatch ∧ t.held = s.held ∧ t.pending = s.pending) ∧
  (∀ (n a b : Nat) (w : PwmSample) (h : Heard) (l : List Nat) (d : CflDesc) (m : ParkMsg) (o : Option Nat) (z : Int) (s t : State),
    ∀ i ∈ [Instr.pwmPeriod n w, .commutation n a, .overcurrentTrip n a, .listenEnd n h, .brakeTimeout n, .detectDone n l, .rampTimeout n,
      .coastEnd n, .runStable n, .driverFault, .driverFaultClear, .fbusSample a b, .chopperTestEnd, .channelClear n, .curveApply n,
      .clearChop, .ledgerWindow a b, .externalSensorRead n o, .thermalEvaluation, .ptpSyncExchange n z a, .ptpMessageSend n, .announceReceiptTimeout,
      .ppsInEdge, .ppsLoss, .ptpTodSet n, .ppsOutEdge, .ppsOutWidthEnd, .crossChangeTime n, .gateEntryAdvance n, .parkReq n m,
      .parkAck n m, .nak n m, .restoreReq n m, .restoreAck n m, .laneSwitchPoint n, .alignmentRecovery n o, .mdioGo n, .mdioDone n,
      .program d, .eraseSector d, .eraseBank d, .marginVerify d, .eccStatus d, .suspend d, .resume d, .setWp d],
    exec i s = .next t → t.kv = s.kv ∧ t.index = s.index ∧ t.tun = s.tun ∧ t.media = s.media ∧ t.host = s.host ∧ t.ywp = s.ywp ∧
      t.cip = s.cip ∧ t.pending = s.pending)

/-! ### The host engine -/

/-- Polling (R120, R122, R124, R119, R126, R168). A summary poll that is the first to fall due sends a Swap of the function's summary word, in the
fallback mode a doorbell record is read, a ring that waits for completion room has its record read again, and every 100 µs, or at a kick, the admin
records are read, whatever the state of the admin rings. A function whose Swap has failed is not polled (R125).
Choices of the model: log entries 4, 33, 52. -/
def Obligations.PollingIssuesTheReadsOfItsMode : Prop :=
  (∀ (s : State) (f : Nat), s.polls f 0 = true → s.flag .hqFuncStat_swapUr f = false → s.flag .hqFuncStat_swapErr f = false →
    (s.fn f).swapOut = false → s.pollBefore (s.fn f).due = false →
    ∃ t : State, exec (.summaryPoll f) s = .next t ∧ t.out = s.out ++ [Output.swap f (s.fget .hqSumAddr_addr f * 8)] ∧ (t.fn f).swapOut = true ∧
      (s.fn f).due ≤ t.clk.cycles ∧ t.host.rings = s.host.rings) ∧
  (∀ (s : State) (f : Nat), (s.flag .hqFuncStat_swapUr f = true ∨ s.flag .hqFuncStat_swapErr f = true) →
    ∃ t : State, exec (.summaryPoll f) s = .next t ∧ t.out = s.out ∧ t.host = s.host ∧ t.clk = s.clk) ∧
  (∀ (s : State) (f n : Nat), s.polls f 1 = true → n < 64 → s.ringState f n = 1 → (s.ring f n).reading = 0 →
    s.pollBefore (s.ring f n).due = false →
    ∃ t : State, exec (.doorbellPoll f n) s = .next t ∧ t.out = s.out ++ [Output.memRead f (s.fget .hqDbBase_addr f * 4096 + 16 * n) 16] ∧
      (t.ring f n).reading = 1 ∧ (s.ring f n).due ≤ t.clk.cycles ∧ ∀ a b, ¬(a = f ∧ b = n) → t.ring a b = s.ring a b) ∧
  (∀ (s : State) (f n : Nat), s.hostOn = true → s.ringState f n = 1 → s.waitsRoom f n = true → (s.ring f n).reading = 0 →
    ∃ t : State, exec (.cqHeadReread f n) s = .next t ∧ t.out = s.out ++ [Output.memRead f (s.fget .hqDbBase_addr f * 4096 + 16 * n) 16] ∧
      (t.ring f n).reading = 1 ∧ (s.ring f n).roomDue ≤ t.clk.cycles ∧ ∀ a b, ¬(a = f ∧ b = n) → t.ring a b = s.ring a b) ∧
  (∀ s : State, s.hostOn = true →
    ∃ t : State, exec .adminDoorbellPoll s = .next t ∧ t.clk.cycles = (s.clk.cycles / 60000 + 1) * 60000 ∧
      t.out = s.out ++ ((List.range 256).filter fun f => s.funcExists f && decide (s.fget .hqDbBase_addr f ≠ 0) && s.flag .hqFuncCtrl_enable f).map
        fun f => .memRead f (s.fget .hqDbBase_addr f * 4096 + 1024) 16) ∧
  (∀ (s : State) (f : Nat), s.hostOn = true → s.funcExists f = true → s.fget .hqDbBase_addr f ≠ 0 →
    ∃ t : State, exec (.hqAdmKick f) s = .next t ∧ t.out = s.out ++ [Output.memRead f (s.fget .hqDbBase_addr f * 4096 + 1024) 16] ∧
      (t.ring f 64).reading = (s.ring f 64).reading + 1)

/-- Invalid or failed reads: a doorbell record of an ACTIVE ring whose SQ_TAIL or CQ_HEAD is N or larger acts as a reset request with
cause DB_INVALID (2), a read that fails with a PCIe error as one with cause FETCH_ERROR (1), and each records an event. -/
def Obligations.InvalidAndFailedDoorbellReadsActAsResetRequests : Prop :=
  (∀ (s : State) (f n tail head : Nat), s.hostOn = true → 0 < (s.ring f n).reading → s.ringState f n = 1 →
    (s.ringN f n ≤ tail ∨ s.ringN f n ≤ head) →
    ∃ t : State, exec (.doorbellReadDone f n tail head) s = .next t ∧ (t.ring f n).resetReq = some ((s.ring f n).resetReq.getD 2) ∧
      (t.ring f n).tailSeen = (s.ring f n).tailSeen ∧ (t.ring f n).headSeen = (s.ring f n).headSeen ∧
      t.ev = (s.report .dbInvalid (f * 128 + n)).ev ∧ ∀ a b, ¬(a = f ∧ b = n) → t.ring a b = s.ring a b) ∧
  (∀ (s : State) (f n : Nat), s.hostOn = true → s.ringState f n = 1 →
    ∃ t : State, exec (.descriptorReadFault f n) s = .next t ∧ (t.ring f n).resetReq = some ((s.ring f n).resetReq.getD 1) ∧
      t.ev = (s.report .fetchError (f * 128 + n)).ev ∧ ∀ a b, ¬(a = f ∧ b = n) → t.ring a b = s.ring a b)

/-- The answers to the engine's reads (R120, R121, R125, R119, R130, R134). A Swap's value names the rings that are read and sets the
next interval; a failed Swap sets SWAP_UR or SWAP_ERR with an event; a valid doorbell record gives the ring's tail and head, and
sets the interval of a polled ring and of one that waits for room; the end of a command's fetches lets it go on to its value or its admission; a
mutation whose value cannot be fetched ends with INTERNAL_FAULT, its entry and rows gone (R27).
Choices of the model: log entries 55, 140. -/
def Obligations.AnswersToTheEnginesReads : Prop :=
  (∀ (s : State) (f v : Nat), s.hostOn = true → (s.fn f).swapOut = true →
    ∃ t : State, exec (.swapReturn f (.value v)) s = .next t ∧ (t.fn f).swapOut = false ∧
      (t.fn f).intervalNs = (if v = 0 then min (2 * (s.fn f).intervalNs) (s.fget .hqFuncCtrl_pollMaxUs f * 1000) else 250) ∧
      (t.fn f).due = s.clk.cycles + (t.fn f).intervalNs * 3 / 5 ∧
      t.out = s.out ++ ((List.range 64).filter fun n => bitAt v n && decide (s.ringState f n = 1)).map
        fun n => .memRead f (s.fget .hqDbBase_addr f * 4096 + 16 * n) 16) ∧
  (∀ (s : State) (f : Nat), s.hostOn = true → (s.fn f).swapOut = true →
    ∃ (t : State) (u : _), exec (.swapReturn f .refused) s = .next t ∧ exec (.swapReturn f .failed) s = .next u ∧
      t.fget .hqFuncStat_swapUr f = 1 ∧ t.fget .hqFuncStat_swapErr f = s.fget .hqFuncStat_swapErr f ∧
      u.fget .hqFuncStat_swapErr f = 1 ∧ u.fget .hqFuncStat_swapUr f = s.fget .hqFuncStat_swapUr f ∧
      (t.fn f).swapOut = false ∧ (u.fn f).swapOut = false ∧ t.ev = (s.report .swapRefused f).ev ∧ u.ev = (s.report .swapFailed f).ev ∧
      t.out = s.out ∧ u.out = s.out) ∧
  (∀ (s : State) (f n tail head : Nat), s.hostOn = true → 0 < (s.ring f n).reading → s.ringState f n = 1 →
    tail < s.ringN f n → head < s.ringN f n →
    ∃ t : State, exec (.doorbellReadDone f n tail head) s = .next t ∧ (t.ring f n).tailSeen = tail ∧ (t.ring f n).headSeen = head ∧
      (t.ring f n).reading = (s.ring f n).reading - 1 ∧ (t.ring f n).pendingFetch = decide (tail ≠ s.rg f n .hqRingStat_sqHead) ∧
      (t.ring f n).resetReq = (s.ring f n).resetReq ∧ (t.ring f n).polled = false ∧ t.ev = s.ev ∧
      (t.ring f n).intervalNs = (if (s.ring f n).polled = false ∨ s.polls f 1 = false then (s.ring f n).intervalNs else if tail ≠ (s.ring f n).tailSeen then 250
        else min (2 * (s.ring f n).intervalNs) (s.fget .hqFuncCtrl_pollMaxUs f * 1000)) ∧
      (t.waitsRoom f n = true → (t.ring f n).roomDue = s.clk.cycles + (t.ring f n).roomNs * 3 / 5 ∧
        (t.ring f n).roomNs = if s.waitsRoom f n = false ∨ head ≠ (s.ring f n).headSeen then 250
          else min (2 * (s.ring f n).roomNs) (s.fget .hqFuncCtrl_pollMaxUs f * 1000)) ∧
      (∀ a b, ¬(a = f ∧ b = n) → t.ring a b = s.ring a b)) ∧
  (∀ (s : State) (id : Nat) (x : Fetched) (c : OpCtx), s.serving = true → s.kv.ctx? id = some c → c.phase = .fetching → c.pool = .admin →
    (c.valueDue = false ∨ c.fx.fault = true ∨ x.fault = true → ∃ t : State, exec (.hostFetchDone id x) s = .next t ∧ t.out = s.out ∧ t.host = s.host ∧
      t.kv.ctx? id = some { c with fx := joinFetched c.fx (if c.valueDue then { x with value := [] } else x), phase := .held }) ∧
    (∀ f n, c.valueDue = true → c.fx.fault = false → x.fault = false → c.src = .ring f n →
      let fx := joinFetched c.fx { x with value := [] }
      ∃ t : State, exec (.hostFetchDone id x) s = .next t ∧ t.kv.ctx? id = some { c with fx := fx, valueDue := false } ∧ t.host = s.host ∧
        t.out = s.out ++ (gather (valueSgl c.desc fx) c.desc.vlen).map fun r => .memRead f r.1 r.2)) ∧
  (∀ (s : State) (id : Nat) (x : Fetched) (c : OpCtx), s.serving = true → s.kv.ctx? id = some c → c.phase = .fetching → c.pool ≠ .admin →
    (c.valueDue = false ∨ fillsLate c.desc.opc = true ∨ c.fx.fault = true ∨ x.fault = true) →
    let c' : OpCtx := { c with fx := joinFetched c.fx (if c.valueDue then { x with value := [] } else x), phase := .held }
    exec (.hostFetchDone id x) s = .next (settle s (s.within dataParts dataRegs ((s.modCtx id fun _ => c').admitCtx c')))) ∧
  (∀ (s : State) (id f n : Nat) (x : Fetched) (c : OpCtx), s.serving = true → s.kv.ctx? id = some c → c.phase = .value → x.fault = true →
    c.src = .ring f n → c.orphan = false →
    ∃ t : State, exec (.hostFetchDone id x) s = .next t ∧ Safety.Finishes s c f n { status := 0x0F00 } t ∧ (∀ e ∈ t.tun.entries, e.id ∉ c.entries) ∧
      ∀ r ∈ t.tun.rows, r.entry ∉ c.entries) ∧
  (∀ (a b : Fetched), joinFetched a {} = a ∧ joinFetched {} b = b ∧ (joinFetched a b).fault = (a.fault || b.fault))

/-- Fetching (R127, R123). A pending ring whose turn it is is served one descriptor after the other, at most 32 in a turn, from SQ_BASE + 128 × SQ_HEAD,
while the ring is ACTIVE, the pools have room and P + F + 2 ≤ N - 1. A descriptor whose command needs host memory takes a context, moves
SQ_HEAD on, counts in OUTSTANDING and has its fetches issued. Rings take turns in the order of function and ring number. Where the fetching itself uses
up the room, the first reread is due 250 ns later (R119).
Choices of the model: log entries 53, 141, 161. -/
def Obligations.DescriptorsAreFetchedWhileTheRulesAllow : Prop :=
  (∀ (s : State) (f n : Nat) (ds : List Bytes), (s.ring f n).pendingFetch = true →
    let u : State := { s with host := { s.host with turn := 65 * f + n + 1 } }
    let w := (u.fetchMany f n (ds.take 32)).modRing f n fun r =>
      { r with pendingFetch := decide (r.tailSeen ≠ (u.fetchMany f n (ds.take 32)).rg f n .hqRingStat_sqHead) }
    (s.itsTurn f n = true → exec (.descriptorFetch f n ds) s = .next (settle s (s.within dataParts dataRegs
      (if w.waitsRoom f n = true ∧ w.rg f n .hqRingStat_sqHead ≠ s.rg f n .hqRingStat_sqHead then
        w.modRing f n fun r => { r with roomNs := 250, roomDue := w.clk.cycles + 150 } else w)))) ∧
    (s.itsTurn f n = false → ∃ t : State, exec (.descriptorFetch f n ds) s = .next t ∧ t.kv = s.kv ∧ t.host = s.host ∧ t.out = s.out)) ∧
  (∀ (s : State) (f n : Nat), s.itsTurn f n = true ↔
    ∀ r ∈ s.host.rings, r.pendingFetch = true → s.mayFetch r.f r.n = true → s.turnOf f n ≤ s.turnOf r.f r.n) ∧
  (∀ (s : State) (f n : Nat) (b : Bytes) (bs : List Bytes), s.fetchMany f n [] = s ∧ s.fetchMany f n (b :: bs) =
    if s.mayFetch f n = true ∧ (s.ring f n).tailSeen ≠ s.rg f n .hqRingStat_sqHead then (s.takeDesc f n (descOfBytes b)).fetchMany f n bs else s) ∧
  (∀ (s : State) (f n : Nat), s.mayFetch f n = true → s.ringState f n = 1 ∧ s.inPool .host < 65536 ∧
    (s.kv.ctxs.filter fun c => !c.ponr && c.onRing).length < 36864 ∧ (s.kv.ctxs.filter fun c => !c.ponr && decide (c.src = .ring f n)).length < 32 ∧
    (s.rg f n .hqRingStat_cqTail + s.ringN f n - (s.ring f n).headSeen % s.ringN f n) % s.ringN f n + s.rg f n .hqRingStat_outstanding + 2
      ≤ s.ringN f n - 1) ∧
  (∀ (s : State) (f n : Nat) (d : Desc), (n = 64 ∨ s.refusedEarly (s.ringCtx f n d {} .held) = none) → hostFetches (n == 64) d ≠ [] →
    ∃ c, (s.takeDesc f n d).kv.ctxs = s.kv.ctxs ++ [c] ∧ c.id = s.kv.nextCtx ∧ c.src = .ring f n ∧ c.tenant = f ∧ c.desc = d ∧
      c.phase = .fetching ∧ c.valueDue = valueLater (n == 64) d ∧ c.gen = s.rg f n .hqRingStat_gen ∧ c.ponr = false ∧
      (s.takeDesc f n d).rg f n .hqRingStat_sqHead = (s.rg f n .hqRingStat_sqHead + 1) % s.ringN f n % 65536 ∧
      (s.takeDesc f n d).rg f n .hqRingStat_outstanding = (s.rg f n .hqRingStat_outstanding + 1) % 65536 ∧
      (s.takeDesc f n d).out = s.out ++ [Output.memRead f (s.rg f n .hqSqBase_addr * 4096 + 128 * s.rg f n .hqRingStat_sqHead) 128] ++
        (hostFetches (n == 64) d).map fun r => .memRead f r.1 r.2)

/-- Enabling and resetting a ring (R170, R172, R142, R144, R145). ENABLE makes a DISABLED ring ACTIVE when SETUP_ERR finds nothing, and
names the lowest refusal otherwise. A reset request by ENABLE 0 clears ENABLE and waits to be taken; when it is, the ring is RESETTING and every command before its
point of no return has left, but for what an FLR cut off; when no command is left the marker is posted, and the ring is DISABLED in its next generation.
Choices of the model: log entries 54, 139. -/
def Obligations.RingsAreEnabledAndReset : Prop :=
  (∀ (s : State) (f n : Nat), s.hostOn = true → s.funcExists f = true → n ≤ 64 → s.ringState f n = 0 → s.setupErr f n = 0 →
    (n = 64 ∨ s.power.entry = none) →
    ∃ t : State, exec (.ringEnable f n) s = .next t ∧ t.ringState f n = 1 ∧ t.rg f n .hqRingCtrl_enable = 1 ∧ t.rg f n .hqRingStat_setupErr = 0 ∧
      (t.ring f n).phase = true ∧ (t.ring f n).resetReq = none ∧ (t.ring f n).intervalNs = 250 ∧
      t.rg f n .hqRingStat_gen = s.rg f n .hqRingStat_gen ∧ ∀ a b, ¬(a = f ∧ b = n) → t.ring a b = s.ring a b) ∧
  (∀ (s : State) (f n : Nat), s.hostOn = true → s.funcExists f = true → n ≤ 64 → s.ringState f n = 0 → s.setupErr f n ≠ 0 →
    ∃ t : State, exec (.ringEnable f n) s = .next t ∧ t.ringState f n = 0 ∧ t.rg f n .hqRingStat_setupErr = s.setupErr f n ∧ t.host = s.host) ∧
  (∀ (s : State) (f n : Nat), s.setupErr f n =
    if s.rg f n .hqRingCtrl_sizeLog2 < 4 ∨ 16 < s.rg f n .hqRingCtrl_sizeLog2 then 1
    else if s.rg f n .hqSqBase_addr = 0 ∨ s.rg f n .hqCqBase_addr = 0 ∨ s.fget .hqDbBase_addr f = 0 then 2
    else if n ≠ 64 ∧ s.fget .hqQuota_rings f ≤ ((List.range 64).filter fun m => decide (s.ringState f m ≠ 0)).length then 3
    else if n ≠ 64 ∧ s.fget .hqSumAddr_addr f = 0 ∧ s.fget .hqFuncCtrl_pollMode f = 0 then 4 else 0) ∧
  (∀ (s : State) (f n : Nat), s.hostOn = true → s.funcExists f = true → n ≤ 64 →
    ∃ t : State, exec (.ringResetRequest f n) s = .next t ∧ t.ringState f n = s.ringState f n ∧
      (t.ring f n).resetReq = (if s.ringState f n = 1 then some ((s.ring f n).resetReq.getD 0) else (s.ring f n).resetReq) ∧
      t.rg f n .hqRingCtrl_enable = (if s.ringState f n = 1 then 0 else s.rg f n .hqRingCtrl_enable) ∧
      ∀ a b, ¬(a = f ∧ b = n) → t.ring a b = s.ring a b) ∧
  (∀ (s : State) (f n cause : Nat), s.hostOn = true → s.ringState f n = 1 → (s.ring f n).resetReq = some cause → cause < 4 →
    ∃ t : State, exec (.queueResetTaken f n) s = .next t ∧ t.ringState f n = 2 ∧ t.rg f n .hqRingStat_cause = cause ∧
      t.rg f n .hqRingStat_gen = s.rg f n .hqRingStat_gen ∧ t.rg f n .hqRingStat_sqHead = s.rg f n .hqRingStat_sqHead ∧
      (t.ring f n).aborted = ((s.ringCtxs f n).filter fun c => !c.ponr && !c.orphan).length ∧
      (∀ e ∈ t.kv.ctxs, e ∈ s.kv.ctxs ∧ ¬(e.src = .ring f n ∧ e.ponr = false ∧ e.orphan = false)) ∧
      ∀ e ∈ s.kv.ctxs, (∀ c ∈ s.ringCtxs f n, c.ponr = false → e.id ≠ c.id) → e ∈ t.kv.ctxs) ∧
  (∀ (s : State) (f n : Nat), s.hostOn = true → s.ringState f n = 2 → s.ringCtxs f n = [] →
    ∃ t : State, exec (.queueResetDone f n) s = .next t ∧ t.ringState f n = 0 ∧ t.rg f n .hqRingCtrl_enable = 0 ∧
      t.rg f n .hqRingStat_gen = (s.rg f n .hqRingStat_gen + 1) % 256 ∧ t.rg f n .hqRingStat_sqHead = 0 ∧
      t.rg f n .hqRingStat_cqTail = 0 ∧ (t.ring f n).phase = true ∧
      .memWrite (s.rg f n .hqCqBase_addr * 4096 + 32 * s.rg f n .hqRingStat_cqTail)
        (cqEntry 0 0x0201 (s.rg f n .hqRingStat_sqHead) ((s.ring f n).doneAfter + (s.ring f n).aborted * 2 ^ 32) 0 (s.rg f n .hqRingStat_gen)
          (s.ring f n).phase (s.rg f n .hqRingStat_sqHead)) false ∈ t.out)

/-- Interrupts and functions (R141, R140, R112): when the oldest counted completion has waited TIME_US its ring's message goes out, or
pends while its vector is masked; VF Enable brings VFs 1 to n into existence.
Choices of the model: log entries 4, 34. -/
def Obligations.CoalescedMessagesAndVirtualFunctions : Prop :=
  (∀ (s : State) (f n : Nat), s.hostOn = true → 0 < (s.ring f n).counted → s.rg f n .hqRingCtrl_irqEn = 1 → 0 < s.rg f n .hqCoal_timeUs →
    ∃ t : State, exec (.msixCoalesceTimeout f n) s = .next t ∧ (t.ring f n).counted = 0 ∧
      t.clk.cycles = max s.clk.cycles ((s.ring f n).oldest + s.rg f n .hqCoal_timeUs * 600) ∧
      t.out = (if s.vecMasked f n then s.out else s.out ++ [Output.msix f n]) ∧
      (s.vecMasked f n = true → n ∈ (t.fn f).msixPba) ∧ ∀ a b, ¬(a = f ∧ b = n) → t.ring a b = s.ring a b) ∧
  (∀ (s : State) (n : Nat), s.hostOn = true → s.host.vfs = 0 → n ≤ 255 →
    ∃ t : State, exec (.vfEnableSet n) s = .next t ∧ t.host = { s.host with vfs := n } ∧ ∀ f, t.funcExists f = true ↔ f ≤ n)

/-! ### The key-value engine -/

/-- Every data command of an I/O ring takes a context and is admitted: refused by its descriptor, dispatched, or held (R21, R105). SQ_HEAD
moves on and OUTSTANDING grows (R127, R139). On the admin ring it waits for its turn. Where the engine may not fetch, nothing changes. A request
of an OPEN session takes a context of the target pool with the session's tenant, and is admitted in the same way (R29, R32); a session of
version 1 refuses the opcodes that it lacks (R357). Where the pool is full nothing happens.
Choices of the model: log entries 3, 23. -/
def Obligations.DataCommandsAreFetchedAndAdmitted : Prop :=
  ∀ (s : State) (src : Src) (d : Desc) (x : Fetched),
    ∀ p ∈ ([(.get src d x, 0x01), (.getRange src d x, 0x02), (.exists src d x, 0x03), (.getMeta src d x, 0x04),
      (.put src d x, 0x05), (.putIf src d x, 0x06), (.patch src d x, 0x07), (.append src d x, 0x08),
      (.delete src d x, 0x09), (.deleteIf src d x, 0x0A), (.batch src d x, 0x0B), (.stageOpen src d x, 0x0C),
      (.stageData src d x, 0x0D), (.stagePublish src d x, 0x0E), (.stageDiscard src d x, 0x0F),
      (.scan src d x, 0x10), (.snapshotOpen src d x, 0x11), (.snapshotClose src d x, 0x12),
      (.barrier src d x, 0x13)] : List (Instr × Nat)),
    let admitted := fun (u : State) (c : OpCtx) => match u.refused c with | some st => u.fail c st | none => u.dispatch c
    (∀ f n, src = .ring f n →
      let c := s.ringCtx f n { d with opc := p.2 } x .held
      let u := s.fetchOne f n { d with opc := p.2 } x .held
      u.rg f n .hqRingStat_sqHead = (s.rg f n .hqRingStat_sqHead + 1) % s.ringN f n % 65536 ∧
      u.rg f n .hqRingStat_outstanding = (s.rg f n .hqRingStat_outstanding + 1) % 65536 ∧ u.kv.ctxs = s.kv.ctxs ++ [c] ∧
      (s.mayFetch f n = true → n ≠ 64 → exec p.1 s = .next (settle s (s.within dataParts dataRegs (admitted u c)))) ∧
      (s.mayFetch f n = true → n = 64 → exec p.1 s = .next (settle s (s.within dataParts dataRegs u))) ∧
      (s.mayFetch f n = false → exec p.1 s = .next (settle s (s.within dataParts dataRegs s)))) ∧
    (∀ slot m y, src = .sess slot m → s.ywp.slot? slot = some y → y.state = .opened → s.serving = true → s.hasFlash = true →
      (s.inPool .target < 49152 → ∃ c u, c.src = src ∧ c.pool = .target ∧ c.tenant = y.tenant ∧ c.desc = { d with opc := p.2 } ∧ c.fx = x ∧
        u.kv.ctxs = s.kv.ctxs ++ [c] ∧ u = { s with kv := u.kv } ∧
        (¬(y.ver = 1 ∧ p.2 ∈ [0x0C, 0x0D, 0x0E, 0x0F, 0x11, 0x12]) →
          exec p.1 s = .next (settle s (s.within dataParts dataRegs (admitted u c)))) ∧
        (y.ver = 1 → p.2 ∈ [0x0C, 0x0D, 0x0E, 0x0F, 0x11, 0x12] →
          exec p.1 s = .next (settle s (s.within dataParts dataRegs (u.fail c stVersion))))) ∧
      (49152 ≤ s.inPool .target → exec p.1 s = .next (settle s (s.within dataParts dataRegs s))))

/-- GET, GET_RANGE, EXISTS and GET_META of the current version, or of the newest at a stamp SNAP that has passed and is not too old, with nothing
left to read from flash (R57 to R60, R49, R84, R54, R207): the bytes go to the result SGL, and the completion carries status, length, stamp and origin of the version.
Choices of the model: log entries 23, 26. -/
def Obligations.ReadsAnswerTheCurrentVersion : Prop :=
  (∀ (s : State) (f n : Nat) (d : Desc) (x : Fetched), n ≠ 64 → s.mayFetch f n = true →
    ∀ p ∈ ([(.get (.ring f n) d x, 0x01), (.getRange (.ring f n) d x, 0x02), (.exists (.ring f n) d x, 0x03),
      (.getMeta (.ring f n) d x, 0x04)] : List (Instr × Nat)),
    let c := s.ringCtx f n { d with opc := p.2 } x .held
    let u := s.fetchOne f n { d with opc := p.2 } x .held
    let v := u.readVer d.ksp (keyOf d x) (if d.snap = 0 then u.lastStamp else d.snap)
    let e := extsFor v (wantBytes c.desc v).1 (wantBytes c.desc v).2
    let a := u.readRes c.desc (u.digest d.ksp (keyOf d x)) v (sglLen (resultSgl d x))
    Safety.Runs u c → (d.snap ≠ 0 → u.tooOld d.snap = false ∧ u.passed d.snap = true) →
    u.intentOn d.ksp (keyOf d x) = false → v.bad = false → (∀ l, v.leaf = some l → l.rebuild = false) →
    u.missing c v e = [] → (∀ q ∈ v.recs ++ e, lostAt u.media c q = false) → v.unacked = false →
    ∃ t : State, exec p.1 s = .next t ∧ Safety.Ends u f n d x c.id a.1 [(0, a.2)] t) ∧
  (∀ (s : State) (d : Desc) (g cap : Nat) (v : Ver),
    (v.present = false → s.readRes d g v cap = ({ status := 0x0002, rstamp := v.stamp, origin := v.origin }, [])) ∧
    (v.present = true → d.opc = 0x01 → s.readRes d g v cap =
      ({ status := if cap < v.vlen then 0x0001 else 0, rlen := v.vlen, rstamp := v.stamp, origin := v.origin }, v.data.take cap)) ∧
    (v.present = true → d.opc = 0x02 → d.offset ≤ v.vlen → s.readRes d g v cap =
      ({ status := if cap < min d.vlen (v.vlen - d.offset) then 0x0001 else 0, rlen := min d.vlen (v.vlen - d.offset),
         rstamp := v.stamp, origin := v.origin }, ((v.data.drop d.offset).take (min d.vlen (v.vlen - d.offset))).take cap)) ∧
    (v.present = true → d.opc = 0x02 → v.vlen < d.offset → s.readRes d g v cap = ({ status := 0x0102 }, [])) ∧
    (v.present = true → d.opc = 0x03 → s.readRes d g v cap = ({ status := 0, rlen := v.vlen, rstamp := v.stamp, origin := v.origin }, [])) ∧
    (v.present = true → d.opc = 0x04 → s.readRes d g v cap =
      ({ status := 0, rlen := v.vlen, rstamp := v.stamp, origin := v.origin }, s.metaRecord d.ksp g v)))

/-- PUT, PUT_IF, PATCH, APPEND, DELETE and DELETE_IF that nothing refuses or holds (R22, R44, R63 to R68, R203, R204): the mutation takes
its stamp, its entry stands LIVE in the Tun with kind, offset, length and bytes of its opcode, and the operation waits for the clock and its
replicas (R435, R390) with the result it will report (R54).
Choices of the model: log entries 21, 23, 25. -/
def Obligations.MutationsMakeALiveEntryAtTheirStamp : Prop :=
  ∀ (s : State) (f n : Nat) (d : Desc) (x : Fetched), n ≠ 64 → s.mayFetch f n = true →
    ∀ p ∈ ([(.put (.ring f n) d x, 0x05), (.putIf (.ring f n) d x, 0x06), (.patch (.ring f n) d x, 0x07), (.append (.ring f n) d x, 0x08),
      (.delete (.ring f n) d x, 0x09), (.deleteIf (.ring f n) d x, 0x0A)] : List (Instr × Nat)),
    let c := s.ringCtx f n { d with opc := p.2 } x .held
    let u := s.fetchOne f n { d with opc := p.2 } x .held
    let v : Ver := if needsCur p.2 then u.curVer d.ksp (keyOf d x) else {}
    let dig := u.digest d.ksp (keyOf d x)
    let acks := u.receivers (wardOf dig) (((u.ksp? d.ksp).map fun k => k.rf).getD 1)
    let new : TunEntry :=
      { id := 0, kind := (mutEntry c.desc v).1, state := .live, ksp := d.ksp, key := keyOf d x, origin := u.memberId, replAck := acks.isEmpty,
        stamp := 0, vlen := (mutEntry c.desc v).2.2, offset := (mutEntry c.desc v).2.1, digest := dig, late := decide (2 ≤ u.media.spaceState),
        data := if usesValue p.2 then x.value.take d.vlen else [] }
    ∀ stamp id, Safety.Runs u c → (∀ l, v.leaf = some l → l.rebuild = false) → v.bad = false → u.missing c v [] = [] →
    mutLength c.desc v = false → u.media.readOnly = false → (addsData p.2 = true → u.noSpace = false) → u.askStamp = .stamp stamp →
    mutCond c.desc v = none →
    (∀ a ∈ v.recs, lostAt u.media c a = false) → u.tunRoom (entryUnits new) 1 = true → u.tunFit (entryUnits new) = some id →
    u.leafRoom dig = true → u.townRoom acks.length = true → mutNeeds c.desc v = [] → u.passed stamp = false →
    ∃ t : State, exec p.1 s = .next t ∧ t.tun.entries = s.tun.entries ++ [{ new with id := id, stamp := stamp }] ∧
      t.kv.lastU = stamp / 4096 ∧ t.kv.lastK = stamp % 4096 ∧ (needsCur p.2 = false → t.index = s.index) ∧
      (∃ e ∈ t.kv.ctxs, e.id = c.id ∧ e.phase = .commit ∧ e.stamp = stamp ∧ e.entries = [id] ∧ e.acks = acks ∧ e.wards = [wardOf dig] ∧ e.clock = true ∧
        e.ponr = true ∧ e.res = { status := 0, rlen := new.vlen, rstamp := stamp, origin := u.memberId }) ∧
      (∃ r ∈ t.tun.rows, r.digest = dig ∧ r.entry = id ∧ r.intent = false)

/-- What a mutation makes of the current version (R63 to R68, R203, R64): the kind, offset and new length of its entry, and the condition
it is refused by. -/
def Obligations.MutationsFollowTheirOpcode : Prop :=
  (∀ (d : Desc) (v : Ver), (d.opc = 0x05 ∨ d.opc = 0x06) → mutEntry d v = (.put, 0, d.vlen)) ∧
  (∀ (d : Desc) (v : Ver), d.opc = 0x07 → mutEntry d v = (.patch, d.offset, max v.vlen (d.offset + d.vlen))) ∧
  (∀ (d : Desc) (v : Ver), d.opc = 0x08 → mutEntry d v = if v.present then (.patch, v.vlen, v.vlen + d.vlen) else (.put, 0, d.vlen)) ∧
  (∀ (d : Desc) (v : Ver), (d.opc = 0x09 ∨ d.opc = 0x0A) → mutEntry d v = (.tombstone, 0, 0)) ∧
  (∀ (d : Desc) (v : Ver), (d.opc = 0x05 ∨ d.opc = 0x08) → mutCond d v = none) ∧
  (∀ (d : Desc) (v : Ver), (d.opc = 0x07 ∨ d.opc = 0x09) → mutCond d v = if v.present then none else some 0x0002) ∧
  (∀ (d : Desc) (v : Ver), d.opc = 0x06 → mutCond d v = if condHolds (d.flg / 4 % 4) d.cond v then none else some 0x0003) ∧
  (∀ (d : Desc) (v : Ver), d.opc = 0x0A →
    mutCond d v = if condHolds (d.flg / 4 % 4) d.cond v then (if v.present then none else some 0x0002) else some 0x0003) ∧
  (∀ (cond : Nat) (v : Ver), condHolds 0 cond v = (v.present && v.stamp == cond) ∧ condHolds 1 cond v = !v.present ∧
    condHolds 2 cond v = v.present ∧ condHolds 3 cond v = (!v.present || decide (v.stamp ≤ cond))) ∧
  (∀ (s : State) (c : OpCtx) (rf st : Nat) (v : Ver), v = s.curVer c.desc.ksp (keyOf c.desc c.fx) → needsCur c.desc.opc = true →
    v.bad = false → (∀ l, v.leaf = some l → l.rebuild = false) → s.missing c v [] = [] → mutLength c.desc v = false →
    s.media.readOnly = false → (addsData c.desc.opc = true → s.noSpace = false) → s.askStamp ≠ .refused → mutCond c.desc v = some st →
    s.runMut c rf = (s.useVer c v).finish (c.using v)
      { status := st, rlen := if v.present then v.vlen else 0, rstamp := v.stamp, origin := v.origin } [])

/-- BATCH at its owner, with nothing to wait for (R70 to R76, R54, R205). It takes one stamp, applied or not. A batch that only reads answers its records
and bytes with SUCCESS. An element that stops it ends it with the first status that R74 names, and nothing is written; a batch without a change
ends with SUCCESS; otherwise its entries and a batch record stand in the Tun at the stamp, resolved at once where no replica is to hold them, its
result records and read data lie in the result SGL, and it waits for the clock and its replicas. Elements whose bytes are lost here and at every
replica meet DATA_LOST; what a replica gives is free.
Choices of the model: log entries 23, 25, 26, 56, 135. -/
def Obligations.BatchesApplyWholeOrNotAtAll : Prop :=
  ∀ (s : State) (f n : Nat) (d : Desc) (x : Fetched), n ≠ 64 → s.mayFetch f n = true →
    let c := s.ringCtx f n { d with opc := 0x0B } x .held
    let u := s.fetchOne f n { d with opc := 0x0B } x .held
    let es := batchElems c.desc x.value
    let vs := es.map fun e => (e, u.curVer d.ksp e.key)
    let asked := State.askElems c vs u
    let xs := vs.zip asked.1
    let stop := batchStop (xs.map fun y => if isMut y.1.1.d.opc then elemStop y.1.1 y.1.2 y.2 else none)
    let pieces := fun (stop : Option Nat) (stamp : Nat) => batchPieces es.length (xs.map fun y => u.elemResult c y.1.1 y.1.2 y.2 stop stamp)
    let acks := ((es.map fun e => wardOf (u.digest d.ksp e.key)).eraseDups.flatMap fun w =>
      u.receivers w (((u.ksp? d.ksp).map fun k => k.rf).getD 1)).eraseDups
    let ents := u.batchEntries (u.tun.batchNo + 1) 0 vs acks.isEmpty
    ∀ stamp, Safety.Runs u c → (∀ y ∈ vs, y.2.bad = false ∧ (∀ l, y.2.leaf = some l → l.rebuild = false) ∧
      u.missing c y.2 (elemExts y.1 y.2) = [] ∧ (isRead y.1.d.opc = true → y.2.unacked = false)) →
    u.askStamp = .stamp stamp →
    ((∀ e ∈ es, isRead e.d.opc = true) →
      ∃ t : State, exec (.batch (.ring f n) d x) s = .next t ∧ t.kv.lastU = stamp / 4096 ∧ t.kv.lastK = stamp % 4096 ∧ t.tun.entries = s.tun.entries ∧
        Safety.Ends u f n d x c.id { status := 0, rlen := (pieces none 0).2, rstamp := 0, origin := u.memberId } (pieces none 0).1 t) ∧
    (u.media.readOnly = false → ((es.any fun e => addsData e.d.opc) = true → u.noSpace = false) →
    (∀ st, (stop = some st ∨ stop = none ∧ ents = [] ∧ st = 0) →
      ∃ t : State, exec (.batch (.ring f n) d x) s = .next t ∧ t.kv.lastU = stamp / 4096 ∧ t.kv.lastK = stamp % 4096 ∧
        (∀ e ∈ t.tun.entries, ∃ e' ∈ s.tun.entries, e'.id = e.id ∧ e'.state = e.state ∧ e'.kind = e.kind ∧ e'.data = e.data) ∧
        Safety.Ends u f n d x c.id
          { status := st, rlen := if st < 0x0100 then (pieces stop 0).2 else 0, rstamp := 0, origin := u.memberId } (pieces stop 0).1 t) ∧
    (stop = none → ents ≠ [] → u.passed stamp = false → (∀ e ∈ ents, u.leafRoom e.digest = true) → u.townRoom acks.length = true →
      u.tunRoom ((ents.map entryUnits).sum + (64 + 4 * ents.length + 63) / 64) (2 * ents.length) = true →
      ∃ ids w rid z t, ents.foldl (fun (acc : List Nat × State) e => match acc.2.addEntry { e with stamp := stamp } false with
          | none => acc
          | some (id, y) => (acc.1 ++ [id], y.addRow e.digest true id e.ksp)) ([], asked.2) = (ids, w) ∧
        w.addEntry { id := 0, kind := .batchRecord, state := .live, ksp := d.ksp, key := [], origin := u.memberId, replAck := acks.isEmpty,
                     stamp := stamp, vlen := 0, digest := 0, batch := u.tun.batchNo + 1, members := ids } false = some (rid, z) ∧
        exec (.batch (.ring f n) d x) s = .next t ∧ ids.length = ents.length ∧ t.kv.lastU = stamp / 4096 ∧ t.kv.lastK = stamp % 4096 ∧
        t.tun.batchNo = u.tun.batchNo + 1 ∧
        (acks ≠ [] → t.tun.entries = z.tun.entries) ∧
        (acks = [] → ∀ e ∈ t.tun.entries, e.kind = .batchRecord → e.batch = u.tun.batchNo + 1 → e.resolved = true) ∧
        (∀ p ∈ (pieces none stamp).1, ∀ q ∈ scatterAt p.1 (resultSgl d x) p.2, .memWrite q.1 q.2 false ∈ t.out) ∧
        ∃ e ∈ t.kv.ctxs, e.id = c.id ∧ e.phase = .commit ∧ e.stamp = stamp ∧ e.entries = ids ++ [rid] ∧ e.acks = acks ∧ e.clock = true ∧
          e.res = { status := 0, rlen := (pieces none stamp).2, rstamp := stamp, origin := u.memberId }))

/-- Staged values (R78 to R83, R260, R110). STAGE_OPEN answers the next handle, never 0; STAGE_DATA reads the extents that it
covers in part, stores its piece in the value's extents and waits for their pages; STAGE_PUBLISH makes a PUBLISH entry of the whole declared value at its stamp and closes the handle;
STAGE_DISCARD drops the value, and so does IDLE_S seconds without activity, with an event. A handle that another owner has issued is remembered,
and its commands go to that owner (R79, R388).
Choices of the model: log entries 23, 48, 159. -/
def Obligations.StagedValuesAreOpenedFilledPublishedAndDropped : Prop :=
  (∀ (s : State) (f n : Nat) (d : Desc) (x : Fetched), n ≠ 64 → s.mayFetch f n = true → s.kv.staged.length < 4096 → s.power.entry = none →
    let c := s.ringCtx f n { d with opc := 0x0C } x .held
    let u := s.fetchOne f n { d with opc := 0x0C } x .held
    let h := if (s.kv.handle + 1) % 2 ^ 32 = 0 then 1 else s.kv.handle + 1
    Safety.Runs u c → u.media.readOnly = false → u.noSpace = false →
    ∃ t : State, exec (.stageOpen (.ring f n) d x) s = .next t ∧ t.kv.handle = h ∧
      t.media.handleFloor = (if s.kv.handle = s.media.handleFloor ∨ h = (s.media.handleFloor + 1) % 2 ^ 32 then (s.kv.handle + 1048576) % 2 ^ 32
        else s.media.handleFloor) ∧
      t.kv.staged = s.kv.staged ++ [{ handle := h, tenant := f, ksp := d.ksp, key := keyOf d x, declared := d.vlen, last := s.clk.cycles }] ∧
      Safety.Ends u f n d x c.id { status := 0, rlen := h, rstamp := 0, origin := u.memberId } [] t) ∧
  (∀ (s : State) (f n : Nat) (d : Desc) (x : Fetched) (v : Staged), n ≠ 64 → s.mayFetch f n = true →
    let c := s.ringCtx f n { d with opc := 0x0D } x .held
    let u := s.fetchOne f n { d with opc := 0x0D } x .held
    Safety.Free u c → u.kv.staged.find? (fun v => v.handle == handleOf c.desc && v.tenant == f) = some v →
    u.kspCheck v.ksp v.tenant u.slotLoaded = none → u.notJoined = false →
    (v.declared < d.offset + d.vlen →
      ∃ t : State, exec (.stageData (.ring f n) d x) s = .next t ∧ t.kv.staged = s.kv.staged ∧ Safety.Ends u f n d x c.id { status := 0x0102 } [] t) ∧
    (d.offset + d.vlen ≤ v.declared → u.media.readOnly = false → u.noSpace = false → u.sameOpen c v.handle = false →
      (∃ e ∈ mergedExtents v d.offset d.vlen, lostAt u.media c e.2 = false) →
      ∃ t : State, exec (.stageData (.ring f n) d x) s = .next t ∧ t.kv.staged = s.kv.staged ∧ ∃ e ∈ t.kv.ctxs, e.id = c.id ∧ e.phase = .reading ∧
        e.need = ((mergedExtents v d.offset d.vlen).filter fun e => !lostAt u.media c e.2).map fun e => e.2) ∧
    (∀ es w, d.offset + d.vlen ≤ v.declared → u.media.readOnly = false → u.noSpace = false → u.sameOpen c v.handle = false →
      mergedExtents v d.offset d.vlen = [] →
      u.townRoom (u.receivers (wardOf (u.digest v.ksp v.key)) (((u.ksp? v.ksp).map fun k => k.rf).getD 1)).length = true →
      u.storeExtents .staged v.ksp 1 (pieceExtents u.media v d.offset (x.value.take d.vlen)) [] = some (es, w) →
      ∃ t : State, exec (.stageData (.ring f n) d x) s = .next t ∧ t.media = w.media ∧
        (∃ y ∈ t.kv.staged, y.handle = v.handle ∧ y.last = s.clk.cycles ∧
          y.extents = sortBy (fun e => e.1) ((v.extents.filter fun e => !(es.any fun z => z.1 == e.1)) ++ es)) ∧
        ∃ e ∈ t.kv.ctxs, e.id = c.id ∧ e.phase = .pages ∧ e.ponr = true ∧ e.need = es.map (fun e => e.2) ∧ e.handle = v.handle ∧
          e.res = { status := 0, rlen := d.vlen, rstamp := 0, origin := u.memberId })) ∧
  (∀ (s : State) (f n : Nat) (d : Desc) (x : Fetched) (v : Staged) (stamp id : Nat), n ≠ 64 → s.mayFetch f n = true →
    let c := s.ringCtx f n { d with opc := 0x0E } x .held
    let u := s.fetchOne f n { d with opc := 0x0E } x .held
    let dig := u.digest v.ksp v.key
    let acks := u.receivers (wardOf dig) (((u.ksp? v.ksp).map fun k => k.rf).getD 1)
    let new : TunEntry :=
      { id := id, kind := .publish, state := .live, ksp := v.ksp, key := v.key, origin := u.memberId, replAck := acks.isEmpty,
        stamp := stamp, vlen := v.declared, digest := dig, extents := v.extents, handle := v.handle, late := decide (2 ≤ u.media.spaceState) }
    Safety.Free u c → u.kv.staged.find? (fun v => v.handle == handleOf c.desc && v.tenant == f) = some v →
    u.kspCheck v.ksp v.tenant u.slotLoaded = none → u.notJoined = false → (∀ y ∈ u.kv.ctxs, ¬(y.phase = .pages ∧ y.handle = v.handle)) →
    u.intentOn v.ksp v.key = false → u.media.readOnly = false → u.noSpace = false → u.tunRoom (entryUnits new) 1 = true →
    u.tunFit (entryUnits new) = some id → u.leafRoom dig = true → u.townRoom acks.length = true → u.askStamp = .stamp stamp → u.passed stamp = false →
    ∃ t : State, exec (.stagePublish (.ring f n) d x) s = .next t ∧ t.tun.entries = s.tun.entries ++ [new] ∧ t.kv.lastU = stamp / 4096 ∧
      t.kv.lastK = stamp % 4096 ∧ t.kv.staged = s.kv.staged.filter (fun y => y.handle != v.handle) ∧
      ∃ e ∈ t.kv.ctxs, e.id = c.id ∧ e.phase = .commit ∧ e.stamp = stamp ∧ e.entries = [id] ∧ e.acks = acks ∧ e.clock = true ∧
        e.res = { status := 0, rlen := v.declared, rstamp := stamp, origin := u.memberId }) ∧
  (∀ (s : State) (f n : Nat) (d : Desc) (x : Fetched) (v : Staged), n ≠ 64 → s.mayFetch f n = true →
    let c := s.ringCtx f n { d with opc := 0x0F } x .held
    let u := s.fetchOne f n { d with opc := 0x0F } x .held
    Safety.Free u c → u.kv.staged.find? (fun v => v.handle == handleOf c.desc && v.tenant == f) = some v →
    (u.kspCheck v.ksp v.tenant u.slotLoaded = none ∧ u.notJoined = false ∨ u.kspCheck v.ksp v.tenant u.slotLoaded = some 0x0401) →
    ∃ t : State, exec (.stageDiscard (.ring f n) d x) s = .next t ∧ t.kv.staged = s.kv.staged.filter (fun y => y.handle != v.handle) ∧
      Safety.Ends u f n d x c.id {} [] t) ∧
  (∀ (s : State) (h : Nat) (v : Staged), s.serving = true → s.kv.staged? h = some v →
    ∃ t : State, exec (.stagedIdleTimeout h) s = .next t ∧ t.kv = { s.kv with staged := s.kv.staged.filter fun y => y.handle != h } ∧
      t.clk.cycles = max s.clk.cycles (v.last + s.fget .kveStageCtrl_idleS * 600000000) ∧
      t.ev = ((s.waitCycle (v.last + s.fget .kveStageCtrl_idleS * 600000000)).report .stagedDiscarded h).ev) ∧
  (∀ (s : State) (c : OpCtx) (f n : Nat), c.src = .ring f n → 0x0D ≤ c.desc.opc → c.desc.opc ≤ 0x0F → s.behind c = false →
    s.fillingOn (s.kspOf c.desc) (s.keysOf c) = false → (∀ k ∈ s.keysOf c, s.intentOn (s.kspOf c.desc) k = false) →
    s.kv.staged.find? (fun v => v.handle == handleOf c.desc && v.tenant == c.tenant) = none →
    (s.kv.away? c.tenant (handleOf c.desc) = none → s.dispatch c = s.fail c 0x0105) ∧
    ∀ v m, s.kv.away? c.tenant (handleOf c.desc) = some v → s.kspCheck v.ksp v.tenant s.slotLoaded = none →
      s.wardOwner (wardOf (s.digest v.ksp v.key)) = .remote m → s.dispatch c = if m = v.owner then s.forward c m else s.fail c 0x0105) ∧
  (∀ (s : State) (c : OpCtx) (h : Nat), c.desc.opc = 0x0C →
    (s.awayReply c 0 h).kv.away? c.tenant h = some ⟨h, c.tenant, c.desc.ksp, keyOf c.desc c.fx, c.dest⟩)

/-- Snapshots and leases (R84 to R87). SNAPSHOT_OPEN reserves a lease at its stamp and waits for the clock; when the clock has passed the
stamp the lease is recorded and its milliseconds are reported; SNAPSHOT_CLOSE ends it, and so does the expiry it recorded. On a Town member
whose join has not completed these commands and BARRIER complete with PEER_UNREACHABLE (R26).
Choices of the model: log entries 4, 23, 136, 160. -/
def Obligations.SnapshotsHoldLeases : Prop :=
  (∀ (s : State) (f n : Nat) (d : Desc) (x : Fetched) (stamp : Nat), n ≠ 64 → s.mayFetch f n = true →
    let c := s.ringCtx f n { d with opc := 0x11 } x .held
    let u := s.fetchOne f n { d with opc := 0x11 } x .held
    Safety.Free u c → u.notJoined = false → s.kv.leases.length < 1024 → u.snapStamp = some stamp → u.retainUs ≠ 0 → s.power.entry = none →
    ∃ t : State, exec (.snapshotOpen (.ring f n) d x) s = .next t ∧
      t.kv.leases = s.kv.leases ++ [{ tenant := f, stamp := stamp, reserved := true }] ∧ (∀ o ∈ s.out, o ∈ t.out) ∧
      ∃ e ∈ t.kv.ctxs, e.id = c.id ∧ e.phase = .snapOpen ∧ e.ponr = true ∧ e.stamp = stamp) ∧
  (∀ (s : State) (f n : Nat) (d : Desc) (x : Fetched), n ≠ 64 → s.mayFetch f n = true →
    let c := s.ringCtx f n { d with opc := 0x11 } x .held
    let u := s.fetchOne f n { d with opc := 0x11 } x .held
    Safety.Free u c → u.notJoined = false → 1024 ≤ s.kv.leases.length →
    ∃ t : State, exec (.snapshotOpen (.ring f n) d x) s = .next t ∧ t.kv.leases = s.kv.leases ∧ Safety.Ends u f n d x c.id { status := 0x0109 } [] t) ∧
  (∀ (s : State) (f n : Nat) (d : Desc) (x : Fetched), n ≠ 64 → s.mayFetch f n = true →
    let c := s.ringCtx f n { d with opc := 0x12 } x .held
    let u := s.fetchOne f n { d with opc := 0x12 } x .held
    Safety.Free u c → u.notJoined = false →
    ∃ t : State, exec (.snapshotClose (.ring f n) d x) s = .next t ∧
      t.kv.leases = s.kv.leases.filter (fun l => !(l.tenant == f && l.stamp == d.snap && !l.reserved)) ∧
      Safety.Ends u f n d x c.id { status := 0, rlen := 0, rstamp := d.snap, origin := u.memberId } [] t) ∧
  (∀ (s : State) (f n : Nat) (d : Desc) (x : Fetched), n ≠ 64 → s.mayFetch f n = true →
    ∀ p ∈ ([(.snapshotOpen (.ring f n) d x, 0x11), (.snapshotClose (.ring f n) d x, 0x12), (.barrier (.ring f n) d x, 0x13)] : List (Instr × Nat)),
    let c := s.ringCtx f n { d with opc := p.2 } x .held
    let u := s.fetchOne f n { d with opc := p.2 } x .held
    Safety.Free u c → u.notJoined = true →
    ∃ t : State, exec p.1 s = .next t ∧ t.kv.leases = s.kv.leases ∧ Safety.Ends u f n d x c.id { status := 0x0501 } [] t) ∧
  (∀ (s : State) (tenant stamp : Nat) (l : Lease), s.serving = true →
    s.kv.leases.find? (fun l => l.tenant == tenant && l.stamp == stamp && !l.reserved) = some l →
    ∃ t : State, exec (.leaseExpiry tenant stamp) s = .next t ∧
      t.kv = { s.kv with leases := s.kv.leases.filter fun y => !(y.tenant == tenant && y.stamp == stamp && !y.reserved && decide (y.expiry ≤ l.expiry)) } ∧
      (s.incr ≠ 0 → taiOfUs (l.expiry / 4096) ≤ t.clk.tai))

/-- Waits of the key-value engine end (R47, R49, R94, R21, R61, R435). COMMIT_WAIT_DONE moves the clock past the stamp and ends an
operation that has its replicas; an operation that needs the next microsecond is dispatched in it; a read looks again; a BARRIER ends
when nothing before it is left; a held admin command runs when its turn comes, a message of changes that waits for room is taken up, and an
operation that waits for its owner is routed again once the epoch that a MOVED answer named is applied.
Choices of the model: log entries 4, 35. -/
def Obligations.WaitsOfTheEngineEnd : Prop :=
  (∀ (s : State) (id f n : Nat) (c : OpCtx), s.ready = true → s.kv.ctx? id = some c → c.phase = .commit → c.acks = [] →
    c.src = .ring f n → c.orphan = false → (s.waitTai (taiOfUs (c.stamp / 4096 + 1))).passed c.stamp = true →
    ∃ t : State, exec (.commitWaitDone id) s = .next t ∧ t.passed c.stamp = true ∧ (∀ e ∈ t.kv.ctxs, e.id ≠ id) ∧
      .memWrite (s.rg f n .hqCqBase_addr * 4096 + 32 * s.rg f n .hqRingStat_cqTail)
        (cqEntry c.desc.tag c.res.status c.res.rlen c.res.rstamp c.res.origin c.gen (s.ring f n).phase (s.rg f n .hqRingStat_sqHead)) false
        ∈ t.out) ∧
  (∀ (s : State) (id f n : Nat) (c : OpCtx), s.serving = true → s.kv.ctx? id = some c → c.phase = .snapOpen → c.src = .ring f n →
    c.orphan = false → (s.waitTai (taiOfUs (c.stamp / 4096 + 1))).passed c.stamp = true →
    ∃ t : State, exec (.commitWaitDone id) s = .next t ∧ (∀ e ∈ t.kv.ctxs, e.id ≠ id) ∧
      t.kv.leases = updWhere (fun l => l.tenant == c.tenant && l.stamp == c.stamp)
        (fun l => { l with reserved := false, expiry := c.stamp + s.retainUs * 4096 }) s.kv.leases ∧
      .memWrite (s.rg f n .hqCqBase_addr * 4096 + 32 * s.rg f n .hqRingStat_cqTail)
        (cqEntry c.desc.tag 0 ((c.stamp / 4096 + s.retainUs - (s.waitTai (taiOfUs (c.stamp / 4096 + 1))).nowUs) / 1000) c.stamp s.memberId
          c.gen (s.ring f n).phase (s.rg f n .hqRingStat_sqHead)) false ∈ t.out) ∧
  (∀ (s : State) (id : Nat) (c : OpCtx), s.serving = true → s.kv.ctx? id = some c → c.phase = .counter →
    exec (.stampCounterWaitEnd id) s = .next (settle s (s.within (dataParts ++ [Part.clk]) dataRegs (s.waitCounter.dispatch c))) ∧
    (s.incr ≠ 0 → taiOfUs (s.kv.lastU + 1) - s.epsFor.getD 0 ≤ s.waitCounter.clk.tai)) ∧
  (∀ (s : State) (id : Nat) (c : OpCtx), s.serving = true → s.kv.ctx? id = some c → (c.phase = .intent ∨ c.phase = .readAck ∨ c.phase = .replica ∨ c.phase = .buffer) →
    exec (.readResume id) s = .next (settle s (s.within (dataParts ++ [Part.free]) dataRegs (if c.ponr = false then s.dispatch c
      else if c.desc.opc = 0x10 then s.scanCall c c.readT c.handle else s.readStep c)))) ∧
  (∀ (s : State) (f n : Nat) (d : Desc) (x : Fetched), n ≠ 64 → s.mayFetch f n = true →
    let c := s.ringCtx f n { d with opc := 0x13 } x .held
    let u := s.fetchOne f n { d with opc := 0x13 } x .held
    Safety.Free u c → u.notJoined = false →
    ((∀ e ∈ s.kv.ctxs, ¬(sameSrc e.src (.ring f n) = true ∧ e.id < s.kv.nextCtx)) →
      ∃ t : State, exec (.barrier (.ring f n) d x) s = .next t ∧ Safety.Ends u f n d x c.id {} [] t) ∧
    ((∃ e ∈ s.kv.ctxs, sameSrc e.src (.ring f n) = true ∧ e.id < s.kv.nextCtx) →
      ∃ t : State, exec (.barrier (.ring f n) d x) s = .next t ∧ t.out = s.out ∧ ∃ e ∈ t.kv.ctxs, e.id = c.id ∧ e.phase = .barrier)) ∧
  (∀ (s : State) (id : Nat) (c : OpCtx), s.serving = true → s.kv.ctx? id = some c →
    let keep := s.within (townParts ++ [Part.cfl, Part.upd, Part.free]) (ledRegs ++ townRegs ++ [RegName.adErr, RegName.cipDrbgStat, RegName.kveIdxStat, RegName.ptpWaitStat])
    (c.pool = .admin → c.phase = .held → exec (.operationDispatch id) s = .next (settle s (keep (if s.adminBusy c = true then s else s.runAdmin c)))) ∧
    (c.pool = .admin → c.phase = .noOwner → exec (.operationDispatch id) s = .next (settle s (keep (s.adminAgain c)))) ∧
    (∀ m, c.pool ≠ .admin → c.repl = some m → exec (.operationDispatch id) s = .next (settle s (keep (s.takeAgain c m)))) ∧
    (c.pool ≠ .admin → c.repl = none → c.phase = .held → exec (.operationDispatch id) s = .next (settle s (keep (s.dispatch c)))) ∧
    (c.pool ≠ .admin → c.repl = none → c.phase = .noOwner → exec (.operationDispatch id) s = .next (settle s (keep
      (if c.minEpoch ≤ s.town.epoch then s.dispatch c else s)))))

/-- SCAN (R88 to R92, R210). A scan of a part outside a Town, with nothing to wait for, reads at the stamp that its cursor or SNAP names, or at the
greatest assigned stamp where it takes none; one that takes a new scan stamp waits until the clock has passed it. It answers whole digest groups
of the present versions at its stamp in scan order, after a header that says how many, whether that is the end, and where to go on. In a Town the
part walks the Wards in ascending order: it reads those it serves, and sends the owner of the next a SCAN that goes on from there (R388).
Choices of the model: log entry 36. -/
def Obligations.ScansAnswerWholeGroupsInOrder : Prop :=
  (∀ (s : State) (f n : Nat) (d : Desc) (x : Fetched), n ≠ 64 → s.mayFetch f n = true → s.isMember = false →
    let c := s.ringCtx f n { d with opc := 0x10 } x .held
    let u := s.fetchOne f n { d with opc := 0x10 } x .held
    let cstamp := fieldAt (keyOf d x) 16 8
    let start := if d.klen = 0 then 0 else fieldAt (keyOf d x) 0 16 + 1
    let own := (d.klen = 24 ∧ cstamp = 0) ∨ (d.klen = 0 ∧ d.snap = 0 ∧ u.retainUs = 0)
    let given := if d.klen = 24 then cstamp else d.snap
    let t0 := if own then u.lastStamp else given
    let carried := if own then 0 else given
    let cur := fieldAt (keyOf d x) 0 16
    let cap := sglLen (resultSgl d x)
    let walked := u.scanLeaves c start (2 ^ 128)
    let keys := u.scanKeys walked d.ksp start (2 ^ 128)
    let vs := (keys.map fun k => (k, u.readVer d.ksp k.2 t0)).filter fun y => y.2.present
    let recs := vs.map fun y => (y.1.1, scanRecord y.1.2 y.2)
    let got := takeGroups (recs.length + 1) (cap - 32) d.vlen true recs
    let body := scanHeader got.length (decide (got.length = recs.length)) ((got.getLast?.map fun y => y.1).getD 0) carried ++ (got.map fun y => y.2).flatten
    Safety.Free u c → u.kspCheck d.ksp f u.slotLoaded = none →
    u.route c (u.scanWards c) (((u.ksp? d.ksp).map fun k => k.rf).getD 1) = .here →
    ((own ∨ (given ≠ 0 ∧ u.tooOld given = false ∧ u.passed given = true)) → u.fillingIn d.ksp start (2 ^ 128) (max t0 u.lastStamp) = false →
      (∀ k ∈ keys, u.intentOn d.ksp k.2 = false ∧ (u.readVer d.ksp k.2 t0).bad = false ∧
        (u.readVer d.ksp k.2 t0).unacked = false ∧ u.missing c (u.readVer d.ksp k.2 t0) [] = []) →
      (∀ l ∈ walked, l.rebuild = false ∧ u.missing c { leaf := some l } [] = []) →
      (∀ k ∈ keys, ∀ l, (u.readVer d.ksp k.2 t0).leaf = some l → l.rebuild = false) →
      (recs = [] → 32 ≤ cap → ∃ t : State, exec (.scan (.ring f n) d x) s = .next t ∧
        Safety.Ends u f n d x c.id { status := 0, rlen := 32, rstamp := t0 } [(0, scanHeader 0 true cur carried)] t) ∧
      (recs = [] → cap < 32 → ∃ t : State, exec (.scan (.ring f n) d x) s = .next t ∧ Safety.Ends u f n d x c.id { status := 0x0001, rlen := 32, rstamp := t0 } [] t) ∧
      (recs ≠ [] → 32 ≤ cap → got ≠ [] → ∃ t : State, exec (.scan (.ring f n) d x) s = .next t ∧
        Safety.Ends u f n d x c.id { status := 0, rlen := body.length, rstamp := t0 } [(0, body)] t) ∧
      (recs ≠ [] → (cap < 32 ∨ got = []) → ∃ t : State, exec (.scan (.ring f n) d x) s = .next t ∧
        Safety.Ends u f n d x c.id { status := 0x0001, rlen := 32 + ((headGroup recs).map fun y => y.2.length).sum, rstamp := t0 }
          (if 32 ≤ cap then [(0, scanHeader 0 false cur carried)] else []) t)) ∧
    (∀ stamp, ¬own → given = 0 → u.snapStamp = some stamp → u.passed stamp = false →
      ∃ t : State, exec (.scan (.ring f n) d x) s = .next t ∧ t.out = s.out ∧
        ∃ e ∈ t.kv.ctxs, e.id = c.id ∧ e.phase = .snapRead ∧ e.stamp = stamp ∧ e.readT = stamp ∧ e.handle = stamp ∧ e.scanAt = start ∧ e.ponr = true)) ∧
  (∀ (s : State) (c : OpCtx) (f n t0 carried : Nat), c.src = .ring f n → c.orphan = false → c.poison = [] → c.desc.opc = 0x10 →
    let cur := fieldAt (keyOf c.desc c.fx) 0 16
    let cap := sglLen (resultSgl c.desc c.fx)
    let walked := s.scanLeaves c c.scanAt (s.scanEnd c)
    let keys := s.scanKeys walked c.desc.ksp c.scanAt (s.scanEnd c)
    let ver := fun (k : Nat × Bytes) => s.readVer c.desc.ksp k.2 t0 (c.heldLeaf k.1)
    let all := keys.map ver ++ walked.map fun l => ({ leaf := some l } : Ver)
    let vs := (keys.map fun k => (k, ver k)).filter fun x => x.2.present
    let recs := c.scanned ++ vs.map fun x => (x.1.1, scanRecord x.1.2 x.2)
    let got := takeGroups (recs.length + 1) (cap - 32) c.desc.vlen true recs
    let at_ := max c.scanAt (s.scanEnd c)
    let c' : OpCtx := { c with scanned := recs, scanAt := at_ }
    let w := all.foldl (fun s v => s.countRead v) s
    let body := fun e => scanHeader got.length e ((got.getLast?.map fun x => x.1).getD 0) carried ++ (got.map fun x => x.2).flatten
    s.fillingIn c.desc.ksp c.scanAt (s.scanEnd c) (max t0 c.seen) = false →
    (∀ k ∈ keys, s.intentOn c.desc.ksp k.2 = false) →
    (∀ v ∈ all, v.bad = false ∧ (∀ l, v.leaf = some l → l.rebuild = false) ∧ v.unacked = false ∧ s.missing c v [] = []) →
    (∀ k ∈ keys, s.wardOwner (wardOf k.1) = .self ∧ c.scanAt ≤ k.1 ∧ k.1 < s.scanEnd c) ∧
    (keys.Pairwise fun a b => keyLt b a = false ∧ a ≠ b) ∧
    (∃ k, got = recs.take k) ∧
    (s.isMember = false → s.scanEnd c = 2 ^ 128) ∧
    (2 ^ 128 ≤ at_ → 32 ≤ cap →
      (recs = [] → s.scanCall c t0 carried = w.finish c' { status := 0, rlen := 32, rstamp := t0 } [(0, scanHeader 0 true cur carried)]) ∧
      (got ≠ [] → s.scanCall c t0 carried = w.finish c' { status := 0, rlen := (body (decide (got.length = recs.length))).length, rstamp := t0 }
        [(0, body (decide (got.length = recs.length)))])) ∧
    ((2 ^ 128 ≤ at_ ∨ got.length < recs.length) → 32 ≤ cap → recs ≠ [] → got = [] → s.scanCall c t0 carried = w.finish c'
      { status := 0x0001, rlen := 32 + ((headGroup recs).map fun x => x.2.length).sum, rstamp := t0 } [(0, scanHeader 0 false cur carried)]) ∧
    (at_ < 2 ^ 128 → got.length < recs.length → 32 ≤ cap → got ≠ [] →
      s.scanCall c t0 carried = w.finish c' { status := 0, rlen := (body false).length, rstamp := t0 } [(0, body false)]) ∧
    (at_ < 2 ^ 128 → got.length = recs.length →
      (w.wardOwner (wardOf at_) = .nobody → s.scanCall c t0 carried = w.fail c' 0x0501) ∧
      (∀ m x, w.wardOwner (wardOf at_) = .remote m → s.slotFor m c.tenant = some x →
        w.cipherFull x (segCount (slotP x) (if at_ = 0 then 0 else 24) 0) = false → s.areaUsed ≤ areaBytes → c ∈ s.kv.ctxs →
        (∀ e ∈ s.kv.ctxs, e.id = c.id → e = c) →
        ∃ y ∈ (s.scanCall c t0 carried).ywp.slots, y.n = x.n ∧ (∃ q ∈ y.tx, q.ctx = some c.id ∧ ∃ rq fl, q.head = .request
          { c.desc with klen := if at_ = 0 then 0 else 24, snap := if at_ = 0 then carried else 0, vlen := max 1 (c.desc.vlen - recs.length) }
          (if at_ = 0 then [] else leBytes 16 (at_ - 1) ++ leBytes 8 carried) scanRbuf rq s.town.epoch fl false) ∧
        ∃ e ∈ (s.scanCall c t0 carried).kv.ctxs, e.id = c.id ∧ e.phase = .forwarded ∧ e.dest = m ∧ e.scanned = recs ∧ e.scanAt = at_)) ∧
    ∀ r ps, Output.memWrite (s.rg f n .hqCqBase_addr * 4096 + 32 * s.rg f n .hqRingStat_cqTail)
      (cqEntry c.desc.tag r.status r.rlen r.rstamp r.origin c.gen (s.ring f n).phase (s.rg f n .hqRingStat_sqHead)) false ∈ (s.finish c r ps).out) ∧
  (∀ (s : State) (c : OpCtx) (rlen : Nat) (body : Bytes), bitAt (fieldAt body 4 1) 0 = true →
    let mine := ((scanRecords (fieldAt body 0 4) (body.drop 32)).map fun r => (s.digest c.desc.ksp r.1, r.2)).takeWhile fun r => wardOf r.1 == wardOf c.scanAt
    let c' : OpCtx := { c with scanned := c.scanned ++ mine, scanAt := wardStart (wardOf c.scanAt + 1) }
    s.scanReply c 0 rlen body = (s.modCtx c.id fun e => { e with scanned := c'.scanned, scanAt := c'.scanAt }).scanCall c' c.readT c.handle)

/-! ### Admin commands -/

/-- Every command of an admin ring (IDENTIFY to EVENT_CLEAR and the six TOWN_CONTROL actions) is fetched into a context, SQ_HEAD moving on
(R127), and runs at once when nothing of its ring is before it (R151), else waits; where the engine may not fetch, nothing changes. The common
checks come in the order of R777: a failed fetch, a PF-only command on a VF, a bad field, a bad SGL.
Choices of the model: log entries 3, 24. -/
def Obligations.AdminCommandsRunOneAtATime : Prop :=
  (∀ (i : Instr) (s : State) (op f : Nat) (d : Desc) (x : Fetched) (run : State → OpCtx → State), Safety.adminOf i = some (op, f, d, x, run) →
    let c := s.ringCtx f 64 { d with opc := op } x .held
    let u := s.fetchOne f 64 { d with opc := op } x .held
    let keep := s.within (Safety.reachOf i).1 (Safety.reachOf i).2
    (s.mayFetch f 64 = false → exec i s = .next (settle s (keep s))) ∧
    (s.mayFetch f 64 = true → u.adminBusy c = true → exec i s = .next (settle s (keep u))) ∧
    (s.mayFetch f 64 = true → u.adminBusy c = false → exec i s = .next (settle s (keep (run u c)))) ∧
    (u.adminBusy c = true ↔ ∃ e ∈ s.kv.ctxs, e.src = .ring f 64 ∧ e.id < s.kv.nextCtx) ∧
    u.kv.ctxs = s.kv.ctxs ++ [c] ∧ u.rg f 64 .hqRingStat_sqHead = (s.rg f 64 .hqRingStat_sqHead + 1) % s.ringN f 64 % 65536) ∧
  (∀ (s : State) (c : OpCtx) (pf bad : Bool) (need : Nat) (g : State → OpCtx → State),
    (∀ st, adminRefused c pf bad need = some st → s.adminRun c pf bad need g = s.fail c st) ∧
    (adminRefused c pf bad need = none → s.adminRun c pf bad need g =
      g (s.modCtx c.id fun _ => { c with ponr := true, phase := .admin, since := s.clk.cycles }) { c with ponr := true, phase := .admin, since := s.clk.cycles }) ∧
    (c.fx.fault = true → adminRefused c pf bad need = some 0x0F00) ∧
    (c.fx.fault = false → pf = true → c.tenant ≠ 0 → adminRefused c pf bad need = some 0x0400) ∧
    (c.fx.fault = false → (pf = false ∨ c.tenant = 0) → bad = true → adminRefused c pf bad need = some 0x0101) ∧
    (∀ st, adminRefused c pf bad need = some st → st = 0x0F00 ∨ st = 0x0400 ∨ st = 0x0101 ∨ st = 0x0106) ∧
    (adminRefused c pf bad need = none → 0 < need → need ≤ sglLen (resultSgl c.desc c.fx)))

/-- IDENTIFY, KEYSPACE_QUERY, GET_HEALTH, UPDATE_QUERY, TOWN_CONTROL QUERY and STATE_DUMP write their records to the result SGL and report
its length (R153, R157, R306, R671, R415, R692, R693).
Choices of the model: log entry 24. -/
def Obligations.AdminQueriesWriteTheirRecords : Prop :=
  (∀ (s : State) (f : Nat) (d : Desc) (x : Fetched), s.mayFetch f 64 = true →
    let c := s.ringCtx f 64 { d with opc := 0x80 } x .held
    let u := s.fetchOne f 64 { d with opc := 0x80 } x .held
    u.adminBusy c = false → adminRefused c false (adminBad c.desc 56) 4096 = none →
    ∃ t : State, exec (.identify f d x) s = .next t ∧ Safety.Ends u f 64 d x c.id { status := 0, rlen := 4096 } [(0, u.identity f)] t) ∧
  (∀ (s : State) (f : Nat) (d : Desc) (x : Fetched), s.mayFetch f 64 = true →
    let c := s.ringCtx f 64 { d with opc := 0x83 } x .held
    let u := s.fetchOne f 64 { d with opc := 0x83 } x .held
    u.adminBusy c = false → adminRefused c false (adminBad c.desc 56) 64 = none →
    (s.ksp? d.ksp = none → ∃ t : State, exec (.keyspaceQuery f d x) s = .next t ∧ Safety.Ends u f 64 d x c.id { status := 0x0104 } [] t) ∧
    (∀ k, s.ksp? d.ksp = some k → f ≠ 0 → k.tenant ≠ f →
      ∃ t : State, exec (.keyspaceQuery f d x) s = .next t ∧ Safety.Ends u f 64 d x c.id { status := 0x0400 } [] t) ∧
    (∀ k, s.ksp? d.ksp = some k → (f = 0 ∨ k.tenant = f) →
      ∃ t : State, exec (.keyspaceQuery f d x) s = .next t ∧ Safety.Ends u f 64 d x c.id { status := 0, rlen := 64 } [(0, u.kspRecord k)] t)) ∧
  (∀ (s : State) (f : Nat) (d : Desc) (x : Fetched), s.mayFetch f 64 = true →
    let c := s.ringCtx f 64 { d with opc := 0x85 } x .held
    let u := s.fetchOne f 64 { d with opc := 0x85 } x .held
    u.adminBusy c = false → adminRefused c false (adminBad c.desc 56) 2048 = none →
    ∃ t : State, exec (.getHealth f d x) s = .next t ∧ Safety.Ends u f 64 d x c.id { status := 0, rlen := 2048 } [(0, u.healthPage)] t) ∧
  (∀ (s : State) (f : Nat) (d : Desc) (x : Fetched), s.mayFetch f 64 = true →
    let c := s.ringCtx f 64 { d with opc := 0x89 } x .held
    let u := s.fetchOne f 64 { d with opc := 0x89 } x .held
    u.adminBusy c = false → adminRefused c true (adminBad c.desc 56) 1088 = none →
    ∃ t : State, exec (.updateQuery f d x) s = .next t ∧
      Safety.Ends u f 64 d x c.id { status := 0, rlen := s.upd.head.received.length } [(0, u.updQuery)] t) ∧
  (∀ (s : State) (f : Nat) (d : Desc) (x : Fetched), s.mayFetch f 64 = true →
    let d' : Desc := { d with key40 := padTo 40 (0 :: d.key40.drop 1) }
    let c := s.ringCtx f 64 { d' with opc := 0x8B } x .held
    let u := s.fetchOne f 64 { d' with opc := 0x8B } x .held
    u.adminBusy c = false → adminRefused c true (townBad c.desc) 64 = none →
    ∃ t : State, exec (.townQuery f d x) s = .next t ∧ Safety.Ends u f 64 d x c.id { status := 0, rlen := 64 } [(0, u.townRecord)] t) ∧
  (∀ (s : State) (f : Nat) (d : Desc) (x : Fetched) (b n : Nat) (y : Bytes) (stop : Option (Nat × Nat)), s.mayFetch f 64 = true →
    let c := s.ringCtx f 64 { d with opc := 0x86 } x .held
    let u := s.fetchOne f 64 { d with opc := 0x86 } x .held
    let u' := u.modCtx c.id fun _ => { c with ponr := true, phase := .admin, since := s.clk.cycles }
    let todo := (dumpTypes b (param d 57 1) f).flatMap fun z => u.dumpRanges b z f (param d 60 4) (param d 64 4)
    let need := 64 + (match todo with | [] => 0 | z :: _ => 16 + (u.objSize b z.1 z.2.1 + 15) / 16 * 16)
    u.adminBusy c = false → param d 56 1 = b → b ≤ 0x13 → (param d 57 1 = 0xFF ∨ typeKnown b (param d 57 1) = true) → param d 58 2 = 0 →
    adminRefused c false (adminBad c.desc 68) need = none → (f = 0 ∨ param d 57 1 = 0xFF ∨ typeOwn b (param d 57 1) = true) →
    u'.dumpAll (sglLen (resultSgl d x) / 16 + todo.length) b (sglLen (resultSgl d x) - 64) todo = (y, n, stop) →
    ∃ t : State, exec (.stateDump f d x) s = .next t ∧
      Safety.Ends u f 64 d x c.id { status := if stop.isNone then 0 else 0x0001, rlen := 64 + y.length }
        [(0, packLe 64 [(0, 32, 0x53544450), (32, 8, b), (40, 8, param d 57 1), (48, 1, b2n stop.isNone), (64, 32, n),
          (96, 32, (stop.map fun e => e.1).getD 0), (128, 32, (stop.map fun e => e.2).getD 0), (192, 64, u'.changeSeq b), (256, 64, u'.changeSeq b)] ++ y)] t)

/-- KEYSPACE_CREATE and KEYSPACE_DELETE (R154 to R156). On a part outside a Town a create makes an active keyspace with its tenant, RF, key slot,
salt and creation stamp, or is refused as the table of R155 says; a delete marks the keyspace reclaiming, or answers KEYSPACE_UNKNOWN
or ACCESS_DENIED. On a Town member each goes to the acting Hall, waits for a session to it, or completes with TOWN_FROZEN; at the acting Hall
itself it is published, to the standby first (R407, R377).
Choices of the model: log entries 24, 38. -/
def Obligations.KeyspacesAreCreatedAndDeleted : Prop :=
  (∀ (s : State) (f : Nat) (d : Desc) (x : Fetched), s.mayFetch f 64 = true →
    let c := s.ringCtx f 64 { d with opc := 0x81 } x .held
    let u := s.fetchOne f 64 { d with opc := 0x81 } x .held
    let tenant := param d 56 1
    let rf := param d 57 1
    let created := if s.below2020 then 0 else s.nowUs * 4096
    let bad := adminBad c.desc 80 || decide (param d 59 5 ≠ 0 ∨ rf = 0 ∨ 4 < rf ∨ (1 < rf ∧ s.isMember = false) ∨ 63 < param d 58 1)
    let is := fun (k : Keyspace) (salt : Nat) => k.ksp = d.ksp ∧ k.tenant = tenant ∧ k.rf = rf ∧ k.slot = param d 58 1 ∧ k.salt = salt % 2 ^ 128 ∧
      k.created = created ∧ k.reclaiming = false
    u.adminBusy c = false → adminRefused c false bad 0 = none →
    (f ≠ 0 → tenant ≠ f → ∃ t : State, exec (.keyspaceCreate f d x) s = .next t ∧ t.kv.keyspaces = s.kv.keyspaces ∧ Safety.Ends u f 64 d x c.id { status := 0x0400 } [] t) ∧
    ((f = 0 ∨ tenant = f) → s.isMember = false →
      (s.kspNext d.ksp = none → param d 64 16 ≠ 0 → ∃ (t : State) (k : _), exec (.keyspaceCreate f d x) s = .next t ∧ t.kv.keyspaces = putKsp k s.kv.keyspaces ∧
        is k (param d 64 16) ∧ Safety.Ends u f 64 d x c.id { status := 0, rstamp := created } [] t) ∧
      (s.kspNext d.ksp = none → param d 64 16 = 0 → s.flag .cipDrbgStat_ready = true → ∃ (t : State) (k : _), exec (.keyspaceCreate f d x) s = .next t ∧
        t.kv.keyspaces = putKsp k s.kv.keyspaces ∧ is k (Config.freeValue s.free) ∧ t.free = s.free + 1 ∧
        Safety.Ends u f 64 d x c.id { status := 0, rstamp := created } [] t) ∧
      (s.kspNext d.ksp = none → param d 64 16 = 0 → s.flag .cipDrbgStat_ready = false → ∃ t : State, exec (.keyspaceCreate f d x) s = .next t ∧
        t.kv.keyspaces = s.kv.keyspaces ∧ Safety.Ends u f 64 d x c.id { status := 0x0F00 } [] t) ∧
      (∀ k, s.kspNext d.ksp = some k → ∃ t : State, exec (.keyspaceCreate f d x) s = .next t ∧ t.kv.keyspaces = s.kv.keyspaces ∧
        Safety.Ends u f 64 d x c.id { status := if k.reclaiming then 0x010B else 0x010A } [] t)) ∧
    ((f = 0 ∨ tenant = f) → s.isMember = true →
      (s.frozen = true → ∃ t : State, exec (.keyspaceCreate f d x) s = .next t ∧ t.kv.keyspaces = s.kv.keyspaces ∧ Safety.Ends u f 64 d x c.id { status := 0x0505 } [] t) ∧
      (s.frozen = false → s.acting = false → s.reach s.town.hall = true → ∃ t : State, exec (.keyspaceCreate f d x) s = .next t ∧
        t.out = s.out ++ Safety.sends s [(idOf s.town.hall, { tmsg := 0x10, arg0 := c.id, body := .command f c.desc })] ∧
        ∃ e ∈ t.kv.ctxs, e.id = c.id ∧ e.phase = .admin) ∧
      (s.frozen = false → s.acting = false → s.reach s.town.hall = false → ∃ t : State, exec (.keyspaceCreate f d x) s = .next t ∧ t.out = s.out ∧
        ∃ e ∈ t.kv.ctxs, e.id = c.id ∧ e.phase = .noOwner) ∧
      (Safety.ByStandby s → rf ≤ s.town.live.length → s.kspNext d.ksp = none → param d 64 16 ≠ 0 →
        ∃ (t : State) (k : _) (b : _), exec (.keyspaceCreate f d x) s = .next t ∧ b.keyspaces = [k] ∧ is k (param d 64 16) ∧ Safety.ToStandby s s.out b t))) ∧
  (∀ (s : State) (f : Nat) (d : Desc) (x : Fetched), s.mayFetch f 64 = true →
    let c := s.ringCtx f 64 { d with opc := 0x82 } x .held
    let u := s.fetchOne f 64 { d with opc := 0x82 } x .held
    u.adminBusy c = false → adminRefused c false (adminBad c.desc 56) 0 = none →
    (s.isMember = false →
      (∀ k, s.kspNext d.ksp = some k → k.reclaiming = false → (f = 0 ∨ k.tenant = f) →
        ∃ t : State, exec (.keyspaceDelete f d x) s = .next t ∧ (∀ q, t.ksp? d.ksp = some q → q.reclaiming = true) ∧
          Safety.Ends u f 64 d x c.id { status := 0 } [] t) ∧
      (∀ k, s.kspNext d.ksp = some k → k.reclaiming = false → f ≠ 0 → k.tenant ≠ f →
        ∃ t : State, exec (.keyspaceDelete f d x) s = .next t ∧ t.kv.keyspaces = s.kv.keyspaces ∧ Safety.Ends u f 64 d x c.id { status := 0x0400 } [] t) ∧
      ((∀ k, s.kspNext d.ksp = some k → k.reclaiming = true) →
        ∃ t : State, exec (.keyspaceDelete f d x) s = .next t ∧ t.kv.keyspaces = s.kv.keyspaces ∧ Safety.Ends u f 64 d x c.id { status := 0x0104 } [] t)) ∧
    (s.isMember = true →
      (s.frozen = true → ∃ t : State, exec (.keyspaceDelete f d x) s = .next t ∧ t.kv.keyspaces = s.kv.keyspaces ∧ Safety.Ends u f 64 d x c.id { status := 0x0505 } [] t) ∧
      (s.frozen = false → s.acting = false → s.reach s.town.hall = true → ∃ t : State, exec (.keyspaceDelete f d x) s = .next t ∧
        t.out = s.out ++ Safety.sends s [(idOf s.town.hall, { tmsg := 0x10, arg0 := c.id, body := .command f c.desc })] ∧
        ∃ e ∈ t.kv.ctxs, e.id = c.id ∧ e.phase = .admin) ∧
      (s.frozen = false → s.acting = false → s.reach s.town.hall = false → ∃ t : State, exec (.keyspaceDelete f d x) s = .next t ∧ t.out = s.out ∧
        ∃ e ∈ t.kv.ctxs, e.id = c.id ∧ e.phase = .noOwner) ∧
      (∀ k, Safety.ByStandby s → s.kspNext d.ksp = some k → k.reclaiming = false → (f = 0 ∨ k.tenant = f) →
        ∃ (t : State) (b : _), exec (.keyspaceDelete f d x) s = .next t ∧ b.keyspaces = [{ k with reclaiming := true }] ∧ Safety.ToStandby s s.out b t)))

/-- SET_POWER_STATE (R158 to R160). The state in force completes at once; Slumber is refused while an I/O ring, a staged value or a lease is
open; otherwise the entry begins. It ends when no other command is in flight, within 100 ms of its dispatch, with the target state in force; an
entry to Slumber also needs the Tun and journal drained; 100 ms after its dispatch it is abandoned: Active, and POWER_STATE_BUSY.
Choices of the model: log entries 24, 40. -/
def Obligations.PowerStatesAreEnteredOrAbandoned : Prop :=
  (∀ (s : State) (d : Desc) (x : Fetched), s.mayFetch 0 64 = true →
    let c := s.ringCtx 0 64 { d with opc := 0x84 } x .held
    let u := s.fetchOne 0 64 { d with opc := 0x84 } x .held
    let tgt := param d 56 1
    u.adminBusy c = false → adminRefused c true (adminBad c.desc 57) 0 = none →
    (3 < tgt → ∃ t : State, exec (.setPowerState 0 d x) s = .next t ∧ t.power = s.power ∧ Safety.Ends u 0 64 d x c.id { status := 0x0101 } [] t) ∧
    (tgt ≤ 3 → tgt = s.power.pstate →
      ∃ t : State, exec (.setPowerState 0 d x) s = .next t ∧ t.power = s.power ∧ Safety.Ends u 0 64 d x c.id { status := 0, rlen := tgt } [] t) ∧
    (tgt = 3 → s.power.pstate ≠ 3 → u.slumberBusy = true →
      ∃ t : State, exec (.setPowerState 0 d x) s = .next t ∧ t.power = s.power ∧ Safety.Ends u 0 64 d x c.id { status := 0x010C } [] t) ∧
    (tgt ≤ 3 → tgt ≠ s.power.pstate → (tgt = 3 → u.slumberBusy = false) →
      ∃ t : State, exec (.setPowerState 0 d x) s = .next t ∧ t.power = { s.power with entry := some (tgt, s.clk.cycles, c.id) } ∧
        ∃ e ∈ t.kv.ctxs, e.id = c.id ∧ e.phase = .admin ∧ e.ponr = true)) ∧
  (∀ (s : State) (tgt since f id : Nat) (c : OpCtx), s.power.entry = some (tgt, since, id) → s.kv.ctx? id = some c → s.serving = true →
    (∀ e ∈ s.kv.ctxs, e.id = id ∨ e.pool = .town ∨ e.pool = .queue) → tgt < 3 → s.clk.cycles < since + 100 * 600000 →
    c.src = .ring f 64 → c.orphan = false →
    ∃ t : State, exec .powerEntryDone s = .next t ∧ t.power = { s.power with pstate := tgt, entry := none } ∧ (∀ e ∈ t.kv.ctxs, e.id ≠ id) ∧
      .memWrite (s.rg f 64 .hqCqBase_addr * 4096 + 32 * s.rg f 64 .hqRingStat_cqTail)
        (cqEntry c.desc.tag 0 tgt 0 0 c.gen (s.ring f 64).phase (s.rg f 64 .hqRingStat_sqHead)) false ∈ t.out) ∧
  (∀ (s : State) (since id : Nat) (c : OpCtx), s.power.entry = some (3, since, id) → s.kv.ctx? id = some c → s.serving = true →
    (∀ e ∈ s.kv.ctxs, e.id = id ∨ e.pool = .town ∨ e.pool = .queue) → s.clk.cycles < since + 100 * 600000 →
    ((s.tun.entries ≠ [] ∨ s.index.journal ≠ []) → ∃ t : State, exec .powerEntryDone s = .next t ∧ t.power = s.power ∧ t.kv = s.kv ∧ t.out = s.out) ∧
    (s.tun.entries = [] → s.index.journal = [] →
      ∃ t : State, exec .powerEntryDone s = .next t ∧ t.power.pstate = 3 ∧ t.power.entry = none ∧ t.host.linkUp = false ∧ t.cip.keys = [] ∧
        ∀ p ∈ t.net.ports, p.link = false ∧ p.up = false)) ∧
  (∀ (s : State) (tgt since f id : Nat) (c : OpCtx), s.power.entry = some (tgt, since, id) → s.kv.ctx? id = some c → s.serving = true →
    c.src = .ring f 64 → c.orphan = false →
    ∃ t : State, exec .powerEntryAbandon s = .next t ∧ t.power = { s.power with pstate := 0, entry := none } ∧
      t.clk.cycles = max s.clk.cycles (since + 100 * 600000) ∧ (∀ e ∈ t.kv.ctxs, e.id ≠ id) ∧
      .memWrite (s.rg f 64 .hqCqBase_addr * 4096 + 32 * s.rg f 64 .hqRingStat_cqTail)
        (cqEntry c.desc.tag 0x010C 0 0 0 c.gen (s.ring f 64).phase (s.rg f 64 .hqRingStat_sqHead)) false ∈ t.out)

/-- UPDATE_CHUNK, UPDATE_CONFIRM, LEDGER_SET and EVENT_CLEAR (R655 to R657, R664, R566, R684 to R686). A piece of the Cask's package, or the first
of a new one, is programmed and counted, a piece already there is only counted, and one of another package is refused; a confirmed trial gets
the CONFIRMED marker on its bank and SUPERSEDED on the other and empties the Cask; ledger settings are taken as one change or not at all; a clear that its checks allow begins, and its end writes LOG_CLEARED as record 0.
Choices of the model: log entries 24, 69, 70. -/
def Obligations.UpdateLedgerAndEventCommandsOfTheHost : Prop :=
  (∀ (s : State) (d : Desc) (x : Fetched) (copies : List Bool), s.mayFetch 0 64 = true →
    let c := s.ringCtx 0 64 { d with opc := 0x88 } x .held
    let u := s.fetchOne 0 64 { d with opc := 0x88 } x .held
    let i := (pieceParams d.key40).1
    let again := (pieceParams d.key40).2.1
    let len := (pieceParams d.key40).2.2.1
    let id := (pieceParams d.key40).2.2.2
    let h := s.upd.head
    let same := again = false ∧ h.state ≠ 0 ∧ h.pkgLen = len ∧ h.pkgId = id
    let ends := fun (st n : Nat) (t : State) => Safety.Ends u 0 64 d x c.id { status := st, rlen := n } [] t
    u.adminBusy c = false → adminRefused c true (adminBad c.desc 96 || pieceBad d.key40 d.vlen) 0 = none →
    (s.caskCopies = 0 → ∃ t : State, exec (.updateChunk 0 d x copies) s = .next t ∧ t.upd = s.upd ∧ ends 0x0607 h.received.length t) ∧
    (s.caskCopies ≠ 0 → (again = true ∧ s.upd.trial.isSome = true ∨ again = false ∧ h.state ≠ 0 ∧ (h.pkgLen ≠ len ∨ h.pkgId ≠ id)) →
      ∃ t : State, exec (.updateChunk 0 d x copies) s = .next t ∧ t.upd = s.upd ∧ ends 0x0606 h.received.length t) ∧
    (s.caskCopies ≠ 0 → same → i ∈ h.received → ∃ t : State, exec (.updateChunk 0 d x copies) s = .next t ∧ t.upd = s.upd ∧ ends 0 h.received.length t) ∧
    (s.caskCopies ≠ 0 → same → i ∉ h.received → (∀ b ∈ copies.take s.caskCopies, b = false) →
      ∃ t : State, exec (.updateChunk 0 d x copies) s = .next t ∧ t.upd = s.upd ∧ ends 0x0F00 h.received.length t) ∧
    (s.caskCopies ≠ 0 → same → i ∉ h.received → true ∈ copies.take s.caskCopies →
      ∃ t : State, exec (.updateChunk 0 d x copies) s = .next t ∧ t.upd.pieces = s.upd.pieces ++ [(i, x.value.take d.vlen)] ∧
        (∀ k, k ∈ t.upd.head.received ↔ k = i ∨ k ∈ h.received) ∧ t.upd.head.pkgLen = len ∧ t.upd.head.pkgId = id ∧
        t.upd.head.state = (if h.received.length + 1 = pieceCount len then 2 else h.state) ∧ t.upd.trial = s.upd.trial ∧ ends 0 (h.received.length + 1) t) ∧
    (s.caskCopies ≠ 0 → (again = true ∧ s.upd.trial = none ∨ again = false ∧ h.state = 0) → true ∈ copies.take s.caskCopies →
      ∃ t : State, exec (.updateChunk 0 d x copies) s = .next t ∧ t.upd.pieces = [(i, x.value.take d.vlen)] ∧ t.upd.head.received = [i] ∧
        t.upd.head.pkgLen = len ∧ t.upd.head.pkgId = id ∧ t.upd.head.state = (if pieceCount len = 1 then 2 else 1) ∧ t.upd.trial = s.upd.trial ∧ ends 0 1 t)) ∧
  (∀ (s : State) (d : Desc) (x : Fetched), s.mayFetch 0 64 = true →
    let c := s.ringCtx 0 64 { d with opc := 0x8A } x .held
    let u := s.fetchOne 0 64 { d with opc := 0x8A } x .held
    let bank := s.fget .cflStat_bootBank
    u.adminBusy c = false → adminRefused c true (adminBad c.desc 56) 0 = none →
    (s.upd.trial = none →
      ∃ t : State, exec (.updateConfirm 0 d x) s = .next t ∧ t.upd = s.upd ∧ t.cfl = s.cfl ∧ Safety.Ends u 0 64 d x c.id { status := 0, rlen := 0 } [] t) ∧
    (s.upd.trial.isSome = true → s.optWp 128 bank 0 = true → (s.mark bank 2).optWp 128 (1 - bank) 0 = true →
      ∃ t : State, exec (.updateConfirm 0 d x) s = .next t ∧ t.cfl = ((s.mark bank 2).mark (1 - bank) 4).cfl ∧ t.upd.trial = none ∧
        t.upd.head.state = 0 ∧ t.upd.head.received = [] ∧ t.upd.pieces = [] ∧ Safety.Ends u 0 64 d x c.id { status := 0, rlen := 1 } [] t) ∧
    (s.upd.trial.isSome = true → s.optWp 128 bank 0 = false →
      ∃ t : State, exec (.updateConfirm 0 d x) s = .next t ∧ t.cfl = s.cfl ∧ t.upd = s.upd ∧ Safety.Ends u 0 64 d x c.id { status := stWpViolation } [] t)) ∧
  (∀ (s : State) (d : Desc) (x : Fetched), s.mayFetch 0 64 = true →
    let c := s.ringCtx 0 64 { d with opc := 0x8C } x .held
    let u := s.fetchOne 0 64 { d with opc := 0x8C } x .held
    let item := param d 56 1
    let g := param d 57 1
    let v := x.value.take d.vlen
    u.adminBusy c = false → item ≤ 2 → g ≤ 7 → (item < 2 → g = 0) → d.vlen = ledItemLen item → adminRefused c true (adminBad c.desc 58) 0 = none →
    (u.ledApply item g v = none →
      ∃ t : State, exec (.ledgerSet 0 d x) s = .next t ∧ t.led = s.led ∧ (∀ r : RegKey, r.name ∈ ledRegs → t.reg r = s.reg r) ∧
        Safety.Ends u 0 64 d x c.id { status := 0x0101 } [] t) ∧
    ((u.ledApply item g v).isSome = true →
      ∃ t : State, exec (.ledgerSet 0 d x) s = .next t ∧ t.led = s.led ∧ Safety.Ends u 0 64 d x c.id { status := 0 } [] t ∧
        (item = 0 → t.reg ⟨.ledCap, 0, 0, 0⟩ = fieldAt v 0 8 ∧ t.reg ⟨.ledLimit, 0, 0, 0⟩ = fieldAt v 8 8) ∧
        (item = 1 → ∀ k < 8, t.reg ⟨.ledCost, k, 0, 0⟩ = fieldAt v (8 * k) 8) ∧
        (item = 2 → t.reg ⟨.ledGrpCtrl, g, 0, 0⟩ = fieldAt v 0 4 ∧ ∀ k < 8, t.reg ⟨.ledCurve, g, k, 0⟩ = fieldAt v (4 + 4 * k) 4) ∧
        ∀ r : RegKey, r.name ∈ ledRegs → r ∉ (ledImage item g v).map (fun q => q.1) → t.reg r = s.reg r) ∧
    (u.ledApply item g v = none ↔
      let y := (ledImage item g v).foldl (fun y q => y.setReg q.1 q.2.1) u
      (∃ q ∈ ledImage item g v, 2 ^ q.2.2 ≤ q.2.1) ∨ y.ledOversized = true ∨
        (item = 2 ∧ (y.groupInRange g = false ∨ y.curveRises g = false ∨ y.degrees .ledGrpCtrl_tripC g ≤ y.degrees .ledGrpCtrl_warnC g)))) ∧
  (∀ (s : State) (d : Desc) (x : Fetched), s.mayFetch 0 64 = true →
    let c := s.ringCtx 0 64 { d with opc := 0x8D } x .held
    let u := s.fetchOne 0 64 { d with opc := 0x8D } x .held
    u.adminBusy c = false → d.vlen = 192 → adminRefused c true (adminBad c.desc 60) 0 = none →
    (∀ st, s.clearRefused s.nonceNow (x.value.take 192) (param d 56 4) = some st →
      ∃ t : State, exec (.eventClear 0 d x) s = .next t ∧ t.ev.log = s.ev.log ∧ t.ev.nonce = none ∧ Safety.Ends u 0 64 d x c.id { status := st } [] t) ∧
    (s.clearRefused s.nonceNow (x.value.take 192) (param d 56 4) = none →
      ∃ (t : State) (r : _), exec (.eventClear 0 d x) s = .next t ∧ t.ev.clearing = some r ∧ r.ctx = c.id ∧ r.records = s.ev.log.length ∧ t.ev.log = [] ∧
        t.ev.nonce = none ∧ t.ev.full = false)) ∧
  (∀ (s : State) (r : ClearRun) (c : OpCtx) (f : Nat), s.ev.clearing = some r → s.alive = true → s.power.pstate ≠ 3 → s.kv.ctx? r.ctx = some c →
    c.src = .ring f 64 → c.orphan = false →
    ∃ (t : State) (e : _) (l : _), exec .logEraseDone s = .next t ∧ t.ev.log = e :: l ∧ e.kind = .logCleared ∧ e.key = r.keyId ∧ e.data = r.records + s.ev.lost * 2 ^ 32 ∧
      s.ev.log.length ≤ l.length ∧ (s.cfl.waiting = [] → t.ev.lost = 0) ∧ t.ev.clearing = none ∧ (∀ y ∈ t.kv.ctxs, y.id ≠ r.ctx) ∧
      .memWrite (s.rg f 64 .hqCqBase_addr * 4096 + 32 * s.rg f 64 .hqRingStat_cqTail)
        (cqEntry c.desc.tag 0 r.records 0 0 c.gen (s.ring f 64).phase (s.rg f 64 .hqRingStat_sqHead)) false ∈ t.out)

/-! ### The index, the AD and the Tun -/

/-- Dirty leaves are written back (R189, R191, R159): at once on their changes, on journal or cache occupancy or on the way into Slumber, else
when the oldest change is WB_AGE_MS old; the write takes the leaf's entries, the next sequence number and the journal's mark. A rebuilt leaf
stands dirty in the cache, and an event says so (R192). A checkpoint of the map raises both floors (R308, R79, R442).
Choices of the model: log entries 4, 28, 138. -/
def Obligations.LeavesAreWrittenBackAndRebuilt : Prop :=
  (∀ (s : State) (w p dep a : Nat) (l : Leaf) (v : State), s.index.leafAt w p dep = some l → s.mediaOn = true → l.dirty = true → l.writing = 0 →
    let urgent := s.power.entry.any (fun e => e.1 == 3) = true ∨ s.fget .kveIdxCtrl_wbChanges ≤ l.changes ∨
      s.journalOver (s.fget .kveIdxCtrl_wbUrgentPct) = true ∨ s.fget .kveIdxCtrl_wbUrgentPct ≤ s.index.dirtyPct
    let u := if urgent then s else s.waitCycle (l.oldest + s.fget .kveIdxCtrl_wbAgeMs * 600000)
    u.mergeLeaf l = (l, u) →
    u.store .index { addr := 0, kind := .leaf, wseq := 0, units := 256 * (1 + (l.entries.length - 1) / 96), ward := l.ward, ldepth := l.ldepth, pfx := l.pfx } true u.leafRank = some (a, v) →
    (urgent ∨ s.clk.cycles ≤ l.oldest + s.fget .kveIdxCtrl_wbAgeMs * 600000) →
    ∃ t : State, exec (.leafWriteBack w p dep) s = .next t ∧ t.index.leafSeq = s.index.leafSeq + 1 ∧
      t.clk.cycles = (if urgent then s.clk.cycles else l.oldest + s.fget .kveIdxCtrl_wbAgeMs * 600000) ∧
      (∃ y ∈ t.index.leaves, y.ward = w ∧ y.pfx = p ∧ y.ldepth = dep ∧ y.writing = a ∧ y.seq = s.index.leafSeq + 1 ∧ y.storing = l.entries ∧
        y.mark = s.index.jseq ∧ y.changes = 0) ∧
      ∃ i ∈ t.media.items, i.kind = .leaf ∧ i.addr = a ∧ i.ward = w ∧ i.pfx = p ∧ i.ldepth = dep) ∧
  (∀ (s : State) (w p dep : Nat) (l : Leaf), s.index.leafAt w p dep = some l → s.serving = true → l.rebuild = true →
    ∃ t : State, exec (.leafRebuildDone w p dep) s = .next t ∧
      t.index.leaves = updWhere (fun y => y.ward == w && y.pfx == p && y.ldepth == dep)
        (fun y => leafChanged s.clk.cycles { y with rebuild := false }) s.index.leaves ∧
      t.ev = (s.report .leafRebuildEnd l.addr).ev) ∧
  (∀ (now : Nat) (l : Leaf), (leafChanged now l).dirty = true ∧ (leafChanged now l).cached = true ∧ (leafChanged now l).changes = l.changes + 1 ∧
    (leafChanged now l).oldest = (if l.changes = 0 then now else l.oldest) ∧ (leafChanged now l).entries = l.entries) ∧
  (∀ s : State, s.ready = true → s.hasFlash = true → s.power.pstate ≠ 3 →
    ∃ t : State, exec .mediaMapCheckpoint s = .next t ∧ t.media.handleFloor = (s.kv.handle + 1048576) % 2 ^ 32 ∧
      t.media.stampFloor = max s.media.stampFloor (if s.kv.lastU = 0 then 1 else s.kv.lastU + 120000000) ∧ t.media.checkpointAt = s.clk.cycles ∧
      t.media.items = s.media.items ∧ t.media.sets = s.media.sets ∧ t.media.blocks = s.media.blocks)

/-- The AD scrub and the drain (R198, R199, R211, R212, R156). A scrub pass ends at the next multiple of SCRUB_MS; a row with a parity error counts
and is reported, and an entry whose CHECK fails is marked unusable. An entry may drain once its replicas have acknowledged, its batch is
resolved, and every earlier entry of its key has drained, is a PUT that a later PUT makes needless, or cannot be used; in its turn (R259) it is
then written to flash as a record of its key, stamp and origin. An entry of a keyspace that is gone is released without drain.
Choices of the model: log entries 4, 39, 137, 163, 165. -/
def Obligations.RowsAreScrubbedAndEntriesDrain : Prop :=
  (∀ s : State, s.serving = true → s.flag .adCtrl_scrubEn = true → 0 < s.fget .adCtrl_scrubMs →
    ∃ t : State, exec (.adScrub []) s = .next t ∧ t.tun = s.tun ∧ t.ev = s.ev ∧
      t.clk.cycles = (s.clk.cycles / (s.fget .adCtrl_scrubMs * 600000) + 1) * (s.fget .adCtrl_scrubMs * 600000) ∧
      t.fget .adErr_parityErrs = s.fget .adErr_parityErrs) ∧
  (∀ (s : State) (bad : List (Nat × Bool)), s.serving = true →
    let p := if s.flag .adCtrl_scrubEn then s.fget .adCtrl_scrubMs * 600000 else 0
    ∃ t : State, exec (.adScrub bad) s = .next t ∧ t.tun.rows = s.tun.rows ∧ t.clk.cycles = (if p = 0 then s.clk.cycles else (s.clk.cycles / p + 1) * p) ∧
      t.fget .adErr_parityErrs = satAdd Fld.adErr_parityErrs.w (s.fget .adErr_parityErrs)
        (bad.filter fun b => s.tun.rows.any fun r => r.row == b.1).length ∧
      ∀ e ∈ s.tun.entries, (∃ b ∈ bad, b.2 = false ∧ (s.tun.rows.find? fun r => r.row == b.1).map (fun r => r.entry) = some e.id) →
        { e with good := false } ∈ t.tun.entries) ∧
  (∀ (s : State) (row : Nat) (good : Bool) (r : AdRow), s.serving = true → s.flag .adCtrl_scrubEn = true → s.tun.rows.find? (fun r => r.row == row) = some r →
    ∃ t : State, exec (.adScrub [(row, good)]) s = .next t ∧ t.tun.rows = s.tun.rows ∧
      t.fget .adErr_parityErrs = satAdd Fld.adErr_parityErrs.w (s.fget .adErr_parityErrs) 1 ∧
      t.tun.entries = (if good then s.tun.entries else updWhere (fun e => e.id == r.entry) (fun e => { e with good := false }) s.tun.entries)) ∧
  (∀ (s : State) (id : Nat) (e : TunEntry), s.tun.entry? id = some e → s.mediaOn = true →
    (s.kspGone e.ksp = true → e.kind ≠ .batchRecord → e.refs = 0 →
      ∃ t : State, exec (.tunDrain id) s = .next t ∧ (∀ y ∈ t.tun.entries, y.id ≠ id) ∧ ∀ r ∈ t.tun.rows, r.entry ≠ id) ∧
    (s.kspGone e.ksp = false → s.drainable e = true → s.drainTurn e = true → ∀ w, (s.countRead (s.readVer e.ksp e.key e.stamp)).drainEntry e = some w →
      exec (.tunDrain id) s = .next (settle s (s.within (dataParts ++ [Part.town]) (countRegs ++ ringRegs ++ [RegName.adErr, RegName.adStat, RegName.kveIdxStat]) w.progress)) ∧
      ∃ i ∈ w.media.items, i.ksp = e.ksp ∧ i.key = e.key ∧ i.stamp = e.stamp ∧ i.origin = e.origin ∧ (i.kind = .tombstone ↔ e.kind = .tombstone) ∧
        ∃ y ∈ w.tun.entries, y.id = id ∧ y.recAddr = i.addr) ∧
    (s.kspGone e.ksp = false → s.drainable e = false ∨ s.drainTurn e = false →
      ∃ t : State, exec (.tunDrain id) s = .next t ∧ t.tun = s.tun ∧ t.media = s.media ∧ t.index = s.index)) ∧
  (∀ (s : State) (e : TunEntry), s.drainable e = true → e.state = .live ∧ e.recAddr = 0 ∧ e.good = true ∧ e.replAck = true ∧
    (∀ x ∈ s.tun.entries, x.ksp = e.ksp → x.key = e.key → x.ord < e.ord → x.kind = .batchRecord ∨ x.state = .drained ∨
      (x.good = false ∧ e.kind ≠ .patch ∧ x.replAck = true ∧ x.refs = 0) ∨
      (e.kind = .put ∧ x.kind = .put ∧ x.refs = 0 ∧ s.tooOld (e.stamp - 1) = true ∧ ∀ l ∈ s.kv.leases, l.stamp < x.stamp ∨ e.stamp ≤ l.stamp)) ∧
    (e.batch = 0 ∨ ∃ r, s.tun.record? e.batch = some r ∧ r.resolved = true) ∧
    (∀ l, s.index.leaf? e.digest = some l → l.rebuild = false) ∧ ∃ k, s.ksp? e.ksp = some k ∧ k.reclaiming = false ∧ s.slotLoaded k.tenant k.slot = true) ∧
  (∀ (s : State) (e : TunEntry) (a : Nat) (w : State), e.kind = .tombstone → s.undrained e = [] → e.upTo = 0 → s.flashEntry e.ksp e.key = none →
    s.store .user { addr := 0, kind := .tombstone, wseq := 0, units := recordUnits e.key.length 0, ksp := e.ksp, key := e.key, stamp := e.stamp, origin := e.origin,
                    vlen := 0, pred := 0, predStamp := 0 } false s.drainRank true = some (a, w) →
    s.drainEntry e = some (w.modEntry e.id fun x => { x with recAddr := a })) ∧
  (∀ (s : State) (e : TunEntry) (a : Nat) (w : State), e.kind ≠ .tombstone → e.kind ≠ .publish → e.vlen ≤ 1048576 → s.undrained e = [] → e.upTo = 0 → s.flashEntry e.ksp e.key = none →
    s.store .user { addr := 0, kind := .value, wseq := 0, units := recordUnits e.key.length e.vlen, ksp := e.ksp, key := e.key, stamp := e.stamp, origin := e.origin,
                    vlen := e.vlen, pred := 0, predStamp := 0, data := (s.readVer e.ksp e.key e.stamp).data } false s.drainRank (!e.late) = some (a, w) →
    s.drainEntry e = some (w.modEntry e.id fun x => { x with recAddr := a }))

/-! ### Media -/

/-- The read ladder (R263, R264). A first attempt that fails goes to the tables, from the one that last succeeded; after the tables come soft
decoding, where SOFT_EN allows it, and the rebuild from parity, which a VERIFIED set, a raw read and a read that a rebuild made do not have; a
codeword that nothing recovers ends at step 5. NAND_READ_DONE takes the step, where ADDR and CHECK hold (R242); a rebuild reads the codeword's
place in the other pages of the Terrace and in its parity page; and the end of a ladder counts in the health page. A raw read of MODE 0 that
decodes writes the codeword and its metadata (R270), poisoned where its buffer was found uncorrectable (R776); one of MODE 1 or of an erased page
writes the bytes as read (R268).
Choices of the model: log entries 26, 122, 157. -/
def Obligations.ReadsGoDownTheLadder : Prop :=
  (∀ (s : State) (o : NandOp) (decoded : Bool) (unsat : Nat),
    (o.step = 1 → s.ladder o decoded unsat = if decoded then .ended 1 0 else .again 2 []) ∧
    (o.step = 2 → decoded = true → s.ladder o decoded unsat = .ended 2 (s.tableAt o)) ∧
    (o.step = 2 → decoded = false → o.tried.length + 1 < s.fget .medNandCfg_rrTables →
      s.ladder o decoded unsat = .again 2 (o.tried ++ [(s.tableAt o, unsat)])) ∧
    (o.step = 2 → decoded = false → s.fget .medNandCfg_rrTables ≤ o.tried.length + 1 → s.ladder o decoded unsat =
      if s.flag .medNandCfg_softEn then .again 3 (o.tried ++ [(s.tableAt o, unsat)])
      else if s.mayRebuild o then .again 4 (o.tried ++ [(s.tableAt o, unsat)]) else .ended 5 0) ∧
    (o.step = 3 → s.ladder o decoded unsat = if decoded then .ended 3 (bestTable o.tried)
      else if s.mayRebuild o then .again 4 o.tried else .ended 5 0) ∧
    (o.step = 4 → s.ladder o decoded unsat = if decoded then .ended 4 0 else .ended 5 0) ∧
    (s.mayRebuild o = true ↔ s.media.verifiedAt o.addr = false ∧ o.why ≠ .raw ∧ ∀ p, o.why ≠ .rebuild p)) ∧
  (∀ (s : State) (id corrected unsat step : Nat) (tried : List (Nat × Nat)) (decoded : Bool) (raw : Bytes) (o : NandOp), s.running id .read = some o →
    (o.why = .raw → s.media.raw.mode = false ∧ ∃ b ∈ s.readBytes o raw, b ≠ 255#8) →
    s.ladder o (decoded && (raw.isEmpty || s.cwValid o.addr raw)) unsat = .again step tried →
    (step ≠ 4 → ∃ t : State, exec (.nandReadDone id decoded corrected unsat raw) s = .next t ∧ t.media.health = s.media.health ∧ t.kv = s.kv ∧
      t.media.ops = updWhere (fun x => x.id == id) (fun x =>
        { x with step := step, tried := tried, issued := false, order := if x.order.isEmpty then s.tablesNow x else x.order }) s.media.ops) ∧
    (step = 4 →
      let u : State := { s with media := { s.media with ops := updWhere (fun x => x.id == id) (fun x => { x with step := 4, issued := false }) s.media.ops } }
      ∀ l, u.rebuildFrom o.addr = some l → l ≠ [] →
        ∃ t : State, exec (.nandReadDone id decoded corrected unsat raw) s = .next t ∧ t.media.health = s.media.health ∧ t.kv = s.kv ∧
          t.media.ops.take s.media.ops.length = u.media.ops ∧ t.media.ops.length = s.media.ops.length + l.length ∧
          ∀ a ∈ l, ∃ x ∈ t.media.ops, x.kind = .read ∧ x.addr = a ∧ x.why = .rebuild id ∧ x.rank = o.rank ∧ x.step = 1)) ∧
  (∀ (s : State) (a step table corrected : Nat), (s.ladderEnd a step table corrected).media.health =
    if step = 1 then (if corrected = 0 then s.media.health else { s.media.health with corrected := satAdd 64 s.media.health.corrected 1 })
    else if step = 2 then { s.media.health with retried := satAdd 64 s.media.health.retried 1 }
    else if step = 5 then { s.media.health with unrecoverable := satAdd 64 s.media.health.unrecoverable 1 }
    else { s.media.health with softDecoded := satAdd 64 s.media.health.softDecoded 1 }) ∧
  (∀ (s : State) (id corrected unsat step table : Nat) (decoded : Bool) (raw : Bytes) (o : NandOp), s.running id .read = some o → o.why = .raw →
    s.media.raw.mode = false → (∃ b ∈ s.readBytes o raw, b ≠ 255#8) →
    s.ladder o (decoded && (raw.isEmpty || s.cwValid o.addr raw)) unsat = .ended step table → step ≠ 5 →
    ∃ t : State, exec (.nandReadDone id decoded corrected unsat raw) s = .next t ∧ t.fget .medRawStat_busy = 0 ∧ t.fget .medRawStat_erased = 0 ∧
      t.fget .medRawStat_status = (if s.media.rawPoison ∧ s.media.raw.cut = false then 0x0F00 else 0) ∧
      t.fget .medRawStat_step = step ∧ t.fget .medRawStat_corrected = min corrected 65535 ∧ (∀ x ∈ t.media.ops, x.id ≠ id) ∧
      t.out = s.out ++ (if s.media.raw.cut then []
        else [Output.memWrite s.media.raw.dest (padTo 4128 ((s.readBytes o raw).take 4128)) s.media.rawPoison])) ∧
  (∀ (s : State) (id corrected unsat : Nat) (decoded : Bool) (raw : Bytes) (o : NandOp), s.running id .read = some o → o.why = .raw →
    let bytes := s.readBytes o raw
    let data := bytes.take (if s.media.raw.mode then s.media.geom.cwBytes else 4128)
    data ≠ [] → (s.media.raw.mode = true ∨ ∀ b ∈ bytes, b = 255#8) →
    ∃ t : State, exec (.nandReadDone id decoded corrected unsat raw) s = .next t ∧ t.fget .medRawStat_busy = 0 ∧
      t.fget .medRawStat_erased = (if bytes.all (fun b => decide (b = 255#8)) then 1 else 0) ∧
      t.fget .medRawStat_status = (if s.media.rawPoison ∧ s.media.raw.cut = false then 0x0F00 else 0) ∧
      t.fget .medRawStat_step = (if s.media.raw.mode then 0 else 1) ∧ t.media.health = s.media.health ∧ (∀ x ∈ t.media.ops, x.id ≠ id) ∧
      t.out = s.out ++ (if s.media.raw.cut then [] else [Output.memWrite s.media.raw.dest data s.media.rawPoison])) ∧
  (∀ (s : State) (mode : Nat), s.ready = true → mode < 2 → s.flag .medRawStat_busy = false →
    let a := s.fget .medRawAddr_addr / 256 * 256
    let latched : RawRead := { mode := decide (mode = 1), dest := s.fget .medRawDest_addr * 16 }
    let suspended := (∃ o ∈ s.media.ops, o.kind = .erase ∧ o.issued = true ∧ addrLun o.addr = addrLun a ∧ addrBlk o.addr = addrBlk a) ∧
      ∃ l, s.media.lun? (addrLun a) = some l ∧ l.suspended = true
    (s.rawAddrOk a = false → ∃ t : State, exec (.rawReadGo mode) s = .next t ∧ t.fget .medRawStat_status = 0x0101 ∧ t.fget .medRawStat_busy = 0 ∧
      t.fget .medRawStat_erased = 0 ∧ t.fget .medRawStat_step = 0 ∧ t.out = s.out ∧ t.media = { s.media with raw := latched }) ∧
    (s.rawAddrOk a = true → suspended → ∃ t : State, exec (.rawReadGo mode) s = .next t ∧ t.fget .medRawStat_status = 0x0303 ∧ t.fget .medRawStat_busy = 0 ∧
      t.out = s.out ∧ t.media = { s.media with raw := latched }) ∧
    (s.rawAddrOk a = true → ¬suspended →
      ∃ (t : State) (o : _), exec (.rawReadGo mode) s = .next t ∧ t.fget .medRawStat_busy = 1 ∧ t.fget .medRawCtrl_mode = mode ∧
        t.media.raw = latched ∧ t.media.ops = s.media.ops ++ [o] ∧ o.kind = .read ∧ o.addr = a ∧ o.why = .raw ∧ o.cls = 0 ∧ o.rank = 4))

/-- Programs, erases and LUNs (R251, R297, R298, R300, R266, R238). A passed page or parity page is noted in its set; a failed one counts and
is reported, and a failed parity page goes to another scratch block of its LUN; a passed erase frees its block, a failed one retires it; the
third timeout in a row fails the LUN, as does the fourth different block in a row with a failure, and before it its operations are issued again;
a suspended erase goes on after BURST reads; the release of a FOREIGN LUN erases its blocks one after the other, and the end of the last erase
formats it. Where exec answers `ProgramEnd` or `EraseEnd` of a state, the clauses say what the end itself left, and `progress` follows.
Choices of the model: log entries 25, 31, 157. -/
def Obligations.ProgramsErasesAndLunsEnd : Prop :=
  (∀ (s : State) (id w k : Nat) (o : NandOp), s.running id .program = some o → o.why = .parity w k →
    exec (.nandProgramDone id true) s = .next (Safety.ProgramEnd s
      ((((s.lunAnswered (addrLun o.addr)).dropOp id).modLun (addrLun o.addr) fun l => { l with failBlks := [] }).modSet w
        fun t => { t with parity := t.parity ++ [k] }))) ∧
  (∀ (s : State) (id w p : Nat) (o : NandOp), s.running id .program = some o → o.why = .page w p →
    exec (.nandProgramDone id true) s = .next (Safety.ProgramEnd s
      ((((s.lunAnswered (addrLun o.addr)).dropOp id).modLun (addrLun o.addr) fun l => { l with failBlks := [] }).pagePassed w p o.rank))) ∧
  (∀ (s : State) (id w k : Nat) (o : NandOp) (l : Lun), s.running id .program = some o → o.why = .parity w k → s.media.lun? (addrLun o.addr) = some l →
    l.failBlks.length < 3 →
    ∃ v : State, exec (.nandProgramDone id false) s = .next (Safety.ProgramEnd s v) ∧
      v.media.health.programFails = satAdd 32 s.media.health.programFails 1 ∧
      (v.media.lun? (addrLun o.addr)).map (fun l => l.failBlks) =
        some (if l.failBlks.contains (addrBlk o.addr) then l.failBlks else l.failBlks ++ [addrBlk o.addr]) ∧
      (v.media.block? (addrLun o.addr) (addrBlk o.addr)).map (fun b => b.state) = some .retired ∧
      (∀ b ∈ v.media.scratch, ¬(b.lun = addrLun o.addr ∧ b.blk = addrBlk o.addr)) ∧
      ∀ q, s.media.set? w = some q → k ∉ q.parity → (∀ x ∈ s.media.ops, x.id ≠ id → x.why ≠ .parity w k) →
        (∃ b ∈ s.media.scratch, b.lun = q.parityLun ∧ b.used < s.media.geom.pages ∧ ¬(b.lun = addrLun o.addr ∧ b.blk = addrBlk o.addr)) →
        ∃ x ∈ v.media.ops, ∃ blk page, x.kind = .program ∧ x.why = .parity w k ∧ x.addr = mkAddr q.parityLun blk page 0 0 ∧
          ¬(q.parityLun = addrLun o.addr ∧ blk = addrBlk o.addr)) ∧
  (∀ (s : State) (id : Nat) (o : NandOp) (l : Lun) (b : Block), s.running id .erase = some o → s.media.lun? (addrLun o.addr) = some l → l.suspended = false →
    s.media.block? (addrLun o.addr) (addrBlk o.addr) = some b →
    let n := addrLun o.addr
    let scratch := ∃ x ∈ s.media.scratch, x.lun = n ∧ x.blk = addrBlk o.addr
    let running := (s.media.ops.find? fun x => x.id != id && decide (x.kind = .erase) && x.issued && addrLun x.addr == n).map fun x => addrBlk x.addr
    let releases := fun (v : State) => ∀ k, l.releaseAt = some k →
      (k + 1 < s.media.geom.blocks → (v.media.lun? n).map (fun l => l.releaseAt) = some (some (k + 1)) ∧
        ∃ x ∈ v.media.ops, x.kind = .erase ∧ x.addr = mkAddr n (k + 1) 0 0 0) ∧
      (s.media.geom.blocks ≤ k + 1 → (v.media.lun? n).map (fun l => (l.state, l.label, l.releaseAt)) =
        some (.accepted, some ⟨s.ident.serial, Config.formatGen, n⟩, none))
    (∃ v : State, exec (.nandEraseDone id true) s = .next (Safety.EraseEnd s v) ∧
      (v.media.lun? n).map (fun l => (l.erase, l.failBlks, l.suspended)) = some (running, [], false) ∧
      (¬scratch → l.releaseAt = none →
        v.media.block? n (addrBlk o.addr) = some { b with state := .free, erases := b.erases + 1, wseq := 0, summary := 0 }) ∧
      (scratch → l.releaseAt = none → ∃ x, v.media.block? n (addrBlk o.addr) = some x ∧ x.erases = b.erases + 1 ∧ (x.state = .system ∨ x.state = .free)) ∧
      releases v) ∧
    (l.failBlks.length < 3 →
      ∃ v : State, exec (.nandEraseDone id false) s = .next (Safety.EraseEnd s v) ∧
        v.media.health.eraseFails = satAdd 32 s.media.health.eraseFails 1 ∧
        (v.media.block? n (addrBlk o.addr)).map (fun b => b.state) = some .retired ∧ (∀ x ∈ v.media.scratch, ¬(x.lun = n ∧ x.blk = addrBlk o.addr)) ∧
        (l.releaseAt = none → (v.media.lun? n).map (fun l => l.failBlks) =
          some (if l.failBlks.contains (addrBlk o.addr) then l.failBlks else l.failBlks ++ [addrBlk o.addr])) ∧
        releases v)) ∧
  (∀ (s : State) (n blk : Nat) (l : Lun), s.media.lun? n = some l →
    (s.lunFailCount n blk).1 = (if l.failBlks.contains blk then l.failBlks.length else l.failBlks.length + 1) ∧
    ∀ id o, s.running id .erase = some o → addrLun o.addr = n → addrBlk o.addr = blk → l.suspended = false → 3 ≤ l.failBlks.length → blk ∉ l.failBlks →
      ∃ v u : State, exec (.nandEraseDone id false) s = .next (Safety.EraseEnd s v) ∧
        v = (u.failLun n).dropSets ∧ (u.media.lun? n).map (fun l => l.failBlks) = some (l.failBlks ++ [blk])) ∧
  (∀ (s : State) (n : Nat) (l : Lun), s.serving = true → s.media.lun? n = some l → (l.state = .accepted ∨ l.releaseAt.isSome = true) →
    (∃ o ∈ s.media.ops, o.issued = true ∧ addrLun o.addr = n) →
    (l.timeouts < 2 → ∃ t : State, exec (.lunTimeout n) s = .next t ∧ t.media.lun? n = some { l with timeouts := l.timeouts + 1 } ∧
      t.media.ops = updWhere (fun o => o.issued && addrLun o.addr == n) (fun o => { o with issued := false }) s.media.ops) ∧
    (2 ≤ l.timeouts → exec (.lunTimeout n) s = .next (settle s (s.within (dataParts ++ [Part.town]) (dataRegs ++ [RegName.cipKpUse, RegName.medRawStat])
      ((s.modLun n fun x => { x with timeouts := l.timeouts + 1 }).failLun n))))) ∧
  (∀ (s : State) (n : Nat) (l : Lun), s.media.lun? n = some l → (∀ o ∈ s.media.ops, addrLun o.addr ≠ n) → (∀ q ∈ s.media.sets, ∀ b ∈ q.blocks, b.1 ≠ n) →
    ∃ l', (s.failLun n).media.lun? n = some l' ∧ l'.state = .failed ∧ l'.spares = 0 ∧ l'.erase = none ∧ l'.suspended = false ∧
      (s.failLun n).media.health.lunsFailed = satAdd 16 s.media.health.lunsFailed 1 ∧
      (s.failLun n).media.spareBlocks = s.media.spareBlocks - (l.spares + (s.media.sysBlocks n +
        (s.media.blocks.filter fun b => b.lun == n && decide (s.media.sysBlocks n ≤ b.blk) && decide (b.state ≠ .free ∧ b.state ≠ .retired)).length))) ∧
  (∀ (s : State) (n : Nat) (l : Lun), s.media.lun? n = some l → s.serving = true → l.suspended = true →
    (s.fget .medSuspCtrl_burst ≤ l.burst ∨ s.readsWait n = false) → s.erasePeakFits n = true →
    (s.readRuns n = false → ∃ t : State, exec (.eraseResume n) s = .next t ∧
      t.media.lun? n = some { l with suspended := false, burst := 0, resumed := s.clk.cycles } ∧ t.media.ops = s.media.ops) ∧
    (s.readRuns n = true → ∃ t : State, exec (.eraseResume n) s = .next t ∧ t.media = s.media)) ∧
  (∀ (s : State) (n : Nat) (l : Lun), s.ready = true → n < 8192 → s.media.lun? n = some l →
    ((l.state ≠ .foreign ∨ l.releaseAt ≠ none) → ∃ t : State, exec (.lunRelease n) s = .next t ∧ t.media = s.media ∧ t.fget .medLunCtrl_lun = n) ∧
    (l.state = .foreign → l.releaseAt = none → ∃ (t : State) (x : _), exec (.lunRelease n) s = .next t ∧
      t.media.lun? n = some { l with releaseAt := some 0, failBlks := [], timeouts := 0 } ∧ t.media.blocks = s.media.blocks.filter (fun b => b.lun != n) ∧
      t.media.ops = s.media.ops ++ [x] ∧ x.kind = .erase ∧ x.addr = mkAddr n 0 0 0 0)) ∧
  (∀ (s : State) (n : Nat), (∃ l, s.media.lun? n = some l) → ∃ l, (s.formatLun n).media.lun? n = some l ∧ l.state = .accepted ∧
    l.spares = s.media.geom.blocks * s.fget .medSpareCtrl_sparePm / 1000 ∧ (s.formatLun n).media.spareBlocks = s.media.spareBlocks + l.spares ∧
    ∀ b ∈ s.media.factoryBad n, ((s.formatLun n).media.block? n b).map (fun x => x.state) = some .retired)

/-- Terraces, verification, the Sparge, epochs and scrub (R252, R254, R289 to R299). An open Terrace is padded CLOSE_US after it opened; a
fully programmed set that verifies becomes VERIFIED, releases its parity and gives its copies over, another becomes urgent, its failing blocks
marked and reported; a victim is SPARGING with a read of each live item queued; a target set is padded FILL_MS after its last copy, as far as
R252 lets it begin Terraces; a RETIRING block whose readers have gone is erased; the epoch advances; a scrub pass, PERIOD_H after the last, that
finds a weak codeword makes its set urgent.
Choices of the model: log entries 4, 29, 30, 164. -/
def Obligations.SetsAreFilledVerifiedAndReclaimed : Prop :=
  (∀ (s : State) (w : Nat) (q : TSet), s.media.set? w = some q → s.mediaOn = true → q.state = .opened →
    let ter := 256 * s.media.geom.cwpp * q.blocks.length
    q.ptr % ter ≠ 0 →
    ∃ t : State, exec (.terraceCloseTimeout w) s = .next t ∧ t.clk.cycles = max s.clk.cycles (q.openedAt + s.fget .medTerCtrl_closeUs * 600) ∧
      (t.media.set? w).map (fun q => q.ptr) = some ((q.ptr / ter + 1) * ter) ∧ t.media.items = s.media.items) ∧
  (∀ (s : State) (w : Nat) (q : TSet) (worst : List (Option Nat)), s.media.set? w = some q → s.mediaOn = true → q.state = .full → q.urgent = none →
    s.programmed q = true → worst.length = q.blocks.length →
    let bad := (q.blocks.zip worst).filter fun b => !(b.2.any fun x => decide (x ≤ s.fget .medVerifyCtrl_maxBits))
    (bad = [] →
      exec (.setVerify w worst true) s = .next (settle s (s.within (finishParts ++ [Part.index, Part.town]) ringRegs
        (((s.modSet w fun x => { x with state := .verified, wasVerified := true, scrubbed := s.clk.cycles }).releaseParity w).switchSet w).progress))) ∧
    (bad ≠ [] → ∃ t : State, exec (.setVerify w worst true) s = .next t ∧ (t.media.set? w).map (fun x => (x.state, x.urgent.isSome)) = some (.full, true) ∧
      (∀ b ∈ bad, (t.media.block? b.1.1 b.1.2).map (fun x => x.state) = some .failing) ∧
      t.ev = (bad.foldl (fun s b => s.report .verifyFail (mkAddr b.1.1 b.1.2 0 0 0)) s).ev) ∧
    (∃ t : State, exec (.setVerify w worst false) s = .next t ∧ (t.media.set? w).map (fun x => (x.state, x.urgent.isSome)) = some (.full, true))) ∧
  (∀ (s : State) (q : TSet), s.mediaOn = true → s.victim = some q →
    exec .spargeVictimSelect s = .next (settle s (s.within [Part.power, Part.media, Part.time, Part.net, Part.sup, Part.ev, Part.out] countRegs (s.beginVictim q)))) ∧
  (∀ s : State, s.mediaOn = true → s.victim = none →
    ∃ t : State, exec .spargeVictimSelect s = .next t ∧ t.media = s.media ∧ t.ev = s.ev) ∧
  (∀ (s : State) (q : TSet), s.victim = some q → (q.state = .full ∨ q.state = .verified) ∧ q ∈ s.media.sets ∧
    (∀ i ∈ s.media.itemsOf q.wseq, s.itemRetained i = false) ∧ (q.urgent = none → q.state = .verified ∧ ∀ x ∈ s.media.sets, x.urgent.isSome → s.eligible x = false)) ∧
  (∀ (s : State) (w : Nat) (q : TSet), s.media.set? w = some q → s.mediaOn = true → (q.stream = .sparge ∨ (q.stream = .index ∧ q.victims ≠ [])) →
    q.state = .opened → (∀ o ∈ s.media.ops, ∀ v, o.why ≠ .copy v) →
    ∃ t : State, exec (.spargeTargetPad w) s = .next t ∧ t.clk.cycles = max s.clk.cycles (q.fullAt + s.fget .medSpgCtrl_fillMs * 600000) ∧
      (t.media.set? w).map (fun x => (x.pad, x.ptr)) = some (some (q.pad.getD 3),
        max q.ptr (min (setUnits s.media.geom q) ((begun s.media.geom q q.ptr + s.media.terraceRoom q.parityLun) * terUnits s.media.geom q)))) ∧
  (∀ (s : State) (n b : Nat) (x : Block), s.media.block? n b = some x → s.mediaOn = true → x.state = .retiring → s.media.drained x.epoch = true →
    ∃ (t : State) (o : _), exec (.blockErase n b) s = .next t ∧ t.media.block? n b = some { x with state := .erasing } ∧ t.media.ops = s.media.ops ++ [o] ∧
      o.kind = .erase ∧ o.addr = mkAddr n b 0 0 0 ∧ o.cls = 4 ∧ o.rank = 3) ∧
  (∀ (m : MediaSt) (e j : Nat), j < 65536 → (e + j) % 65536 = m.epoch →
    (m.drained e = true ↔ ∀ x ∈ m.slots, ∃ k, k < j ∧ (x.epoch + k) % 65536 = m.epoch)) ∧
  (∀ s : State, s.serving = true → s.hasFlash = true →
    ∃ t : State, exec .epochAdvance s = .next t ∧ t.clk.cycles = max s.clk.cycles (s.media.epochAt + s.fget .medSpgCtrl_epochUs * 600) ∧
      t.media.epoch = (if s.media.slots.any (fun x => x.epoch % 16 == (s.media.epoch + 1) % 65536 % 16) then s.media.epoch
        else (s.media.epoch + 1) % 65536) ∧ t.media.slots = s.media.slots) ∧
  (∀ (s : State) (w : Nat) (q : TSet) (cws : List (Nat × Nat)), s.media.set? w = some q → s.mediaOn = true → s.flag .medScrubCtrl_scrubEn = true →
    q.state = .verified →
    let l := cws.take (setUnits s.media.geom q / 256)
    ∃ t : State, exec (.scrubPass w cws) s = .next t ∧ t.clk.cycles = max s.clk.cycles (q.scrubbed + s.fget .medScrubCtrl_periodH * 3600 * 600000000) ∧
      (t.media.set? w).map (fun x => (x.state, x.scrubbed)) = some (.verified, t.clk.cycles) ∧
      ((∃ c ∈ l, s.fget .medScrubCtrl_relocBits ≤ c.1 ∨ 3 ≤ c.2) → (t.media.set? w).map (fun x => x.urgent.isSome) = some true) ∧
      ((∀ c ∈ l, c.1 < s.fget .medScrubCtrl_relocBits ∧ c.2 < 3) → (t.media.set? w).map (fun x => x.urgent) = some q.urgent))

/-! ### Resets, power and start-up -/

/-- Starts (R710, R711, R713, R718, R720, R723, R724). PORST_N rising starts the part cold, an internal cold reset starts it with its cause, after a
flush when the Tun or the journal holds anything; so do the end of a power failure's halt, the return of REFCLK after its halt, and
PERST_N rising in Slumber.
Choices of the model: log entries 16, 76. -/
def Obligations.ResetsStartThePartAgain : Prop :=
  (∀ (s : State) (strap : Nat), s.power.porstLow = true →
    (s.tun.flushing = false → ∃ t : State, exec (.coldStart strap false) s = .next t ∧ Safety.Restarted s t 0 0 ∧ t.power.strap = strap % 32) ∧
    (s.tun.flushing = true → ∃ t : State, exec (.coldStart strap false) s = .next t ∧ t.power = { s.power with strap := strap % 32, porstLow := false } ∧ t.tun = s.tun)) ∧
  (∀ (s : State) (strap : Nat), s.tun.flushing = false →
    ∃ t : State, exec (.coldStart strap true) s = .next t ∧ Safety.Restarted s t 0 0) ∧
  (∀ s : State, s.alive = true → s.power.pstate ≠ 3 → s.tun.flushing = false →
    ((s.canFlush = false ∨ (s.tun.entries = [] ∧ s.index.journal = [])) → ∃ t : State, exec .internalColdReset s = .next t ∧ Safety.Restarted s t 1 3) ∧
    (s.canFlush = true → (s.tun.entries ≠ [] ∨ s.index.journal ≠ []) →
      ∃ t : State, exec .internalColdReset s = .next t ∧ t.tun.flushing = true ∧ t.tun.flushFor = 4 ∧ t.tun.flushFrom = s.clk.cycles ∧
        t.power = { s.power with pendCause := 3 })) ∧
  (∀ s : State, s.pinsActive = true → s.power.pwrfailLow = true → s.power.halt = some .powerFail →
    ∃ t : State, exec .pwrfailRestart s = .next t ∧ Safety.Restarted s t 1 1 ∧ t.power.pwrfailLow = false ∧ t.clk.cycles = s.clk.cycles + 6000000) ∧
  (∀ s : State, s.pinsActive = true → s.power.refclkLost = true →
    (s.power.halt = some .refclk → ∃ t : State, exec .refclkReturn s = .next t ∧ Safety.Restarted s t 1 4 ∧ t.clk.cycles = s.clk.cycles + 6000000) ∧
    (s.power.halt ≠ some .refclk → ∃ t : State, exec .refclkReturn s = .next t ∧ t.power = { s.power with refclkLost := false } ∧ t.kv = s.kv ∧ t.host = s.host)) ∧
  (∀ s : State, s.pinsActive = true → s.host.perst = true →
    ((s.alive = true ∧ s.power.pstate = 3) → ∃ t : State, exec .perstNRelease s = .next t ∧ Safety.Restarted s t 1 5 ∧ t.host.perst = false ∧ t.host.wakeLow = true) ∧
    (s.alive = false ∨ s.power.pstate ≠ 3 → ∃ t : State, exec .perstNRelease s = .next t ∧ t.host = { s.host with perst := false } ∧ t.power = s.power ∧ t.kv = s.kv))

/-- Power failures and halts (R213, R214, R218, R219, R710, R712, R565). PWRFAIL_N, the loss of REFCLK and PORST_N begin a flush when one can run, else
the part halts; the end of the flush writes an image of every entry that is not FILLING, the journal and the front buffer, and halts or
starts the part as what began it has it.
Choices of the model: log entries 77, 78, 79. -/
def Obligations.FlushesSaveTheTunBeforeAHalt : Prop :=
  (∀ s : State, s.pinsActive = true → s.power.halt = none → s.tun.flushing = false →
    (s.canFlush = true → ∃ t : State, exec .powerFailFlush s = .next t ∧ t.tun.flushing = true ∧ t.tun.flushFrom = s.clk.cycles ∧ t.tun.flushFor = 0 ∧
      t.power = { s.power with pwrfailLow := true } ∧ t.media.health.powerFails = satAdd 32 s.media.health.powerFails 1 ∧
      (∀ e ∈ t.tun.entries, e.state ≠ .filling) ∧ ∃ c, t.ev.counter = some c ∧ c.opS = s.opSeconds ∧ c.cycle = s.ev.cycle ∧ c.lost = s.ev.lost) ∧
    (s.canFlush = false → ∃ t : State, exec .powerFailFlush s = .next t ∧ t.power = { s.power with pwrfailLow := true, halt := some .powerFail } ∧
      t.tun = s.tun ∧ t.media.health.powerFails = satAdd 32 s.media.health.powerFails 1)) ∧
  (∀ (s : State) (us : Nat), s.tun.flushing = true →
    let w := s.waitCycle (s.tun.flushFrom + us * 600)
    let slot := if s.tun.needed then 1 - s.tun.slot else s.tun.slot
    let im := s.image true
    (im.seq = s.tun.flushSeq + 1 ∧ im.complete = true ∧ im.sizeMib = s.tun.sizeMib ∧ im.blocks = (s.tun.rescue[slot]?).getD [] ∧
      im.entries = s.tun.entries.filter (fun e => decide (e.state ≠ .filling)) ∧ im.journal = s.index.journal ∧
      im.events = s.ev.log.filter fun r => !r.prog2) ∧
    (w.writeImage us).tun.slots = s.tun.slots.set slot (some im) ∧ (w.writeImage us).tun.slot = slot ∧ (w.writeImage us).tun.needed = true ∧
    (w.writeImage us).tun.flushing = false ∧ (w.writeImage us).fget .tunFlushLast_lastUs = us % 2 ^ 32 ∧
    (s.tun.flushFor = 0 → ∃ t : State, exec (.flushEnd us) s = .next t ∧ t.tun = (w.writeImage us).tun ∧ t.power = { s.power with halt := some .powerFail } ∧ t.kv = s.kv ∧
      t.out = s.out ∧ t.clk.cycles = max s.clk.cycles (s.tun.flushFrom + us * 600) ∧
      t.media.health.tunFlushes = satAdd 32 s.media.health.tunFlushes 1) ∧
    (s.tun.flushFor = 3 → ∃ t : State, exec (.flushEnd us) s = .next t ∧ t.tun = (w.writeImage us).tun ∧ t.power = { s.power with halt := some .thermal } ∧
      t.out = s.out ++ [Output.alert]) ∧
    (s.tun.flushFor = 1 → s.power.porstLow = false → ∃ t : State, exec (.flushEnd us) s = .next t ∧ Safety.Restarted (w.writeImage us) t 0 0) ∧
    (s.tun.flushFor = 1 → s.power.porstLow = true → ∃ t : State, exec (.flushEnd us) s = .next t ∧ t.tun = (w.writeImage us).tun ∧ t.power = s.power) ∧
    (s.tun.flushFor = 2 → s.power.refclkLost = true → ∃ t : State, exec (.flushEnd us) s = .next t ∧ t.power = { s.power with halt := some .refclk }) ∧
    (4 ≤ s.tun.flushFor → ∃ t : State, exec (.flushEnd us) s = .next t ∧ Safety.Restarted (w.writeImage us) t 1 s.power.pendCause)) ∧
  (∀ s : State, s.pinsActive = true → s.power.refclkLost = false → s.power.pstate ≠ 3 → s.power.halt = none → s.tun.flushing = false →
    ∃ t : State, exec .refclkLoss s = .next t ∧ t.fget .clkStat_refLost = 1 ∧ t.host.linkUp = false ∧ (∀ p ∈ t.net.ports, p.link = false ∧ p.up = false) ∧
      t.power.refclkLost = true ∧ (s.canFlush = true → t.tun.flushing = true ∧ t.tun.flushFor = 2 ∧ t.power.halt = none) ∧
      (s.canFlush = false → t.power.halt = some .refclk)) ∧
  (∀ s : State, s.power.porstLow = false →
    (s.tun.flushing = true → ∃ t : State, exec .porstNFall s = .next t ∧ t.power = { s.power with porstLow := true } ∧ t.tun = { s.tun with flushFor := 1 }) ∧
    (s.tun.flushing = false → s.canFlush = true → s.upd.inert = false →
      ∃ t : State, exec .porstNFall s = .next t ∧ t.power = { s.power with porstLow := true } ∧ t.tun.flushing = true ∧ t.tun.flushFor = 1) ∧
    (s.tun.flushing = false → (s.canFlush = false ∨ s.upd.inert = true) →
      ∃ t : State, exec .porstNFall s = .next t ∧ t.power = { s.power with porstLow := true } ∧ t.tun = s.tun))

/-- Function resets and the PCIe link (R26, R112, R150, R522, R714, R732, R668). A host reset takes every function's rings, commands and registers and every
key, with no VF left; an FLR takes one function's; clearing VF Enable takes every VF's. Commands past their point of no return run on without
a host. The link that reaches L0 releases the wake pin, and a configuration request is answered only by a part that is READY; one that writes
the MSI-X Message Control sets the function's enable and mask, and pending messages that nothing masks any longer are sent (R140).
Choices of the model: log entries 34, 86, 87. -/
def Obligations.FunctionsAreResetAndTheLinkAnswers : Prop :=
  (∀ s : State, s.pinsActive = true →
    (s.ready = true → s.power.pstate ≠ 3 → ∃ t : State, exec .hostReset s = .next t ∧ t.host.perst = true ∧ t.host.linkUp = false ∧ t.host.vfs = 0 ∧
      t.power = { s.power with resetType := 2, resetCause := 6 } ∧ t.cip.keys = [] ∧ t.ywp.slots = s.ywp.slots ∧ t.kv.keyspaces = s.kv.keyspaces ∧
      ∀ f, f ≤ s.host.vfs → (∀ r ∈ t.host.rings, r.f ≠ f) ∧ (∀ r : RegKey, pageReg f r = true → t.reg r = r.reset) ∧
        ∀ e ∈ t.kv.ctxs, ∀ n, e.src = .ring f n → e.orphan = true ∧ e.ponr = true) ∧
    (s.ready = false ∨ s.power.pstate = 3 → ∃ t : State, exec .hostReset s = .next t ∧ t.host = { s.host with perst := true, linkUp := false } ∧ t.power = s.power ∧
      t.kv = s.kv)) ∧
  (∀ (s : State) (f : Nat), s.ready = true → s.host.perst = false → s.power.pstate ≠ 3 → f ≤ s.host.vfs →
    ∃ t : State, exec (.functionLevelReset f) s = .next t ∧ (∀ r ∈ t.host.rings, r.f ≠ f) ∧
      (∀ r : RegKey, pageReg f r = true → t.reg r = r.reset) ∧ (∀ k ∈ t.cip.keys, k.tenant ≠ f) ∧ t.kv.keyspaces = s.kv.keyspaces ∧
      t.kv.staged = s.kv.staged ∧ t.kv.leases = s.kv.leases ∧ ∀ e ∈ t.kv.ctxs, ∀ n, e.src = .ring f n → e.orphan = true ∧ e.ponr = true) ∧
  (∀ s : State, s.ready = true → s.host.perst = false → s.power.pstate ≠ 3 →
    ∃ t : State, exec .vfEnableClear s = .next t ∧ t.host.vfs = 0 ∧ ∀ f, 1 ≤ f → f ≤ s.host.vfs → (∀ r ∈ t.host.rings, r.f ≠ f) ∧ ∀ k ∈ t.cip.keys, k.tenant ≠ f) ∧
  (∀ s : State, s.linkMay = true → ∃ t : State, exec .pcieLinkReachesL0 s = .next t ∧ t.host = { s.host with linkUp := true, wakeLow := false }) ∧
  (∀ (s : State) (f : Nat) (m : Option (Bool × Bool)), s.linkMay = true →
    (s.ready = false → s.upd.recovery = false → ∃ t : State, exec (.configurationRequest ⟨f, m⟩) s = .next t ∧ t.out = s.out ++ [Output.cfg (.func f) true] ∧ t.host = s.host) ∧
    (s.ready = true → s.upd.recovery = false → f ≤ s.host.vfs →
      (m = none → ∃ t : State, exec (.configurationRequest ⟨f, m⟩) s = .next t ∧ t.out = s.out ++ [Output.cfg (.func f) false] ∧ t.host = s.host) ∧
      ∀ on mask, m = some (on, mask) → ∃ t : State, exec (.configurationRequest ⟨f, m⟩) s = .next t ∧
        (let w := s.modFn f fun x => { x with msixOn := on, msixMask := mask }
         let go := (s.fn f).msixPba.filter fun v => !w.vecMasked f v
         t.out = s.out ++ go.map (fun v => .msix f v) ++ [Output.cfg (.func f) false] ∧ (∀ v ∈ go, v ∉ (t.fn f).msixPba)) ∧
        (t.fn f).msixOn = on ∧ (t.fn f).msixMask = mask) ∧
    (s.ready = true → s.upd.recovery = false → s.host.vfs < f → ∃ t : State, exec (.configurationRequest ⟨f, m⟩) s = .next t ∧
      t.out = s.out ++ [Output.unsupported (.func f)] ∧ t.host = s.host) ∧
    (s.upd.recovery = true → (0 < f → ∃ t : State, exec (.configurationRequest ⟨f, m⟩) s = .next t ∧ t.out = s.out ++ [Output.unsupported (.func f)]) ∧
      ∃ t : State, exec (.configurationRequest ⟨0, none⟩) s = .next t ∧ t.out = s.out ++ [Output.cfg (.func 0) false]))

/-- Start-up (R717 to R719, R715). Stages follow one another in the order ROOT, CFL, OPTION, KEYS, IMAGE, DRAM, NAND, REPLAY, ERASE, TOWN, READY; a
stage that fails stops the start with an event and ALERT_N; a part without flash goes from NAND to TOWN; two seconds of stage TOWN make
the part READY. The patrol scrub counts a pass's errors, and marks the result buffers that it finds uncorrectable (R776).
Choices of the model: log entries 80, 81. -/
def Obligations.StartUpRunsItsStagesInOrder : Prop :=
  (∀ (s : State) (r : StageFound), s.starting = true → ∃ t : State, exec (.startStageDone r) s = .next t ∧
    (s.power.stage = 0 → t.power = { s.power with stage := 1 } ∧ t.fget .clkStat_rootLock = 1) ∧
    (s.power.stage = 1 → t.power = (if r.ok then { s.power with stage := 2 } else { s.power with failStage := 1 }) ∧
      (r.ok = true → t.fget .cflStat_ready = 1) ∧ (r.ok = false → t.ev = (s.report .pdFailedStage 1).ev ∧ t.out = s.out ++ [Output.alert])) ∧
    (s.power.stage = 2 → s.optValid 0 = false → s.optValid 1 = false → t.upd.inert = true ∧ t.power.stage = 2) ∧
    (s.power.stage = 3 → t.power = { s.power with stage := 4 }) ∧
    (s.power.stage = 7 → t.power = (if r.ok then { s.power with stage := 8 } else { s.power with failStage := 7 }) ∧ (r.ok = true → t.tun.replayDone = true)) ∧
    (s.power.stage = 8 → t.power = { s.power with stage := 9 } ∧ (s.tun.needed = false → t.tun.slots = [none, none])) ∧
    (9 ≤ s.power.stage → s.town.state ≠ 1 → s.town.state ≠ 5 → t.power.ready = true ∧ t.power.stage = 10 ∧ t.power.elapsedMs = s.msSince s.power.startAt % 2 ^ 32) ∧
    (9 ≤ s.power.stage → (s.town.state = 1 ∨ s.town.state = 5) → t.power = s.power)) ∧
  (∀ (s : State) (r : StageFound), s.starting = true → s.power.stage = 5 →
    ∃ t : State, exec (.startStageDone r) s = .next t ∧ ((s.stageDram r).1 = true → t.power = { s.power with stage := 6 }) ∧
      ((s.stageDram r).1 = false → t.power = { s.power with failStage := 5 } ∧ t.out = s.out ++ [Output.alert])) ∧
  (∀ s : State, (s.hasFlash = true → s.afterNand.power = { s.power with stage := 7 }) ∧ (s.hasFlash = false → s.afterNand.power.stage = 9 ∧ s.afterNand.tun.replayDone = true)) ∧
  (∀ s : State, s.starting = true → s.power.stage = 9 →
    ∃ t : State, exec .townJoinTimeout s = .next t ∧ t.power.ready = true ∧ t.power.stage = 10 ∧
      t.clk.cycles = max s.clk.cycles (s.town.joinSince.getD s.clk.cycles + 1200000000)) ∧
  (∀ (s : State) (c : Nat) (u : Bool), s.alive = true → 5 < s.power.stage → s.power.pstate ≠ 3 →
    (∃ t : State, exec (.dramPatrolScrub ⟨[], [], false⟩) s = .next t ∧ t.sup.patrolAt = t.clk.cycles ∧ t.clk.cycles = max s.clk.cycles (s.sup.patrolAt + 86400 * 600000000) ∧
      t.kv = s.kv ∧ t.media = s.media) ∧
    (∀ n off raw, ∃ t : State, exec (.dramPatrolScrub ⟨[], [(n, off)], raw⟩) s = .next t ∧ t.media.rawPoison = (s.media.rawPoison || raw) ∧
      t.kv.ctxs = updWhere (fun x => x.id == n) (fun x => { x with poison := x.poison ++ [off] }) s.kv.ctxs) ∧
    (c < 8 → ∃ t : State, exec (.dramPatrolScrub ⟨[(c, u)], [], false⟩) s = .next t ∧
      t.fget .drmChStat_uncorr c = (if u then satAdd Fld.drmChStat_uncorr.w (s.fget .drmChStat_uncorr c) 1 else s.fget .drmChStat_uncorr c) ∧
      t.fget .drmChStat_corrected c = (if u then s.fget .drmChStat_corrected c else satAdd Fld.drmChStat_corrected.w (s.fget .drmChStat_corrected c) 1)))

/-! ### The wire protocol -/

/-- A received packet is checked in the order of R325, and one that fails is counted in the counter that the first failed check names and has no
other effect (R28, R325, R337); before them come those of R319: no fragment, no wrong UDP checksum. A CLOSED slot answers an authenticated packet
with a CLOSE of its cause (R330).
Choices of the model: log entry 148. -/
def Obligations.PacketsAreCheckedInOrderAndDropped : Prop :=
  (∀ (s : State) (p : YPacket) (typ : Nat),
    ((ipBad p = true ∨ p.udpLen ≠ 80 + p.plen ∨ p.typ ≠ typ ∨ p.rsvBad = true) → s.checkPacket p typ = .error .ywpDrop_malformed) ∧
    (ipBad p = false → p.udpLen = 80 + p.plen → p.typ = typ → p.rsvBad = false →
      (s.ywp.slot? p.sid = none → p.plen ≤ 8960 → s.checkPacket p typ = .error .ywpDrop_noSession) ∧
      ∀ x, s.ywp.slot? p.sid = some x →
        (slotP x < p.plen → s.checkPacket p typ = .error .ywpDrop_malformed) ∧
        (p.plen ≤ slotP x → x.state = .free → s.checkPacket p typ = .error .ywpDrop_noSession) ∧
        (p.plen ≤ slotP x → x.state ≠ .free →
          (p.inc ≠ x.inc → s.checkPacket p typ = .error .ywpDrop_staleInc) ∧
          (p.inc = x.inc → p.src ≠ x.peer → s.checkPacket p typ = .error .ywpDrop_noSession) ∧
          (p.inc = x.inc → p.src = x.peer → p.ver ≠ x.ver → s.checkPacket p typ = .error .ywpDrop_version) ∧
          (∀ y, s.checkPacket p typ = .ok y → y = x ∧ p.inc = x.inc ∧ p.src = x.peer ∧ p.ver = x.ver ∧ x.ver ≠ 0 ∧ p.authOk = true ∧
            (p.keyGen = x.gen % 256 ∨ p.keyGen = (x.gen + 1) % 256 ∨ ∃ o, x.oldGen = some o ∧ p.keyGen = o.1 % 256))))) ∧
  (∀ (s : State) (p : YPacket) (c : Fld), s.netOn = true →
    ∀ i ∈ ([(.data p, 2), (.ack p, 3), (.close p, 4)] : List (Instr × Nat)), s.checkPacket p i.2 = .error c →
      ∃ t : State, exec i.1 s = .next t ∧ t.fget c = satAdd c.w (s.fget c) 1 ∧ t.ywp = s.ywp ∧ t.cip = s.cip ∧ t.kv = s.kv ∧ t.town = s.town ∧
        t.out = s.out ∧ t.ev = s.ev ∧ ∀ g : Fld, g.reg ≠ .ywpDrop → ∀ a b k, t.fget g a b k = s.fget g a b k) ∧
  (∀ (s : State) (p : YPacket) (x : Slot), s.netOn = true → x.state = .closed → x.invoc < 4293918720 →
    ∀ i ∈ ([(.data p, 2), (.ack p, 3), (.close p, 4)] : List (Instr × Nat)), s.checkPacket p i.2 = .ok x →
      ∃ (t : State) (q : _), exec i.1 s = .next t ∧ t.out = s.out ++ [Output.packet x.n q] ∧ q.typ = 4 ∧ q.cause = (if x.cause = 0 then 2 else x.cause) ∧
        q.sid = x.peerSlot ∧ q.inc = x.peerInc ∧ q.invoc = x.invoc ∧ (t.ywp.slot? x.n).map (fun y => (y.state, y.invoc)) = some (.closed, x.invoc + 1)) ∧
  (∀ (s : State) (p : YPacket) (x : Slot), s.netOn = true → x.state = .opened → x.invoc < 4293918720 → s.checkPacket p 2 = .ok x →
    (after x.rxNext p.psn = true ∨ p.psn ∈ x.rxAhead) →
    ∃ (t : State) (q : _), exec (.data p) s = .next t ∧ t.fget .ywpDrop_duplicate = satAdd Fld.ywpDrop_duplicate.w (s.fget .ywpDrop_duplicate) 1 ∧
      Output.packet x.n q ∈ t.out ∧ q.typ = 3 ∧ q.ackPsn = x.rxNext ∧ (t.ywp.slot? x.n).map (fun y => (y.rxNext, y.rxAhead, y.rx)) = some (x.rxNext, x.rxAhead, x.rx)) ∧
  (∀ (s : State) (p : YPacket) (x : Slot), s.netOn = true → x.state = .opened → s.checkPacket p 2 = .ok x → after x.rxNext p.psn = false →
    p.psn ∉ x.rxAhead → x.invoc ≤ 4294901760 →
    (8191 < serial p.psn x.rxNext → s.cip.dist = [] → ∃ t : State, exec (.data p) s = .next t ∧ t.fget .ywpDrop_outOfWindow = satAdd Fld.ywpDrop_outOfWindow.w (s.fget .ywpDrop_outOfWindow) 1 ∧
      t.ywp = s.ywp) ∧
    (serial p.psn x.rxNext ≤ 8191 → exec (.data p) s = .next (settle s (s.within (townParts ++ [Part.free]) (dataRegs ++ [RegName.ywpDrop])
      (((s.takeData x p).limitCheck x.n).distCheck))))) ∧
  (∀ p : YPacket, ipBad p = true ↔ (p.frag = true ∨ p.sum = .wrong ∨ (p.v6 = true ∧ p.sum = .none)))

/-- Sessions open by a handshake and end (R26, R327 to R330, R332, R334, R357, R469, R533). A part opens one as client in the lowest FREE slot, over the
next hop that firmware gives, and firmware can rewrite the next hop of a peer; an INIT packet makes one as server; TLS goes on with the bytes firmware
gives, opens the server's side with the version and rights it found, or fails; the timers retransmit, give up, free a CLOSED slot and erase an old
generation.
Choices of the model: log entries 45, 88, 89, 145, 148. -/
def Obligations.SessionsOpenAndClose : Prop :=
  (∀ (y : YwpSt) (n inc : Nat), y.newSlot = some (n, inc) → n < 262144 ∧ (∀ x ∈ y.slots, x.n = n → x.state = .free) ∧
    ∀ m, m < n → ∃ x ∈ y.slots, x.n = m ∧ x.state ≠ .free) ∧
  (∀ (s : State) (peer member hop : Nat), ∃ t : State, exec (.sessionOpen ⟨peer, hop⟩ member []) s = .next t ∧ t.out = s.out ∧
    t.ywp = { s.ywp with slots := updWhere (fun x => x.peer == peer) (fun x => { x with hop := hop }) s.ywp.slots }) ∧
  (∀ (s : State) (peer member hop n inc : Nat) (tls : Bytes), s.ywpOn = true → (s.ready = true ∨ member ≠ 0) → s.ywp.handshaking < 1024 →
    s.ywp.newSlot = some (n, inc) → tls ≠ [] → tls.length ≤ 65536 →
    ∃ (t : State) (y : _), exec (.sessionOpen ⟨peer, hop⟩ member tls) s = .next t ∧ t.ywp.slot? n = some y ∧ y.state = .handshake ∧ y.client = true ∧ y.peer = peer ∧ y.hop = hop ∧
      y.inc = inc ∧ y.identity = member ∧ y.since = s.clk.cycles ∧ y.hsOut = hsPieces 1 0 tls ∧ y.hsSent = tls.length ∧ y.ver = 0 ∧
      t.out.length = s.out.length + (hsPieces 1 0 tls).length) ∧
  (∀ (s : State) (p : YPacket) (n inc : Nat) (b : Bytes), s.netOn = true → s.ywpOn = true → s.ready = true → ipBad p = false →
    p.udpLen = 64 + p.plen → p.typ = 1 → p.rsvBad = false →
    p.plen ≤ 1344 → bitAt p.flags 5 = true → s.hsSlot p = none → s.ywp.handshaking < 1024 → s.ywp.newSlot = some (n, inc) → p.ver = 0 → p.psn = 1 → p.valOff = 0 →
    s.flag .cipDrbgStat_failed = false → b.length ≤ 65536 →
    (∃ (t : State) (y : _), exec (.handshake p (.more b)) s = .next t ∧ t.ywp.slot? n = some y ∧ y.state = .handshake ∧ y.client = false ∧ y.peer = p.src ∧ y.hop = p.mac ∧
      y.peerSlot = p.msgId ∧ y.peerInc = p.srcInc ∧ y.inc = inc ∧ y.hsRx = 2 ∧ y.hsStream = p.plen ∧ y.hsSent = b.length ∧
      y.jumbo = (bitAt p.flags 4 && s.flag .ywpCtrl_jumboEn)) ∧
    (∃ (t : State) (y : _), exec (.handshake p .failed) s = .next t ∧ t.ywp.slot? n = some y ∧ y.state = .free ∧ y.inc = (inc + 1) % 65536 ∧
      t.ev = (s.report .sessionClosed n).ev) ∧
    (∀ ver tenant identity mgmt ps, s.fget .ywpCtrl_verMin ≤ ver → ver ≤ s.fget .ywpCtrl_verMax → tlsSupported ps = true →
      ∃ (t : State) (y : _), exec (.handshake p (.done b ver tenant identity false mgmt ps)) s = .next t ∧ t.ywp.slot? n = some y ∧ y.state = .opened ∧ y.ver = ver ∧
        y.tenant = tenant ∧ y.identity = identity ∧ y.member = false ∧ y.mgmt = mgmt ∧ y.secret = s.fresh.1 ∧ y.since = s.clk.cycles ∧ y.rto = 100000000) ∧
    (∀ ver tenant identity member mgmt ps, (ver < s.fget .ywpCtrl_verMin ∨ s.fget .ywpCtrl_verMax < ver ∨ tlsSupported ps = false) →
      ∃ (t : State) (y : _), exec (.handshake p (.done b ver tenant identity member mgmt ps)) s = .next t ∧ t.ywp.slot? n = some y ∧ y.state = .free)) ∧
  (∀ (s : State) (p : YPacket) (z : TlsStep), s.netOn = true → (ipBad p = true ∨ p.udpLen ≠ 64 + p.plen ∨ p.typ ≠ 1 ∨ p.rsvBad = true ∨ 1344 < p.plen) →
    ∃ t : State, exec (.handshake p z) s = .next t ∧ t.ywp = s.ywp ∧ t.out = s.out ∧
      t.fget .ywpDrop_malformed = satAdd Fld.ywpDrop_malformed.w (s.fget .ywpDrop_malformed) 1) ∧
  (∀ (s : State) (n : Nat) (x : Slot), s.ywp.slot? n = some x → s.netOn = true →
    (x.state = .handshake ∨ x.state = .opened → x.hsOut ≠ [] → ∃ (t : State) (y : _), exec (.handshakeRetransmit n) s = .next t ∧ t.clk.cycles = max s.clk.cycles (x.spoke + 6000000) ∧
      t.out.length = s.out.length + x.hsOut.length ∧ t.ywp.slot? n = some y ∧ y = { x with spoke := t.clk.cycles }) ∧
    (x.state = .handshake → ∃ (t : State) (y : _), exec (.handshakeTimeout n) s = .next t ∧ t.clk.cycles = max s.clk.cycles (x.since + s.fget .ywpSessCtrl_hsTimeoutMs * 600000) ∧
      t.ywp.slot? n = some y ∧ y.state = .free ∧ y.inc = (x.inc + 1) % 65536) ∧
    (x.state = .closed → ∃ (t : State) (y : _), exec (.closedSlotFree n) s = .next t ∧ t.clk.cycles = max s.clk.cycles (x.since + 120000000) ∧ t.ywp.slot? n = some y ∧
      y.state = .free ∧ y.inc = (x.inc + 1) % 65536 ∧ ∀ k ∈ t.cip.sk, k.slot ≠ n) ∧
    (∀ g, x.oldGen = some g → ∃ t : State, exec (.oldGenerationErase n) s = .next t ∧ t.clk.cycles = max s.clk.cycles (g.2 + 60000000) ∧
      t.ywp.slot? n = some { x with oldGen := none } ∧ t.ev = ((s.waitCycle (g.2 + 60000000)).report .rekey n).ev ∧ ∀ k ∈ t.cip.sk, ¬(k.slot = n ∧ k.dir = 1 ∧ k.pos = 3)) ∧
    (x.state = .opened → x.invoc < 4293918720 → ∃ (t : State) (y : _) (q : _), exec (.idleSessionClose n) s = .next t ∧ t.ywp.slot? n = some y ∧ y.state = .closed ∧ y.cause = 1 ∧
      y.tx = [] ∧ y.rx = [] ∧ y.unacked = [] ∧ y.since = s.clk.cycles ∧ Output.packet n q ∈ t.out ∧ q.typ = 4 ∧ q.cause = 1)) ∧
  (∀ (s : State) (p : YPacket) (x : Slot), s.netOn = true → x.state = .opened → s.checkPacket p 4 = .ok x →
    (p.plen = 8 → ∃ (t : State) (y : _), exec (.close p) s = .next t ∧ t.ywp.slot? x.n = some y ∧ y.state = .closed ∧
      y.cause = (if 1 ≤ p.cause ∧ p.cause ≤ 5 then p.cause else 2)) ∧
    (p.plen ≠ 8 → ∃ (t : State) (y : _), exec (.close p) s = .next t ∧ t.ywp.slot? x.n = some y ∧ y.state = .closed ∧ y.cause = 2)) ∧
  (∀ ps : TlsParams, tlsSupported ps = true ↔ ps.suite = 0x1302 ∧ ps.group = 0x0018 ∧ ps.sig = 0x0503 ∧ ps.bothAuth = true ∧ ps.alpn = true ∧ ps.extra = false)

/-- Timers of an OPEN session (R338, R340, R341, R342, R344, R346). ACKs go out ACK_DELAY_US after the first packet not yet acknowledged, on KEEPALIVE_MS and while
the peer's window is 0; the lowest unacknowledged packet is sent again with the timeout doubled up to 100 ms; the last retransmission allowed, or
silence for IDLE_MS, ends the session as DEAD.
Choices of the model: log entries 4, 91. -/
def Obligations.TimersOfASession : Prop :=
  ∀ (s : State) (n : Nat) (x : Slot), s.ywp.slot? n = some x → s.netOn = true → x.state = .opened → x.invoc < 4293918000 →
    (0 < x.rxUnacked → ∃ (t : State) (y : _) (q : _), exec (.ackDelayTimeout n) s = .next t ∧ t.clk.cycles = max s.clk.cycles (x.rxFirst + s.fget .ywpTimerCtrl_ackDelayUs * 600) ∧
      t.out = s.out ++ [Output.packet n q] ∧ q.typ = 3 ∧ q.ackPsn = x.rxNext ∧ q.sack = sackOf x ∧ bitAt q.flags 0 = false ∧ bitAt q.flags 2 = x.ce ∧ q.invoc = x.invoc ∧
      q.window = s.window x ∧ t.ywp.slot? n = some y ∧ y = { x with rxUnacked := 0, ce := false, invoc := x.invoc + 1, spoke := t.clk.cycles }) ∧
    (0 < s.fget .ywpSessCtrl_keepaliveMs → ∃ (t : State) (q : _), exec (.keepalive n) s = .next t ∧ t.out = s.out ++ [Output.packet n q] ∧ q.typ = 3 ∧ bitAt q.flags 0 = true ∧
      (s.clk.cycles < t.clk.cycles ∨ s.clk.cycles < x.heard) ∧ (x.heard ≤ s.clk.cycles → (t.clk.cycles - x.heard) % (s.fget .ywpSessCtrl_keepaliveMs * 600000) = 0)) ∧
    (x.peerWindow = 0 → ∃ (t : State) (q : _), exec (.windowProbe n) s = .next t ∧ t.out = s.out ++ [Output.packet n q] ∧ q.typ = 3 ∧ bitAt q.flags 0 = true ∧
      t.clk.cycles = max s.clk.cycles (x.spoke + nsCycles x.rto)) ∧
    (∀ k l, sortBy (fun (k : TxPkt) => serial k.psn x.ackedTo) x.unacked = k :: l →
      (s.fget .ywpTimerCtrl_maxRetx ≤ k.retx → ∃ (t : State) (y : _) (q : _), exec (.retransmitTimeout n) s = .next t ∧ t.ywp.slot? n = some y ∧ y.state = .closed ∧ y.cause = 0 ∧
        Output.packet n q ∈ t.out ∧ q.typ = 4 ∧ q.cause = 2) ∧
      (k.retx < s.fget .ywpTimerCtrl_maxRetx → ∃ (t : State) (y : _) (q : _), exec (.retransmitTimeout n) s = .next t ∧ t.out = s.out ++ [Output.packet n q] ∧ q.typ = 2 ∧ q.psn = k.psn ∧
        bitAt q.flags 0 = true ∧ bitAt q.flags 1 = true ∧ t.ywp.slot? n = some y ∧ y.rto = min 100000000 (2 * x.rto) ∧ y.timer = t.clk.cycles ∧
        t.clk.cycles = max s.clk.cycles (x.timer + nsCycles x.rto) ∧
        y.unacked = updWhere (fun q => q.psn == k.psn) (fun q => { q with lost := false, retx := q.retx + 1, sentAt := t.clk.cycles }) x.unacked)) ∧
    (∃ (t : State) (y : _), exec (.sessionDead n) s = .next t ∧ t.clk.cycles = max s.clk.cycles (x.heard + s.fget .ywpSessCtrl_idleMs * 600000) ∧ t.ywp.slot? n = some y ∧
      y.state = .closed ∧ y.cause = 0) ∧
    (∃ t : State, exec (.pacedTransmit n) s = .next t ∧ t.out.length ≤ s.out.length + (if x.cwnd < slotP x then 1 else s.fget .ywpCcCtrl_burstPkts) ∧
      ((∀ k ∈ x.unacked, k.lost = false) → s.sendNew n = none → t.out = s.out ∧ t.ywp = s.ywp)) ∧
    (∀ k, 0 < s.fget .ywpCcCtrl_burstPkts → x.unacked.find? (fun p => p.lost) = some k → ∃ (t : State) (q : _), exec (.pacedTransmit n) s = .next t ∧ s.out ++ [Output.packet n q] <+: t.out ∧
      q.typ = 2 ∧ q.psn = k.psn ∧ bitAt q.flags 1 = true)

/-- Acknowledgements (R338 to R340, R343, R344). An ACK whose payload does not fit its blocks is a violation and closes the session as PROTOCOL; a good one is
taken by `ackTo`, and ACK_NOW is answered with an ACK. What ACK_PSN covers leaves the unacknowledged packets, and the timeout follows RFC 6298 with its
bounds. SACK ranges are ascending and disjoint, and at most 32.
Choices of the model: log entry 90. -/
def Obligations.AcknowledgementsAreTakenAndSent : Prop :=
  (∀ (s : State) (p : YPacket) (x : Slot), s.netOn = true → x.state = .opened → x.invoc < 4293918000 → s.checkPacket p 3 = .ok x →
    ((p.plen ≠ 8 * p.sack.length ∨ 32 < p.sack.length) → ∃ (t : State) (y : _), exec (.ack p) s = .next t ∧ t.ywp.slot? x.n = some y ∧ y.state = .closed ∧ y.cause = 2) ∧
    (p.plen = 8 * p.sack.length → p.sack.length ≤ 32 → p.keyGen = x.gen % 256 → bitAt p.flags 0 = false → s.cip.dist = [] →
      ∃ (t : State) (y : _), exec (.ack p) s = .next t ∧ t.out = s.out ∧ t.ywp.slot? x.n = some y ∧ y.heard = s.clk.cycles ∧ y.peerWindow = p.window ∧
        (∀ q ∈ y.unacked, after p.ackPsn q.psn = false ∧ ∃ q' ∈ x.unacked, q'.psn = q.psn) ∧
        (∀ q ∈ x.unacked, after p.ackPsn q.psn = false → ∃ q' ∈ y.unacked, q'.psn = q.psn)) ∧
    (p.plen = 8 * p.sack.length → p.sack.length ≤ 32 → bitAt p.flags 0 = true → ∃ (t : State) (q : _), exec (.ack p) s = .next t ∧ Output.packet x.n q ∈ t.out ∧ q.typ = 3)) ∧
  (∀ (s : State) (x : Slot) (r : Nat), (s.rttSample x r).rto = min 100000000 (max (s.fget .ywpTimerCtrl_minRtoUs * 1000) ((s.rttSample x r).srtt + 4 * (s.rttSample x r).rttvar)) ∧
    (x.srtt = 0 → (s.rttSample x r).srtt = r ∧ (s.rttSample x r).rttvar = r / 2) ∧
    (x.srtt ≠ 0 → (s.rttSample x r).srtt = (7 * x.srtt + r) / 8 ∧
      (s.rttSample x r).rttvar = (3 * x.rttvar + (if r < x.srtt then x.srtt - r else r - x.srtt)) / 4)) ∧
  (∀ x : Slot, (sackOf x).length ≤ 32) ∧
  (∀ l : List Nat, (l.Pairwise fun a b => a < b) → ((rangesOf l).Pairwise fun a b => a.2 + 1 < b.1) ∧ (∀ r ∈ rangesOf l, r.1 ≤ r.2) ∧
    ∀ k, k ∈ l ↔ ∃ r ∈ rangesOf l, r.1 ≤ k ∧ k ≤ r.2)

/-- Requests of clients (R352, R353, R335, R359). A complete request is answered from its record when one is kept, waits for its running twin, is refused
for want of invocations, or takes a context and is admitted; it waits while an earlier one is before it. A record goes HOLD_MS after it was made.
Choices of the model: log entries 4, 25. -/
def Obligations.RequestsAreDispatchedOnceAndRemembered : Prop :=
  (∀ (s : State) (n id rbuf rq epoch fl : Nat) (d : Desc) (key : Bytes) (b : Bool) (x : Slot) (m : RxMsg), s.ywp.slot? n = some x → s.netOn = true →
    x.state = .opened → x.invoc ≤ 4294901760 → x.rx.find? (fun m => m.msgId == id) = some m → m.head = some (.request d key rbuf rq epoch fl b) →
    let fx : Fetched := { key := key, value := m.body.take d.vlen }
    let d' : Desc := { d with key40 := padTo 40 key, vsglCnt := 0, rsglCnt := 1, rsglInl := { addr := 0, len := rbuf } }
    let need := s.reserveFor (segCount (slotP x) 0 (if usesResult d.opc then rbuf else 0))
    let fresh := decide (rq ≠ 0) && leavesRecord d' fx
    ((s.hasFlash = false ∨ m.complete = false ∨ m.taken = true ∨ m.ended = true ∨ reqBehind x m d' key = true ∨ (s.isMember = true ∧ s.town.epoch < epoch)) →
      ∃ t : State, exec (.requestDispatch n id) s = .next t ∧ t.ywp = s.ywp ∧ t.kv = s.kv ∧ t.out = s.out) ∧
    (s.hasFlash = true → m.complete = true → m.taken = false → m.ended = false → reqBehind x m d' key = false → (s.isMember = false ∨ epoch ≤ s.town.epoch) →
      (∀ r, fresh = true → s.ywp.records.find? (fun r => r.identity == x.identity && r.tenant == x.tenant && r.reqNo == rq) = some r →
        ∃ (t : State) (y : _), exec (.requestDispatch n id) s = .next t ∧ t.kv = s.kv ∧ t.fget .ywpDedupStat_hits = satAdd Fld.ywpDedupStat_hits.w (s.fget .ywpDedupStat_hits) 1 ∧
          t.ywp.slot? n = some y ∧ ∃ e ∈ y.tx, e.head = .reply d.opc r.status r.rlen r.body.length r.stamp r.origin id rq ∧ e.body = r.body) ∧
      ((fresh = true → s.ywp.records.find? (fun r => r.identity == x.identity && r.tenant == x.tenant && r.reqNo == rq) = none) →
        (fresh = true → ∀ e ∈ s.kv.ctxs, ¬(e.identity = x.identity ∧ e.reqNo = rq ∧ e.pool = .target)) →
        (4294901760 < x.invoc + reservedOf x + need →
          ∃ (t : State) (y : _), exec (.requestDispatch n id) s = .next t ∧ t.kv = s.kv ∧ t.ywp.slot? n = some y ∧ ∃ e ∈ y.tx, e.head = .reply d.opc 0x0402 0 0 0 0 id rq) ∧
        (x.invoc + reservedOf x + need ≤ 4294901760 → (fresh = true → s.ywp.recordsUsed + reqRecordUnits d' fx.value ≤ 2097152) →
          ∀ c w, s.openTarget n id x.tenant x.identity rq d' fx = some (c, w) →
          exec (.requestDispatch n id) s = .next (settle s (s.within (dataParts ++ [Part.cip]) (dataRegs ++ [RegName.ywpDedupStat])
            (((w.modSlot n fun x => { x with rx := updWhere (fun e => e.msgId == id) (fun e => { e with taken := true, segs := [], res := need }) x.rx,
                                             rxQueue := x.rxQueue - (m.segs.map fun q => q.2.length).sum }).admitCtx c).limitCheck n))))))) ∧
  (∀ (s : State) (n id tenant identity rq : Nat) (d : Desc) (x : Fetched) (c : OpCtx) (w : State), s.openTarget n id tenant identity rq d x = some (c, w) →
    c.src = .sess n id ∧ c.tenant = tenant ∧ c.identity = identity ∧ c.reqNo = rq ∧ c.desc = d ∧ c.fx = x ∧ c.id = s.kv.nextCtx ∧ w.kv.ctxs = s.kv.ctxs ++ [c]) ∧
  (∀ (s : State) (identity rq : Nat) (r : ReqRecord), s.netOn = true → s.ywp.records.find? (fun r => r.identity == identity && r.reqNo == rq) = some r →
    ∃ t : State, exec (.requestRecordExpiry identity rq) s = .next t ∧ t.clk.cycles = max s.clk.cycles (r.made + s.fget .ywpDedupCtrl_holdMs * 600000) ∧
      t.ywp = { s.ywp with records := s.ywp.records.filter fun q => !(q.identity == identity && q.reqNo == rq) })

/-! ### The Town -/

/-- A Town message whose sender's handle is not the current one is discarded and counted in STALE_HANDLE, and one that finds the network side
not running has no effect (R373), but for a REPL_ACK in a flush (R213). Map messages of a lesser term or of no greater epoch are discarded and counted in TERM (R375); REPLICATE and
TRANSFER_DATA wait for a newer epoch (R384), and from a part that is not the Ward's owner, or to one that is no receiver, they are
counted in NOT_OWNER (R391, R404).
Choices of the model: log entry 93. -/
def Obligations.TownMessagesAreJudged : Prop :=
  (∀ (s : State) (m : TMsg), ∀ i ∈ ([.termQuery m, .join m, .joinReply m, .leave m, .heartbeat m, .suspect m, .mapDelta m, .mapAck m, .mapFetch m,
      .mapFull m, .takeover m, .replicate m, .replAck m, .transferData m, .transferReady m, .keyspaceReq m, .forwardedTownControl m, .keyspaceReqAnswer m,
      .keyDist m] : List Instr),
    (((s.netOn = false ∧ (s.linkOn = false ∨ m.tmsg ≠ 0x0B)) ∨ ((s.town.member? (idOf m.sender)).map (fun x => x.handle) ≠ some m.sender ∧ m.tmsg ≠ 0x01 ∧ m.tmsg ≠ 0x0F ∧ s.isMember = true)) →
      ∃ t : State, exec i s = .next t ∧ t.town = s.town ∧ t.kv = s.kv ∧ t.tun = s.tun ∧ t.index = s.index ∧ t.media = s.media ∧ t.ywp = s.ywp ∧ t.cip = s.cip ∧
        t.host = s.host ∧ t.out = s.out ∧ t.ev = s.ev ∧
        (s.netOn = true → t.fget .twnDrop_staleHandle = satAdd Fld.twnDrop_staleHandle.w (s.fget .twnDrop_staleHandle) 1))) ∧
  (∀ (s : State) (m : TMsg) (b : MapBody), Safety.Heard s m → m.body = .map b →
    (∀ i ∈ ([.mapDelta m, .mapFull m] : List Instr),
      (m.term < s.town.term ∨ m.epoch ≤ s.town.epoch ∨ (m.term = s.town.term ∧ m.sender ≠ s.town.hall ∧ s.isMember = true)) →
      ∃ t : State, exec i s = .next t ∧ t.town = s.town ∧ t.out = s.out ∧ t.kv = s.kv ∧ t.fget .twnDrop_term = satAdd Fld.twnDrop_term.w (s.fget .twnDrop_term) 1) ∧
    ((m.term ≤ s.town.term ∨ m.epoch ≤ s.town.epoch) →
      ∃ t : State, exec (.takeover m) s = .next t ∧ t.town = s.town ∧ t.out = s.out ∧ t.kv = s.kv ∧
        t.fget .twnDrop_term = satAdd Fld.twnDrop_term.w (s.fget .twnDrop_term) 1)) ∧
  (∀ (s : State) (m : TMsg), Safety.Heard s m →
    (s.town.epoch < m.epoch → ∀ i ∈ ([.replicate m, .transferData m] : List Instr),
      ∃ t : State, exec i s = .next t ∧ t.town = { s.town with waiting := s.town.waiting ++ [(s.clk.cycles, m)] } ∧ t.out = s.out ∧ t.tun = s.tun) ∧
    (m.epoch ≤ s.town.epoch → (s.wardEntry m.ward).assigned = false ∨ (s.wardEntry m.ward).owner ≠ idOf m.sender →
      (m.tmsg = 0x0A → ∃ t : State, exec (.replicate m) s = .next t ∧ t.tun = s.tun ∧ t.town = s.town ∧ t.fget .twnDrop_notOwner = satAdd Fld.twnDrop_notOwner.w (s.fget .twnDrop_notOwner) 1 ∧
        t.out = s.out ++ Safety.sends s [(idOf m.sender, { tmsg := 0x0B, ward := m.ward, stamp := m.stamp, arg0 := m.arg0, arg1 := m.arg1, status := 0x0500 })]) ∧
      (m.tmsg = 0x0C → ∃ t : State, exec (.transferData m) s = .next t ∧ t.tun = s.tun ∧ t.town = s.town ∧ t.out = s.out ∧
        t.fget .twnDrop_notOwner = satAdd Fld.twnDrop_notOwner.w (s.fget .twnDrop_notOwner) 1)))

/-- Terms, heartbeats and failure (R376, R395 to R397, R401). A candidate's round proposes a term above every one it knows, and alone in its table
it becomes acting Hall; a TERM_QUERY is answered and granted at most once; heartbeats keep a lease, and their absence ends it, raises a
suspicion, and lets the acting Hall, or of it the standby, declare the member FAILED. A read-only member asks the acting Hall once, with a heartbeat,
to move its Wards away (R305).
Choices of the model: log entries 4, 41, 42, 176, 178. -/
def Obligations.TermsHeartbeatsAndFailure : Prop :=
  (∀ s : State, s.netOn = true → s.flag .twnCfg_townEn = true → (s.fget .twnCfg_definedRole = 1 ∨ s.fget .twnCfg_definedRole = 2) → s.isMember = false →
    s.town.state = 1 → s.town.hall = 0 →
    let T := max s.town.term (max ((s.town.granted.map fun g => g.1).getD 0) ((s.town.round.map fun r => r.greatest).getD 0)) + 1
    let from_ := match s.town.round with
      | some r => r.since + 6000000
      | none => if s.fget .twnCfg_definedRole = 2 then s.town.joinSince.getD 0 + 6000000 else 0
    (2 ≤ s.electors.length → ∃ t : State, exec .termRound s = .next t ∧ t.clk.cycles = max s.clk.cycles from_ ∧ t.town.granted = some (T, s.handle) ∧
      t.town.round = some { term := T, since := t.clk.cycles, grants := [s.memberId], answers := [s.memberId] } ∧
      t.out = s.out ++ Safety.sends s ((s.electors.filter fun m => m != s.memberId).map fun m => (m, { tmsg := 0x0F, term := T }))) ∧
    (s.electors.length = 1 → ∃ t : State, exec .termRound s = .next t ∧ t.town.term = T ∧ t.town.hall = s.handle ∧ t.town.standby = 0 ∧ t.town.round = none ∧
      t.town.granted = some (T, s.handle) ∧ s.town.epoch < t.town.epoch)) ∧
  (∀ (s : State) (m : TMsg), s.netOn = true → m.tmsg = 0x0F → s.town.round = none →
    let seen := max s.town.term (s.town.granted.getD (0, 0)).1
    let yes : Prop := s.liveHall = 0 ∧ (seen < m.term ∨ (s.town.term < m.term ∧ s.town.granted = some (m.term, m.sender)))
    (yes → ∃ t : State, exec (.termQuery m) s = .next t ∧ t.town = { s.town with granted := some (m.term, m.sender) } ∧
      t.out = s.out ++ Safety.sends s [(idOf m.sender, { tmsg := 0x0F, term := max 1 seen, flags := 4 })]) ∧
    (¬yes → ∃ t : State, exec (.termQuery m) s = .next t ∧ t.town = s.town ∧
      t.out = s.out ++ Safety.sends s [(idOf m.sender, { tmsg := 0x0F, term := max 1 seen, arg0 := s.liveHall })])) ∧
  (∀ (s : State) (m : TMsg), Safety.Heard s m →
    (∃ t : State, exec (.heartbeat m) s = .next t ∧ (idOf m.sender, s.clk.cycles) ∈ t.town.heard ∧ (∀ h ∈ t.town.heard, h.1 = idOf m.sender → h.2 = s.clk.cycles) ∧
      m.sender ∉ t.town.suspected ∧ t.town.wards = s.town.wards ∧ t.kv = s.kv ∧ (t.town.state = s.town.state ∨ (s.town.state = 3 ∧ t.town.state = 2)) ∧
      (m.sender ∉ s.town.suspected → t.out = s.out) ∧
      (m.sender ∈ s.town.suspected → s.town.role = 1 → s.town.standby ≠ 0 → s.town.standby ≠ s.handle →
        t.out = s.out ++ Safety.sends s [(idOf s.town.hall, { tmsg := 0x05, flags := 1, arg0 := m.sender }), (idOf s.town.standby, { tmsg := 0x05, flags := 1, arg0 := m.sender })])) ∧
    ((s.town.role = 2 ∨ s.town.role = 3) → ∃ t : State, exec (.suspect m) s = .next t ∧ t.town.members = s.town.members ∧
      ∀ r, (m.arg0, r) ∈ t.town.suspects ↔ (if r.1 = idOf m.sender then bitAt m.flags 0 = false ∧ r.2 = s.clk.cycles else (m.arg0, r) ∈ s.town.suspects))) ∧
  (∀ s : State, s.netOn = true → s.isMember = true →
    let beats : List (Nat × TMsg) := ((s.watchers ++ (s.watched.filter fun h => !s.town.suspected.contains h).map idOf).eraseDups.filter fun m => m != s.memberId).map
      fun m => (m, { tmsg := 0x04, arg0 := s.heartArg })
    let asks := s.media.readOnly = true ∧ s.town.state = 2 ∧ s.frozen = false ∧ s.reach s.town.hall = true ∧ s.town.asked ≠ some s.town.hall
    (¬asks → ∃ t : State, exec .heartbeatSend s = .next t ∧ t.clk.cycles = max s.clk.cycles (s.town.heartAt + s.fget .twnHbCtrl_periodUs * 600) ∧
      t.town = { s.town with heartAt := t.clk.cycles } ∧ t.out = s.out ++ Safety.sends s beats) ∧
    (asks → s.acting = false → ∃ t : State, exec .heartbeatSend s = .next t ∧ t.clk.cycles = max s.clk.cycles (s.town.heartAt + s.fget .twnHbCtrl_periodUs * 600) ∧
      t.town = { s.town with heartAt := t.clk.cycles, asked := some s.town.hall } ∧
      t.out = s.out ++ Safety.sends s (beats ++ [(idOf s.town.hall, { tmsg := 0x03, arg0 := 1 })])) ∧
    (asks → s.acting = true → ∃ t : State, exec .heartbeatSend s = .next t ∧ idOf s.handle ∈ t.town.emptying ∧ t.town.asked = some s.town.hall) ∧
    (∀ h, s.watched.contains h = true → s.town.suspected.contains h = false → s.town.role = 1 → s.town.hall ≠ h → s.town.standby ≠ 0 → s.town.standby ≠ h → s.town.standby ≠ s.handle →
      ∃ t : State, exec (.heartbeatMiss h) s = .next t ∧ t.town = { s.town with suspected := s.town.suspected ++ [h] } ∧
        t.clk.cycles = max s.clk.cycles (((s.town.heard.find? fun x => x.1 == idOf h).map fun x => x.2).getD 0 + s.fget .twnHbCtrl_missUs * 600) ∧
        t.out = s.out ++ Safety.sends s [(idOf s.town.hall, { tmsg := 0x05, arg0 := h }), (idOf s.town.standby, { tmsg := 0x05, arg0 := h })]) ∧
    (∀ e, s.leaseEnd = some e → (s.town.state = 2 ∨ s.town.state = 4) → ∃ t : State, exec .leaseLapse s = .next t ∧ t.clk.cycles = max s.clk.cycles e ∧
      t.town = { s.town with state := 3 } ∧ t.ev = ((s.waitCycle e).report .fenced).ev)) ∧
  (∀ (s : State) (h hall standby : Nat), ∀ e ∈ (s.failBody h hall standby).wards, ¬(e.assigned = true ∧ e.owner = idOf h) ∧ idOf h ∉ e.reps) ∧
  (∀ (s : State) (h : Nat) (m : Member), s.netOn = true → s.frozen = false → s.town.member? (idOf h) = some m → m.handle = h → m.state = 2 →
    let times := sortBy id ((s.town.suspects.filter fun x => x.1 == h && m.watchers.contains x.2.1).map fun x => x.2.2)
    let due := times.getD (m.watchers.length / 2) 0 + (s.fget .twnHbCtrl_leaseUs + s.fget .twnHbCtrl_guardUs) * 600
    m.watchers.length / 2 + 1 ≤ times.length →
    (Safety.ByStandby s → h ≠ s.handle → h ≠ s.town.standby → ∃ t : State, exec (.memberFailedDeclare h) s = .next t ∧ t.clk.cycles = max s.clk.cycles due ∧
      Safety.ToStandby s s.out (s.failBody h s.town.hall s.town.standby) t ∧ (∀ x ∈ t.town.suspects, x.1 ≠ h) ∧ t.town.wards = s.town.wards) ∧
    (s.town.role = 3 → s.town.state ≠ 3 → h = s.town.hall → ∃ t : State, exec (.memberFailedDeclare h) s = .next t ∧ t.clk.cycles = max s.clk.cycles due ∧
      t.town.term = s.town.term + 1 ∧ t.town.hall = s.handle ∧ t.town.standby = 0 ∧ s.town.epoch < t.town.epoch))

/-- Joining, leaving and the map (R375, R377 to R380, R383, R384, R401, R402). The acting Hall answers JOIN with JOIN_REPLY and MAP_FULL, or refuses it
by R379; a change goes to the standby first; a part applies what follows its epoch and acknowledges it, and fetches the map otherwise.
Choices of the model: log entries 43, 93, 178. -/
def Obligations.MembersJoinAndFollowTheMap : Prop :=
  (∀ (s : State) (m : TMsg) (x : Member), Safety.Heard s m → s.acting = true → s.frozen = false → m.body = .member x →
    (∀ st, s.joinRefused x = some st → ∃ t : State, exec (.join m) s = .next t ∧ t.town = s.town ∧ t.out = s.out ++ Safety.sends s [(idOf m.sender, { tmsg := 0x02, status := st })]) ∧
    (s.joinRefused x = none → ∃ (t : State) (b : _), exec (.join m) s = .next t ∧ { x with state := 1, watchers := [] } ∈ t.town.members ∧ t.town.epoch = s.town.epoch ∧
      b.members = t.town.members ∧ b.wards = s.town.wards ∧ b.keyspaces = s.kv.keyspaces ∧
      s.out ++ Safety.sends s [(idOf m.sender, { tmsg := 0x02 }), (idOf m.sender, { tmsg := 0x09, body := .map b })] <+: t.out)) ∧
  (∀ (s : State) (x : Member),
    (s.joinRefused x = some 0x0507 ↔ ∃ e, s.town.member? (idOf x.handle) = some e ∧
      (((e.state = 1 ∨ e.state = 2) ∧ e.handle ≠ x.handle) ∨ e.handle = x.handle ∨ e.state = 4)) ∧
    (s.joinRefused x = none → max x.yMin (s.fget .ywpCtrl_verMin) ≤ min x.yMax (s.fget .ywpCtrl_verMax) ∧ x.fMin ≤ s.town.level ∧ s.town.level ≤ x.fMax ∧ x.certOk = true) ∧
    ∀ st, s.joinRefused x = some st → st = 0x0507 ∨ st = 0x0503 ∨ st = 0x0400) ∧
  (∀ (s : State) (m : TMsg), Safety.Heard s m →
    (s.town.state = 1 → m.status = 0 → ∃ t : State, exec (.joinReply m) s = .next t ∧ t.town = { s.town with hall := m.sender, term := max s.town.term m.term }) ∧
    (s.town.state = 1 → m.status ≠ 0 → ∃ t : State, exec (.joinReply m) s = .next t ∧ t.town.state = 5 ∧ t.town.role = 0 ∧ t.town.joinSince = none ∧
      (s.town.joinCtx = none → t.ev = (s.report .joinRefused m.status).ev ∧ t.out = s.out) ∧
      ∀ c f n, s.town.joinCtx = some c.id → s.kv.ctx? c.id = some c → c.src = .ring f n → c.orphan = false →
        Safety.Finishes s c f n { status := m.status } t) ∧
    (Safety.ByStandby s → m.arg0 ≠ 1 → (m.sender = s.town.standby ∨ m.sender = s.town.hall) → ∃ t : State, exec (.leave m) s = .next t ∧ t.town = s.town ∧ t.out = s.out) ∧
    (Safety.ByStandby s → m.arg0 ≠ 1 → m.sender ≠ s.town.standby → m.sender ≠ s.town.hall →
      let u : State := { s with town := { s.town with leaving := [idOf m.sender] } }
      let ts := u.emptyMember s.town.wards s.town.transfers (idOf m.sender)
      ((s.town.wards.all fun e => !(e.assigned && e.owner == idOf m.sender) && !e.reps.contains (idOf m.sender)) = true →
        ∃ (t : State) (b : _), exec (.leave m) s = .next t ∧ Safety.ToStandby s s.out b t ∧ t.town.leaving = [] ∧ b.members.map (fun x => x.handle) = s.town.members.map (fun x => x.handle) ∧
          ∀ x ∈ b.members, idOf x.handle = idOf m.sender → x.state = 4) ∧
      ((s.town.wards.any fun e => (e.assigned && e.owner == idOf m.sender) || e.reps.contains (idOf m.sender)) = true →
        ∃ t : State, exec (.leave m) s = .next t ∧ t.town.leaving = [idOf m.sender] ∧
          (ts ≠ s.town.transfers → ∃ b, Safety.ToStandby s s.out b t ∧ b.transfers = some ts))) ∧
    (Safety.ByStandby s → m.arg0 = 1 →
      let u : State := { s with town := { s.town with
        emptying := if s.town.emptying.contains (idOf m.sender) then s.town.emptying else s.town.emptying ++ [idOf m.sender] } }
      let ts := u.emptyMember s.town.wards s.town.transfers (idOf m.sender)
      ∃ t : State, exec (.leave m) s = .next t ∧ t.town.leaving = [] ∧ t.town.emptying = u.town.emptying ∧ (ts = s.town.transfers → t.out = s.out) ∧
        (ts ≠ s.town.transfers → ∃ b, Safety.ToStandby s s.out b t ∧ b.transfers = some ts))) ∧
  (∀ (s : State) (m : TMsg) (b : MapBody), Safety.Heard s m → m.body = .map b → s.town.epoch < m.epoch →
    (s.town.term < m.term ∨ (m.term = s.town.term ∧ (m.sender = s.town.hall ∨ s.isMember = false)) →
      (m.arg0 = s.town.epoch → ∃ (t : State) (a : _), exec (.mapDelta m) s = .next t ∧ t.town.epoch = m.epoch ∧ t.town.term = m.term ∧ t.town.hall = b.hall ∧ t.town.standby = b.standby ∧
        Output.town (idOf m.sender) a ∈ t.out ∧ a.tmsg = 7 ∧ a.epoch = m.epoch) ∧
      (m.arg0 ≠ s.town.epoch → ∃ (t : State) (a : _), exec (.mapDelta m) s = .next t ∧ t.town = { s.town with term := m.term } ∧ t.out = s.out ++ [Output.town (idOf m.sender) a] ∧ a.tmsg = 8) ∧
      (∃ (t : State) (a : _), exec (.mapFull m) s = .next t ∧ m.epoch ≤ t.town.epoch ∧ m.term ≤ t.town.term ∧ Output.town (idOf m.sender) a ∈ t.out ∧ a.tmsg = 7 ∧ a.epoch = m.epoch ∧
        (m.arg1 ≠ 1 → t.town.epoch = m.epoch ∧ t.town.term = m.term ∧ t.town.wards = b.wards ∧ t.town.members = b.members ∧ t.town.transfers = b.transfers.getD [] ∧
          t.town.hall = b.hall))) ∧
    (s.town.term < m.term →
      (m.arg0 = s.town.epoch → ∃ (t : State) (a : _), exec (.takeover m) s = .next t ∧ t.town.epoch = m.epoch ∧ t.town.term = m.term ∧ t.town.hall = b.hall ∧
        Output.town (idOf m.sender) a ∈ t.out ∧ a.tmsg = 7 ∧ a.epoch = m.epoch) ∧
      (m.arg0 ≠ s.town.epoch → ∃ (t : State) (a : _), exec (.takeover m) s = .next t ∧ t.town = { s.town with term := m.term, hall := m.sender, publish := [] } ∧
        t.out = s.out ++ [Output.town (idOf m.sender) a] ∧ a.tmsg = 8))) ∧
  (∀ (s : State) (m : TMsg), Safety.Heard s m → s.acting = true →
    (∃ t : State, exec (.mapFetch m) s = .next t ∧ t.town = s.town ∧ t.out = s.out ++ Safety.sends s [(idOf m.sender, { tmsg := 0x09, epoch := s.town.epoch, body := .map s.fullMap })]) ∧
    (∀ x, Safety.ByStandby s → s.town.publish = [] → s.town.returning = none → m.sender ≠ s.town.standby → s.town.member? (idOf m.sender) = some x → x.state = 1 → x.handle = m.sender →
      ∃ (t : State) (b : _), exec (.mapAck m) s = .next t ∧ Safety.ToStandby s s.out b t ∧ ∃ y ∈ b.members, y.handle = m.sender ∧ y.state = 2) ∧
    (∀ p a d, s.town.publish = [p] → p.sentAll = true → p.epoch ≤ m.epoch → p.waiting = [idOf m.sender] → p.answer = some (d, a) → p.ctx = none → s.town.returning = none →
      (∀ x, s.town.member? (idOf m.sender) = some x → x.state ≠ 1) →
      ∃ t : State, exec (.mapAck m) s = .next t ∧ t.town = { s.town with publish := [] } ∧ t.out = s.out ++ Safety.sends s [(d, a)])) ∧
  (∀ (s : State) (t₀ : Nat) (x : TMsg) (l : List (Nat × TMsg)), s.netOn = true → s.town.waiting = (t₀, x) :: l →
    ∃ t : State, exec .epochWaitTimeout s = .next t ∧ t.clk.cycles = max s.clk.cycles (t₀ + 600000) ∧ t.town = s.town ∧ t.out = s.out ++ Safety.sends s [(idOf s.town.hall, { tmsg := 0x08 })])

/-- Replication, transfers and forwarded commands (R33, R34, R388, R390, R391, R403 to R407). A receiver acknowledges what it has written, and once more
what it holds; changes that find no Town context wait in their session's queue, and those that find no room in the Tun, or an earlier change
of one of their keys, wait in a context; the last acknowledgement ends the wait; a copied Ward is cut or reported ready; and the acting Hall answers forwarded commands,
which end with PEER_UNREACHABLE or TOWN_FROZEN where it cannot be reached.
Choices of the model: log entries 49, 93, 142. -/
def Obligations.WardsAreReplicatedAndMoved : Prop :=
  (∀ (s : State) (m : TMsg), Safety.Heard s m → m.epoch ≤ s.town.epoch → m.tmsg = 0x0A → s.receiverOf m.ward m.sender = true →
    (s.townFree (idOf m.sender) = false → ∃ t : State, exec (.replicate m) s = .next t ∧ Safety.HeldChange s m .queue t) ∧
    (s.townFree (idOf m.sender) = true → ∀ es r, m.body = .repl es r →
      (∀ w, s.changeBehind s.kv.nextCtx es = false → s.takeEntries m.sender es = some w →
        ∃ t : State, exec (.replicate m) s = .next t ∧ t.tun = w.tun ∧
          t.ywp.records = s.ywp.records ++ r.toList.filter (fun r => !(s.ywp.records.any fun q => q.identity == r.identity && q.reqNo == r.reqNo)) ∧
          t.out = s.out ++ Safety.sends s [(idOf m.sender, { tmsg := 0x0B, ward := m.ward, stamp := m.stamp })]) ∧
      ((s.changeBehind s.kv.nextCtx es = true ∨ s.takeEntries m.sender es = none) → ∃ t : State, exec (.replicate m) s = .next t ∧ Safety.HeldChange s m .town t)) ∧
    (s.townFree (idOf m.sender) = true → ∀ h k key dl off b, m.body = .piece h k key dl off b →
      (∀ w, s.takePiece s.kv.nextCtx m h k key dl off b = some w → ∃ t : State, exec (.replicate m) s = .next t ∧ t.media = w.media ∧ t.kv = w.kv ∧ t.town = w.town ∧
        t.tun = w.tun ∧ t.out = w.out) ∧
      (s.takePiece s.kv.nextCtx m h k key dl off b = none → ∃ t : State, exec (.replicate m) s = .next t ∧ Safety.HeldChange s m .town t))) ∧
  (∀ (s : State) (m : TMsg) (es : List TunEntry),
    (∀ w, s.takeEntries m.sender es = some w → (∀ e ∈ es, e.kind = .batchRecord ∨ s.holdsVersion e = true) → w.tun = s.tun) ∧
    (∀ w e, s.takeEntries m.sender es = some w → es = [e] → e.kind ≠ .batchRecord → w.holdsVersion e = true)) ∧
  (∀ (s : State) (m : TMsg) (es : List TunEntry) (rs : List ReqRecord) (last : Bool), Safety.Heard s m → m.epoch ≤ s.town.epoch → m.tmsg = 0x0C →
    (s.wardEntry m.ward).assigned = true →
    (s.wardEntry m.ward).owner = idOf m.sender → (∃ x ∈ s.town.transfers, x.ward = m.ward ∧ idOf x.target = s.memberId) → m.body = .versions es rs last →
    (s.townFree (idOf m.sender) = false → ∃ t : State, exec (.transferData m) s = .next t ∧ Safety.HeldChange s m .queue t) ∧
    (s.townFree (idOf m.sender) = true → (s.changeBehind s.kv.nextCtx es = true ∨ s.takeEntries m.sender es = none) →
      ∃ t : State, exec (.transferData m) s = .next t ∧ Safety.HeldChange s m .town t) ∧
    (s.townFree (idOf m.sender) = true → s.changeBehind s.kv.nextCtx es = false → ∀ w, s.takeEntries m.sender es = some w →
      ∃ t : State, exec (.transferData m) s = .next t ∧ t.tun = w.tun ∧ t.out = s.out ∧
        t.ywp.records = s.ywp.records ++ rs.filter fun r => !(s.ywp.records.any fun q => q.identity == r.identity && q.reqNo == r.reqNo))) ∧
  (∀ (s : State) (m : TMsg), Safety.Heard s m →
    (m.status = 0x0500 → s.acting = false → ∃ t : State, exec (.replAck m) s = .next t ∧ t.kv = s.kv ∧ t.tun = s.tun ∧
      t.out = s.out ++ Safety.sends s [(idOf s.town.hall, { tmsg := 0x08 })]) ∧
    (∀ c f n, m.status = 0 → m.arg0 = 0 → s.town.offers = [] → s.town.cuts = [] → (∀ x ∈ s.kv.ctxs, x.phase ≠ .pages) →
      s.kv.ctxs.filter (fun x => x.acks.contains (idOf m.sender) && x.stamp == m.stamp) = [c] → s.kv.ctx? c.id = some c → c.acks = [idOf m.sender] → c.batchNo = 0 →
      c.phase = .commit → c.src = .ring f n → c.orphan = false →
      ∃ t : State, exec (.replAck m) s = .next t ∧ (∀ e ∈ t.tun.entries, e.id ∈ c.entries → e.replAck = true) ∧
        (s.passed c.stamp = false → { c with acks := [], clock := true } ∈ t.kv.ctxs ∧ t.out = s.out) ∧ (s.passed c.stamp = true → Safety.Finishes s c f n c.res t))) ∧
  (∀ (s : State) (w : Nat) (x : Transfer), s.netOn = true → s.acting = false → s.wardOwner w = .self → s.town.copied.contains w = false →
    (s.town.transfers.find? fun t => t.ward == w) = some x →
    let data : Nat × TMsg := (idOf x.target, { tmsg := 0x0C, ward := w, body := .versions (s.versionsOf w) s.ywp.records true })
    let ready : Nat × TMsg := (idOf s.town.hall, { tmsg := 0x0D, ward := w })
    let busy := (s.kv.ctxs.any fun c => (!c.acks.isEmpty || c.open_) && (if c.wards.isEmpty then s.ctxWard c == w else c.wards.contains w))
      || s.tun.rows.any fun r => r.intent && wardOf r.digest == w
    (x.move = false → ∃ t : State, exec (.transferCopyDone w) s = .next t ∧ t.out = s.out ++ Safety.sends s [data, ready] ∧ t.town.copied = s.town.copied ++ [w] ∧
      t.town.wards = s.town.wards) ∧
    (x.move = true → s.town.cuts = [] → busy = true → ∃ t : State, exec (.transferCopyDone w) s = .next t ∧ t.out = s.out ++ Safety.sends s [data] ∧
      t.town.cuts = [(w, s.clk.cycles)] ∧ t.town.copied = s.town.copied) ∧
    (x.move = true → s.town.cuts = [] → busy = false → ∃ t : State, exec (.transferCopyDone w) s = .next t ∧ t.out = s.out ++ Safety.sends s [data, ready] ∧
      t.town.copied = s.town.copied ++ [w])) ∧
  (∀ (s : State) (m : TMsg) (x : Transfer), Safety.Heard s m → Safety.ByStandby s → (s.town.transfers.find? fun t => t.ward == m.ward) = some x →
    (s.wardEntry m.ward).owner = idOf m.sender →
    ∃ (t : State) (b : _) (e : _), exec (.transferReady m) s = .next t ∧ Safety.ToStandby s s.out b t ∧ t.town.wards = s.town.wards ∧ e.ward = m.ward ∧
      (e ∈ b.wards ∨ e ∈ s.town.wards) ∧ (∀ y ∈ b.wards, y.ward = m.ward → y = e) ∧
      ((bitAt m.flags 1 = true ∨ (x.move = true ∧ s.mayOwn (idOf x.target) = false)) →
        e.owner = (s.wardEntry m.ward).owner ∧ e.reps = (s.wardEntry m.ward).reps) ∧
      (bitAt m.flags 1 = false → x.move = true → s.mayOwn (idOf x.target) = true → e.owner = idOf x.target ∧ idOf x.target ∉ e.reps ∧ ∀ r ∈ (s.wardEntry m.ward).reps, r ≠ idOf x.target → r ∈ e.reps) ∧
      (bitAt m.flags 1 = false → x.move = false → e.owner = (s.wardEntry m.ward).owner ∧
        e.reps = ((s.wardEntry m.ward).reps.filter fun r => !s.town.closing.contains r) ++ [idOf x.target])) ∧
  (∀ (s : State) (w : Nat) (c : Nat × Nat), s.netOn = true → s.acting = false → s.town.copied.contains w = false → (s.town.cuts.find? fun c => c.1 == w) = some c →
    ∃ t : State, exec (.cutTimeout w) s = .next t ∧ t.clk.cycles = max s.clk.cycles (c.2 + 3000000) ∧ t.town = { s.town with cuts := s.town.cuts.filter fun c => c.1 != w } ∧
      t.fget .twnDrop_cutAborts = satAdd Fld.twnDrop_cutAborts.w (s.fget .twnDrop_cutAborts) 1 ∧
      t.out = s.out ++ Safety.sends s [(idOf s.town.hall, { tmsg := 0x0D, flags := 2, ward := w })]) ∧
  (∀ (s : State) (m : TMsg) (f : Nat) (d : Desc), Safety.Heard s m → Safety.ByStandby s → m.body = .command f d →
    let ans := fun (st : Nat) => Safety.sends s [(idOf m.sender, { tmsg := 0x10, arg0 := m.arg0, status := st })]
    (d.opc = 0x81 → (∀ st, s.kspNew f d = .error st → ∃ t : State, exec (.keyspaceReq m) s = .next t ∧ t.town = s.town ∧ t.kv = s.kv ∧ t.out = s.out ++ ans st) ∧
      ∀ k w, s.kspNew f d = .ok (k, w) → ∃ (t : State) (b : _), exec (.keyspaceReq m) s = .next t ∧ Safety.ToStandby s s.out b t ∧ b.keyspaces = [k] ∧ t.kv.keyspaces = s.kv.keyspaces) ∧
    (d.opc = 0x82 → (∀ st, s.kspGoneNew f d = .error st → ∃ t : State, exec (.keyspaceReq m) s = .next t ∧ t.town = s.town ∧ t.kv = s.kv ∧ t.out = s.out ++ ans st) ∧
      ∀ k, s.kspGoneNew f d = .ok k → k.reclaiming = true ∧ ∃ (t : State) (b : _), exec (.keyspaceReq m) s = .next t ∧ Safety.ToStandby s s.out b t ∧ b.keyspaces = [k]) ∧
    (d.opc = 0x8B → (∀ st, s.hallControl d = .error st → ∃ t : State, exec (.forwardedTownControl m) s = .next t ∧ t.town = s.town ∧ t.out = s.out ++ ans st) ∧
      (∀ b, s.hallControl d = .ok (some b) → ∃ t : State, exec (.forwardedTownControl m) s = .next t ∧ Safety.ToStandby s s.out b t) ∧
      (s.hallControl d = .ok none → ∃ t : State, exec (.forwardedTownControl m) s = .next t ∧ t.town.returning = some s.town.standby ∧
        t.out = s.out ++ Safety.sends s [(idOf s.town.standby, { tmsg := 0x09, epoch := s.town.epoch + 1, arg1 := 1, body := .map s.fullMap })]))) ∧
  (∀ (s : State) (c : OpCtx) (f n : Nat), s.kv.ctx? c.id = some c → c.src = .ring f n → c.orphan = false →
    (∀ m, Safety.Heard s m → m.arg0 = c.id → c.phase = .admin → c.pool = .admin → (c.desc.opc = 0x81 ∨ c.desc.opc = 0x82 ∨ c.desc.opc = 0x8B) →
      ∃ t : State, exec (.keyspaceReqAnswer m) s = .next t ∧ Safety.Finishes s c f n { status := m.status, rstamp := if m.status = 0 then m.stamp else 0 } t) ∧
    (s.ready = true → c.phase = .noOwner → c.pool ≠ .admin → ∃ t : State, exec (.ownerRetryTimeout c.id) s = .next t ∧ Safety.Finishes s c f n { status := 0x0501 } t ∧
      t.clk.cycles = max s.clk.cycles (c.since + s.fget .twnRetryCtrl_retryMs * 600000)) ∧
    (s.ready = true → c.pool = .admin → (c.phase = .noOwner ∨ s.hallLost c = true ∨ (s.town.joinCtx = some c.id ∧ s.town.state = 1)) →
      ∃ t : State, exec (.hallUnreachableTimeout c.id) s = .next t ∧ Safety.Finishes s c f n { status := if s.frozen then 0x0505 else 0x0501 } t ∧
        t.clk.cycles = max s.clk.cycles (c.since + s.fget .twnRetryCtrl_retryMs * 600000)))

/-- TOWN_CONTROL (R414, R416). JOIN takes a new incarnation and seeks the acting Hall; LEAVE asks it; REMOVE, MOVE and HALL_RETURN are done here by the
acting Hall, go to it, or wait for it; a frozen Town ends each with TOWN_FROZEN, and a part that is not LIVE with NOT_MEMBER.
Choices of the model: log entry 24. -/
def Obligations.TownControlActsByItsAction : Prop :=
  ∀ (s : State) (f : Nat) (d : Desc) (x : Fetched) (a : Nat) (i : Instr),
    (a, i) ∈ ([(1, .townJoin f d x), (2, .townLeave f d x), (3, .townRemove f d x), (4, .townMove f d x), (5, .townHallReturn f d x)] : List (Nat × Instr)) → s.mayFetch f 64 = true →
    let d' : Desc := { d with key40 := padTo 40 (BitVec.ofNat 8 a :: d.key40.drop 1) }
    let c := s.ringCtx f 64 { d' with opc := 0x8B } x .held
    let u := s.fetchOne f 64 { d' with opc := 0x8B } x .held
    let bad := townBad c.desc || (a == 1 && (!s.flag .twnCfg_townEn || s.crossingFails)) || (a == 2 && s.isMember && (s.town.hall == s.handle || s.town.standby == s.handle))
    u.adminBusy c = false →
    (∀ st, adminRefused c true bad 0 = some st → ∃ t : State, exec i s = .next t ∧ Safety.Ends u f 64 d' x c.id { status := st } [] t ∧ t.town = s.town) ∧
    (adminRefused c true bad 0 = none →
      (s.frozen = true → ∃ t : State, exec i s = .next t ∧ Safety.Ends u f 64 d' x c.id { status := 0x0505 } [] t ∧ t.town = s.town) ∧
      (s.frozen = false → (if a = 1 then s.town.state = 1 ∨ s.town.state = 2 else s.town.state ≠ 2) →
        ∃ t : State, exec i s = .next t ∧ Safety.Ends u f 64 d' x c.id { status := 0x0506 } [] t ∧ t.town = s.town) ∧
      (s.frozen = false → a = 1 → s.town.state ≠ 1 → s.town.state ≠ 2 →
        ∃ t : State, exec i s = .next t ∧ t.town.state = 1 ∧ t.town.joinCtx = some c.id ∧ t.town.joinSince = some s.clk.cycles ∧ t.ywp.reqNo = 1 ∧
          t.town.incarnation = (if (s.town.incarnation + 1) % 262144 = 0 then 1 else s.town.incarnation + 1) ∧
          (s.fget .twnCfg_definedRole ≠ 0 → t.out = s.out ∧ t.town.hall = 0) ∧
          (∀ y, s.fget .twnCfg_definedRole = 0 → s.slotTo (s.fget .twnCfg_hallId) = some y → ∃ m, t.out = s.out ++ [Output.town (idOf y.identity) m] ∧ m.tmsg = 1 ∧
            m.sender = s.memberId + t.town.incarnation * 16384 ∧ t.town.hall = y.identity)) ∧
      (s.frozen = false → a = 2 → s.town.state = 2 → ∃ t : State, exec i s = .next t ∧ t.town = { s.town with state := 4, joinCtx := some c.id } ∧
        t.out = s.out ++ Safety.sends s [(idOf s.town.hall, { tmsg := 0x03 })]) ∧
      (s.frozen = false → 3 ≤ a → s.town.state = 2 →
        (s.acting = false → s.reach s.town.hall = true → ∃ t : State, exec i s = .next t ∧ t.town = s.town ∧
          t.out = s.out ++ Safety.sends s [(idOf s.town.hall, { tmsg := 0x10, arg0 := c.id, body := .command f c.desc })]) ∧
        (s.acting = false → s.reach s.town.hall = false → ∃ t : State, exec i s = .next t ∧ t.town = s.town ∧ t.out = s.out ∧ ∃ e ∈ t.kv.ctxs, e.id = c.id ∧ e.phase = .noOwner) ∧
        (Safety.ByStandby s → (∀ st, s.hallControl c.desc = .error st → ∃ t : State, exec i s = .next t ∧ Safety.Ends u f 64 d' x c.id { status := st } [] t) ∧
          (∀ b, s.hallControl c.desc = .ok (some b) → ∃ t : State, exec i s = .next t ∧ Safety.ToStandby s s.out b t) ∧
          (s.hallControl c.desc = .ok none → ∃ t : State, exec i s = .next t ∧ t.town.returning = some s.town.standby)))) ∧
    param c.desc 56 1 = a

/-- What the acting Hall does on REMOVE, MOVE and HALL_RETURN (R400, R402, R416): REMOVE takes a FAILED member alone and clears its ORPHAN marks; MOVE takes a
LIVE target with flash that is not the owner, of a Ward not in transfer; HALL_RETURN needs the defined Hall as the LIVE standby.
Choices of the model: log entries 24, 147, 177. -/
def Obligations.TheActingHallJudgesTownControl : Prop :=
  ∀ (s : State) (d : Desc),
    let id := param d 58 2 % 16384
    let w := param d 60 4 % 1048576
    (∀ st, s.hallControl d = .error st → st = 0x0101) ∧
    (param d 56 1 = 3 → (∃ m, s.town.member? id = some m ∧ m.state = 3) → ∃ b, s.hallControl d = .ok (some b) ∧ (∀ m ∈ b.members, idOf m.handle = id → m.state = 4) ∧
      (∀ e ∈ b.wards, e.orphan = false) ∧ ∀ e ∈ s.town.wards, e.orphan = true → e.orphanOf = id → { e with orphan := false, orphanOf := 0 } ∈ b.wards) ∧
    (param d 56 1 = 3 → (∀ m, s.town.member? id = some m → m.state ≠ 3) → s.hallControl d = .error 0x0101) ∧
    (param d 56 1 = 4 → (∀ m, s.town.member? id = some m → m.state ≠ 2 ∨ m.luns = 0 ∨ ((s.wardEntry w).assigned = true ∧ (s.wardEntry w).owner = id) ∨ (∃ t ∈ s.town.transfers, t.ward = w)) →
      s.hallControl d = .error 0x0101) ∧
    (∀ m, param d 56 1 = 4 → s.town.member? id = some m → m.state = 2 → m.luns ≠ 0 → (∀ t ∈ s.town.transfers, t.ward ≠ w) → s.town.transfers.length < 4096 →
      ((s.wardEntry w).assigned = true → (s.wardEntry w).owner ≠ id → ∃ b, s.hallControl d = .ok (some b) ∧
        b.transfers = some (s.town.transfers ++ [{ ward := w, move := true, target := m.handle }]) ∧ b.wards = [{ (s.wardEntry w) with transfer := true }]) ∧
      ((s.wardEntry w).assigned = false → ∃ b, s.hallControl d = .ok (some b) ∧ b.wards = [{ (s.wardEntry w) with owner := id, assigned := true }])) ∧
    (param d 56 1 = 5 → (s.hallControl d = .ok none ↔ s.town.standby ≠ 0 ∧ idOf s.town.standby = s.fget .twnCfg_hallId))

/-! ### Time -/

/-- The counter follows its masters and never goes back (R424, R427, R428, R430 to R432). An accepted update steps it by m − a − 8 ns, slews it,
or, where it may be ahead, slows it and leaves ε infinite; STATE moves as R432 says; a rejected update is counted. Announce messages fill the
foreign master list, and the selected master's silence, or that of its updates, ends in HOLDOVER. PPS and PTP's own messages (R426, R432, R444 to R446). An edge of PPS_IN is timestamped, one within half a second is ignored; the edge that PTP_TOD_SET
names sets the counter to its lower edge and begins PPS, but never backward; 1.5 s without an edge ends it. PPS_OUT rises where the counter
+ ε / 2 crosses a second and falls after its width; a master's messages carry the counter + ε / 2, and a slave's requests the counter, each with TX_NS.
Choices of the model: log entries 4, 12, 44. -/
def Obligations.TheCounterFollowsItsMastersAndPps : Prop :=
  (∀ (s : State) (master : Nat) (m : Int) (path : Nat), s.ptpOn = true → s.flag .ptpServoCtrl_servoEn = true → s.time.state ≠ 4 →
    (s.time.master = some master ∨ s.time.state = 3) →
    let a := s.fget .ptpEpsCtrl_asymNs + 4
    let step := s.fget .ptpServoCtrl_stepNs
    let slew := s.fget .ptpServoCtrl_slewPpm
    let stepped : Prop := (step : Int) < m ∧ (a : Int) + 8 ≤ m
    (s.pathRejects path a = true → ∃ t : State, exec (.ptpSyncExchange master m path) s = .next t ∧ t.clk = s.clk ∧
      t.time = { s.time with rejects := s.time.rejects + 1, streak := 0 } ∧ t.fget .ptpStat_rejects = satAdd Fld.ptpStat_rejects.w (s.fget .ptpStat_rejects) 1) ∧
    (s.pathRejects path a = false → ∃ t : State, exec (.ptpSyncExchange master m path) s = .next t ∧ s.clk.tai ≤ t.clk.tai ∧ t.clk.cycles = s.clk.cycles ∧ t.time.a = a ∧
      t.time.updated = some s.clk.cycles ∧ t.time.rejects = 0 ∧ t.time.master = s.time.master ∧
      (stepped → t.clk.tai = s.clk.tai + (m - a - 8).toNat * 4294967296 ∧ t.time.m = a + 8 ∧ t.time.epsInf = false) ∧
      (¬stepped → t.clk.tai = s.clk.tai ∧ t.time.m = m) ∧
      (m < a → t.time.epsInf = true ∧ t.fget .ptpIncr_fracNs = incrAt (-(slew : Int)) (s.fget .ptpEpsCtrl_epsDriftPpb) % 4294967296) ∧
      (m + a < 0 → t.flag .ptpStat_timeFault = true) ∧ (0 ≤ m + a → t.flag .ptpStat_timeFault = s.flag .ptpStat_timeFault) ∧
      (a ≤ m → m ≤ step → t.time.epsInf = false) ∧
      (s.time.state = 0 → t.time.state = 1 ∧ t.time.streak = 0) ∧ (s.time.state = 2 → t.time.state = 2) ∧ (s.time.state = 3 → t.time.state = 2) ∧
      (s.time.state = 1 → stepped → t.time.state = 1 ∧ t.time.streak = 0) ∧
      (s.time.state = 1 → ¬stepped → s.time.streak = 7 → t.time.state = 2) ∧
      (s.time.state = 1 → ¬stepped → s.time.streak ≠ 7 → t.time.state = 1 ∧ t.time.streak = s.time.streak + 1))) ∧
  (∀ (s : State) (path a : Nat), s.pathRejects path a = true ↔ ∃ f, s.time.path = some f ∧ s.time.rejects < 2 ∧
    (4 * a + s.fget .ptpServoCtrl_stepNs < path - f ∨ 4 * a + s.fget .ptpServoCtrl_stepNs < f - path)) ∧
  (∀ (s : State) (domain : Nat) (a : Foreign), s.ptpOn = true →
    (domain ≠ s.fget .ptpCtrl_domain ∨ a.clockId = s.clockId → ∃ t : State, exec (.ptpAnnounce domain a) s = .next t ∧ t.time = s.time) ∧
    (domain = s.fget .ptpCtrl_domain → a.clockId ≠ s.clockId → ∃ t : State, exec (.ptpAnnounce domain a) s = .next t ∧ t.clk = s.clk ∧ t.time.state = s.time.state ∧
      t.time.foreign = s.time.foreign.filter (fun f => f.clockId != a.clockId) ++
        [{ a with last := s.clk.cycles, prev := (s.time.foreign.find? fun f => f.clockId == a.clockId).map fun f => f.last }] ∧
      (s.fget .ptpCtrl_role = 2 → t.time.master = s.time.master ∧ t.time.portState = s.time.portState) ∧
      ∀ f, s.fget .ptpCtrl_role = 0 → t.time.foreign.filter (fun f => s.qualified f) = [f] → t.time.master = some f.clockId ∧ (t.time.portState = 8 ∨ t.time.portState = 9))) ∧
  (∀ x y : Foreign, betterClock x y = true → betterClock y x = false) ∧
  (∀ s : State, s.ptpOn = true → s.time.state = 2 →
    let heard := (s.time.foreign.find? fun f => some f.clockId == s.time.master).map fun f => f.last + 3 * logCycles (s.fget .ptpCtrl_logAnnounce)
    let quiet := s.time.updated.map fun u => u + 8 * logCycles (s.fget .ptpCtrl_logSync)
    (∀ h, heard = some h → (∀ q, quiet = some q → h ≤ q) → ∃ t : State, exec .announceReceiptTimeout s = .next t ∧ t.clk.cycles = max s.clk.cycles h ∧ t.time.state = 3 ∧
      t.time.master = none ∧ (∀ f ∈ t.time.foreign, some f.clockId ≠ s.time.master) ∧ t.time.portState = (if s.fget .ptpCtrl_role = 1 then 6 else 4)) ∧
    (∀ q, quiet = some q → (∀ h, heard = some h → q < h) → ∃ t : State, exec .announceReceiptTimeout s = .next t ∧ t.clk.cycles = max s.clk.cycles q ∧ t.time.state = 3 ∧
      t.time.master = s.time.master)) ∧
  (∀ s : State, s.alive = true → s.power.pstate ≠ 3 → s.flag .ptpPpsCtrl_inEn = true →
    (∀ e, s.time.lastEdge = some e → s.clk.cycles < e + 300000000 → ∃ t : State, exec .ppsInEdge s = .next t ∧ t.clk = s.clk ∧ t.time = { s.time with ignored := s.time.ignored + 1 } ∧
      t.reg ⟨.ptpPpsTs, 0, 0, 0⟩ = s.reg ⟨.ptpPpsTs, 0, 0, 0⟩) ∧
    ((∀ e, s.time.lastEdge = some e → e + 300000000 ≤ s.clk.cycles) → ∃ t : State, exec .ppsInEdge s = .next t ∧ t.time.lastEdge = some s.clk.cycles ∧
      t.reg ⟨.ptpPpsTs, 0, 0, 0⟩ = timeWord s.clk.tai ∧ t.time.tod = none ∧ s.clk.tai ≤ t.clk.tai ∧
      (s.ptpOn = false ∨ s.fget .ptpCtrl_role ≠ 2 → t.clk = s.clk ∧ t.time.state = s.time.state) ∧
      ∀ sec, s.time.tod = some sec → s.ptpOn = true → s.fget .ptpCtrl_role = 2 →
        let eps := s.fget .ptpPpsCtrl_inEpsNs
        let v := (sec * 1000000000 - eps) * 4294967296
        (0 < sec → s.clk.tai ≤ v → t.clk.tai = v ∧ t.time.state = 4 ∧ t.time.portState = 6 ∧ t.time.m = eps ∧ t.time.a = eps ∧ t.time.epsInf = false) ∧
        (v < s.clk.tai → t.clk.tai = s.clk.tai ∧ t.time.state = s.time.state ∧ t.ev = (s.report .backwardIgnored).ev))) ∧
  (∀ (s : State) (e : Nat), s.alive = true → s.time.lastEdge = some e → s.time.state = 4 → ∃ t : State, exec .ppsLoss s = .next t ∧
    t.clk.cycles = max s.clk.cycles (e + 900000000) ∧ t.time = { s.time with state := 3, portState := 4 }) ∧
  (∀ (s : State) (sec : Nat), s.alive = true → s.power.pstate ≠ 3 → ∃ t : State, exec (.ptpTodSet sec) s = .next t ∧ t.time = { s.time with tod := some (sec % 281474976710656) } ∧ t.clk = s.clk) ∧
  (∀ (s : State) (e : Nat), s.alive = true → s.power.pstate ≠ 3 → s.flag .ptpPpsCtrl_outEn = true → s.time.ppsOut = false →
    (s.epsUnits = none → ∃ t : State, exec .ppsOutEdge s = .next t ∧ t.time = s.time ∧ t.clk = s.clk) ∧
    (s.epsUnits = some e → ∃ t : State, exec .ppsOutEdge s = .next t ∧ t.time = { s.time with ppsOut := true, ppsRise := t.clk.cycles } ∧
      (0 < s.incr → ((s.clk.tai + e / 2) / 4294967296000000000 + 1) * 4294967296000000000 ≤ t.clk.tai + e / 2 ∧
        t.clk.tai + e / 2 < ((s.clk.tai + e / 2) / 4294967296000000000 + 1) * 4294967296000000000 + s.incr))) ∧
  (∀ s : State, s.alive = true → s.time.ppsOut = true → ∃ t : State, exec .ppsOutWidthEnd s = .next t ∧ t.time = { s.time with ppsOut := false } ∧
    t.clk.cycles = max s.clk.cycles (s.time.ppsRise + s.fget .ptpPpsCtrl_outWidthUs * 600)) ∧
  (∀ (s : State) (kind : Nat), s.ptpOn = true →
    let tx := s.clk.tai + s.fget .ptpLat_txNs (s.fget .ptpCtrl_port) * 4294967296
    (s.time.portState = 6 → (kind = 0 ∨ kind = 2) → ∃ t : State, exec (.ptpMessageSend kind) s = .next t ∧ t.out = s.out ++ [Output.ptp kind (timeWord (tx + (s.epsUnits.getD 0) / 2))] ∧ t.time = s.time) ∧
    ((s.time.portState = 8 ∨ s.time.portState = 9) → kind = 1 → ∃ t : State, exec (.ptpMessageSend kind) s = .next t ∧ t.out = s.out ++ [Output.ptp 1 (timeWord tx)] ∧ t.time = s.time))

/-! ### The network -/

/-- A received frame is handled by the first row of R467 that applies, and counted (R465 to R468, R471, R479, R480); in Slumber a frame on
the management port wakes the part when a pattern matches (R489).
Choices of the model: log entries 50, 95, 96. -/
def Obligations.FramesAreReceivedByTheFirstRow : Prop :=
  (∀ (s : State) (p : Nat) (f : Frame), s.macOn = true → s.portExists p = true → (s.port p).link = true →
    let most := s.fget .netPortCtrl_maxFrame p
    let counts := fun (t : State) (c n : Nat) => t.fget .netCnt_count p c = (s.fget .netCnt_count p c + n) % 1099511627776
    let dropped := fun (c : Nat) => ∃ t : State, exec (.frameReceive p f) s = .next t ∧ t.net = s.net ∧ t.out = s.out ∧ t.ev = s.ev ∧ counts t c 1
    let good : Prop := f.room = true ∧ f.fcsOk = true ∧ 64 ≤ f.len ∧ f.len ≤ most
    (f.room = false → dropped 25) ∧
    (f.room = true → f.len ≤ most → f.fcsOk = false → 64 ≤ f.len → dropped 21) ∧
    (f.room = true → f.len ≤ most → f.fcsOk = false → f.len < 64 → dropped 23) ∧
    (f.room = true → f.len ≤ most → f.fcsOk = true → f.len < 64 → dropped 22) ∧
    (f.room = true → 64 ≤ f.len → (f.fcsOk = true ∨ most < f.len) → s.macAccepts p f = false → dropped 26) ∧
    (f.room = true → 64 ≤ f.len → (f.fcsOk = true ∨ most < f.len) → s.macAccepts p f = true → f.ethertype = 0x8808 → dropped 19) ∧
    (f.room = true → 64 ≤ f.len → most < f.len → s.macAccepts p f = true → f.ethertype ≠ 0x8808 → s.flag .netPortCtrl_truncToFw p = false → dropped 24) ∧
    (good → s.macAccepts p f = true → f.ethertype ≠ 0x8808 →
      let here := s.localAddr p f.ip
      let parking : Prop := f.ethertype = 0x88B5 ∧ s.partner p = some f.src ∧ parkFrame f = true
      let timed : Prop := f.ethertype = 0x88F7 ∨ ((f.udp = some 319 ∨ f.udp = some 320) ∧ here = true)
      let ywp : Prop := f.udp = some (s.fget .ywpPort_udpPort) ∧ here = true ∧ (p ≠ 8 ∨ s.flag .netMgmtCtrl_ywpEn = true)
      let full : Prop := s.flag .netFwqCtrl_en p = false ∨ 2 ^ s.fget .netFwqCtrl_depthLog2 p ≤ ((s.port p).rxTail + 65536 - s.fget .netFwqCtrl_rxHead p) % 65536
      (parking → dropped 18) ∧ (¬parking → timed → s.fget .ptpCtrl_port = p → dropped 16) ∧ (¬parking → ¬timed → ywp → dropped 15) ∧
      (¬parking → ¬timed → ¬ywp → full → dropped 25) ∧
      (¬parking → ¬timed → ¬ywp → ¬full → ∃ (t : State) (ts : _), exec (.frameReceive p f) s = .next t ∧
        t.out = s.out ++ [Output.fwFrame p ((s.port p).rxTail % 2 ^ s.fget .netFwqCtrl_depthLog2 p) (f.len - 4) false ts] ∧
        (t.port p).rxTail = ((s.port p).rxTail + 1) % 65536 ∧ (t.port p).queue = (s.port p).queue ∧ counts t 20 f.len ∧ counts t (lenBin f.len) 1 ∧ counts t (11 + dstKind f.dst) 1 ∧
        (f.ethertype ≠ 0x88CC → (t.port p).partner = (s.port p).partner) ∧
        (f.ethertype = 0x88CC → counts t 17 1 ∧ (s.dataPort p = true → ∀ lanes ttl, f.tlv = some (true, lanes, ttl) →
          (t.port p).partner = if lanes = s.fullLanes ∧ ttl ≠ 0 then some (f.src, s.clk.cycles + ttl * 600000000) else none))))) ∧
  (∀ (s : State) (f : Frame), s.alive = true → s.power.pstate = 3 →
    ((∀ i, i < 32 → s.wakeMatch f i = false) → ∃ t : State, exec (.frameReceive 8 f) s = .next t ∧ t.power = s.power ∧ t.net = s.net ∧ t.out = s.out) ∧
    (∀ i, i < 32 → s.wakeMatch f i = true → (∀ j, j < i → s.wakeMatch f j = false) → ∃ t : State, exec (.frameReceive 8 f) s = .next t ∧ t.power.resetType = 1 ∧ t.power.resetCause = 5 ∧
      t.power.stage = 0 ∧ t.power.pstate = 0 ∧ t.fget .netWakeStat_pattern = i ∧ t.flag .netWakeStat_matched = true ∧ t.host.wakeLow = true)) ∧
  (∀ (s : State) (f : Frame) (i : Nat), s.wakeMatch f i = true ↔ s.flag .netWakePat_en i = true ∧ s.fget .netWakePat_mask i ≠ 0 ∧ f.fcsOk = true ∧
    ∀ j, j < 128 → bitAt (s.fget .netWakePat_mask i) j = true → j < f.len ∧ f.bytes.getD j 0 = (leBytes 128 (s.fget .netWakePat_bytes i)).getD j 0)

/-- Links, transmit queues, Crossing schedules and MDIO (R461 to R463, R468, R472 to R478, R508). Bring-up is retried until LINK; a link that goes down
empties its queue into TX_LINK_DROP; failover changes the bank; a frame starts only through an open gate that stays open long enough.
Choices of the model: log entries 4, 94, 100. -/
def Obligations.LinksQueuesAndGates : Prop :=
  (∀ (s : State) (p : Nat), s.macOn = true → s.portExists p = true →
    let counts := fun (t : State) (c n : Nat) => t.fget .netCnt_count p c = (s.fget .netCnt_count p c + n) % 1099511627776
    (∃ t : State, exec (.portEnable p) s = .next t ∧ t.flag .netPortCtrl_enable p = true ∧ (((s.port p).link = true ∨ (s.port p).up = true) → t.port p = s.port p) ∧
      ((s.port p).link = false → (s.port p).up = false → t.port p = { s.port p with up := true, since := s.clk.cycles, lost := s.clk.cycles,
                                                                                     bank := if s.fget .netPortCtrl_bank p = 1 then 1 else 0 })) ∧
    ((s.port p).up = true → (s.port p).link = false → ∃ t : State, exec (.linkUp p) s = .next t ∧ (t.port p).link = true ∧ (t.port p).up = false ∧ (t.port p).cw = 0 ∧ (t.port p).rxCw = 0 ∧
      (t.port p).cwAt = s.clk.cycles ∧ (t.port p).stopped = false ∧ (t.port p).fails = 0 ∧ (t.port p).lanes = s.upLanes p ∧ (t.port p).rxLanes = s.upLanes p ∧
      (t.port p).queue = (s.port p).queue) ∧
    ((s.port p).link = true → ∃ t : State, exec (.linkDown p) s = .next t ∧ (t.port p).link = false ∧ (t.port p).up = true ∧ (t.port p).queue = [] ∧ (t.port p).lanes = 0 ∧
      (t.port p).req = none ∧ (t.port p).txSwitch = none ∧ (t.port p).rxSwitch = none ∧ (t.port p).since = s.clk.cycles ∧ counts t 56 1 ∧ counts t 52 (s.port p).queue.length ∧
      (s.flag .ptpCtrl_enable = true → s.fget .ptpCtrl_port = p → t.time.state = 0 ∧ t.time.epsInf = true) ∧ (s.fget .ptpCtrl_port ≠ p → t.time = s.time ∧ t.ev = (s.report .linkDown p).ev)) ∧
    (s.dataPort p = true → (s.port p).up = true → ∃ t : State, exec (.linkTimeout p) s = .next t ∧ t.clk.cycles = max s.clk.cycles ((s.port p).since + s.fget .netPortCtrl_linkTimeoutMs p * 600000) ∧
      counts t 57 1 ∧ t.port p = { s.port p with link := false, up := true, since := t.clk.cycles }) ∧
    (s.dataPort p = false → ∃ t : State, exec (.linkTimeout p) s = .next t ∧ t.net = s.net ∧ t.clk = s.clk) ∧
    (s.dataPort p = true → (s.port p).up = true → s.fget .netPortCtrl_bank p = 2 → ∃ t : State, exec (.bankFailover p) s = .next t ∧
      t.clk.cycles = max s.clk.cycles ((s.port p).lost + s.fget .netPortCtrl_failMs p * 600000) ∧ counts t 62 1 ∧
      t.port p = { s.port p with link := false, up := true, bank := 1 - (s.port p).bank, lost := t.clk.cycles, since := t.clk.cycles }) ∧
    (∀ tail fs, s.flag .netFwqCtrl_en p = false → ∃ t : State, exec (.fwTransmit p tail fs) s = .next t ∧ t.fget .netFwqCtrl_txTail p = tail % 65536 ∧ t.net = s.net) ∧
    (∀ tail fs, s.flag .netFwqCtrl_en p = true → ∃ t : State, exec (.fwTransmit p tail fs) s = .next t ∧ t.fget .netFwqCtrl_txTail p = tail % 65536 ∧ (t.port p).txHead = tail % 65536 ∧
      (t.port p).queue = (s.port p).queue ++ (fs.take (min ((tail + 65536 - (s.port p).txHead) % 65536) (2 ^ s.fget .netFwqCtrl_depthLog2 p))).map fun f =>
        { f with tc := f.tc % 8, vlan := s.flag .netPortCtrl_vlanEn p, len := max 60 f.len + 4 + if s.flag .netPortCtrl_vlanEn p then 4 else 0 }) ∧
    ((s.port p).link = true →
      (∃ t : State, exec (.txFrameStart p) s = .next t ∧ t.clk.cycles = max s.clk.cycles (s.port p).busyTo ∧
        (t.out = s.out ∨ ∃ f ∈ (s.port p).queue, t.out = s.out ++ [Output.frame p f] ∧ (s.waitCycle (s.port p).busyTo).gateOpen p f.tc = true ∧
          (∀ n, (s.waitCycle (s.port p).busyTo).openFor p f.tc = some n → 10 * frameBits f ≤ n * s.rate10 p) ∧
          (t.port p).busyTo = t.clk.cycles + (frameBits f * 6 + s.rate10 p - 1) / s.rate10 p)) ∧
      (∀ f l, (s.flag .netCrossCtrl_en p = false ∨ p = 8) → (s.port p).queue = f :: l → (∀ k ∈ l, k.tc ≤ f.tc) → f.tc < 8 →
        ∃ t : State, exec (.txFrameStart p) s = .next t ∧ t.out = s.out ++ [Output.frame p f] ∧ (t.port p).queue = l ∧ counts t (32 + lenBin f.len) 1 ∧ counts t 50 f.len))) ∧
  (∀ (s : State) (p : Nat), s.macOn = true → s.dataPort p = true →
    let bank := 1 - (s.port p).sched.bank
    let cyc := s.fget .netCrossCycle_cycleNs p
    let fails := s.flag .twnCfg_townEn && crossFails (s.crossList p bank (s.fget .netCrossCtrl_adminLen p)) cyc
    let base := (s.fget .netCrossBase_sec p * 1000000000 + s.fget .netCrossBase_ns p) * 4294967296
    let c : Sched := { bank := bank, len := s.fget .netCrossCtrl_adminLen p, base := base, cycleNs := cyc }
    (∀ x, (s.port p).change = some x → ∃ t : State, exec (.crossChange p) s = .next t ∧ t.net = s.net ∧ t.town = s.town) ∧
    ((s.port p).change = none → fails = true → ∃ t : State, exec (.crossChange p) s = .next t ∧ t.net = s.net ∧ t.flag .netCrossCtrl_changeErr p = true) ∧
    ((s.port p).change = none → fails = false → s.flag .netCrossCtrl_en p = false → ∃ t : State, exec (.crossChange p) s = .next t ∧ t.port p = { s.port p with sched := c }) ∧
    ((s.port p).change = none → fails = false → s.flag .netCrossCtrl_en p = true → ∃ (t : State) (v : _), exec (.crossChange p) s = .next t ∧ t.port p = { s.port p with change := some (c, v) } ∧
      (∃ k, v = base + k * (cyc * 4294967296)) ∧ (0 < cyc → s.clk.tai + 10000 * 4294967296 < v ∧ (v - cyc * 4294967296 ≤ s.clk.tai + 10000 * 4294967296 ∨ v = base))) ∧
    (∀ x, (s.port p).change = some x → ∃ t : State, exec (.crossChangeTime p) s = .next t ∧ (t.port p).sched = x.1 ∧ (t.port p).change = none ∧ (0 < s.incr → x.2 ≤ t.clk.tai)) ∧
    (s.flag .netCrossCtrl_en p = true → ∃ t : State, exec (.gateEntryAdvance p) s = .next t ∧ (t.port p).gates = gatesAt (t.cyclePos p) (t.operSpans p) ∧ (t.port p).sched = (s.port p).sched)) ∧
  (∀ (s : State) (v : Nat), s.macOn = true →
    (s.net.mdio = none → ∃ (t : State) (w : _), exec (.mdioGo v) s = .next t ∧ t.out = s.out ++ [Output.mdio w] ∧ bits w 0 28 = bits v 0 28 ∧ bits w 32 16 = bits v 32 16 ∧
      t.net.mdio = some (s.clk.cycles + (if bitAt v 26 then 128 else 64) * 24 * s.fget .netMgmtCtrl_mdcDiv)) ∧
    (∀ d, s.net.mdio = some d → ∃ t : State, exec (.mdioGo v) s = .next t ∧ t.out = s.out ∧ t.net = s.net) ∧
    (∀ d, s.net.mdio = some d → ∃ t : State, exec (.mdioDone v) s = .next t ∧ t.clk.cycles = max s.clk.cycles d ∧ t.net.mdio = none ∧
      t.fget .netMgmtMdio_data = (if s.flag .netMgmtMdio_read then v % 65536 else s.fget .netMgmtMdio_data)))

/-- Lane parking (R479 to R487). A quiet port with a partner asks to halve its lanes, and demand asks for all of them; a request is answered by the first
of R484 and R485 that applies; each direction switches at its committed codeword; a failed exchange changes no lane. In Slumber every
wake pattern is checked again each second, and a change of the management link ends Slumber where WAKE_LINK is set (R490, R492).
Choices of the model: log entries 4, 97, 98, 129. -/
def Obligations.LanesAreParkedAndRestored : Prop :=
  (∀ (s : State) (p : Nat) (y : Nat × Nat), s.macOn = true → (s.port p).partner = some y → ∃ t : State, exec (.partnerTtlExpiry p) s = .next t ∧ t.clk.cycles = max s.clk.cycles y.2 ∧
    t.port p = { s.port p with partner := none }) ∧
  (∀ (s : State) (p tx rx : Nat), s.macOn = true → s.dataPort p = true → (s.port p).link = true →
    let w := s.waitCycle ((s.clk.cycles / 600000 + 1) * 600000)
    let pct := s.fget .netParkCtrl_parkPct
    let q := ((s.port p).seq + 1) % 65536
    let x := (w.txCw p + s.leadCw (s.port p).lanes) % 4294967296
    ((pct ≤ tx ∨ pct ≤ rx) → ∃ t : State, exec (.parkEvaluation p tx rx) s = .next t ∧ t.port p = { s.port p with quietAt := w.clk.cycles } ∧ t.clk.cycles = w.clk.cycles ∧ t.out = s.out) ∧
    (tx < pct → rx < pct → w.mayPark p = true → (s.port p).idle = true → ∃ t : State, exec (.parkEvaluation p tx rx) s = .next t ∧
      t.out = s.out ++ [Output.park p 1 { seq := q, lanes := (s.port p).lanes / 2, cause := 0, switchCw := x, src := s.fget .netMacAddr_addr p }] ∧
      (t.port p).req = some { restore := false, seq := q, x := x, lanes := (s.port p).lanes / 2, sentAt := w.clk.cycles } ∧ (t.port p).lanes = (s.port p).lanes) ∧
    (tx < pct → rx < pct → (w.mayPark p && (s.port p).idle) = false → ∃ t : State, exec (.parkEvaluation p tx rx) s = .next t ∧ t.net = s.net ∧ t.out = s.out) ∧
    (∀ kib, (s.port p).lanes < s.fullLanes → s.fget .netParkCtrl_restoreKib < kib → s.power.pstate ≠ 2 →
      ((s.port p).idle = true → ∃ t : State, exec (.restoreDemand p kib tx) s = .next t ∧ (t.port p).lanes = (s.port p).lanes ∧ (t.port p).demand = false ∧
        t.out = s.out ++ [Output.park p 4 { seq := q, lanes := s.fullLanes, cause := 0, switchCw := (s.txCw p + s.leadCw (s.port p).lanes) % 4294967296,
                                            src := s.fget .netMacAddr_addr p }]) ∧
      ((s.port p).idle = false → (∀ r, (s.port p).req = some r → r.restore = false) → ∃ t : State, exec (.restoreDemand p kib tx) s = .next t ∧ (t.port p).demand = true ∧ t.out = s.out))) ∧
  (∀ (s : State) (p : Nat) (m : ParkMsg) (restore : Bool), s.macOn = true → s.dataPort p = true → (s.port p).link = true → s.partner p = some m.src →
    let i : Instr := if restore then .restoreReq p m else .parkReq p m
    let x := s.port p
    let busy : Prop := x.txSwitch ≠ none ∨ x.rxSwitch ≠ none ∨ ∃ r, x.req = some r ∧ r.acked = true
    let prevails : Prop := ∃ r, x.req = some r ∧ ((r.restore = true ∧ restore = false) ∨ (r.restore = restore ∧ m.src < s.fget .netMacAddr_addr p))
    let permitted : Prop := if restore then m.lanes = s.fullLanes else s.mayPark p = true ∧ (m.lanes = 1 ∨ m.lanes = 2 ∨ m.lanes = 4) ∧ m.lanes < x.lanes
    let nak := fun (c : Nat) => ∃ t : State, exec i s = .next t ∧ t.net = s.net ∧
      t.out = s.out ++ [Output.park p 3 { seq := m.seq, lanes := m.lanes, cause := c, switchCw := 0, src := s.fget .netMacAddr_addr p }]
    (busy → nak 1) ∧ (¬busy → prevails → ∃ t : State, exec i s = .next t ∧ t.net = s.net ∧ t.out = s.out) ∧ (¬busy → ¬prevails → ¬permitted → nak 3) ∧
    (¬busy → ¬prevails → permitted → cwAhead m.switchCw (s.rxCw p + 32) false = false → nak 2) ∧
    (¬busy → ¬prevails → permitted → cwAhead m.switchCw (s.rxCw p + 32) false = true → ∃ t : State, exec i s = .next t ∧
      t.port p = { x with req := none, rxSwitch := some (m.switchCw, m.lanes), txSwitch := some ((s.txCw p + s.leadCw x.lanes) % 4294967296, m.lanes) } ∧
      t.out = s.out ++ [Output.park p (if restore then 5 else 2) { seq := m.seq, lanes := m.lanes, cause := 0, switchCw := (s.txCw p + s.leadCw x.lanes) % 4294967296,
                                                                   src := s.fget .netMacAddr_addr p }])) ∧
  (∀ (s : State) (p : Nat) (m : ParkMsg) (r : ParkReq), s.macOn = true → s.dataPort p = true → (s.port p).link = true → s.partner p = some m.src → (s.port p).req = some r →
    r.seq = m.seq → r.acked = false →
    let i : Instr := if r.restore then .restoreAck p m else .parkAck p m
    let early := cwAhead r.x (s.txCw p + 32) true
    (early = true → ∃ t : State, exec i s = .next t ∧ t.out = s.out ∧
      t.port p = { s.port p with req := some { r with acked := true }, txSwitch := some (r.x, r.lanes), rxSwitch := some (m.switchCw, r.lanes) }) ∧
    ((early = false → ∃ t : State, exec i s = .next t ∧ (t.port p).lanes = (s.port p).lanes ∧ (t.port p).txSwitch = (s.port p).txSwitch ∧
      (r.restore = false → (t.port p).fails = (s.port p).fails + 1)) ∧
    ∃ t : State, exec (.nak p m) s = .next t ∧ (t.port p).lanes = (s.port p).lanes ∧ (t.port p).txSwitch = (s.port p).txSwitch ∧
      (r.restore = false → (t.port p).fails = (s.port p).fails + 1 ∧ (2 ≤ (s.port p).fails → (t.port p).stopped = true) ∧ ∀ q, (t.port p).req = some q → q.restore = true) ∧
      (r.restore = true → ∃ q, (t.port p).req = some q ∧ q.restore = true ∧ q.seq = ((s.port p).seq + 1) % 65536 ∧ q.sentAt = r.sentAt))) ∧
  (∀ (s : State) (p c k : Nat), s.macOn = true → s.dataPort p = true → (s.port p).link = true → (s.port p).nextPoint = some (c, k) →
    (∀ v, k = 0 → (s.port p).txSwitch = some v → ∃ t : State, exec (.laneSwitchPoint p) s = .next t ∧ t.clk.cycles = max s.clk.cycles c ∧ (t.port p).lanes = v.2 ∧ (t.port p).rxLanes = (s.port p).rxLanes ∧
      (t.port p).cw = v.1 ∧ (t.port p).cwAt = c ∧ (t.port p).txSwitch = none) ∧
    (∀ v, k = 1 → (s.port p).rxSwitch = some v → ∃ t : State, exec (.laneSwitchPoint p) s = .next t ∧ t.clk.cycles = max s.clk.cycles c ∧ (t.port p).rxLanes = v.2 ∧ (t.port p).lanes = (s.port p).lanes ∧
      (t.port p).rxCw = v.1 ∧ (t.port p).rxCwAt = c ∧ (t.port p).rxSwitch = none)) ∧
  (∀ (s : State) (p : Nat), s.macOn = true → s.dataPort p = true → (s.port p).link = true →
    (∃ t : State, exec (.alignmentRecovery p none) s = .next t ∧ (t.port p).link = false ∧ (t.port p).up = true) ∧
    (∀ n, (n = 1 ∨ n = 2 ∨ n = 4 ∨ n = 8) → n ≤ s.fullLanes → n ≠ (s.port p).rxLanes → ∃ t : State, exec (.alignmentRecovery p (some n)) s = .next t ∧
      t.port p = { s.port p with rxLanes := n, rxCw := s.rxCw p, rxCwAt := s.clk.cycles, rxSwitch := none } ∧
      t.fget .netCnt_count p 60 = (s.fget .netCnt_count p 60 + 1) % 1099511627776 ∧ t.ev = (s.report .parkRecovery p n).ev ∧ t.free = s.free + 1) ∧
    (∀ r, (s.port p).req = some r → r.restore = true → r.acked = false → s.partner p = none → ∃ t : State, exec (.restoreNoAnswer p) s = .next t ∧
      t.clk.cycles = max s.clk.cycles (r.sentAt + 60000) ∧ (t.port p).link = false ∧ (t.port p).up = true ∧ (t.port p).req = none)) ∧
  (∀ s : State, s.alive = true → s.power.pstate = 3 →
    (∃ t : State, exec .wakeCheckReverify s = .next t ∧ t.clk.cycles = max s.clk.cycles (s.net.checkedAt + 600000000) ∧ t.net = { s.net with checkedAt := t.clk.cycles } ∧
      ∀ i, i < 32 → let bad := s.flag .netWakePat_en i = true ∧ s.wakeCrc i ≠ s.fget .netWakePat_check i
        (bad → t.flag .netWakePat_en i = false ∧ bitAt (t.fget .netWakeBad_bad) i = true) ∧
        (¬bad → t.reg ⟨.netWakePat, i, 0, 0⟩ = s.reg ⟨.netWakePat, i, 0, 0⟩ ∧ bitAt (t.fget .netWakeBad_bad) i = bitAt (s.fget .netWakeBad_bad) i)) ∧
    (s.flag .netWakeCtrl_wakeLink = true → ∃ t : State, exec .managementLinkChange s = .next t ∧ Safety.Restarted s t 1 5) ∧
    (s.flag .netWakeCtrl_wakeLink = false → ∃ t : State, exec .managementLinkChange s = .next t ∧ t.power = s.power ∧ t.net = s.net ∧ t.kv = s.kv))

/-! ### The cipher block -/

/-- Tenant keys live in their pages (R515 to R519, R521, R523, R524, R526). A key page command ends with the RESULT of the first check that fails, TRK and WRAP
zeroed, and leaves the slot then unchanged; LOAD_SLOT's key takes its slot with its KCV; a clear empties; another function's page is Unsupported
Request; and KEY_DIST replaces a page whole or not at all.
Choices of the model: log entries 9, 46. -/
def Obligations.TenantKeysLiveInTheirPages : Prop :=
  (∀ (s : State) (f : Nat), s.pageOn f = true →
    let ends := fun (t : State) (op r : Nat) => t.fget .cipKpStat_result f = r ∧ t.fget .cipKpStat_lastOp f = op ∧ t.flag .cipKpStat_done f = true ∧
      t.reg ⟨.cipKpTrk, f, 0, 0⟩ = 0 ∧ t.reg ⟨.cipKpWrap, f, 0, 0⟩ = 0
    let kept := fun (t : State) => t.cip.keys = s.cip.keys ∧ t.cip.trks = s.cip.trks ∧ t.kv = s.kv ∧ t.fget .cipErr_loadRefused = satAdd Fld.cipErr_loadRefused.w (s.fget .cipErr_loadRefused) 1
    (s.keysHere = false → ∀ n, ∀ p ∈ ([(1, .loadTrk f), (2, .loadSlot f n), (3, .clearSlot f n), (4, .clearAll f)] : List (Nat × Instr)),
      ∃ t : State, exec p.2 s = .next t ∧ ends t p.1 1 ∧ kept t ∧ t.out = s.out) ∧
    (s.keysHere = true →
      (∃ t : State, exec (.loadTrk f) s = .next t ∧ ends t 1 0 ∧ t.trkOf f = some (s.reg ⟨.cipKpTrk, f, 0, 0⟩) ∧ t.cip.keys = s.cip.keys ∧ t.flag .cipKpStat_trkLoaded f = true ∧
        ∀ g, g ≠ f → t.trkOf g = s.trkOf g) ∧
      (∀ slot, let n := slot % 64
        let w := s.reg ⟨.cipKpWrap, f, 0, 0⟩
        (s.trkOf f = none → ∃ t : State, exec (.loadSlot f slot) s = .next t ∧ ends t 2 2 ∧ kept t) ∧
        (∀ k, s.trkOf f = some k → Config.keyUnwrap k 72 w = none → ∃ t : State, exec (.loadSlot f slot) s = .next t ∧ ends t 2 3 ∧ kept t) ∧
        (∀ k v, s.trkOf f = some k → Config.keyUnwrap k 72 w = some v → let key := v % 2 ^ 512
          (key % 2 ^ 256 = key / 2 ^ 256 → ∃ t : State, exec (.loadSlot f slot) s = .next t ∧ ends t 2 4 ∧ kept t) ∧
          (key % 2 ^ 256 ≠ key / 2 ^ 256 → s.kcvFits f n (kcvOf 64 key) = false → ∃ t : State, exec (.loadSlot f slot) s = .next t ∧ ends t 2 5 ∧ kept t) ∧
          (key % 2 ^ 256 ≠ key / 2 ^ 256 → s.kcvFits f n (kcvOf 64 key) = true → ∃ t : State, exec (.loadSlot f slot) s = .next t ∧ ends t 2 0 ∧
            t.keyIn f n = some { tenant := f, slot := n, key := key, wrapped := w } ∧ t.trkOf f = s.trkOf f ∧
            t.reg ⟨.cipKpSlotStat, f, n, 0⟩ = 1 + 4294967296 * kcvOf 64 key ∧
            t.reg ⟨.cipKpUse, f, n, 0⟩ = (if (s.keyIn f n).any fun x => x.key == key then s.reg ⟨.cipKpUse, f, n, 0⟩ else 0) ∧
            (∀ g m, ¬(g = f ∧ m = n) → t.keyIn g m = s.keyIn g m) ∧
            t.kv.keyspaces = updWhere (fun k => namesSlot f n k && k.kcv.isNone) (fun k => { k with kcv := some (kcvOf 64 key) }) s.kv.keyspaces)) ∧
        (∃ t : State, exec (.clearSlot f slot) s = .next t ∧ ends t 3 0 ∧ t.keyIn f n = none ∧ t.reg ⟨.cipKpSlotStat, f, n, 0⟩ = 0 ∧ t.trkOf f = s.trkOf f ∧
          ∀ g m, ¬(g = f ∧ m = n) → t.keyIn g m = s.keyIn g m)) ∧
      (∃ t : State, exec (.clearAll f) s = .next t ∧ ends t 4 0 ∧ t.trkOf f = none ∧ (∀ m, t.keyIn f m = none) ∧ ∀ g m, g ≠ f → t.keyIn g m = s.keyIn g m ∧ t.trkOf g = s.trkOf g))) ∧
  (∀ (s : State) (who : Requester) (page : Nat), s.ready = true → who ≠ .func page → ∃ t : State, exec (.keyPageIsolationFault who page) s = .next t ∧ t.out = s.out ++ [Output.unsupported who] ∧
    t.fget .cipErr_isolation = satAdd Fld.cipErr_isolation.w (s.fget .cipErr_isolation) 1 ∧ t.cip = s.cip ∧
    t.ev = (s.report .keyIsolation ((match who with | .func f => f | .sup => 256) + 65536 * page)).ev) ∧
  (∀ (s : State) (m : TMsg), Safety.Heard s m →
    let t₀ := m.arg0 % 256
    ((s.town.role = 2 ∨ m.sender ≠ s.town.hall) → ∃ t : State, exec (.keyDist m) s = .next t ∧ t.cip = s.cip ∧ t.kv = s.kv) ∧
    (s.town.role ≠ 2 → m.sender = s.town.hall →
      (bitAt m.arg0 8 = true → ∃ t : State, exec (.keyDist m) s = .next t ∧ t.trkOf t₀ = none ∧ (∀ n, t.keyIn t₀ n = none) ∧ ∀ g n, g ≠ t₀ → t.keyIn g n = s.keyIn g n) ∧
      (∀ w l x, bitAt m.arg0 8 = false → m.body = .keyPage w l → s.slotTo (idOf m.sender) = some x →
        ((Config.keyUnwrap (s.kdkOf x) 40 w = none ∨ ∃ k, Config.keyUnwrap (s.kdkOf x) 40 w = some k ∧ s.distKeys t₀ (k % 2 ^ 256) l = none) →
          ∃ t : State, exec (.keyDist m) s = .next t ∧ t.cip = s.cip ∧ t.fget .cipErr_loadRefused = satAdd Fld.cipErr_loadRefused.w (s.fget .cipErr_loadRefused) 1 ∧
            t.ev = (s.report .keyDistRefused t₀).ev) ∧
        (∀ k ks, Config.keyUnwrap (s.kdkOf x) 40 w = some k → s.distKeys t₀ (k % 2 ^ 256) l = some ks →
          ∃ t : State, exec (.keyDist m) s = .next t ∧ t.trkOf t₀ = some (k % 2 ^ 256) ∧ (∀ y ∈ t.cip.keys, y.tenant = t₀ → ∃ z ∈ ks, z.slot = y.slot ∧ z.key = y.key) ∧
            (∀ z ∈ ks, (t.keyIn t₀ z.slot).isSome = true) ∧ ∀ g n, g ≠ t₀ → t.keyIn g n = s.keyIn g n))))

/-- Session keys and random bits (R529, R531 to R533, R541, R545, R684, R704). LOAD places a key only where the slot's state lets it and zeroes CIP_SK_DATA; a
health failure uninstantiates the DRBG, and the third within 60 s bars its restart; CIP_RNG and EVT_NONCE draw from it, and read 0 without it.
Choices of the model: log entries 7, 46, 126. -/
def Obligations.SessionKeysAndRandomBits : Prop :=
  (∀ s : State, s.skOn = true →
    let n := s.fget .cipSkSel_session
    let pos := s.fget .cipSkSel_pos
    let dir := s.fget .cipSkSel_dir
    let ends := fun (t : State) (r : Nat) => t.fget .cipSkStat_result = r ∧ t.reg ⟨.cipSkData, 0, 0, 0⟩ = 0
    ((∀ x, s.ywp.slot? n = some x → x.state = .free) →
      (∃ t : State, exec .sessionKeyLoad s = .next t ∧ ends t 2 ∧ t.cip = s.cip) ∧ ∃ t : State, exec .sessionKeyErase s = .next t ∧ ends t 2 ∧ t.cip = s.cip) ∧
    (∀ x, s.ywp.slot? n = some x → x.state ≠ .free →
      (¬(x.state = .handshake ∨ (x.state = .opened ∧ pos = 1)) → ∃ t : State, exec .sessionKeyLoad s = .next t ∧ ends t 1 ∧ t.cip = s.cip) ∧
      ((x.state = .handshake ∨ (x.state = .opened ∧ pos = 1)) → ∃ (t : State) (k : _), exec .sessionKeyLoad s = .next t ∧ ends t 0 ∧ k ∈ t.cip.sk ∧ k.slot = x.n ∧ k.dir = dir ∧ k.pos = pos ∧
        k.gen = (if pos = 2 then 0 else s.fget .cipSkSel_gen) ∧ k.key = s.fget .cipSkData_key ∧ k.iv = s.fget .cipSkData_ivBase ∧
        (∀ y ∈ t.cip.sk, y.slot = x.n → y.dir = dir → y.pos = pos → y = k) ∧ ∀ y ∈ s.cip.sk, ¬(y.slot = x.n ∧ y.dir = dir ∧ y.pos = pos) → y ∈ t.cip.sk) ∧
      (∃ t : State, exec .sessionKeyErase s = .next t ∧ ends t 0 ∧ t.cip.sk = s.cip.sk.filter fun k => !decide (k.slot = x.n ∧ k.dir = dir ∧ k.pos = pos)))) ∧
  (∀ s : State, s.skOn = true →
    (∃ t : State, exec .entropyHealthFail s = .next t ∧ t.flag .cipDrbgStat_ready = false ∧ t.flag .cipDrbgStat_failed = true ∧
      t.fget .cipDrbgStat_fails = satAdd Fld.cipDrbgStat_fails.w (s.fget .cipDrbgStat_fails) 1 ∧ t.ev = (s.report .drbgFail).ev ∧
      (2 ≤ (s.cip.failTimes.filter fun c => decide (s.clk.cycles ≤ c + 36000000000)).length → t.cip.locked = true) ∧
      ((s.cip.failTimes.filter fun c => decide (s.clk.cycles ≤ c + 36000000000)).length < 2 → t.cip.locked = s.cip.locked)) ∧
    (s.flag .cipDrbgStat_failed = true → s.cip.locked = false → ∃ t : State, exec .drbgRestart s = .next t ∧ t.flag .cipDrbgStat_ready = true ∧ t.flag .cipDrbgStat_failed = false ∧
      t.cip.requests = 0) ∧
    ((s.flag .cipDrbgStat_failed = false ∨ s.cip.locked = true) → ∃ t : State, exec .drbgRestart s = .next t ∧ t.cip = s.cip ∧ t.reg ⟨.cipDrbgStat, 0, 0, 0⟩ = s.reg ⟨.cipDrbgStat, 0, 0, 0⟩) ∧
    (s.flag .cipDrbgStat_ready = false → ∃ t : State, exec .rngRead s = .next t ∧ t.flag .cipRngValid_valid = false ∧ t.out = s.out ++ [Output.readData .sup 0] ∧ t.free = s.free) ∧
    (s.flag .cipDrbgStat_ready = true → ∃ t : State, exec .rngRead s = .next t ∧ t.flag .cipRngValid_valid = true ∧ t.free = s.free + 1 ∧
      t.out = s.out ++ [Output.readData .sup (Config.freeValue s.free % 2 ^ 64 % 2 ^ 32)] ∧ { who := .sup, key := ⟨.cipRng, 0, 0, 0⟩, value := Config.freeValue s.free % 2 ^ 64 } ∈ t.latches)) ∧
  (∀ (s : State) (who : Requester), s.windowOn who = true →
    (who = .func 0 → s.flag .cipDrbgStat_ready = true → ∃ t : State, exec (.nonceDraw who) s = .next t ∧ t.ev.nonce = some (Config.freeValue s.free % 2 ^ 256, s.clk.cycles) ∧ t.free = s.free + 1 ∧
      t.out = s.out ++ [Output.readData who (Config.freeValue s.free % 2 ^ 256 % 2 ^ 64)] ∧ t.nonceNow = some (Config.freeValue s.free % 2 ^ 256)) ∧
    (who = .func 0 → s.flag .cipDrbgStat_ready = false → ∃ t : State, exec (.nonceDraw who) s = .next t ∧ t.ev.nonce = none ∧ t.out = s.out ++ [Output.readData who 0]) ∧
    (who ≠ .func 0 → ∃ t : State, exec (.nonceDraw who) s = .next t ∧ t.ev = s.ev ∧ t.free = s.free ∧ t.out = s.out ++ [Output.readData who 0])) ∧
  (∀ (s : State) (n : Nat × Nat), s.alive = true → s.ev.nonce = some n → ∃ t : State, exec .nonceExpiry s = .next t ∧ t.clk.cycles = max s.clk.cycles (n.2 + 36000000000) ∧
    t.ev = { s.ev with nonce := none })

/-! ### The ledger -/

/-- Energy is budgeted, and temperature acts on it (R307, R548 to R551, R554, R556 to R565). A window refills the buckets up to their depths under the caps in force; a grant
issues and charges an operation that is ready and fits, of the highest rank, on as many planes as can go together (R231); readings are converted, judged, and raise levels and factors.
Choices of the model: log entries 4, 66, 67, 68, 130, 169. -/
def Obligations.EnergyIsBudgeted : Prop :=
  (∀ (s : State) (dram net : Nat), s.ledOn = true → ∃ t : State, exec (.ledgerWindow dram net) s = .next t ∧ t.clk.cycles = (s.clk.cycles / 6000 + 1) * 6000 ∧ t.led.windowAt = t.clk.cycles ∧
    t.led.caps = s.capsWanted ∧ t.led.peakMa = s.fget .ledLimit_peakMa ∧ (∀ k, k < 8 → t.led.costs[k]? = some (s.fget .ledCost_energy k, if k < 5 then s.fget .ledCost_peakMa k else 0)) ∧
    (∀ b, b < 3 → (t.led.cap b = 0 → t.led.token b = 0) ∧ (t.led.cap b ≠ 0 → t.led.token b ≤ t.depth b)) ∧
    (∀ c, s.led.tokens.length = 3 → s.led.caps[0]? = some c → s.capsWanted[0]? = some c → 0 < c →
      t.led.token 0 = min (min (s.led.token 0) (c * s.fget .ledCtrl_burstWin : Nat) + c) (c * s.fget .ledCtrl_burstWin : Nat))) ∧
  (∀ s : State, s.ledOn = true →
    (s.nextGrant = none → ∃ t : State, exec .nandOpGrant s = .next t ∧ t.media = s.media ∧ t.led = s.led) ∧
    (∀ o, s.nextGrant = some o → o ∈ s.media.ops ∧ s.opReady o = true ∧ (s.bypass = true ∨ (s.rankOpen o = true ∧ s.opFits o = true)) ∧
      (∀ x ∈ s.media.ops, s.opReady x = true → (s.bypass = true ∨ (s.rankOpen x = true ∧ s.opFits x = true)) → s.grantKey o ≤ s.grantKey x) ∧
      let l := o :: s.planeMates o
      (s.bypass = true ∨ s.planesFit l = true) ∧
      (∀ x ∈ s.planeMates o, x ∈ s.media.ops ∧ s.opReady x = true ∧ x.kind = o.kind ∧ x.rank = o.rank ∧ addrLun x.addr = addrLun o.addr ∧
        addrPage x.addr = addrPage o.addr ∧ addrBlk x.addr % s.media.geom.planes ≠ addrBlk o.addr % s.media.geom.planes) ∧
      ∃ t : State, exec .nandOpGrant s = .next t ∧ t.media.ops = updWhere (fun x => l.any fun y => y.id == x.id) (fun x => { x with issued := true }) s.media.ops ∧
        t.led.reserved ≠ some o.id ∧
        (o.rank, addrLun o.addr) ∈ t.led.lastLun ∧ t.out = s.out ∧
        (s.led.tokens.length = 3 → ∀ b, (b = 0 ∨ b = 2) → t.led.token b = if s.led.cap b = 0 then 0 else s.led.token b - ((l.map s.opCost).sum : Nat)))) ∧
  (∀ (s : State) (o : NandOp), s.opFits o = true → (s.led.cap 0 = 0 ∨ (s.opCost o : Int) ≤ s.led.token 0 ∨ (s.depth 0 < s.opCost o ∧ (s.depth 0 : Int) ≤ s.led.token 0)) ∧ 0 ≤ s.led.token 1) ∧
  (∀ (s : State) (temps : List Int), s.ledOn = true → temps.length ≤ 32 →
    (s.critical temps = false ∨ s.tun.flushing = true → ∃ t : State, exec (.dieSensorRead temps) s = .next t ∧ t.clk.cycles = max s.clk.cycles (s.led.dieAt + 60000) ∧ t.led.dieAt = t.clk.cycles ∧
      (∀ n v, temps[n]? = some v → t.fget .ledTemp_temp n = ofSigned 16 v ∧ t.flag .ledTemp_valid n = true) ∧ t.power = s.power ∧ t.out = s.out) ∧
    (s.critical temps = true → s.tun.flushing = false →
      (s.tun.replayDone = true → s.hasFlash = true → ∃ t : State, exec (.dieSensorRead temps) s = .next t ∧ t.tun.flushing = true ∧ t.tun.flushFor = 3) ∧
      ((s.tun.replayDone = false ∨ s.hasFlash = false) → ∃ t : State, exec (.dieSensorRead temps) s = .next t ∧ t.power.halt = some .thermal ∧ .alert ∈ t.out))) ∧
  (∀ (s : State) (temps : List Int), s.critical temps = true ↔ ∃ v ∈ temps, (if s.ident.grade = 1 then 1920 else 1840) ≤ v) ∧
  (∀ (s : State) (i : Nat) (raw : Option Nat), s.ledOn = true → i < 64 → s.flag .ledSens_en i = true →
    let x := s.sensor i
    let good := (raw.map fun r => convertTemp (s.flag .ledSens_bigEnd i) r).any fun v => decide (-640 ≤ v ∧ v ≤ 2400)
    ∃ t : State, exec (.externalSensorRead i raw) s = .next t ∧ t.clk.cycles = (if x.at_ = 0 then s.clk.cycles else max s.clk.cycles (x.at_ + s.fget .ledThermCtrl_periodMs * 600000)) ∧
      (good = true → (t.sensor i).bad = 0 ∧ (t.sensor i).good = x.good + 1) ∧ (good = false → (t.sensor i).bad = x.bad + 1 ∧ (t.sensor i).good = 0) ∧
      (good = false → 2 ≤ x.bad → (t.sensor i).invalid = true ∧ (x.invalid = false → t.flag .ledTemp_valid (32 + i) = false)) ∧
      (good = true → 2 ≤ x.good → (t.sensor i).invalid = false) ∧
      (∀ r, raw = some r → good = true → (t.sensor i).invalid = false →
        t.fget .ledTemp_temp (32 + i) = ofSigned 16 (convertTemp (s.flag .ledSens_bigEnd i) r + toSigned 8 (s.fget .ledSens_offset i)) ∧ t.flag .ledTemp_valid (32 + i) = true)) ∧
  (∀ s : State, s.ledOn = true → ∃ t : State, exec .thermalEvaluation s = .next t ∧ t.led.evalAt = some t.clk.cycles ∧
    t.clk.cycles = max s.clk.cycles (s.led.evalAt.getD s.power.startAt + s.fget .ledThermCtrl_periodMs * 600000) ∧
    (∀ b, b < 3 → ∃ v, t.led.factors[b]? = some v ∧ v ≤ (s.led.factors[b]?).getD 1000 + s.fget .ledThermCtrl_risePm) ∧
    ∀ g, g < 8 → ∀ v, s.groupTemp g = .at_ v →
      (s.degrees .ledGrpCtrl_warnC g ≤ v → bitAt (t.fget .ledThermStat_warn) g = true) ∧ (v < s.degrees .ledGrpCtrl_warnC g - 48 → bitAt (t.fget .ledThermStat_warn) g = false) ∧
      (s.degrees .ledGrpCtrl_tripC g ≤ v → bitAt (t.fget .ledThermStat_trip) g = true) ∧ (v < s.degrees .ledGrpCtrl_tripC g - 80 → bitAt (t.fget .ledThermStat_trip) g = false) ∧
      bitAt (t.fget .ledThermStat_fail) g = false) ∧
  (∀ s : State, s.ledOn = true → ∃ t : State, exec .tempHistogramTick s = .next t ∧ t.clk.cycles = (s.clk.cycles / 600000000 + 1) * 600000000 ∧
    let count := fun (h : Health) (g b : Nat) => ((h.temps.find? fun x => x.1 == g && x.2.1 == b).map fun x => x.2.2).getD 0
    ∀ g b, g < 8 → count t.media.health g b = (match s.groupTemp g with
      | .at_ v => if tempBin v = b then satAdd 32 (count s.media.health g b) 1 else count s.media.health g b
      | _ => count s.media.health g b))

/-! ### The Draught channels -/

/-- Fan channels change state only as R587 says (R580 to R601, R604, R614). LISTEN ends by the start decision table; DETECT finds the rotor in its strongest pulse;
each loss of synchronism restarts a channel up to three times and then leaves it in FAULT; a driver fault, over- or undervoltage coast every channel;
a faulty chopper makes slowing channels brake short. The duty of a driven channel is a free value.
Choices of the model: log entries 4, 47, 102, 103, 104. -/
def Obligations.FanChannelsFollowTheirTable : Prop :=
  (∀ (s : State) (c : Nat), s.drtOn = true → c < 12 →
    let x := s.chan c
    let lost := fun (t : State) => (t.chan c).drive = .off ∧
      (if x.restarts < 3 then (t.chan c).st = 7 ∧ (t.chan c).restarts = x.restarts + 1 else (t.chan c).st = 8 ∧ (t.chan c).cause = 1)
    (∀ m : PwmSample,
      let bad := if m.periodEnd then (if s.bemfOk c m.rpm m.bemfMv then 0 else x.bemfBad + 1) else x.bemfBad
      let loss : Prop := s.overcurrent c m.ma = true ∨ (m.periodEnd = true ∧ s.jumped c x.lastRpm m.rpm = true) ∨ 3 ≤ bad ∨ (m.missedZc = true ∧ mainChan c = false)
      ((x.st < 2 ∨ x.st = 3 ∨ 6 < x.st) → ∃ t : State, exec (.pwmPeriod c m) s = .next t ∧ t.chan c = { x with pwm := s.reg ⟨.drtChPwm, c, 0, 0⟩ }) ∧
      (x.st = 2 → (s.overcurrent c m.ma = true → ∃ t : State, exec (.pwmPeriod c m) s = .next t ∧ lost t) ∧
        (s.overcurrent c m.ma = false → ∃ t : State, exec (.pwmPeriod c m) s = .next t ∧ (t.chan c).st = if m.rpm < 300 then 3 else 2)) ∧
      (4 ≤ x.st → x.st ≤ 6 → (loss → ∃ t : State, exec (.pwmPeriod c m) s = .next t ∧ lost t) ∧
        (¬loss → ∃ t : State, exec (.pwmPeriod c m) s = .next t ∧ t.free = s.free + 1 ∧ (t.chan c).restarts = x.restarts ∧
          (t.chan c).duty = Config.freeValue s.free % (pwmCounts (bits (s.pwmOf c) 0 7) + 1) ∧
          (t.chan c).st = (if x.st = 4 ∧ s.fget .drtChStart_handoffRpm c ≤ m.rpm ∧ s.bemfOk c m.rpm m.bemfMv = true then 5 else if x.st = 6 ∧ m.rpm ≤ 300 then 0 else x.st)))) ∧
    (∀ n, mainChan c = false → (x.st = 5 ∨ x.st = 6) → ∃ t : State, exec (.commutation c n) s = .next t ∧ t.clk.cycles = s.clk.cycles + n * (30 - bits (s.pwmOf c) 24 6) / 60 ∧
      (t.chan c).stepNo = (if s.flag .drtChCtrl_reverse c then x.stepNo + 5 else x.stepNo + 1) % 6 ∧ (x.short = false → (t.chan c).drive = .step (t.chan c).stepNo) ∧ (t.chan c).st = x.st) ∧
    (∀ ma, 2 ≤ x.st → x.st ≤ 6 → s.overcurrent c ma = true → ∃ t : State, exec (.overcurrentTrip c ma) s = .next t ∧ lost t) ∧
    (∀ ma, s.overcurrent c ma = true ↔ 3 * s.fget .drtChLimit_iLimitMa c < 2 * ma) ∧
    (∀ h : Heard, x.st = 1 → ∃ t : State, exec (.listenEnd c h) s = .next t ∧ t.clk.cycles = max s.clk.cycles (x.since + 12000000) ∧ (t.chan c).since = t.clk.cycles ∧
      (t.chan c).st = (match h with | .standing => 3 | .forward r => if s.fget .drtChCfg_catchRpm c ≤ r then 5 else 3 | .backward _ => 2 | .unclear => 2) ∧
      (t.chan c).dirSeen = (match h with | .backward _ => true | .unclear => true | _ => false)) ∧
    (x.st = 2 → ∃ t : State, exec (.brakeTimeout c) s = .next t ∧ t.clk.cycles = max s.clk.cycles (x.since + 6000000000) ∧ (t.chan c).st = 8 ∧ (t.chan c).cause = 2) ∧
    (∀ peaks : List Nat, x.st = 3 → peaks.length = 12 →
      let hi := peaks.foldl max 0
      (((hi - minOf 0 peaks) * 100 < 5 * hi ∨ hi = 0) → (x.repeated = false → ∃ t : State, exec (.detectDone c peaks) s = .next t ∧ (t.chan c).st = 3 ∧ (t.chan c).repeated = true) ∧
        (x.repeated = true → ∃ t : State, exec (.detectDone c peaks) s = .next t ∧ lost t)) ∧
      (5 * hi ≤ (hi - minOf 0 peaks) * 100 → 0 < hi → ∃ (t : State) (k : _), exec (.detectDone c peaks) s = .next t ∧ (t.chan c).st = 4 ∧ peaks[k]? = some hi ∧ (∀ j, j < k → peaks[j]? ≠ some hi) ∧
        (t.chan c).angle = 30 * k ∧ (t.chan c).ref = 0)) ∧
    (x.st = 4 → ∃ t : State, exec (.rampTimeout c) s = .next t ∧ lost t ∧ t.clk.cycles = max s.clk.cycles (x.since + s.fget .drtChStart_startLimit c * 60000000)) ∧
    (x.st = 7 → s.chanHeld = false → ∃ t : State, exec (.coastEnd c) s = .next t ∧ t.clk.cycles = max s.clk.cycles (x.since + 30000000) ∧ (t.chan c).st = 1) ∧
    (x.st = 7 → s.chanHeld = true → ∃ t : State, exec (.coastEnd c) s = .next t ∧ t.chan c = x) ∧
    (x.st = 5 → ∃ t : State, exec (.runStable c) s = .next t ∧ t.clk.cycles = max s.clk.cycles (x.since + 6000000000) ∧ t.chan c = { x with restarts := 0 }) ∧
    (∃ t : State, exec (.channelClear c) s = .next t ∧ (x.st = 8 → (t.chan c).st = 0 ∧ (t.chan c).restarts = 0 ∧ (t.chan c).cause = 0) ∧ (x.st ≠ 8 → t.chan c = x)) ∧
    (curveOk (s.curveRegs c) = true → ∃ t : State, exec (.curveApply c) s = .next t ∧ t.chan c = { x with curve := some (s.curveRegs c) }) ∧
    (curveOk (s.curveRegs c) = false → ∃ t : State, exec (.curveApply c) s = .next t ∧ t.drt = s.drt ∧ t.flag .drtChStat_curveErr c = true)) ∧
  (∀ l : List (Nat × Nat), curveOk l = true ↔ ∀ i a b, l[i]? = some a → l[i + 1]? = some b → a.1 < b.1 ∧ a.2 ≤ b.2) ∧
  (∀ s : State, s.drtOn = true →
    (s.drt.fault = false → ∃ t : State, exec .driverFault s = .next t ∧ t.drt.fault = true ∧ (∀ x ∈ t.drt.chans, x.st = 0 ∨ x.st = 7 ∨ 8 ≤ x.st)) ∧
    (s.drt.fault = true → (∀ x ∈ s.drt.chans, x.stopped = false) → ∃ t : State, exec .driverFaultClear s = .next t ∧ t.drt = { s.drt with fault := false }) ∧
    (∀ x, s.drt.fault = true → s.drt.chans = [x] → x.stopped = true → ∃ t : State, exec .driverFaultClear s = .next t ∧ t.drt.fault = false ∧
      (if x.restarts < 3 then (t.chan x.c).st = 1 ∧ (t.chan x.c).restarts = x.restarts + 1 else (t.chan x.c).st = 8 ∧ (t.chan x.c).cause = 1)) ∧
    (∃ t : State, exec .clearChop s = .next t ∧ t.drt = { s.drt with chopFault := false, chans := s.drt.chans.map fun x => { x with shortOnly := false } })) ∧
  (∀ (s : State) (mv ma : Nat), s.drtOn = true →
    let now := (s.clk.cycles / 600 + 1) * 600
    let v := s.fget .drtBusCfg_vChopMv
    ∃ t : State, exec (.fbusSample mv ma) s = .next t ∧ t.clk.cycles = now ∧ t.fget .drtBusStat_vbusMv = min mv 65535 ∧ t.fget .drtBusStat_chopMa = min ma 65535 ∧
      (s.drt.chopFault = false → s.drt.chopOn = false → (t.drt.chopOn = true ↔ v ≤ mv) ∧ t.drt.chopFault = false) ∧
      (s.drt.chopFault = true → t.drt.chopFault = true ∧ t.drt.chopOn = s.drt.chopOn) ∧
      (s.drt.chopFault = false → s.drt.chopOn = true →
        (v + 3000 < mv → now ≤ s.drt.chopAt + 120000 → t.drt.chopFault = true ∧ t.drt.chopOn = false ∧ ∀ x ∈ t.drt.chans, x.shortOnly = true) ∧
        (mv < v - 100 * s.fget .drtBusCfg_chopHyst → t.drt.chopOn = false ∧ t.drt.chopFault = false) ∧
        (v - 100 * s.fget .drtBusCfg_chopHyst ≤ mv → mv ≤ v + 3000 → t.drt.chopOn = true)) ∧
      (s.fget .drtBusCfg_vAbsMv < mv → 1 ≤ s.drt.ovRun → s.drt.ov = false → t.drt.ov = true ∧ ∀ x ∈ t.drt.chans, x.st = 0 ∨ 7 ≤ x.st) ∧
      (mv ≤ s.fget .drtBusCfg_vAbsMv → mv < v - 100 * s.fget .drtBusCfg_chopHyst → t.drt.ov = false) ∧
      (mv < s.fget .drtBusCfg_vUvMv → t.drt.uv = true ∧ (s.drt.uv = false → ∀ x ∈ t.drt.chans, x.st = 0 ∨ 7 ≤ x.st)) ∧
      (s.fget .drtBusCfg_vUvMv + 1000 < mv → t.drt.uv = false)) ∧
  (∀ s : State, s.drtOn = true → s.drt.chopOn = true → s.drt.chopTested = false → ∃ t : State, exec .chopperTestEnd s = .next t ∧
    t.clk.cycles = max s.clk.cycles (s.drt.chopAt + 60000) ∧ t.drt.chopTested = true ∧ (s.chopWeak = false → t.drt = { s.drt with chopTested := true }) ∧
    (s.chopWeak = true → t.drt.chopFault = true ∧ t.drt.chopOn = false ∧ (∀ x ∈ t.drt.chans, x.shortOnly = true) ∧
      ∀ x ∈ t.drt.chans, x.regen = true → (x.st = 5 ∨ x.st = 6) → x.short = true))

/-! ### The code flash -/

/-- The code flash is memory of cells in a canonical form (R616, R617, R628): what is written is read back, every other cell stands, an erased sector reads
as ones, and programming and erasing keep the form.
Choices of the model: log entries 10, 105. -/
def Obligations.CodeFlashCellsAreMemory : Prop :=
  (∀ (x : CflSt) (a : Nat) (b : Byte), x.wf = true → (x.put a b).wf = true ∧ (x.put a b).programmed = x.programmed ∧ (x.put a b).byte a = b ∧
    ∀ c, c ≠ a → (x.put a b).byte c = x.byte c) ∧
  (∀ (x : CflSt) (a k : Nat), x.wf = true → a < 3 → k < physSectors a →
    let lo := cellAddr a (physBase a k)
    (x.erase a k).wf = true ∧ (∀ i, i < physSize a k → (x.erase a k).byte (lo + i) = 255#8 ∧ (lo + i) / 32 ∉ (x.erase a k).programmed) ∧
      ∀ c, (c < lo ∨ lo + physSize a k ≤ c) → (x.erase a k).byte c = x.byte c) ∧
  (∀ (x : CflSt) (a off : Nat) (bs : Bytes), x.wf = true → (x.programAt a off bs).wf = true)

/-- Code flash descriptors run or end as R629 says (R618, R620, R622, R625 to R630, R634). HEAD moves on; an operation starts, waits for its array, or completes with the
first status whose condition holds; an end writes STATUS and INFO; executing banks are not written, and wrong accesses are bus faults.
Choices of the model: log entries 106, 107, 108. -/
def Obligations.CodeFlashDescriptorsRunOrEnd : Prop :=
  (∀ (s : State) (d : CflDesc), s.cflQueued = true →
    let slot := s.fget .cflQCtrl_head
    let completes := fun (i : Instr) (st : Nat) (warn : Bool) (info : Nat) => ∃ t : State, exec i s = .next t ∧ .cflDone slot st warn info ∈ t.out ∧ (slot, st, warn, info) ∈ t.cfl.slots ∧
      t.fget .cflQCtrl_head = (slot + 1) % 64 ∧ t.sup.plic.cflDone = true ∧ t.cfl.mem = s.cfl.mem
    (∀ p ∈ ([(1, .program d), (2, .eraseSector d), (3, .eraseBank d)] : List (Nat × Instr)),
      ((s.cflBusy p.1 d || s.cfl.waiting.any fun w => w.2.2.array == d.array) = true → ∃ t : State, exec p.2 s = .next t ∧ t.cfl = { s.cfl with waiting := s.cfl.waiting ++ [(slot, p.1, d)] } ∧
        t.out = s.out ∧ t.fget .cflQCtrl_head = (slot + 1) % 64) ∧
      ((s.cflBusy p.1 d || s.cfl.waiting.any fun w => w.2.2.array == d.array) = false →
        (∀ st, s.cflRefused p.1 d = some st → completes p.2 st false 0) ∧
        (s.cflRefused p.1 d = none → ¬(p.1 = 2 ∧ d.array < 2 ∧ d.addr < 24) → ∃ t : State, exec p.2 s = .next t ∧ t.out = s.out ∧ t.fget .cflQCtrl_head = (slot + 1) % 64 ∧
          t.cfl = { s.cfl with run := s.cfl.run ++ [(d.array, { slot := slot, op := p.1, d := d, since := s.clk.cycles })] }))) ∧
    ((s.cflBusy 2 d || s.cfl.waiting.any fun w => w.2.2.array == d.array) = false → s.cflRefused 2 d = none → d.array < 2 → d.addr < 24 →
      ∀ p, s.cfl.spare d.array (s.fget .cflParamPtr_ptr d.array) = some p → ∃ t : State, exec (.eraseSector d) s = .next t ∧
        (d.array, { slot := slot, op := 2, d := d, since := s.clk.cycles, phys := some (s.cfl.physOf d.array d.addr) }) ∈ t.cfl.run ∧ (t.cfl.tag d.array p).logical = some d.addr) ∧
    (∀ p ∈ ([(4, .marginVerify d), (5, .eccStatus d)] : List (Nat × Instr)), (s.cflBusy p.1 d || s.cfl.waiting.any fun w => w.2.2.array == d.array) = false →
      (cflFieldBad p.1 d = true → completes p.2 0x0101 false 0) ∧
      (cflFieldBad p.1 d = false → completes p.2 (if p.1 = 4 then (if d.failed = 0 then 0 else 0x0602) else if d.uncorr then 0x0605 else 0) (decide (0 < d.warns))
        (if p.1 = 4 then d.failed else d.worst % 256 + d.warns % 2 ^ 24 * 256))) ∧
    (cflFieldBad 6 d = false →
      ((∀ j, s.cfl.running d.array = some j → j.op ≠ 2 ∧ j.op ≠ 3) → completes (.suspend d) 0 false 0) ∧
      (∀ j, s.cfl.running d.array = some j → (j.op = 2 ∨ j.op = 3) → s.cfl.waiting = [] → ∃ t : State, exec (.suspend d) s = .next t ∧
        .cflDone slot 0 false (1 + min 65535 (j.suspends + 1) * 65536) ∈ t.out ∧ (d.array, { j with suspends := j.suspends + 1 }) ∈ t.cfl.susp ∧
        t.cfl.run = s.cfl.run.erase (d.array, j))) ∧
    (cflFieldBad 7 d = false → (s.cfl.suspended d.array = none → completes (.resume d) 0 false 0) ∧
      (∀ j, s.cfl.suspended d.array = some j → ∃ t : State, exec (.resume d) s = .next t ∧ .cflDone slot 0 false 1 ∈ t.out ∧ t.cfl.run = s.cfl.run ++ [(d.array, j)] ∧
        t.cfl.susp = s.cfl.susp.erase (d.array, j))) ∧
    (cflFieldBad 8 d = false → (s.setWp d.array d.addr d.len d.mode = none → completes (.setWp d) 0x0601 false 0) ∧
      (∀ w, s.setWp d.array d.addr d.len d.mode = some w → ∃ t : State, exec (.setWp d) s = .next t ∧ .cflDone slot 0 false 0 ∈ t.out ∧ t.cfl.wpOpen = w.cfl.wpOpen ∧
        (d.mode = 0 → ∀ k, d.addr ≤ k → k < d.addr + d.len → (d.array, k) ∉ t.cfl.wpOpen) ∧ (d.mode = 1 → ∀ k, d.addr ≤ k → k < d.addr + d.len → (d.array, k) ∈ t.cfl.wpOpen))) ∧
    (cflFieldBad 6 d = true → completes (.suspend d) 0x0101 false 0) ∧ (cflFieldBad 7 d = true → completes (.resume d) 0x0101 false 0) ∧
    (cflFieldBad 8 d = true → completes (.setWp d) 0x0101 false 0)) ∧
  (∀ (s : State) (op : Nat) (d : CflDesc), (cflFieldBad op d = true → s.cflRefused op d = some 0x0101) ∧
    (cflFieldBad op d = false → d.array < 2 → bitAt (s.reg ⟨.cflBankExec, 0, 0, 0⟩) d.array = true → s.cflRefused op d = some 0x0600) ∧
    (s.cflRefused op d = none → (∀ k ∈ cflTouched op d, (d.array, k) ∈ s.cfl.wpOpen) ∧ (d.array < 2 → bitAt (s.reg ⟨.cflBankExec, 0, 0, 0⟩) d.array = false))) ∧
  (∀ (s : State) (a us : Nat) (j : CflJob), s.alive = true → s.cfl.running a = some j → s.cfl.waiting = [] →
    (∃ t : State, exec (.cflOperationDone a true us) s = .next t ∧ t.clk.cycles = max s.clk.cycles (j.since + us * 600) ∧ t.cfl.run = s.cfl.run.erase (a, j) ∧
      .cflDone j.slot 0 false (if j.op = 3 then us / 1000 else us) ∈ t.out ∧ (j.op = 1 → t.cfl.mem = (s.cfl.programAt a j.d.addr ((j.d.buf.getD []).take j.d.len)).mem) ∧
      (∀ k, j.op = 2 → j.phys = some k → t.cfl.mem = (s.cfl.erase a k).mem ∧ (t.cfl.tag a k).logical = none)) ∧
    (∃ t : State, exec (.cflOperationDone a false us) s = .next t ∧ .cflDone j.slot 0x0602 false (if j.op = 3 then us / 1000 else us) ∈ t.out ∧ t.free = s.free + 1 ∧
      ((s.cfl.jobRange a j).1, (s.cfl.jobRange a j).2, Config.freeValue s.free) ∈ t.cfl.undef)) ∧
  (∀ (s : State) (v : Nat), s.alive = true → s.power.pstate ≠ 3 → ∃ t : State, exec (.bankExecWrite v) s = .next t ∧ ∀ b, b < 2 →
    let old := bitAt (s.reg ⟨.cflBankExec, 0, 0, 0⟩) b
    let busy := (s.cfl.running b).isSome || (s.cfl.suspended b).isSome
    bitAt (t.reg ⟨.cflBankExec, 0, 0, 0⟩) b = (if bitAt v b && !old && busy then false else bitAt v b) ∧ (bitAt v b = true → old = false → busy = true → t.flag .cflBankExec_setRefused = true)) ∧
  (∀ (s : State) (core : Nat) (k : Access) (addr a off corrected : Nat), s.alive = true → s.power.pstate ≠ 3 → s.coreRuns core = true → cflDecode addr = some (a, off) →
    (s.busFaults k a off = true → ∀ u, ∃ t : State, exec (.cflBusFault core k addr u) s = .next t ∧ t.out = s.out ++ [Output.busFault core k addr] ∧ t.cfl = s.cfl) ∧
    (s.busFaults k a off = false → ∃ t : State, exec (.cflBusFault core k addr true) s = .next t ∧ t.out = s.out ++ [Output.busFault core k addr] ∧ t.flag .cflEccStat_uncorr = true) ∧
    (k = .store → s.busFaults k a off = true) ∧ (k = .fetch → (a = 2 ∨ bitAt (s.reg ⟨.cflBankExec, 0, 0, 0⟩) a = false) → s.busFaults k a off = true) ∧
    (s.busFaults .load a off = false → ∀ n, n ≤ 4 → ∃ t : State, exec (.codeFlashRead core addr n) s = .next t ∧ t.cfl = s.cfl ∧ .codeRead core addr (s.cflRead a (off / 32 * 32) 32) ∈ t.out ∧
      (n < s.fget .cflEccCtrl_warnBits → t.out = s.out ++ [Output.codeRead core addr (s.cflRead a (off / 32 * 32) 32)]) ∧
      (s.fget .cflEccCtrl_warnBits ≤ n → .cflWarn ∈ t.out ∧ t.flag .cflEccStat_warn = true)) ∧
    ((s.busFaults .load a off = true ∨ 4 < corrected) → ∃ t : State, exec (.codeFlashRead core addr corrected) s = .next t ∧ t.out = s.out ++ [Output.busFault core .load addr] ∧ t.cfl = s.cfl))

/-! ### Update and recovery -/

/-- Packages are delivered, tried and recovered (R655 to R660, R663, R664, R666 to R668, R673, R674). A MGMT message acts as its operation, its parameter block in network
order, and is answered; a piece that
programs in some copy is received, and the header is written when it is due; a trial that is not confirmed ends in a cold reset; in recovery mode blocks are
staged, every request is answered, and a whole package is checked, installed into Bank A and booted on trial, or discarded.
Choices of the model: log entries 9, 69, 70, 72, 73, 146. -/
def Obligations.UpdatesAreDeliveredTriedAndRecovered : Prop :=
  (∀ (s u : State) (slot id len : Nat) (copies : List Bool) (x : Slot) (m : RxMsg) (opc st n : Nat) (p b : Bytes), s.ywpOn = true → s.ready = true →
    s.ywp.slot? slot = some x → x.state = .opened → x.mgmt = true → (x.rx.find? fun y => y.msgId == id) = some m → m.head = some (.mgmt opc p len) →
    m.complete = true → m.taken = false → m.ended = false → s.mgmtDo opc p m.body copies = (st, n, b, u) →
    ∃ (t : State) (y : _) (q : _), exec (.mgmtMessage slot id copies) s = .next t ∧ t.upd = u.upd ∧ t.cfl = u.cfl ∧ t.ywp.slot? slot = some y ∧ y.tx = x.tx ++ [q] ∧
      q.head = .reply opc st n b.length 0 0 id 0 ∧ q.body = b ∧ ∀ w ∈ y.rx, w.msgId = id → w.ended = true) ∧
  (∀ (s : State) (p body : Bytes) (copies : List Bool),
    let k := hostOrder (padTo 40 p)
    let f := pieceParams k
    let c := s.takeCaskPiece f.1 f.2.2.1 f.2.2.2 f.2.1 body copies
    (pieceBad k body.length = true → s.mgmtDo 0x88 p body copies = (0x0101, 0, [], s)) ∧
    (pieceBad k body.length = false → s.mgmtDo 0x88 p body copies = (c.1, c.2.upd.head.received.length, [], c.2)) ∧
    (s.mgmtDo 0x89 p body copies = if (k.all fun b => b == 0#8) = true then (0, s.upd.head.received.length, s.updQuery, s) else (0x0101, 0, [], s)) ∧
    (s.mgmtDo 0x8A p body copies = if (k.all fun b => b == 0#8) = true then (s.confirm.1, s.confirm.2.1, [], s.confirm.2.2) else (0x0101, 0, [], s)) ∧
    ∀ opc, opc ≠ 0x88 → opc ≠ 0x89 → opc ≠ 0x8A → s.mgmtDo opc p body copies = (0x0100, 0, [], s)) ∧
  (∀ (s : State) (i : Nat) (b : Bytes) (copies : List Bool),
    let ok := (copies.take s.caskCopies).any id
    let h := s.upd.head
    let w := (s.caskProgram i b copies).2
    (ok = false → (s.caskProgram i b copies).1 = 0x0F00 ∧ w.upd = s.upd) ∧
    (ok = true → (s.caskProgram i b copies).1 = 0 ∧ w.upd.pieces = s.upd.pieces ++ [(i, b)] ∧ i ∈ w.upd.head.received ∧
      w.upd.head.received.length = h.received.length + 1 ∧ w.upd.head.pkgLen = h.pkgLen ∧ w.upd.pieceAt = s.clk.cycles ∧
      (h.received.length + 1 = pieceCount h.pkgLen → w.upd.head.state = 2) ∧
      ((h.received.length + 1 = pieceCount h.pkgLen ∨ (h.received.length + 1) % 64 = 0) → w.upd.written = w.upd.head ∧ w.upd.head.seq = h.seq + 1) ∧
      (h.received.length + 1 ≠ pieceCount h.pkgLen → (h.received.length + 1) % 64 ≠ 0 → w.upd.written = s.upd.written ∧ w.upd.head.seq = h.seq))) ∧
  (∀ s : State,
    let t := s.fget .cflStat_bootBank
    (s.upd.trial = none → s.confirm = (0, 0, s)) ∧
    (s.upd.trial ≠ none → s.optWp 128 t 0 = false → s.confirm = (0x0601, 0, s)) ∧
    (s.upd.trial ≠ none → s.optWp 128 t 0 = true → (s.mark t 2).optWp 128 (1 - t) 0 = false →
      s.confirm.1 = 0x0601 ∧ s.confirm.2.2.upd = s.upd ∧ s.confirm.2.2.cfl = (s.mark t 2).cfl) ∧
    (s.upd.trial ≠ none → s.optWp 128 t 0 = true → (s.mark t 2).optWp 128 (1 - t) 0 = true →
      s.confirm.1 = 0 ∧ s.confirm.2.1 = 1 ∧ s.confirm.2.2.upd.trial = none ∧ s.confirm.2.2.upd.head.state = 0 ∧ s.confirm.2.2.upd.pieces = [] ∧
        s.confirm.2.2.cfl = ((s.mark t 2).mark (1 - t) 4).cfl)) ∧
  (∀ s : State, s.serving = true → 0 < s.caskCopies → s.upd.head ≠ s.upd.written →
    ∃ t : State, exec .caskHeaderIdleWrite s = .next t ∧ t.clk.cycles = max s.clk.cycles (s.upd.pieceAt + 3000000000) ∧ t.upd.written = t.upd.head ∧
      t.upd.head = { s.upd.head with seq := s.upd.head.seq + 1 } ∧ t.upd.pieces = s.upd.pieces) ∧
  (∀ (s : State) (r : Nat × Nat), s.upd.trial = some r → s.alive = true → s.tun.flushing = false →
    ((s.canFlush = false ∨ (s.tun.entries = [] ∧ s.index.journal = [])) →
      ∃ t : State, exec .trialExpiry s = .next t ∧ Safety.Restarted s t 1 2 ∧ t.clk.cycles = max s.clk.cycles (r.1 + r.2 * 600000000)) ∧
    (s.canFlush = true → (s.tun.entries ≠ [] ∨ s.index.journal ≠ []) →
      ∃ t : State, exec .trialExpiry s = .next t ∧ t.tun.flushing = true ∧ t.tun.flushFor = 4 ∧ t.power = { s.power with pendCause := 2 } ∧
        t.clk.cycles = max s.clk.cycles (r.1 + r.2 * 600000000))) ∧
  (∀ s : State, s.alive = true → s.upd.recovery = false → ∃ t : State, exec .trialStop s = .next t ∧ t.upd = { s.upd with trial := none }) ∧
  (∀ (s : State) (len off : Nat) (data : Bytes), s.alive = true → s.upd.recovery = true → s.recovMgmt = true →
    let v : UpdSt := if s.upd.stageLen = len then s.upd else { s.upd with stageLen := len, staged := [], rcvResult := 255 }
    let i := off / 1024
    let whole : Prop := off % 1024 = 0 ∧ 529 ≤ len ∧ len ≤ 25166352 ∧ i < blockCount len ∧ data.length = blockLen len i
    (s.upd.rcvBusy = true → ∃ (t : State) (u : _), exec (.recoveryData len off data) s = .next t ∧ exec (.recoveryQuery len) s = .next u ∧ t.upd = s.upd ∧ u.upd = s.upd ∧
      t.out = s.out ++ [Output.recovery s.upd.rcvResult s.stageNext] ∧ u.out = t.out) ∧
    (s.upd.rcvBusy = false → (∃ t : State, exec (.recoveryQuery len) s = .next t ∧ t.upd = v ∧ t.out = s.out ++ [Output.recovery v.rcvResult t.stageNext]) ∧
      ∃ t : State, exec (.recoveryData len off data) s = .next t ∧ t.out = s.out ++ [Output.recovery t.upd.rcvResult t.stageNext] ∧
        (¬whole → t.upd = v) ∧
        (whole → t.upd.staged = (if (v.staged.any fun y => y.1 == i) = true then v.staged else v.staged ++ [(i, data)]) ∧ t.upd.stageLen = len ∧
          t.upd.rcvResult = 255 ∧ (t.upd.rcvBusy = true ↔ t.upd.staged.length = blockCount len)))) ∧
  (∀ (s : State) (piece len : Nat), s.recovBarOn = true →
    (s.upd.rcvBusy = true → ∃ t : State, exec (.recoveryPiece piece len) s = .next t ∧ t.upd = s.upd) ∧
    (s.upd.rcvBusy = false → ∃ t : State, exec (.recoveryPiece piece len) s = .next t ∧ t.upd.stageLen = len ∧
      (529 ≤ len → len ≤ 25166352 → (s.upd.stageLen ≠ len ∨ s.upd.staged = []) → ∀ k, k < 4 → 4 * piece + k < blockCount len →
        (4 * piece + k, slice (padTo 4096 s.upd.window) (1024 * k) (blockLen len (4 * piece + k))) ∈ t.upd.staged))) ∧
  (∀ (s : State) (r : ReadBack), s.alive = true → s.upd.recovery = true → s.upd.rcvBusy = true →
    let c := s.packageCheck s.upd.stageLen s.stageHeader r
    (c ≠ 0 → ∃ t : State, exec (.recoveryCheckDone r) s = .next t ∧ t.upd = { s.upd with staged := [], rcvBusy := false, rcvResult := c } ∧ t.cfl = s.cfl ∧ t.power = s.power) ∧
    (c = 0 → ∃ (t : State) (w : _), exec (.recoveryCheckDone r) s = .next t ∧ t.cfl = (s.installBank 0 s.stageHeader (r.body.getD [])).cfl ∧ t.upd.recovery = false ∧
      t.upd.trial = some (s.clk.cycles, w) ∧ 60 ≤ w ∧ w ≤ 86400 ∧ t.upd.staged = [] ∧ t.upd.rcvBusy = false ∧ t.reg ⟨.cflBankExec, 0, 0, 0⟩ = 1 ∧
      t.fget .cflStat_bootBank = 0 ∧ t.fget .cflStat_romMode = 0 ∧ t.power = { s.power with stage := 5 })) ∧
  (∀ (s : State) (len : Nat) (h : Bytes) (r : ReadBack), (r.readable = false → s.packageCheck len h r = 1) ∧
    (r.readable = true → s.headerCheck h ≠ 0 → len = 512 + fieldAt h 8 4 + 16 → s.packageCheck len h r = s.headerCheck h) ∧
    (r.readable = true → s.headerCheck h = 0 → len ≠ 512 + fieldAt h 8 4 + 16 → s.packageCheck len h r = 2) ∧
    (r.readable = true → s.headerCheck h = 0 → len = 512 + fieldAt h 8 4 + 16 →
      (r.body = none → s.packageCheck len h r = 6) ∧ ∀ b, r.body = some b → s.packageCheck len h r = if digestOk h b = true then 0 else 7))

/-! ### Events and state windows -/

/-- Events are recorded, programmed and read (R675, R677 to R681, R683, R687 to R690, R697 to R701). A report of the open record's event repeats it, a full log or front buffer
drops it, and otherwise it becomes the open record; records go to the record area in order, 125 µs apart; a window of the log shows the record at
INDEX as latched at word 0; a state window shows the selected object, from its latch once one is taken.
Choices of the model: log entries 4, 8, 110, 112, 117. -/
def Obligations.EventsAreRecordedAndWindowsRead : Prop :=
  (∀ (s : State) (block code key data : Nat), s.power.porstLow = false → code / 256 = block → code ≠ 0 → code < 0xFFFF →
    let e := s.ev
    let repeats : Prop := e.isOpen = true ∧ ∃ r, e.log.getLast? = some r ∧ evCode r.kind = code ∧ r.source = block ∧ r.key = key % 2 ^ 96
    let x : EvRec := { kind := .other code, source := block, cycle := e.cycle, firstS := s.opSeconds, key := key % 2 ^ 96, data := data % 2 ^ 64, lastS := s.opSeconds }
    (repeats → ∃ (t : State) (r : _), exec (.eventReport block code key data) s = .next t ∧ e.log.getLast? = some r ∧
      t.ev = { e with log := e.log.dropLast ++ [{ r with rep := satAdd 16 r.rep 1, lastS := s.opSeconds }] }) ∧
    (¬repeats → e.full = true → ∃ t : State, exec (.eventReport block code key data) s = .next t ∧ t.ev = { e with isOpen := false, lost := satAdd 32 e.lost 1 }) ∧
    (¬repeats → e.full = false → 256 ≤ e.front → ∃ t : State, exec (.eventReport block code key data) s = .next t ∧ t.ev = { e with lost := satAdd 32 e.lost 1 }) ∧
    (¬repeats → e.full = false → e.front < 256 → ∃ t : State, exec (.eventReport block code key data) s = .next t ∧ t.ev.log = e.log ++ [x] ∧ t.ev.isOpen = true ∧
      (t.ev.full = true ↔ 16384 ≤ e.log.length + 1) ∧ t.ev.lost = e.lost ∧ t.sup.plic.event = true)) ∧
  (∀ s : State, s.alive = true → 2 ≤ s.power.stage → s.power.pstate ≠ 3 → s.ev.holdProg = false → s.ev.clearing = none →
    let mayGo := fun (i : Nat) (r : EvRec) => if i + 1 = s.ev.log.length ∧ s.ev.isOpen = true then r.prog1 = false else r.prog2 = false
    ((∀ i r, s.ev.log[i]? = some r → ¬mayGo i r) → ∃ t : State, exec .frontBufferProgram s = .next t ∧ t.ev = s.ev) ∧
    (∀ i r, s.ev.log[i]? = some r → mayGo i r → (∀ j x, j < i → s.ev.log[j]? = some x → ¬mayGo j x) →
      ∃ t : State, exec .frontBufferProgram s = .next t ∧ t.clk.cycles = (if s.ev.progAt = 0 then s.clk.cycles else max s.clk.cycles (s.ev.progAt + 75000)) ∧
        t.ev.progAt = t.clk.cycles ∧ t.ev.log.length = s.ev.log.length ∧ (∀ j, j ≠ i → t.ev.log[j]? = s.ev.log[j]?) ∧
        t.ev.log[i]? = some { r with prog1 := true, prog2 := if i + 1 = s.ev.log.length ∧ s.ev.isOpen = true then r.prog2 else true })) ∧
  (∀ s : State, s.alive = true → s.power.pstate ≠ 3 → s.ev.since ≤ s.clk.cycles →
    ∃ (t : State) (n : _), exec .counterEntryWrite s = .next t ∧ t.clk.cycles = s.ev.since + 36000000000 * n ∧ s.clk.cycles < t.clk.cycles ∧ t.clk.cycles ≤ s.clk.cycles + 36000000000 ∧
      t.ev = { s.ev with counter := some { opS := t.opSeconds, cycle := s.ev.cycle, lost := s.ev.lost, pending := s.ev.front, clearing := s.ev.clearing.map fun c => c.keyId } }) ∧
  (∀ (s : State) (who : Requester) (v : Nat), s.windowOn who = true →
    let w := whoIdx who
    (∃ t : State, exec (.evtCursorWrite who v) s = .next t ∧ t.fget .evtCursor_index w = (if v % 32768 ≤ 16384 then v % 32768 else s.fget .evtCursor_index w) ∧
      t.fget .evtCursor_auto w = v / 32768 % 2) ∧
    (s.mayReadLog who = true → ∃ t : State, exec (.evtWindowLatch who) s = .next t ∧ t.evLatch who = ofLe (s.ev.shown (s.fget .evtCursor_index w)) ∧
      t.out = s.out ++ [Output.readData who (ofLe (s.ev.shown (s.fget .evtCursor_index w)) % 2 ^ 64)] ∧ t.fget .evtCursor_index w = s.fget .evtCursor_index w) ∧
    (s.mayReadLog who = false → ∃ (t : State) (u : _), exec (.evtWindowLatch who) s = .next t ∧ t.out = s.out ++ [Output.readData who 0] ∧ t.latches = s.latches ∧
      exec (.evtWindowAdvance who) s = .next u ∧ u.out = s.out ++ [Output.readData who 0]) ∧
    (s.mayReadLog who = true → ∃ t : State, exec (.evtWindowAdvance who) s = .next t ∧ t.out = s.out ++ [Output.readData who (s.evLatch who / 2 ^ 448)] ∧ t.latches = s.latches ∧
      (s.flag .evtCursor_auto w = true → t.fget .evtCursor_index w = min 16384 (s.fget .evtCursor_index w + 1)) ∧
      (s.flag .evtCursor_auto w = false → t.fget .evtCursor_index w = s.fget .evtCursor_index w)) ∧
    (∃ t : State, exec (.stwSelect who v) s = .next t ∧ t.stwSel w = (v % 256, v / 256 % 256, v / 65536 % 1024, v / 4294967296 % 4294967296) ∧
      (∀ l ∈ t.winLatch, l ∈ s.winLatch) ∧ (∀ l ∈ s.winLatch, l.fn ≠ w → l ∈ t.winLatch) ∧
      (((s.stwSel w).1 ≠ v % 256 ∨ (s.stwSel w).2.1 ≠ v / 256 % 256 ∨ (s.stwSel w).2.2.2 ≠ v / 4294967296 % 4294967296) → ∀ l ∈ t.winLatch, l.fn ≠ w) ∧
      ((s.stwSel w).1 = v % 256 → (s.stwSel w).2.1 = v / 256 % 256 → (s.stwSel w).2.2.2 = v / 4294967296 % 4294967296 → t.winLatch = s.winLatch)) ∧
    (∀ b ty word i, s.stwSel w = (b, ty, word, i) →
      let x := s.objBytes b ty i
      (s.objStatus w b ty i ≠ 0 → ∃ t : State, exec (.stwLatch who) s = .next t ∧ t.out = s.out ++ [Output.readData who 0] ∧ t.winLatch = s.winLatch) ∧
      (s.objStatus w b ty i = 0 → ∀ l, (s.winLatch.find? fun l => l.fn == w) = some l →
        ∃ t : State, exec (.stwLatch who) s = .next t ∧ t.out = s.out ++ [Output.readData who (l.words.getD word 0)] ∧ t.winLatch = s.winLatch ∧ t.free = s.free) ∧
      (s.objStatus w b ty i = 0 → (∀ l ∈ s.winLatch, l.fn ≠ w) → word = 0 → ∃ (t : State) (l : _), exec (.stwLatch who) s = .next t ∧ t.winLatch = s.winLatch ++ [l] ∧ l.fn = w ∧
        l.size = x.length ∧ l.words.length = (x.length + 7) / 8 ∧ (∀ k, k < l.words.length → l.words[k]? = some (fieldAt x (8 * k) 8)) ∧
        t.out = s.out ++ [Output.readData who (fieldAt x 0 8)]) ∧
      (s.objStatus w b ty i = 0 → (∀ l ∈ s.winLatch, l.fn ≠ w) → word ≠ 0 →
        ∃ t : State, exec (.stwLatch who) s = .next t ∧ t.winLatch = s.winLatch ∧ t.out = s.out ++ [Output.readData who (fieldAt x (8 * word) 8)]))) ∧
  (∀ (s : State) (w b ty i : Nat),
    (typeKnown b ty = false → s.objStatus w b ty i = 1) ∧
    (typeKnown b ty = true → (w = 0 ∨ w = 256) → s.objStatus w b ty i = if s.objCount b ty ≤ i then 2 else 0) ∧
    (typeKnown b ty = true → w ≠ 0 → w ≠ 256 → (s.objStatus w b ty i = 0 ↔ typeOwn b ty = true ∧ i < s.objCount b ty ∧ s.instOwn b ty i w = true))) ∧
  (∀ (e : EvSt) (i : Nat), (e.shown i).length = 64 ∧ (e.log.length ≤ i → e.shown i = List.replicate 64 0xFF#8))

/-! ### The register map -/

/-- Registers are read and written as R13 and R753 to R755 say (R750 to R759, R763, R764). A read of word 0 latches and clears RC fields, the other words come from the latch; a word that is not
the highest is held, and the highest commits; each field takes the value its access code, its encodings and the lock give it; other accesses answer
Unsupported Request or do nothing; LOCK stays set, and released cores start at GLB_SUP_ENTRY.
Choices of the model: log entries 115, 116, 118, 119, 120. -/
def Obligations.RegistersAreReadAndWrittenByTheirCodes : Prop :=
  (∀ (s : State) (who : Requester) (off size : Nat), s.regReach who = true →
    (accessOk off size = false ∨ s.placeOf who off = .refuse → ∀ v, ∃ (t : State) (u : _), exec (.registerLatchingRead who off size) s = .next t ∧
      exec (.registerWrite who off size v) s = .next u ∧ t.out = s.out ++ [Output.unsupported who] ∧ u.out = s.out ++ [Output.unsupported who] ∧ u.held = s.held ∧
      ∀ k, t.reg k = s.reg k ∧ u.reg k = s.reg k) ∧
    (∀ page, accessOk off size = true → s.placeOf who off = .foreign page → ∀ v, ∃ (t : State) (u : _), exec (.registerLatchingRead who off size) s = .next t ∧
      exec (.registerWrite who off size v) s = .next u ∧ t.out = s.out ++ [Output.unsupported who] ∧ u.out = t.out ∧ u.held = s.held ∧
      t.fget .cipErr_isolation = satAdd Fld.cipErr_isolation.w (s.fget .cipErr_isolation) 1 ∧ u.fget .cipErr_isolation = t.fget .cipErr_isolation ∧ u.cip = s.cip)) ∧
  (∀ (s : State) (who : Requester) (off : Nat), s.regReach who = true → accessOk off 4 = true →
    (s.placeOf who off = .blank → ∀ v, ∃ (t : State) (u : _), exec (.registerLatchingRead who off 4) s = .next t ∧ exec (.registerWrite who off 4 v) s = .next u ∧
      t.out = s.out ++ [Output.readData who 0] ∧ u.out = s.out ∧ u.held = s.held ∧ ∀ k, t.reg k = s.reg k ∧ u.reg k = s.reg k) ∧
    (∀ o, s.placeOf who off = .recov o → ∃ t : State, exec (.registerLatchingRead who off 4) s = .next t ∧ t.out = s.out ++ [Output.readData who (s.recovRead o)]) ∧
    (∀ o v, s.placeOf who off = .recov o → 0x1000 ≤ o → o < 0x2000 → ∃ t : State, exec (.registerWrite who off 4 v) s = .next t ∧
      t.upd = { s.upd with window := overlay (padTo 4096 s.upd.window) (o - 0x1000) (leBytes 4 (v % 4294967296)) }) ∧
    (∀ f o, s.placeOf who off = .vectors f o → ∀ v, ∃ (t : State) (u : _), exec (.registerLatchingRead who off 4) s = .next t ∧ t.out = s.out ++ [Output.readData who (s.msixRead f o)] ∧
      exec (.registerWrite who off 4 v) s = .next u ∧ u.host = (s.msixWrite f o (v % 4294967296)).host) ∧
    (∀ o, s.placeOf who off = .plic o → ∀ v, ∃ (t : State) (u : _), exec (.registerLatchingRead who off 4) s = .next t ∧ t.out = s.out ++ [Output.readData who (s.plicRead o).1] ∧
      t.sup = (s.plicRead o).2.sup ∧ exec (.registerWrite who off 4 v) s = .next u ∧ u.sup = (s.plicWrite o (v % 4294967296)).sup) ∧
    (∀ k w ro, s.placeOf who off = .reg k w ro →
      let special := k.name ∈ [RegName.evtNonce, .cipRng, .stwData, .glbGpio]
      (special → ∃ (t : State) (v : _), exec (.registerLatchingRead who off 4) s = .next t ∧ t.out = s.out ++ [Output.readData who v] ∧ v < 4294967296) ∧
      (¬special → w = 0 → ∃ t : State, exec (.registerLatchingRead who off 4) s = .next t ∧ t.out = s.out ++ [Output.readData who (s.regView k % 4294967296)] ∧
        (k.name.place.width ≤ 32 → t.latches = s.latches) ∧
        (32 < k.name.place.width → (t.latches.find? fun l => decide (l.who = who ∧ l.key = k)) = some ⟨who, k, s.regView k⟩) ∧
        (∀ f ∈ k.name.fields, bits (t.reg k) f.lsb f.w = if ro = false ∧ f.acc = .rc then (if k.name = .adStat ∧ f.lsb = 21 then s.tun.rows.length % 2 ^ f.w else 0) else bits (s.reg k) f.lsb f.w) ∧ ∀ q, q ≠ k → t.reg q = s.reg q) ∧
      (¬special → w ≠ 0 → ∃ t : State, exec (.registerLatchingRead who off 4) s = .next t ∧ t.latches = s.latches ∧
        (∀ l, (s.latches.find? fun l => decide (l.who = who ∧ l.key = k)) = some l → t.out = s.out ++ [Output.readData who (l.value / 2 ^ (32 * w) % 4294967296)]) ∧
        ((∀ l ∈ s.latches, ¬(l.who = who ∧ l.key = k)) → t.out = s.out ++ [Output.readData who (s.regView k / 2 ^ (32 * w) % 4294967296)]) ∧
        (k.name ≠ .evtWindow → ∀ q, t.reg q = s.reg q)) ∧
      (¬special → w = 0 → 32 < k.name.place.width → accessOk off 8 = true → s.placeOf who (off + 4) = .reg k 1 ro →
        ∃ t : State, exec (.registerLatchingRead who off 8) s = .next t ∧ t.out = s.out ++ [Output.readData who (s.regView k % 18446744073709551616)]) ∧
      ((ro = true ∨ s.regThere k = false) → ∀ v, ∃ t : State, exec (.registerWrite who off 4 v) s = .next t ∧ t.out = s.out ∧ t.held = s.held ∧ ∀ q, t.reg q = s.reg q) ∧
      (ro = false → s.regThere k = true → 32 * (w + 1) < k.name.place.width → ∀ v, ∃ t : State, exec (.registerWrite who off 4 v) s = .next t ∧ t.out = s.out ∧
        t.held = (s.held.filter fun h => !decide (h.key = k ∧ h.word = w)) ++ [⟨k, w, v % 4294967296⟩] ∧ ∀ q, t.reg q = s.reg q) ∧
      (ro = false → s.regThere k = true → k.name.place.width ≤ 32 * (w + 1) → ∀ v,
        let ws := ((s.held.filter fun h => decide (h.key = k)).map fun h => (h.word, h.value)) ++ [(w, v % 4294967296)]
        let lock := s.flag .glbSetupLock_lock
        let next := fun (l : Bool) => s.crossFields k (s.reg k) (fieldsNext k.name l (s.reg k) (wordsValue ws) (wordsMask ws)) (wordsMask ws)
        let acts := k.name ∈ [RegName.glbSetupLock, .glbResetCtrl, .glbSupRelease, .hqAdmKick, .hqRingCtrl, .hqAdmCtrl, .hqFuncCtrl, .medLunCtrl, .medRawCtrl, .medSpaceCtrl,
          .cipKpCmd, .cipSkCmd, .cipDrbgCtrl, .cflBankExec, .drtChCtrl, .drtBusCtrl, .netCrossCtrl, .netPortCtrl, .netMgmtMdio, .ptpCtrl, .ptpTodSet, .updTrial,
          .kveSnapCtrl, .twnHbCtrl, .twnRetryCtrl]
        (k.name ≠ .glbResetCtrl → ∃ t : State, exec (.registerWrite who off 4 v) s = .next t ∧ t.held = s.held.filter fun h => !decide (h.key = k)) ∧
        ((∀ h ∈ s.held, h.key ≠ k) → ∃ t : State, exec (.registerWrite who off 4 v) s = .next t ∧ (k.name = .updTrial → bitAt v 18 = true → t.upd.trial = none) ∧
          (k.name = .glbSetupLock → bitAt v 0 = true → t.flag .glbSetupLock_lock = true) ∧
          (k.name = .drtBusCtrl → bitAt v 0 = true → s.drtOn = true → s.power.halt = none → t.drt.chopFault = false)) ∧
        (¬acts → ∃ t : State, exec (.registerWrite who off 4 v) s = .next t ∧ t.reg k = next lock ∧ t.out = s.out ∧
          (∀ q, q ≠ k → q ≠ ⟨.glbSetupLock, 0, 0, 0⟩ → t.reg q = s.reg q) ∧
          (lock = true → next false ≠ next true → t.fget .glbSetupLock_denied = satAdd 16 (s.fget .glbSetupLock_denied) 1) ∧
          (lock = false ∨ next false = next true → t.reg ⟨.glbSetupLock, 0, 0, 0⟩ = s.reg ⟨.glbSetupLock, 0, 0, 0⟩))))) ∧
  (∀ (n : RegName) (lock : Bool) (old v m : Nat), ∀ f ∈ n.fields,
    let x := bits (old - (old &&& m) + (v &&& m)) f.lsb f.w
    let o := bits old f.lsb f.w
    bits (fieldsNext n lock old v m) f.lsb f.w = match f.acc with
      | .rw => if f.enc.ok f.w x then x else o
      | .rwl => if lock then o else if f.enc.ok f.w x then x else o
      | .wo => if keepsWo n then x else o
      | .w1c => o - (o &&& bits (v &&& m) f.lsb f.w)
      | .ro | .w1s | .rc => o) ∧
  (∀ (s : State) (k : RegKey) (old new m : Nat),
    ((k.name = .hqSqBase ∨ k.name = .hqCqBase) → s.crossFields k old new m = if s.ringState k.i k.j = 0 then new else old) ∧
    (k.name = .ptpIncr → s.crossFields k old new m = if s.flag .ptpServoCtrl_servoEn then old else new) ∧
    (k.name = .cflQBase → s.crossFields k old new m = if s.flag .cflQCtrl_en then old else new) ∧
    (k.name ∈ [RegName.ledCtrl, .tunCtrl, .ywpPort, .evtAccess, .twnCfg, .netTcMap, .drtMotor] → s.crossFields k old new m = new)) ∧
  (∀ (s : State) (ctx n : Nat), s.irqBest ctx = n → n ≠ 0 → s.irqPending n = true ∧ bitAt (tableGet s.sup.plic.enable ctx) n = true ∧
    ∀ i, i < 64 → s.irqPending i = true → bitAt (tableGet s.sup.plic.enable ctx) i = true →
      tableGet s.sup.plic.prio i ≤ tableGet s.sup.plic.prio n ∧ (tableGet s.sup.plic.prio i = tableGet s.sup.plic.prio n → n ≤ i)) ∧
  (∀ (s : State) (who : Requester), s.regReach who = true → s.upd.recovery = false → (who = .sup ∨ who = .func 0) →
    ∃ t : State, exec (.setupLock who) s = .next t ∧ t.flag .glbSetupLock_lock = true ∧ (s.flag .glbSetupLock_lock = true → ∀ q, t.reg q = s.reg q) ∧
      t.fget .glbSetupLock_denied = s.fget .glbSetupLock_denied ∧ ∀ q, q ≠ ⟨.glbSetupLock, 0, 0, 0⟩ → t.reg q = s.reg q) ∧
  (∀ (s : State) (v : Nat), s.regReach .sup = true →
    let addr := s.fget .glbSupEntry_addr * 4
    ∃ t : State, exec (.supRelease v) s = .next t ∧ (∀ n, t.coreRuns n = true ↔ s.coreRuns n = true ∨ (1 ≤ n ∧ n < 8 ∧ bitAt v n = true)) ∧
      (∀ c ∈ s.sup.cores, c ∈ t.sup.cores) ∧
      ∀ n, 1 ≤ n → n < 8 → bitAt v n = true → s.coreRuns n = false → ⟨n, addr, if s.execRegion addr = true then none else some (.fetch, addr)⟩ ∈ t.sup.cores)

end
end

