-- ==== Sys2Proof/Laws/State.lean ====
section
/-!
SUPPORT. One lemma per field and update: what each named update of the state leaves as it was.
-/

namespace Sys2Proof.Machine

/-! ### setReg -/

@[simp] theorem State.setReg_clk (s : State) (r : RegKey) (v : Nat) : (s.setReg r v).clk = s.clk := rfl
@[simp] theorem State.setReg_latches (s : State) (r : RegKey) (v : Nat) : (s.setReg r v).latches = s.latches := rfl
@[simp] theorem State.setReg_held (s : State) (r : RegKey) (v : Nat) : (s.setReg r v).held = s.held := rfl
@[simp] theorem State.setReg_winLatch (s : State) (r : RegKey) (v : Nat) : (s.setReg r v).winLatch = s.winLatch := rfl
@[simp] theorem State.setReg_ident (s : State) (r : RegKey) (v : Nat) : (s.setReg r v).ident = s.ident := rfl
@[simp] theorem State.setReg_power (s : State) (r : RegKey) (v : Nat) : (s.setReg r v).power = s.power := rfl
@[simp] theorem State.setReg_kv (s : State) (r : RegKey) (v : Nat) : (s.setReg r v).kv = s.kv := rfl
@[simp] theorem State.setReg_host (s : State) (r : RegKey) (v : Nat) : (s.setReg r v).host = s.host := rfl
@[simp] theorem State.setReg_index (s : State) (r : RegKey) (v : Nat) : (s.setReg r v).index = s.index := rfl
@[simp] theorem State.setReg_tun (s : State) (r : RegKey) (v : Nat) : (s.setReg r v).tun = s.tun := rfl
@[simp] theorem State.setReg_media (s : State) (r : RegKey) (v : Nat) : (s.setReg r v).media = s.media := rfl
@[simp] theorem State.setReg_time (s : State) (r : RegKey) (v : Nat) : (s.setReg r v).time = s.time := rfl
@[simp] theorem State.setReg_town (s : State) (r : RegKey) (v : Nat) : (s.setReg r v).town = s.town := rfl
@[simp] theorem State.setReg_ywp (s : State) (r : RegKey) (v : Nat) : (s.setReg r v).ywp = s.ywp := rfl
@[simp] theorem State.setReg_net (s : State) (r : RegKey) (v : Nat) : (s.setReg r v).net = s.net := rfl
@[simp] theorem State.setReg_cip (s : State) (r : RegKey) (v : Nat) : (s.setReg r v).cip = s.cip := rfl
@[simp] theorem State.setReg_led (s : State) (r : RegKey) (v : Nat) : (s.setReg r v).led = s.led := rfl
@[simp] theorem State.setReg_drt (s : State) (r : RegKey) (v : Nat) : (s.setReg r v).drt = s.drt := rfl
@[simp] theorem State.setReg_cfl (s : State) (r : RegKey) (v : Nat) : (s.setReg r v).cfl = s.cfl := rfl
@[simp] theorem State.setReg_upd (s : State) (r : RegKey) (v : Nat) : (s.setReg r v).upd = s.upd := rfl
@[simp] theorem State.setReg_sup (s : State) (r : RegKey) (v : Nat) : (s.setReg r v).sup = s.sup := rfl
@[simp] theorem State.setReg_ev (s : State) (r : RegKey) (v : Nat) : (s.setReg r v).ev = s.ev := rfl
@[simp] theorem State.setReg_changes (s : State) (r : RegKey) (v : Nat) : (s.setReg r v).changes = s.changes := rfl
@[simp] theorem State.setReg_out (s : State) (r : RegKey) (v : Nat) : (s.setReg r v).out = s.out := rfl
@[simp] theorem State.setReg_free (s : State) (r : RegKey) (v : Nat) : (s.setReg r v).free = s.free := rfl
@[simp] theorem State.setReg_pending (s : State) (r : RegKey) (v : Nat) : (s.setReg r v).pending = s.pending := rfl

/-! ### fput -/

@[simp] theorem State.fput_clk (s : State) (f : Fld) (v i j k : Nat) : (s.fput f v i j k).clk = s.clk := s.setReg_clk _ _
@[simp] theorem State.fput_latches (s : State) (f : Fld) (v i j k : Nat) : (s.fput f v i j k).latches = s.latches := s.setReg_latches _ _
@[simp] theorem State.fput_held (s : State) (f : Fld) (v i j k : Nat) : (s.fput f v i j k).held = s.held := s.setReg_held _ _
@[simp] theorem State.fput_winLatch (s : State) (f : Fld) (v i j k : Nat) : (s.fput f v i j k).winLatch = s.winLatch := s.setReg_winLatch _ _
@[simp] theorem State.fput_ident (s : State) (f : Fld) (v i j k : Nat) : (s.fput f v i j k).ident = s.ident := s.setReg_ident _ _
@[simp] theorem State.fput_power (s : State) (f : Fld) (v i j k : Nat) : (s.fput f v i j k).power = s.power := s.setReg_power _ _
@[simp] theorem State.fput_kv (s : State) (f : Fld) (v i j k : Nat) : (s.fput f v i j k).kv = s.kv := s.setReg_kv _ _
@[simp] theorem State.fput_host (s : State) (f : Fld) (v i j k : Nat) : (s.fput f v i j k).host = s.host := s.setReg_host _ _
@[simp] theorem State.fput_index (s : State) (f : Fld) (v i j k : Nat) : (s.fput f v i j k).index = s.index := s.setReg_index _ _
@[simp] theorem State.fput_tun (s : State) (f : Fld) (v i j k : Nat) : (s.fput f v i j k).tun = s.tun := s.setReg_tun _ _
@[simp] theorem State.fput_media (s : State) (f : Fld) (v i j k : Nat) : (s.fput f v i j k).media = s.media := s.setReg_media _ _
@[simp] theorem State.fput_time (s : State) (f : Fld) (v i j k : Nat) : (s.fput f v i j k).time = s.time := s.setReg_time _ _
@[simp] theorem State.fput_town (s : State) (f : Fld) (v i j k : Nat) : (s.fput f v i j k).town = s.town := s.setReg_town _ _
@[simp] theorem State.fput_ywp (s : State) (f : Fld) (v i j k : Nat) : (s.fput f v i j k).ywp = s.ywp := s.setReg_ywp _ _
@[simp] theorem State.fput_net (s : State) (f : Fld) (v i j k : Nat) : (s.fput f v i j k).net = s.net := s.setReg_net _ _
@[simp] theorem State.fput_cip (s : State) (f : Fld) (v i j k : Nat) : (s.fput f v i j k).cip = s.cip := s.setReg_cip _ _
@[simp] theorem State.fput_led (s : State) (f : Fld) (v i j k : Nat) : (s.fput f v i j k).led = s.led := s.setReg_led _ _
@[simp] theorem State.fput_drt (s : State) (f : Fld) (v i j k : Nat) : (s.fput f v i j k).drt = s.drt := s.setReg_drt _ _
@[simp] theorem State.fput_cfl (s : State) (f : Fld) (v i j k : Nat) : (s.fput f v i j k).cfl = s.cfl := s.setReg_cfl _ _
@[simp] theorem State.fput_upd (s : State) (f : Fld) (v i j k : Nat) : (s.fput f v i j k).upd = s.upd := s.setReg_upd _ _
@[simp] theorem State.fput_sup (s : State) (f : Fld) (v i j k : Nat) : (s.fput f v i j k).sup = s.sup := s.setReg_sup _ _
@[simp] theorem State.fput_ev (s : State) (f : Fld) (v i j k : Nat) : (s.fput f v i j k).ev = s.ev := s.setReg_ev _ _
@[simp] theorem State.fput_changes (s : State) (f : Fld) (v i j k : Nat) : (s.fput f v i j k).changes = s.changes := s.setReg_changes _ _
@[simp] theorem State.fput_out (s : State) (f : Fld) (v i j k : Nat) : (s.fput f v i j k).out = s.out := s.setReg_out _ _
@[simp] theorem State.fput_free (s : State) (f : Fld) (v i j k : Nat) : (s.fput f v i j k).free = s.free := s.setReg_free _ _
@[simp] theorem State.fput_pending (s : State) (f : Fld) (v i j k : Nat) : (s.fput f v i j k).pending = s.pending := s.setReg_pending _ _

/-! ### fadd -/

@[simp] theorem State.fadd_clk (s : State) (f : Fld) (n i j k : Nat) : (s.fadd f n i j k).clk = s.clk := s.fput_clk f _ i j k
@[simp] theorem State.fadd_latches (s : State) (f : Fld) (n i j k : Nat) : (s.fadd f n i j k).latches = s.latches := s.fput_latches f _ i j k
@[simp] theorem State.fadd_held (s : State) (f : Fld) (n i j k : Nat) : (s.fadd f n i j k).held = s.held := s.fput_held f _ i j k
@[simp] theorem State.fadd_winLatch (s : State) (f : Fld) (n i j k : Nat) : (s.fadd f n i j k).winLatch = s.winLatch := s.fput_winLatch f _ i j k
@[simp] theorem State.fadd_ident (s : State) (f : Fld) (n i j k : Nat) : (s.fadd f n i j k).ident = s.ident := s.fput_ident f _ i j k
@[simp] theorem State.fadd_power (s : State) (f : Fld) (n i j k : Nat) : (s.fadd f n i j k).power = s.power := s.fput_power f _ i j k
@[simp] theorem State.fadd_kv (s : State) (f : Fld) (n i j k : Nat) : (s.fadd f n i j k).kv = s.kv := s.fput_kv f _ i j k
@[simp] theorem State.fadd_host (s : State) (f : Fld) (n i j k : Nat) : (s.fadd f n i j k).host = s.host := s.fput_host f _ i j k
@[simp] theorem State.fadd_index (s : State) (f : Fld) (n i j k : Nat) : (s.fadd f n i j k).index = s.index := s.fput_index f _ i j k
@[simp] theorem State.fadd_tun (s : State) (f : Fld) (n i j k : Nat) : (s.fadd f n i j k).tun = s.tun := s.fput_tun f _ i j k
@[simp] theorem State.fadd_media (s : State) (f : Fld) (n i j k : Nat) : (s.fadd f n i j k).media = s.media := s.fput_media f _ i j k
@[simp] theorem State.fadd_time (s : State) (f : Fld) (n i j k : Nat) : (s.fadd f n i j k).time = s.time := s.fput_time f _ i j k
@[simp] theorem State.fadd_town (s : State) (f : Fld) (n i j k : Nat) : (s.fadd f n i j k).town = s.town := s.fput_town f _ i j k
@[simp] theorem State.fadd_ywp (s : State) (f : Fld) (n i j k : Nat) : (s.fadd f n i j k).ywp = s.ywp := s.fput_ywp f _ i j k
@[simp] theorem State.fadd_net (s : State) (f : Fld) (n i j k : Nat) : (s.fadd f n i j k).net = s.net := s.fput_net f _ i j k
@[simp] theorem State.fadd_cip (s : State) (f : Fld) (n i j k : Nat) : (s.fadd f n i j k).cip = s.cip := s.fput_cip f _ i j k
@[simp] theorem State.fadd_led (s : State) (f : Fld) (n i j k : Nat) : (s.fadd f n i j k).led = s.led := s.fput_led f _ i j k
@[simp] theorem State.fadd_drt (s : State) (f : Fld) (n i j k : Nat) : (s.fadd f n i j k).drt = s.drt := s.fput_drt f _ i j k
@[simp] theorem State.fadd_cfl (s : State) (f : Fld) (n i j k : Nat) : (s.fadd f n i j k).cfl = s.cfl := s.fput_cfl f _ i j k
@[simp] theorem State.fadd_upd (s : State) (f : Fld) (n i j k : Nat) : (s.fadd f n i j k).upd = s.upd := s.fput_upd f _ i j k
@[simp] theorem State.fadd_sup (s : State) (f : Fld) (n i j k : Nat) : (s.fadd f n i j k).sup = s.sup := s.fput_sup f _ i j k
@[simp] theorem State.fadd_ev (s : State) (f : Fld) (n i j k : Nat) : (s.fadd f n i j k).ev = s.ev := s.fput_ev f _ i j k
@[simp] theorem State.fadd_changes (s : State) (f : Fld) (n i j k : Nat) : (s.fadd f n i j k).changes = s.changes := s.fput_changes f _ i j k
@[simp] theorem State.fadd_out (s : State) (f : Fld) (n i j k : Nat) : (s.fadd f n i j k).out = s.out := s.fput_out f _ i j k
@[simp] theorem State.fadd_free (s : State) (f : Fld) (n i j k : Nat) : (s.fadd f n i j k).free = s.free := s.fput_free f _ i j k
@[simp] theorem State.fadd_pending (s : State) (f : Fld) (n i j k : Nat) : (s.fadd f n i j k).pending = s.pending := s.fput_pending f _ i j k

/-! ### fmax -/

@[simp] theorem State.fmax_clk (s : State) (f : Fld) (v : Nat) : (s.fmax f v).clk = s.clk := s.fput_clk f _ 0 0 0
@[simp] theorem State.fmax_latches (s : State) (f : Fld) (v : Nat) : (s.fmax f v).latches = s.latches := s.fput_latches f _ 0 0 0
@[simp] theorem State.fmax_held (s : State) (f : Fld) (v : Nat) : (s.fmax f v).held = s.held := s.fput_held f _ 0 0 0
@[simp] theorem State.fmax_winLatch (s : State) (f : Fld) (v : Nat) : (s.fmax f v).winLatch = s.winLatch := s.fput_winLatch f _ 0 0 0
@[simp] theorem State.fmax_ident (s : State) (f : Fld) (v : Nat) : (s.fmax f v).ident = s.ident := s.fput_ident f _ 0 0 0
@[simp] theorem State.fmax_power (s : State) (f : Fld) (v : Nat) : (s.fmax f v).power = s.power := s.fput_power f _ 0 0 0
@[simp] theorem State.fmax_kv (s : State) (f : Fld) (v : Nat) : (s.fmax f v).kv = s.kv := s.fput_kv f _ 0 0 0
@[simp] theorem State.fmax_host (s : State) (f : Fld) (v : Nat) : (s.fmax f v).host = s.host := s.fput_host f _ 0 0 0
@[simp] theorem State.fmax_index (s : State) (f : Fld) (v : Nat) : (s.fmax f v).index = s.index := s.fput_index f _ 0 0 0
@[simp] theorem State.fmax_tun (s : State) (f : Fld) (v : Nat) : (s.fmax f v).tun = s.tun := s.fput_tun f _ 0 0 0
@[simp] theorem State.fmax_media (s : State) (f : Fld) (v : Nat) : (s.fmax f v).media = s.media := s.fput_media f _ 0 0 0
@[simp] theorem State.fmax_time (s : State) (f : Fld) (v : Nat) : (s.fmax f v).time = s.time := s.fput_time f _ 0 0 0
@[simp] theorem State.fmax_town (s : State) (f : Fld) (v : Nat) : (s.fmax f v).town = s.town := s.fput_town f _ 0 0 0
@[simp] theorem State.fmax_ywp (s : State) (f : Fld) (v : Nat) : (s.fmax f v).ywp = s.ywp := s.fput_ywp f _ 0 0 0
@[simp] theorem State.fmax_net (s : State) (f : Fld) (v : Nat) : (s.fmax f v).net = s.net := s.fput_net f _ 0 0 0
@[simp] theorem State.fmax_cip (s : State) (f : Fld) (v : Nat) : (s.fmax f v).cip = s.cip := s.fput_cip f _ 0 0 0
@[simp] theorem State.fmax_led (s : State) (f : Fld) (v : Nat) : (s.fmax f v).led = s.led := s.fput_led f _ 0 0 0
@[simp] theorem State.fmax_drt (s : State) (f : Fld) (v : Nat) : (s.fmax f v).drt = s.drt := s.fput_drt f _ 0 0 0
@[simp] theorem State.fmax_cfl (s : State) (f : Fld) (v : Nat) : (s.fmax f v).cfl = s.cfl := s.fput_cfl f _ 0 0 0
@[simp] theorem State.fmax_upd (s : State) (f : Fld) (v : Nat) : (s.fmax f v).upd = s.upd := s.fput_upd f _ 0 0 0
@[simp] theorem State.fmax_sup (s : State) (f : Fld) (v : Nat) : (s.fmax f v).sup = s.sup := s.fput_sup f _ 0 0 0
@[simp] theorem State.fmax_ev (s : State) (f : Fld) (v : Nat) : (s.fmax f v).ev = s.ev := s.fput_ev f _ 0 0 0
@[simp] theorem State.fmax_changes (s : State) (f : Fld) (v : Nat) : (s.fmax f v).changes = s.changes := s.fput_changes f _ 0 0 0
@[simp] theorem State.fmax_out (s : State) (f : Fld) (v : Nat) : (s.fmax f v).out = s.out := s.fput_out f _ 0 0 0
@[simp] theorem State.fmax_free (s : State) (f : Fld) (v : Nat) : (s.fmax f v).free = s.free := s.fput_free f _ 0 0 0
@[simp] theorem State.fmax_pending (s : State) (f : Fld) (v : Nat) : (s.fmax f v).pending = s.pending := s.fput_pending f _ 0 0 0

/-! ### rp -/

@[simp] theorem State.rp_clk (s : State) (f n : Nat) (x : Fld) (v : Nat) : (s.rp f n x v).clk = s.clk := s.setReg_clk _ _
@[simp] theorem State.rp_latches (s : State) (f n : Nat) (x : Fld) (v : Nat) : (s.rp f n x v).latches = s.latches := s.setReg_latches _ _
@[simp] theorem State.rp_held (s : State) (f n : Nat) (x : Fld) (v : Nat) : (s.rp f n x v).held = s.held := s.setReg_held _ _
@[simp] theorem State.rp_winLatch (s : State) (f n : Nat) (x : Fld) (v : Nat) : (s.rp f n x v).winLatch = s.winLatch := s.setReg_winLatch _ _
@[simp] theorem State.rp_ident (s : State) (f n : Nat) (x : Fld) (v : Nat) : (s.rp f n x v).ident = s.ident := s.setReg_ident _ _
@[simp] theorem State.rp_power (s : State) (f n : Nat) (x : Fld) (v : Nat) : (s.rp f n x v).power = s.power := s.setReg_power _ _
@[simp] theorem State.rp_kv (s : State) (f n : Nat) (x : Fld) (v : Nat) : (s.rp f n x v).kv = s.kv := s.setReg_kv _ _
@[simp] theorem State.rp_host (s : State) (f n : Nat) (x : Fld) (v : Nat) : (s.rp f n x v).host = s.host := s.setReg_host _ _
@[simp] theorem State.rp_index (s : State) (f n : Nat) (x : Fld) (v : Nat) : (s.rp f n x v).index = s.index := s.setReg_index _ _
@[simp] theorem State.rp_tun (s : State) (f n : Nat) (x : Fld) (v : Nat) : (s.rp f n x v).tun = s.tun := s.setReg_tun _ _
@[simp] theorem State.rp_media (s : State) (f n : Nat) (x : Fld) (v : Nat) : (s.rp f n x v).media = s.media := s.setReg_media _ _
@[simp] theorem State.rp_time (s : State) (f n : Nat) (x : Fld) (v : Nat) : (s.rp f n x v).time = s.time := s.setReg_time _ _
@[simp] theorem State.rp_town (s : State) (f n : Nat) (x : Fld) (v : Nat) : (s.rp f n x v).town = s.town := s.setReg_town _ _
@[simp] theorem State.rp_ywp (s : State) (f n : Nat) (x : Fld) (v : Nat) : (s.rp f n x v).ywp = s.ywp := s.setReg_ywp _ _
@[simp] theorem State.rp_net (s : State) (f n : Nat) (x : Fld) (v : Nat) : (s.rp f n x v).net = s.net := s.setReg_net _ _
@[simp] theorem State.rp_cip (s : State) (f n : Nat) (x : Fld) (v : Nat) : (s.rp f n x v).cip = s.cip := s.setReg_cip _ _
@[simp] theorem State.rp_led (s : State) (f n : Nat) (x : Fld) (v : Nat) : (s.rp f n x v).led = s.led := s.setReg_led _ _
@[simp] theorem State.rp_drt (s : State) (f n : Nat) (x : Fld) (v : Nat) : (s.rp f n x v).drt = s.drt := s.setReg_drt _ _
@[simp] theorem State.rp_cfl (s : State) (f n : Nat) (x : Fld) (v : Nat) : (s.rp f n x v).cfl = s.cfl := s.setReg_cfl _ _
@[simp] theorem State.rp_upd (s : State) (f n : Nat) (x : Fld) (v : Nat) : (s.rp f n x v).upd = s.upd := s.setReg_upd _ _
@[simp] theorem State.rp_sup (s : State) (f n : Nat) (x : Fld) (v : Nat) : (s.rp f n x v).sup = s.sup := s.setReg_sup _ _
@[simp] theorem State.rp_ev (s : State) (f n : Nat) (x : Fld) (v : Nat) : (s.rp f n x v).ev = s.ev := s.setReg_ev _ _
@[simp] theorem State.rp_changes (s : State) (f n : Nat) (x : Fld) (v : Nat) : (s.rp f n x v).changes = s.changes := s.setReg_changes _ _
@[simp] theorem State.rp_out (s : State) (f n : Nat) (x : Fld) (v : Nat) : (s.rp f n x v).out = s.out := s.setReg_out _ _
@[simp] theorem State.rp_free (s : State) (f n : Nat) (x : Fld) (v : Nat) : (s.rp f n x v).free = s.free := s.setReg_free _ _
@[simp] theorem State.rp_pending (s : State) (f n : Nat) (x : Fld) (v : Nat) : (s.rp f n x v).pending = s.pending := s.setReg_pending _ _

/-! ### tickN -/

@[simp] theorem State.tickN_regs (s : State) (n : Nat) : (s.tickN n).regs = s.regs := rfl
@[simp] theorem State.tickN_latches (s : State) (n : Nat) : (s.tickN n).latches = s.latches := rfl
@[simp] theorem State.tickN_held (s : State) (n : Nat) : (s.tickN n).held = s.held := rfl
@[simp] theorem State.tickN_winLatch (s : State) (n : Nat) : (s.tickN n).winLatch = s.winLatch := rfl
@[simp] theorem State.tickN_ident (s : State) (n : Nat) : (s.tickN n).ident = s.ident := rfl
@[simp] theorem State.tickN_power (s : State) (n : Nat) : (s.tickN n).power = s.power := rfl
@[simp] theorem State.tickN_kv (s : State) (n : Nat) : (s.tickN n).kv = s.kv := rfl
@[simp] theorem State.tickN_host (s : State) (n : Nat) : (s.tickN n).host = s.host := rfl
@[simp] theorem State.tickN_index (s : State) (n : Nat) : (s.tickN n).index = s.index := rfl
@[simp] theorem State.tickN_tun (s : State) (n : Nat) : (s.tickN n).tun = s.tun := rfl
@[simp] theorem State.tickN_media (s : State) (n : Nat) : (s.tickN n).media = s.media := rfl
@[simp] theorem State.tickN_time (s : State) (n : Nat) : (s.tickN n).time = s.time := rfl
@[simp] theorem State.tickN_town (s : State) (n : Nat) : (s.tickN n).town = s.town := rfl
@[simp] theorem State.tickN_ywp (s : State) (n : Nat) : (s.tickN n).ywp = s.ywp := rfl
@[simp] theorem State.tickN_net (s : State) (n : Nat) : (s.tickN n).net = s.net := rfl
@[simp] theorem State.tickN_cip (s : State) (n : Nat) : (s.tickN n).cip = s.cip := rfl
@[simp] theorem State.tickN_led (s : State) (n : Nat) : (s.tickN n).led = s.led := rfl
@[simp] theorem State.tickN_drt (s : State) (n : Nat) : (s.tickN n).drt = s.drt := rfl
@[simp] theorem State.tickN_cfl (s : State) (n : Nat) : (s.tickN n).cfl = s.cfl := rfl
@[simp] theorem State.tickN_upd (s : State) (n : Nat) : (s.tickN n).upd = s.upd := rfl
@[simp] theorem State.tickN_sup (s : State) (n : Nat) : (s.tickN n).sup = s.sup := rfl
@[simp] theorem State.tickN_ev (s : State) (n : Nat) : (s.tickN n).ev = s.ev := rfl
@[simp] theorem State.tickN_changes (s : State) (n : Nat) : (s.tickN n).changes = s.changes := rfl
@[simp] theorem State.tickN_out (s : State) (n : Nat) : (s.tickN n).out = s.out := rfl
@[simp] theorem State.tickN_free (s : State) (n : Nat) : (s.tickN n).free = s.free := rfl
@[simp] theorem State.tickN_pending (s : State) (n : Nat) : (s.tickN n).pending = s.pending := rfl

/-! ### waitCycle -/

@[simp] theorem State.waitCycle_regs (s : State) (c : Nat) : (s.waitCycle c).regs = s.regs := s.tickN_regs _
@[simp] theorem State.waitCycle_latches (s : State) (c : Nat) : (s.waitCycle c).latches = s.latches := s.tickN_latches _
@[simp] theorem State.waitCycle_held (s : State) (c : Nat) : (s.waitCycle c).held = s.held := s.tickN_held _
@[simp] theorem State.waitCycle_winLatch (s : State) (c : Nat) : (s.waitCycle c).winLatch = s.winLatch := s.tickN_winLatch _
@[simp] theorem State.waitCycle_ident (s : State) (c : Nat) : (s.waitCycle c).ident = s.ident := s.tickN_ident _
@[simp] theorem State.waitCycle_power (s : State) (c : Nat) : (s.waitCycle c).power = s.power := s.tickN_power _
@[simp] theorem State.waitCycle_kv (s : State) (c : Nat) : (s.waitCycle c).kv = s.kv := s.tickN_kv _
@[simp] theorem State.waitCycle_host (s : State) (c : Nat) : (s.waitCycle c).host = s.host := s.tickN_host _
@[simp] theorem State.waitCycle_index (s : State) (c : Nat) : (s.waitCycle c).index = s.index := s.tickN_index _
@[simp] theorem State.waitCycle_tun (s : State) (c : Nat) : (s.waitCycle c).tun = s.tun := s.tickN_tun _
@[simp] theorem State.waitCycle_media (s : State) (c : Nat) : (s.waitCycle c).media = s.media := s.tickN_media _
@[simp] theorem State.waitCycle_time (s : State) (c : Nat) : (s.waitCycle c).time = s.time := s.tickN_time _
@[simp] theorem State.waitCycle_town (s : State) (c : Nat) : (s.waitCycle c).town = s.town := s.tickN_town _
@[simp] theorem State.waitCycle_ywp (s : State) (c : Nat) : (s.waitCycle c).ywp = s.ywp := s.tickN_ywp _
@[simp] theorem State.waitCycle_net (s : State) (c : Nat) : (s.waitCycle c).net = s.net := s.tickN_net _
@[simp] theorem State.waitCycle_cip (s : State) (c : Nat) : (s.waitCycle c).cip = s.cip := s.tickN_cip _
@[simp] theorem State.waitCycle_led (s : State) (c : Nat) : (s.waitCycle c).led = s.led := s.tickN_led _
@[simp] theorem State.waitCycle_drt (s : State) (c : Nat) : (s.waitCycle c).drt = s.drt := s.tickN_drt _
@[simp] theorem State.waitCycle_cfl (s : State) (c : Nat) : (s.waitCycle c).cfl = s.cfl := s.tickN_cfl _
@[simp] theorem State.waitCycle_upd (s : State) (c : Nat) : (s.waitCycle c).upd = s.upd := s.tickN_upd _
@[simp] theorem State.waitCycle_sup (s : State) (c : Nat) : (s.waitCycle c).sup = s.sup := s.tickN_sup _
@[simp] theorem State.waitCycle_ev (s : State) (c : Nat) : (s.waitCycle c).ev = s.ev := s.tickN_ev _
@[simp] theorem State.waitCycle_changes (s : State) (c : Nat) : (s.waitCycle c).changes = s.changes := s.tickN_changes _
@[simp] theorem State.waitCycle_out (s : State) (c : Nat) : (s.waitCycle c).out = s.out := s.tickN_out _
@[simp] theorem State.waitCycle_free (s : State) (c : Nat) : (s.waitCycle c).free = s.free := s.tickN_free _
@[simp] theorem State.waitCycle_pending (s : State) (c : Nat) : (s.waitCycle c).pending = s.pending := s.tickN_pending _

/-! ### waitTai -/

@[simp] theorem State.waitTai_regs (s : State) (t : Nat) : (s.waitTai t).regs = s.regs := by unfold State.waitTai; split; exact rfl; exact s.tickN_regs _
@[simp] theorem State.waitTai_latches (s : State) (t : Nat) : (s.waitTai t).latches = s.latches := by unfold State.waitTai; split; exact rfl; exact s.tickN_latches _
@[simp] theorem State.waitTai_held (s : State) (t : Nat) : (s.waitTai t).held = s.held := by unfold State.waitTai; split; exact rfl; exact s.tickN_held _
@[simp] theorem State.waitTai_winLatch (s : State) (t : Nat) : (s.waitTai t).winLatch = s.winLatch := by unfold State.waitTai; split; exact rfl; exact s.tickN_winLatch _
@[simp] theorem State.waitTai_ident (s : State) (t : Nat) : (s.waitTai t).ident = s.ident := by unfold State.waitTai; split; exact rfl; exact s.tickN_ident _
@[simp] theorem State.waitTai_power (s : State) (t : Nat) : (s.waitTai t).power = s.power := by unfold State.waitTai; split; exact rfl; exact s.tickN_power _
@[simp] theorem State.waitTai_kv (s : State) (t : Nat) : (s.waitTai t).kv = s.kv := by unfold State.waitTai; split; exact rfl; exact s.tickN_kv _
@[simp] theorem State.waitTai_host (s : State) (t : Nat) : (s.waitTai t).host = s.host := by unfold State.waitTai; split; exact rfl; exact s.tickN_host _
@[simp] theorem State.waitTai_index (s : State) (t : Nat) : (s.waitTai t).index = s.index := by unfold State.waitTai; split; exact rfl; exact s.tickN_index _
@[simp] theorem State.waitTai_tun (s : State) (t : Nat) : (s.waitTai t).tun = s.tun := by unfold State.waitTai; split; exact rfl; exact s.tickN_tun _
@[simp] theorem State.waitTai_media (s : State) (t : Nat) : (s.waitTai t).media = s.media := by unfold State.waitTai; split; exact rfl; exact s.tickN_media _
@[simp] theorem State.waitTai_time (s : State) (t : Nat) : (s.waitTai t).time = s.time := by unfold State.waitTai; split; exact rfl; exact s.tickN_time _
@[simp] theorem State.waitTai_town (s : State) (t : Nat) : (s.waitTai t).town = s.town := by unfold State.waitTai; split; exact rfl; exact s.tickN_town _
@[simp] theorem State.waitTai_ywp (s : State) (t : Nat) : (s.waitTai t).ywp = s.ywp := by unfold State.waitTai; split; exact rfl; exact s.tickN_ywp _
@[simp] theorem State.waitTai_net (s : State) (t : Nat) : (s.waitTai t).net = s.net := by unfold State.waitTai; split; exact rfl; exact s.tickN_net _
@[simp] theorem State.waitTai_cip (s : State) (t : Nat) : (s.waitTai t).cip = s.cip := by unfold State.waitTai; split; exact rfl; exact s.tickN_cip _
@[simp] theorem State.waitTai_led (s : State) (t : Nat) : (s.waitTai t).led = s.led := by unfold State.waitTai; split; exact rfl; exact s.tickN_led _
@[simp] theorem State.waitTai_drt (s : State) (t : Nat) : (s.waitTai t).drt = s.drt := by unfold State.waitTai; split; exact rfl; exact s.tickN_drt _
@[simp] theorem State.waitTai_cfl (s : State) (t : Nat) : (s.waitTai t).cfl = s.cfl := by unfold State.waitTai; split; exact rfl; exact s.tickN_cfl _
@[simp] theorem State.waitTai_upd (s : State) (t : Nat) : (s.waitTai t).upd = s.upd := by unfold State.waitTai; split; exact rfl; exact s.tickN_upd _
@[simp] theorem State.waitTai_sup (s : State) (t : Nat) : (s.waitTai t).sup = s.sup := by unfold State.waitTai; split; exact rfl; exact s.tickN_sup _
@[simp] theorem State.waitTai_ev (s : State) (t : Nat) : (s.waitTai t).ev = s.ev := by unfold State.waitTai; split; exact rfl; exact s.tickN_ev _
@[simp] theorem State.waitTai_changes (s : State) (t : Nat) : (s.waitTai t).changes = s.changes := by unfold State.waitTai; split; exact rfl; exact s.tickN_changes _
@[simp] theorem State.waitTai_out (s : State) (t : Nat) : (s.waitTai t).out = s.out := by unfold State.waitTai; split; exact rfl; exact s.tickN_out _
@[simp] theorem State.waitTai_free (s : State) (t : Nat) : (s.waitTai t).free = s.free := by unfold State.waitTai; split; exact rfl; exact s.tickN_free _
@[simp] theorem State.waitTai_pending (s : State) (t : Nat) : (s.waitTai t).pending = s.pending := by unfold State.waitTai; split; exact rfl; exact s.tickN_pending _

/-! ### emit -/

@[simp] theorem State.emit_clk (s : State) (o : Output) : (s.emit o).clk = s.clk := rfl
@[simp] theorem State.emit_regs (s : State) (o : Output) : (s.emit o).regs = s.regs := rfl
@[simp] theorem State.emit_latches (s : State) (o : Output) : (s.emit o).latches = s.latches := rfl
@[simp] theorem State.emit_held (s : State) (o : Output) : (s.emit o).held = s.held := rfl
@[simp] theorem State.emit_winLatch (s : State) (o : Output) : (s.emit o).winLatch = s.winLatch := rfl
@[simp] theorem State.emit_ident (s : State) (o : Output) : (s.emit o).ident = s.ident := rfl
@[simp] theorem State.emit_power (s : State) (o : Output) : (s.emit o).power = s.power := rfl
@[simp] theorem State.emit_kv (s : State) (o : Output) : (s.emit o).kv = s.kv := rfl
@[simp] theorem State.emit_host (s : State) (o : Output) : (s.emit o).host = s.host := rfl
@[simp] theorem State.emit_index (s : State) (o : Output) : (s.emit o).index = s.index := rfl
@[simp] theorem State.emit_tun (s : State) (o : Output) : (s.emit o).tun = s.tun := rfl
@[simp] theorem State.emit_media (s : State) (o : Output) : (s.emit o).media = s.media := rfl
@[simp] theorem State.emit_time (s : State) (o : Output) : (s.emit o).time = s.time := rfl
@[simp] theorem State.emit_town (s : State) (o : Output) : (s.emit o).town = s.town := rfl
@[simp] theorem State.emit_ywp (s : State) (o : Output) : (s.emit o).ywp = s.ywp := rfl
@[simp] theorem State.emit_net (s : State) (o : Output) : (s.emit o).net = s.net := rfl
@[simp] theorem State.emit_cip (s : State) (o : Output) : (s.emit o).cip = s.cip := rfl
@[simp] theorem State.emit_led (s : State) (o : Output) : (s.emit o).led = s.led := rfl
@[simp] theorem State.emit_drt (s : State) (o : Output) : (s.emit o).drt = s.drt := rfl
@[simp] theorem State.emit_cfl (s : State) (o : Output) : (s.emit o).cfl = s.cfl := rfl
@[simp] theorem State.emit_upd (s : State) (o : Output) : (s.emit o).upd = s.upd := rfl
@[simp] theorem State.emit_sup (s : State) (o : Output) : (s.emit o).sup = s.sup := rfl
@[simp] theorem State.emit_ev (s : State) (o : Output) : (s.emit o).ev = s.ev := rfl
@[simp] theorem State.emit_changes (s : State) (o : Output) : (s.emit o).changes = s.changes := rfl
@[simp] theorem State.emit_free (s : State) (o : Output) : (s.emit o).free = s.free := rfl
@[simp] theorem State.emit_pending (s : State) (o : Output) : (s.emit o).pending = s.pending := rfl

/-! ### reportFrom -/

@[simp] theorem State.reportFrom_clk (s : State) (e : EvKind) (b key data : Nat) : (s.reportFrom e b key data).clk = s.clk := by unfold State.reportFrom; dsimp only; split_ifs <;> rfl
@[simp] theorem State.reportFrom_regs (s : State) (e : EvKind) (b key data : Nat) : (s.reportFrom e b key data).regs = s.regs := by unfold State.reportFrom; dsimp only; split_ifs <;> rfl
@[simp] theorem State.reportFrom_latches (s : State) (e : EvKind) (b key data : Nat) : (s.reportFrom e b key data).latches = s.latches := by unfold State.reportFrom; dsimp only; split_ifs <;> rfl
@[simp] theorem State.reportFrom_held (s : State) (e : EvKind) (b key data : Nat) : (s.reportFrom e b key data).held = s.held := by unfold State.reportFrom; dsimp only; split_ifs <;> rfl
@[simp] theorem State.reportFrom_winLatch (s : State) (e : EvKind) (b key data : Nat) : (s.reportFrom e b key data).winLatch = s.winLatch := by unfold State.reportFrom; dsimp only; split_ifs <;> rfl
@[simp] theorem State.reportFrom_ident (s : State) (e : EvKind) (b key data : Nat) : (s.reportFrom e b key data).ident = s.ident := by unfold State.reportFrom; dsimp only; split_ifs <;> rfl
@[simp] theorem State.reportFrom_power (s : State) (e : EvKind) (b key data : Nat) : (s.reportFrom e b key data).power = s.power := by unfold State.reportFrom; dsimp only; split_ifs <;> rfl
@[simp] theorem State.reportFrom_kv (s : State) (e : EvKind) (b key data : Nat) : (s.reportFrom e b key data).kv = s.kv := by unfold State.reportFrom; dsimp only; split_ifs <;> rfl
@[simp] theorem State.reportFrom_host (s : State) (e : EvKind) (b key data : Nat) : (s.reportFrom e b key data).host = s.host := by unfold State.reportFrom; dsimp only; split_ifs <;> rfl
@[simp] theorem State.reportFrom_index (s : State) (e : EvKind) (b key data : Nat) : (s.reportFrom e b key data).index = s.index := by unfold State.reportFrom; dsimp only; split_ifs <;> rfl
@[simp] theorem State.reportFrom_tun (s : State) (e : EvKind) (b key data : Nat) : (s.reportFrom e b key data).tun = s.tun := by unfold State.reportFrom; dsimp only; split_ifs <;> rfl
@[simp] theorem State.reportFrom_media (s : State) (e : EvKind) (b key data : Nat) : (s.reportFrom e b key data).media = s.media := by unfold State.reportFrom; dsimp only; split_ifs <;> rfl
@[simp] theorem State.reportFrom_time (s : State) (e : EvKind) (b key data : Nat) : (s.reportFrom e b key data).time = s.time := by unfold State.reportFrom; dsimp only; split_ifs <;> rfl
@[simp] theorem State.reportFrom_town (s : State) (e : EvKind) (b key data : Nat) : (s.reportFrom e b key data).town = s.town := by unfold State.reportFrom; dsimp only; split_ifs <;> rfl
@[simp] theorem State.reportFrom_ywp (s : State) (e : EvKind) (b key data : Nat) : (s.reportFrom e b key data).ywp = s.ywp := by unfold State.reportFrom; dsimp only; split_ifs <;> rfl
@[simp] theorem State.reportFrom_net (s : State) (e : EvKind) (b key data : Nat) : (s.reportFrom e b key data).net = s.net := by unfold State.reportFrom; dsimp only; split_ifs <;> rfl
@[simp] theorem State.reportFrom_cip (s : State) (e : EvKind) (b key data : Nat) : (s.reportFrom e b key data).cip = s.cip := by unfold State.reportFrom; dsimp only; split_ifs <;> rfl
@[simp] theorem State.reportFrom_led (s : State) (e : EvKind) (b key data : Nat) : (s.reportFrom e b key data).led = s.led := by unfold State.reportFrom; dsimp only; split_ifs <;> rfl
@[simp] theorem State.reportFrom_drt (s : State) (e : EvKind) (b key data : Nat) : (s.reportFrom e b key data).drt = s.drt := by unfold State.reportFrom; dsimp only; split_ifs <;> rfl
@[simp] theorem State.reportFrom_cfl (s : State) (e : EvKind) (b key data : Nat) : (s.reportFrom e b key data).cfl = s.cfl := by unfold State.reportFrom; dsimp only; split_ifs <;> rfl
@[simp] theorem State.reportFrom_upd (s : State) (e : EvKind) (b key data : Nat) : (s.reportFrom e b key data).upd = s.upd := by unfold State.reportFrom; dsimp only; split_ifs <;> rfl
@[simp] theorem State.reportFrom_changes (s : State) (e : EvKind) (b key data : Nat) : (s.reportFrom e b key data).changes = s.changes := by unfold State.reportFrom; dsimp only; split_ifs <;> rfl
@[simp] theorem State.reportFrom_out (s : State) (e : EvKind) (b key data : Nat) : (s.reportFrom e b key data).out = s.out := by unfold State.reportFrom; dsimp only; split_ifs <;> rfl
@[simp] theorem State.reportFrom_free (s : State) (e : EvKind) (b key data : Nat) : (s.reportFrom e b key data).free = s.free := by unfold State.reportFrom; dsimp only; split_ifs <;> rfl
@[simp] theorem State.reportFrom_pending (s : State) (e : EvKind) (b key data : Nat) : (s.reportFrom e b key data).pending = s.pending := by unfold State.reportFrom; dsimp only; split_ifs <;> rfl

/-! ### report -/

@[simp] theorem State.report_clk (s : State) (e : EvKind) (key data : Nat) : (s.report e key data).clk = s.clk := s.reportFrom_clk e _ key data
@[simp] theorem State.report_regs (s : State) (e : EvKind) (key data : Nat) : (s.report e key data).regs = s.regs := s.reportFrom_regs e _ key data
@[simp] theorem State.report_latches (s : State) (e : EvKind) (key data : Nat) : (s.report e key data).latches = s.latches := s.reportFrom_latches e _ key data
@[simp] theorem State.report_held (s : State) (e : EvKind) (key data : Nat) : (s.report e key data).held = s.held := s.reportFrom_held e _ key data
@[simp] theorem State.report_winLatch (s : State) (e : EvKind) (key data : Nat) : (s.report e key data).winLatch = s.winLatch := s.reportFrom_winLatch e _ key data
@[simp] theorem State.report_ident (s : State) (e : EvKind) (key data : Nat) : (s.report e key data).ident = s.ident := s.reportFrom_ident e _ key data
@[simp] theorem State.report_power (s : State) (e : EvKind) (key data : Nat) : (s.report e key data).power = s.power := s.reportFrom_power e _ key data
@[simp] theorem State.report_kv (s : State) (e : EvKind) (key data : Nat) : (s.report e key data).kv = s.kv := s.reportFrom_kv e _ key data
@[simp] theorem State.report_host (s : State) (e : EvKind) (key data : Nat) : (s.report e key data).host = s.host := s.reportFrom_host e _ key data
@[simp] theorem State.report_index (s : State) (e : EvKind) (key data : Nat) : (s.report e key data).index = s.index := s.reportFrom_index e _ key data
@[simp] theorem State.report_tun (s : State) (e : EvKind) (key data : Nat) : (s.report e key data).tun = s.tun := s.reportFrom_tun e _ key data
@[simp] theorem State.report_media (s : State) (e : EvKind) (key data : Nat) : (s.report e key data).media = s.media := s.reportFrom_media e _ key data
@[simp] theorem State.report_time (s : State) (e : EvKind) (key data : Nat) : (s.report e key data).time = s.time := s.reportFrom_time e _ key data
@[simp] theorem State.report_town (s : State) (e : EvKind) (key data : Nat) : (s.report e key data).town = s.town := s.reportFrom_town e _ key data
@[simp] theorem State.report_ywp (s : State) (e : EvKind) (key data : Nat) : (s.report e key data).ywp = s.ywp := s.reportFrom_ywp e _ key data
@[simp] theorem State.report_net (s : State) (e : EvKind) (key data : Nat) : (s.report e key data).net = s.net := s.reportFrom_net e _ key data
@[simp] theorem State.report_cip (s : State) (e : EvKind) (key data : Nat) : (s.report e key data).cip = s.cip := s.reportFrom_cip e _ key data
@[simp] theorem State.report_led (s : State) (e : EvKind) (key data : Nat) : (s.report e key data).led = s.led := s.reportFrom_led e _ key data
@[simp] theorem State.report_drt (s : State) (e : EvKind) (key data : Nat) : (s.report e key data).drt = s.drt := s.reportFrom_drt e _ key data
@[simp] theorem State.report_cfl (s : State) (e : EvKind) (key data : Nat) : (s.report e key data).cfl = s.cfl := s.reportFrom_cfl e _ key data
@[simp] theorem State.report_upd (s : State) (e : EvKind) (key data : Nat) : (s.report e key data).upd = s.upd := s.reportFrom_upd e _ key data
@[simp] theorem State.report_changes (s : State) (e : EvKind) (key data : Nat) : (s.report e key data).changes = s.changes := s.reportFrom_changes e _ key data
@[simp] theorem State.report_out (s : State) (e : EvKind) (key data : Nat) : (s.report e key data).out = s.out := s.reportFrom_out e _ key data
@[simp] theorem State.report_free (s : State) (e : EvKind) (key data : Nat) : (s.report e key data).free = s.free := s.reportFrom_free e _ key data
@[simp] theorem State.report_pending (s : State) (e : EvKind) (key data : Nat) : (s.report e key data).pending = s.pending := s.reportFrom_pending e _ key data

/-! ### modRing -/

@[simp] theorem State.modRing_clk (s : State) (f n : Nat) (g : Ring → Ring) : (s.modRing f n g).clk = s.clk := rfl
@[simp] theorem State.modRing_regs (s : State) (f n : Nat) (g : Ring → Ring) : (s.modRing f n g).regs = s.regs := rfl
@[simp] theorem State.modRing_latches (s : State) (f n : Nat) (g : Ring → Ring) : (s.modRing f n g).latches = s.latches := rfl
@[simp] theorem State.modRing_held (s : State) (f n : Nat) (g : Ring → Ring) : (s.modRing f n g).held = s.held := rfl
@[simp] theorem State.modRing_winLatch (s : State) (f n : Nat) (g : Ring → Ring) : (s.modRing f n g).winLatch = s.winLatch := rfl
@[simp] theorem State.modRing_ident (s : State) (f n : Nat) (g : Ring → Ring) : (s.modRing f n g).ident = s.ident := rfl
@[simp] theorem State.modRing_power (s : State) (f n : Nat) (g : Ring → Ring) : (s.modRing f n g).power = s.power := rfl
@[simp] theorem State.modRing_kv (s : State) (f n : Nat) (g : Ring → Ring) : (s.modRing f n g).kv = s.kv := rfl
@[simp] theorem State.modRing_index (s : State) (f n : Nat) (g : Ring → Ring) : (s.modRing f n g).index = s.index := rfl
@[simp] theorem State.modRing_tun (s : State) (f n : Nat) (g : Ring → Ring) : (s.modRing f n g).tun = s.tun := rfl
@[simp] theorem State.modRing_media (s : State) (f n : Nat) (g : Ring → Ring) : (s.modRing f n g).media = s.media := rfl
@[simp] theorem State.modRing_time (s : State) (f n : Nat) (g : Ring → Ring) : (s.modRing f n g).time = s.time := rfl
@[simp] theorem State.modRing_town (s : State) (f n : Nat) (g : Ring → Ring) : (s.modRing f n g).town = s.town := rfl
@[simp] theorem State.modRing_ywp (s : State) (f n : Nat) (g : Ring → Ring) : (s.modRing f n g).ywp = s.ywp := rfl
@[simp] theorem State.modRing_net (s : State) (f n : Nat) (g : Ring → Ring) : (s.modRing f n g).net = s.net := rfl
@[simp] theorem State.modRing_cip (s : State) (f n : Nat) (g : Ring → Ring) : (s.modRing f n g).cip = s.cip := rfl
@[simp] theorem State.modRing_led (s : State) (f n : Nat) (g : Ring → Ring) : (s.modRing f n g).led = s.led := rfl
@[simp] theorem State.modRing_drt (s : State) (f n : Nat) (g : Ring → Ring) : (s.modRing f n g).drt = s.drt := rfl
@[simp] theorem State.modRing_cfl (s : State) (f n : Nat) (g : Ring → Ring) : (s.modRing f n g).cfl = s.cfl := rfl
@[simp] theorem State.modRing_upd (s : State) (f n : Nat) (g : Ring → Ring) : (s.modRing f n g).upd = s.upd := rfl
@[simp] theorem State.modRing_sup (s : State) (f n : Nat) (g : Ring → Ring) : (s.modRing f n g).sup = s.sup := rfl
@[simp] theorem State.modRing_ev (s : State) (f n : Nat) (g : Ring → Ring) : (s.modRing f n g).ev = s.ev := rfl
@[simp] theorem State.modRing_changes (s : State) (f n : Nat) (g : Ring → Ring) : (s.modRing f n g).changes = s.changes := rfl
@[simp] theorem State.modRing_out (s : State) (f n : Nat) (g : Ring → Ring) : (s.modRing f n g).out = s.out := rfl
@[simp] theorem State.modRing_free (s : State) (f n : Nat) (g : Ring → Ring) : (s.modRing f n g).free = s.free := rfl
@[simp] theorem State.modRing_pending (s : State) (f n : Nat) (g : Ring → Ring) : (s.modRing f n g).pending = s.pending := rfl

/-! ### modFn -/

@[simp] theorem State.modFn_clk (s : State) (f : Nat) (g : Func → Func) : (s.modFn f g).clk = s.clk := rfl
@[simp] theorem State.modFn_regs (s : State) (f : Nat) (g : Func → Func) : (s.modFn f g).regs = s.regs := rfl
@[simp] theorem State.modFn_latches (s : State) (f : Nat) (g : Func → Func) : (s.modFn f g).latches = s.latches := rfl
@[simp] theorem State.modFn_held (s : State) (f : Nat) (g : Func → Func) : (s.modFn f g).held = s.held := rfl
@[simp] theorem State.modFn_winLatch (s : State) (f : Nat) (g : Func → Func) : (s.modFn f g).winLatch = s.winLatch := rfl
@[simp] theorem State.modFn_ident (s : State) (f : Nat) (g : Func → Func) : (s.modFn f g).ident = s.ident := rfl
@[simp] theorem State.modFn_power (s : State) (f : Nat) (g : Func → Func) : (s.modFn f g).power = s.power := rfl
@[simp] theorem State.modFn_kv (s : State) (f : Nat) (g : Func → Func) : (s.modFn f g).kv = s.kv := rfl
@[simp] theorem State.modFn_index (s : State) (f : Nat) (g : Func → Func) : (s.modFn f g).index = s.index := rfl
@[simp] theorem State.modFn_tun (s : State) (f : Nat) (g : Func → Func) : (s.modFn f g).tun = s.tun := rfl
@[simp] theorem State.modFn_media (s : State) (f : Nat) (g : Func → Func) : (s.modFn f g).media = s.media := rfl
@[simp] theorem State.modFn_time (s : State) (f : Nat) (g : Func → Func) : (s.modFn f g).time = s.time := rfl
@[simp] theorem State.modFn_town (s : State) (f : Nat) (g : Func → Func) : (s.modFn f g).town = s.town := rfl
@[simp] theorem State.modFn_ywp (s : State) (f : Nat) (g : Func → Func) : (s.modFn f g).ywp = s.ywp := rfl
@[simp] theorem State.modFn_net (s : State) (f : Nat) (g : Func → Func) : (s.modFn f g).net = s.net := rfl
@[simp] theorem State.modFn_cip (s : State) (f : Nat) (g : Func → Func) : (s.modFn f g).cip = s.cip := rfl
@[simp] theorem State.modFn_led (s : State) (f : Nat) (g : Func → Func) : (s.modFn f g).led = s.led := rfl
@[simp] theorem State.modFn_drt (s : State) (f : Nat) (g : Func → Func) : (s.modFn f g).drt = s.drt := rfl
@[simp] theorem State.modFn_cfl (s : State) (f : Nat) (g : Func → Func) : (s.modFn f g).cfl = s.cfl := rfl
@[simp] theorem State.modFn_upd (s : State) (f : Nat) (g : Func → Func) : (s.modFn f g).upd = s.upd := rfl
@[simp] theorem State.modFn_sup (s : State) (f : Nat) (g : Func → Func) : (s.modFn f g).sup = s.sup := rfl
@[simp] theorem State.modFn_ev (s : State) (f : Nat) (g : Func → Func) : (s.modFn f g).ev = s.ev := rfl
@[simp] theorem State.modFn_changes (s : State) (f : Nat) (g : Func → Func) : (s.modFn f g).changes = s.changes := rfl
@[simp] theorem State.modFn_out (s : State) (f : Nat) (g : Func → Func) : (s.modFn f g).out = s.out := rfl
@[simp] theorem State.modFn_free (s : State) (f : Nat) (g : Func → Func) : (s.modFn f g).free = s.free := rfl
@[simp] theorem State.modFn_pending (s : State) (f : Nat) (g : Func → Func) : (s.modFn f g).pending = s.pending := rfl

/-! ### modCtx -/

@[simp] theorem State.modCtx_clk (s : State) (id : Nat) (g : OpCtx → OpCtx) : (s.modCtx id g).clk = s.clk := rfl
@[simp] theorem State.modCtx_regs (s : State) (id : Nat) (g : OpCtx → OpCtx) : (s.modCtx id g).regs = s.regs := rfl
@[simp] theorem State.modCtx_latches (s : State) (id : Nat) (g : OpCtx → OpCtx) : (s.modCtx id g).latches = s.latches := rfl
@[simp] theorem State.modCtx_held (s : State) (id : Nat) (g : OpCtx → OpCtx) : (s.modCtx id g).held = s.held := rfl
@[simp] theorem State.modCtx_winLatch (s : State) (id : Nat) (g : OpCtx → OpCtx) : (s.modCtx id g).winLatch = s.winLatch := rfl
@[simp] theorem State.modCtx_ident (s : State) (id : Nat) (g : OpCtx → OpCtx) : (s.modCtx id g).ident = s.ident := rfl
@[simp] theorem State.modCtx_power (s : State) (id : Nat) (g : OpCtx → OpCtx) : (s.modCtx id g).power = s.power := rfl
@[simp] theorem State.modCtx_host (s : State) (id : Nat) (g : OpCtx → OpCtx) : (s.modCtx id g).host = s.host := rfl
@[simp] theorem State.modCtx_index (s : State) (id : Nat) (g : OpCtx → OpCtx) : (s.modCtx id g).index = s.index := rfl
@[simp] theorem State.modCtx_tun (s : State) (id : Nat) (g : OpCtx → OpCtx) : (s.modCtx id g).tun = s.tun := rfl
@[simp] theorem State.modCtx_media (s : State) (id : Nat) (g : OpCtx → OpCtx) : (s.modCtx id g).media = s.media := rfl
@[simp] theorem State.modCtx_time (s : State) (id : Nat) (g : OpCtx → OpCtx) : (s.modCtx id g).time = s.time := rfl
@[simp] theorem State.modCtx_town (s : State) (id : Nat) (g : OpCtx → OpCtx) : (s.modCtx id g).town = s.town := rfl
@[simp] theorem State.modCtx_ywp (s : State) (id : Nat) (g : OpCtx → OpCtx) : (s.modCtx id g).ywp = s.ywp := rfl
@[simp] theorem State.modCtx_net (s : State) (id : Nat) (g : OpCtx → OpCtx) : (s.modCtx id g).net = s.net := rfl
@[simp] theorem State.modCtx_cip (s : State) (id : Nat) (g : OpCtx → OpCtx) : (s.modCtx id g).cip = s.cip := rfl
@[simp] theorem State.modCtx_led (s : State) (id : Nat) (g : OpCtx → OpCtx) : (s.modCtx id g).led = s.led := rfl
@[simp] theorem State.modCtx_drt (s : State) (id : Nat) (g : OpCtx → OpCtx) : (s.modCtx id g).drt = s.drt := rfl
@[simp] theorem State.modCtx_cfl (s : State) (id : Nat) (g : OpCtx → OpCtx) : (s.modCtx id g).cfl = s.cfl := rfl
@[simp] theorem State.modCtx_upd (s : State) (id : Nat) (g : OpCtx → OpCtx) : (s.modCtx id g).upd = s.upd := rfl
@[simp] theorem State.modCtx_sup (s : State) (id : Nat) (g : OpCtx → OpCtx) : (s.modCtx id g).sup = s.sup := rfl
@[simp] theorem State.modCtx_ev (s : State) (id : Nat) (g : OpCtx → OpCtx) : (s.modCtx id g).ev = s.ev := rfl
@[simp] theorem State.modCtx_changes (s : State) (id : Nat) (g : OpCtx → OpCtx) : (s.modCtx id g).changes = s.changes := rfl
@[simp] theorem State.modCtx_out (s : State) (id : Nat) (g : OpCtx → OpCtx) : (s.modCtx id g).out = s.out := rfl
@[simp] theorem State.modCtx_free (s : State) (id : Nat) (g : OpCtx → OpCtx) : (s.modCtx id g).free = s.free := rfl
@[simp] theorem State.modCtx_pending (s : State) (id : Nat) (g : OpCtx → OpCtx) : (s.modCtx id g).pending = s.pending := rfl

/-! ### modSlot -/

@[simp] theorem State.modSlot_clk (s : State) (n : Nat) (g : Slot → Slot) : (s.modSlot n g).clk = s.clk := rfl
@[simp] theorem State.modSlot_regs (s : State) (n : Nat) (g : Slot → Slot) : (s.modSlot n g).regs = s.regs := rfl
@[simp] theorem State.modSlot_latches (s : State) (n : Nat) (g : Slot → Slot) : (s.modSlot n g).latches = s.latches := rfl
@[simp] theorem State.modSlot_held (s : State) (n : Nat) (g : Slot → Slot) : (s.modSlot n g).held = s.held := rfl
@[simp] theorem State.modSlot_winLatch (s : State) (n : Nat) (g : Slot → Slot) : (s.modSlot n g).winLatch = s.winLatch := rfl
@[simp] theorem State.modSlot_ident (s : State) (n : Nat) (g : Slot → Slot) : (s.modSlot n g).ident = s.ident := rfl
@[simp] theorem State.modSlot_power (s : State) (n : Nat) (g : Slot → Slot) : (s.modSlot n g).power = s.power := rfl
@[simp] theorem State.modSlot_kv (s : State) (n : Nat) (g : Slot → Slot) : (s.modSlot n g).kv = s.kv := rfl
@[simp] theorem State.modSlot_host (s : State) (n : Nat) (g : Slot → Slot) : (s.modSlot n g).host = s.host := rfl
@[simp] theorem State.modSlot_index (s : State) (n : Nat) (g : Slot → Slot) : (s.modSlot n g).index = s.index := rfl
@[simp] theorem State.modSlot_tun (s : State) (n : Nat) (g : Slot → Slot) : (s.modSlot n g).tun = s.tun := rfl
@[simp] theorem State.modSlot_media (s : State) (n : Nat) (g : Slot → Slot) : (s.modSlot n g).media = s.media := rfl
@[simp] theorem State.modSlot_time (s : State) (n : Nat) (g : Slot → Slot) : (s.modSlot n g).time = s.time := rfl
@[simp] theorem State.modSlot_town (s : State) (n : Nat) (g : Slot → Slot) : (s.modSlot n g).town = s.town := rfl
@[simp] theorem State.modSlot_net (s : State) (n : Nat) (g : Slot → Slot) : (s.modSlot n g).net = s.net := rfl
@[simp] theorem State.modSlot_cip (s : State) (n : Nat) (g : Slot → Slot) : (s.modSlot n g).cip = s.cip := rfl
@[simp] theorem State.modSlot_led (s : State) (n : Nat) (g : Slot → Slot) : (s.modSlot n g).led = s.led := rfl
@[simp] theorem State.modSlot_drt (s : State) (n : Nat) (g : Slot → Slot) : (s.modSlot n g).drt = s.drt := rfl
@[simp] theorem State.modSlot_cfl (s : State) (n : Nat) (g : Slot → Slot) : (s.modSlot n g).cfl = s.cfl := rfl
@[simp] theorem State.modSlot_upd (s : State) (n : Nat) (g : Slot → Slot) : (s.modSlot n g).upd = s.upd := rfl
@[simp] theorem State.modSlot_sup (s : State) (n : Nat) (g : Slot → Slot) : (s.modSlot n g).sup = s.sup := rfl
@[simp] theorem State.modSlot_ev (s : State) (n : Nat) (g : Slot → Slot) : (s.modSlot n g).ev = s.ev := rfl
@[simp] theorem State.modSlot_changes (s : State) (n : Nat) (g : Slot → Slot) : (s.modSlot n g).changes = s.changes := rfl
@[simp] theorem State.modSlot_out (s : State) (n : Nat) (g : Slot → Slot) : (s.modSlot n g).out = s.out := rfl
@[simp] theorem State.modSlot_free (s : State) (n : Nat) (g : Slot → Slot) : (s.modSlot n g).free = s.free := rfl
@[simp] theorem State.modSlot_pending (s : State) (n : Nat) (g : Slot → Slot) : (s.modSlot n g).pending = s.pending := rfl

/-! ### modChan -/

@[simp] theorem State.modChan_clk (s : State) (c : Nat) (g : Chan → Chan) : (s.modChan c g).clk = s.clk := rfl
@[simp] theorem State.modChan_regs (s : State) (c : Nat) (g : Chan → Chan) : (s.modChan c g).regs = s.regs := rfl
@[simp] theorem State.modChan_latches (s : State) (c : Nat) (g : Chan → Chan) : (s.modChan c g).latches = s.latches := rfl
@[simp] theorem State.modChan_held (s : State) (c : Nat) (g : Chan → Chan) : (s.modChan c g).held = s.held := rfl
@[simp] theorem State.modChan_winLatch (s : State) (c : Nat) (g : Chan → Chan) : (s.modChan c g).winLatch = s.winLatch := rfl
@[simp] theorem State.modChan_ident (s : State) (c : Nat) (g : Chan → Chan) : (s.modChan c g).ident = s.ident := rfl
@[simp] theorem State.modChan_power (s : State) (c : Nat) (g : Chan → Chan) : (s.modChan c g).power = s.power := rfl
@[simp] theorem State.modChan_kv (s : State) (c : Nat) (g : Chan → Chan) : (s.modChan c g).kv = s.kv := rfl
@[simp] theorem State.modChan_host (s : State) (c : Nat) (g : Chan → Chan) : (s.modChan c g).host = s.host := rfl
@[simp] theorem State.modChan_index (s : State) (c : Nat) (g : Chan → Chan) : (s.modChan c g).index = s.index := rfl
@[simp] theorem State.modChan_tun (s : State) (c : Nat) (g : Chan → Chan) : (s.modChan c g).tun = s.tun := rfl
@[simp] theorem State.modChan_media (s : State) (c : Nat) (g : Chan → Chan) : (s.modChan c g).media = s.media := rfl
@[simp] theorem State.modChan_time (s : State) (c : Nat) (g : Chan → Chan) : (s.modChan c g).time = s.time := rfl
@[simp] theorem State.modChan_town (s : State) (c : Nat) (g : Chan → Chan) : (s.modChan c g).town = s.town := rfl
@[simp] theorem State.modChan_ywp (s : State) (c : Nat) (g : Chan → Chan) : (s.modChan c g).ywp = s.ywp := rfl
@[simp] theorem State.modChan_net (s : State) (c : Nat) (g : Chan → Chan) : (s.modChan c g).net = s.net := rfl
@[simp] theorem State.modChan_cip (s : State) (c : Nat) (g : Chan → Chan) : (s.modChan c g).cip = s.cip := rfl
@[simp] theorem State.modChan_led (s : State) (c : Nat) (g : Chan → Chan) : (s.modChan c g).led = s.led := rfl
@[simp] theorem State.modChan_cfl (s : State) (c : Nat) (g : Chan → Chan) : (s.modChan c g).cfl = s.cfl := rfl
@[simp] theorem State.modChan_upd (s : State) (c : Nat) (g : Chan → Chan) : (s.modChan c g).upd = s.upd := rfl
@[simp] theorem State.modChan_sup (s : State) (c : Nat) (g : Chan → Chan) : (s.modChan c g).sup = s.sup := rfl
@[simp] theorem State.modChan_ev (s : State) (c : Nat) (g : Chan → Chan) : (s.modChan c g).ev = s.ev := rfl
@[simp] theorem State.modChan_changes (s : State) (c : Nat) (g : Chan → Chan) : (s.modChan c g).changes = s.changes := rfl
@[simp] theorem State.modChan_out (s : State) (c : Nat) (g : Chan → Chan) : (s.modChan c g).out = s.out := rfl
@[simp] theorem State.modChan_free (s : State) (c : Nat) (g : Chan → Chan) : (s.modChan c g).free = s.free := rfl
@[simp] theorem State.modChan_pending (s : State) (c : Nat) (g : Chan → Chan) : (s.modChan c g).pending = s.pending := rfl

/-! ### modPort -/

@[simp] theorem State.modPort_clk (s : State) (p : Nat) (g : Port → Port) : (s.modPort p g).clk = s.clk := rfl
@[simp] theorem State.modPort_regs (s : State) (p : Nat) (g : Port → Port) : (s.modPort p g).regs = s.regs := rfl
@[simp] theorem State.modPort_latches (s : State) (p : Nat) (g : Port → Port) : (s.modPort p g).latches = s.latches := rfl
@[simp] theorem State.modPort_held (s : State) (p : Nat) (g : Port → Port) : (s.modPort p g).held = s.held := rfl
@[simp] theorem State.modPort_winLatch (s : State) (p : Nat) (g : Port → Port) : (s.modPort p g).winLatch = s.winLatch := rfl
@[simp] theorem State.modPort_ident (s : State) (p : Nat) (g : Port → Port) : (s.modPort p g).ident = s.ident := rfl
@[simp] theorem State.modPort_power (s : State) (p : Nat) (g : Port → Port) : (s.modPort p g).power = s.power := rfl
@[simp] theorem State.modPort_kv (s : State) (p : Nat) (g : Port → Port) : (s.modPort p g).kv = s.kv := rfl
@[simp] theorem State.modPort_host (s : State) (p : Nat) (g : Port → Port) : (s.modPort p g).host = s.host := rfl
@[simp] theorem State.modPort_index (s : State) (p : Nat) (g : Port → Port) : (s.modPort p g).index = s.index := rfl
@[simp] theorem State.modPort_tun (s : State) (p : Nat) (g : Port → Port) : (s.modPort p g).tun = s.tun := rfl
@[simp] theorem State.modPort_media (s : State) (p : Nat) (g : Port → Port) : (s.modPort p g).media = s.media := rfl
@[simp] theorem State.modPort_time (s : State) (p : Nat) (g : Port → Port) : (s.modPort p g).time = s.time := rfl
@[simp] theorem State.modPort_town (s : State) (p : Nat) (g : Port → Port) : (s.modPort p g).town = s.town := rfl
@[simp] theorem State.modPort_ywp (s : State) (p : Nat) (g : Port → Port) : (s.modPort p g).ywp = s.ywp := rfl
@[simp] theorem State.modPort_cip (s : State) (p : Nat) (g : Port → Port) : (s.modPort p g).cip = s.cip := rfl
@[simp] theorem State.modPort_led (s : State) (p : Nat) (g : Port → Port) : (s.modPort p g).led = s.led := rfl
@[simp] theorem State.modPort_drt (s : State) (p : Nat) (g : Port → Port) : (s.modPort p g).drt = s.drt := rfl
@[simp] theorem State.modPort_cfl (s : State) (p : Nat) (g : Port → Port) : (s.modPort p g).cfl = s.cfl := rfl
@[simp] theorem State.modPort_upd (s : State) (p : Nat) (g : Port → Port) : (s.modPort p g).upd = s.upd := rfl
@[simp] theorem State.modPort_sup (s : State) (p : Nat) (g : Port → Port) : (s.modPort p g).sup = s.sup := rfl
@[simp] theorem State.modPort_ev (s : State) (p : Nat) (g : Port → Port) : (s.modPort p g).ev = s.ev := rfl
@[simp] theorem State.modPort_changes (s : State) (p : Nat) (g : Port → Port) : (s.modPort p g).changes = s.changes := rfl
@[simp] theorem State.modPort_out (s : State) (p : Nat) (g : Port → Port) : (s.modPort p g).out = s.out := rfl
@[simp] theorem State.modPort_free (s : State) (p : Nat) (g : Port → Port) : (s.modPort p g).free = s.free := rfl
@[simp] theorem State.modPort_pending (s : State) (p : Nat) (g : Port → Port) : (s.modPort p g).pending = s.pending := rfl

/-! ### modEntry -/

@[simp] theorem State.modEntry_clk (s : State) (id : Nat) (g : TunEntry → TunEntry) : (s.modEntry id g).clk = s.clk := rfl
@[simp] theorem State.modEntry_regs (s : State) (id : Nat) (g : TunEntry → TunEntry) : (s.modEntry id g).regs = s.regs := rfl
@[simp] theorem State.modEntry_latches (s : State) (id : Nat) (g : TunEntry → TunEntry) : (s.modEntry id g).latches = s.latches := rfl
@[simp] theorem State.modEntry_held (s : State) (id : Nat) (g : TunEntry → TunEntry) : (s.modEntry id g).held = s.held := rfl
@[simp] theorem State.modEntry_winLatch (s : State) (id : Nat) (g : TunEntry → TunEntry) : (s.modEntry id g).winLatch = s.winLatch := rfl
@[simp] theorem State.modEntry_ident (s : State) (id : Nat) (g : TunEntry → TunEntry) : (s.modEntry id g).ident = s.ident := rfl
@[simp] theorem State.modEntry_power (s : State) (id : Nat) (g : TunEntry → TunEntry) : (s.modEntry id g).power = s.power := rfl
@[simp] theorem State.modEntry_kv (s : State) (id : Nat) (g : TunEntry → TunEntry) : (s.modEntry id g).kv = s.kv := rfl
@[simp] theorem State.modEntry_host (s : State) (id : Nat) (g : TunEntry → TunEntry) : (s.modEntry id g).host = s.host := rfl
@[simp] theorem State.modEntry_index (s : State) (id : Nat) (g : TunEntry → TunEntry) : (s.modEntry id g).index = s.index := rfl
@[simp] theorem State.modEntry_media (s : State) (id : Nat) (g : TunEntry → TunEntry) : (s.modEntry id g).media = s.media := rfl
@[simp] theorem State.modEntry_time (s : State) (id : Nat) (g : TunEntry → TunEntry) : (s.modEntry id g).time = s.time := rfl
@[simp] theorem State.modEntry_town (s : State) (id : Nat) (g : TunEntry → TunEntry) : (s.modEntry id g).town = s.town := rfl
@[simp] theorem State.modEntry_ywp (s : State) (id : Nat) (g : TunEntry → TunEntry) : (s.modEntry id g).ywp = s.ywp := rfl
@[simp] theorem State.modEntry_net (s : State) (id : Nat) (g : TunEntry → TunEntry) : (s.modEntry id g).net = s.net := rfl
@[simp] theorem State.modEntry_cip (s : State) (id : Nat) (g : TunEntry → TunEntry) : (s.modEntry id g).cip = s.cip := rfl
@[simp] theorem State.modEntry_led (s : State) (id : Nat) (g : TunEntry → TunEntry) : (s.modEntry id g).led = s.led := rfl
@[simp] theorem State.modEntry_drt (s : State) (id : Nat) (g : TunEntry → TunEntry) : (s.modEntry id g).drt = s.drt := rfl
@[simp] theorem State.modEntry_cfl (s : State) (id : Nat) (g : TunEntry → TunEntry) : (s.modEntry id g).cfl = s.cfl := rfl
@[simp] theorem State.modEntry_upd (s : State) (id : Nat) (g : TunEntry → TunEntry) : (s.modEntry id g).upd = s.upd := rfl
@[simp] theorem State.modEntry_sup (s : State) (id : Nat) (g : TunEntry → TunEntry) : (s.modEntry id g).sup = s.sup := rfl
@[simp] theorem State.modEntry_ev (s : State) (id : Nat) (g : TunEntry → TunEntry) : (s.modEntry id g).ev = s.ev := rfl
@[simp] theorem State.modEntry_changes (s : State) (id : Nat) (g : TunEntry → TunEntry) : (s.modEntry id g).changes = s.changes := rfl
@[simp] theorem State.modEntry_out (s : State) (id : Nat) (g : TunEntry → TunEntry) : (s.modEntry id g).out = s.out := rfl
@[simp] theorem State.modEntry_free (s : State) (id : Nat) (g : TunEntry → TunEntry) : (s.modEntry id g).free = s.free := rfl
@[simp] theorem State.modEntry_pending (s : State) (id : Nat) (g : TunEntry → TunEntry) : (s.modEntry id g).pending = s.pending := rfl

/-! ### modLun -/

@[simp] theorem State.modLun_clk (s : State) (n : Nat) (g : Lun → Lun) : (s.modLun n g).clk = s.clk := rfl
@[simp] theorem State.modLun_regs (s : State) (n : Nat) (g : Lun → Lun) : (s.modLun n g).regs = s.regs := rfl
@[simp] theorem State.modLun_latches (s : State) (n : Nat) (g : Lun → Lun) : (s.modLun n g).latches = s.latches := rfl
@[simp] theorem State.modLun_held (s : State) (n : Nat) (g : Lun → Lun) : (s.modLun n g).held = s.held := rfl
@[simp] theorem State.modLun_winLatch (s : State) (n : Nat) (g : Lun → Lun) : (s.modLun n g).winLatch = s.winLatch := rfl
@[simp] theorem State.modLun_ident (s : State) (n : Nat) (g : Lun → Lun) : (s.modLun n g).ident = s.ident := rfl
@[simp] theorem State.modLun_power (s : State) (n : Nat) (g : Lun → Lun) : (s.modLun n g).power = s.power := rfl
@[simp] theorem State.modLun_kv (s : State) (n : Nat) (g : Lun → Lun) : (s.modLun n g).kv = s.kv := rfl
@[simp] theorem State.modLun_host (s : State) (n : Nat) (g : Lun → Lun) : (s.modLun n g).host = s.host := rfl
@[simp] theorem State.modLun_index (s : State) (n : Nat) (g : Lun → Lun) : (s.modLun n g).index = s.index := rfl
@[simp] theorem State.modLun_tun (s : State) (n : Nat) (g : Lun → Lun) : (s.modLun n g).tun = s.tun := rfl
@[simp] theorem State.modLun_time (s : State) (n : Nat) (g : Lun → Lun) : (s.modLun n g).time = s.time := rfl
@[simp] theorem State.modLun_town (s : State) (n : Nat) (g : Lun → Lun) : (s.modLun n g).town = s.town := rfl
@[simp] theorem State.modLun_ywp (s : State) (n : Nat) (g : Lun → Lun) : (s.modLun n g).ywp = s.ywp := rfl
@[simp] theorem State.modLun_net (s : State) (n : Nat) (g : Lun → Lun) : (s.modLun n g).net = s.net := rfl
@[simp] theorem State.modLun_cip (s : State) (n : Nat) (g : Lun → Lun) : (s.modLun n g).cip = s.cip := rfl
@[simp] theorem State.modLun_led (s : State) (n : Nat) (g : Lun → Lun) : (s.modLun n g).led = s.led := rfl
@[simp] theorem State.modLun_drt (s : State) (n : Nat) (g : Lun → Lun) : (s.modLun n g).drt = s.drt := rfl
@[simp] theorem State.modLun_cfl (s : State) (n : Nat) (g : Lun → Lun) : (s.modLun n g).cfl = s.cfl := rfl
@[simp] theorem State.modLun_upd (s : State) (n : Nat) (g : Lun → Lun) : (s.modLun n g).upd = s.upd := rfl
@[simp] theorem State.modLun_sup (s : State) (n : Nat) (g : Lun → Lun) : (s.modLun n g).sup = s.sup := rfl
@[simp] theorem State.modLun_ev (s : State) (n : Nat) (g : Lun → Lun) : (s.modLun n g).ev = s.ev := rfl
@[simp] theorem State.modLun_changes (s : State) (n : Nat) (g : Lun → Lun) : (s.modLun n g).changes = s.changes := rfl
@[simp] theorem State.modLun_out (s : State) (n : Nat) (g : Lun → Lun) : (s.modLun n g).out = s.out := rfl
@[simp] theorem State.modLun_free (s : State) (n : Nat) (g : Lun → Lun) : (s.modLun n g).free = s.free := rfl
@[simp] theorem State.modLun_pending (s : State) (n : Nat) (g : Lun → Lun) : (s.modLun n g).pending = s.pending := rfl

/-! ### modSet -/

@[simp] theorem State.modSet_clk (s : State) (w : Nat) (g : TSet → TSet) : (s.modSet w g).clk = s.clk := rfl
@[simp] theorem State.modSet_regs (s : State) (w : Nat) (g : TSet → TSet) : (s.modSet w g).regs = s.regs := rfl
@[simp] theorem State.modSet_latches (s : State) (w : Nat) (g : TSet → TSet) : (s.modSet w g).latches = s.latches := rfl
@[simp] theorem State.modSet_held (s : State) (w : Nat) (g : TSet → TSet) : (s.modSet w g).held = s.held := rfl
@[simp] theorem State.modSet_winLatch (s : State) (w : Nat) (g : TSet → TSet) : (s.modSet w g).winLatch = s.winLatch := rfl
@[simp] theorem State.modSet_ident (s : State) (w : Nat) (g : TSet → TSet) : (s.modSet w g).ident = s.ident := rfl
@[simp] theorem State.modSet_power (s : State) (w : Nat) (g : TSet → TSet) : (s.modSet w g).power = s.power := rfl
@[simp] theorem State.modSet_kv (s : State) (w : Nat) (g : TSet → TSet) : (s.modSet w g).kv = s.kv := rfl
@[simp] theorem State.modSet_host (s : State) (w : Nat) (g : TSet → TSet) : (s.modSet w g).host = s.host := rfl
@[simp] theorem State.modSet_index (s : State) (w : Nat) (g : TSet → TSet) : (s.modSet w g).index = s.index := rfl
@[simp] theorem State.modSet_tun (s : State) (w : Nat) (g : TSet → TSet) : (s.modSet w g).tun = s.tun := rfl
@[simp] theorem State.modSet_time (s : State) (w : Nat) (g : TSet → TSet) : (s.modSet w g).time = s.time := rfl
@[simp] theorem State.modSet_town (s : State) (w : Nat) (g : TSet → TSet) : (s.modSet w g).town = s.town := rfl
@[simp] theorem State.modSet_ywp (s : State) (w : Nat) (g : TSet → TSet) : (s.modSet w g).ywp = s.ywp := rfl
@[simp] theorem State.modSet_net (s : State) (w : Nat) (g : TSet → TSet) : (s.modSet w g).net = s.net := rfl
@[simp] theorem State.modSet_cip (s : State) (w : Nat) (g : TSet → TSet) : (s.modSet w g).cip = s.cip := rfl
@[simp] theorem State.modSet_led (s : State) (w : Nat) (g : TSet → TSet) : (s.modSet w g).led = s.led := rfl
@[simp] theorem State.modSet_drt (s : State) (w : Nat) (g : TSet → TSet) : (s.modSet w g).drt = s.drt := rfl
@[simp] theorem State.modSet_cfl (s : State) (w : Nat) (g : TSet → TSet) : (s.modSet w g).cfl = s.cfl := rfl
@[simp] theorem State.modSet_upd (s : State) (w : Nat) (g : TSet → TSet) : (s.modSet w g).upd = s.upd := rfl
@[simp] theorem State.modSet_sup (s : State) (w : Nat) (g : TSet → TSet) : (s.modSet w g).sup = s.sup := rfl
@[simp] theorem State.modSet_ev (s : State) (w : Nat) (g : TSet → TSet) : (s.modSet w g).ev = s.ev := rfl
@[simp] theorem State.modSet_changes (s : State) (w : Nat) (g : TSet → TSet) : (s.modSet w g).changes = s.changes := rfl
@[simp] theorem State.modSet_out (s : State) (w : Nat) (g : TSet → TSet) : (s.modSet w g).out = s.out := rfl
@[simp] theorem State.modSet_free (s : State) (w : Nat) (g : TSet → TSet) : (s.modSet w g).free = s.free := rfl
@[simp] theorem State.modSet_pending (s : State) (w : Nat) (g : TSet → TSet) : (s.modSet w g).pending = s.pending := rfl

/-! ### fetchOne -/

@[simp] theorem State.fetchOne_clk (s : State) (f n : Nat) (d : Desc) (x : Fetched) (ph : Phase) : (s.fetchOne f n d x ph).clk = s.clk := by unfold State.fetchOne; rw [State.modRing_clk, State.rp_clk, State.rp_clk]
@[simp] theorem State.fetchOne_latches (s : State) (f n : Nat) (d : Desc) (x : Fetched) (ph : Phase) : (s.fetchOne f n d x ph).latches = s.latches := by unfold State.fetchOne; rw [State.modRing_latches, State.rp_latches, State.rp_latches]
@[simp] theorem State.fetchOne_held (s : State) (f n : Nat) (d : Desc) (x : Fetched) (ph : Phase) : (s.fetchOne f n d x ph).held = s.held := by unfold State.fetchOne; rw [State.modRing_held, State.rp_held, State.rp_held]
@[simp] theorem State.fetchOne_winLatch (s : State) (f n : Nat) (d : Desc) (x : Fetched) (ph : Phase) : (s.fetchOne f n d x ph).winLatch = s.winLatch := by unfold State.fetchOne; rw [State.modRing_winLatch, State.rp_winLatch, State.rp_winLatch]
@[simp] theorem State.fetchOne_ident (s : State) (f n : Nat) (d : Desc) (x : Fetched) (ph : Phase) : (s.fetchOne f n d x ph).ident = s.ident := by unfold State.fetchOne; rw [State.modRing_ident, State.rp_ident, State.rp_ident]
@[simp] theorem State.fetchOne_power (s : State) (f n : Nat) (d : Desc) (x : Fetched) (ph : Phase) : (s.fetchOne f n d x ph).power = s.power := by unfold State.fetchOne; rw [State.modRing_power, State.rp_power, State.rp_power]
@[simp] theorem State.fetchOne_index (s : State) (f n : Nat) (d : Desc) (x : Fetched) (ph : Phase) : (s.fetchOne f n d x ph).index = s.index := by unfold State.fetchOne; rw [State.modRing_index, State.rp_index, State.rp_index]
@[simp] theorem State.fetchOne_tun (s : State) (f n : Nat) (d : Desc) (x : Fetched) (ph : Phase) : (s.fetchOne f n d x ph).tun = s.tun := by unfold State.fetchOne; rw [State.modRing_tun, State.rp_tun, State.rp_tun]
@[simp] theorem State.fetchOne_media (s : State) (f n : Nat) (d : Desc) (x : Fetched) (ph : Phase) : (s.fetchOne f n d x ph).media = s.media := by unfold State.fetchOne; rw [State.modRing_media, State.rp_media, State.rp_media]
@[simp] theorem State.fetchOne_time (s : State) (f n : Nat) (d : Desc) (x : Fetched) (ph : Phase) : (s.fetchOne f n d x ph).time = s.time := by unfold State.fetchOne; rw [State.modRing_time, State.rp_time, State.rp_time]
@[simp] theorem State.fetchOne_town (s : State) (f n : Nat) (d : Desc) (x : Fetched) (ph : Phase) : (s.fetchOne f n d x ph).town = s.town := by unfold State.fetchOne; rw [State.modRing_town, State.rp_town, State.rp_town]
@[simp] theorem State.fetchOne_ywp (s : State) (f n : Nat) (d : Desc) (x : Fetched) (ph : Phase) : (s.fetchOne f n d x ph).ywp = s.ywp := by unfold State.fetchOne; rw [State.modRing_ywp, State.rp_ywp, State.rp_ywp]
@[simp] theorem State.fetchOne_net (s : State) (f n : Nat) (d : Desc) (x : Fetched) (ph : Phase) : (s.fetchOne f n d x ph).net = s.net := by unfold State.fetchOne; rw [State.modRing_net, State.rp_net, State.rp_net]
@[simp] theorem State.fetchOne_cip (s : State) (f n : Nat) (d : Desc) (x : Fetched) (ph : Phase) : (s.fetchOne f n d x ph).cip = s.cip := by unfold State.fetchOne; rw [State.modRing_cip, State.rp_cip, State.rp_cip]
@[simp] theorem State.fetchOne_led (s : State) (f n : Nat) (d : Desc) (x : Fetched) (ph : Phase) : (s.fetchOne f n d x ph).led = s.led := by unfold State.fetchOne; rw [State.modRing_led, State.rp_led, State.rp_led]
@[simp] theorem State.fetchOne_drt (s : State) (f n : Nat) (d : Desc) (x : Fetched) (ph : Phase) : (s.fetchOne f n d x ph).drt = s.drt := by unfold State.fetchOne; rw [State.modRing_drt, State.rp_drt, State.rp_drt]
@[simp] theorem State.fetchOne_cfl (s : State) (f n : Nat) (d : Desc) (x : Fetched) (ph : Phase) : (s.fetchOne f n d x ph).cfl = s.cfl := by unfold State.fetchOne; rw [State.modRing_cfl, State.rp_cfl, State.rp_cfl]
@[simp] theorem State.fetchOne_upd (s : State) (f n : Nat) (d : Desc) (x : Fetched) (ph : Phase) : (s.fetchOne f n d x ph).upd = s.upd := by unfold State.fetchOne; rw [State.modRing_upd, State.rp_upd, State.rp_upd]
@[simp] theorem State.fetchOne_sup (s : State) (f n : Nat) (d : Desc) (x : Fetched) (ph : Phase) : (s.fetchOne f n d x ph).sup = s.sup := by unfold State.fetchOne; rw [State.modRing_sup, State.rp_sup, State.rp_sup]
@[simp] theorem State.fetchOne_ev (s : State) (f n : Nat) (d : Desc) (x : Fetched) (ph : Phase) : (s.fetchOne f n d x ph).ev = s.ev := by unfold State.fetchOne; rw [State.modRing_ev, State.rp_ev, State.rp_ev]
@[simp] theorem State.fetchOne_changes (s : State) (f n : Nat) (d : Desc) (x : Fetched) (ph : Phase) : (s.fetchOne f n d x ph).changes = s.changes := by unfold State.fetchOne; rw [State.modRing_changes, State.rp_changes, State.rp_changes]
@[simp] theorem State.fetchOne_out (s : State) (f n : Nat) (d : Desc) (x : Fetched) (ph : Phase) : (s.fetchOne f n d x ph).out = s.out := by unfold State.fetchOne; rw [State.modRing_out, State.rp_out, State.rp_out]
@[simp] theorem State.fetchOne_free (s : State) (f n : Nat) (d : Desc) (x : Fetched) (ph : Phase) : (s.fetchOne f n d x ph).free = s.free := by unfold State.fetchOne; rw [State.modRing_free, State.rp_free, State.rp_free]
@[simp] theorem State.fetchOne_pending (s : State) (f n : Nat) (d : Desc) (x : Fetched) (ph : Phase) : (s.fetchOne f n d x ph).pending = s.pending := by unfold State.fetchOne; rw [State.modRing_pending, State.rp_pending, State.rp_pending]

/-! ### settle and within -/

@[simp] theorem settle_regs (s t : State) : (settle s t).regs = t.regs := rfl
@[simp] theorem settle_latches (s t : State) : (settle s t).latches = t.latches := rfl
@[simp] theorem settle_held (s t : State) : (settle s t).held = t.held := rfl
@[simp] theorem settle_winLatch (s t : State) : (settle s t).winLatch = t.winLatch := rfl
@[simp] theorem settle_ident (s t : State) : (settle s t).ident = t.ident := rfl
@[simp] theorem settle_power (s t : State) : (settle s t).power = t.power := rfl
@[simp] theorem settle_kv (s t : State) : (settle s t).kv = t.kv := rfl
@[simp] theorem settle_host (s t : State) : (settle s t).host = t.host := rfl
@[simp] theorem settle_index (s t : State) : (settle s t).index = t.index := rfl
@[simp] theorem settle_tun (s t : State) : (settle s t).tun = t.tun := rfl
@[simp] theorem settle_media (s t : State) : (settle s t).media = t.media := rfl
@[simp] theorem settle_time (s t : State) : (settle s t).time = t.time := rfl
@[simp] theorem settle_town (s t : State) : (settle s t).town = t.town := rfl
@[simp] theorem settle_ywp (s t : State) : (settle s t).ywp = t.ywp := rfl
@[simp] theorem settle_net (s t : State) : (settle s t).net = t.net := rfl
@[simp] theorem settle_cip (s t : State) : (settle s t).cip = t.cip := rfl
@[simp] theorem settle_led (s t : State) : (settle s t).led = t.led := rfl
@[simp] theorem settle_drt (s t : State) : (settle s t).drt = t.drt := rfl
@[simp] theorem settle_cfl (s t : State) : (settle s t).cfl = t.cfl := rfl
@[simp] theorem settle_upd (s t : State) : (settle s t).upd = t.upd := rfl
@[simp] theorem settle_sup (s t : State) : (settle s t).sup = t.sup := rfl
@[simp] theorem settle_ev (s t : State) : (settle s t).ev = t.ev := rfl
@[simp] theorem settle_out (s t : State) : (settle s t).out = t.out := rfl
@[simp] theorem settle_free (s t : State) : (settle s t).free = t.free := rfl
@[simp] theorem settle_pending (s t : State) : (settle s t).pending = s.pending := rfl
@[simp] theorem settle_clk (s t : State) : (settle s t).clk = ⟨max s.clk.cycles t.clk.cycles, t.clk.tai⟩ := rfl
@[simp] theorem State.within_clk (s t : State) (ps : List Part) (ns : List RegName) :
    (s.within ps ns t).clk = if ps.contains .clk then t.clk else s.clk := rfl
@[simp] theorem State.within_latches (s t : State) (ps : List Part) (ns : List RegName) :
    (s.within ps ns t).latches = if ps.contains .latches then t.latches else s.latches := rfl
@[simp] theorem State.within_held (s t : State) (ps : List Part) (ns : List RegName) :
    (s.within ps ns t).held = if ps.contains .held then t.held else s.held := rfl
@[simp] theorem State.within_winLatch (s t : State) (ps : List Part) (ns : List RegName) :
    (s.within ps ns t).winLatch = if ps.contains .winLatch then t.winLatch else s.winLatch := rfl
@[simp] theorem State.within_ident (s t : State) (ps : List Part) (ns : List RegName) :
    (s.within ps ns t).ident = if ps.contains .ident then t.ident else s.ident := rfl
@[simp] theorem State.within_power (s t : State) (ps : List Part) (ns : List RegName) :
    (s.within ps ns t).power = if ps.contains .power then t.power else s.power := rfl
@[simp] theorem State.within_kv (s t : State) (ps : List Part) (ns : List RegName) :
    (s.within ps ns t).kv = if ps.contains .kv then t.kv else s.kv := rfl
@[simp] theorem State.within_host (s t : State) (ps : List Part) (ns : List RegName) :
    (s.within ps ns t).host = if ps.contains .host then t.host else s.host := rfl
@[simp] theorem State.within_index (s t : State) (ps : List Part) (ns : List RegName) :
    (s.within ps ns t).index = if ps.contains .index then t.index else s.index := rfl
@[simp] theorem State.within_tun (s t : State) (ps : List Part) (ns : List RegName) :
    (s.within ps ns t).tun = if ps.contains .tun then t.tun else s.tun := rfl
@[simp] theorem State.within_media (s t : State) (ps : List Part) (ns : List RegName) :
    (s.within ps ns t).media = if ps.contains .media then t.media else s.media := rfl
@[simp] theorem State.within_time (s t : State) (ps : List Part) (ns : List RegName) :
    (s.within ps ns t).time = if ps.contains .time then t.time else s.time := rfl
@[simp] theorem State.within_town (s t : State) (ps : List Part) (ns : List RegName) :
    (s.within ps ns t).town = if ps.contains .town then t.town else s.town := rfl
@[simp] theorem State.within_ywp (s t : State) (ps : List Part) (ns : List RegName) :
    (s.within ps ns t).ywp = if ps.contains .ywp then t.ywp else s.ywp := rfl
@[simp] theorem State.within_net (s t : State) (ps : List Part) (ns : List RegName) :
    (s.within ps ns t).net = if ps.contains .net then t.net else s.net := rfl
@[simp] theorem State.within_cip (s t : State) (ps : List Part) (ns : List RegName) :
    (s.within ps ns t).cip = if ps.contains .cip then t.cip else s.cip := rfl
@[simp] theorem State.within_led (s t : State) (ps : List Part) (ns : List RegName) :
    (s.within ps ns t).led = if ps.contains .led then t.led else s.led := rfl
@[simp] theorem State.within_drt (s t : State) (ps : List Part) (ns : List RegName) :
    (s.within ps ns t).drt = if ps.contains .drt then t.drt else s.drt := rfl
@[simp] theorem State.within_cfl (s t : State) (ps : List Part) (ns : List RegName) :
    (s.within ps ns t).cfl = if ps.contains .cfl then t.cfl else s.cfl := rfl
@[simp] theorem State.within_upd (s t : State) (ps : List Part) (ns : List RegName) :
    (s.within ps ns t).upd = if ps.contains .upd then t.upd else s.upd := rfl
@[simp] theorem State.within_sup (s t : State) (ps : List Part) (ns : List RegName) :
    (s.within ps ns t).sup = if ps.contains .sup then t.sup else s.sup := rfl
@[simp] theorem State.within_ev (s t : State) (ps : List Part) (ns : List RegName) :
    (s.within ps ns t).ev = if ps.contains .ev then t.ev else s.ev := rfl
@[simp] theorem State.within_changes (s t : State) (ps : List Part) (ns : List RegName) :
    (s.within ps ns t).changes = if ps.contains .changes then t.changes else s.changes := rfl
@[simp] theorem State.within_out (s t : State) (ps : List Part) (ns : List RegName) :
    (s.within ps ns t).out = if ps.contains .out then t.out else s.out := rfl
@[simp] theorem State.within_free (s t : State) (ps : List Part) (ns : List RegName) :
    (s.within ps ns t).free = if ps.contains .free then t.free else s.free := rfl
@[simp] theorem State.within_pending (s t : State) (ps : List Part) (ns : List RegName) : (s.within ps ns t).pending = s.pending := rfl

/-! ### holdChange -/

@[simp] theorem State.holdChange_clk (s : State) (m : TMsg) (p : Pool) : (s.holdChange m p).clk = s.clk := rfl
@[simp] theorem State.holdChange_regs (s : State) (m : TMsg) (p : Pool) : (s.holdChange m p).regs = s.regs := rfl
@[simp] theorem State.holdChange_latches (s : State) (m : TMsg) (p : Pool) : (s.holdChange m p).latches = s.latches := rfl
@[simp] theorem State.holdChange_held (s : State) (m : TMsg) (p : Pool) : (s.holdChange m p).held = s.held := rfl
@[simp] theorem State.holdChange_winLatch (s : State) (m : TMsg) (p : Pool) : (s.holdChange m p).winLatch = s.winLatch := rfl
@[simp] theorem State.holdChange_ident (s : State) (m : TMsg) (p : Pool) : (s.holdChange m p).ident = s.ident := rfl
@[simp] theorem State.holdChange_power (s : State) (m : TMsg) (p : Pool) : (s.holdChange m p).power = s.power := rfl
@[simp] theorem State.holdChange_host (s : State) (m : TMsg) (p : Pool) : (s.holdChange m p).host = s.host := rfl
@[simp] theorem State.holdChange_index (s : State) (m : TMsg) (p : Pool) : (s.holdChange m p).index = s.index := rfl
@[simp] theorem State.holdChange_tun (s : State) (m : TMsg) (p : Pool) : (s.holdChange m p).tun = s.tun := rfl
@[simp] theorem State.holdChange_media (s : State) (m : TMsg) (p : Pool) : (s.holdChange m p).media = s.media := rfl
@[simp] theorem State.holdChange_time (s : State) (m : TMsg) (p : Pool) : (s.holdChange m p).time = s.time := rfl
@[simp] theorem State.holdChange_town (s : State) (m : TMsg) (p : Pool) : (s.holdChange m p).town = s.town := rfl
@[simp] theorem State.holdChange_ywp (s : State) (m : TMsg) (p : Pool) : (s.holdChange m p).ywp = s.ywp := rfl
@[simp] theorem State.holdChange_net (s : State) (m : TMsg) (p : Pool) : (s.holdChange m p).net = s.net := rfl
@[simp] theorem State.holdChange_cip (s : State) (m : TMsg) (p : Pool) : (s.holdChange m p).cip = s.cip := rfl
@[simp] theorem State.holdChange_led (s : State) (m : TMsg) (p : Pool) : (s.holdChange m p).led = s.led := rfl
@[simp] theorem State.holdChange_drt (s : State) (m : TMsg) (p : Pool) : (s.holdChange m p).drt = s.drt := rfl
@[simp] theorem State.holdChange_cfl (s : State) (m : TMsg) (p : Pool) : (s.holdChange m p).cfl = s.cfl := rfl
@[simp] theorem State.holdChange_upd (s : State) (m : TMsg) (p : Pool) : (s.holdChange m p).upd = s.upd := rfl
@[simp] theorem State.holdChange_sup (s : State) (m : TMsg) (p : Pool) : (s.holdChange m p).sup = s.sup := rfl
@[simp] theorem State.holdChange_ev (s : State) (m : TMsg) (p : Pool) : (s.holdChange m p).ev = s.ev := rfl
@[simp] theorem State.holdChange_changes (s : State) (m : TMsg) (p : Pool) : (s.holdChange m p).changes = s.changes := rfl
@[simp] theorem State.holdChange_out (s : State) (m : TMsg) (p : Pool) : (s.holdChange m p).out = s.out := rfl
@[simp] theorem State.holdChange_free (s : State) (m : TMsg) (p : Pool) : (s.holdChange m p).free = s.free := rfl
@[simp] theorem State.holdChange_pending (s : State) (m : TMsg) (p : Pool) : (s.holdChange m p).pending = s.pending := rfl

/-! ### journal -/

@[simp] theorem State.journal_clk (s : State) (k d w x : Nat) (e : Option LeafEntry) (a b : Nat) : (s.journal k d w x e a b).clk = s.clk := rfl
@[simp] theorem State.journal_regs (s : State) (k d w x : Nat) (e : Option LeafEntry) (a b : Nat) : (s.journal k d w x e a b).regs = s.regs := rfl
@[simp] theorem State.journal_latches (s : State) (k d w x : Nat) (e : Option LeafEntry) (a b : Nat) : (s.journal k d w x e a b).latches = s.latches := rfl
@[simp] theorem State.journal_held (s : State) (k d w x : Nat) (e : Option LeafEntry) (a b : Nat) : (s.journal k d w x e a b).held = s.held := rfl
@[simp] theorem State.journal_winLatch (s : State) (k d w x : Nat) (e : Option LeafEntry) (a b : Nat) : (s.journal k d w x e a b).winLatch = s.winLatch := rfl
@[simp] theorem State.journal_ident (s : State) (k d w x : Nat) (e : Option LeafEntry) (a b : Nat) : (s.journal k d w x e a b).ident = s.ident := rfl
@[simp] theorem State.journal_power (s : State) (k d w x : Nat) (e : Option LeafEntry) (a b : Nat) : (s.journal k d w x e a b).power = s.power := rfl
@[simp] theorem State.journal_kv (s : State) (k d w x : Nat) (e : Option LeafEntry) (a b : Nat) : (s.journal k d w x e a b).kv = s.kv := rfl
@[simp] theorem State.journal_host (s : State) (k d w x : Nat) (e : Option LeafEntry) (a b : Nat) : (s.journal k d w x e a b).host = s.host := rfl
@[simp] theorem State.journal_tun (s : State) (k d w x : Nat) (e : Option LeafEntry) (a b : Nat) : (s.journal k d w x e a b).tun = s.tun := rfl
@[simp] theorem State.journal_media (s : State) (k d w x : Nat) (e : Option LeafEntry) (a b : Nat) : (s.journal k d w x e a b).media = s.media := rfl
@[simp] theorem State.journal_time (s : State) (k d w x : Nat) (e : Option LeafEntry) (a b : Nat) : (s.journal k d w x e a b).time = s.time := rfl
@[simp] theorem State.journal_town (s : State) (k d w x : Nat) (e : Option LeafEntry) (a b : Nat) : (s.journal k d w x e a b).town = s.town := rfl
@[simp] theorem State.journal_ywp (s : State) (k d w x : Nat) (e : Option LeafEntry) (a b : Nat) : (s.journal k d w x e a b).ywp = s.ywp := rfl
@[simp] theorem State.journal_net (s : State) (k d w x : Nat) (e : Option LeafEntry) (a b : Nat) : (s.journal k d w x e a b).net = s.net := rfl
@[simp] theorem State.journal_cip (s : State) (k d w x : Nat) (e : Option LeafEntry) (a b : Nat) : (s.journal k d w x e a b).cip = s.cip := rfl
@[simp] theorem State.journal_led (s : State) (k d w x : Nat) (e : Option LeafEntry) (a b : Nat) : (s.journal k d w x e a b).led = s.led := rfl
@[simp] theorem State.journal_drt (s : State) (k d w x : Nat) (e : Option LeafEntry) (a b : Nat) : (s.journal k d w x e a b).drt = s.drt := rfl
@[simp] theorem State.journal_cfl (s : State) (k d w x : Nat) (e : Option LeafEntry) (a b : Nat) : (s.journal k d w x e a b).cfl = s.cfl := rfl
@[simp] theorem State.journal_upd (s : State) (k d w x : Nat) (e : Option LeafEntry) (a b : Nat) : (s.journal k d w x e a b).upd = s.upd := rfl
@[simp] theorem State.journal_sup (s : State) (k d w x : Nat) (e : Option LeafEntry) (a b : Nat) : (s.journal k d w x e a b).sup = s.sup := rfl
@[simp] theorem State.journal_ev (s : State) (k d w x : Nat) (e : Option LeafEntry) (a b : Nat) : (s.journal k d w x e a b).ev = s.ev := rfl
@[simp] theorem State.journal_changes (s : State) (k d w x : Nat) (e : Option LeafEntry) (a b : Nat) : (s.journal k d w x e a b).changes = s.changes := rfl
@[simp] theorem State.journal_out (s : State) (k d w x : Nat) (e : Option LeafEntry) (a b : Nat) : (s.journal k d w x e a b).out = s.out := rfl
@[simp] theorem State.journal_free (s : State) (k d w x : Nat) (e : Option LeafEntry) (a b : Nat) : (s.journal k d w x e a b).free = s.free := rfl
@[simp] theorem State.journal_pending (s : State) (k d w x : Nat) (e : Option LeafEntry) (a b : Nat) : (s.journal k d w x e a b).pending = s.pending := rfl

/-! ### dropRows -/

@[simp] theorem State.dropRows_clk (s : State) (n : Nat) (i : Bool) : (s.dropRows n i).clk = s.clk := rfl
@[simp] theorem State.dropRows_regs (s : State) (n : Nat) (i : Bool) : (s.dropRows n i).regs = s.regs := rfl
@[simp] theorem State.dropRows_latches (s : State) (n : Nat) (i : Bool) : (s.dropRows n i).latches = s.latches := rfl
@[simp] theorem State.dropRows_held (s : State) (n : Nat) (i : Bool) : (s.dropRows n i).held = s.held := rfl
@[simp] theorem State.dropRows_winLatch (s : State) (n : Nat) (i : Bool) : (s.dropRows n i).winLatch = s.winLatch := rfl
@[simp] theorem State.dropRows_ident (s : State) (n : Nat) (i : Bool) : (s.dropRows n i).ident = s.ident := rfl
@[simp] theorem State.dropRows_power (s : State) (n : Nat) (i : Bool) : (s.dropRows n i).power = s.power := rfl
@[simp] theorem State.dropRows_kv (s : State) (n : Nat) (i : Bool) : (s.dropRows n i).kv = s.kv := rfl
@[simp] theorem State.dropRows_host (s : State) (n : Nat) (i : Bool) : (s.dropRows n i).host = s.host := rfl
@[simp] theorem State.dropRows_index (s : State) (n : Nat) (i : Bool) : (s.dropRows n i).index = s.index := rfl
@[simp] theorem State.dropRows_media (s : State) (n : Nat) (i : Bool) : (s.dropRows n i).media = s.media := rfl
@[simp] theorem State.dropRows_time (s : State) (n : Nat) (i : Bool) : (s.dropRows n i).time = s.time := rfl
@[simp] theorem State.dropRows_town (s : State) (n : Nat) (i : Bool) : (s.dropRows n i).town = s.town := rfl
@[simp] theorem State.dropRows_ywp (s : State) (n : Nat) (i : Bool) : (s.dropRows n i).ywp = s.ywp := rfl
@[simp] theorem State.dropRows_net (s : State) (n : Nat) (i : Bool) : (s.dropRows n i).net = s.net := rfl
@[simp] theorem State.dropRows_cip (s : State) (n : Nat) (i : Bool) : (s.dropRows n i).cip = s.cip := rfl
@[simp] theorem State.dropRows_led (s : State) (n : Nat) (i : Bool) : (s.dropRows n i).led = s.led := rfl
@[simp] theorem State.dropRows_drt (s : State) (n : Nat) (i : Bool) : (s.dropRows n i).drt = s.drt := rfl
@[simp] theorem State.dropRows_cfl (s : State) (n : Nat) (i : Bool) : (s.dropRows n i).cfl = s.cfl := rfl
@[simp] theorem State.dropRows_upd (s : State) (n : Nat) (i : Bool) : (s.dropRows n i).upd = s.upd := rfl
@[simp] theorem State.dropRows_sup (s : State) (n : Nat) (i : Bool) : (s.dropRows n i).sup = s.sup := rfl
@[simp] theorem State.dropRows_ev (s : State) (n : Nat) (i : Bool) : (s.dropRows n i).ev = s.ev := rfl
@[simp] theorem State.dropRows_changes (s : State) (n : Nat) (i : Bool) : (s.dropRows n i).changes = s.changes := rfl
@[simp] theorem State.dropRows_out (s : State) (n : Nat) (i : Bool) : (s.dropRows n i).out = s.out := rfl
@[simp] theorem State.dropRows_free (s : State) (n : Nat) (i : Bool) : (s.dropRows n i).free = s.free := rfl
@[simp] theorem State.dropRows_pending (s : State) (n : Nat) (i : Bool) : (s.dropRows n i).pending = s.pending := rfl

/-! ### addRow -/

@[simp] theorem State.addRow_clk (s : State) (d : Nat) (i : Bool) (n k : Nat) : (s.addRow d i n k).clk = s.clk := by simp only [State.addRow, State.fmax_clk]
@[simp] theorem State.addRow_latches (s : State) (d : Nat) (i : Bool) (n k : Nat) : (s.addRow d i n k).latches = s.latches := by simp only [State.addRow, State.fmax_latches]
@[simp] theorem State.addRow_held (s : State) (d : Nat) (i : Bool) (n k : Nat) : (s.addRow d i n k).held = s.held := by simp only [State.addRow, State.fmax_held]
@[simp] theorem State.addRow_winLatch (s : State) (d : Nat) (i : Bool) (n k : Nat) : (s.addRow d i n k).winLatch = s.winLatch := by simp only [State.addRow, State.fmax_winLatch]
@[simp] theorem State.addRow_ident (s : State) (d : Nat) (i : Bool) (n k : Nat) : (s.addRow d i n k).ident = s.ident := by simp only [State.addRow, State.fmax_ident]
@[simp] theorem State.addRow_power (s : State) (d : Nat) (i : Bool) (n k : Nat) : (s.addRow d i n k).power = s.power := by simp only [State.addRow, State.fmax_power]
@[simp] theorem State.addRow_kv (s : State) (d : Nat) (i : Bool) (n k : Nat) : (s.addRow d i n k).kv = s.kv := by simp only [State.addRow, State.fmax_kv]
@[simp] theorem State.addRow_host (s : State) (d : Nat) (i : Bool) (n k : Nat) : (s.addRow d i n k).host = s.host := by simp only [State.addRow, State.fmax_host]
@[simp] theorem State.addRow_index (s : State) (d : Nat) (i : Bool) (n k : Nat) : (s.addRow d i n k).index = s.index := by simp only [State.addRow, State.fmax_index]
@[simp] theorem State.addRow_media (s : State) (d : Nat) (i : Bool) (n k : Nat) : (s.addRow d i n k).media = s.media := by simp only [State.addRow, State.fmax_media]
@[simp] theorem State.addRow_time (s : State) (d : Nat) (i : Bool) (n k : Nat) : (s.addRow d i n k).time = s.time := by simp only [State.addRow, State.fmax_time]
@[simp] theorem State.addRow_town (s : State) (d : Nat) (i : Bool) (n k : Nat) : (s.addRow d i n k).town = s.town := by simp only [State.addRow, State.fmax_town]
@[simp] theorem State.addRow_ywp (s : State) (d : Nat) (i : Bool) (n k : Nat) : (s.addRow d i n k).ywp = s.ywp := by simp only [State.addRow, State.fmax_ywp]
@[simp] theorem State.addRow_net (s : State) (d : Nat) (i : Bool) (n k : Nat) : (s.addRow d i n k).net = s.net := by simp only [State.addRow, State.fmax_net]
@[simp] theorem State.addRow_cip (s : State) (d : Nat) (i : Bool) (n k : Nat) : (s.addRow d i n k).cip = s.cip := by simp only [State.addRow, State.fmax_cip]
@[simp] theorem State.addRow_led (s : State) (d : Nat) (i : Bool) (n k : Nat) : (s.addRow d i n k).led = s.led := by simp only [State.addRow, State.fmax_led]
@[simp] theorem State.addRow_drt (s : State) (d : Nat) (i : Bool) (n k : Nat) : (s.addRow d i n k).drt = s.drt := by simp only [State.addRow, State.fmax_drt]
@[simp] theorem State.addRow_cfl (s : State) (d : Nat) (i : Bool) (n k : Nat) : (s.addRow d i n k).cfl = s.cfl := by simp only [State.addRow, State.fmax_cfl]
@[simp] theorem State.addRow_upd (s : State) (d : Nat) (i : Bool) (n k : Nat) : (s.addRow d i n k).upd = s.upd := by simp only [State.addRow, State.fmax_upd]
@[simp] theorem State.addRow_sup (s : State) (d : Nat) (i : Bool) (n k : Nat) : (s.addRow d i n k).sup = s.sup := by simp only [State.addRow, State.fmax_sup]
@[simp] theorem State.addRow_ev (s : State) (d : Nat) (i : Bool) (n k : Nat) : (s.addRow d i n k).ev = s.ev := by simp only [State.addRow, State.fmax_ev]
@[simp] theorem State.addRow_changes (s : State) (d : Nat) (i : Bool) (n k : Nat) : (s.addRow d i n k).changes = s.changes := by simp only [State.addRow, State.fmax_changes]
@[simp] theorem State.addRow_out (s : State) (d : Nat) (i : Bool) (n k : Nat) : (s.addRow d i n k).out = s.out := by simp only [State.addRow, State.fmax_out]
@[simp] theorem State.addRow_free (s : State) (d : Nat) (i : Bool) (n k : Nat) : (s.addRow d i n k).free = s.free := by simp only [State.addRow, State.fmax_free]
@[simp] theorem State.addRow_pending (s : State) (d : Nat) (i : Bool) (n k : Nat) : (s.addRow d i n k).pending = s.pending := by simp only [State.addRow, State.fmax_pending]

/-! ### dropOp -/

@[simp] theorem State.dropOp_clk (s : State) (n : Nat) : (s.dropOp n).clk = s.clk := rfl
@[simp] theorem State.dropOp_regs (s : State) (n : Nat) : (s.dropOp n).regs = s.regs := rfl
@[simp] theorem State.dropOp_latches (s : State) (n : Nat) : (s.dropOp n).latches = s.latches := rfl
@[simp] theorem State.dropOp_held (s : State) (n : Nat) : (s.dropOp n).held = s.held := rfl
@[simp] theorem State.dropOp_winLatch (s : State) (n : Nat) : (s.dropOp n).winLatch = s.winLatch := rfl
@[simp] theorem State.dropOp_ident (s : State) (n : Nat) : (s.dropOp n).ident = s.ident := rfl
@[simp] theorem State.dropOp_power (s : State) (n : Nat) : (s.dropOp n).power = s.power := rfl
@[simp] theorem State.dropOp_kv (s : State) (n : Nat) : (s.dropOp n).kv = s.kv := rfl
@[simp] theorem State.dropOp_host (s : State) (n : Nat) : (s.dropOp n).host = s.host := rfl
@[simp] theorem State.dropOp_index (s : State) (n : Nat) : (s.dropOp n).index = s.index := rfl
@[simp] theorem State.dropOp_tun (s : State) (n : Nat) : (s.dropOp n).tun = s.tun := rfl
@[simp] theorem State.dropOp_time (s : State) (n : Nat) : (s.dropOp n).time = s.time := rfl
@[simp] theorem State.dropOp_town (s : State) (n : Nat) : (s.dropOp n).town = s.town := rfl
@[simp] theorem State.dropOp_ywp (s : State) (n : Nat) : (s.dropOp n).ywp = s.ywp := rfl
@[simp] theorem State.dropOp_net (s : State) (n : Nat) : (s.dropOp n).net = s.net := rfl
@[simp] theorem State.dropOp_cip (s : State) (n : Nat) : (s.dropOp n).cip = s.cip := rfl
@[simp] theorem State.dropOp_led (s : State) (n : Nat) : (s.dropOp n).led = s.led := rfl
@[simp] theorem State.dropOp_drt (s : State) (n : Nat) : (s.dropOp n).drt = s.drt := rfl
@[simp] theorem State.dropOp_cfl (s : State) (n : Nat) : (s.dropOp n).cfl = s.cfl := rfl
@[simp] theorem State.dropOp_upd (s : State) (n : Nat) : (s.dropOp n).upd = s.upd := rfl
@[simp] theorem State.dropOp_sup (s : State) (n : Nat) : (s.dropOp n).sup = s.sup := rfl
@[simp] theorem State.dropOp_ev (s : State) (n : Nat) : (s.dropOp n).ev = s.ev := rfl
@[simp] theorem State.dropOp_changes (s : State) (n : Nat) : (s.dropOp n).changes = s.changes := rfl
@[simp] theorem State.dropOp_out (s : State) (n : Nat) : (s.dropOp n).out = s.out := rfl
@[simp] theorem State.dropOp_free (s : State) (n : Nat) : (s.dropOp n).free = s.free := rfl
@[simp] theorem State.dropOp_pending (s : State) (n : Nat) : (s.dropOp n).pending = s.pending := rfl

/-! ### modBlock -/

@[simp] theorem State.modBlock_clk (s : State) (l b : Nat) (f : Block → Block) : (s.modBlock l b f).clk = s.clk := rfl
@[simp] theorem State.modBlock_latches (s : State) (l b : Nat) (f : Block → Block) : (s.modBlock l b f).latches = s.latches := rfl
@[simp] theorem State.modBlock_held (s : State) (l b : Nat) (f : Block → Block) : (s.modBlock l b f).held = s.held := rfl
@[simp] theorem State.modBlock_winLatch (s : State) (l b : Nat) (f : Block → Block) : (s.modBlock l b f).winLatch = s.winLatch := rfl
@[simp] theorem State.modBlock_ident (s : State) (l b : Nat) (f : Block → Block) : (s.modBlock l b f).ident = s.ident := rfl
@[simp] theorem State.modBlock_power (s : State) (l b : Nat) (f : Block → Block) : (s.modBlock l b f).power = s.power := rfl
@[simp] theorem State.modBlock_kv (s : State) (l b : Nat) (f : Block → Block) : (s.modBlock l b f).kv = s.kv := rfl
@[simp] theorem State.modBlock_host (s : State) (l b : Nat) (f : Block → Block) : (s.modBlock l b f).host = s.host := rfl
@[simp] theorem State.modBlock_index (s : State) (l b : Nat) (f : Block → Block) : (s.modBlock l b f).index = s.index := rfl
@[simp] theorem State.modBlock_tun (s : State) (l b : Nat) (f : Block → Block) : (s.modBlock l b f).tun = s.tun := rfl
@[simp] theorem State.modBlock_time (s : State) (l b : Nat) (f : Block → Block) : (s.modBlock l b f).time = s.time := rfl
@[simp] theorem State.modBlock_town (s : State) (l b : Nat) (f : Block → Block) : (s.modBlock l b f).town = s.town := rfl
@[simp] theorem State.modBlock_ywp (s : State) (l b : Nat) (f : Block → Block) : (s.modBlock l b f).ywp = s.ywp := rfl
@[simp] theorem State.modBlock_net (s : State) (l b : Nat) (f : Block → Block) : (s.modBlock l b f).net = s.net := rfl
@[simp] theorem State.modBlock_cip (s : State) (l b : Nat) (f : Block → Block) : (s.modBlock l b f).cip = s.cip := rfl
@[simp] theorem State.modBlock_led (s : State) (l b : Nat) (f : Block → Block) : (s.modBlock l b f).led = s.led := rfl
@[simp] theorem State.modBlock_drt (s : State) (l b : Nat) (f : Block → Block) : (s.modBlock l b f).drt = s.drt := rfl
@[simp] theorem State.modBlock_cfl (s : State) (l b : Nat) (f : Block → Block) : (s.modBlock l b f).cfl = s.cfl := rfl
@[simp] theorem State.modBlock_upd (s : State) (l b : Nat) (f : Block → Block) : (s.modBlock l b f).upd = s.upd := rfl
@[simp] theorem State.modBlock_sup (s : State) (l b : Nat) (f : Block → Block) : (s.modBlock l b f).sup = s.sup := rfl
@[simp] theorem State.modBlock_ev (s : State) (l b : Nat) (f : Block → Block) : (s.modBlock l b f).ev = s.ev := rfl
@[simp] theorem State.modBlock_changes (s : State) (l b : Nat) (f : Block → Block) : (s.modBlock l b f).changes = s.changes := rfl
@[simp] theorem State.modBlock_out (s : State) (l b : Nat) (f : Block → Block) : (s.modBlock l b f).out = s.out := rfl
@[simp] theorem State.modBlock_free (s : State) (l b : Nat) (f : Block → Block) : (s.modBlock l b f).free = s.free := rfl
@[simp] theorem State.modBlock_pending (s : State) (l b : Nat) (f : Block → Block) : (s.modBlock l b f).pending = s.pending := rfl
@[simp] theorem State.modBlock_regs (s : State) (l b : Nat) (f : Block → Block) : (s.modBlock l b f).regs = s.regs := rfl

/-! ### modItem -/

@[simp] theorem State.modItem_clk (s : State) (a : Nat) (f : Item → Item) : (s.modItem a f).clk = s.clk := rfl
@[simp] theorem State.modItem_latches (s : State) (a : Nat) (f : Item → Item) : (s.modItem a f).latches = s.latches := rfl
@[simp] theorem State.modItem_held (s : State) (a : Nat) (f : Item → Item) : (s.modItem a f).held = s.held := rfl
@[simp] theorem State.modItem_winLatch (s : State) (a : Nat) (f : Item → Item) : (s.modItem a f).winLatch = s.winLatch := rfl
@[simp] theorem State.modItem_ident (s : State) (a : Nat) (f : Item → Item) : (s.modItem a f).ident = s.ident := rfl
@[simp] theorem State.modItem_power (s : State) (a : Nat) (f : Item → Item) : (s.modItem a f).power = s.power := rfl
@[simp] theorem State.modItem_kv (s : State) (a : Nat) (f : Item → Item) : (s.modItem a f).kv = s.kv := rfl
@[simp] theorem State.modItem_host (s : State) (a : Nat) (f : Item → Item) : (s.modItem a f).host = s.host := rfl
@[simp] theorem State.modItem_index (s : State) (a : Nat) (f : Item → Item) : (s.modItem a f).index = s.index := rfl
@[simp] theorem State.modItem_tun (s : State) (a : Nat) (f : Item → Item) : (s.modItem a f).tun = s.tun := rfl
@[simp] theorem State.modItem_time (s : State) (a : Nat) (f : Item → Item) : (s.modItem a f).time = s.time := rfl
@[simp] theorem State.modItem_town (s : State) (a : Nat) (f : Item → Item) : (s.modItem a f).town = s.town := rfl
@[simp] theorem State.modItem_ywp (s : State) (a : Nat) (f : Item → Item) : (s.modItem a f).ywp = s.ywp := rfl
@[simp] theorem State.modItem_net (s : State) (a : Nat) (f : Item → Item) : (s.modItem a f).net = s.net := rfl
@[simp] theorem State.modItem_cip (s : State) (a : Nat) (f : Item → Item) : (s.modItem a f).cip = s.cip := rfl
@[simp] theorem State.modItem_led (s : State) (a : Nat) (f : Item → Item) : (s.modItem a f).led = s.led := rfl
@[simp] theorem State.modItem_drt (s : State) (a : Nat) (f : Item → Item) : (s.modItem a f).drt = s.drt := rfl
@[simp] theorem State.modItem_cfl (s : State) (a : Nat) (f : Item → Item) : (s.modItem a f).cfl = s.cfl := rfl
@[simp] theorem State.modItem_upd (s : State) (a : Nat) (f : Item → Item) : (s.modItem a f).upd = s.upd := rfl
@[simp] theorem State.modItem_sup (s : State) (a : Nat) (f : Item → Item) : (s.modItem a f).sup = s.sup := rfl
@[simp] theorem State.modItem_ev (s : State) (a : Nat) (f : Item → Item) : (s.modItem a f).ev = s.ev := rfl
@[simp] theorem State.modItem_changes (s : State) (a : Nat) (f : Item → Item) : (s.modItem a f).changes = s.changes := rfl
@[simp] theorem State.modItem_out (s : State) (a : Nat) (f : Item → Item) : (s.modItem a f).out = s.out := rfl
@[simp] theorem State.modItem_free (s : State) (a : Nat) (f : Item → Item) : (s.modItem a f).free = s.free := rfl
@[simp] theorem State.modItem_pending (s : State) (a : Nat) (f : Item → Item) : (s.modItem a f).pending = s.pending := rfl
@[simp] theorem State.modItem_regs (s : State) (a : Nat) (f : Item → Item) : (s.modItem a f).regs = s.regs := rfl

/-! ### modLeaf -/

@[simp] theorem State.modLeaf_clk (s : State) (w p d : Nat) (f : Leaf → Leaf) : (s.modLeaf w p d f).clk = s.clk := rfl
@[simp] theorem State.modLeaf_latches (s : State) (w p d : Nat) (f : Leaf → Leaf) : (s.modLeaf w p d f).latches = s.latches := rfl
@[simp] theorem State.modLeaf_held (s : State) (w p d : Nat) (f : Leaf → Leaf) : (s.modLeaf w p d f).held = s.held := rfl
@[simp] theorem State.modLeaf_winLatch (s : State) (w p d : Nat) (f : Leaf → Leaf) : (s.modLeaf w p d f).winLatch = s.winLatch := rfl
@[simp] theorem State.modLeaf_ident (s : State) (w p d : Nat) (f : Leaf → Leaf) : (s.modLeaf w p d f).ident = s.ident := rfl
@[simp] theorem State.modLeaf_power (s : State) (w p d : Nat) (f : Leaf → Leaf) : (s.modLeaf w p d f).power = s.power := rfl
@[simp] theorem State.modLeaf_kv (s : State) (w p d : Nat) (f : Leaf → Leaf) : (s.modLeaf w p d f).kv = s.kv := rfl
@[simp] theorem State.modLeaf_host (s : State) (w p d : Nat) (f : Leaf → Leaf) : (s.modLeaf w p d f).host = s.host := rfl
@[simp] theorem State.modLeaf_tun (s : State) (w p d : Nat) (f : Leaf → Leaf) : (s.modLeaf w p d f).tun = s.tun := rfl
@[simp] theorem State.modLeaf_media (s : State) (w p d : Nat) (f : Leaf → Leaf) : (s.modLeaf w p d f).media = s.media := rfl
@[simp] theorem State.modLeaf_time (s : State) (w p d : Nat) (f : Leaf → Leaf) : (s.modLeaf w p d f).time = s.time := rfl
@[simp] theorem State.modLeaf_town (s : State) (w p d : Nat) (f : Leaf → Leaf) : (s.modLeaf w p d f).town = s.town := rfl
@[simp] theorem State.modLeaf_ywp (s : State) (w p d : Nat) (f : Leaf → Leaf) : (s.modLeaf w p d f).ywp = s.ywp := rfl
@[simp] theorem State.modLeaf_net (s : State) (w p d : Nat) (f : Leaf → Leaf) : (s.modLeaf w p d f).net = s.net := rfl
@[simp] theorem State.modLeaf_cip (s : State) (w p d : Nat) (f : Leaf → Leaf) : (s.modLeaf w p d f).cip = s.cip := rfl
@[simp] theorem State.modLeaf_led (s : State) (w p d : Nat) (f : Leaf → Leaf) : (s.modLeaf w p d f).led = s.led := rfl
@[simp] theorem State.modLeaf_drt (s : State) (w p d : Nat) (f : Leaf → Leaf) : (s.modLeaf w p d f).drt = s.drt := rfl
@[simp] theorem State.modLeaf_cfl (s : State) (w p d : Nat) (f : Leaf → Leaf) : (s.modLeaf w p d f).cfl = s.cfl := rfl
@[simp] theorem State.modLeaf_upd (s : State) (w p d : Nat) (f : Leaf → Leaf) : (s.modLeaf w p d f).upd = s.upd := rfl
@[simp] theorem State.modLeaf_sup (s : State) (w p d : Nat) (f : Leaf → Leaf) : (s.modLeaf w p d f).sup = s.sup := rfl
@[simp] theorem State.modLeaf_ev (s : State) (w p d : Nat) (f : Leaf → Leaf) : (s.modLeaf w p d f).ev = s.ev := rfl
@[simp] theorem State.modLeaf_changes (s : State) (w p d : Nat) (f : Leaf → Leaf) : (s.modLeaf w p d f).changes = s.changes := rfl
@[simp] theorem State.modLeaf_out (s : State) (w p d : Nat) (f : Leaf → Leaf) : (s.modLeaf w p d f).out = s.out := rfl
@[simp] theorem State.modLeaf_free (s : State) (w p d : Nat) (f : Leaf → Leaf) : (s.modLeaf w p d f).free = s.free := rfl
@[simp] theorem State.modLeaf_pending (s : State) (w p d : Nat) (f : Leaf → Leaf) : (s.modLeaf w p d f).pending = s.pending := rfl
@[simp] theorem State.modLeaf_regs (s : State) (w p d : Nat) (f : Leaf → Leaf) : (s.modLeaf w p d f).regs = s.regs := rfl

/-! ### keepRecords -/

@[simp] theorem State.keepRecords_clk (s : State) (l : List ReqRecord) : (s.keepRecords l).clk = s.clk := rfl
@[simp] theorem State.keepRecords_latches (s : State) (l : List ReqRecord) : (s.keepRecords l).latches = s.latches := rfl
@[simp] theorem State.keepRecords_held (s : State) (l : List ReqRecord) : (s.keepRecords l).held = s.held := rfl
@[simp] theorem State.keepRecords_winLatch (s : State) (l : List ReqRecord) : (s.keepRecords l).winLatch = s.winLatch := rfl
@[simp] theorem State.keepRecords_ident (s : State) (l : List ReqRecord) : (s.keepRecords l).ident = s.ident := rfl
@[simp] theorem State.keepRecords_power (s : State) (l : List ReqRecord) : (s.keepRecords l).power = s.power := rfl
@[simp] theorem State.keepRecords_kv (s : State) (l : List ReqRecord) : (s.keepRecords l).kv = s.kv := rfl
@[simp] theorem State.keepRecords_host (s : State) (l : List ReqRecord) : (s.keepRecords l).host = s.host := rfl
@[simp] theorem State.keepRecords_index (s : State) (l : List ReqRecord) : (s.keepRecords l).index = s.index := rfl
@[simp] theorem State.keepRecords_tun (s : State) (l : List ReqRecord) : (s.keepRecords l).tun = s.tun := rfl
@[simp] theorem State.keepRecords_media (s : State) (l : List ReqRecord) : (s.keepRecords l).media = s.media := rfl
@[simp] theorem State.keepRecords_time (s : State) (l : List ReqRecord) : (s.keepRecords l).time = s.time := rfl
@[simp] theorem State.keepRecords_town (s : State) (l : List ReqRecord) : (s.keepRecords l).town = s.town := rfl
@[simp] theorem State.keepRecords_net (s : State) (l : List ReqRecord) : (s.keepRecords l).net = s.net := rfl
@[simp] theorem State.keepRecords_cip (s : State) (l : List ReqRecord) : (s.keepRecords l).cip = s.cip := rfl
@[simp] theorem State.keepRecords_led (s : State) (l : List ReqRecord) : (s.keepRecords l).led = s.led := rfl
@[simp] theorem State.keepRecords_drt (s : State) (l : List ReqRecord) : (s.keepRecords l).drt = s.drt := rfl
@[simp] theorem State.keepRecords_cfl (s : State) (l : List ReqRecord) : (s.keepRecords l).cfl = s.cfl := rfl
@[simp] theorem State.keepRecords_upd (s : State) (l : List ReqRecord) : (s.keepRecords l).upd = s.upd := rfl
@[simp] theorem State.keepRecords_sup (s : State) (l : List ReqRecord) : (s.keepRecords l).sup = s.sup := rfl
@[simp] theorem State.keepRecords_ev (s : State) (l : List ReqRecord) : (s.keepRecords l).ev = s.ev := rfl
@[simp] theorem State.keepRecords_changes (s : State) (l : List ReqRecord) : (s.keepRecords l).changes = s.changes := rfl
@[simp] theorem State.keepRecords_out (s : State) (l : List ReqRecord) : (s.keepRecords l).out = s.out := rfl
@[simp] theorem State.keepRecords_free (s : State) (l : List ReqRecord) : (s.keepRecords l).free = s.free := rfl
@[simp] theorem State.keepRecords_pending (s : State) (l : List ReqRecord) : (s.keepRecords l).pending = s.pending := rfl
@[simp] theorem State.keepRecords_regs (s : State) (l : List ReqRecord) : (s.keepRecords l).regs = s.regs := rfl

end Sys2Proof.Machine
end

