-- ==== Sys2Proof/Laws/Regs.lean ====
section
/-!
SUPPORT. Registers: a read after a write, in one list of registers and through the named operations; the canonical form; and what
the reach of a command leaves of the registers.
-/

namespace Sys2Proof.Machine

/-! ### Bit fields -/

theorem bits_lt (x lsb w : Nat) : bits x lsb w < 2 ^ w := by unfold bits; exact Nat.mod_lt _ (by positivity)

/-- A number as what lies below a field, the field, and what lies above it. -/
theorem field_split (x lsb w : Nat) : x = x % 2 ^ lsb + bits x lsb w * 2 ^ lsb + x / 2 ^ (lsb + w) * 2 ^ (lsb + w) := by
  unfold bits
  have h1 := Nat.div_add_mod x (2 ^ lsb)
  have h2 := Nat.div_add_mod (x / 2 ^ lsb) (2 ^ w)
  rw [Nat.div_div_eq_div_mul, ← pow_add] at h2
  calc x = 2 ^ lsb * (x / 2 ^ lsb) + x % 2 ^ lsb := h1.symm
    _ = 2 ^ lsb * (2 ^ w * (x / 2 ^ (lsb + w)) + x / 2 ^ lsb % 2 ^ w) + x % 2 ^ lsb := by rw [h2]
    _ = _ := by rw [pow_add]; ring

/-- The same of a number with one field replaced. -/
theorem setBits_split (x lsb w v : Nat) :
    setBits x lsb w v = x % 2 ^ lsb + v % 2 ^ w * 2 ^ lsb + x / 2 ^ (lsb + w) * 2 ^ (lsb + w) := by
  have h := field_split x lsb w
  have : bits x lsb w * 2 ^ lsb ≤ x := by omega
  unfold setBits
  omega

theorem bits_split (a f h lsb w : Nat) (ha : a < 2 ^ lsb) (hf : f < 2 ^ w) : bits (a + f * 2 ^ lsb + h * 2 ^ (lsb + w)) lsb w = f := by
  unfold bits
  have : a + f * 2 ^ lsb + h * 2 ^ (lsb + w) = a + (f + h * 2 ^ w) * 2 ^ lsb := by rw [pow_add]; ring
  rw [this, Nat.add_mul_div_right _ _ (by positivity), Nat.div_eq_of_lt ha, Nat.zero_add, Nat.add_mul_mod_self_right, Nat.mod_eq_of_lt hf]

/-- A field reads back what was written to it, cut to its width. -/
@[simp] theorem bits_setBits_same (x lsb w v : Nat) : bits (setBits x lsb w v) lsb w = v % 2 ^ w := by
  rw [setBits_split]
  exact bits_split _ _ _ _ _ (Nat.mod_lt _ (by positivity)) (Nat.mod_lt _ (by positivity))

/-- A field below another, of a sum of the parts. -/
theorem bits_low (a f l' w' lsb : Nat) (h : l' + w' ≤ lsb) : bits (a + f * 2 ^ lsb) l' w' = bits a l' w' := by
  unfold bits
  obtain ⟨d, rfl⟩ := Nat.exists_eq_add_of_le h
  have : a + f * 2 ^ (l' + w' + d) = a + (f * 2 ^ d * 2 ^ w') * 2 ^ l' := by rw [pow_add, pow_add]; ring
  rw [this, Nat.add_mul_div_right _ _ (by positivity), Nat.add_mul_mod_self_right]

/-- A field above a bit does not depend on what lies below it. -/
theorem bits_high (a h l' w' n : Nat) (ha : a < 2 ^ n) (hn : n ≤ l') : bits (a + h * 2 ^ n) l' w' = bits (h * 2 ^ n) l' w' := by
  unfold bits
  obtain ⟨d, rfl⟩ := Nat.exists_eq_add_of_le hn
  rw [pow_add, ← Nat.div_div_eq_div_mul, ← Nat.div_div_eq_div_mul, Nat.add_mul_div_right _ _ (by positivity), Nat.div_eq_of_lt ha, Nat.zero_add,
    Nat.mul_div_cancel _ (by positivity)]

/-- Writing one field leaves a field that shares no bit with it. -/
theorem bits_setBits_disjoint (x lsb w v l' w' : Nat) (h : l' + w' ≤ lsb ∨ lsb + w ≤ l') : bits (setBits x lsb w v) l' w' = bits x l' w' := by
  rw [setBits_split]
  conv_rhs => rw [field_split x lsb w]
  rcases h with h | h
  · rw [bits_low _ _ _ _ _ (h.trans (Nat.le_add_right _ _)), bits_low _ _ _ _ _ h, bits_low _ _ _ _ _ (h.trans (Nat.le_add_right _ _)), bits_low _ _ _ _ _ h]
  · have hl : ∀ a f, a < 2 ^ lsb → f < 2 ^ w → a + f * 2 ^ lsb < 2 ^ (lsb + w) := by
      intro a f ha hf
      rw [pow_add]
      have : (f + 1) * 2 ^ lsb ≤ 2 ^ w * 2 ^ lsb := Nat.mul_le_mul_right _ hf
      rw [Nat.mul_comm (2 ^ lsb)]
      linarith [Nat.succ_mul f (2 ^ lsb)]
    rw [bits_high _ _ _ _ _ (hl _ _ (Nat.mod_lt _ (by positivity)) (Nat.mod_lt _ (by positivity))) h,
      bits_high _ _ _ _ _ (hl _ _ (Nat.mod_lt _ (by positivity)) (bits_lt _ _ _)) h]

/-! ### Lists of registers -/

theorem regLookup_erase (r q : RegKey) (l : List (RegKey × Nat)) :
    regLookup q (regErase r l) = if q = r then r.reset else regLookup q l := by
  induction l with
  | nil => by_cases h : q = r <;> simp [regErase, regLookup, h]
  | cons e l ih =>
    obtain ⟨k, w⟩ := e
    unfold regErase at ih ⊢
    by_cases hk : k = r
    · simp only [hk, List.filter_cons, ne_eq, not_true_eq_false, decide_false, Bool.false_eq_true, if_false, ih]
      by_cases h : q = r
      · simp [h]
      · simp [h, regLookup, Ne.symm h]
    · simp only [List.filter_cons, ne_eq, hk, not_false_eq_true, decide_true, if_true, regLookup, ih]
      by_cases h : q = r
      · subst h; simp [hk]
      · simp [h]

theorem regLookup_insert (r q : RegKey) (v : Nat) (l : List (RegKey × Nat)) :
    regLookup q (regInsert r v l) = if q = r then v else regLookup q l := by
  induction l with
  | nil => by_cases h : q = r <;> simp [regInsert, regLookup, h, Ne.symm]
  | cons e l ih =>
    obtain ⟨k, w⟩ := e
    simp only [regInsert]
    split
    · next hk => subst hk; by_cases h : q = k <;> simp [regLookup, h, eq_comm]
    · next hk =>
      split
      · by_cases h : q = r
        · simp [regLookup, h]
        · simp [regLookup, h, Ne.symm h]
      · simp only [regLookup, ih]
        by_cases h : k = q
        · subst h; simp [hk]
        · simp [h]

/-- A register list after a write holds the value written, and every other register as it was. -/
@[simp] theorem regLookup_write (r q : RegKey) (v : Nat) (l : List (RegKey × Nat)) :
    regLookup q (regWrite r v l) = if q = r then v else regLookup q l := by
  unfold regWrite
  split
  · next h => rw [regLookup_erase, h]
  · exact regLookup_insert r q v l

/-- A read of a register after a write. -/
@[simp] theorem State.reg_setReg (s : State) (r q : RegKey) (v : Nat) : (s.setReg r v).reg q = if q = r then v else s.reg q :=
  regLookup_write r q v s.regs

/-- A state's registers are those of its list. -/
theorem State.reg_congr {s t : State} (h : s.regs = t.regs) (r : RegKey) : s.reg r = t.reg r := by unfold State.reg; rw [h]

theorem State.fget_congr {s t : State} (h : s.regs = t.regs) (f : Fld) (i j k : Nat) : s.fget f i j k = t.fget f i j k := by
  unfold State.fget; rw [State.reg_congr h]

/-- A field reads back what was written to it. -/
@[simp] theorem State.fget_fput_same (s : State) (f : Fld) (v i j k : Nat) : (s.fput f v i j k).fget f i j k = v % 2 ^ f.w := by
  unfold State.fget State.fput; rw [State.reg_setReg, if_pos rfl, bits_setBits_same]

/-- Writing a field leaves every field of another register. -/
theorem State.fget_fput_reg (s : State) (f g : Fld) (v i j k a b c : Nat) (h : g.at a b c ≠ f.at i j k) :
    (s.fput f v i j k).fget g a b c = s.fget g a b c := by
  unfold State.fget State.fput; rw [State.reg_setReg, if_neg h]

/-- Writing a field leaves the other fields of its register. -/
theorem State.fget_fput_field (s : State) (f g : Fld) (v i j k : Nat) (hr : g.reg = f.reg)
    (h : g.lsb + g.w ≤ f.lsb ∨ f.lsb + f.w ≤ g.lsb) : (s.fput f v i j k).fget g i j k = s.fget g i j k := by
  unfold State.fget State.fput Fld.at
  rw [hr, State.reg_setReg, if_pos rfl, bits_setBits_disjoint _ _ _ _ _ _ h]

/-! ### The canonical form -/

theorem regsOk_cons (r : RegKey) (v : Nat) (l : List (RegKey × Nat)) :
    regsOk ((r, v) :: l) = true ↔ v ≠ r.reset ∧ (∀ e ∈ l.head?, r.code < e.1.code) ∧ regsOk l = true := by
  cases l with
  | nil => simp [regsOk]
  | cons e l => obtain ⟨q, w⟩ := e; simp [regsOk, and_assoc]

theorem regsOk_lt {r : RegKey} {v : Nat} {l : List (RegKey × Nat)} (h : regsOk ((r, v) :: l) = true) : ∀ e ∈ l, r.code < e.1.code := by
  induction l generalizing r v with
  | nil => simp
  | cons e l ih =>
    obtain ⟨q, w⟩ := e
    rw [regsOk_cons] at h
    have hq : r.code < q.code := h.2.1 (q, w) (by simp)
    intro e he
    rcases List.mem_cons.1 he with rfl | he
    · exact hq
    · exact hq.trans (ih h.2.2 e he)

theorem regsOk_of_sorted {r : RegKey} {v : Nat} {l : List (RegKey × Nat)} (hv : v ≠ r.reset) (hl : regsOk l = true)
    (h : ∀ e ∈ l, r.code < e.1.code) : regsOk ((r, v) :: l) = true :=
  (regsOk_cons r v l).2 ⟨hv, fun e he => h e (List.mem_of_mem_head? he), hl⟩

/-- Leaving entries out keeps the canonical form. -/
theorem regsOk_filter (p : RegKey × Nat → Bool) {l : List (RegKey × Nat)} (h : regsOk l = true) : regsOk (l.filter p) = true := by
  induction l with
  | nil => simpa using h
  | cons e l ih =>
    obtain ⟨q, w⟩ := e
    have h' := (regsOk_cons q w l).1 h
    rw [List.filter_cons]
    split
    · exact regsOk_of_sorted h'.1 (ih h'.2.2) fun e he => regsOk_lt h e (List.mem_of_mem_filter he)
    · exact ih h'.2.2

theorem mem_regInsert {r : RegKey} {v : Nat} {l : List (RegKey × Nat)} {e : RegKey × Nat} (h : e ∈ regInsert r v l) : e = (r, v) ∨ e ∈ l := by
  induction l with
  | nil => simpa [regInsert] using h
  | cons x l ih =>
    obtain ⟨q, w⟩ := x
    simp only [regInsert] at h
    split at h
    · rcases List.mem_cons.1 h with rfl | h
      · exact .inl rfl
      · exact .inr (List.mem_cons_of_mem _ h)
    · split at h
      · rcases List.mem_cons.1 h with rfl | h
        · exact .inl rfl
        · exact .inr h
      · rcases List.mem_cons.1 h with rfl | h
        · exact .inr (by simp)
        · rcases ih h with h | h
          · exact .inl h
          · exact .inr (List.mem_cons_of_mem _ h)

/-- No two registers have one place in the order. -/
theorem RegKey.code_inj {r q : RegKey} (h : r.code = q.code) : r = q := by
  unfold RegKey.code at h
  obtain ⟨hn, hi, hj, hk⟩ : r.name.ctorIdx = q.name.ctorIdx ∧ r.i = q.i ∧ r.j = q.j ∧ r.k = q.k := by simpa [Nat.pair_eq_pair] using h
  have hn : r.name = q.name := by rw [← RegName.ofNat_ctorIdx r.name, hn, RegName.ofNat_ctorIdx]
  cases r; cases q; simp_all

theorem regsOk_insert {r : RegKey} {v : Nat} {l : List (RegKey × Nat)} (hv : v ≠ r.reset) (hl : regsOk l = true) :
    regsOk (regInsert r v l) = true := by
  induction l with
  | nil => simpa [regInsert, regsOk] using hv
  | cons x l ih =>
    obtain ⟨q, w⟩ := x
    have h' := (regsOk_cons q w l).1 hl
    simp only [regInsert]
    split
    · next hq => subst hq; exact regsOk_of_sorted hv h'.2.2 (regsOk_lt hl)
    · next hq =>
      split
      · next hc =>
        refine regsOk_of_sorted hv hl fun e he => ?_
        rcases List.mem_cons.1 he with rfl | he
        · exact hc
        · exact hc.trans (regsOk_lt hl e he)
      · next hc =>
        refine regsOk_of_sorted h'.1 (ih h'.2.2) fun e he => ?_
        rcases mem_regInsert he with rfl | he
        · exact lt_of_le_of_ne (Nat.le_of_not_lt hc) fun hh => hq (RegKey.code_inj hh)
        · exact regsOk_lt hl e he

/-- Writing a register keeps the canonical form. -/
theorem regsOk_write {r : RegKey} {v : Nat} {l : List (RegKey × Nat)} (hl : regsOk l = true) : regsOk (regWrite r v l) = true := by
  unfold regWrite
  split
  · exact regsOk_filter _ hl
  · next hv => exact regsOk_insert hv hl

/-! ### What the reach of a command leaves -/

/-- Inside its reach a command's registers read as its meaning left them, outside it as they were. -/
theorem regLookup_reach (ns : List RegName) (old new : List (RegKey × Nat)) (q : RegKey) :
    regLookup q (reachRegs ns old new) = if ns.contains q.name then regLookup q new else regLookup q old := by
  unfold reachRegs
  induction new with
  | nil =>
    simp only [List.filter_nil, List.foldr_nil]
    induction old with
    | nil => simp [regLookup]
    | cons e l ih =>
      obtain ⟨k, w⟩ := e
      simp only [List.filter_cons]
      by_cases hk : ns.contains k.name = true
      · simp only [hk, Bool.not_true, Bool.false_eq_true, if_false, ih]
        by_cases hq : ns.contains q.name = true
        · rw [if_pos hq, if_pos hq]
        · have : k ≠ q := fun h => hq (h ▸ hk)
          simp [regLookup, this]
      · simp only [Bool.not_eq_true] at hk
        simp only [hk, Bool.not_false, if_true, regLookup, ih]
        by_cases hq : k = q
        · subst hq; simp only [hk, Bool.false_eq_true, if_false, if_true]
        · simp [hq]
  | cons e l ih =>
    obtain ⟨k, w⟩ := e
    simp only [List.filter_cons]
    by_cases hk : ns.contains k.name = true
    · simp only [hk, if_true, List.foldr_cons, regLookup_write, ih, regLookup]
      by_cases hq : q = k
      · subst hq; simp only [hk, if_true]
      · simp [hq, Ne.symm hq]
    · simp only [hk, if_false, ih, regLookup, Bool.false_eq_true]
      by_cases hq : k = q
      · subst hq; rw [if_neg hk, if_neg hk]
      · simp [hq]

/-- A command keeps the canonical form of the registers, whatever its meaning computes. -/
theorem regsOk_reach {ns : List RegName} {old new : List (RegKey × Nat)} (h : regsOk old = true) : regsOk (reachRegs ns old new) = true := by
  unfold reachRegs
  induction (new.filter fun e => ns.contains e.1.name) with
  | nil => simpa using regsOk_filter _ h
  | cons e l ih => simpa using regsOk_write ih

@[simp] theorem State.reg_within (s t : State) (ps : List Part) (ns : List RegName) (q : RegKey) :
    (s.within ps ns t).reg q = if ns.contains q.name then t.reg q else s.reg q := regLookup_reach ns s.regs t.regs q

@[simp] theorem reg_settle (s t : State) (q : RegKey) : (settle s t).reg q = t.reg q := rfl

@[simp] theorem fget_settle (s t : State) (f : Fld) (i j k : Nat) : (settle s t).fget f i j k = t.fget f i j k := rfl

theorem State.fget_within (s t : State) (ps : List Part) (ns : List RegName) (f : Fld) (i j k : Nat) :
    (s.within ps ns t).fget f i j k = if ns.contains f.reg then t.fget f i j k else s.fget f i j k := by
  unfold State.fget
  rw [State.reg_within]
  show bits (if ns.contains f.reg = true then _ else _) _ _ = _
  split <;> rfl

/-- A field that a command reaches holds what its meaning computed; any other field holds what it held. -/
theorem fget_reach {s t : State} {ps : List Part} {ns : List RegName} {f : Fld} (h : ns.contains f.reg = true) (i j k : Nat) :
    (settle s (s.within ps ns t)).fget f i j k = t.fget f i j k := by
  rw [fget_settle, State.fget_within, if_pos h]

theorem fget_kept {s t : State} {ps : List Part} {ns : List RegName} {f : Fld} (h : ns.contains f.reg = false) (i j k : Nat) :
    (settle s (s.within ps ns t)).fget f i j k = s.fget f i j k := by
  rw [fget_settle, State.fget_within, if_neg (by simp only [h]; decide)]

end Sys2Proof.Machine
end

