-- ==== Sys2Proof/Laws/Step.lean ====
section
/-!
SUPPORT. What every step of the block does: it answers a next state, keeps the rest of the queue and the registers' canonical
form, and never takes the clock back.
-/

namespace Sys2Proof.Machine

/-- Every command answers the state its meaning computed, within its reach. -/
theorem exec_next (i : Instr) (s : State) : ∃ ps ns t, exec i s = .next (settle s (s.within ps ns t)) := by
  cases i <;> exact ⟨_, _, _, rfl⟩

theorem step_nil {s : State} (h : s.pending = []) : step s = .next (s.tickN 1) := by unfold step; rw [h]

theorem step_cons {s : State} {c : Instr} {l : List Instr} (h : s.pending = c :: l) : step s = exec c { s with pending := l } := by
  unfold step; rw [h]

/-- A command keeps the queue, the canonical form of the registers, and the clock's direction. -/
theorem exec_keeps {i : Instr} {s t : State} (h : exec i s = .next t) :
    t.pending = s.pending ∧ s.clk.cycles ≤ t.clk.cycles ∧ (regsOk s.regs = true → regsOk t.regs = true) := by
  obtain ⟨ps, ns, u, hu⟩ := exec_next i s
  rw [hu] at h
  obtain rfl : settle s (s.within ps ns u) = t := by simpa using h
  exact ⟨rfl, le_max_left _ _, fun h => regsOk_reach h⟩

/-- A run goes on from a step's next state. -/
theorem run_of_step (M : Host.Core) {s t : M.State} (n : Nat) (h : M.step s = .next t) : M.run (n + 1) s = M.run n t := by
  simp [Host.Core.run, h]

theorem run_succ {s t : State} (n : Nat) (h : step s = .next t) : core.run (n + 1) s = core.run n t := run_of_step core n h

end Sys2Proof.Machine
end

