-- ==== Sys2Proof/Laws/Exec.lean ====
section
/-!
SUPPORT. How a meaning's answer is read: the guard of a command, and the state it answers.
-/

namespace Sys2Proof.Machine

@[simp] theorem when_true (f : State → State) (s : State) : when true f s = f s := rfl

@[simp] theorem when_false (f : State → State) (s : State) : when false f s = s := rfl

/-- Where its guard holds, a command does what it guards. -/
theorem when_of {c : Bool} (h : c = true) (f : State → State) (s : State) : when c f s = f s := by rw [h]; rfl

theorem when_not {c : Bool} (h : c = false) (f : State → State) (s : State) : when c f s = s := by rw [h]; rfl

/-- A meaning answers a next state of which `P` holds when `P` holds of what it computed. -/
theorem answers {ps : List Part} {ns : List RegName} {s u : State} {P : State → Prop} (h : P (settle s (s.within ps ns u))) :
    ∃ t, done ps ns s u = .next t ∧ P t := ⟨_, rfl, h⟩

/-- The same, with what it computed rewritten. -/
theorem answers_eq {ps : List Part} {ns : List RegName} {s u v : State} {P : State → Prop} (e : u = v) (h : P (settle s (s.within ps ns v))) :
    ∃ t, done ps ns s u = .next t ∧ P t := ⟨_, by rw [e]; rfl, h⟩

/-- A meaning answers a next state of which `P` holds when it computed a state of which `Q` holds, and `P` holds of what any such
state leaves within the reach. -/
theorem next_of {ps : List Part} {ns : List RegName} {s u : State} {P Q : State → Prop} (v : State) (e : u = v) (hv : Q v)
    (h : ∀ w, Q w → P (settle s (s.within ps ns w))) : ∃ t, done ps ns s u = .next t ∧ P t := ⟨_, by rw [e]; rfl, h v hv⟩

/-- A clock that a command has moved on. -/
theorem settle_cycles (s t : State) (ps : List Part) (ns : List RegName) (h : ps.contains .clk = true) :
    (settle s (s.within ps ns t)).clk.cycles = max s.clk.cycles t.clk.cycles := by
  show max s.clk.cycles (if ps.contains .clk then t.clk else s.clk).cycles = _
  rw [if_pos h]

/-! ### Waiting -/

@[simp] theorem State.tickN_cycles (n : Nat) (s : State) : (s.tickN n).clk.cycles = s.clk.cycles + n := rfl

/-- Waiting for a cycle reaches it. -/
theorem State.waitCycle_cycles (c : Nat) (s : State) : (s.waitCycle c).clk.cycles = max s.clk.cycles c := by
  unfold State.waitCycle; rw [State.tickN_cycles]; omega

/-! ### Records in lists -/

theorem updWhere_id {α : Type} (p : α → Bool) (f : α → α) (l : List α) (h : ∀ x ∈ l, p x = false) : updWhere p f l = l := by
  unfold updWhere
  conv_rhs => rw [← List.map_id l]
  exact List.map_congr_left fun x hx => by simp [h x hx]

theorem mem_updWhere {α : Type} {p : α → Bool} {f : α → α} {l : List α} {x : α} (h : x ∈ l) (hp : p x = true) : f x ∈ updWhere p f l :=
  List.mem_map.2 ⟨x, h, by simp [hp]⟩

/-- Finding a record by a key after the records under that key were changed, when a change keeps the key. -/
theorem find_updWhere {α : Type} (p : α → Bool) (f : α → α) (l : List α) (h : ∀ x, p x = true → p (f x) = true) :
    (updWhere p f l).find? p = (l.find? p).map f := by
  induction l with
  | nil => rfl
  | cons a l ih =>
    unfold updWhere at ih ⊢
    by_cases ha : p a = true
    · simp [List.find?, ha, h a ha]
    · simp only [Bool.not_eq_true] at ha
      simp [List.find?, ha, ih]

end Sys2Proof.Machine
end

