-- ==== Sys2Proof/Laws/Records.lean ====
section
/-!
SUPPORT. The records that blocks keep by number (rings, functions, ports, channels, session slots, contexts, sets, LUNs, Tun
entries): what is read of one after it, or another, has been changed.
-/

namespace Sys2Proof.Machine

/-- The record a list holds under a key, after every record under that key has been replaced by `r`. -/
theorem find_replace {α : Type} (p : α → Bool) (r : α) (l : List α) (hr : p r = true) :
    (if l.any p then updWhere p (fun _ => r) l else l ++ [r]).find? p = some r := by
  split
  · next h =>
    rw [find_updWhere p _ l fun _ _ => hr]
    obtain ⟨x, hx, hp⟩ := List.any_eq_true.1 h
    obtain ⟨y, hy⟩ : ∃ y, l.find? p = some y := Option.isSome_iff_exists.1 (List.find?_isSome.2 ⟨x, hx, hp⟩)
    simp [hy]
  · next h =>
    have : l.find? p = none := by
      rw [List.find?_eq_none]
      intro x hx
      by_contra hp
      exact h (List.any_eq_true.2 ⟨x, hx, by simpa using hp⟩)
    rw [List.find?_append, this]
    simp [hr]

/-- A record under another key, after such a replacement. -/
theorem find_replace_other {α : Type} (p q : α → Bool) (r : α) (l : List α) (hr : q r = false) (hpq : ∀ x, p x = true → q x = false) :
    (if l.any p then updWhere p (fun _ => r) l else l ++ [r]).find? q = l.find? q := by
  split
  · clear * - hr hpq
    induction l with
    | nil => rfl
    | cons a l ih =>
      unfold updWhere at ih ⊢
      by_cases ha : p a = true
      · simp [List.find?, ha, hr, hpq a ha, ih]
      · simp only [Bool.not_eq_true] at ha
        simp [List.find?, ha, ih]
  · rw [List.find?_append]
    simp [hr]

/-- The record just inserted under a key that no other has. -/
theorem find_insertBy {α : Type} (k : α → Nat) (x : α) (l : List α) (c : Nat) (hx : k x = c) :
    (insertBy k x (l.filter fun y => k y != c)).find? (fun y => k y == c) = some x := by
  have h : ∀ l : List α, (∀ y ∈ l, k y ≠ c) → (insertBy k x l).find? (fun y => k y == c) = some x := by
    intro l
    induction l with
    | nil => intro _; simp [insertBy, hx]
    | cons a l ih =>
      intro ha
      unfold insertBy
      split
      · simp [hx]
      · have : (k a == c) = false := by simpa using ha a (by simp)
        simp [List.find?, this, ih fun y hy => ha y (List.mem_cons_of_mem _ hy)]
  exact h _ fun y hy => by simpa using (List.mem_filter.1 hy).2

/-- A record under another key, after an insertion. -/
theorem find_insertBy_other {α : Type} (k : α → Nat) (x : α) (l : List α) (c d : Nat) (hx : k x = c) (hd : d ≠ c) :
    (insertBy k x (l.filter fun y => k y != c)).find? (fun y => k y == d) = l.find? (fun y => k y == d) := by
  have h1 : ∀ l : List α, (insertBy k x l).find? (fun y => k y == d) = l.find? (fun y => k y == d) := by
    intro l
    have hxd : (k x == d) = false := by simpa [hx] using Ne.symm hd
    induction l with
    | nil => simp [insertBy, hxd]
    | cons a l ih =>
      unfold insertBy
      split
      · simp [List.find?, hxd]
      · simp [List.find?, ih]
  rw [h1]
  induction l with
  | nil => rfl
  | cons a l ih =>
    by_cases ha : k a = c
    · have h2 : (c == d) = false := by simpa using Ne.symm hd
      simp [ha, List.find?, ih, h2]
    · simp [ha, List.find?, ih]

/-! ### The event recorder -/

/-- What the recorder makes of an event depends on the recorder and the clock alone. -/
theorem reportFrom_ev_congr {s t : State} (h : s.ev = t.ev) (hc : s.clk.cycles = t.clk.cycles) (k : EvKind) (b key d : Nat) :
    (s.reportFrom k b key d).ev = (t.reportFrom k b key d).ev := by
  have h2 : s.opSeconds = t.opSeconds := by unfold State.opSeconds; rw [h, hc]
  unfold State.reportFrom
  dsimp only
  rw [h, h2]
  split_ifs <;> rfl

theorem report_ev_congr {s t : State} (h : s.ev = t.ev) (hc : s.clk.cycles = t.clk.cycles) (k : EvKind) (key d : Nat) :
    (s.report k key d).ev = (t.report k key d).ev := reportFrom_ev_congr h hc k _ key d

/-! ### Rings and functions -/

theorem State.ring_fn (s : State) (f n : Nat) : (s.ring f n).f = f ∧ (s.ring f n).n = n := by
  unfold State.ring
  cases h : s.host.rings.find? fun r => r.f == f && r.n == n with
  | none => simp
  | some r => simpa using List.find?_some h

/-- A ring's record after a change that keeps its number. -/
theorem State.ring_modRing (s : State) (f n : Nat) (g : Ring → Ring) (hf : (g (s.ring f n)).f = f) (hn : (g (s.ring f n)).n = n) :
    (s.modRing f n g).ring f n = { g (s.ring f n) with changeSeq := (g (s.ring f n)).changeSeq + 1 } := by
  exact congrArg (fun o : Option Ring => o.getD { f, n })
    (find_replace (fun r : Ring => r.f == f && r.n == n) { g (s.ring f n) with changeSeq := (g (s.ring f n)).changeSeq + 1 } s.host.rings
      (by simp [hf, hn]))

theorem State.ring_modRing_other (s : State) (f n a b : Nat) (g : Ring → Ring) (hf : (g (s.ring f n)).f = f) (hn : (g (s.ring f n)).n = n)
    (h : ¬(a = f ∧ b = n)) : (s.modRing f n g).ring a b = s.ring a b := by
  have hq : ∀ r : Ring, (r.f == f && r.n == n) = true → (r.f == a && r.n == b) = false := by
    intro r hr
    by_contra hc
    simp only [Bool.and_eq_true, beq_iff_eq, Bool.not_eq_false] at hr hc
    exact h ⟨hc.1.symm.trans hr.1, hc.2.symm.trans hr.2⟩
  exact congrArg (fun o : Option Ring => o.getD { f := a, n := b })
    (find_replace_other (fun r : Ring => r.f == f && r.n == n) (fun r : Ring => r.f == a && r.n == b)
      { g (s.ring f n) with changeSeq := (g (s.ring f n)).changeSeq + 1 } s.host.rings (hq _ (by simp [hf, hn])) hq)

theorem State.fn_f (s : State) (f : Nat) : (s.fn f).f = f := by
  unfold State.fn
  cases h : s.host.funcs.find? fun x => x.f == f with
  | none => simp
  | some r => simpa using List.find?_some h

/-- A function's record after a change that keeps its number. -/
theorem State.fn_modFn (s : State) (f : Nat) (g : Func → Func) (hf : (g (s.fn f)).f = f) : (s.modFn f g).fn f = g (s.fn f) := by
  exact congrArg (fun o : Option Func => o.getD { f }) (find_replace (fun r : Func => r.f == f) (g (s.fn f)) s.host.funcs (by simp [hf]))

/-- Changing a function's record leaves the rings. -/
@[simp] theorem State.ring_modFn (s : State) (f a b : Nat) (g : Func → Func) : (s.modFn f g).ring a b = s.ring a b := rfl

/-- Changing a ring's record leaves the functions. -/
@[simp] theorem State.fn_modRing (s : State) (f n a : Nat) (g : Ring → Ring) : (s.modRing f n g).fn a = s.fn a := rfl

/-! ### Ports and channels -/

theorem State.port_p (s : State) (p : Nat) : (s.port p).p = p := by
  unfold State.port
  cases h : s.net.ports.find? fun x => x.p == p with
  | none => simp
  | some r => simpa using List.find?_some h

/-- A port's record after a change that keeps its number. -/
theorem State.port_modPort (s : State) (p : Nat) (g : Port → Port) (h : (g (s.port p)).p = p) : (s.modPort p g).port p = g (s.port p) := by
  exact congrArg (fun o : Option Port => o.getD { p }) (find_insertBy (fun x : Port => x.p) (g (s.port p)) s.net.ports p h)

theorem State.port_modPort_other (s : State) (p q : Nat) (g : Port → Port) (h : (g (s.port p)).p = p) (hq : q ≠ p) :
    (s.modPort p g).port q = s.port q := by
  exact congrArg (fun o : Option Port => o.getD { p := q }) (find_insertBy_other (fun x : Port => x.p) (g (s.port p)) s.net.ports p q h hq)

theorem State.chan_c (s : State) (c : Nat) : (s.chan c).c = c := by
  unfold State.chan
  cases h : s.drt.chans.find? fun x => x.c == c with
  | none => simp
  | some r => simpa using List.find?_some h

/-- A channel's record after a change that keeps its number. -/
theorem State.chan_modChan (s : State) (c : Nat) (g : Chan → Chan) (h : (g (s.chan c)).c = c) : (s.modChan c g).chan c = g (s.chan c) := by
  exact congrArg (fun o : Option Chan => o.getD { c }) (find_insertBy (fun x : Chan => x.c) (g (s.chan c)) s.drt.chans c h)

theorem State.chan_modChan_other (s : State) (c d : Nat) (g : Chan → Chan) (h : (g (s.chan c)).c = c) (hd : d ≠ c) :
    (s.modChan c g).chan d = s.chan d := by
  exact congrArg (fun o : Option Chan => o.getD { c := d }) (find_insertBy_other (fun x : Chan => x.c) (g (s.chan c)) s.drt.chans c d h hd)

/-! ### Contexts, session slots, sets, LUNs and Tun entries -/

theorem State.ctx_modCtx (s : State) (id : Nat) (g : OpCtx → OpCtx) (h : ∀ c, (g c).id = c.id) :
    (s.modCtx id g).kv.ctx? id = (s.kv.ctx? id).map g :=
  find_updWhere _ g _ fun c hc => by simpa [h c] using hc

theorem State.slot_modSlot (s : State) (n : Nat) (g : Slot → Slot) (h : ∀ x, (g x).n = x.n) :
    (s.modSlot n g).ywp.slot? n = (s.ywp.slot? n).map g :=
  find_updWhere _ g _ fun x hx => by simpa [h x] using hx

theorem State.set_modSet (s : State) (w : Nat) (g : TSet → TSet) (h : ∀ x, (g x).wseq = x.wseq) :
    (s.modSet w g).media.set? w = (s.media.set? w).map g :=
  find_updWhere _ g _ fun x hx => by simpa [h x] using hx

theorem State.lun_modLun (s : State) (n : Nat) (g : Lun → Lun) (h : ∀ x, (g x).n = x.n) :
    (s.modLun n g).media.lun? n = (s.media.lun? n).map g :=
  find_updWhere _ g _ fun x hx => by simpa [h x] using hx

theorem State.entry_modEntry (s : State) (id : Nat) (g : TunEntry → TunEntry) (h : ∀ x, (g x).id = x.id) :
    (s.modEntry id g).tun.entry? id = (s.tun.entry? id).map g :=
  find_updWhere _ g _ fun x hx => by simpa [h x] using hx

end Sys2Proof.Machine
end

