-- ==== Sys2Proof/Laws/Host.lean ====
section
/-!
SUPPORT. The host engine's operations: ring register fields, reads, reset requests, completion entries.
-/

namespace Sys2Proof.Machine

/-! ### Ring registers -/

/-- A ring's field after a field of a ring has been written. -/
theorem State.rg_rp (s : State) (f n a b : Nat) (x y : Fld) (v : Nat) :
    (s.rp f n x v).rg a b y = bits (if ringKey y a b = ringKey x f n then setBits (s.reg (ringKey x f n)) x.lsb x.w v else s.reg (ringKey y a b)) y.lsb y.w := by
  unfold State.rg State.rp
  rw [State.reg_setReg]

theorem State.rg_rp_same (s : State) (f n : Nat) (x : Fld) (v : Nat) : (s.rp f n x v).rg f n x = v % 2 ^ x.w := by
  rw [State.rg_rp, if_pos rfl, bits_setBits_same]

/-- Another field of the same register. -/
theorem State.rg_rp_field (s : State) (f n : Nat) (x y : Fld) (v : Nat) (hr : y.reg = x.reg) (h : y.lsb + y.w ≤ x.lsb ∨ x.lsb + x.w ≤ y.lsb) :
    (s.rp f n x v).rg f n y = s.rg f n y := by
  have : ringKey y f n = ringKey x f n := by unfold ringKey; rw [hr]
  rw [State.rg_rp, if_pos this, bits_setBits_disjoint _ _ _ _ _ _ h]
  unfold State.rg; rw [this]

/-- A field of another register. -/
theorem State.rg_rp_reg (s : State) (f n a b : Nat) (x y : Fld) (v : Nat) (h : ringKey y a b ≠ ringKey x f n) :
    (s.rp f n x v).rg a b y = s.rg a b y := by
  rw [State.rg_rp, if_neg h]; rfl

theorem State.rg_congr {s t : State} (h : s.regs = t.regs) (f n : Nat) (x : Fld) : s.rg f n x = t.rg f n x := by
  unfold State.rg; rw [State.reg_congr h]

@[simp] theorem rg_settle (s t : State) (f n : Nat) (x : Fld) : (settle s t).rg f n x = t.rg f n x := rfl

/-- A ring's field after a command that reaches the ring's register, or does not. -/
theorem State.rg_within (s t : State) (ps : List Part) (ns : List RegName) (f n : Nat) (x : Fld) :
    (s.within ps ns t).rg f n x = if ns.contains (ringKey x f n).name then t.rg f n x else s.rg f n x := by
  unfold State.rg
  rw [State.reg_within]
  split <;> rfl

/-- Which register a ring's field lies in. -/
theorem ringKey_name (x : Fld) (f n : Nat) : (ringKey x f n).name = if n = 64 then admReg x.reg else x.reg := by
  unfold ringKey; split <;> rfl

/-- A ring's field that a command reaches. -/
theorem rg_reach {s t : State} {ps : List Part} {ns : List RegName} {f n : Nat} {x : Fld} (h : ns.contains (ringKey x f n).name = true) :
    (settle s (s.within ps ns t)).rg f n x = t.rg f n x := by
  rw [rg_settle, State.rg_within, if_pos h]

/-! ### Reads of host memory -/

@[simp] theorem State.readDb_out (s : State) (f n : Nat) : (s.readDb f n).out = s.out ++ [.memRead f (s.dbAddr f n) 16] := rfl

@[simp] theorem State.readDb_regs (s : State) (f n : Nat) : (s.readDb f n).regs = s.regs := rfl

@[simp] theorem State.readDb_clk (s : State) (f n : Nat) : (s.readDb f n).clk = s.clk := rfl

theorem State.readDb_funcs (s : State) (f n : Nat) : (s.readDb f n).host.funcs = s.host.funcs := rfl

theorem State.readDb_reading (s : State) (f n : Nat) : ((s.readDb f n).ring f n).reading = (s.ring f n).reading + 1 := by
  show (((s.emit _).modRing f n _).ring f n).reading = _
  rw [State.ring_modRing _ _ _ _ (State.ring_fn _ _ _).1 (State.ring_fn _ _ _).2]
  rfl

theorem State.readDb_other (s : State) (f n a b : Nat) (h : ¬(a = f ∧ b = n)) : (s.readDb f n).ring a b = s.ring a b := by
  show ((s.emit _).modRing f n _).ring a b = s.ring a b
  rw [State.ring_modRing_other _ _ _ _ _ _ (State.ring_fn _ _ _).1 (State.ring_fn _ _ _).2 h]
  rfl

/-- Reading one record after another. -/
theorem readDbs_out (f : Nat → Nat) (g : Nat → Nat) (l : List Nat) (s : State) :
    (l.foldl (fun s n => s.readDb (f n) (g n)) s).out = s.out ++ l.map (fun n => .memRead (f n) (s.dbAddr (f n) (g n)) 16) ∧
      (l.foldl (fun s n => s.readDb (f n) (g n)) s).regs = s.regs ∧ (l.foldl (fun s n => s.readDb (f n) (g n)) s).host.funcs = s.host.funcs := by
  induction l generalizing s with
  | nil => simp
  | cons a l ih =>
    obtain ⟨h1, h2, h3⟩ := ih (s.readDb (f a) (g a))
    refine ⟨?_, h2, h3⟩
    rw [List.foldl_cons, h1]
    simp only [State.readDb_out, List.append_assoc, List.map_cons, List.cons_append, List.nil_append]
    congr 2

/-- The read budget delays a read, and changes nothing else but its own records and, of a poll, LATE. -/
theorem State.budgetRead_spec (s : State) (poll : Option Nat) : (s.budgetRead poll).out = s.out ∧ s.clk.cycles ≤ (s.budgetRead poll).clk.cycles ∧
    (s.budgetRead poll).host = { s.host with reads := (s.budgetRead poll).host.reads, spent := (s.budgetRead poll).host.spent } ∧
    (∀ r : RegKey, r.name ≠ .hqPollStat → (s.budgetRead poll).reg r = s.reg r) ∧ (poll = none → (s.budgetRead poll).regs = s.regs) := by
  obtain ⟨a, ha, b, hb, l, m, e⟩ : ∃ a : State, (a = s.waitCycle ((s.clk.cycles / usCycles + 1) * usCycles) ∨ a = s) ∧
      ∃ b : State, (b = a.fadd .hqPollStat_late 1 ∧ poll ≠ none ∨ b = a) ∧ ∃ l m, s.budgetRead poll = { b with host := { b.host with reads := l, spent := m } } := by
    unfold State.budgetRead
    by_cases h : s.fget .hqPollCtrl_budgetM ≤ s.readsNow.length <;> by_cases hp : poll.any s.pollLate = true
    · simp only [if_pos h, if_pos hp]
      exact ⟨_, Or.inl rfl, _, Or.inl ⟨rfl, by rintro rfl; simp at hp⟩, _, _, rfl⟩
    · simp only [if_pos h, if_neg hp]
      exact ⟨_, Or.inl rfl, _, Or.inr rfl, _, _, rfl⟩
    · simp only [if_neg h, if_pos hp]
      exact ⟨_, Or.inr rfl, _, Or.inl ⟨rfl, by rintro rfl; simp at hp⟩, _, _, rfl⟩
    · simp only [if_neg h, if_neg hp]
      exact ⟨_, Or.inr rfl, _, Or.inr rfl, _, _, rfl⟩
  have hc : s.clk.cycles ≤ a.clk.cycles := by
    rcases ha with rfl | rfl
    · rw [State.waitCycle_cycles]; omega
    · exact le_refl _
  have h1 : a.out = s.out ∧ a.host = s.host ∧ a.regs = s.regs := by
    rcases ha with rfl | rfl <;> exact ⟨rfl, rfl, rfl⟩
  rw [e]
  rcases hb with ⟨rfl, hp⟩ | rfl
  · refine ⟨h1.1, hc, ?_, fun r hr => ?_, fun h => absurd h hp⟩
    · show ({ a.host with reads := l, spent := m } : HostSt) = _
      rw [h1.2.1]
    · show (a.setReg _ _).reg r = _
      rw [State.reg_setReg, if_neg]
      · unfold State.reg; rw [h1.2.2]
      · intro h; apply hr; rw [h]; rfl
  · refine ⟨h1.1, hc, ?_, fun r _ => ?_, fun _ => h1.2.2⟩
    · show ({ b.host with reads := l, spent := m } : HostSt) = _
      rw [h1.2.1]
    · show b.reg r = _
      unfold State.reg; rw [h1.2.2]

theorem State.budgetRead_ring (s : State) (p : Option Nat) (f n : Nat) : (s.budgetRead p).ring f n = s.ring f n := by
  unfold State.ring; rw [(s.budgetRead_spec p).2.2.1]

theorem State.budgetRead_fn (s : State) (p : Option Nat) (f : Nat) : (s.budgetRead p).fn f = s.fn f := by
  unfold State.fn; rw [(s.budgetRead_spec p).2.2.1]

theorem State.budgetRead_dbAddr (s : State) (p : Option Nat) (f n : Nat) : (s.budgetRead p).dbAddr f n = s.dbAddr f n := by
  unfold State.dbAddr State.fget
  rw [(s.budgetRead_spec p).2.2.2.1 _ (by intro h; cases h)]

/-- Reading one record after another on the budget, as the summary bits ask for them (R119). -/
theorem budgetDbs_out (f : Nat) (l : List Nat) (s : State) :
    (l.foldl (fun s n => (s.budgetRead none).readDb f n) s).out = s.out ++ l.map (fun n => .memRead f (s.dbAddr f n) 16) ∧
      (l.foldl (fun s n => (s.budgetRead none).readDb f n) s).regs = s.regs ∧
      (l.foldl (fun s n => (s.budgetRead none).readDb f n) s).host.funcs = s.host.funcs := by
  induction l generalizing s with
  | nil => simp
  | cons a l ih =>
    obtain ⟨h1, h2, h3⟩ := ih ((s.budgetRead none).readDb f a)
    have hr : ((s.budgetRead none).readDb f a).regs = s.regs := (s.budgetRead_spec none).2.2.2.2 rfl
    refine ⟨?_, h2.trans hr, h3.trans (by rw [State.readDb_funcs, (s.budgetRead_spec none).2.2.1])⟩
    have hd : ∀ n, ((s.budgetRead none).readDb f a).dbAddr f n = s.dbAddr f n := by
      intro n; unfold State.dbAddr State.fget State.reg; rw [hr]
    rw [List.foldl_cons, h1]
    simp only [State.readDb_out, (s.budgetRead_spec none).1, State.budgetRead_dbAddr, hd, List.append_assoc, List.map_cons, List.cons_append, List.nil_append]

/-! ### Fetching -/

/-- A fetch: the context taken, SQ_HEAD moved on, the command counted. -/
theorem State.fetchOne_spec (s : State) (f n : Nat) (d : Desc) (x : Fetched) (ph : Phase) :
    (s.fetchOne f n d x ph).kv.ctxs = s.kv.ctxs ++ [s.ringCtx f n d x ph] ∧
    (s.fetchOne f n d x ph).rg f n .hqRingStat_sqHead = (s.rg f n .hqRingStat_sqHead + 1) % s.ringN f n % 65536 ∧
    (s.fetchOne f n d x ph).rg f n .hqRingStat_outstanding = (s.rg f n .hqRingStat_outstanding + 1) % 65536 ∧
    (s.fetchOne f n d x ph).out = s.out := by
  have e : ∀ u : State, u.regs = s.regs → u.kv.ctxs = s.kv.ctxs ++ [s.ringCtx f n d x ph] → u.out = s.out →
      let v := (((u.rp f n .hqRingStat_sqHead ((u.rg f n .hqRingStat_sqHead + 1) % u.ringN f n)).rp f n .hqRingStat_outstanding
        ((u.rp f n .hqRingStat_sqHead ((u.rg f n .hqRingStat_sqHead + 1) % u.ringN f n)).rg f n .hqRingStat_outstanding + 1)).modRing f n fun r => r)
      v.kv.ctxs = s.kv.ctxs ++ [s.ringCtx f n d x ph] ∧ v.rg f n .hqRingStat_sqHead = (s.rg f n .hqRingStat_sqHead + 1) % s.ringN f n % 65536 ∧
      v.rg f n .hqRingStat_outstanding = (s.rg f n .hqRingStat_outstanding + 1) % 65536 ∧ v.out = s.out := by
    intro u h1 h2 h3
    have hN : u.ringN f n = s.ringN f n := by unfold State.ringN; rw [State.rg_congr h1]
    dsimp only
    rw [State.modRing_kv, State.rp_kv, State.rp_kv, State.modRing_out, State.rp_out, State.rp_out, State.rg_congr (State.modRing_regs _ _ _ _),
      State.rg_rp_field _ f n .hqRingStat_outstanding .hqRingStat_sqHead _ rfl (by decide), State.rg_rp_same,
      State.rg_congr (State.modRing_regs _ _ _ _), State.rg_rp_same,
      State.rg_rp_field _ f n .hqRingStat_sqHead .hqRingStat_outstanding _ rfl (by decide), hN, State.rg_congr h1, State.rg_congr h1]
    exact ⟨h2, rfl, rfl, h3⟩
  exact e { s with kv := { s.kv with ctxs := s.kv.ctxs ++ [s.ringCtx f n d x ph], nextCtx := (s.ringCtx f n d x ph).id + 1 } } rfl rfl rfl

/-- A fetch leaves the state and generation of its ring. -/
theorem State.fetchOne_stat (s : State) (f n : Nat) (d : Desc) (x : Fetched) (ph : Phase) (y : Fld) (hy : y.reg = .hqRingStat) (hb : y.lsb + y.w ≤ 16) :
    (s.fetchOne f n d x ph).rg f n y = s.rg f n y := by
  unfold State.fetchOne
  dsimp only
  rw [State.rg_congr (State.modRing_regs _ _ _ _), State.rg_rp_field _ f n .hqRingStat_outstanding y _ hy (Or.inl (le_trans hb (by decide))),
    State.rg_rp_field _ f n .hqRingStat_sqHead y _ hy (Or.inl hb)]
  exact State.rg_congr rfl f n y

/-- Outputs one after another change nothing but the record of outputs. -/
theorem emits_spec {α : Type} (g : α → Output) (l : List α) (s : State) :
    l.foldl (fun s r => s.emit (g r)) s = { s with out := s.out ++ l.map g } := by
  induction l generalizing s with
  | nil => simp
  | cons a l ih => rw [List.foldl_cons, ih]; simp [State.emit]

/-! ### Interrupts -/

@[simp] theorem State.ring_sendMsix (s : State) (f v a b : Nat) : (s.sendMsix f v).ring a b = s.ring a b := by
  unfold State.sendMsix; split <;> rfl

@[simp] theorem State.sendMsix_regs (s : State) (f v : Nat) : (s.sendMsix f v).regs = s.regs := by
  unfold State.sendMsix; split <;> rfl

theorem State.sendMsix_out (s : State) (f v : Nat) : (s.sendMsix f v).out = if s.vecMasked f v then s.out else s.out ++ [.msix f v] := by
  unfold State.sendMsix; split <;> rfl

theorem State.sendMsix_pba (s : State) (f v : Nat) (h : s.vecMasked f v = true) : v ∈ ((s.sendMsix f v).fn f).msixPba := by
  unfold State.sendMsix
  rw [if_pos h, State.fn_modFn _ _ _ (by exact s.fn_f f)]
  dsimp only
  split
  · next h => simpa using h
  · simp

/-! ### Completion entries -/

theorem State.coalesce_regs (s : State) (f n : Nat) (now : Bool) : (s.coalesce f n now).regs = s.regs := by
  unfold State.coalesce
  split
  · rfl
  · dsimp only
    split
    · rw [State.sendMsix_regs]; rfl
    · rfl

theorem State.coalesce_kv (s : State) (f n : Nat) (now : Bool) : (s.coalesce f n now).kv = s.kv := by
  unfold State.coalesce
  split
  · rfl
  · dsimp only
    split
    · unfold State.sendMsix; split <;> rfl
    · rfl

theorem State.coalesce_phase (s : State) (f n : Nat) (now : Bool) (a b : Nat) : ((s.coalesce f n now).ring a b).aborted = (s.ring a b).aborted ∧
    ((s.coalesce f n now).ring a b).doneAfter = (s.ring a b).doneAfter := by
  have h : ∀ (g : Ring → Ring), (∀ r, (g r).f = r.f ∧ (g r).n = r.n ∧ (g r).aborted = r.aborted ∧ (g r).doneAfter = r.doneAfter) →
      ((s.modRing f n g).ring a b).aborted = (s.ring a b).aborted ∧ ((s.modRing f n g).ring a b).doneAfter = (s.ring a b).doneAfter := by
    intro g hg
    have h1 := (hg (s.ring f n)).1.trans (s.ring_fn f n).1
    have h2 := (hg (s.ring f n)).2.1.trans (s.ring_fn f n).2
    by_cases hab : a = f ∧ b = n
    · obtain ⟨rfl, rfl⟩ := hab
      rw [State.ring_modRing _ _ _ _ h1 h2]
      exact (hg _).2.2
    · rw [State.ring_modRing_other _ _ _ _ _ _ h1 h2 hab]
      exact ⟨rfl, rfl⟩
  unfold State.coalesce
  split
  · exact ⟨rfl, rfl⟩
  · dsimp only
    split
    · rw [State.ring_sendMsix]; exact h _ fun _ => ⟨rfl, rfl, rfl, rfl⟩
    · exact h _ fun _ => ⟨rfl, rfl, rfl, rfl⟩

/-- The outputs of a coalesced completion: at most its message. -/
theorem State.coalesce_out (s : State) (f n : Nat) (now : Bool) : ∃ l, (s.coalesce f n now).out = s.out ++ l := by
  unfold State.coalesce
  split
  · exact ⟨[], by simp⟩
  · dsimp only
    split
    · rw [State.sendMsix_out]; split
      · exact ⟨[], by simp⟩
      · exact ⟨_, rfl⟩
    · exact ⟨[], by simp⟩

/-- Posting an entry: it is written at CQ_TAIL, and of the ring's status only CQ_TAIL moves. -/
theorem State.postEntry_spec (s : State) (f n tag st rl rs og gen : Nat) (now : Bool) :
    (s.postEntry f n tag st rl rs og gen now).kv = s.kv ∧
    (∃ l, (s.postEntry f n tag st rl rs og gen now).out = s.out ++ (.memWrite (s.rg f n .hqCqBase_addr * 4096 + 32 * s.rg f n .hqRingStat_cqTail)
      (cqEntry tag st rl rs og gen (s.ring f n).phase (s.rg f n .hqRingStat_sqHead)) false :: l)) ∧
    (s.postEntry f n tag st rl rs og gen now).rg f n .hqRingStat_cqTail = (s.rg f n .hqRingStat_cqTail + 1) % s.ringN f n % 65536 ∧
    (∀ y : Fld, y.reg = .hqRingStat → (y.lsb + y.w ≤ 32 ∨ 48 ≤ y.lsb) → (s.postEntry f n tag st rl rs og gen now).rg f n y = s.rg f n y) ∧
    (∀ a b, ((s.postEntry f n tag st rl rs og gen now).ring a b).aborted = (s.ring a b).aborted ∧
      ((s.postEntry f n tag st rl rs og gen now).ring a b).doneAfter = (s.ring a b).doneAfter) := by
  obtain ⟨u, hu, e⟩ : ∃ u : State, (u = ((s.emit (.memWrite (s.rg f n .hqCqBase_addr * 4096 + 32 * s.rg f n .hqRingStat_cqTail)
      (cqEntry tag st rl rs og gen (s.ring f n).phase (s.rg f n .hqRingStat_sqHead)) false)).rp f n .hqRingStat_cqTail
        ((s.rg f n .hqRingStat_cqTail + 1) % s.ringN f n)) ∨
      u = ((s.emit (.memWrite (s.rg f n .hqCqBase_addr * 4096 + 32 * s.rg f n .hqRingStat_cqTail)
      (cqEntry tag st rl rs og gen (s.ring f n).phase (s.rg f n .hqRingStat_sqHead)) false)).rp f n .hqRingStat_cqTail
        ((s.rg f n .hqRingStat_cqTail + 1) % s.ringN f n)).modRing f n fun r => { r with phase := !r.phase }) ∧
      s.postEntry f n tag st rl rs og gen now = u.coalesce f n now := by
    refine ⟨if _ then _ else _, ?_, rfl⟩
    split
    · exact Or.inr rfl
    · exact Or.inl rfl
  rw [e, State.coalesce_kv]
  obtain ⟨l, hl⟩ := u.coalesce_out f n now
  rw [hl]
  have hg : ∀ y, (u.coalesce f n now).rg f n y = u.rg f n y := fun y => State.rg_congr (u.coalesce_regs f n now) f n y
  simp only [hg]
  have hN : ∀ o, (s.emit o).ringN f n = s.ringN f n := fun _ => rfl
  generalize hw : Output.memWrite _ _ _ = o at hu ⊢
  have h0 : ∀ y, (s.emit o).rg f n y = s.rg f n y := fun y => State.rg_congr (s.emit_regs o) f n y
  have hr : (u.rg f n .hqRingStat_cqTail = (s.rg f n .hqRingStat_cqTail + 1) % s.ringN f n % 65536) ∧
      ∀ y : Fld, y.reg = .hqRingStat → (y.lsb + y.w ≤ 32 ∨ 48 ≤ y.lsb) → u.rg f n y = s.rg f n y := by
    have k : u.regs = ((s.emit o).rp f n .hqRingStat_cqTail ((s.rg f n .hqRingStat_cqTail + 1) % s.ringN f n)).regs := by
      rcases hu with rfl | rfl
      · rfl
      · exact State.modRing_regs _ _ _ _
    refine ⟨?_, fun y hy hb => ?_⟩
    · rw [State.rg_congr k, State.rg_rp_same]; rfl
    · rw [State.rg_congr k, State.rg_rp_field _ f n .hqRingStat_cqTail y _ hy hb, h0]
  have hrk : ∀ a b, (u.ring a b).aborted = (s.ring a b).aborted ∧ (u.ring a b).doneAfter = (s.ring a b).doneAfter := by
    intro a b
    have k : ∀ v, ((s.emit o).rp f n .hqRingStat_cqTail v).ring a b = s.ring a b := by
      intro v; unfold State.ring; rw [State.rp_host]; rfl
    rcases hu with rfl | rfl
    · rw [k]; exact ⟨rfl, rfl⟩
    · by_cases hab : a = f ∧ b = n
      · obtain ⟨rfl, rfl⟩ := hab
        rw [State.ring_modRing _ _ _ _ (State.ring_fn _ _ _).1 (State.ring_fn _ _ _).2, k]
        exact ⟨rfl, rfl⟩
      · rw [State.ring_modRing_other _ _ _ _ _ _ (State.ring_fn _ _ _).1 (State.ring_fn _ _ _).2 hab, k]
        exact ⟨rfl, rfl⟩
  have hkv : u.kv = s.kv := by
    rcases hu with rfl | rfl
    · rw [State.rp_kv]; rfl
    · rw [State.modRing_kv, State.rp_kv]; rfl
  have hout : u.out = s.out ++ [o] := by
    rcases hu with rfl | rfl
    · rw [State.rp_out]; rfl
    · rw [State.modRing_out, State.rp_out]; rfl
  refine ⟨hkv, ⟨l, by rw [hout]; simp⟩, hr.1, hr.2, fun a b => ?_⟩
  have h1 := u.coalesce_phase f n now a b
  have h2 := hrk a b
  exact ⟨h1.1.trans h2.1, h1.2.trans h2.2⟩

/-! ### The end of an operation -/

/-- Releasing a context touches the contexts, the Tun's references and the flash, and neither registers, rings nor outputs. -/
theorem State.releaseCtx_spec (s : State) (c : OpCtx) : (s.releaseCtx c).regs = s.regs ∧ (s.releaseCtx c).host = s.host ∧
    (s.releaseCtx c).out = s.out ∧ (s.releaseCtx c).kv = { s.kv with ctxs := s.kv.ctxs.filter fun x => x.id != c.id } := by
  have h : ∀ (l : List Nat) (u : State), (l.foldl (fun s id => s.modEntry id fun e => { e with refs := e.refs - 1 }) u).regs = u.regs ∧
      (l.foldl (fun s id => s.modEntry id fun e => { e with refs := e.refs - 1 }) u).host = u.host ∧
      (l.foldl (fun s id => s.modEntry id fun e => { e with refs := e.refs - 1 }) u).out = u.out ∧
      (l.foldl (fun s id => s.modEntry id fun e => { e with refs := e.refs - 1 }) u).kv = u.kv := by
    intro l
    induction l with
    | nil => exact fun _ => ⟨rfl, rfl, rfl, rfl⟩
    | cons a l ih => exact fun u => ih (u.modEntry a fun e => { e with refs := e.refs - 1 })
  have k : ∀ u : State, u.regs = s.regs → u.host = s.host → u.out = s.out → u.kv = s.kv →
      let v := c.refs.foldl (fun s id => s.modEntry id fun e => { e with refs := e.refs - 1 }) u
      v.regs = s.regs ∧ v.host = s.host ∧ v.out = s.out ∧ { v.kv with ctxs := v.kv.ctxs.filter fun x => x.id != c.id } =
        { s.kv with ctxs := s.kv.ctxs.filter fun x => x.id != c.id } := by
    intro u h1 h2 h3 h4
    obtain ⟨k1, k2, k3, k4⟩ := h c.refs u
    dsimp only
    rw [k1, k2, k3, k4]
    exact ⟨h1, h2, h3, by rw [h4]⟩
  unfold State.releaseCtx
  dsimp only
  split
  · exact k _ rfl rfl rfl rfl
  · exact k _ rfl rfl rfl rfl

/-- A completion at a ring that is not orphaned (R136, R139, R145): its entry is written, the status keeps all but CQ_TAIL and
OUTSTANDING, and an ABORTED_BY_RESET counts while the ring is RESETTING. -/
theorem State.completeRing_spec (s : State) (c : OpCtx) (f n : Nat) (r : Res) (h : c.orphan = false) :
    (s.completeRing c f n r).kv = s.kv ∧
    (∃ l, (s.completeRing c f n r).out = s.out ++ (.memWrite (s.rg f n .hqCqBase_addr * 4096 + 32 * s.rg f n .hqRingStat_cqTail)
      (cqEntry c.desc.tag r.status r.rlen r.rstamp r.origin c.gen (s.ring f n).phase (s.rg f n .hqRingStat_sqHead)) false :: l)) ∧
    (s.completeRing c f n r).rg f n .hqRingStat_cqTail = (s.rg f n .hqRingStat_cqTail + 1) % s.ringN f n % 65536 ∧
    (s.completeRing c f n r).rg f n .hqRingStat_outstanding = (s.rg f n .hqRingStat_outstanding - 1) % 65536 ∧
    (∀ y : Fld, y.reg = .hqRingStat → y.lsb + y.w ≤ 32 → (s.completeRing c f n r).rg f n y = s.rg f n y) ∧
    (s.ringState f n = 2 → ((s.completeRing c f n r).ring f n).aborted = (s.ring f n).aborted + (if r.status = stAborted then 1 else 0)) := by
  obtain ⟨p1, ⟨l, p2⟩, p3, p4, p5⟩ := s.postEntry_spec f n c.desc.tag r.status r.rlen r.rstamp r.origin c.gen false
  have e : s.completeRing c f n r = (let u := s.postEntry f n c.desc.tag r.status r.rlen r.rstamp r.origin c.gen false
      let v := u.rp f n .hqRingStat_outstanding (u.rg f n .hqRingStat_outstanding - 1)
      if v.ringState f n = 2 then
        v.modRing f n fun x => if r.status = stAborted then { x with aborted := x.aborted + 1 } else { x with doneAfter := x.doneAfter + 1 }
      else v) := by
    unfold State.completeRing; simp only [h, Bool.false_eq_true, if_false]
  rw [e]
  generalize s.postEntry f n c.desc.tag r.status r.rlen r.rstamp r.origin c.gen false = u at *
  dsimp only
  have v1 : (u.rp f n .hqRingStat_outstanding (u.rg f n .hqRingStat_outstanding - 1)).kv = s.kv := by rw [State.rp_kv, p1]
  have v2 : (u.rp f n .hqRingStat_outstanding (u.rg f n .hqRingStat_outstanding - 1)).out = u.out := by rw [State.rp_out]
  have v3 : (u.rp f n .hqRingStat_outstanding (u.rg f n .hqRingStat_outstanding - 1)).rg f n .hqRingStat_outstanding =
      (s.rg f n .hqRingStat_outstanding - 1) % 65536 := by
    rw [State.rg_rp_same, p4 .hqRingStat_outstanding rfl (by decide)]; rfl
  have v4 : ∀ y : Fld, y.reg = .hqRingStat → y.lsb + y.w ≤ 48 →
      (u.rp f n .hqRingStat_outstanding (u.rg f n .hqRingStat_outstanding - 1)).rg f n y = u.rg f n y :=
    fun y hy hb => State.rg_rp_field _ f n .hqRingStat_outstanding y _ hy (Or.inl hb)
  have v5 : ∀ a b, ((u.rp f n .hqRingStat_outstanding (u.rg f n .hqRingStat_outstanding - 1)).ring a b) = u.ring a b := by
    intro a b; unfold State.ring; rw [State.rp_host]
  generalize u.rp f n .hqRingStat_outstanding (u.rg f n .hqRingStat_outstanding - 1) = v at *
  have vs : v.ringState f n = s.ringState f n := (v4 .hqRingStat_state rfl (by decide)).trans (p4 .hqRingStat_state rfl (by decide))
  have vt : v.rg f n .hqRingStat_cqTail = (s.rg f n .hqRingStat_cqTail + 1) % s.ringN f n % 65536 :=
    (v4 .hqRingStat_cqTail rfl (by decide)).trans p3
  have vy : ∀ y : Fld, y.reg = .hqRingStat → y.lsb + y.w ≤ 32 → v.rg f n y = s.rg f n y :=
    fun y hy hb => (v4 y hy (by omega)).trans (p4 y hy (Or.inl hb))
  split
  · refine ⟨by rw [State.modRing_kv, v1], ⟨l, by rw [State.modRing_out, v2, p2]⟩, ?_, ?_, fun y hy hb => ?_, fun hs => ?_⟩
    · rw [State.rg_congr (State.modRing_regs _ _ _ _), vt]
    · rw [State.rg_congr (State.modRing_regs _ _ _ _), v3]
    · rw [State.rg_congr (State.modRing_regs _ _ _ _), vy y hy hb]
    · have hk : ∀ x : Ring, (if r.status = stAborted then { x with aborted := x.aborted + 1 } else { x with doneAfter := x.doneAfter + 1 } : Ring).f = x.f ∧
          (if r.status = stAborted then { x with aborted := x.aborted + 1 } else { x with doneAfter := x.doneAfter + 1 } : Ring).n = x.n ∧
          (if r.status = stAborted then { x with aborted := x.aborted + 1 } else { x with doneAfter := x.doneAfter + 1 } : Ring).aborted =
            x.aborted + (if r.status = stAborted then 1 else 0) := by
        intro x; split <;> exact ⟨rfl, rfl, rfl⟩
      rw [State.ring_modRing _ _ _ _ ((hk _).1.trans (State.ring_fn _ _ _).1) ((hk _).2.1.trans (State.ring_fn _ _ _).2)]
      show (if r.status = stAborted then { v.ring f n with aborted := (v.ring f n).aborted + 1 } else { v.ring f n with doneAfter := (v.ring f n).doneAfter + 1 } : Ring).aborted = _
      rw [(hk _).2.2, v5, (p5 f n).1]
  · next hn =>
    refine ⟨v1, ⟨l, by rw [v2, p2]⟩, vt, v3, vy, fun hs => absurd (vs.trans hs) hn⟩

end Sys2Proof.Machine
end

