-- ==== Sys2Proof/Laws/Data.lean ====
section
/-!
SUPPORT. The KV engine's operations: what the end of an operation leaves, which way an admitted operation goes, and what a read
selects.
-/

namespace Sys2Proof.Machine

/-! ### The end of an operation -/

/-- A state that has come from another by ends of operations: outputs are added, contexts leave. -/
def Ended (s t : State) : Prop := (∃ l, t.out = s.out ++ l) ∧ ∀ e ∈ t.kv.ctxs, e ∈ s.kv.ctxs

theorem Ended.refl (s : State) : Ended s s := ⟨⟨[], by simp⟩, fun _ h => h⟩

theorem Ended.trans {s t u : State} (h : Ended s t) (k : Ended t u) : Ended s u := by
  obtain ⟨⟨l, hl⟩, hc⟩ := h
  obtain ⟨⟨m, hm⟩, kc⟩ := k
  exact ⟨⟨l ++ m, by rw [hm, hl, List.append_assoc]⟩, fun e he => hc e (kc e he)⟩

theorem Ended.foldl {α : Type} (g : State → α → State) (h : ∀ s a, Ended s (g s a)) (l : List α) (s : State) : Ended s (l.foldl g s) := by
  induction l generalizing s with
  | nil => exact Ended.refl s
  | cons a l ih => exact (h s a).trans (ih _)

theorem ended_same {s t : State} (h : t.out = s.out) (k : t.kv.ctxs = s.kv.ctxs) : Ended s t :=
  ⟨⟨[], by simp [h]⟩, fun e he => by rwa [k] at he⟩

theorem ended_emit (s : State) (o : Output) : Ended s (s.emit o) := ⟨⟨[o], rfl⟩, fun _ h => h⟩

theorem ended_report (s : State) (e : EvKind) (k : Nat) : Ended s (s.report e k) := ended_same (State.reportFrom_out s e _ _ _) (by unfold State.report; rw [State.reportFrom_kv])

theorem ended_modSlot (s : State) (n : Nat) (g : Slot → Slot) : Ended s (s.modSlot n g) := ended_same rfl rfl

theorem ended_sendMsg (s : State) (n : Nat) (h : YHead) (b : Bytes) (c : Option Nat) (r : Nat) : Ended s (s.sendMsg n h b c r) :=
  ended_modSlot _ _ _

theorem ended_releaseCtx (s : State) (c : OpCtx) : Ended s (s.releaseCtx c) := by
  obtain ⟨_, _, h3, h4⟩ := s.releaseCtx_spec c
  refine ⟨⟨[], by simp [h3]⟩, fun e he => ?_⟩
  rw [h4] at he
  exact (List.mem_filter.1 he).1

theorem ended_placeResult (s : State) (c : OpCtx) (ps : List (Nat × Bytes)) : Ended s (s.placeResult c ps) := by
  unfold State.placeResult
  split
  · exact Ended.refl s
  · have h : Ended s (ps.foldl (fun s p => (scatterAt p.1 (resultSgl c.desc c.fx) p.2).foldl (fun s w => s.emit (.memWrite w.1 w.2 (c.poisoned p.1))) s) s) :=
      Ended.foldl _ (fun s p => Ended.foldl _ (fun s w => ended_emit s _) _ s) _ s
    dsimp only
    split
    · exact h.trans (ended_report _ _ _)
    · exact h

theorem OpCtx.poisoned_none {c : OpCtx} (h : c.poison = []) (n : Nat) : c.poisoned n = false := by
  unfold OpCtx.poisoned; rw [h]; rfl

theorem OpCtx.told_none {c : OpCtx} (h : c.poison = []) (r : Res) (ps : List (Nat × Bytes)) : c.told r ps = r := by
  unfold OpCtx.told
  rw [if_neg]
  rintro ⟨_, k⟩
  obtain ⟨p, _, hp⟩ := List.any_eq_true.1 k
  rw [OpCtx.poisoned_none h] at hp
  cases hp

theorem ended_completeRing (s : State) (c : OpCtx) (f n : Nat) (r : Res) : Ended s (s.completeRing c f n r) := by
  by_cases h : c.orphan = true
  · unfold State.completeRing; rw [if_pos h]; exact Ended.refl s
  · simp only [Bool.not_eq_true] at h
    obtain ⟨k1, ⟨l, k2⟩, _⟩ := s.completeRing_spec c f n r h
    exact ⟨⟨_, k2⟩, fun e he => by rwa [k1] at he⟩

theorem ended_sendTown (s : State) (m : Nat) (t : TMsg) : Ended s (s.sendTown m t) := by
  unfold State.sendTown
  dsimp only
  split
  · exact (ended_emit _ _).trans (ended_sendMsg _ _ _ _ _ _)
  · exact ended_emit _ _

theorem ended_replyTo (s : State) (c : OpCtx) (slot m : Nat) (r : Res) (ps : List (Nat × Bytes)) : Ended s (s.replyTo c slot m r ps) := by
  unfold State.replyTo
  dsimp only
  split
  · refine Ended.trans ?_ (Ended.foldl _ (fun s w => (ended_modSlot _ _ _).trans (ended_sendMsg _ _ _ _ _ _)) _ _)
    split
    · exact ended_same rfl rfl
    · exact ended_same rfl rfl
  · split
    · exact ended_same rfl rfl
    · exact ended_same rfl rfl

theorem ended_finishAt (s : State) (c : OpCtx) (r : Res) (ps : List (Nat × Bytes)) : Ended s (s.finishAt c r ps) := by
  unfold State.finishAt
  split
  · exact ((ended_placeResult _ _ _).trans (ended_releaseCtx _ _)).trans (ended_completeRing _ _ _ _ _)
  · exact (ended_releaseCtx _ _).trans (ended_replyTo _ _ _ _ _ _)
  · exact (ended_releaseCtx _ _).trans (ended_sendTown _ _ _)

/-- The end of an operation begins with its own completion; what follows only completes BARRIERs. -/
theorem ended_finish (s : State) (c : OpCtx) (r : Res) (ps : List (Nat × Bytes)) : Ended (s.finishAt c r ps) (s.finish c r ps) :=
  Ended.foldl _ (fun s _ => Ended.foldl _ (fun s b => ended_finishAt s b _ _) _ s) _ _

/-- Placing a result writes each of its pieces, and changes nothing else, where no buffer was found uncorrectable. -/
theorem State.placeResult_spec (s : State) (c : OpCtx) (ps : List (Nat × Bytes)) (h : c.orphan = false) (hp : c.poison = []) :
    s.placeResult c ps = { s with out := s.out ++ ps.flatMap fun p => (scatterAt p.1 (resultSgl c.desc c.fx) p.2).map fun w => .memWrite w.1 w.2 false } := by
  unfold State.placeResult
  have hn : (ps.any fun _ => false) = false := by simp
  simp only [h, Bool.false_eq_true, if_false, OpCtx.poisoned_none hp, hn]
  clear hn
  induction ps generalizing s with
  | nil => simp
  | cons p ps ih => rw [List.foldl_cons, ih, emits_spec]; simp

/-- The end of an operation of a ring: its result lies in host memory, its completion entry is written at CQ_TAIL, and its context
has gone. -/
theorem State.finish_ring (s : State) (c : OpCtx) (f n : Nat) (r : Res) (ps : List (Nat × Bytes)) (hs : c.src = .ring f n) (ho : c.orphan = false)
    (hz : c.poison = []) :
    (∀ p ∈ ps, ∀ w ∈ scatterAt p.1 (resultSgl c.desc c.fx) p.2, Output.memWrite w.1 w.2 false ∈ (s.finish c r ps).out) ∧
    Output.memWrite (s.rg f n .hqCqBase_addr * 4096 + 32 * s.rg f n .hqRingStat_cqTail)
      (cqEntry c.desc.tag r.status r.rlen r.rstamp r.origin c.gen (s.ring f n).phase (s.rg f n .hqRingStat_sqHead)) false ∈ (s.finish c r ps).out ∧
    (∀ o ∈ s.out, o ∈ (s.finish c r ps).out) ∧
    ∀ e ∈ (s.finish c r ps).kv.ctxs, e.id ≠ c.id ∧ e ∈ s.kv.ctxs := by
  obtain ⟨⟨l, hl⟩, hc⟩ := ended_finish s c r ps
  have e : s.finishAt c r ps = ((s.placeResult c ps).releaseCtx c).completeRing c f n r := by
    unfold State.finishAt; rw [hs]; dsimp only; rw [OpCtx.told_none hz]
  obtain ⟨r1, r2, r3, r4⟩ := (s.placeResult c ps).releaseCtx_spec c
  obtain ⟨k1, ⟨m, k2⟩, k3⟩ := ((s.placeResult c ps).releaseCtx c).completeRing_spec c f n r ho
  have hp := s.placeResult_spec c ps ho hz
  have pr : (s.placeResult c ps).regs = s.regs := by rw [hp]
  have ph : (s.placeResult c ps).host = s.host := by rw [hp]
  have pk : (s.placeResult c ps).kv = s.kv := by rw [hp]
  have po : (s.placeResult c ps).out = s.out ++ ps.flatMap fun p => (scatterAt p.1 (resultSgl c.desc c.fx) p.2).map fun w => .memWrite w.1 w.2 false := by rw [hp]
  have g : ∀ y, ((s.placeResult c ps).releaseCtx c).rg f n y = s.rg f n y := fun y => State.rg_congr (r1.trans pr) f n y
  have gr : ((s.placeResult c ps).releaseCtx c).ring f n = s.ring f n := by unfold State.ring; rw [r2, ph]
  rw [g, g, g, gr, r3, po] at k2
  rw [e, k2] at hl
  rw [e] at hc
  refine ⟨fun p hp w hw => ?_, ?_, fun o h => ?_, fun x hx => ?_⟩
  · rw [hl]
    simp only [List.mem_append, List.mem_flatMap, List.mem_map]
    exact Or.inl (Or.inl (Or.inr ⟨p, hp, w, hw, rfl⟩))
  · rw [hl]; simp
  · rw [hl]; simp [h]
  · have := hc x hx
    rw [k1, r4, pk] at this
    have := List.mem_filter.1 this
    exact ⟨by simpa using this.2, this.1⟩

/-! ### Which way an operation goes -/

/-- An operation of an I/O ring that the engine may fetch is admitted. -/
theorem State.arrive_ring (s : State) (op f n : Nat) (d : Desc) (x : Fetched) (h : s.mayFetch f n = true) (hn : n ≠ 64) :
    s.arrive op (.ring f n) d x = (s.fetchOne f n { d with opc := op } x .held).admitCtx (s.ringCtx f n { d with opc := op } x .held) := by
  unfold State.arrive
  dsimp only
  rw [if_pos h, if_neg hn]

/-- An operation without a request number has run nowhere before. -/
theorem State.ranBefore_none (s : State) {c : OpCtx} (h : c.reqNo = 0) : s.ranBefore c = none := by
  unfold State.ranBefore; rw [if_neg]; simp [h]

/-- A single-key operation that runs is a read or a mutation of its key. -/
theorem State.admit_key (s : State) (c : OpCtx) (h : Safety.Runs s c) (hn : c.reqNo = 0) (ho : isRead c.desc.opc = true ∨ isMut c.desc.opc = true) :
    s.admitCtx c = if isRead c.desc.opc then s.runRead c else s.runMut c (((s.ksp? c.desc.ksp).map fun k => k.rf).getD 1) := by
  obtain ⟨h1, h2, h3, h4, h5, h6⟩ := h
  have hop : (1 ≤ c.desc.opc ∧ c.desc.opc ≤ 4) ∨ (5 ≤ c.desc.opc ∧ c.desc.opc ≤ 10) := by
    rcases ho with ho | ho
    · left; simpa [isRead] using ho
    · right; simpa [isMut] using ho
  have hk : s.kspOf c.desc = c.desc.ksp := by
    unfold State.kspOf opStageData opStagePublish opStageDiscard
    rw [if_neg (by omega)]
  unfold State.admitCtx
  rw [h1]
  dsimp only
  unfold State.dispatch
  dsimp only
  rw [hk, h2, h3]
  rw [if_neg]
  · have hz : ∀ o, (10 < o) → (c.desc.opc == o) = false := fun o ho => by rw [beq_eq_false_iff_ne]; omega
    rw [hz opSnapOpen (by decide), hz opSnapClose (by decide), hz opBarrier (by decide), Bool.or_false, Bool.or_false, Bool.and_false, if_neg (by decide),
      if_neg (by unfold opSnapOpen; omega), if_neg (by unfold opSnapClose; omega), if_neg (by unfold opBarrier; omega),
      if_neg (by unfold opStageData opStagePublish opStageDiscard; omega), h5]
    dsimp only
    have hs : ¬ c.desc.opc = opScan := by unfold opScan; omega
    rw [if_neg hs, h6]
    dsimp only
    rw [s.ranBefore_none hn]
    dsimp only
    rw [if_neg hs, if_neg (by unfold opStageOpen; omega)]
    by_cases hr : isRead c.desc.opc = true
    · rw [if_pos hr, if_pos hr]
    · rw [if_neg hr, if_neg hr, if_pos (by rcases ho with ho | ho <;> [exact absurd ho hr; exact ho])]
  · rintro (h | h | ⟨h, h'⟩)
    · cases h
    · cases h
    · obtain ⟨k, hk, hi⟩ := List.any_eq_true.1 h'
      rw [h4 h k hk] at hi
      cases hi

/-- What a read selects rests on the Tun, the index, the flash and the keyspaces alone. -/
theorem State.readVer_congr {s t : State} (h1 : s.tun = t.tun) (h2 : s.index = t.index) (h3 : s.media = t.media)
    (h4 : s.kv.keyspaces = t.kv.keyspaces) (ksp : Nat) (key : Bytes) (at_ : Nat) (held : Option Leaf) :
    s.readVer ksp key at_ held = t.readVer ksp key at_ held := by
  have hd : ∀ k b, s.digest k b = t.digest k b := by intro k b; unfold State.digest State.ksp?; rw [h4]
  have hf : s.flashVer ksp key at_ held = t.flashVer ksp key at_ held := by unfold State.flashVer; rw [hd, h2, h3]
  have hm : ∀ l ps, s.mergeFrom ksp key at_ held l ps = t.mergeFrom ksp key at_ held l ps := by
    intro l
    induction l with
    | nil => intro ps; unfold State.mergeFrom; rw [hf]
    | cons e l ih => intro ps; unfold State.mergeFrom; rw [h3]; cases e.kind <;> simp only [ih]
  have he : s.entriesOf ksp key = t.entriesOf ksp key := by unfold State.entriesOf; rw [h1, hd]
  unfold State.readVer
  dsimp only
  rw [he, hm, h1, hd]

/-! ### Reads -/

/-- Two states in which a ring stands alike. -/
def SameRing (f n : Nat) (s t : State) : Prop := (∀ y : Fld, y.reg = .hqRingStat ∨ y.reg = .hqCqBase → t.rg f n y = s.rg f n y) ∧ t.ring f n = s.ring f n

theorem sameRing_regs {f n : Nat} {s t : State} (h : t.regs = s.regs) (k : t.host = s.host) : SameRing f n s t :=
  ⟨fun y _ => State.rg_congr h f n y, by unfold State.ring; rw [k]⟩

theorem SameRing.trans {f n : Nat} {s t u : State} (h : SameRing f n s t) (k : SameRing f n t u) : SameRing f n s u :=
  ⟨fun y hy => (k.1 y hy).trans (h.1 y hy), k.2.trans h.2⟩

/-- Writing a field outside the ring registers. -/
theorem sameRing_fput (f n : Nat) (s : State) (x : Fld) (v i j k : Nat) (h : x.reg ∉ [RegName.hqRingStat, .hqCqBase, .hqAdmStat, .hqAdmCqBase]) :
    SameRing f n s (s.fput x v i j k) := by
  refine ⟨fun y hy => ?_, by unfold State.ring; rw [State.fput_host]⟩
  have hne : ringKey y f n ≠ x.at i j k := by
    intro e
    have := congrArg RegKey.name e
    rw [ringKey_name] at this
    apply h
    show (x.at i j k).name ∈ _
    rw [← this]
    rcases hy with hy | hy <;> rw [hy] <;> split <;> decide
  unfold State.rg State.fput
  rw [State.reg_setReg, if_neg hne]

/-- Moving references touches the Tun's entries alone. -/
theorem refs_spec (g : TunEntry → TunEntry) (l : List Nat) (u : State) : (l.foldl (fun s id => s.modEntry id g) u).regs = u.regs ∧
    (l.foldl (fun s id => s.modEntry id g) u).host = u.host ∧ (l.foldl (fun s id => s.modEntry id g) u).out = u.out ∧
    (l.foldl (fun s id => s.modEntry id g) u).kv = u.kv := by
  induction l generalizing u with
  | nil => exact ⟨rfl, rfl, rfl, rfl⟩
  | cons a l ih => exact ih (u.modEntry a g)

theorem modCtx_ids (s : State) (id : Nat) (g : OpCtx → OpCtx) (hg : ∀ c, (g c).id = c.id) :
    ∀ e ∈ (s.modCtx id g).kv.ctxs, ∃ d ∈ s.kv.ctxs, e.id = d.id := by
  intro e he
  have : e ∈ updWhere (fun x => x.id == id) g s.kv.ctxs := he
  unfold updWhere at this
  obtain ⟨d, hd, he⟩ := List.mem_map.1 this
  refine ⟨d, hd, ?_⟩
  rw [← he]; split
  · exact hg d
  · rfl

/-- Holding what a read has taken up leaves the registers, the rings, the outputs and the contexts' numbers. -/
theorem State.holdVer_spec (s : State) (c : OpCtx) (v : Ver) : (s.holdVer c v).regs = s.regs ∧ (s.holdVer c v).host = s.host ∧
    (s.holdVer c v).out = s.out ∧ ∀ e ∈ (s.holdVer c v).kv.ctxs, ∃ d ∈ s.kv.ctxs, e.id = d.id := by
  obtain ⟨a1, a2, a3, a4⟩ := refs_spec (fun e => { e with refs := e.refs - 1 }) c.refs s
  obtain ⟨b1, b2, b3, b4⟩ := refs_spec (fun e => { e with refs := e.refs + 1 }) v.refs (c.refs.foldl (fun s id => s.modEntry id fun e => { e with refs := e.refs - 1 }) s)
  have ht : (s.holdVer c v).regs = (s.takeRefs c v.refs).regs ∧ (s.holdVer c v).host = (s.takeRefs c v.refs).host ∧ (s.holdVer c v).out = (s.takeRefs c v.refs).out :=
    ⟨rfl, rfl, rfl⟩
  have hu : (s.takeRefs c v.refs).regs = (v.refs.foldl (fun s id => s.modEntry id fun e => { e with refs := e.refs + 1 })
      (c.refs.foldl (fun s id => s.modEntry id fun e => { e with refs := e.refs - 1 }) s)).regs ∧ (s.takeRefs c v.refs).host = s.host ∧
      (s.takeRefs c v.refs).out = s.out := by
    unfold State.takeRefs
    exact ⟨rfl, b2.trans a2, b3.trans a3⟩
  refine ⟨ht.1.trans (hu.1.trans (b1.trans a1)), ht.2.1.trans hu.2.1, ht.2.2.trans hu.2.2, fun e he => ?_⟩
  obtain ⟨d, hd, h1⟩ := modCtx_ids (s.takeRefs c v.refs) c.id (fun c => c.using v) (fun _ => rfl) e he
  obtain ⟨d', hd', h2⟩ := modCtx_ids _ c.id (fun c => { c with refs := v.refs }) (fun _ => rfl) d hd
  rw [b4, a4] at hd'
  exact ⟨d', hd', h1.trans h2⟩

/-- Adding to a count outside the ring registers. -/
theorem countUp_spec (u : State) (b : Prop) [Decidable b] (x : Fld) (k f n : Nat) (hx : x.reg ∉ [RegName.hqRingStat, .hqCqBase, .hqAdmStat, .hqAdmCqBase]) :
    SameRing f n u (if b then u else u.fadd x k) ∧ (if b then u else u.fadd x k).out = u.out ∧ (if b then u else u.fadd x k).kv = u.kv := by
  split
  · exact ⟨sameRing_regs rfl rfl, rfl, rfl⟩
  · exact ⟨sameRing_fput f n u x _ 0 0 0 hx, State.fadd_out _ _ _ _ _ _, State.fadd_kv _ _ _ _ _ _⟩

theorem chainPeak_spec (r : State) (k f n : Nat) : SameRing f n r (r.fmax .adStat_chainPeak k) ∧ (r.fmax .adStat_chainPeak k).out = r.out ∧
    (r.fmax .adStat_chainPeak k).kv = r.kv := by
  unfold State.fmax
  exact ⟨sameRing_fput f n r .adStat_chainPeak _ 0 0 0 (by decide), State.fput_out _ _ _ _ _ _, State.fput_kv _ _ _ _ _ _⟩

theorem modLeaf_spec (u : State) (w p d : Nat) (g : Leaf → Leaf) : (u.modLeaf w p d g).regs = u.regs ∧ (u.modLeaf w p d g).host = u.host ∧
    (u.modLeaf w p d g).out = u.out ∧ (u.modLeaf w p d g).kv = u.kv := ⟨rfl, rfl, rfl, rfl⟩

/-- A lookup that has been made changes only counts, what has been used and what is cached. -/
theorem State.countRead_spec (s : State) (v : Ver) (f n : Nat) : SameRing f n s (s.countRead v) ∧ (s.countRead v).out = s.out ∧ (s.countRead v).kv = s.kv := by
  obtain ⟨a1, a2, a3⟩ := countUp_spec s (v.falseHits = 0) .kveIdxStat_falseHits v.falseHits f n (by decide)
  unfold State.countRead
  dsimp only
  generalize (if v.falseHits = 0 then s else s.fadd .kveIdxStat_falseHits v.falseHits) = q at a1 a2 a3 ⊢
  obtain ⟨b1, b2, b3⟩ := countUp_spec q (v.adFalse = 0) .adErr_falseHits v.adFalse f n (by decide)
  generalize (if v.adFalse = 0 then q else q.fadd .adErr_falseHits v.adFalse) = r at b1 b2 b3 ⊢
  obtain ⟨d1, d2, d3⟩ := chainPeak_spec r v.chain f n
  generalize r.fmax .adStat_chainPeak v.chain = w at d1 d2 d3 ⊢
  have e : ∀ y : State, y.regs = w.regs → y.host = w.host → y.out = w.out → y.kv = w.kv → ∀ ix : IndexSt,
      SameRing f n s { y with index := ix } ∧ ({ y with index := ix } : State).out = s.out ∧ ({ y with index := ix } : State).kv = s.kv := by
    intro y h1 h2 h3 h4 ix
    exact ⟨((a1.trans b1).trans d1).trans (sameRing_regs h1 h2), h3.trans (d2.trans (b2.trans a2)), h4.trans (d3.trans (b3.trans a3))⟩
  have e2 : ∀ y : State, (y = w ∨ ∃ a b c g, y = w.modLeaf a b c g) → ∀ ix : IndexSt,
      SameRing f n s { y with index := ix } ∧ ({ y with index := ix } : State).out = s.out ∧ ({ y with index := ix } : State).kv = s.kv := by
    rintro y (rfl | ⟨a, b, c, g, rfl⟩) ix
    · exact e _ rfl rfl rfl rfl ix
    · obtain ⟨k1, k2, k3, k4⟩ := modLeaf_spec w a b c g
      exact e _ k1 k2 k3 k4 ix
  apply e2
  cases v.leaf with
  | none => exact Or.inl rfl
  | some l => exact Or.inr ⟨_, _, _, _, rfl⟩

/-- Taking up a version leaves the rings, the outputs and the contexts' numbers. -/
theorem State.useVer_spec (s : State) (c : OpCtx) (v : Ver) (f n : Nat) : SameRing f n s (s.useVer c v) ∧ (s.useVer c v).out = s.out ∧
    ∀ e ∈ (s.useVer c v).kv.ctxs, ∃ d ∈ s.kv.ctxs, e.id = d.id := by
  obtain ⟨a1, a2, a3⟩ := s.countRead_spec v f n
  obtain ⟨b1, b2, b3, b4⟩ := (s.countRead v).holdVer_spec c v
  refine ⟨a1.trans (sameRing_regs b1 b2), b3.trans a2, fun e he => ?_⟩
  obtain ⟨d, hd, h⟩ := b4 e he
  rw [a3] at hd
  exact ⟨d, hd, h⟩

/-- An operation that holds no leaf reads through the present one (R187). -/
theorem OpCtx.heldLeaf_none {c : OpCtx} (h : c.leaves = []) (d : Nat) : c.heldLeaf d = none := by
  unfold OpCtx.heldLeaf; rw [h]; rfl

/-- Where no mutation of a read's key is FILLING, none with an older stamp is (R206). -/
theorem State.fillingTo_none {s : State} {ksp : Nat} {ks : List Bytes} {key : Bytes} (h : s.fillingOn ksp ks = false) (hk : key ∈ ks) (t : Nat) :
    s.fillingTo ksp key t = false := by
  unfold State.fillingOn at h
  unfold State.fillingTo
  rw [List.any_eq_false] at h ⊢
  intro e he hf
  apply h e he
  simp only [Bool.and_eq_true, decide_eq_true_eq, beq_iff_eq] at hf ⊢
  exact ⟨⟨hf.1.1.1, hf.1.2⟩, by rw [hf.2]; exact List.contains_iff_mem.2 hk⟩

/-- The key of a read. -/
theorem State.keysOf_read (s : State) {c : OpCtx} (h : isRead c.desc.opc = true) : keyOf c.desc c.fx ∈ s.keysOf c := by
  have hop : 1 ≤ c.desc.opc ∧ c.desc.opc ≤ 4 := by simpa [isRead] using h
  have hk : hasKey c.desc.opc = true := by unfold hasKey; simp; omega
  unfold State.keysOf
  dsimp only
  rw [if_pos hk]
  exact List.mem_cons_self

/-- A read that has a good version and nothing to wait for ends with it. -/
theorem State.readStep_ends (s : State) (c : OpCtx) {key : Bytes} {v : Ver} {e : List Nat} (hk : keyOf c.desc c.fx = key)
    (hv : s.readVer c.desc.ksp key c.readT (c.heldLeaf (s.digest c.desc.ksp key)) = v) (he : extsFor v (wantBytes c.desc v).1 (wantBytes c.desc v).2 = e)
    (hi : s.intentOn c.desc.ksp key = false) (hf : s.fillingTo c.desc.ksp key c.readT = false) (hb : v.bad = false) (hr : ∀ l, v.leaf = some l → l.rebuild = false)
    (hm : s.missing c v e = []) (hl : ∀ q ∈ v.recs ++ e, lostAt s.media c q = false) (hu : v.unacked = false) :
    s.readStep c = (let a := s.readRes c.desc (s.digest c.desc.ksp key) v (sglLen (resultSgl c.desc c.fx))
      (s.useVer c v).finish (c.using v) a.1 [(0, a.2)]) := by
  have hlost : ((v.recs ++ e).any fun a => lostAt s.media c a) = false := by
    rw [Bool.eq_false_iff]
    intro h
    obtain ⟨q, hq, hq'⟩ := List.any_eq_true.1 h
    rw [hl q hq] at hq'
    cases hq'
  have hreb : (v.leaf.any fun l => l.rebuild) = false := by
    cases h : v.leaf with
    | none => rfl
    | some l => exact hr l h
  unfold State.readStep
  dsimp only
  rw [hk, hi, hf, if_neg (by simp), hv, he, hm]
  simp only [hb, hreb, hlost, hu, List.isEmpty_nil, Bool.not_true, Bool.false_eq_true, or_self, if_false]

/-- A read of the current version by an operation of a ring, with nothing left to wait for: what the admission leaves. -/
theorem State.admit_read (u : State) (c : OpCtx) (f n : Nat) {key : Bytes} {v : Ver} {e : List Nat} (hr : Safety.Runs u c) (hn : c.reqNo = 0)
    (ho : isRead c.desc.opc = true) (h0 : c.desc.snap = 0) (hs : c.src = .ring f n) (hq : c.orphan = false) (hz : c.poison = []) (hlf : c.leaves = [])
    (hk : keyOf c.desc c.fx = key)
    (hv : u.readVer c.desc.ksp key u.lastStamp = v) (he : extsFor v (wantBytes c.desc v).1 (wantBytes c.desc v).2 = e)
    (h1 : u.intentOn c.desc.ksp key = false) (h2 : v.bad = false) (h3 : ∀ l, v.leaf = some l → l.rebuild = false)
    (h4 : u.missing c v e = []) (h5 : ∀ q ∈ v.recs ++ e, lostAt u.media c q = false) (h6 : v.unacked = false) :
    let a := u.readRes c.desc (u.digest c.desc.ksp key) v (sglLen (resultSgl c.desc c.fx))
    Output.memWrite (u.rg f n .hqCqBase_addr * 4096 + 32 * u.rg f n .hqRingStat_cqTail)
      (cqEntry c.desc.tag a.1.status a.1.rlen a.1.rstamp a.1.origin c.gen (u.ring f n).phase (u.rg f n .hqRingStat_sqHead)) false ∈ (u.admitCtx c).out ∧
    (∀ w ∈ scatterAt 0 (resultSgl c.desc c.fx) a.2, Output.memWrite w.1 w.2 false ∈ (u.admitCtx c).out) ∧ (∀ o ∈ u.out, o ∈ (u.admitCtx c).out) ∧
    ∀ y ∈ (u.admitCtx c).kv.ctxs, y.id ≠ c.id := by
  have hrun : u.admitCtx c = (u.modCtx c.id fun c => { c with ponr := true, readT := u.lastStamp }).readStep { c with ponr := true, readT := u.lastStamp } := by
    rw [u.admit_key c hr hn (Or.inl ho), if_pos ho]
    unfold State.runRead
    dsimp only
    rw [h0]
    rfl
  have w4 := (u.modCtx c.id fun c => { c with ponr := true, readT := u.lastStamp }).readStep_ends
    { c with ponr := true, readT := u.lastStamp } (key := key) (v := v) (e := e) hk
    ((State.readVer_congr (s := u.modCtx c.id fun c => { c with ponr := true, readT := u.lastStamp }) (t := u) rfl rfl rfl rfl _ _ _ _).trans (by rw [OpCtx.heldLeaf_none (c := { c with ponr := true, readT := u.lastStamp }) hlf]; exact hv)) he h1
    (State.fillingTo_none (s := u.modCtx c.id fun c => { c with ponr := true, readT := u.lastStamp }) (ks := u.keysOf c) hr.2.2.1 (hk ▸ u.keysOf_read ho) _) h2 h3 h4 h5 h6
  rw [hrun, w4]
  dsimp only
  have hm : SameRing f n u (u.modCtx c.id fun c => { c with ponr := true, readT := u.lastStamp }) := sameRing_regs rfl rfl
  obtain ⟨w1, w2, _⟩ := (u.modCtx c.id fun c => { c with ponr := true, readT := u.lastStamp }).useVer_spec { c with ponr := true, readT := u.lastStamp } v f n
  have ring := hm.trans w1
  generalize (u.modCtx c.id fun c => { c with ponr := true, readT := u.lastStamp }).useVer { c with ponr := true, readT := u.lastStamp } v = w at *
  obtain ⟨g1, g2, g3, g4⟩ := w.finish_ring (OpCtx.using { c with ponr := true, readT := u.lastStamp } v) f n
    (u.readRes c.desc (u.digest c.desc.ksp key) v (sglLen (resultSgl c.desc c.fx))).1
    [(0, (u.readRes c.desc (u.digest c.desc.ksp key) v (sglLen (resultSgl c.desc c.fx))).2)] hs hq hz
  rw [ring.1 .hqCqBase_addr (Or.inr rfl), ring.1 .hqRingStat_cqTail (Or.inl rfl), ring.1 .hqRingStat_sqHead (Or.inl rfl), ring.2] at g2
  exact ⟨g2, fun q hq => g1 (0, _) (List.mem_cons_self) q hq, fun o ho => g3 o (by rw [w2]; exact ho), fun y hy => (g4 y hy).1⟩

end Sys2Proof.Machine
end

