-- ==== Sys2Proof/Laws/Flash.lean ====
section
/-!
SUPPORT. The code flash's cells (R616, R617, R628): writing and erasing keep the canonical form, and a cell that is set reads back.
-/

namespace Sys2Proof.Machine

/-- Addresses rise strictly. -/
def cellsRise : List Host.Cell → Prop := List.Pairwise fun a b => a.1 < b.1

theorem zip_rises (l : List Host.Cell) : ((l.zip (l.drop 1)).all fun p => decide (p.1.1 < p.2.1)) = true ↔ cellsRise l := by
  unfold cellsRise
  induction l with
  | nil => simp
  | cons a l ih =>
    cases l with
    | nil => simp
    | cons b l =>
      have ih' : ((b :: l).zip l).all (fun p => decide (p.1.1 < p.2.1)) = true ↔ (b :: l).Pairwise fun a b => a.1 < b.1 := by simpa using ih
      rw [List.pairwise_cons]
      simp only [List.drop_succ_cons, List.drop_zero, List.zip_cons_cons, List.all_cons, Bool.and_eq_true, decide_eq_true_eq, ih']
      refine and_congr_left fun h => ⟨fun hab c hc => ?_, fun h' => h' b (by simp)⟩
      rcases List.mem_cons.1 hc with rfl | hc
      · exact hab
      · exact hab.trans ((List.pairwise_cons.1 h).1 c hc)

theorem CflSt.wf_iff (x : CflSt) : x.wf = true ↔ cellsRise x.mem ∧ ∀ c ∈ x.mem, c.2 ≠ x.cflDefault c.1 := by
  unfold CflSt.wf
  rw [Bool.and_eq_true, zip_rises]
  simp [List.all_eq_true]

/-! ### Setting one cell -/

/-- A cell of the list after a cell is set is the one set, or a cell that stood at another address. -/
theorem mem_cellSet {a : Nat} {v : Option Byte} {l : List Host.Cell} (hl : cellsRise l) {c : Host.Cell} (h : c ∈ cellSet a v l) :
    (c.1 = a ∧ v = some c.2) ∨ (c ∈ l ∧ c.1 ≠ a) := by
  induction l with
  | nil => cases v <;> simp [cellSet] at h; subst h; simp
  | cons p l ih =>
    obtain ⟨b, x⟩ := p
    obtain ⟨hp, hl'⟩ := List.pairwise_cons.1 hl
    have far : ∀ d : Host.Cell, d ∈ l → b < d.1 := hp
    unfold cellSet at h
    split at h
    · next e =>
      subst e
      cases v with
      | none =>
        have hc : c ∈ l := h
        exact .inr ⟨List.mem_cons_of_mem _ hc, (far c hc).ne'⟩
      | some y =>
        rcases List.mem_cons.1 h with rfl | hc
        · simp
        · exact .inr ⟨List.mem_cons_of_mem _ hc, (far c hc).ne'⟩
    · next e =>
      split at h
      · next lt =>
        have keep : c ∈ (b, x) :: l → c ∈ (b, x) :: l ∧ c.1 ≠ a := fun hc => by
          refine ⟨hc, ?_⟩
          rcases List.mem_cons.1 hc with rfl | hc
          · exact e
          · have := far c hc; omega
        cases v with
        | none => exact .inr (keep h)
        | some y =>
          rcases List.mem_cons.1 h with rfl | hc
          · simp
          · exact .inr (keep hc)
      · rcases List.mem_cons.1 h with rfl | hc
        · exact .inr ⟨by simp, e⟩
        · rcases ih hl' hc with h | h
          · exact .inl h
          · exact .inr ⟨List.mem_cons_of_mem _ h.1, h.2⟩

theorem cellSet_rises (a : Nat) (v : Option Byte) {l : List Host.Cell} (hl : cellsRise l) : cellsRise (cellSet a v l) := by
  induction l with
  | nil => cases v <;> simp [cellSet, cellsRise]
  | cons p l ih =>
    obtain ⟨b, x⟩ := p
    obtain ⟨hp, hl'⟩ := List.pairwise_cons.1 hl
    unfold cellSet
    split
    · next e =>
      subst e
      cases v with
      | none => exact hl'
      | some y => exact List.pairwise_cons.2 ⟨hp, hl'⟩
    · next e =>
      split
      · next lt =>
        cases v with
        | none => exact hl
        | some y =>
          refine List.pairwise_cons.2 ⟨fun c hc => ?_, hl⟩
          rcases List.mem_cons.1 hc with rfl | hc
          · exact lt
          · exact lt.trans (hp c hc)
      · next ge =>
        refine List.pairwise_cons.2 ⟨fun c hc => ?_, ih hl'⟩
        rcases mem_cellSet hl' hc with h | h
        · have := h.1; simp only; omega
        · exact hp c h.1

/-- A cell that is set reads back; every other cell stands. -/
theorem cellAt_cellSet (a c : Nat) (v : Option Byte) {l : List Host.Cell} (hl : cellsRise l) :
    cellAt c (cellSet a v l) = if c = a then v else cellAt c l := by
  have past : ∀ (m : List Host.Cell) (n : Nat), (∀ d ∈ m, n < d.1) → cellAt n m = none := by
    intro m n h
    cases m with
    | nil => rfl
    | cons d m =>
      have := h d (by simp)
      simp [cellAt, this.ne', this]
  induction l with
  | nil =>
    cases v with
    | none => simp [cellSet, cellAt]
    | some y =>
      by_cases h : c = a
      · simp [cellSet, cellAt, h]
      · simp [cellSet, cellAt, h, Ne.symm h]
  | cons p l ih =>
    obtain ⟨b, x⟩ := p
    obtain ⟨hp, hl'⟩ := List.pairwise_cons.1 hl
    have far : ∀ d : Host.Cell, d ∈ l → b < d.1 := hp
    unfold cellSet
    split
    · next e =>
      subst e
      cases v with
      | none =>
        by_cases h : c = b
        · subst h; simp [past l c far]
        · simp only [h, if_false, cellAt, Ne.symm h]
          split
          · next lt => exact past l c fun d hd => lt.trans (far d hd)
          · rfl
      | some y =>
        by_cases h : c = b
        · simp [cellAt, h]
        · simp [cellAt, h, Ne.symm h]
    · next e =>
      split
      · next lt =>
        cases v with
        | none =>
          by_cases h : c = a
          · subst h
            simp only [if_true]
            exact past _ c fun d hd => by
              rcases List.mem_cons.1 hd with rfl | hd
              · exact lt
              · exact lt.trans (far d hd)
          · simp [h]
        | some y =>
          by_cases h : c = a
          · simp [cellAt, h]
          · simp only [h, if_false, cellAt, Ne.symm h]
            by_cases h' : c < a
            · have h1 : b ≠ c := by omega
              have h2 : c < b := by omega
              simp [h', h1, h2]
            · simp [h']
      · next ge =>
        simp only [cellAt]
        split
        · next h => subst h; simp [e]
        · split
          · next h h' => have : c ≠ a := by omega
                         simp [this]
          · exact ih hl'

/-! ### Writing and erasing keep the form -/

theorem CflSt.put_wf (x : CflSt) (a : Nat) (b : Byte) (h : x.wf = true) : (x.put a b).wf = true := by
  obtain ⟨h1, h2⟩ := x.wf_iff.1 h
  refine (CflSt.wf_iff _).2 ⟨cellSet_rises _ _ h1, fun c hc => ?_⟩
  rcases mem_cellSet h1 hc with ⟨rfl, e⟩ | ⟨hm, -⟩
  · split at e
    · cases e
    · next ne =>
      obtain rfl := Option.some.inj e
      exact ne
  · exact h2 c hm

theorem CflSt.programAt_wf (x : CflSt) (a off : Nat) (bs : Bytes) (h : x.wf = true) : (x.programAt a off bs).wf = true := by
  unfold CflSt.programAt
  suffices H : ∀ (l : List Nat) (y : CflSt), y.wf = true →
      (l.foldl (fun (y : CflSt) i => y.put (y.place a (off + i)) ((bs[i]?).getD 0#8)) y).wf = true from H _ x h
  intro l
  induction l with
  | nil => exact fun y hy => hy
  | cons i l ih => exact fun y hy => ih _ (CflSt.put_wf _ _ _ hy)

/-- The cells outside a physical sector read by default what they read before the sector was erased. -/
theorem CflSt.cflDefault_erase (x : CflSt) (a k c : Nat) (ha : a < 3) (hk : k < physSectors a)
    (hc : c < cellAddr a (physBase a k) ∨ cellAddr a (physBase a k) + physSize a k ≤ c) : (x.erase a k).cflDefault c = x.cflDefault c := by
  unfold CflSt.cflDefault
  have key : ∀ a' o, a' = c / 2 ^ 25 → o = c % 2 ^ 25 → (x.erase a k).asMade a' (physAt a' o) = x.asMade a' (physAt a' o) := by
    intro a' o ea eo
    have hcc : c = a' * 2 ^ 25 + o := by subst ea; subst eo; omega
    have ho : o < 2 ^ 25 := by subst eo; exact Nat.mod_lt _ (by norm_num)
    unfold CflSt.asMade CflSt.erase
    dsimp only
    have hne : (a' < 3 → physAt a' o < 1024 → a' * 1024 + physAt a' o ≠ a * 1024 + k) := by
      intro h3 h4 e
      have hk' : k < 1024 := by unfold physSectors at hk; split at hk <;> omega
      obtain ⟨rfl, hp⟩ : a' = a ∧ physAt a' o = k := by omega
      unfold cellAddr physBase physSize at hc
      unfold physAt at hp
      split at hp <;> split at hc <;> omega
    by_cases hb : (a' == 0 && (decide (physAt a' o < 24) || decide (32 ≤ physAt a' o)) || a' == 2 && decide (256 ≤ physAt a' o)) = true
    · rw [hb]
      congr 1
      by_cases h4 : physAt a' o < 1024
      · have h3 : a' < 3 := by
          simp only [Bool.or_eq_true, Bool.and_eq_true, beq_iff_eq] at hb
          omega
        have := hne h3 h4
        split
        · rfl
        · simp [this]
      · have h2 : a' * 1024 + physAt a' o ≠ a * 1024 + k := by
          have hk' : k < 1024 := by unfold physSectors at hk; split at hk <;> omega
          simp only [Bool.or_eq_true, Bool.and_eq_true, beq_iff_eq] at hb
          have : a' = 0 ∨ a' = 2 := by omega
          rcases this with rfl | rfl
          · unfold physAt at h4 ⊢
            split at h4 <;> omega
          · omega
        split
        · rfl
        · simp [h2]
    · simp only [Bool.not_eq_true] at hb
      rw [hb]
      simp
  simp only [key _ _ rfl rfl]

theorem CflSt.erase_wf (x : CflSt) (a k : Nat) (ha : a < 3) (hk : k < physSectors a) (h : x.wf = true) : (x.erase a k).wf = true := by
  obtain ⟨h1, h2⟩ := x.wf_iff.1 h
  refine (CflSt.wf_iff _).2 ⟨List.Pairwise.filter _ h1, fun c hc => ?_⟩
  obtain ⟨hm, hp⟩ := List.mem_filter.1 hc
  rw [CflSt.cflDefault_erase x a k c.1 ha hk (by simpa using hp)]
  exact h2 c hm

/-- At reset no cell is listed. -/
theorem State.reset_cells : State.reset.cfl.wf = true := by decide

end Sys2Proof.Machine
end

