-- ==== Sys2Proof/Laws/Mutate.lean ====
section
/-!
SUPPORT. Mutations: what replication, the commit wait and the dispatch of a mutation leave.
-/

namespace Sys2Proof.Machine

theorem mem_insertBy {α : Type} (k : α → Nat) (x : α) (l : List α) : x ∈ insertBy k x l := by
  induction l with
  | nil => simp [insertBy]
  | cons a l ih => unfold insertBy; split <;> simp [ih]

theorem sendTown_keeps (s : State) (m : Nat) (t : TMsg) : (s.sendTown m t).kv = s.kv ∧ (s.sendTown m t).tun = s.tun ∧ (s.sendTown m t).index = s.index := by
  unfold State.sendTown
  dsimp only
  split <;> exact ⟨rfl, rfl, rfl⟩

theorem replicate_keeps (s : State) (w st : Nat) (ms : List Nat) (es : List TunEntry) (r : Option ReqRecord) :
    (s.replicate w st ms es r).kv = s.kv ∧ (s.replicate w st ms es r).tun = s.tun ∧ (s.replicate w st ms es r).index = s.index := by
  unfold State.replicate
  dsimp only
  generalize es.map _ = es
  induction ms generalizing s with
  | nil => exact ⟨rfl, rfl, rfl⟩
  | cons a l ih =>
    obtain ⟨h1, h2, h3⟩ := ih (s.sendTown a { tmsg := 0x0A, ward := w, stamp := st, count := es.length, body := .repl es r })
    obtain ⟨k1, k2, k3⟩ := sendTown_keeps s a { tmsg := 0x0A, ward := w, stamp := st, count := es.length, body := .repl es r }
    exact ⟨h1.trans k1, h2.trans k2, h3.trans k3⟩

/-- Operations that leave the clock. -/
theorem sendTown_clk (s : State) (m : Nat) (t : TMsg) : (s.sendTown m t).clk = s.clk := by
  unfold State.sendTown
  dsimp only
  split <;> rfl

theorem replicate_clk (s : State) (w st : Nat) (ms : List Nat) (es : List TunEntry) (r : Option ReqRecord) :
    (s.replicate w st ms es r).clk = s.clk := by
  unfold State.replicate
  dsimp only
  generalize es.map _ = es
  induction ms generalizing s with
  | nil => rfl
  | cons a l ih => exact (ih _).trans (sendTown_clk s a _)

theorem passed_congr {s t : State} (h : s.clk = t.clk) (v : Nat) : s.passed v = t.passed v := by
  unfold State.passed State.below2020 State.nowUs; rw [h]

theorem replicateAll_keeps (s : State) (ws : List Nat) (rf st : Nat) (ms : List Nat) (es : List TunEntry) (r : Option ReqRecord) :
    (s.replicateAll ws rf st ms es r).kv = s.kv ∧ (s.replicateAll ws rf st ms es r).tun = s.tun ∧ (s.replicateAll ws rf st ms es r).index = s.index ∧
    (s.replicateAll ws rf st ms es r).clk = s.clk := by
  unfold State.replicateAll
  have h : ∀ (g : State → Nat → Nat) (ms : List Nat) (u : State), let v := ms.foldl (fun u m => u.replicate (g u m) st [m] es r) u
      v.kv = u.kv ∧ v.tun = u.tun ∧ v.index = u.index ∧ v.clk = u.clk := by
    intro g ms
    induction ms with
    | nil => exact fun _ => ⟨rfl, rfl, rfl, rfl⟩
    | cons a l ih =>
      intro u
      obtain ⟨h1, h2, h3, h4⟩ := ih (u.replicate (g u a) st [a] es r)
      obtain ⟨k1, k2, k3⟩ := replicate_keeps u (g u a) st [a] es r
      exact ⟨h1.trans k1, h2.trans k2, h3.trans k3, h4.trans (replicate_clk u (g u a) st [a] es r)⟩
  exact h (fun u m => (ws.find? fun w => (u.receivers w rf).contains m).getD (ws.headD 0)) ms s

/-- A request number changes the operation's own number and the next one alone. -/
theorem numbered_spec (s : State) (c : OpCtx) (acks : List Nat) :
    (s.numbered c acks).2.kv = s.kv ∧ (s.numbered c acks).2.tun = s.tun ∧ (s.numbered c acks).2.index = s.index ∧ (s.numbered c acks).2.clk = s.clk ∧
    (s.numbered c acks).1 = { c with reqNo := (s.numbered c acks).1.reqNo, identity := (s.numbered c acks).1.identity } := by
  unfold State.numbered
  split <;> exact ⟨rfl, rfl, rfl, rfl, rfl⟩

theorem goLive_waits (s : State) (c : OpCtx) (ids : List Nat) (res : Res) (acks ws : List Nat) (rf : Nat) (hp : s.passed c.stamp = false)
    (hc : ∃ e ∈ s.kv.ctxs, e.id = c.id) :
    (s.goLive c ids res acks ws rf).tun = s.tun ∧ (s.goLive c ids res acks ws rf).index = s.index ∧
    (s.goLive c ids res acks ws rf).kv.lastU = s.kv.lastU ∧ (s.goLive c ids res acks ws rf).kv.lastK = s.kv.lastK ∧
    { (s.numbered c acks).1 with entries := ids, res := res, acks := acks, wards := ws, ponr := true, phase := .commit, clock := true } ∈
      (s.goLive c ids res acks ws rf).kv.ctxs := by
  unfold State.goLive
  obtain ⟨n1, n2, n3, n4, n5⟩ := numbered_spec s c acks
  generalize hd : (s.numbered c acks).1 = d at *
  generalize hz : (s.numbered c acks).2 = z at *
  rw [show s.numbered c acks = (d, z) from Prod.ext hd hz]
  dsimp only
  have di : d.id = c.id := by rw [n5]
  have ds : d.stamp = c.stamp := by rw [n5]
  generalize hy : z.fmax .ptpWaitStat_maxNs ((taiOfUs (d.stamp / 4096 + 1) - z.clk.tai) / nsUnits) = y
  have y1 : y.kv = s.kv := by rw [← hy, State.fmax_kv, n1]
  have y2 : y.tun = s.tun := by rw [← hy, State.fmax_tun, n2]
  have y3 : y.index = s.index := by rw [← hy, State.fmax_index, n3]
  have y4 : y.clk = s.clk := by rw [← hy, State.fmax_clk, n4]
  generalize y.changeRecord d res = r
  obtain ⟨k1, k2, k3, k4⟩ := replicateAll_keeps y ws rf d.stamp acks (y.tun.entries.filter fun e => ids.contains e.id) r
  generalize y.replicateAll ws rf d.stamp acks (y.tun.entries.filter fun e => ids.contains e.id) r = x at *
  have hx : x.passed d.stamp = false := by
    rw [ds]
    exact (passed_congr (k4.trans y4) _).trans hp
  unfold State.commitStep
  rw [if_pos (Or.inr (by
    show (!State.passed _ d.stamp) = true
    have : (x.modCtx d.id fun _ => { d with entries := ids, res := res, acks := acks, wards := ws, ponr := true }).passed d.stamp = x.passed d.stamp := rfl
    rw [this, hx]; rfl))]
  refine ⟨k2.trans y2, k3.trans y3, ?_, ?_, ?_⟩
  · show x.kv.lastU = _; rw [k1, y1]
  · show x.kv.lastK = _; rw [k1, y1]
  · obtain ⟨e, he, hid⟩ := hc
    have h1 : ({ d with entries := ids, res := res, acks := acks, wards := ws, ponr := true } : OpCtx) ∈
        (x.modCtx d.id fun _ => { d with entries := ids, res := res, acks := acks, wards := ws, ponr := true }).kv.ctxs :=
      mem_updWhere (x := e) (f := fun _ => { d with entries := ids, res := res, acks := acks, wards := ws, ponr := true }) (by rw [k1, y1]; exact he) (by simp [hid, di])
    have hc : (!(x.modCtx d.id fun _ => { d with entries := ids, res := res, acks := acks, wards := ws, ponr := true }).passed d.stamp) = true :=
      (congrArg _ (show _ = x.passed d.stamp from rfl)).trans (by rw [hx]; rfl)
    have h2 := mem_updWhere (p := fun b : OpCtx => b.id == d.id) (f := fun b : OpCtx => { b with phase := .commit, clock := !(x.modCtx d.id fun _ => { d with entries := ids, res := res, acks := acks, wards := ws, ponr := true }).passed b.stamp }) h1 (beq_self_eq_true d.id)
    dsimp only at h2
    rw [hc] at h2
    exact h2

/-- Writing an entry gives it its row and leaves the rest. -/
theorem addEntry_live (u : State) (e : TunEntry) (id : Nat) (hf : u.tunFit (entryUnits e) = some id) (hk : e.kind ≠ .batchRecord) (hl : e.state = .live) :
    ∃ w : State, u.addEntry e false = some (id, w) ∧ w.kv = u.kv ∧ w.index = u.index ∧ w.clk = u.clk ∧ w.memberId = u.memberId ∧ w.ywp = u.ywp ∧
      w.tun.entries = u.tun.entries ++ [{ e with id := id, late := decide (2 ≤ u.media.spaceState) }] ∧ ∃ r ∈ w.tun.rows, r.digest = e.digest ∧ r.entry = id ∧ r.intent = false := by
  unfold State.addEntry
  rw [hf]
  refine ⟨_, rfl, ?_⟩
  dsimp only
  rw [if_neg (by simp [hk])]
  unfold State.addRow
  dsimp only
  refine ⟨State.fmax_kv _ _ _, State.fmax_index _ _ _, State.fmax_clk _ _ _, ?_, State.fmax_ywp _ _ _, ?_, ?_⟩
  · unfold State.memberId State.fmax; rw [State.fget_fput_reg _ _ _ _ _ _ _ _ _ _ (by decide)]; rfl
  · rw [State.fmax_tun]; simp [hl]
  · rw [State.fmax_tun]
    exact ⟨_, mem_insertBy _ _ _, rfl, rfl, rfl⟩

theorem rp_index (s : State) (f n : Nat) (x : Fld) (v : Nat) : (s.rp f n x v).index = s.index := rfl
theorem rp_tun (s : State) (f n : Nat) (x : Fld) (v : Nat) : (s.rp f n x v).tun = s.tun := rfl
theorem modRing_index (s : State) (f n : Nat) (g : Machine.Ring → Machine.Ring) : (s.modRing f n g).index = s.index := rfl
theorem modRing_tun (s : State) (f n : Nat) (g : Machine.Ring → Machine.Ring) : (s.modRing f n g).tun = s.tun := rfl
theorem fetchOne_index (s : State) (f n : Nat) (d : Desc) (x : Fetched) (ph : Phase) : (s.fetchOne f n d x ph).index = s.index := by
  unfold State.fetchOne
  dsimp only
  rw [modRing_index, rp_index, rp_index]
theorem fetchOne_tun (s : State) (f n : Nat) (d : Desc) (x : Fetched) (ph : Phase) : (s.fetchOne f n d x ph).tun = s.tun := by
  unfold State.fetchOne
  dsimp only
  rw [modRing_tun, rp_tun, rp_tun]

end Sys2Proof.Machine
end

