-- ==== Sys2Proof/Laws/Reach.lean ====
section
/-!
SUPPORT. The frame of every command: outside its reach nothing changes.
-/

namespace Sys2Proof.Safety

open Sys2Proof.Machine

/-- What a meaning with a reach leaves alone. -/
theorem keeps_reach (ps : List Part) (ns : List RegName) (s u : State) : Keeps ps ns s (settle s (s.within ps ns u)) := by
  refine ⟨rfl, fun p hp hc => ?_, fun r hr => ?_⟩
  · have hp : ¬ ps.contains p = true := by simpa using hp
    cases p <;> first | exact absurd rfl hc | exact if_neg hp | skip
    show Clock.mk (max s.clk.cycles (if ps.contains .clk then u.clk else s.clk).cycles) (if ps.contains .clk then u.clk else s.clk).tai = s.clk
    rw [if_neg hp, max_self]
  · rw [reg_settle, State.reg_within, if_neg]
    simpa using hr

/-- A smaller reach keeps more. -/
theorem Keeps.mono {ps qs : List Part} {ns ms : List RegName} {s t : State} (h : Keeps ps ns s t) (hp : ∀ p ∈ ps, p ∈ qs)
    (hn : ∀ n ∈ ns, n ∈ ms) : Keeps qs ms s t :=
  ⟨h.1, fun p h1 h2 => h.2.1 p (fun h3 => h1 (hp p h3)) h2, fun r h1 => h.2.2 r fun h3 => h1 (hn _ h3)⟩

end Sys2Proof.Safety
end

