-- ==== Sys2Proof/WellFormed.lean ====
section
/-!
DEFINITION. Which commands are well formed: every operand fits the field, the register or the number of units that the spec gives it.
The meanings are total and do not ask; this says which terms are commands that the hardware can be given.
-/

namespace Sys2Proof

/-- A number fits in `w` bits. -/
def fits (w n : Nat) : Bool := decide (n < 2 ^ w)

/-- A PCIe function: the PF or one of 255 VFs (R112). -/
def fnOk (f : Nat) : Bool := decide (f < 256)

/-- An I/O ring, 0 to 63, or the admin ring, which is numbered 64 (R113, R163). -/
def ringOk (n : Nat) : Bool := decide (n ≤ 64)

/-- A session slot (R330). -/
def sessOk (n : Nat) : Bool := decide (n < 262144)

/-- A network port: 0 to 7, or the management port 8 (R459). -/
def portOk (p : Nat) : Bool := decide (p ≤ 8)

/-- A fan channel (R579). -/
def chanOk (c : Nat) : Bool := decide (c < 12)

/-- A key slot (R517). -/
def keySlotOk (n : Nat) : Bool := decide (n < 64)

/-- A LUN position (R6). -/
def lunOk (n : Nat) : Bool := decide (n < 8192)

/-- A Ward (R46). -/
def wardOk (w : Nat) : Bool := decide (w < 2 ^ 20)

/-- A supervisor core (R763). -/
def coreOk (c : Nat) : Bool := decide (c < 8)

/-- Who makes a register access. -/
def Requester.wf : Requester → Bool
  | .func f => fnOk f
  | .sup => true

/-- Where a data operation comes from. -/
def Src.wf : Src → Bool
  | .ring f n => fnOk f && ringOk n
  | .sess s m => sessOk s && fits 32 m
  | .town m => decide (m < 16384)

/-- A scatter-gather element (R131). -/
def SglElem.wf (e : SglElem) : Bool := fits 64 e.addr && fits 32 e.len && fits 32 e.rsv

/-- A descriptor (R129). -/
def Desc.wf (d : Desc) : Bool :=
  fits 8 d.opc && fits 8 d.flg && fits 16 d.tag && fits 16 d.ksp && fits 16 d.klen && fits 32 d.vlen && fits 16 d.vsglCnt && fits 16 d.rsglCnt
    && fits 64 d.offset && fits 64 d.cond && fits 64 d.snap && fits 64 d.vsglPtr && fits 64 d.rsglPtr && decide (d.key40.length ≤ 40)
    && d.vsglInl.wf && d.rsglInl.wf

/-- What the fetches of a command return (R130, R131). -/
def Fetched.wf (x : Fetched) : Bool := decide (x.key.length ≤ 1024) && x.vsgl.all SglElem.wf && x.rsgl.all SglElem.wf

/-- A code flash descriptor (R624). -/
def CflDesc.wf (d : CflDesc) : Bool := fits 8 d.array && fits 8 d.mode && fits 32 d.addr && fits 32 d.len && fits 16 d.failed && fits 8 d.worst

/-- A Town message (R412). -/
def TMsg.wf (m : TMsg) : Bool :=
  fits 8 m.tmsg && fits 8 m.flags && fits 32 m.sender && fits 64 m.epoch && fits 32 m.term && fits 20 m.ward && fits 64 m.arg0 && fits 64 m.arg1
    && fits 64 m.stamp && fits 16 m.status

/-- A packet of the wire protocol (R322). -/
def YPacket.wf (p : YPacket) : Bool :=
  fits 8 p.ver && fits 8 p.typ && fits 8 p.flags && fits 18 p.sid && fits 16 p.inc && fits 16 p.plen && fits 32 p.psn && fits 32 p.ackPsn
    && fits 32 p.window && fits 64 p.txTs && fits 64 p.echoTs && fits 32 p.echoOwd && fits 32 p.msgId && fits 32 p.valOff && fits 8 p.keyGen
    && fits 16 p.srcInc && fits 32 p.invoc && decide (p.sack.length ≤ 32)

/-- A received frame (R465): addresses of 48 bits, an EtherType, a VID. -/
def Frame.wf (f : Frame) : Bool := fits 48 f.dst && fits 48 f.src && fits 16 f.ethertype && f.vid.all (fits 12) && f.udp.all (fits 16)

/-- A lane-parking message (R483). -/
def ParkMsg.wf (m : ParkMsg) : Bool := fits 16 m.seq && fits 8 m.lanes && fits 8 m.cause && fits 32 m.switchCw && fits 48 m.src

/-- What a start-up stage finds (R717): eight DRAM channels, positions of LUNs. -/
def StageFound.wf (r : StageFound) : Bool := decide (r.dram.length ≤ 8) && r.luns.all fun l => lunOk l.n

/-- A well-formed command. -/
def Instr.wf : Instr → Bool
  | .get src d x => src.wf && d.wf && x.wf
  | .getRange src d x => src.wf && d.wf && x.wf
  | .exists src d x => src.wf && d.wf && x.wf
  | .getMeta src d x => src.wf && d.wf && x.wf
  | .put src d x => src.wf && d.wf && x.wf
  | .putIf src d x => src.wf && d.wf && x.wf
  | .patch src d x => src.wf && d.wf && x.wf
  | .append src d x => src.wf && d.wf && x.wf
  | .delete src d x => src.wf && d.wf && x.wf
  | .deleteIf src d x => src.wf && d.wf && x.wf
  | .batch src d x => src.wf && d.wf && x.wf
  | .stageOpen src d x => src.wf && d.wf && x.wf
  | .stageData src d x => src.wf && d.wf && x.wf
  | .stagePublish src d x => src.wf && d.wf && x.wf
  | .stageDiscard src d x => src.wf && d.wf && x.wf
  | .scan src d x => src.wf && d.wf && x.wf
  | .snapshotOpen src d x => src.wf && d.wf && x.wf
  | .snapshotClose src d x => src.wf && d.wf && x.wf
  | .barrier src d x => src.wf && d.wf && x.wf
  | .operationDispatch _ => true
  | .stampCounterWaitEnd _ => true
  | .commitWaitDone _ => true
  | .readResume _ => true
  | .stagedIdleTimeout handle => fits 32 handle
  | .leaseExpiry tenant stamp => fnOk tenant && fits 64 stamp
  | .identify f d x => fnOk f && d.wf && x.wf
  | .keyspaceCreate f d x => fnOk f && d.wf && x.wf
  | .keyspaceDelete f d x => fnOk f && d.wf && x.wf
  | .keyspaceQuery f d x => fnOk f && d.wf && x.wf
  | .setPowerState f d x => fnOk f && d.wf && x.wf
  | .powerEntryDone => true
  | .powerEntryAbandon => true
  | .getHealth f d x => fnOk f && d.wf && x.wf
  | .stateDump f d x => fnOk f && d.wf && x.wf
  | .updateChunk f d x copies => fnOk f && d.wf && x.wf && decide (copies.length = 3)
  | .updateQuery f d x => fnOk f && d.wf && x.wf
  | .updateConfirm f d x => fnOk f && d.wf && x.wf
  | .townQuery f d x => fnOk f && d.wf && x.wf
  | .townJoin f d x => fnOk f && d.wf && x.wf
  | .townLeave f d x => fnOk f && d.wf && x.wf
  | .townRemove f d x => fnOk f && d.wf && x.wf
  | .townMove f d x => fnOk f && d.wf && x.wf
  | .townHallReturn f d x => fnOk f && d.wf && x.wf
  | .ledgerSet f d x => fnOk f && d.wf && x.wf
  | .eventClear f d x => fnOk f && d.wf && x.wf
  | .logEraseDone => true
  | .summaryPoll f => fnOk f
  | .swapReturn f r => fnOk f && (match r with | .value v => fits 64 v | _ => true)
  | .doorbellPoll f n => fnOk f && ringOk n
  | .doorbellReadDone f n tail head => fnOk f && ringOk n && fits 16 tail && fits 16 head
  | .cqHeadReread f n => fnOk f && ringOk n
  | .adminDoorbellPoll => true
  | .hqAdmKick f => fnOk f
  | .descriptorFetch f n ds => fnOk f && ringOk n && ds.all fun b => decide (b.length = 128)
  | .descriptorReadFault f n => fnOk f && ringOk n
  | .hostFetchDone _ x => x.wf
  | .ringEnable f n => fnOk f && ringOk n
  | .ringResetRequest f n => fnOk f && ringOk n
  | .queueResetTaken f n => fnOk f && ringOk n
  | .queueResetDone f n => fnOk f && ringOk n
  | .msixCoalesceTimeout f n => fnOk f && ringOk n
  | .functionLevelReset f => fnOk f
  | .vfEnableClear => true
  | .leafWriteBack ward _ ldepth => wardOk ward && fits 8 ldepth
  | .leafRebuildDone ward _ ldepth => wardOk ward && fits 8 ldepth
  | .adScrub _ => true
  | .tunDrain _ => true
  | .powerFailFlush => true
  | .flushEnd _ => true
  | .pwrfailRestart => true
  | .lunRelease lun => lunOk lun
  | .nandReadDone _ _ _ _ _ => true
  | .nandProgramDone _ _ => true
  | .nandEraseDone _ _ => true
  | .terraceCloseTimeout _ => true
  | .setVerify _ _ _ => true
  | .eraseResume lun => lunOk lun
  | .rawReadGo mode => fits 1 mode
  | .lunTimeout lun => lunOk lun
  | .mediaMapCheckpoint => true
  | .spargeVictimSelect => true
  | .spargeTargetPad _ => true
  | .epochAdvance => true
  | .blockErase lun blk => lunOk lun && fits 20 blk
  | .scrubPass _ _ => true
  | .tempHistogramTick => true
  | .handshake p _ => p.wf
  | .data p => p.wf
  | .ack p => p.wf
  | .close p => p.wf
  | .sessionOpen peer member _ => fits 32 member && fits 48 peer.hop
  | .handshakeRetransmit slot => sessOk slot
  | .handshakeTimeout slot => sessOk slot
  | .closedSlotFree slot => sessOk slot
  | .oldGenerationErase slot => sessOk slot
  | .ackDelayTimeout slot => sessOk slot
  | .retransmitTimeout slot => sessOk slot
  | .sessionDead slot => sessOk slot
  | .keepalive slot => sessOk slot
  | .windowProbe slot => sessOk slot
  | .pacedTransmit slot => sessOk slot
  | .requestDispatch slot msgId => sessOk slot && fits 32 msgId
  | .requestRecordExpiry identity reqNo => fits 32 identity && fits 64 reqNo
  | .termRound => true
  | .termQuery m => m.wf
  | .join m => m.wf
  | .joinReply m => m.wf
  | .leave m => m.wf
  | .heartbeat m => m.wf
  | .heartbeatSend => true
  | .heartbeatMiss handle => fits 32 handle
  | .leaseLapse => true
  | .suspect m => m.wf
  | .memberFailedDeclare handle => fits 32 handle
  | .mapDelta m => m.wf
  | .mapAck m => m.wf
  | .mapFetch m => m.wf
  | .mapFull m => m.wf
  | .epochWaitTimeout => true
  | .replicate m => m.wf
  | .replAck m => m.wf
  | .transferData m => m.wf
  | .transferCopyDone ward => wardOk ward
  | .transferReady m => m.wf
  | .cutTimeout ward => wardOk ward
  | .takeover m => m.wf
  | .keyspaceReq m => m.wf
  | .keyDist m => m.wf
  | .ownerRetryTimeout _ => true
  | .townJoinTimeout => true
  | .ptpSyncExchange _ _ _ => true
  | .ptpAnnounce domain a => fits 8 domain && fits 64 a.clockId
  | .ptpMessageSend kind => decide (kind < 3)
  | .announceReceiptTimeout => true
  | .ppsInEdge => true
  | .ppsLoss => true
  | .ptpTodSet sec => fits 48 sec
  | .ppsOutEdge => true
  | .ppsOutWidthEnd => true
  | .frameReceive p f => portOk p && f.wf
  | .txFrameStart p => portOk p
  | .fwTransmit p tail _ => portOk p && fits 16 tail
  | .portEnable p => portOk p
  | .linkUp p => portOk p
  | .linkTimeout p => portOk p
  | .linkDown p => portOk p
  | .bankFailover p => portOk p
  | .partnerTtlExpiry p => portOk p
  | .parkEvaluation p _ _ => portOk p
  | .restoreDemand p _ _ => portOk p
  | .parkReq p m => portOk p && m.wf
  | .parkAck p m => portOk p && m.wf
  | .nak p m => portOk p && m.wf
  | .restoreReq p m => portOk p && m.wf
  | .restoreAck p m => portOk p && m.wf
  | .laneSwitchPoint p => portOk p
  | .alignmentRecovery p _ => portOk p
  | .restoreNoAnswer p => portOk p
  | .crossChange p => portOk p
  | .crossChangeTime p => portOk p
  | .gateEntryAdvance p => portOk p
  | .wakeCheckReverify => true
  | .managementLinkChange => true
  | .mdioGo v => fits 64 v
  | .mdioDone dat => fits 16 dat
  | .loadTrk f => fnOk f
  | .loadSlot f slot => fnOk f && keySlotOk slot
  | .clearSlot f slot => fnOk f && keySlotOk slot
  | .clearAll f => fnOk f
  | .keyPageIsolationFault who page => who.wf && fnOk page
  | .sessionKeyLoad => true
  | .sessionKeyErase => true
  | .entropyHealthFail => true
  | .drbgRestart => true
  | .rngRead => true
  | .ledgerWindow _ _ => true
  | .nandOpGrant => true
  | .dieSensorRead temps => decide (temps.length ≤ 32)
  | .externalSensorRead i raw => decide (i < 64) && raw.all (fits 16)
  | .thermalEvaluation => true
  | .pwmPeriod c _ => chanOk c
  | .commutation c _ => chanOk c
  | .overcurrentTrip c _ => chanOk c
  | .listenEnd c _ => chanOk c
  | .brakeTimeout c => chanOk c
  | .detectDone c peaks => chanOk c && decide (peaks.length = 12)
  | .rampTimeout c => chanOk c
  | .coastEnd c => chanOk c
  | .runStable c => chanOk c
  | .driverFault => true
  | .driverFaultClear => true
  | .fbusSample _ _ => true
  | .chopperTestEnd => true
  | .channelClear c => chanOk c
  | .curveApply c => chanOk c
  | .clearChop => true
  | .program d => d.wf
  | .eraseSector d => d.wf
  | .eraseBank d => d.wf
  | .marginVerify d => d.wf
  | .eccStatus d => d.wf
  | .suspend d => d.wf
  | .resume d => d.wf
  | .setWp d => d.wf
  | .cflOperationDone array _ _ => decide (array < 3)
  | .bankExecWrite v => fits 32 v
  | .cflBusFault core _ addr _ => coreOk core && fits 64 addr
  | .mgmtMessage slot msgId copies => sessOk slot && fits 32 msgId && decide (copies.length = 3)
  | .caskHeaderIdleWrite => true
  | .trialExpiry => true
  | .trialStop => true
  | .recoveryData pkgLen off dat => fits 32 pkgLen && fits 32 off && decide (dat.length ≤ 1024)
  | .recoveryQuery pkgLen => fits 32 pkgLen
  | .recoveryPiece piece pkgLen => fits 16 piece && fits 32 pkgLen
  | .recoveryCheckDone _ => true
  | .eventReport block code key dat => fits 8 block && fits 16 code && fits 96 key && fits 64 dat
  | .frontBufferProgram => true
  | .counterEntryWrite => true
  | .evtCursorWrite who v => who.wf && fits 32 v
  | .evtWindowLatch who => who.wf
  | .evtWindowAdvance who => who.wf
  | .nonceDraw who => who.wf
  | .nonceExpiry => true
  | .stwSelect who v => who.wf && fits 64 v
  | .stwLatch who => who.wf
  | .coldStart strap _ => fits 5 strap
  | .porstNFall => true
  | .hostReset => true
  | .perstNRelease => true
  | .internalColdReset => true
  | .startStageDone r => r.wf
  | .refclkLoss => true
  | .refclkReturn => true
  | .dramPatrolScrub .. => true
  | .setupLock who => who.wf
  | .supRelease v => fits 32 v
  | .registerLatchingRead who off size => who.wf && fits 64 off && (size == 4 || size == 8)
  | .registerWrite who off size v => who.wf && fits 64 off && (size == 4 || size == 8) && fits (8 * size) v
  | .vfEnableSet n => fnOk n
  | .configurationRequest r => fnOk r.f
  | .pcieLinkReachesL0 => true
  | .keyspaceReqAnswer m => m.wf
  | .hallUnreachableTimeout _ => true
  | .forwardedTownControl m => m.wf
  | .idleSessionClose slot => sessOk slot
  | .codeFlashRead core addr _ => coreOk core && fits 64 addr

end Sys2Proof
end

