-- ==== Sys2Proof/Tests/Slice0.lean ====
section
/-!
SUPPORT. Tests: states in which the hypotheses of the statements hold (so that none of them is empty), and the smoke test of
WellFormed. A hypothesis about an opaque constant of Config has no witness here, because Lean cannot evaluate it.
-/

-- One test after another: each waits for the kernel, and all at once would need a thread each.
set_option Elab.async false

namespace Sys2Proof.Tests

open Sys2Proof.Machine

/-! ### States -/

/-- A part at READY with one accepted LUN and a counter in the year 2023, its link up and two VFs enabled. -/
def up : State :=
  { clk := ⟨6000000000, 1700000000000000000 * 4294967296⟩, power := { stage := 10, ready := true }, tun := { sizeMib := 2048, replayDone := true },
    index := { slots := 4096 }, media := { luns := [{ n := 0, state := .accepted }] }, host := { linkUp := true, vfs := 2 } }

/-- Ring `n` of the PF ACTIVE with 256 slots. -/
def ringUp (n : Nat) (s : State) : State :=
  ((((((s.modRing 0 n id).rp 0 n .hqRingCtrl_sizeLog2 8).rp 0 n .hqRingCtrl_enable 1).rp 0 n .hqRingStat_state 1).rp 0 n .hqSqBase_addr 16).rp 0 n .hqCqBase_addr 32)

/-- Ring 3 and the admin ring of the PF ACTIVE, keyspace 18 of the PF with its key slot loaded. -/
def host : State :=
  let s := ((((ringUp 64 (ringUp 3 up)).fput .hqDbBase_addr 48).fput .hqSumAddr_addr 64).fput .hqFuncCtrl_enable 1).fput .cipKpSlotStat_loaded 1
  { s with kv := { s.kv with keyspaces := [{ ksp := 18, tenant := 0, rf := 1, slot := 0, salt := 4660, created := 0 }] } }

/-- The key "a" of keyspace 18 with a value of `n` bytes and a result element. -/
def onKey (n : Nat) : Desc :=
  { tag := 7, ksp := 18, klen := 1, vlen := n, key40 := [97#8], vsglCnt := if n = 0 then 0 else 1, vsglInl := ⟨4096, n, 0⟩, rsglCnt := 1,
    rsglInl := ⟨8192, 8192, 0⟩ }

/-- A state changed in its key-value engine, host engine, and so on. -/
def kv (f : KvSt → KvSt) (s : State) : State := { s with kv := f s.kv }
def tun (f : TunSt → TunSt) (s : State) : State := { s with tun := f s.tun }
def media (f : MediaSt → MediaSt) (s : State) : State := { s with media := f s.media }
def index (f : IndexSt → IndexSt) (s : State) : State := { s with index := f s.index }
def power (f : PowerSt → PowerSt) (s : State) : State := { s with power := f s.power }
def town (f : TownSt → TownSt) (s : State) : State := { s with town := f s.town }
def ywp (f : YwpSt → YwpSt) (s : State) : State := { s with ywp := f s.ywp }
def upd (f : UpdSt → UpdSt) (s : State) : State := { s with upd := f s.upd }
def ev (f : EvSt → EvSt) (s : State) : State := { s with ev := f s.ev }

/-- A context of ring 3 in a phase, and one of the admin ring. -/
def ctx (ph : Phase) (opc : Nat) : OpCtx :=
  { id := 0, pool := .host, src := .ring 0 3, tenant := 0, desc := { onKey 0 with opc := opc }, phase := ph, ponr := true }
def actx (ph : Phase) (opc : Nat) : OpCtx :=
  { id := 0, pool := .admin, src := .ring 0 64, tenant := 0, desc := { opc := opc }, phase := ph, ponr := true }
def having (c : OpCtx) (s : State) : State := kv (fun k => { k with ctxs := [c], nextCtx := 1 }) s

/-- A live PUT of "xyz" to the key "a", with its AD row. -/
def stored : State :=
  tun (fun t => { t with entries := [{ id := 0, kind := .put, state := .live, ksp := 18, key := [97#8], origin := 0, replAck := true, stamp := 4096000,
                                       vlen := 3, digest := host.digest 18 [97#8], data := [120#8, 121#8, 122#8] }],
                         rows := [{ row := 0, digest := host.digest 18 [97#8], intent := false, entry := 0, ksp := 18 }] })
    (kv (fun k => { k with lastU := 1000 }) host)

/-- Flash with a geometry, four LUNs' worth of room in an open set of each stream, and no other set. -/
def flash (s : State) : State :=
  media (fun m => { m with
    geom := { spare := 2048, blocks := 1000, pages := 1024 }, scratch := [{ lun := 0, blk := 20, used := 0 }, { lun := 0, blk := 21, used := 0 }],
    blocks := [{ lun := 0, blk := 30, state := .inSet, wseq := 1 }, { lun := 0, blk := 31, state := .inSet, wseq := 2 },
               { lun := 0, blk := 32, state := .inSet, wseq := 3 }],
    sets := [{ wseq := 1, stream := .user, blocks := [(0, 30)], parityLun := 0, state := .opened },
             { wseq := 2, stream := .staged, blocks := [(0, 31)], parityLun := 0, state := .opened },
             { wseq := 3, stream := .index, blocks := [(0, 32)], parityLun := 0, state := .opened }], nextWseq := 4 }) s

/-- Staged value 9 of the PF for the key "a". -/
def staging : State := flash (kv (fun k => { k with staged := [{ handle := 9, tenant := 0, ksp := 18, key := [97#8], declared := 4, last := 0, extents := [] }] }) stored)

/-- The context and the state with which a command of the PF's admin ring runs. -/
def adminC (s : State) (op : Nat) (d : Desc) (x : Fetched) : OpCtx := s.ringCtx 0 64 { d with opc := op } x .held
def adminU (s : State) (op : Nat) (d : Desc) (x : Fetched) : State := s.fetchOne 0 64 { d with opc := op } x .held

/-- A command of the PF whose parameters of 40 bytes begin with those given. -/
def cmd (ps : Bytes) (v : Nat) (ksp : Nat := 0) : Desc :=
  { tag := 9, ksp := ksp, vlen := v, key40 := padTo 40 ps, vsglCnt := if v = 0 then 0 else 1, vsglInl := ⟨4096, v, 0⟩, rsglCnt := 1, rsglInl := ⟨8192, 8192, 0⟩ }

/-! ### The block and the host engine -/

theorem witness_step : (∃ t, step State.reset = .next t) ∧ State.reset.pending = [] ∧ Safety.Inv State.reset ∧
    ∃ t, exec .adminDoorbellPoll host = .next t := ⟨⟨_, rfl⟩, rfl, rfl, ⟨_, rfl⟩⟩

theorem witness_polling :
    (host.polls 0 0 = true ∧ host.flag .hqFuncStat_swapUr 0 = false ∧ host.flag .hqFuncStat_swapErr 0 = false ∧ (host.fn 0).swapOut = false ∧
      host.pollBefore (host.fn 0).due = false) ∧
    (host.fput .hqFuncStat_swapUr 1).flag .hqFuncStat_swapUr 0 = true ∧
    (let s := host.fput .hqFuncCtrl_pollMode 1
     s.polls 0 1 = true ∧ s.ringState 0 3 = 1 ∧ (s.ring 0 3).reading = 0 ∧ s.pollBefore (s.ring 0 3).due = false) ∧
    (let s := (host.rp 0 3 .hqRingStat_outstanding 300).modRing 0 3 fun r => { r with pendingFetch := true }
     s.hostOn = true ∧ s.ringState 0 3 = 1 ∧ s.waitsRoom 0 3 = true ∧ (s.ring 0 3).reading = 0) ∧
    host.hostOn = true ∧ host.funcExists 0 = true ∧ host.ringState 0 64 = 1 := by decide +kernel

theorem witness_doorbells :
    let s := host.modRing 0 3 fun r => { r with reading := 1 }
    s.hostOn = true ∧ 0 < (s.ring 0 3).reading ∧ s.ringState 0 3 = 1 ∧ s.ringN 0 3 ≤ 256 ∧ 255 < s.ringN 0 3 := by decide +kernel

theorem witness_answers :
    (host.modFn 0 fun x => { x with swapOut := true }).hostOn = true ∧ ((host.modFn 0 fun x => { x with swapOut := true }).fn 0).swapOut = true ∧
    (∀ c ∈ [ctx .fetching 1, actx .fetching 0x80], (having c host).serving = true ∧ (having c host).kv.ctx? 0 = some c ∧ c.phase = .fetching) ∧
    (ctx .fetching 1).pool ≠ .admin ∧ (actx .fetching 1).pool = .admin ∧ { actx .fetching 0x88 with valueDue := true }.valueDue = true ∧
    fillsLate 5 = true ∧ ({ fault := true } : Fetched).fault = true ∧
    (∀ c ∈ [{ ctx .value 5 with entries := [0] }], (having c stored).serving = true ∧ (having c stored).kv.ctx? 0 = some c ∧ c.phase = .value ∧ c.orphan = false) := by
  decide +kernel

theorem witness_fetching :
    let s := (host.modRing 0 3 fun r => { r with pendingFetch := true }).modRing 0 64 fun r => { r with pendingFetch := true }
    let d : Desc := { onKey 0 with opc := 1, klen := 50 }
    (s.ring 0 3).pendingFetch = true ∧ host.mayFetch 0 3 = true ∧ s.itsTurn 0 3 = true ∧ s.itsTurn 0 64 = false ∧
    host.refusedEarly (host.ringCtx 0 3 d {} .held) = none ∧ hostFetches (3 == 64) d ≠ [] := by decide +kernel

theorem witness_rings :
    let s := (((((host.rp 0 4 .hqRingCtrl_sizeLog2 8).rp 0 4 .hqSqBase_addr 16).rp 0 4 .hqCqBase_addr 32)))
    (s.hostOn = true ∧ s.funcExists 0 = true ∧ s.ringState 0 4 = 0 ∧ s.setupErr 0 4 = 0 ∧ s.power.entry = none) ∧
    (host.ringState 0 4 = 0 ∧ host.setupErr 0 4 ≠ 0) ∧
    (let q := host.modRing 0 3 fun r => { r with resetReq := some 3 }
     q.hostOn = true ∧ q.ringState 0 3 = 1 ∧ (q.ring 0 3).resetReq = some 3) ∧
    (let q := host.rp 0 3 .hqRingStat_state 2
     q.hostOn = true ∧ q.ringState 0 3 = 2 ∧ q.ringCtxs 0 3 = []) := by decide +kernel

theorem witness_interrupts :
    (let s := ((host.rp 0 3 .hqRingCtrl_irqEn 1).rp 0 3 .hqCoal_timeUs 10).modRing 0 3 fun r => { r with counted := 1 }
     s.hostOn = true ∧ 0 < (s.ring 0 3).counted ∧ s.rg 0 3 .hqRingCtrl_irqEn = 1 ∧ 0 < s.rg 0 3 .hqCoal_timeUs) ∧
    (let s : State := { host with host := { host.host with vfs := 0 } }
     s.hostOn = true ∧ s.host.vfs = 0) := by decide +kernel

/-! ### The key-value engine -/

theorem witness_data : host.mayFetch 0 3 = true ∧ host.mayFetch 0 64 = true ∧ State.reset.mayFetch 0 3 = false := by decide +kernel

theorem witness_reads :
    ∀ o ∈ [1, 2, 3, 4],
    let c := stored.ringCtx 0 3 { onKey 0 with opc := o } {} .held
    let u := stored.fetchOne 0 3 { onKey 0 with opc := o } {} .held
    let v := u.readVer 18 [97#8] u.lastStamp
    stored.mayFetch 0 3 = true ∧ u.refused c = none ∧ u.behind c = false ∧ u.fillingOn 18 (u.keysOf c) = false ∧ u.kspCheck 18 0 u.slotLoaded = none ∧
    u.route c (u.wardsOf c) 1 = .here ∧ u.intentOn 18 [97#8] = false ∧ v.present = true ∧ v.data = [120#8, 121#8, 122#8] ∧ v.bad = false ∧ v.leaf = none ∧
    u.missing c v (extsFor v (wantBytes c.desc v).1 (wantBytes c.desc v).2) = [] ∧ v.recs ++ extsFor v (wantBytes c.desc v).1 (wantBytes c.desc v).2 = [] ∧ v.unacked = false ∧
    (let u := kv (fun k => { k with lastU := 0 }) u
     u.tooOld 1699999999999000000 = false ∨ u.passed 4096 = true) := by decide +kernel

/-- Every mutation finds its condition on a key that is present. -/
theorem witness_mutations :
    ∀ o ∈ [5, 6, 7, 8, 9, 10],
    let d : Desc := { onKey (if 9 ≤ o then 0 else 2) with opc := o, cond := if o = 6 ∨ o = 10 then 4096000 else 0 }
    let x : Fetched := { value := if 9 ≤ o then [] else [1#8, 2#8] }
    let c := stored.ringCtx 0 3 d x .held
    let u := stored.fetchOne 0 3 d x .held
    let v : Ver := if needsCur o then u.curVer 18 [97#8] else {}
    u.refused c = none ∧ u.behind c = false ∧ u.fillingOn 18 (u.keysOf c) = false ∧ u.intentOn 18 [97#8] = false ∧ u.kspCheck 18 0 u.slotLoaded = none ∧
    u.route c (u.wardsOf c) 1 = .here ∧ v.leaf = none ∧ v.bad = false ∧ u.missing c v [] = [] ∧ mutLength d v = false ∧ u.media.readOnly = false ∧
    u.noSpace = false ∧ u.askStamp = .stamp ((u.stampUs 0) * 4096) ∧ mutCond d v = none ∧ v.recs = [] ∧ u.tunRoom 2 1 = true ∧ u.tunFit 2 = some 2 ∧
    u.leafRoom (u.digest 18 [97#8]) = true ∧ u.townRoom 0 = true ∧ mutNeeds d v = [] ∧ u.passed ((u.stampUs 0) * 4096) = false := by decide +kernel

theorem witness_mutation_refused : mutCond { onKey 0 with opc := 0x0A, cond := 5 } (stored.curVer 18 [97#8]) = some 3 ∧
    stored.missing (ctx .held 0x0A) (stored.curVer 18 [97#8]) [] = [] ∧ stored.askStamp ≠ .refused := by decide +kernel

/-- A batch of one PUT of the key "b". -/
def batchList : Bytes := packLe 83 [(0, 16, 1), (32, 32, 83), (128, 8, 5), (144, 16, 1), (160, 32, 2), (320, 32, 80), (352, 32, 81), (640, 8, 98), (648, 16, 0x0201)]

theorem witness_batches :
    let d : Desc := { onKey 83 with opc := 0x0B, klen := 0, key40 := [] }
    let x : Fetched := { value := batchList }
    let c := stored.ringCtx 0 3 d x .held
    let u := stored.fetchOne 0 3 d x .held
    let es := batchElems d batchList
    let vs := es.map fun e => (e, u.curVer 18 e.key)
    let ents := u.batchEntries 1 0 vs true
    u.refused c = none ∧ u.behind c = false ∧ u.fillingOn 18 (u.keysOf c) = false ∧ u.intentOn 18 [98#8] = false ∧ u.kspCheck 18 0 u.slotLoaded = none ∧
    u.route c (u.wardsOf c) 1 = .here ∧ (∀ y ∈ vs, y.2.bad = false ∧ y.2.leaf = none ∧ u.missing c y.2 (elemExts y.1 y.2) = [] ∧ y.2.unacked = false) ∧ u.askStamp = .stamp (u.stampUs 0 * 4096) ∧
    batchStop (vs.map fun y => if isMut y.1.d.opc then elemStop y.1 y.2 false else none) = none ∧ ents ≠ [] ∧ u.passed (u.stampUs 0 * 4096) = false ∧ u.media.readOnly = false ∧ u.noSpace = false ∧
    (∀ e ∈ ents, u.leafRoom e.digest = true) ∧ u.townRoom 0 = true ∧
    u.tunRoom ((ents.map entryUnits).sum + (64 + 4 * ents.length + 63) / 64) (2 * ents.length) = true := by decide +kernel

/-- A PUT_IF whose condition is false stops a batch; a DELETE of an absent key makes none of its entries. -/
theorem witness_batch_stops :
    ∀ p ∈ [(packLe 83 [(0, 16, 1), (32, 32, 83), (128, 8, 6), (144, 16, 1), (160, 32, 2), (256, 64, 5), (320, 32, 80), (352, 32, 81), (640, 8, 98)], some 3),
           (packLe 83 [(0, 16, 1), (32, 32, 83), (128, 8, 9), (144, 16, 1), (320, 32, 80), (640, 8, 98)], none)],
    let d : Desc := { onKey 83 with opc := 0x0B, klen := 0, key40 := [] }
    let x : Fetched := { value := p.1 }
    let c := stored.ringCtx 0 3 d x .held
    let u := stored.fetchOne 0 3 d x .held
    let vs := (batchElems d p.1).map fun e => (e, u.curVer 18 e.key)
    u.refused c = none ∧ batchStop (vs.map fun y => if isMut y.1.d.opc then elemStop y.1 y.2 false else none) = p.2 ∧
    (p.2 = none → u.batchEntries 1 0 vs true = []) := by decide +kernel

theorem witness_staged_values :
    (let d : Desc := { onKey 0 with opc := 0x0C, vlen := 4 }
     let c := staging.ringCtx 0 3 d {} .held
     let u := staging.fetchOne 0 3 d {} .held
     u.refused c = none ∧ u.behind c = false ∧ u.fillingOn 18 (u.keysOf c) = false ∧ u.kspCheck 18 0 u.slotLoaded = none ∧ u.route c (u.wardsOf c) 1 = .here ∧
     u.media.readOnly = false ∧ u.noSpace = false ∧ staging.kv.staged.length < 4096) ∧
    (∀ p ∈ [(0x0D, 4), (0x0D, 5), (0x0E, 0), (0x0F, 0)],
     let d : Desc := { onKey p.2 with opc := p.1, klen := 0, key40 := [], cond := 9 }
     let x : Fetched := { value := List.replicate p.2 1#8 }
     let c := staging.ringCtx 0 3 d x .held
     let u := staging.fetchOne 0 3 d x .held
     u.refused c = none ∧ u.behind c = false ∧ u.fillingOn 18 (u.keysOf c) = false ∧ u.intentOn 18 [97#8] = false ∧
     (u.kv.staged.find? (fun v => v.handle == handleOf d && v.tenant == 0)).isSome = true ∧ u.kspCheck 18 0 u.slotLoaded = none ∧
     (∀ y ∈ u.kv.ctxs, ¬(y.phase = .pages ∧ y.handle = 9)) ∧ u.tunRoom 2 1 = true ∧ u.askStamp = .stamp (u.stampUs 0 * 4096) ∧ u.passed (u.stampUs 0 * 4096) = false ∧
     ∀ v ∈ u.kv.staged, (p.2 = 4 → d.offset + d.vlen ≤ v.declared ∧ (u.storeExtents .staged 18 1 (pieceExtents u.media v 0 x.value) []).isSome = true) ∧
       (p.2 = 5 → v.declared < d.offset + d.vlen)) ∧
    staging.serving = true ∧ (staging.kv.staged? 9).isSome = true ∧ stored.kv.staged.find? (fun v => v.handle == 9 && v.tenant == 0) = none ∧ stored.hasFlash = true ∧
    stored.kv.away? 0 9 = none := by decide +kernel

/-- A staged value that another member issued: this part is a member whose map gives the Ward to member 2. -/
theorem witness_staged_away :
    let s := town (fun t => { t with role := 1, state := 2, wards := [{ ward := wardOf (stored.digest 18 [97#8]), owner := 2 }] })
      (kv (fun k => { k with away := [⟨9, 0, 18, [97#8], 2⟩] }) stored)
    (s.kv.away? 0 9).isSome = true ∧ s.kspCheck 18 0 s.slotLoaded = none ∧ s.wardOwner (wardOf (s.digest 18 [97#8])) = .remote 2 := by decide +kernel

theorem witness_snapshots :
    (∀ o ∈ [0x11, 0x12, 0x13],
     let d : Desc := { tag := 7, opc := o, snap := if o = 0x12 then 5 else 0 }
     let c := stored.ringCtx 0 3 d {} .held
     let u := stored.fetchOne 0 3 d {} .held
     u.refused c = none ∧ u.behind c = false ∧ u.fillingOn (u.kspOf d) (u.keysOf c) = false ∧ u.keysOf c = [] ∧ u.snapStamp.isSome = true ∧ u.retainUs ≠ 0 ∧
     stored.power.entry = none ∧ (∀ e ∈ stored.kv.ctxs, ¬(sameSrc e.src (.ring 0 3) = true ∧ e.id < stored.kv.nextCtx))) ∧
    1024 ≤ (kv (fun k => { k with leases := List.replicate 1024 ⟨0, 5, false, 9⟩ }) stored).kv.leases.length ∧
    (∃ e ∈ (having (ctx .reading 1) stored).kv.ctxs, sameSrc e.src (.ring 0 3) = true ∧ e.id < (having (ctx .reading 1) stored).kv.nextCtx) := by decide +kernel

theorem witness_waits :
    (let c : OpCtx := { ctx .commit 5 with stamp := 500380467200000000 }
     let s := having c stored
     s.ready = true ∧ s.serving = true ∧ s.kv.ctx? 0 = some c ∧ c.acks = [] ∧ c.orphan = false ∧ s.incr ≠ 0 ∧
     (s.waitTai (taiOfUs (c.stamp / 4096 + 1))).passed c.stamp = true) ∧
    (∀ ph ∈ [Phase.snapOpen, .counter, .intent, .readAck, .replica, .buffer, .held, .noOwner],
      (having (ctx ph 1) stored).serving = true ∧ (having (ctx ph 1) stored).kv.ctx? 0 = some (ctx ph 1) ∧ (ctx ph 1).phase = ph) := by decide +kernel

theorem witness_scan :
    let c : OpCtx := { ctx .reading 0x10 with desc := { onKey 10 with opc := 0x10, klen := 0, key40 := [], vsglCnt := 0 } }
    let s := having c stored
    let walked := s.scanLeaves c 0 (s.scanEnd c)
    let keys := s.scanKeys walked 18 0 (s.scanEnd c)
    keys.length = 1 ∧ walked = [] ∧ s.fillingIn 18 0 (s.scanEnd c) (max 5000000 s.lastStamp) = false ∧ s.scanEnd c = 2 ^ 128 ∧ (∀ k ∈ keys, s.intentOn 18 k.2 = false ∧ s.missing c (s.readVer 18 k.2 5000000) [] = [] ∧ (s.readVer 18 k.2 5000000).unacked = false ∧
      (s.readVer 18 k.2 5000000).present = true) ∧ 2 ^ 128 ≤ max c.scanAt (s.scanEnd c) ∧ 32 ≤ sglLen (resultSgl c.desc c.fx) := by decide +kernel

/-! ### Admin commands -/

theorem witness_admin :
    host.mayFetch 0 64 = true ∧ (adminU host 0x80 (cmd [] 0) {}).adminBusy (adminC host 0x80 (cmd [] 0) {}) = false ∧
    (adminU (having (actx .admin 0x80) host) 0x80 (cmd [] 0) {}).adminBusy (adminC (having (actx .admin 0x80) host) 0x80 (cmd [] 0) {}) = true ∧
    adminRefused (actx .held 0x80) false false 0 = none ∧ adminRefused { actx .held 0x80 with fx := { fault := true } } false false 0 = some 0x0F00 := by decide +kernel

theorem witness_admin_queries :
    (∀ o ∈ [0x80, 0x83, 0x85, 0x89],
      (adminU host o (cmd [] 0 18) {}).adminBusy (adminC host o (cmd [] 0 18) {}) = false ∧
      adminRefused (adminC host o (cmd [] 0 18) {}) (o == 0x89) (adminBad (adminC host o (cmd [] 0 18) {}).desc 56) 4096 = none) ∧
    (host.ksp? 18).isSome = true ∧ host.ksp? 19 = none ∧
    (let d : Desc := { cmd [] 0 with key40 := padTo 40 (0 :: (cmd [] 0).key40.drop 1) }
     adminRefused (adminC host 0x8B d {}) true (townBad (adminC host 0x8B d {}).desc) 64 = none) ∧
    (let d := cmd [0x12#8, 0xFF#8] 0
     param d 57 1 = 0xFF ∧ param d 58 2 = 0 ∧ param d 56 1 ≤ 0x13 ∧ adminRefused (adminC host 0x86 d {}) false (adminBad (adminC host 0x86 d {}).desc 68) 80 = none) := by
  decide +kernel

/-- The keyspaces that commands create and delete: 19 is free, 18 is the PF's. -/
theorem witness_keyspaces :
    (∀ n ∈ [0, 1], let d := cmd [0, 1, 2, 0, 0, 0, 0, 0, n] 0 19
     host.isMember = false ∧ (adminU host 0x81 d {}).adminBusy (adminC host 0x81 d {}) = false ∧
     adminRefused (adminC host 0x81 d {}) false (adminBad (adminC host 0x81 d {}).desc 80) 0 = none ∧ param d 59 5 = 0 ∧ param d 57 1 = 1 ∧ param d 58 1 ≤ 63 ∧
     host.kspNext d.ksp = none ∧ (n = 1 → param d 64 16 ≠ 0) ∧ (n = 0 → param d 64 16 = 0)) ∧
    (host.fput .cipDrbgStat_ready 1).draw.isSome = true ∧
    (let d := cmd [] 0 18
     adminRefused (adminC host 0x82 d {}) false (adminBad (adminC host 0x82 d {}).desc 56) 0 = none ∧ (host.kspNext 18).isSome = true ∧
     (∀ k ∈ host.kspNext 18, k.reclaiming = false) ∧
     ∀ k ∈ (kv (fun k => { k with keyspaces := k.keyspaces.map fun x => { x with reclaiming := true } }) host).kspNext 18, k.reclaiming = true) := by decide +kernel

/-- A part that is a member with the Hall at member 2. -/
def member (s : State) : State := town (fun t => { t with role := 1, state := 2, hall := 2 }) s

theorem witness_town_keyspaces : (member host).isMember = true ∧ (member host).frozen = true ∧ (member host).acting = false := by decide +kernel

theorem witness_power :
    (∀ p ∈ [4, 0, 1, 2, 3], let d := cmd [p] 0
     (adminU host 0x84 d {}).adminBusy (adminC host 0x84 d {}) = false ∧ adminRefused (adminC host 0x84 d {}) true (adminBad (adminC host 0x84 d {}).desc 57) 0 = none) ∧
    host.power.pstate = 0 ∧ (adminU host 0x84 (cmd [3] 0) {}).slumberBusy = true ∧
    (let s := power (fun p => { p with entry := some (1, 5999999999, 0) }) (having (actx .admin 0x84) host)
     s.power.entry = some (1, 5999999999, 0) ∧ s.kv.ctx? 0 = some (actx .admin 0x84) ∧ s.serving = true ∧ s.power.pstate < 2 ∧ s.clk.cycles < 5999999999 + 60000000 ∧
     ∀ e ∈ s.kv.ctxs, e.id = 0 ∨ e.pool = .town) ∧
    (let s := power (fun p => { p with entry := some (3, 5999999999, 0) }) (having (actx .admin 0x84) host)
     s.serving = true ∧ s.tun.entries = [] ∧ s.index.journal = [] ∧ (having (actx .admin 0x84) stored).tun.entries ≠ []) := by decide +kernel

/-- Ledger items that are taken, and one that is not. -/
def ledDesc (n i : Nat) : Desc := cmd [BitVec.ofNat 8 n, BitVec.ofNat 8 i] (ledItemLen n)

theorem witness_confirm_ledger_clear :
    (let d := cmd [] 0
     adminRefused (adminC host 0x8A d {}) true (adminBad (adminC host 0x8A d {}).desc 56) 0 = none ∧ host.upd.trial = none) ∧
    (∀ p ∈ [(0, 0), (1, 0), (2, 7)], adminRefused (adminC host 0x8C (ledDesc p.1 p.2) {}) true (adminBad (adminC host 0x8C (ledDesc p.1 p.2) {}).desc 58) 0 = none) ∧
    (let d := cmd [] 192
     adminRefused (adminC host 0x8D d {}) true (adminBad (adminC host 0x8D d {}).desc 60) 0 = none) ∧
    (host.ledApply 0 0 (List.replicate (ledItemLen 0) 0#8)).isSome = true ∧ host.ledApply 0 0 (List.replicate (ledItemLen 0) 1#8) = none ∧
    host.nonceNow = none ∧ host.alive = true ∧ host.power.pstate ≠ 3 := by decide +kernel

/-- Without a nonce no clear is allowed. -/
theorem witness_clear_refused : ∃ st, host.clearRefused none (List.replicate 192 0#8) 0 = some st := by
  simp only [State.clearRefused, firstStatus]
  split <;> exact ⟨_, rfl⟩

/-! ### The index, the Tun and the media engine -/

/-- A leaf of one entry that is dirty with many changes. -/
def leaf : Leaf := { ward := 5, ldepth := 0, pfx := 0, dirty := true, changes := 1000000, entries := [] }

theorem witness_leaves :
    (let s := index (fun x => { x with leaves := [leaf] }) (flash stored)
     s.index.leafAt 5 0 0 = some leaf ∧ s.mediaOn = true ∧ s.fget .kveIdxCtrl_wbChanges ≤ leaf.changes ∧ s.mergeLeaf leaf = (leaf, s) ∧
     (s.store .index { addr := 0, kind := .leaf, wseq := 0, units := 256, ward := 5, ldepth := 0, pfx := 0 } true s.leafRank).isSome = true) ∧
    (let s := index (fun x => { x with leaves := [{ leaf with rebuild := true }] }) (flash stored)
     s.serving = true ∧ s.index.leafAt 5 0 0 = some { leaf with rebuild := true }) ∧
    host.ready = true ∧ host.hasFlash = true ∧ host.power.pstate ≠ 3 := by decide +kernel

theorem witness_drain :
    (host.serving = true ∧ 0 < host.fget .adCtrl_scrubMs ∧ (host.fput .adCtrl_scrubEn 1).flag .adCtrl_scrubEn = true ∧ (stored.tun.rows.find? (fun r => r.row == 0)).isSome = true) ∧
    (∀ e ∈ stored.tun.entry? 0, stored.kspGone e.ksp = false ∧ stored.drainable e = true ∧ ((flash stored).drainEntry e).isSome = true ∧
      e.kind ≠ .tombstone ∧ e.kind ≠ .publish ∧ e.vlen ≤ 1048576 ∧ stored.undrained e = [] ∧ e.upTo = 0 ∧ stored.flashEntry e.ksp e.key = none ∧
      (kv (fun k => { k with keyspaces := [] }) stored).kspGone e.ksp = true ∧ e.refs = 0 ∧ (stored.fput .cipKpSlotStat_loaded 0).drainable e = false) ∧
    (stored.tun.entry? 0).isSome = true ∧ stored.mediaOn = true := by decide +kernel

/-- A NAND operation that has been issued, in an operation queue of its own. -/
def nandOp (k : NandKind) (w : NandFor) : NandOp := { id := 0, kind := k, addr := mkAddr 0 30 0 0 0, why := w, cls := 0, rank := 0, issued := true }
def issued (k : NandKind) (w : NandFor) (s : State) : State := media (fun m => { m with ops := [nandOp k w] }) (flash s)

theorem witness_ladder :
    (issued .read .raw stored).running 0 .read = some (nandOp .read .raw) ∧ (issued .read .raw stored).flag .medRawCtrl_mode = false ∧
    (issued .read .raw stored).ladder (nandOp .read .raw) true 0 = .ended 1 0 ∧ (issued .read .raw stored).ladder (nandOp .read .raw) false 0 = .again 2 [] ∧
    1 < (host.fput .medNandCfg_rrTables 8).fget .medNandCfg_rrTables ∧ (flash host).flag .medRawStat_busy = false ∧
    (flash host).rawAddrOk 0 = true ∧ (flash host).rawAddrOk (2 ^ 54) = false ∧ ∀ l ∈ (flash host).media.lun? 0, l.suspended = false := by decide +kernel

theorem witness_programs :
    (∀ w ∈ [NandFor.parity 1 0, NandFor.page 1 0], (issued .program w stored).running 0 .program = some (nandOp .program w)) ∧
    (issued .erase .erase stored).running 0 .erase = some (nandOp .erase .erase) ∧
    (∀ l ∈ (flash host).media.lun? 0, l.failBlks.length < 3 ∧ l.suspended = false ∧ l.timeouts < 2 ∧ l.state = .accepted) ∧ ((flash host).media.lun? 0).isSome = true ∧
    ((flash host).media.block? 0 30).isSome = true ∧ (∃ o ∈ (issued .read .raw stored).media.ops, o.issued = true ∧ addrLun o.addr = 0) ∧
    (let s := media (fun m => { m with luns := [{ n := 0, state := .accepted, suspended := true, erase := some 30 }] }) (flash host)
     s.serving = true ∧ s.readsWait 0 = false ∧ s.erasePeakFits 0 = true) ∧
    (let s := media (fun m => { m with luns := [{ n := 0, state := .accepted }, { n := 1, state := .foreign }] }) (flash host)
     s.ready = true ∧ (s.media.lun? 1).isSome = true ∧ (∀ o ∈ s.media.ops, addrLun o.addr ≠ 1) ∧ ∀ q ∈ s.media.sets, ∀ b ∈ q.blocks, b.1 ≠ 1) := by decide +kernel

/-- A failed parity page with another scratch block of its LUN to go to; the release of LUN 1, before, at and after its first erase, and at its last. -/
theorem witness_parity_and_release :
    (let o : NandOp := { nandOp .program (.parity 1 0) with addr := mkAddr 0 20 0 0 0 }
     let s := media (fun m => { m with ops := [o], sets := m.sets.map fun q => { q with parityLun := 0 } }) (flash stored)
     s.running 0 .program = some o ∧ (∀ q ∈ s.media.set? 1, 0 ∉ q.parity ∧ ∃ b ∈ s.media.scratch, b.lun = q.parityLun ∧ b.used < s.media.geom.pages ∧
       ¬(b.lun = addrLun o.addr ∧ b.blk = addrBlk o.addr)) ∧ (s.media.set? 1).isSome = true ∧ ∀ x ∈ s.media.ops, x.id ≠ 0 → x.why ≠ .parity 1 0) ∧
    (∀ k ∈ [0, 999], let o : NandOp := { nandOp .erase .erase with addr := mkAddr 1 k 0 0 0 }
     let s := media (fun m => { m with ops := [o], blocks := [{ lun := 1, blk := k, state := .erasing }],
                                       luns := [{ n := 0, state := .accepted }, { n := 1, state := .foreign, releaseAt := some k }] }) (flash host)
     s.serving = true ∧ s.running 0 .erase = some o ∧ (∀ l ∈ s.media.lun? 1, l.suspended = false ∧ l.failBlks.length < 3 ∧ l.timeouts < 2 ∧ l.releaseAt = some k) ∧
     (s.media.block? 1 k).isSome = true ∧ (k = 0 → k + 1 < s.media.geom.blocks) ∧ (k = 999 → s.media.geom.blocks ≤ k + 1)) ∧
    (∃ x ∈ (flash host).media.scratch, x.lun = 0 ∧ x.blk = 20) := by decide +kernel

/-- Flash with one set, of two pages. -/
def oneSet (q : TSet) : State :=
  media (fun m => { m with geom := { spare := 2048, blocks := 1000, pages := 2 }, scratch := [],
                           blocks := [{ lun := 0, blk := 30, state := .inSet, wseq := 1 }, { lun := 0, blk := 40, state := .retiring }], sets := [q], nextWseq := 2 }) host
def set0 : TSet := { wseq := 1, stream := .sparge, blocks := [(0, 30)], parityLun := 1, state := .opened, ptr := 1 }
def full0 : TSet := { set0 with stream := .user, state := .full, ptr := setUnits (oneSet set0).media.geom set0, passed := [0, 1], parity := [0, 1] }

theorem witness_sets :
    ((oneSet set0).mediaOn = true ∧ (oneSet set0).media.set? 1 = some set0 ∧ set0.ptr % (256 * (oneSet set0).media.geom.cwpp * set0.blocks.length) ≠ 0) ∧
    ((oneSet full0).media.set? 1 = some full0 ∧ (oneSet full0).programmed full0 = true) ∧
    (let q : TSet := { full0 with urgent := some 1 }
     (oneSet q).victim = some q) ∧ (oneSet set0).victim = none ∧ (∀ o ∈ (oneSet set0).media.ops, ∀ v ∈ [0], o.why ≠ .copy v) ∧
    ((oneSet set0).media.block? 0 40).isSome = true ∧ (∀ b ∈ (oneSet set0).media.block? 0 40, b.state = .retiring) ∧ (oneSet set0).media.slots = [] ∧
    (oneSet { full0 with state := .verified }).flag .medScrubCtrl_scrubEn = true := by decide +kernel

/-! ### Resets and start-up -/

theorem witness_resets :
    (power (fun p => { p with porstLow := true }) up).power.porstLow = true ∧ up.tun.flushing = false ∧ up.alive = true ∧ up.power.pstate ≠ 3 ∧
    up.tun.entries = [] ∧ up.index.journal = [] ∧ stored.canFlush = true ∧ stored.tun.entries ≠ [] ∧ up.pinsActive = true ∧
    (power (fun p => { p with pwrfailLow := true, halt := some .powerFail }) up).pinsActive = true ∧
    (power (fun p => { p with refclkLost := true, halt := some .refclk }) up).pinsActive = true ∧
    (let s : State := power (fun p => { p with pstate := 3 }) { up with host := { up.host with perst := true } }
     s.pinsActive = true ∧ s.alive = true) := by decide +kernel

theorem witness_flushes :
    (stored.pinsActive = true ∧ stored.power.halt = none ∧ stored.tun.flushing = false ∧ stored.canFlush = true ∧ stored.power.refclkLost = false ∧ stored.upd.inert = false) ∧
    (media (fun m => { m with luns := [] }) host).canFlush = false ∧
    (∀ n ∈ [0, 1, 2, 3, 4], (tun (fun t => { t with flushing := true, flushFor := n }) stored).tun.flushing = true) := by decide +kernel

theorem witness_functions :
    host.ready = true ∧ host.pinsActive = true ∧ host.host.perst = false ∧ 1 ≤ host.host.vfs ∧ host.linkMay = true ∧ host.upd.recovery = false ∧
    (power (fun p => { p with ready := false }) host).linkMay = true ∧
    (upd (fun u => { u with recovery := true }) (power (fun p => { p with ready := false }) host)).upd.recovery = true := by decide +kernel

theorem witness_start_up :
    (∀ n ∈ [0, 1, 2, 3, 5, 7, 8, 9], let s := power (fun p => { p with stage := n, ready := false, strap := 16 }) host
     s.starting = true ∧ s.town.state = 0) ∧
    ((host.stageDram { ok := true, dram := [(some (host.fget .drmCtrl_rate), 65536)] }).1 = true ∧ (host.stageDram { ok := false }).1 = false) ∧
    host.hasFlash = true ∧ host.alive = true ∧ 5 < host.power.stage := by decide +kernel

/-! ### The wire protocol -/

/-- An OPEN session in slot 4 with a packet in flight, and a request that has arrived whole. -/
def sess : Slot :=
  { n := 4, state := .opened, peer := 99, ver := 1, tenant := 0, identity := 77, rxUnacked := 1, unacked := [{ psn := 1, msgId := 1, off := 0, len := 80, lost := true }], nextPsn := 2,
    rx := [{ msgId := 1, head := some (.request { opc := 1, ksp := 18, klen := 1 } [97#8] 4096 0 0 0 false), got := 1000 }], heard := 1, spoke := 1 }
def onSess (x : Slot) (s : State) : State :=
  let s := ywp (fun y => { y with slots := [x] }) (s.fput .ywpCtrl_enable 1)
  { s with cip := { s.cip with sk := [{ slot := 4, dir := 1, pos := 0, gen := 0, key := 1, iv := 1 }] } }

/-- A packet for slot 4. -/
def packet (typ : Nat) : YPacket := { typ := typ, sid := 4, udpLen := 80, src := 99, psn := 1 }

theorem witness_packets :
    let s := onSess sess host
    s.netOn = true ∧ (∀ t ∈ [2, 3, 4], s.checkPacket (packet t) t = .ok sess) ∧
    (s.ywp.slot? 4).isSome = true ∧ s.ywp.slot? 5 = none ∧
    (∀ p ∈ [({ packet 2 with udpLen := 81 }, Fld.ywpDrop_malformed), ({ packet 2 with plen := 9000, udpLen := 9080 }, .ywpDrop_malformed), ({ packet 2 with sid := 5 }, .ywpDrop_noSession),
            ({ packet 2 with inc := 1 }, .ywpDrop_staleInc), ({ packet 2 with src := 98 }, .ywpDrop_noSession), ({ packet 2 with ver := 2 }, .ywpDrop_version),
            ({ packet 2 with keyGen := 9 }, .ywpDrop_staleKey), ({ packet 2 with authOk := false }, .ywpDrop_authFail), ({ packet 2 with frag := true }, .ywpDrop_malformed),
            ({ packet 2 with sum := .wrong }, .ywpDrop_malformed), ({ packet 2 with v6 := true, sum := .none }, .ywpDrop_malformed)], s.checkPacket p.1 2 = .error p.2) ∧
    ipBad (packet 2) = false ∧
    ((onSess { sess with state := .closed } host).checkPacket (packet 4) 4).toOption = some { sess with state := .closed } ∧
    after sess.rxNext (packet 2).psn = false ∧ (packet 2).psn ∉ sess.rxAhead ∧ serial (packet 2).psn sess.rxNext ≤ 8191 ∧ after sess.rxNext 0 = true ∧
    8191 < serial 9000 sess.rxNext := by decide +kernel

theorem witness_sessions :
    let s := onSess sess host
    s.ywpOn = true ∧ s.ready = true ∧ s.ywp.handshaking < 1024 ∧ s.ywp.newSlot = some (0, 0) ∧ s.flag .cipDrbgStat_failed = false ∧
    bitAt 32 5 = true ∧ s.hsSlot { packet 1 with flags := 32, msgId := 7 } = none ∧ s.fget .ywpCtrl_verMin ≤ s.fget .ywpCtrl_verMax ∧
    (∀ x ∈ [SlotState.handshake, .closed, .opened], ((onSess { sess with state := x, hsOut := [(1, 0, [])], oldGen := some (0, 0) } host).ywp.slot? 4).isSome = true) := by
  decide +kernel

theorem witness_timers :
    let s := onSess sess host
    s.ywp.slot? 4 = some sess ∧ s.netOn = true ∧ sess.invoc < 4293918000 ∧ 0 < sess.rxUnacked ∧ 0 < (host.fput .ywpSessCtrl_keepaliveMs 1).fget .ywpSessCtrl_keepaliveMs ∧
    sess.peerWindow = 0 ∧ (sortBy (fun (k : TxPkt) => serial k.psn sess.ackedTo) sess.unacked).length = 1 ∧ 0 < s.fget .ywpTimerCtrl_maxRetx ∧
    0 < s.fget .ywpCcCtrl_burstPkts ∧ (sess.unacked.find? (fun p => p.lost)).isSome = true ∧ (onSess { sess with unacked := [] } host).sendNew 4 = none := by decide +kernel

theorem witness_acks : ([(0, 4), (6, 9)] : List (Nat × Nat)).length ≤ 32 ∧ (onSess sess host).cip.dist = [] ∧
    ([0, 1, 5] : List Nat).Pairwise (fun a b => a < b) := by decide +kernel

theorem witness_requests :
    let s := onSess sess host
    s.hasFlash = true ∧ (∃ m ∈ sess.rx, m.complete = true ∧ m.taken = false ∧ m.ended = false ∧ reqBehind sess m { opc := 1, ksp := 18, klen := 1 } [97#8] = false) ∧
    s.isMember = false ∧ sess.invoc + reservedOf sess + s.reserveFor 4 ≤ 4294901760 ∧ (s.openTarget 4 1 0 77 0 {} {}).isSome = true ∧
    leavesRecord { opc := 5 } {} = true ∧
    ((ywp (fun y => { y with records := [{ identity := 77, tenant := 0, reqNo := 3, stamp := 0, status := 0, rlen := 0, origin := 0 }] }) s).ywp.records.find?
      (fun r => r.identity == 77 && r.reqNo == 3)).isSome = true := by decide +kernel

/-! ### The Town -/

/-- A session to member `h`, bound to the PF. -/
def peerSess (n h : Nat) : Slot := { n := n, state := .opened, peer := 50 + n, ver := 1, identity := h, member := true }

/-- The acting Hall of a Town: this part is member 1, its standby member 2 and a third, 3, each with a session. -/
def hall : State :=
  let s := ywp (fun y => { y with slots := [peerSess 1 2, peerSess 2 3] }) (((stored.fput .twnCfg_memberId 1).fput .twnCfg_townEn 1).fput .twnCfg_definedRole 1)
  town (fun t => { t with
    role := 2, state := 2, hall := 1, standby := 2, epoch := 10, term := 3, level := 1,
    members := [{ handle := 1, state := 2, watchers := [2, 3], luns := 8 }, { handle := 2, state := 2, watchers := [1, 3], luns := 8 },
      { handle := 3, state := 2, watchers := [1, 2], luns := 8 }],
    wards := [{ ward := 5, owner := 1, reps := [2] }, { ward := 6, owner := 3, reps := [1] }],
    transfers := [{ ward := 5, move := true, target := 3 }, { ward := 6, move := false, target := 2 }] }) s

/-- The same Town at a member, 1, whose Hall is 2 and whose standby is 3. -/
def plain : State := town (fun t => { t with role := 1, hall := 2, standby := 3 }) (hall.fput .twnCfg_definedRole 0)

theorem witness_hall :
    hall.netOn = true ∧ hall.isMember = true ∧ hall.acting = true ∧ hall.frozen = false ∧ (hall.slotTo 2).isSome = true ∧ hall.cip.bound = [] ∧ hall.town.leaving = [] ∧
    hall.town.publish = [] ∧ hall.town.returning = none ∧ (∀ h ∈ [2, 3], (hall.town.member? (idOf h)).map (fun x => x.handle) = some h) ∧
    (hall.town.member? (idOf 20000)).map (fun x => x.handle) ≠ some 20000 ∧ plain.acting = false ∧ plain.frozen = false ∧ plain.reach 2 = true := by decide +kernel

theorem witness_messages :
    plain.town.epoch < 11 ∧ (plain.wardEntry 5).owner ≠ idOf 2 ∧ plain.receiverOf 6 3 = true ∧ (plain.takeEntries 3 []).isSome = true ∧
    (∃ x ∈ (town (fun t => { t with transfers := [{ ward := 6, move := true, target := 1 }] }) plain).town.transfers, x.ward = 6 ∧ idOf x.target = plain.memberId) := by decide +kernel

theorem witness_terms :
    (let s := town (fun t => { t with role := 0, state := 1, hall := 0 }) hall
     s.flag .twnCfg_townEn = true ∧ s.isMember = false ∧ 2 ≤ s.electors.length ∧
     (town (fun t => { t with members := [] }) s).electors.length = 1 ∧ s.liveHall = 0 ∧ s.town.round = none) ∧
    (plain.watched.contains 3 = true ∧ plain.town.suspected.contains 3 = false ∧ plain.leaseEnd.isSome = true) ∧
    (town (fun t => { t with standby := 1 }) plain).watched.contains 2 = true ∧
    (let s := town (fun t => { t with suspects := [(3, 1, 5), (3, 2, 6)] }) hall
     ∀ m ∈ s.town.member? 3, m.watchers.length / 2 + 1 ≤ (sortBy id ((s.town.suspects.filter fun x => x.1 == 3 && m.watchers.contains x.2.1).map fun x => x.2.2)).length) ∧
    (let s := town (fun t => { t with role := 3, hall := 2, standby := 1 }) plain
     s.town.role = 3 ∧ s.town.state ≠ 3) := by decide +kernel

theorem witness_joins :
    hall.joinRefused { handle := 4, state := 0 } = none ∧ (hall.joinRefused { handle := 3, state := 0 }) = some 0x0507 ∧
    hall.joinRefused { handle := 4, state := 0, certOk := false } = some 0x0400 ∧
    ((hall.town.wards.any fun e => (e.assigned && e.owner == 3) || e.reps.contains 3) = true) ∧
    (let s := town (fun t => { t with wards := [] }) hall
     (s.town.wards.all fun e => !(e.assigned && e.owner == 3) && !e.reps.contains 3) = true) ∧
    (let s := town (fun t => { t with members := t.members ++ [{ handle := 4, state := 1 }] }) hall
     ∃ x ∈ s.town.member? 4, x.state = 1 ∧ x.handle = 4) := by decide +kernel

theorem witness_wards :
    plain.wardOwner 5 = .self ∧ plain.town.copied.contains 5 = false ∧ (plain.town.transfers.find? fun t => t.ward == 5).isSome = true ∧ plain.town.cuts = [] ∧
    (plain.town.transfers.find? fun t => t.ward == 6).isSome = true ∧ (hall.wardEntry 6).owner = idOf 3 ∧
    ((hall.kspNew 0 { opc := 0x81, ksp := 18 }).toOption.isNone = true) ∧ ((hall.kspGoneNew 0 { opc := 0x82, ksp := 18 }).toOption.isSome = true) ∧
    ((hall.kspGoneNew 0 { opc := 0x82, ksp := 19 }).toOption.isNone = true) := by decide +kernel

/-- A change of the key "b" of Ward 6, whose owner is member 3 and whose replica is this part. -/
def change : TunEntry :=
  { id := 0, kind := .put, state := .live, ksp := 18, key := [98#8], origin := 3, replAck := true, stamp := 4096000, vlen := 1, digest := host.digest 18 [98#8], data := [1#8] }

theorem witness_changes :
    plain.townFree 3 = true ∧ plain.changeBehind plain.kv.nextCtx [change] = false ∧ (plain.takeEntries 3 [change]).isSome = true ∧
    (having { ctx .held 0 with pool := .town, repl := some { tmsg := 10, body := .repl [change] none } } plain).changeBehind 1 [change] = true ∧
    (tun (fun t => { t with sizeMib := 0 }) plain).takeEntries 3 [change] = none ∧
    ((flash plain).takePiece 0 { tmsg := 10, sender := 3, ward := 6 } 5 18 [98#8] 4 0 [1#8, 2#8, 3#8, 4#8]).isSome = true ∧
    plain.takePiece 0 { tmsg := 10, sender := 3, ward := 6 } 5 18 [98#8] 4 0 [1#8, 2#8, 3#8, 4#8] = none := by decide +kernel

/-- The Town pool is full. -/
theorem town_pool_full (n : Nat) (h : 16384 ≤ n) : (town (fun t => { t with cuts := List.replicate n (5, 0) }) plain).townFree 3 = false := by
  simp only [State.townFree, State.townRoom, State.townUsed, poolSize, town, List.length_replicate, Bool.and_eq_false_iff, decide_eq_false_iff_not]
  exact Or.inl (by omega)

theorem witness_town_pool_full : (town (fun t => { t with cuts := List.replicate 16384 (5, 0) }) plain).townFree 3 = false := town_pool_full 16384 (Nat.le_refl _)

/-- A mutation that one replica still has to acknowledge, and a command of which the Hall has been lost. -/
theorem witness_acknowledgements :
    (let c : OpCtx := { ctx .commit 5 with acks := [3], stamp := 4096000, wards := [5] }
     let s := having c plain
     s.kv.ctxs.filter (fun x => x.acks.contains (idOf 3) && x.stamp == 4096000) = [c] ∧ s.kv.ctx? 0 = some c ∧ s.town.offers = [] ∧ s.town.cuts = []) ∧
    (let c : OpCtx := { actx .admin 0x81 with ponr := true }
     let s := ywp (fun y => { y with slots := [] }) (having c plain)
     s.hallLost c = true ∧ s.ready = true ∧ s.kv.ctx? 0 = some c) ∧
    (let c : OpCtx := ctx .noOwner 5
     (having c plain).kv.ctx? 0 = some c ∧ c.minEpoch ≤ plain.town.epoch ∧ c.repl = none) := by decide +kernel

/-- REMOVE of a member that has FAILED and of one that has not, MOVE, and HALL_RETURN. -/
theorem witness_town_control :
    (∀ a ∈ [1, 2, 3, 4, 5], let d := cmd [BitVec.ofNat 8 a, 0, if a = 3 ∨ a = 4 then 3 else 0] 0
      (adminU hall 0x8B d {}).adminBusy (adminC hall 0x8B d {}) = false ∧ townBad (adminC hall 0x8B d {}).desc = false ∧ param d 56 1 = a) ∧
    (let s := town (fun t => { t with members := [{ handle := 3, state := 3 }] }) hall
     (s.hallControl (cmd [3, 0, 3] 0)).toOption.isSome = true) ∧ ((hall.hallControl (cmd [3, 0, 3] 0)).toOption = none) ∧
    ((hall.hallControl (cmd [4, 0, 3, 0, 7] 0)).toOption.isSome = true) ∧ ((hall.hallControl (cmd [4, 0, 3, 0, 6] 0)).toOption = none) ∧
    (hall.fput .twnCfg_hallId 2).hallControl (cmd [5] 0) = .ok none := by decide +kernel

/-- A LUN-less member takes no Ward (R6). -/
theorem witness_move_without_flash :
    ((town (fun t => { t with members := t.members.map fun m => { m with luns := 0 } }) hall).hallControl (cmd [4, 0, 3, 0, 7] 0)).toOption = none := by decide +kernel

/-! ### Time -/

/-- PTP runs on port 0, and follows master 5. -/
def ptp (f : TimeSt → TimeSt) : State :=
  let s := (((host.fput .ptpCtrl_enable 1).fput .ptpServoCtrl_servoEn 1).fput .ptpPpsCtrl_inEn 1).fput .ptpPpsCtrl_outEn 1
  { s with time := f { s.time with state := 2, master := some 5, portState := 9, updated := some 1, epsInf := false,
                                   foreign := [{ clockId := 5, priority1 := 1, cls := 1, accuracy := 1, variance := 1, priority2 := 1, steps := 0, last := 6000000000,
                                                 prev := some 5999999999 }] } }

theorem witness_time :
    (ptp id).ptpOn = true ∧ (ptp id).time.state ≠ 4 ∧ (ptp id).pathRejects 10 4 = false ∧
    (ptp fun t => { t with path := some 1 }).pathRejects 1000000000 4 = true ∧
    ((ptp id).fget .ptpCtrl_domain ≠ 200 ∧ (5 : Nat) ≠ (ptp id).clockId) ∧
    ((ptp id).time.foreign.filter (fun f => (ptp id).qualified f)).length = 1 ∧
    ((ptp id).time.foreign.find? fun f => some f.clockId == (ptp id).time.master).isSome = true ∧
    (ptp id).alive = true ∧ (ptp id).flag .ptpPpsCtrl_inEn = true ∧ (ptp id).time.lastEdge = none ∧ (ptp id).flag .ptpPpsCtrl_outEn = true ∧
    (ptp id).epsUnits.isSome = true ∧ (ptp fun t => { t with epsInf := true }).epsUnits = none ∧
    (let s := (ptp fun t => { t with tod := some 1800000000, lastEdge := some 5 }).fput .ptpCtrl_role 2
     s.ptpOn = true ∧ s.clk.tai ≤ (1800000000 * 1000000000 - s.fget .ptpPpsCtrl_inEpsNs) * 4294967296) := by decide +kernel

/-! ### The network -/

/-- Port 0 with its link up, a partner and a frame in its queue. -/
def onPort (f : Port → Port) : State :=
  let x : Port := { p := 0, link := true, lanes := 8, rxLanes := 8, partner := some (77, 99999999999), queue := [{ tc := 1, len := 100, kind := .other, dst := 1 }] }
  { host with net := { host.net with ports := [f x] } }

/-- A good frame of 100 bytes to everyone. -/
def frame : Frame := { dst := 2 ^ 48 - 1, src := 77, len := 100, ethertype := 0x800 }

theorem witness_frames :
    let s := onPort id
    s.macOn = true ∧ s.portExists 0 = true ∧ (s.port 0).link = true ∧ 100 ≤ s.fget .netPortCtrl_maxFrame ∧ s.macAccepts 0 frame = true ∧
    s.macAccepts 0 { frame with dst := 5 } = false ∧ s.partner 0 = some frame.src ∧
    (∃ i ∈ List.range 32, (power (fun p => { p with pstate := 3 }) ((s.fput .netWakePat_en 1).fput .netWakePat_mask 1)).wakeMatch { frame with bytes := [0#8] } i = true) ∧
    s.wakeMatch frame 1 = false := by decide +kernel

theorem witness_links :
    ((onPort fun x => { x with up := true, link := false }).port 0).up = true ∧ (onPort id).dataPort 0 = true ∧ (onPort id).dataPort 8 = false ∧
    ((onPort id).fput .netPortCtrl_bank 2).fget .netPortCtrl_bank = 2 ∧ ((onPort id).fput .netFwqCtrl_en 1).flag .netFwqCtrl_en 0 = true ∧
    (onPort id).flag .netCrossCtrl_en 0 = false ∧ ((onPort id).port 0).change = none ∧ (onPort id).flag .twnCfg_townEn = false ∧ (onPort id).net.mdio = none ∧
    ((onPort id).fput .netCrossCtrl_en 1).flag .netCrossCtrl_en 0 = true := by decide +kernel

theorem witness_parking :
    let s := onPort id
    let r : ParkReq := { restore := false, seq := 4, x := 1000, lanes := 4, sentAt := 0 }
    (s.port 0).idle = true ∧ s.partner 0 = some 77 ∧ (s.fput .netParkCtrl_parkEn 1).mayPark 0 = true ∧ 0 < s.fget .netParkCtrl_parkPct ∧
    ((onPort fun x => { x with lanes := 4 }).port 0).lanes < s.fullLanes ∧ cwAhead (s.rxCw 0 + 1000) (s.rxCw 0 + 32) false = true ∧
    cwAhead (s.rxCw 0) (s.rxCw 0 + 32) false = false ∧ ((onPort fun x => { x with req := some r }).port 0).req = some r ∧
    cwAhead (s.txCw 0 + 1000) (s.txCw 0 + 32) true = true ∧ ((onPort fun x => { x with txSwitch := some (1000, 4) }).port 0).nextPoint.isSome = true ∧
    (onPort fun x => { x with partner := none, req := some { r with restore := true } }).partner 0 = none ∧
    (let q := power (fun p => { p with pstate := 3 }) (s.fput .netWakeCtrl_wakeLink 1)
     q.alive = true ∧ q.flag .netWakeCtrl_wakeLink = true) := by decide +kernel

/-! ### Keys, energy and fans -/

/-- The PF with a TRK, and a key in slot 3. -/
def keyed : State := { host with cip := { host.cip with trks := [(0, 11)], keys := [{ tenant := 0, slot := 3, key := 5, wrapped := 6 }] } }

theorem witness_keys :
    keyed.pageOn 0 = true ∧ keyed.keysHere = true ∧ plain.keysHere = false ∧ keyed.trkOf 0 = some 11 ∧ host.trkOf 0 = none ∧ Requester.func 1 ≠ .func 0 ∧
    plain.town.role ≠ 2 ∧ (plain.slotTo (idOf plain.town.hall)).isSome = true := by decide +kernel

theorem witness_session_keys :
    host.skOn = true ∧ host.ywp.slot? (host.fget .cipSkSel_session) = none ∧
    (((onSess sess host).fput .cipSkSel_session 4).ywp.slot? 4).isSome = true ∧ host.flag .cipDrbgStat_ready = false ∧
    (host.fput .cipDrbgStat_ready 1).flag .cipDrbgStat_ready = true ∧ (host.fput .cipDrbgStat_failed 1).flag .cipDrbgStat_failed = true ∧ host.cip.locked = false ∧
    host.windowOn (.func 0) = true ∧ host.windowOn .sup = true ∧ (ev (fun e => { e with nonce := some (1, 2) }) host).ev.nonce = some (1, 2) := by decide +kernel

/-- A read that waits to be issued. -/
def waitingRead : State := media (fun m => { m with ops := [{ nandOp .read .raw with issued := false }] }) (flash host)

theorem witness_energy :
    host.ledOn = true ∧ waitingRead.nextGrant.isSome = true ∧ host.nextGrant = none ∧ host.critical [2000] = true ∧ host.critical [400] = false ∧
    host.tun.replayDone = true ∧ host.hasFlash = true ∧ (host.fput .ledSens_en 1).flag .ledSens_en 0 = true ∧
    (∃ g ∈ List.range 8, (((host.fput .ledTemp_valid 1).fput .ledTemp_temp 400).groupTemp g == .at_ 400) = true) := by decide +kernel

/-- Channel 2 in a state of its machine. -/
def fan (f : Chan → Chan) : State := { host with drt := { host.drt with chans := [f { c := 2 }] } }

theorem witness_fans :
    (∀ n ∈ List.range 9, ((fan fun x => { x with st := n }).drtOn = true ∧ ((fan fun x => { x with st := n }).chan 2).st = n)) ∧ mainChan 2 = false ∧
    (∃ ma ∈ [0, 65535], (fan id).overcurrent 2 ma = true) ∧ (∃ ma ∈ [0, 65535], (fan id).overcurrent 2 ma = false) ∧ (fan id).chanHeld = false ∧
    curveOk [(0, 0), (10, 20)] = true ∧ curveOk [(10, 0), (10, 20)] = false ∧ (fan id).drt.fault = false ∧
    ({ fan id with drt := { (fan id).drt with chopOn := true } } : State).drt.chopTested = false := by decide +kernel

/-! ### The code flash, update, events and registers -/

/-- The code flash with descriptors to take, and every sector of the first 64 of Bank B open. -/
def cfl (f : CflSt → CflSt) : State :=
  let s := ((host.fput .cflStat_ready 1).fput .cflQCtrl_en 1).fput .cflQCtrl_tail 5
  { s with cfl := f { s.cfl with wpOpen := (List.range 64).map fun k => (1, k) } }

theorem witness_code_flash :
    (cfl id).cflQueued = true ∧ (cfl id).cflBusy 2 { array := 1, addr := 30 } = false ∧ (cfl id).cflRefused 2 { array := 1, addr := 30 } = none ∧
    (cfl id).cflRefused 2 { array := 1, addr := 64 } = some 0x0601 ∧ (cfl id).cflRefused 2 { array := 3 } = some 0x0101 ∧
    (∀ o ∈ [4, 5, 6, 7, 8], cflFieldBad o { array := 3 } = true) ∧ (∀ o ∈ [6, 7], cflFieldBad o { array := 1 } = false) ∧
    (let j : CflJob := { slot := 0, op := 2, d := { array := 1, addr := 30 }, phys := some 30 }
     ((cfl fun x => { x with run := [(1, j)] }).cfl.running 1 = some j ∧ (cfl fun x => { x with run := [(1, j)] }).cflBusy 2 { array := 1 } = true ∧
      (cfl fun x => { x with susp := [(1, j)] }).cfl.suspended 1 = some j)) ∧
    (cfl id).cfl.wf = true ∧ (cfl id).coreRuns 0 = true ∧ cflDecode 0x12000000 = some (1, 0) ∧ (cfl id).busFaults .load 1 0 = false ∧ (cfl id).busFaults .store 1 0 = true := by
  decide +kernel

theorem witness_update :
    host.upd.trial = none ∧ 0 < host.caskCopies ∧ host.serving = true ∧
    (upd (fun u => { u with head := { u.head with state := 1, pkgLen := 5000, pkgId := 9, received := [0] } }) host).upd.head ≠ host.upd.written ∧
    (upd (fun u => { u with trial := some (1, 60) }) host).canFlush = true ∧ host.tun.entries = [] ∧ host.index.journal = [] ∧
    (let x : Slot := { sess with mgmt := true, rx := [{ msgId := 1, head := some (.mgmt 0x89 (List.replicate 40 0#8) 0), got := 1000 }] }
     let s := onSess x host
     s.ywpOn = true ∧ s.ready = true ∧ ∃ m ∈ x.rx, m.complete = true ∧ m.taken = false ∧ m.ended = false) := by decide +kernel

theorem witness_events :
    host.ev.full = false ∧ host.ev.front < 256 ∧ (ev (fun e => { e with holdProg := false }) host).ev.holdProg = false ∧ host.ev.clearing = none ∧ host.ev.since ≤ host.clk.cycles ∧
    host.mayReadLog .sup = true ∧ host.mayReadLog (.func 1) = false ∧
    (∃ b ∈ List.range 20, ∃ t ∈ List.range 16, host.objStatus 0 b t 0 = 0) ∧ host.objStatus 0 200 0 0 = 1 ∧ host.winLatch = [] := by decide +kernel

theorem witness_registers :
    (∀ w ∈ [Requester.sup, .func 0, .func 1], host.regReach w = true) ∧ accessOk 0 4 = true ∧ accessOk 2 4 = false ∧ accessOk 0 8 = true ∧
    host.placeOf (.func 0) 0x2000000 = .refuse ∧ host.placeOf (.func 0) 0x1500000 = .blank ∧
    host.placeOf (.func 0) 0x80000 = .reg ⟨.ywpCtrl, 0, 0, 0⟩ 0 false ∧ host.regThere ⟨.ywpCtrl, 0, 0, 0⟩ = true ∧ host.flag .glbSetupLock_lock = false ∧
    host.upd.recovery = false := by decide +kernel

/-! ### Forms that the statements single out -/

/-- A member that is not joined, and the admin record page. -/
theorem witness_not_joined :
    host.fget .hqDbBase_addr 0 ≠ 0 ∧
    (∀ o ∈ [0x11, 0x12, 0x13],
     let s := stored.fput .twnCfg_townEn 1
     let d : Desc := { tag := 7, opc := o, snap := if o = 0x12 then 5 else 0 }
     let c := s.ringCtx 0 3 d {} .held
     let u := s.fetchOne 0 3 d {} .held
     s.mayFetch 0 3 = true ∧ u.refused c = none ∧ u.behind c = false ∧ u.fillingOn (u.kspOf d) (u.keysOf c) = false ∧ u.notJoined = true) := by decide +kernel

/-- A piece that covers an extent in part. -/
def merging : State :=
  kv (fun k => { k with staged := [{ handle := 9, tenant := 0, ksp := 18, key := [97#8], declared := 2000000, last := 0, extents := [(0, mkAddr 0 31 0 0 0)] }] })
    (media (fun m => { m with items := [{ addr := mkAddr 0 31 0 0 0, kind := .extent, wseq := 2, units := 256, ksp := 18 }] }) staging)

theorem witness_merge :
    let d : Desc := { onKey 4 with opc := 0x0D, klen := 0, key40 := [], cond := 9, offset := 100 }
    let x : Fetched := { value := List.replicate 4 1#8 }
    let c := merging.ringCtx 0 3 d x .held
    let u := merging.fetchOne 0 3 d x .held
    u.refused c = none ∧ u.behind c = false ∧ u.fillingOn 18 (u.keysOf c) = false ∧ u.sameOpen c 9 = false ∧ (u.kv.staged? 9).isSome = true ∧
    ∀ v ∈ u.kv.staged, d.offset + d.vlen ≤ v.declared ∧ ∃ e ∈ mergedExtents v d.offset d.vlen, lostAt u.media c e.2 = false := by decide +kernel

/-- A leaf that waits for its age. -/
theorem witness_leaf_age :
    let l : Leaf := { leaf with changes := 1, oldest := 5000000000 }
    let s := index (fun x => { x with leaves := [l] }) (flash stored)
    let u := s.waitCycle (l.oldest + s.fget .kveIdxCtrl_wbAgeMs * 600000)
    s.power.entry = none ∧ l.changes < s.fget .kveIdxCtrl_wbChanges ∧ s.journalOver (s.fget .kveIdxCtrl_wbUrgentPct) = false ∧
    s.index.dirtyPct < s.fget .kveIdxCtrl_wbUrgentPct ∧ u.mergeLeaf l = (l, u) := by decide +kernel

/-- A read in step 3 of a Terrace of two pages, and the raw reads that end with bytes as read. -/
def tworeads (w : NandFor) : State :=
  media (fun m => { m with ops := [{ nandOp .read w with step := 3 }], blocks := [{ lun := 0, blk := 30, state := .inSet, wseq := 1 }, { lun := 0, blk := 33, state := .inSet, wseq := 1 }],
                           sets := [{ wseq := 1, stream := .user, blocks := [(0, 30), (0, 33)], parityLun := 0, state := .opened, ptr := 4096 }] }) (flash stored)

theorem witness_rebuild_and_raw :
    (let s := tworeads (.ctx 0)
     s.running 0 .read = some { nandOp .read (.ctx 0) with step := 3 } ∧ s.mayRebuild { nandOp .read (.ctx 0) with step := 3 } = true ∧
     s.ladder { nandOp .read (.ctx 0) with step := 3 } false 0 = .again 4 [] ∧ (∀ l ∈ s.rebuildFrom (mkAddr 0 30 0 0 0), l ≠ []) ∧
     (s.rebuildFrom (mkAddr 0 30 0 0 0)).isSome = true) ∧
    (∀ m ∈ [true, false], let s := media (fun x => { x with raw := { mode := m } }) (issued .read .raw stored)
     s.media.raw.mode = m ∧ (s.readBytes (nandOp .read .raw) [255#8]).take 4128 ≠ [] ∧ (∀ b ∈ s.readBytes (nandOp .read .raw) [255#8], b = 255#8) ∧
     ∃ b ∈ s.readBytes (nandOp .read .raw) [0#8], b ≠ 255#8) ∧
    (let s := media (fun m => { m with luns := [{ n := 0, state := .accepted, suspended := true, erase := some 30 }], ops := [nandOp .erase .erase] })
       ((flash host).fput .medRawAddr_addr (mkAddr 0 30 0 0 0))
     s.rawAddrOk (s.fget .medRawAddr_addr / 256 * 256) = true ∧ s.flag .medRawStat_busy = false ∧
     (∃ o ∈ s.media.ops, o.kind = .erase ∧ o.issued = true ∧ addrLun o.addr = 0 ∧ addrBlk o.addr = 30) ∧ ∀ l ∈ s.media.lun? 0, l.suspended = true) := by decide +kernel

/-- A LUN with three failing blocks, one whose read still runs, and two reads on two planes that can go together. -/
def planes : State :=
  media (fun m => { m with geom := { m.geom with planes := 2 }, blocks := [{ lun := 0, blk := 30, state := .inSet, wseq := 1 }, { lun := 0, blk := 31, state := .inSet, wseq := 2 }],
                           ops := [{ nandOp .read .raw with issued := false }, { nandOp .read .raw with id := 1, addr := mkAddr 0 31 0 0 0, issued := false }] }) (flash host)

theorem witness_luns_and_planes :
    (let s := media (fun m => { m with luns := [{ n := 0, state := .accepted, failBlks := [1, 2, 3] }], ops := [nandOp .erase .erase] }) (flash host)
     s.running 0 .erase = some (nandOp .erase .erase) ∧ ∀ l ∈ s.media.lun? 0, 3 ≤ l.failBlks.length ∧ 30 ∉ l.failBlks ∧ l.suspended = false) ∧
    (let s := media (fun m => { m with luns := [{ n := 0, state := .accepted, suspended := true, erase := some 30 }], ops := [nandOp .read .raw] }) (flash host)
     s.serving = true ∧ s.readsWait 0 = false ∧ s.erasePeakFits 0 = true ∧ s.readRuns 0 = true) ∧
    planes.ledOn = true ∧ planes.led.tokens.length = 3 ∧ planes.bypass = false ∧ (∀ o ∈ planes.nextGrant, planes.planeMates o ≠ []) ∧ planes.nextGrant.isSome = true := by
  decide +kernel

/-- An INDEX set that takes the copies of a victim, and a set whose scrub finds a weak codeword. -/
theorem witness_targets :
    (let q : TSet := { set0 with stream := .index, victims := [1] }
     (oneSet q).media.set? 1 = some q ∧ (oneSet q).mediaOn = true ∧ q.victims ≠ [] ∧ ∀ o ∈ (oneSet q).media.ops, o.why ≠ .copy 1) ∧
    ({ full0 with state := .verified } : TSet).state = .verified ∧ 0 < setUnits (oneSet set0).media.geom { full0 with state := .verified } / 256 := by decide +kernel

/-- TLS as the part takes it and as it does not, CLOSE with and without its payload, and a packet out of its window. -/
theorem witness_wire_forms :
    tlsSupported {} = true ∧ tlsSupported { group := 1 } = false ∧
    (∀ n ∈ [0, 8], (onSess sess host).checkPacket { packet 4 with plen := n, udpLen := 80 + n } 4 = .ok sess) ∧
    (onSess sess host).checkPacket { packet 2 with psn := 9000 } 2 = .ok sess ∧ 8191 < serial 9000 sess.rxNext ∧ (onSess sess host).cip.dist = [] ∧
    ipBad { packet 1 with flags := 32, msgId := 7, udpLen := 64 } = false ∧
    (onSess sess host).hsSlot { packet 1 with flags := 32, msgId := 7, udpLen := 64 } = none := by decide +kernel

/-- A flush of a member, a member that asks the Hall to move its Wards away, and the Hall itself. -/
theorem witness_town_forms :
    (let s := tun (fun t => { t with flushing := true }) plain
     s.netOn = false ∧ s.linkOn = true) ∧
    (∀ p ∈ [(plain, false), (hall, true)], let s := media (fun m => { m with readOnly := true }) p.1
     s.netOn = true ∧ s.isMember = true ∧ s.town.state = 2 ∧ s.frozen = false ∧ s.reach s.town.hall = true ∧ s.town.asked ≠ some s.town.hall ∧ s.acting = p.2) ∧
    (∀ x ∈ hall.town.transfers, (hall.wardEntry x.ward).owner ≠ idOf x.target ∧ hall.mayOwn (idOf x.target) = true) ∧
    (media (fun m => { m with readOnly := false }) plain).media.readOnly = false ∧
    (∀ m ∈ (town (fun t => { t with members := t.members.map fun m => { m with luns := 0 } }) hall).town.member? 3, m.luns = 0) ∧
    plain.wardOwner 6 = .remote 3 ∧ (plain.slotFor 3 0).isSome = true ∧ (hall.wardEntry 7).assigned = false ∧ hall.town.transfers.length < 4096 := by decide +kernel

/-! ### Well-formedness: an ill-formed term for each check, which the check refuses -/

theorem test_numbers_refused :
    ∀ i ∈ ([.summaryPoll 256, .doorbellPoll 0 65, .keepalive 262144, .linkUp 9, .coastEnd 12, .clearSlot 0 64, .lunRelease 8192, .cutTimeout 1048576,
      .codeFlashRead 8 0 0, .setupLock (.func 256), .get (.ring 256 0) {} {}, .get (.ring 0 65) {} {}, .get (.sess 262144 0) {} {}, .get (.sess 0 4294967296) {} {},
      .get (.town 16384) {} {}] : List Instr), i.wf = false := by decide +kernel

theorem test_descriptors_refused :
    ∀ d ∈ ([{ opc := 256 }, { flg := 256 }, { tag := 65536 }, { ksp := 65536 }, { klen := 65536 }, { vlen := 4294967296 }, { vsglCnt := 65536 }, { rsglCnt := 65536 },
      { offset := 2 ^ 64 }, { cond := 2 ^ 64 }, { snap := 2 ^ 64 }, { vsglPtr := 2 ^ 64 }, { rsglPtr := 2 ^ 64 }, { key40 := List.replicate 41 0#8 },
      { vsglInl := ⟨2 ^ 64, 0, 0⟩ }, { vsglInl := ⟨0, 4294967296, 0⟩ }, { rsglInl := ⟨0, 0, 4294967296⟩ }] : List Desc), (Instr.put (.ring 0 3) d {}).wf = false := by decide +kernel

theorem test_fetched_refused :
    ∀ x ∈ ([{ key := List.replicate 1025 0#8 }, { vsgl := [⟨2 ^ 64, 0, 0⟩] }, { rsgl := [⟨0, 4294967296, 0⟩] }] : List Fetched),
      (Instr.hostFetchDone 0 x).wf = false := by decide +kernel

theorem test_code_flash_refused :
    ∀ d ∈ ([{ array := 256 }, { array := 0, mode := 256 }, { array := 0, addr := 4294967296 }, { array := 0, len := 4294967296 }, { array := 0, failed := 65536 },
      { array := 0, worst := 256 }] : List CflDesc), (Instr.program d).wf = false := by decide +kernel

theorem test_town_refused :
    ∀ m ∈ ([{ tmsg := 256 }, { tmsg := 4, flags := 256 }, { tmsg := 4, sender := 4294967296 }, { tmsg := 4, epoch := 2 ^ 64 }, { tmsg := 4, term := 4294967296 },
      { tmsg := 4, ward := 1048576 }, { tmsg := 4, arg0 := 2 ^ 64 }, { tmsg := 4, arg1 := 2 ^ 64 }, { tmsg := 4, stamp := 2 ^ 64 }, { tmsg := 4, status := 65536 }] : List TMsg),
      (Instr.heartbeat m).wf = false := by decide +kernel

theorem test_packets_refused :
    ∀ p ∈ ([{ typ := 256 }, { typ := 2, ver := 256 }, { typ := 2, flags := 256 }, { typ := 2, sid := 262144 }, { typ := 2, inc := 65536 }, { typ := 2, plen := 65536 },
      { typ := 2, psn := 4294967296 }, { typ := 2, ackPsn := 4294967296 }, { typ := 2, window := 4294967296 }, { typ := 2, txTs := 2 ^ 64 }, { typ := 2, echoTs := 2 ^ 64 },
      { typ := 2, echoOwd := 4294967296 }, { typ := 2, msgId := 4294967296 }, { typ := 2, valOff := 4294967296 }, { typ := 2, keyGen := 256 }, { typ := 2, srcInc := 65536 },
      { typ := 2, invoc := 4294967296 }, { typ := 2, sack := List.replicate 33 (0, 0) }] : List YPacket), (Instr.data p).wf = false := by decide +kernel

theorem test_frames_refused :
    (∀ f ∈ ([{ frame with dst := 2 ^ 48 }, { frame with src := 2 ^ 48 }, { frame with ethertype := 65536 }, { frame with vid := some 4096 }, { frame with udp := some 65536 }] : List Frame),
      (Instr.frameReceive 0 f).wf = false) ∧
    (∀ m ∈ ([{ seq := 65536, lanes := 4, src := 0 }, { seq := 0, lanes := 256, src := 0 }, { seq := 0, lanes := 4, cause := 256, src := 0 },
      { seq := 0, lanes := 4, switchCw := 4294967296, src := 0 }, { seq := 0, lanes := 4, src := 2 ^ 48 }] : List ParkMsg), (Instr.parkReq 0 m).wf = false) := by decide +kernel

theorem test_operands_refused :
    ∀ i ∈ ([.stagedIdleTimeout 4294967296, .leaseExpiry 0 (2 ^ 64), .updateChunk 0 {} {} [true], .swapReturn 0 (.value (2 ^ 64)), .doorbellReadDone 0 3 65536 0,
      .doorbellReadDone 0 3 0 65536, .descriptorFetch 0 3 [[0#8]], .leafWriteBack 0 0 256, .rawReadGo 2, .blockErase 0 1048576, .sessionOpen ⟨0, 0⟩ 4294967296 [],
      .requestDispatch 0 4294967296, .requestRecordExpiry 4294967296 0, .requestRecordExpiry 0 (2 ^ 64), .heartbeatMiss 4294967296, .memberFailedDeclare 4294967296,
      .ptpAnnounce 256 { clockId := 0, priority1 := 0, cls := 0, accuracy := 0, variance := 0, priority2 := 0, steps := 0 }, .ptpMessageSend 3, .ptpTodSet (2 ^ 48),
      .fwTransmit 0 65536 [], .mdioGo (2 ^ 64), .mdioDone 65536, .dieSensorRead (List.replicate 33 0), .externalSensorRead 64 none, .externalSensorRead 0 (some 65536),
      .detectDone 0 [1], .cflOperationDone 3 true 0, .bankExecWrite 4294967296, .cflBusFault 0 .load (2 ^ 64) false, .mgmtMessage 0 0 [], .recoveryData 4294967296 0 [],
      .recoveryData 0 0 (List.replicate 1025 0#8), .recoveryQuery 4294967296, .recoveryPiece 65536 0, .eventReport 256 0 0 0, .eventReport 0 65536 0 0, .eventReport 0 0 (2 ^ 96) 0,
      .eventReport 0 0 0 (2 ^ 64), .evtCursorWrite .sup 4294967296, .stwSelect .sup (2 ^ 64), .coldStart 32 false, .startStageDone { dram := List.replicate 9 (none, 0) },
      .startStageDone { luns := [{ n := 8192, pages := [] }] }, .supRelease 4294967296, .registerLatchingRead .sup 0 2, .registerWrite .sup 0 4 4294967296, .registerWrite .sup 0 3 0,
      .registerWrite .sup (2 ^ 64) 4 0, .vfEnableSet 256] : List Instr), i.wf = false := by decide +kernel

/-- Ordinary commands are well formed. -/
theorem test_commands_accepted :
    ∀ i ∈ ([.get (.ring 255 63) (onKey 0) {}, .identify 0 (cmd [] 0) {}, .put (.town 16383) (onKey 4) { value := [1#8] }, .lunRelease 8191, .frameReceive 8 frame,
      .registerWrite (.func 0) 0x80000 4 0x03020106, .data (packet 2), .heartbeat { tmsg := 4, sender := 2 }, .program { array := 1 }] : List Instr), i.wf = true := by decide +kernel

/-! ### The words of the table -/

/-- The table gives no row any bits, so no word spells a command, and nothing is put before the queue. -/
theorem test_no_word : decodeTableWord 0 0 = none ∧ decodeTableWord 32 7 = none ∧ (host.withFetchWord 32 7) = host := by decide +kernel

end Sys2Proof.Tests
end

section
/-!
SUPPORT. The scope of the block (chapter 00): the frame of every command.
-/

namespace Sys2Proof.Safety

open Sys2Proof.Machine

/-- A meaning that answers through `done` keeps what lies outside the reach it names. -/
theorem done_keeps (ps : List Part) (ns : List RegName) (s u : State) : ∃ t, done ps ns s u = .next t ∧ Keeps ps ns s t :=
  ⟨_, rfl, keeps_reach ps ns s u⟩

/-- Settles O6: every arm of `exec` answers through `done`, with the reach that `reachOf` lists for its command. -/
theorem everyCommandKeepsWhatLiesOutsideItsReach : Obligations.EveryCommandKeepsWhatLiesOutsideItsReach := by
  unfold Obligations.EveryCommandKeepsWhatLiesOutsideItsReach
  intro i s
  cases i <;> exact done_keeps _ _ s _

end Sys2Proof.Safety
end

section
/-!
SUPPORT. Fields of a register under several updates, the interrupt controller's choice, the release of the secondary cores, and the set-up lock.
-/

namespace Sys2Proof.Machine

/-! ### Fields of a register -/

/-- Two fields share no bit. -/
def FieldDef.Apart (f g : FieldDef) : Prop := f.lsb + f.w ≤ g.lsb ∨ g.lsb + g.w ≤ f.lsb

theorem FieldDef.Apart.symm {f g : FieldDef} (h : f.Apart g) : g.Apart f := Or.symm h

/-- The fields of a register share no bit (R765). -/
theorem RegName.fields_apart (n : RegName) : n.fields.Pairwise FieldDef.Apart := by
  unfold FieldDef.Apart
  cases n <;> decide

theorem RegName.apart_of_ne {n : RegName} {f g : FieldDef} (hf : f ∈ n.fields) (hg : g ∈ n.fields) (h : f ≠ g) : f.Apart g :=
  by
  have : Std.Symm FieldDef.Apart := ⟨fun _ _ => FieldDef.Apart.symm⟩
  exact n.fields_apart.forall hf hg h

/-- The fields `l` with a value each, in the form that `overlayFields` takes. -/
def withValues (l : List FieldDef) (val : FieldDef → Nat) : List (Nat × Nat × Nat) := l.map fun f => (f.lsb, f.w, val f)

theorem overlayFields_cons (v : Nat) (f : FieldDef) (l : List FieldDef) (val : FieldDef → Nat) :
    overlayFields v (withValues (f :: l) val) = overlayFields (setBits v f.lsb f.w (val f)) (withValues l val) := rfl

/-- Laying fields over a value leaves a field apart from all of them. -/
theorem bits_overlay_apart {l : List FieldDef} {g : FieldDef} (v : Nat) (val : FieldDef → Nat) (h : ∀ f ∈ l, f.Apart g) :
    bits (overlayFields v (withValues l val)) g.lsb g.w = bits v g.lsb g.w := by
  induction l generalizing v with
  | nil => rfl
  | cons f l ih =>
    rw [overlayFields_cons, ih _ fun e he => h e (List.mem_cons_of_mem _ he)]
    exact bits_setBits_disjoint _ _ _ _ _ _ (h f List.mem_cons_self).symm

/-- Each of several fields apart holds the value laid over it. -/
theorem bits_overlay_mem {l : List FieldDef} {g : FieldDef} (v : Nat) (val : FieldDef → Nat) (hl : l.Pairwise FieldDef.Apart) (hg : g ∈ l) :
    bits (overlayFields v (withValues l val)) g.lsb g.w = val g % 2 ^ g.w := by
  induction l generalizing v with
  | nil => cases hg
  | cons f l ih =>
    obtain ⟨hf, hl⟩ := List.pairwise_cons.1 hl
    rw [overlayFields_cons]
    by_cases h : g ∈ l
    · exact ih _ hl h
    · obtain rfl : g = f := (List.mem_cons.1 hg).resolve_right h
      rw [bits_overlay_apart _ _ fun e he => (hf e he).symm, bits_setBits_same]

/-! ### A write's effect on each field (R12, R13) -/

theorem fieldNext_lt (n : RegName) (lock : Bool) (old v m : Nat) (f : FieldDef) : fieldNext n lock old v m f < 2 ^ f.w := by
  have hx := bits_lt (mergeBits old v m) f.lsb f.w
  have ho := bits_lt old f.lsb f.w
  unfold fieldNext
  have hp : (if f.enc.ok f.w (bits (mergeBits old v m) f.lsb f.w) then bits (mergeBits old v m) f.lsb f.w else bits old f.lsb f.w) < 2 ^ f.w := by
    split <;> assumption
  cases f.acc with
  | rw => exact hp
  | rwl => cases lock <;> assumption
  | wo =>
    dsimp only
    split <;> assumption
  | w1c => exact (Nat.sub_le _ _).trans_lt ho
  | ro => exact ho
  | w1s => exact ho
  | rc => exact ho

theorem bits_fieldsNext (n : RegName) (lock : Bool) (old v m : Nat) {f : FieldDef} (hf : f ∈ n.fields) :
    bits (fieldsNext n lock old v m) f.lsb f.w = fieldNext n lock old v m f :=
  (bits_overlay_mem old (fieldNext n lock old v m) n.fields_apart hf).trans (Nat.mod_eq_of_lt (fieldNext_lt n lock old v m f))

/-! ### RC fields (R13) -/

/-- A read that clears RC fields leaves each of them at `State.rcAfter`, and the other fields as they were. -/
theorem State.clearRc_bits (s : State) (k : RegKey) {f : FieldDef} (hf : f ∈ k.name.fields) :
    bits ((s.clearRc k).reg k) f.lsb f.w = if f.acc = .rc then s.rcAfter k.name f % 2 ^ f.w else bits (s.reg k) f.lsb f.w := by
  unfold State.clearRc
  extract_lets fs
  have hfs : ∀ g, g ∈ fs ↔ g ∈ k.name.fields ∧ g.acc = .rc := fun g => by simp [fs]
  split
  · next he =>
    have hn : f.acc ≠ .rc := fun h => by simpa [List.isEmpty_iff.1 he] using (hfs f).2 ⟨hf, h⟩
    rw [if_neg hn]
  · rw [State.reg_setReg, if_pos rfl]
    by_cases h : f.acc = .rc
    · rw [if_pos h]
      exact bits_overlay_mem _ (s.rcAfter k.name) (k.name.fields_apart.filter _) ((hfs f).2 ⟨hf, h⟩)
    · rw [if_neg h]
      refine bits_overlay_apart _ (s.rcAfter k.name) fun g hg => ?_
      obtain ⟨hg, hr⟩ := (hfs g).1 hg
      exact RegName.apart_of_ne hg hf fun e => h (e ▸ hr)

theorem State.clearRc_reg_other (s : State) {k q : RegKey} (h : q ≠ k) : (s.clearRc k).reg q = s.reg q := by
  unfold State.clearRc
  extract_lets fs
  split
  · rfl
  · rw [State.reg_setReg, if_neg h]

theorem State.clearRc_out (s : State) (k : RegKey) : (s.clearRc k).out = s.out := by
  unfold State.clearRc
  extract_lets fs
  split <;> rfl

theorem State.clearRc_latches (s : State) (k : RegKey) : (s.clearRc k).latches = s.latches := by
  unfold State.clearRc
  extract_lets fs
  split <;> rfl

theorem State.clearRc_upd (s : State) (k : RegKey) : (s.clearRc k).upd = s.upd := by
  unfold State.clearRc
  extract_lets fs
  split <;> rfl

/-! ### The interrupt controller (R758) -/

/-- A round of the choice among sources by the priority `p`: 0 stands for none yet. -/
def betterOf (p : Nat → Nat) (b n : Nat) : Nat := if b = 0 ∨ p b < p n then n else b

/-- `r` is the source that comes first among those of `P`: the highest priority, the lowest number among equals. -/
def First (p : Nat → Nat) (P : Nat → Prop) (r : Nat) : Prop := ∀ i, P i → p i ≤ p r ∧ (p i = p r → r ≤ i)

/-- The choice along rising numbers, from a source `b` below them or from none. -/
theorem foldl_betterOf (p : Nat → Nat) (l : List Nat) (b : Nat) (hl : l.Pairwise (· < ·)) (hb : ∀ i ∈ l, b < i) :
    (l.foldl (betterOf p) b = b ∨ l.foldl (betterOf p) b ∈ l) ∧ First p (fun i => i = b ∧ b ≠ 0 ∨ i ∈ l) (l.foldl (betterOf p) b) := by
  induction l generalizing b with
  | nil => exact ⟨.inl rfl, fun i hi => by obtain rfl : i = b := by simpa using (hi.resolve_right (by simp)).1
                                           simp⟩
  | cons a l ih =>
    obtain ⟨hal, hl⟩ := List.pairwise_cons.1 hl
    have hba := hb a List.mem_cons_self
    rw [List.foldl_cons]
    by_cases h : b = 0 ∨ p b < p a
    · rw [show betterOf p b a = a from if_pos h]
      obtain ⟨hm, hf⟩ := ih a hl hal
      have ha := hf a (.inl ⟨rfl, by omega⟩)
      refine ⟨.inr (List.mem_cons.2 hm), fun i hi => ?_⟩
      rcases hi with ⟨rfl, hi⟩ | hi
      · have := h.resolve_left hi
        omega
      · rcases List.mem_cons.1 hi with rfl | hi
        · exact ha
        · exact hf i (.inr hi)
    · rw [show betterOf p b a = b from if_neg h]
      obtain ⟨hm, hf⟩ := ih b hl fun i hi => hb i (List.mem_cons_of_mem _ hi)
      have hb' := hf b (.inl ⟨rfl, by omega⟩)
      refine ⟨hm.imp id (List.mem_cons_of_mem _), fun i hi => ?_⟩
      rcases hi with hi | hi
      · exact hf i (.inl hi)
      · rcases List.mem_cons.1 hi with rfl | hi
        · constructor
          · omega
          · intro he
            have := hb'.2 (by omega)
            omega
        · exact hf i (.inr hi)

theorem State.irqPending_zero (s : State) : s.irqPending 0 = false := by
  simp [State.irqPending, State.irqRaw]

theorem State.mem_irqReady (s : State) (ctx t n : Nat) : n ∈ s.irqReady ctx t ↔
    n < 64 ∧ s.irqPending n = true ∧ bitAt (tableGet s.sup.plic.enable ctx) n = true ∧ t < tableGet s.sup.plic.prio n := by
  simp [State.irqReady, and_assoc]

/-- The source that a claim takes pends, is enabled, and comes first among those that pend and are enabled. -/
theorem State.irqBest_first (s : State) (ctx : Nat) (h : s.irqBest ctx ≠ 0) :
    s.irqBest ctx ∈ s.irqReady ctx 0 ∧ First (tableGet s.sup.plic.prio) (· ∈ s.irqReady ctx 0) (s.irqBest ctx) := by
  have hl : (s.irqReady ctx 0).Pairwise (· < ·) := List.pairwise_lt_range.filter _
  have h0 : ∀ i ∈ s.irqReady ctx 0, 0 < i := by
    intro i hi
    obtain ⟨-, hp, -⟩ := (s.mem_irqReady ctx 0 i).1 hi
    refine Nat.pos_of_ne_zero fun e => ?_
    rw [e, State.irqPending_zero] at hp
    cases hp
  obtain ⟨hm, hf⟩ := foldl_betterOf (tableGet s.sup.plic.prio) (s.irqReady ctx 0) 0 hl h0
  exact ⟨hm.resolve_left h, fun i hi => hf i (.inr hi)⟩

/-! ### The secondary cores (R763, R764) -/

theorem execRegion_congr {s t : State} (hr : s.regs = t.regs) (hc : s.cfl = t.cfl) (he : s.ev = t.ev) (a : Nat) :
    s.execRegion a = t.execRegion a := by
  unfold State.execRegion State.busFaults State.flag State.fget State.reg
  rw [hr, hc, he]

/-- The record of a core as its release makes it: at its entry, faulted where nothing can be executed there. -/
def State.released (s : State) (n : Nat) : SupCore :=
  ⟨n, s.fget .glbSupEntry_addr * 4, if s.execRegion (s.fget .glbSupEntry_addr * 4) = true then none else some (.fetch, s.fget .glbSupEntry_addr * 4)⟩

theorem State.releaseCore_running {s : State} {n : Nat} (h : s.coreRuns n = true) : s.releaseCore n = s := if_pos h

/-- The release of a core that does not run adds its record. -/
theorem State.releaseCore_cores {s : State} {n : Nat} (h : s.coreRuns n = false) : (s.releaseCore n).sup.cores = s.sup.cores ++ [s.released n] := by
  have hn : ∀ c ∈ s.sup.cores, (c.n == n) = false := by simpa [State.coreRuns] using h
  unfold State.releaseCore State.released
  rw [h]
  dsimp only
  rw [if_neg (by decide)]
  split
  · next hx =>
    have hx : s.execRegion (s.fget .glbSupEntry_addr * 4) = true := hx
    rw [if_pos hx]
  · next hx =>
    have hx : ¬ s.execRegion (s.fget .glbSupEntry_addr * 4) = true := hx
    rw [if_neg hx]
    show updWhere _ _ (s.sup.cores ++ [_]) = _
    rw [updWhere, List.map_append]
    congr 1
    · exact updWhere_id _ _ _ hn
    · simp

theorem State.releaseCore_frame (s : State) (n : Nat) :
    (s.releaseCore n).regs = s.regs ∧ (s.releaseCore n).cfl = s.cfl ∧ (s.releaseCore n).ev = s.ev := by
  unfold State.releaseCore
  split
  · exact ⟨rfl, rfl, rfl⟩
  · dsimp only
    split <;> exact ⟨rfl, rfl, rfl⟩

/-- A state `t` after the cores that `p` names among those of `l` were released from `s`. -/
structure ReleasedFrom (s : State) (p : Nat → Prop) (t : State) : Prop where
  runs : ∀ n, t.coreRuns n = true ↔ s.coreRuns n = true ∨ p n
  keeps : ∀ c ∈ s.sup.cores, c ∈ t.sup.cores
  adds : ∀ n, p n → s.coreRuns n = false → s.released n ∈ t.sup.cores

theorem State.coreRuns_iff (s : State) (n : Nat) : s.coreRuns n = true ↔ ∃ c ∈ s.sup.cores, c.n = n := by
  simp [State.coreRuns]

theorem State.releaseCore_from (s : State) (n : Nat) : ReleasedFrom s (· = n) (s.releaseCore n) := by
  by_cases h : s.coreRuns n = true
  · rw [State.releaseCore_running h]
    exact ⟨fun m => ⟨.inl, fun hm => hm.elim id fun e => e ▸ h⟩, fun _ hc => hc, fun m e hm => by rw [e, h] at hm; cases hm⟩
  · have hc := State.releaseCore_cores (Bool.eq_false_iff.2 h)
    refine ⟨fun m => ?_, fun c hm => ?_, fun m e _ => ?_⟩
    · rw [State.coreRuns_iff, State.coreRuns_iff, hc]
      simp only [List.mem_append, List.mem_singleton, or_and_right, exists_or, exists_eq_left]
      exact or_congr_right ⟨Eq.symm, Eq.symm⟩
    · rw [hc]
      exact List.mem_append_left _ hm
    · rw [hc, e]
      simp

theorem ReleasedFrom.trans {s t u : State} {p q : Nat → Prop} (h : ReleasedFrom s p t) (k : ReleasedFrom t q u)
    (hr : ∀ n, t.released n = s.released n) : ReleasedFrom s (fun n => p n ∨ q n) u := by
  refine ⟨fun n => by rw [k.runs, h.runs, or_assoc], fun c hc => k.keeps c (h.keeps c hc), fun n hn hs => ?_⟩
  by_cases hp : p n
  · exact k.keeps _ (h.adds n hp hs)
  · rw [← hr]
    refine k.adds n (hn.resolve_left hp) (Bool.eq_false_iff.2 fun ht => ?_)
    rcases (h.runs n).1 ht with hs' | hp'
    · rw [hs] at hs'; cases hs'
    · exact hp hp'

theorem ReleasedFrom.refl (s : State) {p : Nat → Prop} (hp : ∀ n, ¬ p n) : ReleasedFrom s p s :=
  ⟨fun n => ⟨.inl, fun h => h.resolve_right (hp n)⟩, fun _ hc => hc, fun n h => absurd h (hp n)⟩

theorem ReleasedFrom.congr {s t : State} {p q : Nat → Prop} (h : ReleasedFrom s p t) (hpq : ∀ n, p n ↔ q n) : ReleasedFrom s q t := by
  rwa [show q = p from funext fun n => propext (hpq n).symm]

/-- The cores of a list that a write to GLB_SUP_RELEASE names are released, one after another. -/
theorem releaseCores_foldl (v : Nat) (l : List Nat) (s : State) :
    ReleasedFrom s (fun n => n ∈ l ∧ 1 ≤ n ∧ bitAt v n = true) (l.foldl (fun s n => if 1 ≤ n ∧ bitAt v n then s.releaseCore n else s) s) := by
  induction l generalizing s with
  | nil => exact ReleasedFrom.refl s (by simp)
  | cons a l ih =>
    rw [List.foldl_cons]
    split
    · next ha =>
      obtain ⟨hr, hc, he⟩ := s.releaseCore_frame a
      have hrel : ∀ n, (s.releaseCore a).released n = s.released n := fun n => by
        unfold State.released
        rw [State.fget_congr hr, execRegion_congr hr hc he]
      refine ((s.releaseCore_from a).trans (ih _) hrel).congr fun n => ?_
      constructor
      · rintro (rfl | ⟨hn, h⟩)
        · exact ⟨List.mem_cons_self, ha⟩
        · exact ⟨List.mem_cons_of_mem _ hn, h⟩
      · rintro ⟨hn, h⟩
        exact (List.mem_cons.1 hn).imp id fun hn => ⟨hn, h⟩
    · next ha =>
      refine (ih s).congr fun n => ⟨fun ⟨hn, h⟩ => ⟨List.mem_cons_of_mem _ hn, h⟩, fun ⟨hn, h⟩ => ⟨?_, h⟩⟩
      refine (List.mem_cons.1 hn).resolve_left fun e => ha ?_
      exact e ▸ h

theorem State.releaseCores_from (s : State) (v : Nat) : ReleasedFrom s (fun n => 1 ≤ n ∧ n < 8 ∧ bitAt v n = true) (s.releaseCores v) :=
  (releaseCores_foldl v (List.range 8) s).congr fun n => by rw [List.mem_range]; tauto

/-! ### The set-up lock (R759) -/

/-- Writing a field leaves every other register. -/
theorem State.reg_fput_other (s : State) (x : Fld) (v i j k : Nat) {q : RegKey} (h : q ≠ x.at i j k) : (s.fput x v i j k).reg q = s.reg q := by
  unfold State.fput
  rw [State.reg_setReg, if_neg h]

theorem State.setLock_lock (s : State) : (s.setLock).flag .glbSetupLock_lock = true := by
  unfold State.setLock
  split
  · assumption
  · unfold State.flag
    rw [State.fget_fput_same]
    rfl

theorem State.setLock_again {s : State} (h : s.flag .glbSetupLock_lock = true) : s.setLock = s := if_pos h

theorem State.setLock_denied (s : State) : s.setLock.fget .glbSetupLock_denied = s.fget .glbSetupLock_denied := by
  unfold State.setLock
  split
  · rfl
  · exact State.fget_fput_field _ _ _ _ _ _ _ rfl (Or.inr (by decide))

theorem State.setLock_other (s : State) {q : RegKey} (h : q ≠ ⟨.glbSetupLock, 0, 0, 0⟩) : s.setLock.reg q = s.reg q := by
  unfold State.setLock
  split
  · rfl
  · exact State.reg_fput_other _ _ _ _ _ _ h

end Sys2Proof.Machine
end

section
/-!
SUPPORT. The held words (R754): every command that a write can carry leaves them, but for the restart of GLB_RESET_CTRL. One lemma for each operation
that such a command is made of.
-/

namespace Sys2Proof.Machine

/-! ### The shapes of a meaning -/

/-- What every round of a fold keeps, the fold keeps. -/
theorem foldl_keeps {α β γ : Type} (p : β → γ) (g : β → α → β) (l : List α) (b : β) (h : ∀ x a, p (g x a) = p x) : p (l.foldl g b) = p b := by
  induction l generalizing b with
  | nil => rfl
  | cons a l ih => rw [List.foldl_cons, ih, h]

@[simp] theorem foldl_held {α : Type} (g : State → α → State) (l : List α) (s : State) (h : ∀ u a, (g u a).held = u.held) :
    (l.foldl g s).held = s.held := foldl_keeps State.held g l s h

@[simp] theorem held_ite (c : Prop) [Decidable c] (s t : State) : (if c then s else t).held = if c then s.held else t.held := apply_ite State.held c s t

@[simp] theorem when_held (c : Bool) (g : State → State) (s : State) (h : ∀ u, (g u).held = u.held) : (when c g s).held = s.held := by
  cases c
  · rfl
  · exact h s

theorem State.elim_held {s : State} {o : Option (Nat × State)} (h : ∀ x, o = some x → x.2.held = s.held) :
    (o.elim s fun x => x.2).held = s.held := by
  cases o with
  | none => rfl
  | some x => exact h x rfl

/-! ### Time and ports -/

@[simp] theorem State.tookStamp_held (s : State) (v : Nat) : (s.tookStamp v).held = s.held := by simp [State.tookStamp]

@[simp] theorem State.ptpOff_held (s : State) : (s.ptpOff).held = s.held := by simp [State.ptpOff]

@[simp] theorem State.ptpBegin_held (s : State) : (s.ptpBegin).held = s.held := by simp [State.ptpBegin]

@[simp] theorem State.netCount_held (s : State) (p c : Nat) (n : Nat) : (s.netCount p c n).held = s.held := by simp [State.netCount]

@[simp] theorem State.countTx_held (s : State) (p : Nat) (f : TxFrame) : (s.countTx p f).held = s.held := by
  unfold State.countTx
  dsimp only
  split <;> simp

@[simp] theorem State.bringUp_held (s : State) (p : Nat) : (s.bringUp p).held = s.held := by simp [State.bringUp]

@[simp] theorem State.portClear_held (s : State) (p : Nat) : (s.portClear p).held = s.held := by simp [State.portClear]

@[simp] theorem State.linkDown_held (s : State) (p : Nat) : (s.linkDown p).held = s.held := by simp [State.linkDown]

@[simp] theorem State.toBank_held (s : State) (p b : Nat) : (s.toBank p b).held = s.held := by simp [State.toBank]

@[simp] theorem State.sendPark_held (s : State) (p msg seq lanes cause x : Nat) : (s.sendPark p msg seq lanes cause x).held = s.held := by simp [State.sendPark]

@[simp] theorem State.sendReq_held (s : State) (p : Nat) (restore : Bool) (lanes since : Nat) :
    (s.sendReq p restore lanes since).held = s.held := by simp [State.sendReq]

@[simp] theorem State.parkNext_held (s : State) (p : Nat) : (s.parkNext p).held = s.held := by simp [State.parkNext]

@[simp] theorem State.portsActive_held (s : State) : (s.portsActive).held = s.held := by simp [State.portsActive]

@[simp] theorem State.leaveNap_held (s : State) : (s.leaveNap).held = s.held := by simp [State.leaveNap]

/-! ### Flash -/

@[simp] theorem State.updateSpace_held (s : State) : (s.updateSpace).held = s.held := by simp [State.updateSpace]

@[simp] theorem State.epochEnter_held (s : State) : (s.epochEnter).held = s.held := by simp [State.epochEnter]

@[simp] theorem State.epochLeave_held (s : State) (e : Nat) : (s.epochLeave e).held = s.held := by simp [State.epochLeave]

@[simp] theorem State.queueOp_held (s : State) (kind : NandKind) (addr : Nat) (why : NandFor) (cls rank : Nat) (item : Nat) (shares : Bool) :
    (s.queueOp kind addr why cls rank item shares).held = s.held := by
  unfold State.queueOp
  split <;> simp

theorem State.openSet_held {s : State} {st : Stream} {may : Bool} {r : Nat × State} (h : s.openSet st may = some r) : r.2.held = s.held := by
  unfold State.openSet at h
  extract_lets w luns wseq par data blocks t u at h
  split at h
  · cases h
  · obtain rfl := Option.some.inj h
    exact (State.updateSpace_held _).trans ((foldl_held _ _ _ fun v (b : Nat × Nat) => v.modBlock_held b.1 b.2 _).trans rfl)

@[simp] theorem State.movePtr_held (s : State) (w newPtr : Nat) (rank : Nat) : (s.movePtr w newPtr rank).held = s.held := by
  unfold State.movePtr
  split <;> simp

@[simp] theorem State.padStep_held (s : State) (w : Nat) : (s.padStep w).held = s.held := by
  unfold State.padStep
  split
  · rfl
  · split
    · rfl
    · exact s.movePtr_held _ _ _

@[simp] theorem State.padSet_held (s : State) (w rank : Nat) : (s.padSet w rank).held = s.held := by simp [State.padSet]

theorem State.place_held {s : State} {st : Stream} {units ksp rank : Nat} {whole may : Bool} {r : Nat × Nat × State}
    (h : s.place st units ksp whole rank may = some r) : r.2.2.held = s.held := by
  unfold State.place at h
  extract_lets put fresh at h
  have hput : ∀ t u r, put t u = some r → r.2.2.held = u.held := by
    intro t u r h
    obtain ⟨p, -, h⟩ := Option.bind_eq_some_iff.1 h
    split at h
    · obtain rfl := Option.some.inj h
      exact State.movePtr_held _ _ _ _
    · cases h
  have hfresh : ∀ u r, fresh u = some r → r.2.2.held = u.held := by
    intro u r h
    obtain ⟨⟨w, v⟩, ho, h⟩ := Option.bind_eq_some_iff.1 h
    obtain ⟨t, -, h⟩ := Option.bind_eq_some_iff.1 h
    exact (hput t v r h).trans (State.openSet_held ho)
  split at h
  · exact hfresh s r h
  · split at h
    · exact hput _ _ _ h
    · exact (hfresh _ _ h).trans (s.padSet_held _ _)

theorem State.store_held {s : State} {st : Stream} {i : Item} {whole may : Bool} {rank : Nat} {r : Nat × State}
    (h : s.store st i whole rank may = some r) : r.2.held = s.held := by
  obtain ⟨x, hx, rfl⟩ := Option.map_eq_some_iff.1 h
  exact State.place_held hx

@[simp] theorem State.freeEntry_held (s : State) (id : Nat) : (s.freeEntry id).held = s.held := by simp [State.freeEntry]

theorem State.storeExtents_held {st : Stream} {ksp rank : Nat} {may : Bool} {r : List (Nat × Nat) × State} (l : List (Nat × Bytes)) :
    ∀ {s : State} {acc : List (Nat × Nat)}, s.storeExtents st ksp rank l acc may = some r → r.2.held = s.held := by
  induction l with
  | nil =>
    intro s acc h
    obtain rfl := Option.some.inj h
    rfl
  | cons x l ih =>
    intro s acc h
    unfold State.storeExtents at h
    split at h
    · cases h
    · next hs => exact (ih h).trans (State.store_held hs)

/-! ### Rings and the ends of operations -/

@[simp] theorem State.sendMsix_held (s : State) (f v : Nat) : (s.sendMsix f v).held = s.held := by simp [State.sendMsix]

@[simp] theorem State.coalesce_held (s : State) (f n : Nat) (now : Bool) : (s.coalesce f n now).held = s.held := by simp [State.coalesce]

@[simp] theorem State.postEntry_held (s : State) (f n tag status rlen rstamp origin gen : Nat) (now : Bool) :
    (s.postEntry f n tag status rlen rstamp origin gen now).held = s.held := by simp [State.postEntry]

@[simp] theorem State.releaseCtx_held (s : State) (c : OpCtx) : (s.releaseCtx c).held = s.held := by
  unfold State.releaseCtx
  extract_lets u v
  have hu : u.held = s.held := by
    unfold u
    split <;> rfl
  have hv : v.held = u.held := foldl_held _ _ _ fun _ _ => rfl
  exact hv.trans hu

@[simp] theorem State.sendMsg_held (s : State) (slot : Nat) (h : YHead) (body : Bytes) (ctx : Option Nat) (res : Nat) :
    (s.sendMsg slot h body ctx res).held = s.held := by simp [State.sendMsg]

@[simp] theorem State.sendTown_held (s : State) (member : Nat) (m : TMsg) : (s.sendTown member m).held = s.held := by
  unfold State.sendTown
  dsimp only
  split <;> simp

@[simp] theorem State.placeResult_held (s : State) (c : OpCtx) (ps : List (Nat × Bytes)) : (s.placeResult c ps).held = s.held := by
  unfold State.placeResult
  split
  · rfl
  · extract_lets u
    have hu : u.held = s.held := foldl_held _ _ _ fun _ _ => foldl_held _ _ _ fun _ _ => rfl
    split
    · exact (u.report_held _ _ _).trans hu
    · exact hu

@[simp] theorem State.completeRing_held (s : State) (c : OpCtx) (f n : Nat) (r : Res) : (s.completeRing c f n r).held = s.held := by
  unfold State.completeRing
  dsimp only
  rw [held_ite, held_ite, State.modRing_held, State.rp_held, State.postEntry_held, ite_self, ite_self]

@[simp] theorem State.replyTo_held (s : State) (c : OpCtx) (slot msgId : Nat) (r : Res) (ps : List (Nat × Bytes)) :
    (s.replyTo c slot msgId r ps).held = s.held := by simp [State.replyTo]

@[simp] theorem State.finishAt_held (s : State) (c : OpCtx) (r : Res) (ps : List (Nat × Bytes)) : (s.finishAt c r ps).held = s.held := by
  unfold State.finishAt
  split <;> simp

@[simp] theorem State.finish_held (s : State) (c : OpCtx) (r : Res) (ps : List (Nat × Bytes)) : (s.finish c r ps).held = s.held := by simp [State.finish]

@[simp] theorem State.fail_held (s : State) (c : OpCtx) (st : Nat) : (s.fail c st).held = s.held := by simp [State.fail]

@[simp] theorem State.abandonEntry_held (s : State) : (s.abandonEntry).held = s.held := by
  unfold State.abandonEntry
  split
  · rfl
  · extract_lets nap power u v
    have hv : v.held = s.held := by
      unfold v
      split
      · exact u.portsActive_held
      · rfl
    split
    · exact (v.finish_held _ _ _).trans hv
    · exact hv

@[simp] theorem State.breakSlumber_held (s : State) : (s.breakSlumber).held = s.held := by simp [State.breakSlumber]

theorem State.addEntry_held {s : State} {e : TunEntry} {filling : Bool} {r : Nat × State} (h : s.addEntry e filling = some r) :
    r.2.held = s.held := by
  obtain ⟨id, -, rfl⟩ := Option.map_eq_some_iff.1 h
  dsimp only
  split
  · rfl
  · exact State.addRow_held _ _ _ _ _

/-! ### Commits and staged values -/

@[simp] theorem State.replicate_held (s : State) (ward stamp : Nat) (ms : List Nat) (es : List TunEntry) (rec_ : Option ReqRecord) :
    (s.replicate ward stamp ms es rec_).held = s.held := by simp [State.replicate]

@[simp] theorem State.commitStep_held (s : State) (c : OpCtx) : (s.commitStep c).held = s.held := by simp [State.commitStep]

@[simp] theorem State.commitCheck_held (s : State) (c : OpCtx) : (s.commitCheck c).held = s.held := by
  unfold State.commitCheck
  split <;> simp

@[simp] theorem State.replicateAll_held (s : State) (wards : List Nat) (rf stamp : Nat) (ms : List Nat) (es : List TunEntry) (rec_ : Option ReqRecord) :
    (s.replicateAll wards rf stamp ms es rec_).held = s.held := by simp [State.replicateAll]

@[simp] theorem State.resolveBatch_held (s : State) (b : Nat) : (s.resolveBatch b).held = s.held := by
  unfold State.resolveBatch
  exact (foldl_held _ _ _ fun u id => u.dropRows_held id true).trans rfl

@[simp] theorem State.dropStaged_held (s : State) (h : Nat) : (s.dropStaged h).held = s.held := by simp [State.dropStaged]

@[simp] theorem State.piecesCheck_held (s : State) : (s.piecesCheck).held = s.held := by simp [State.piecesCheck]

/-! ### Sessions -/

@[simp] theorem State.skErase_held (s : State) (slot dir pos : Nat) : (s.skErase slot dir pos).held = s.held := by simp [State.skErase]

@[simp] theorem State.skPut_held (s : State) (k : SessKey) : (s.skPut k).held = s.held := by simp [State.skPut]

@[simp] theorem State.skPromote_held (s : State) (slot dir gen : Nat) : (s.skPromote slot dir gen).held = s.held := by simp [State.skPromote]

@[simp] theorem State.txRekey_held (s : State) (n : Nat) : (s.txRekey n).held = s.held := by
  unfold State.txRekey
  split <;> simp

@[simp] theorem State.sendPacket_held (s : State) (n : Nat) (p : YPacket) : (s.sendPacket n p).held = s.held := by
  unfold State.sendPacket
  dsimp only
  split <;> simp

@[simp] theorem State.closeRequests_held (s : State) (n : Nat) : (s.closeRequests n).held = s.held := by
  unfold State.closeRequests
  split <;> simp

@[simp] theorem State.closeSlot_held (s : State) (n cause : Nat) : (s.closeSlot n cause).held = s.held := by simp [State.closeSlot]

@[simp] theorem State.sendClose_held (s : State) (n code cause : Nat) : (s.sendClose n code cause).held = s.held := by
  unfold State.sendClose
  split <;> simp

@[simp] theorem State.staleMsgs_held (s : State) (id : Nat) : (s.staleMsgs id).held = s.held := by simp [State.staleMsgs]

/-! ### Tenant keys and the DRBG -/

@[simp] theorem State.setTrk_held (s : State) (t : Nat) (k : Option Nat) : (s.setTrk t k).held = s.held := by simp [State.setTrk]

@[simp] theorem State.putKey_held (s : State) (t slot key wrapped : Nat) (dist : Bool) :
    (s.putKey t slot key wrapped dist).held = s.held := by simp [State.putKey]

@[simp] theorem State.dropKey_held (s : State) (t slot : Nat) : (s.dropKey t slot).held = s.held := by simp [State.dropKey]

@[simp] theorem State.bindKey_held (s : State) (t slot kcv : Nat) : (s.bindKey t slot kcv).held = s.held := by simp [State.bindKey]

@[simp] theorem State.emptyReads_held (s : State) (t slot : Nat) : (s.emptyReads t slot).held = s.held := by simp [State.emptyReads]

@[simp] theorem State.closeTenant_held (s : State) (t : Nat) : (s.closeTenant t).held = s.held := by simp [State.closeTenant]

@[simp] theorem State.zeroPage_held (s : State) (t : Nat) : (s.zeroPage t).held = s.held := by simp [State.zeroPage]

@[simp] theorem State.clearPage_held (s : State) (t : Nat) : (s.clearPage t).held = s.held := by simp [State.clearPage]

@[simp] theorem State.pageDone_held (s : State) (f op result : Nat) : (s.pageDone f op result).held = s.held := by simp [State.pageDone]

@[simp] theorem State.drbgStart_held (s : State) : (s.drbgStart).held = s.held := by simp [State.drbgStart]

@[simp] theorem State.rawEnded_held (s : State) (status step table corrected : Nat) (erased : Bool) (data : Bytes) :
    (s.rawEnded status step table corrected erased data).held = s.held := by simp [State.rawEnded]

/-! ### Changes from other members, and the Ward map -/

theorem State.takeEntries_held {s t : State} {sender : Nat} {es : List TunEntry} (h : s.takeEntries sender es = some t) :
    t.held = s.held := by
  unfold State.takeEntries at h
  extract_lets rec_ es' b units at h
  split at h
  · cases h
  · split at h
    next ids u hf =>
    have hu : u.held = s.held := by
      refine (congrArg (fun x : List Nat × State => x.2.held) hf).symm.trans (foldl_keeps (fun x : List Nat × State => x.2.held) _ es' ([], s) fun acc e => ?_)
      split
      · rfl
      · next ha => exact State.addEntry_held ha
    rw [← Option.some.inj h]
    clear h hf
    clear_value rec_
    refine Eq.trans ?_ hu
    dsimp only
    split
    · rfl
    · split
      · rfl
      · refine State.elim_held fun x hx => ?_
        have hx := State.addEntry_held hx
        exact hx

theorem State.takePiece_held {s t : State} {id handle ksp declared off : Nat} {m : TMsg} {key b : Bytes}
    (h : s.takePiece id m handle ksp key declared off b = some t) : t.held = s.held := by
  obtain ⟨x, hx, rfl⟩ := Option.map_eq_some_iff.1 h
  exact State.storeExtents_held _ hx

@[simp] theorem State.refuseChange_held (s : State) (m : TMsg) : (s.refuseChange m).held = s.held := by simp [State.refuseChange]

theorem State.applyChange_held {s t : State} {id : Nat} {m : TMsg} (h : s.applyChange id m = some t) : t.held = s.held := by
  unfold State.applyChange at h
  split at h
  · split at h
    · cases h
    · obtain ⟨u, hu, rfl⟩ := Option.map_eq_some_iff.1 h
      exact ((State.sendTown_held _ _ _).trans (u.keepRecords_held _)).trans (State.takeEntries_held hu)
  · exact State.takePiece_held h
  · split at h
    · cases h
    · obtain ⟨u, hu, rfl⟩ := Option.map_eq_some_iff.1 h
      exact (u.keepRecords_held _).trans (State.takeEntries_held hu)
  · obtain rfl := Option.some.inj h
    rfl

@[simp] theorem State.takeChange_held (s : State) (m : TMsg) : (s.takeChange m).held = s.held := by
  unfold State.takeChange
  split
  · exact s.refuseChange_held m
  · split
    · cases h : s.applyChange s.kv.nextCtx m with
      | none => rfl
      | some t => exact State.applyChange_held h
    · rfl

@[simp] theorem State.offerEntries_held (s : State) (es : List TunEntry) : (s.offerEntries es).held = s.held := by
  unfold State.offerEntries
  split
  · rfl
  · extract_lets ws rs u v
    have hu : u.held = s.held := foldl_held _ _ _ fun _ _ => rfl
    split
    · exact hu
    · exact (u.replicateAll_held _ _ _ _ _ _).trans hu

@[simp] theorem State.offerWard_held (s : State) (w : Nat) (all : Bool) : (s.offerWard w all).held = s.held := by simp [State.offerWard]

@[simp] theorem State.gainWard_held (s : State) (w : Nat) (all : Bool) : (s.gainWard w all).held = s.held := by simp [State.gainWard]

@[simp] theorem State.loseOp_held (s : State) (c : OpCtx) : (s.loseOp c).held = s.held := by
  unfold State.loseOp
  dsimp only
  split <;> simp

@[simp] theorem State.loseWard_held (s : State) (w : Nat) : (s.loseWard w).held = s.held := by simp [State.loseWard]

@[simp] theorem State.dropWards_held (s : State) : (s.dropWards).held = s.held := by simp [State.dropWards]

@[simp] theorem State.dropReplayed_held (s : State) : (s.dropReplayed).held = s.held := by simp [State.dropReplayed]

@[simp] theorem State.trimAcks_held (s : State) : (s.trimAcks).held = s.held := by
  unfold State.trimAcks
  extract_lets cs u os v
  have hu : u.held = s.held := by
    refine foldl_held _ _ _ fun t c => ?_
    extract_lets rs l t1 t2 t3
    have h2 : t2.held = t.held := (foldl_held _ _ t1 fun v id => v.modEntry_held id _).trans rfl
    have h3 : t3.held = t.held := by
      unfold t3
      split
      · exact h2
      · exact (t2.resolveBatch_held _).trans h2
    split
    · rfl
    · split
      · rfl
      · split
        · exact (t3.commitCheck_held c).trans h3
        · exact h3
  have hv : v.held = u.held := foldl_held _ _ _ fun _ _ => rfl
  exact (State.piecesCheck_held _).trans (hv.trans hu)

@[simp] theorem State.rerouteHall_held (s : State) : (s.rerouteHall).held = s.held := by simp [State.rerouteHall]

@[simp] theorem State.rerouteOps_held (s : State) : (s.rerouteOps).held = s.held := by simp [State.rerouteOps]

@[simp] theorem State.applySettings_held (s : State) (x : Settings) : (s.applySettings x).held = s.held := by simp [State.applySettings]

@[simp] theorem State.closeTown_held (s : State) : (s.closeTown).held = s.held := by simp [State.closeTown]

@[simp] theorem State.sendJoin_held (s : State) : (s.sendJoin).held = s.held := by simp [State.sendJoin]

@[simp] theorem State.ownState_held (s : State) : (s.ownState).held = s.held := by
  unfold State.ownState
  dsimp only
  repeat' split
  all_goals simp

@[simp] theorem State.askLeave_held (s : State) (was : Nat) : (s.askLeave was).held = s.held := by simp [State.askLeave]

@[simp] theorem State.applyMap_held (s : State) (b : MapBody) (epoch : Nat) (full : Bool) : (s.applyMap b epoch full).held = s.held := by
  unfold State.applyMap
  extract_lets old wasMember hadStandby ws ms ks kv1 s1 s2 s3 s4 mine ids lost won s5 s6 s7 gone town8 s8 s9 go town10 s10
  have h2 : s2.held = s.held := by
    unfold s2
    split
    · exact s1.applySettings_held _
    · rfl
  have h3 : s3.held = s2.held := by
    unfold s3
    split
    · exact s2.report_held _ _ _
    · rfl
  have h4 : s4.held = s3.held := s3.ownState_held
  have h5 : s5.held = s4.held := foldl_held _ _ _ fun t w => t.loseWard_held w
  have h6 : s6.held = s5.held := by
    unfold s6
    split
    · rfl
    · exact s5.dropReplayed_held
  have h7 : s7.held = s6.held := foldl_held _ _ _ fun t w => t.gainWard_held w _
  have h9 : s9.held = s8.held := by simp [s9]
  have h10 : (go.foldl (fun s m => s.takeChange m.2) s10).held = s10.held := foldl_held _ _ _ fun t m => t.takeChange_held m.2
  clear_value s7 s9
  calc _ = s10.held := h10
    _ = s9.held := rfl
    _ = s8.held := h9
    _ = s7.held := rfl
    _ = s.held := by rw [h7, h6, h5, h4, h3, h2]

@[simp] theorem State.published_held (s : State) (p : Publish) : (s.published p).held = s.held := by
  unfold State.published
  extract_lets u
  have hu : u.held = s.held := by
    unfold u
    split
    · exact s.sendTown_held _ _
    · rfl
  split
  · exact (u.finish_held _ _ _).trans hu
  · exact hu

@[simp] theorem State.sendEpoch_held (s : State) (p : Publish) : (s.sendEpoch p).held = s.held := by simp [State.sendEpoch]

@[simp] theorem State.publishAs_held (s : State) (p : Publish) : (s.publishAs p).held = s.held := by simp [State.publishAs]

@[simp] theorem State.publishMap_held (s : State) (b : MapBody) : (s.publishMap b).held = s.held := by simp [State.publishMap]

/-! ### Key commands -/

@[simp] theorem State.sendKeys_held (s : State) (t member : Nat) : (s.sendKeys t member).held = s.held := by
  unfold State.sendKeys
  split
  · rfl
  · split
    · exact s.sendTown_held _ _
    · exact s.sendTown_held _ _

@[simp] theorem State.distribute_held (s : State) (t : Nat) : (s.distribute t).held = s.held := by simp [State.distribute]

/-- A command of a key page runs its part, writes its result, and passes the page's keys on. -/
theorem State.pageCommand_held (s : State) (f op : Nat) (g : State → State × Nat) (h : ∀ u, (g u).1.held = u.held) :
    (s.pageCommand f op g).held = s.held := by
  unfold State.pageCommand
  refine when_held _ _ _ fun u => ?_
  dsimp only
  split
  · exact u.pageDone_held _ _ _
  · have hd : ((g u).1.pageDone f op (g u).2).held = u.held := (State.pageDone_held _ _ _ _).trans (h u)
    split
    · exact (State.distribute_held _ _).trans hd
    · exact hd

@[simp] theorem State.loadTrk_held (s : State) (f : Nat) : (s.loadTrk f).held = s.held :=
  s.pageCommand_held _ _ _ fun u => u.setTrk_held _ _

@[simp] theorem State.loadSlot_held (s : State) (f slot : Nat) : (s.loadSlot f slot).held = s.held :=
  s.pageCommand_held _ _ _ fun u => by
    dsimp only
    split
    · rfl
    · split
      · rfl
      · split
        · exact u.putKey_held _ _ _ _ _
        · rfl

@[simp] theorem State.clearSlot_held (s : State) (f slot : Nat) : (s.clearSlot f slot).held = s.held :=
  s.pageCommand_held _ _ _ fun u => (State.emptyReads_held _ _ _).trans (u.dropKey_held _ _)

@[simp] theorem State.clearAll_held (s : State) (f : Nat) : (s.clearAll f).held = s.held :=
  s.pageCommand_held _ _ _ fun u => u.clearPage_held _

@[simp] theorem State.keyCommand_held (s : State) (f op slot : Nat) : (s.keyCommand f op slot).held = s.held := by
  unfold State.keyCommand
  split <;> simp

@[simp] theorem State.skDone_held (s : State) (result : Nat) : (s.skDone result).held = s.held := by simp [State.skDone]

@[simp] theorem State.skLoad_held (s : State) : (s.skLoad).held = s.held := by
  unfold State.skLoad
  refine when_held _ _ _ fun u => ?_
  dsimp only
  split
  · exact u.skDone_held 2
  · split
    · exact u.skDone_held 2
    · split
      · exact (State.skDone_held _ 0).trans (u.skPut_held _)
      · exact u.skDone_held 1

@[simp] theorem State.skZap_held (s : State) : (s.skZap).held = s.held := by
  unfold State.skZap
  refine when_held _ _ _ fun u => ?_
  split
  · exact u.skDone_held 2
  · split
    · exact u.skDone_held 2
    · exact (State.skDone_held _ 0).trans (u.skErase_held _ _ _)

@[simp] theorem State.drbgRestart_held (s : State) : (s.drbgRestart).held = s.held := by simp [State.drbgRestart]

/-! ### Fan channels -/

@[simp] theorem State.chanTo_held (s : State) (c st : Nat) (d : Drive) : (s.chanTo c st d).held = s.held := by simp [State.chanTo]

@[simp] theorem State.chanOff_held (s : State) (c : Nat) : (s.chanOff c).held = s.held := by simp [State.chanOff]

@[simp] theorem State.chanClear_held (s : State) (c : Nat) : (s.chanClear c).held = s.held := by simp [State.chanClear]

@[simp] theorem State.curveApply_held (s : State) (c : Nat) : (s.curveApply c).held = s.held := by simp [State.curveApply]

@[simp] theorem State.clearChop_held (s : State) : (s.clearChop).held = s.held := by simp [State.clearChop]

/-! ### Joining, ports and the code flash -/

@[simp] theorem State.townJoin_held (s : State) (ctx : Option Nat) : (s.townJoin ctx).held = s.held := by
  unfold State.townJoin
  dsimp only
  repeat' split
  all_goals simp

@[simp] theorem State.busFault_held (s : State) (core : Nat) (k : Access) (addr : Nat) : (s.busFault core k addr).held = s.held := by simp [State.busFault]

@[simp] theorem State.portStart_held (s : State) (p : Nat) : (s.portStart p).held = s.held := by simp [State.portStart]

@[simp] theorem State.rejoin_held (s : State) : (s.rejoin).held = s.held := by simp [State.rejoin]

@[simp] theorem State.crossChange_held (s : State) (p : Nat) : (s.crossChange p).held = s.held := by simp [State.crossChange]

@[simp] theorem State.mdioStart_held (s : State) : (s.mdioStart).held = s.held := by simp [State.mdioStart]

@[simp] theorem State.trialStop_held (s : State) : (s.trialStop).held = s.held := by simp [State.trialStop]

@[simp] theorem State.execBit_held (s : State) (v b : Nat) : (s.execBit v b).held = s.held := by simp [State.execBit]

@[simp] theorem State.bankExec_held (s : State) (v : Nat) : (s.bankExec v).held = s.held := by simp [State.bankExec]

@[simp] theorem State.onChan_held (s : State) (c : Nat) (g : Chan → State → State) (h : ∀ x u, (g x u).held = u.held) :
    (s.onChan c g).held = s.held := when_held _ _ _ fun u => h _ u

/-! ### Commands of rings and of flash -/

@[simp] theorem State.readDb_held (s : State) (f n : Nat) : (s.readDb f n).held = s.held := by simp [State.readDb]

@[simp] theorem State.askReset_held (s : State) (f n cause : Nat) : (s.askReset f n cause).held = s.held := by simp [State.askReset]

@[simp] theorem State.admKick_held (s : State) (f : Nat) : (s.admKick f).held = s.held := by simp [State.admKick]

@[simp] theorem State.enableRing_held (s : State) (f n : Nat) : (s.enableRing f n).held = s.held := by simp [State.enableRing]

@[simp] theorem State.writeReset_held (s : State) (f n : Nat) (keep : Bool) : (s.writeReset f n keep).held = s.held := by simp [State.writeReset]

@[simp] theorem State.rawGo_held (s : State) (mode : Nat) : (s.rawGo mode).held = s.held := by simp [State.rawGo]

@[simp] theorem State.releaseLun_held (s : State) (n : Nat) : (s.releaseLun n).held = s.held := by
  unfold State.releaseLun
  split <;> simp

/-! ### Commands in a write -/

@[simp] theorem State.setLock_held (s : State) : (s.setLock).held = s.held := by simp [State.setLock]

@[simp] theorem State.releaseCore_held (s : State) (n : Nat) : (s.releaseCore n).held = s.held := by simp [State.releaseCore]

@[simp] theorem State.releaseCores_held (s : State) (v : Nat) : (s.releaseCores v).held = s.held := by simp [State.releaseCores]

@[simp] theorem State.ringAct_held (s : State) (f n v : Nat) : (s.ringAct f n v).held = s.held := by simp [State.ringAct]

@[simp] theorem State.portAct_held (s : State) (p old : Nat) : (s.portAct p old).held = s.held := by simp [State.portAct]

@[simp] theorem State.funcAct_held (s : State) (f : Nat) : (s.funcAct f).held = s.held := by simp [State.funcAct]

@[simp] theorem State.ptpAct_held (s : State) (old : Nat) : (s.ptpAct old).held = s.held := by simp [State.ptpAct]

@[simp] theorem State.chanAct_held (s : State) (c old v : Nat) : (s.chanAct c old v).held = s.held := by simp [State.chanAct]

@[simp] theorem State.settingsAct_held (s : State) (changed : Bool) : (s.settingsAct changed).held = s.held := by simp [State.settingsAct]

/-- No command in a write touches the held words, but for the restart that GLB_RESET_CTRL asks for. -/
theorem State.regAct_held (s : State) (k : RegKey) (old v : Nat) (h : k.name ≠ .glbResetCtrl) : (s.regAct k old v).held = s.held := by
  unfold State.regAct
  split <;> simp_all

end Sys2Proof.Machine
end

section
/-!
SUPPORT. Register accesses: what they answer, where they fall, and the refusals.
-/

namespace Sys2Proof.Machine

/-! ### What an access answers -/

theorem RegName.contains_all (n : RegName) : RegName.all.contains n = true := by cases n <;> decide

/-- What a read of the register map leaves of the state that the read computed. -/
structure ReadLeaves (u t : State) : Prop where
  out : t.out = u.out
  latches : t.latches = u.latches
  sup : t.sup = u.sup
  reg : ∀ q, t.reg q = u.reg q

/-- What a write of the register map leaves of the state that the write computed. -/
structure WriteLeaves (u t : State) : Prop where
  out : t.out = u.out
  held : t.held = u.held
  host : t.host = u.host
  drt : t.drt = u.drt
  cip : t.cip = u.cip
  upd : t.upd = u.upd
  sup : t.sup = u.sup
  reg : ∀ q, t.reg q = u.reg q

theorem ReadLeaves.fget {u t : State} (h : ReadLeaves u t) (x : Fld) (i j k : Nat) : t.fget x i j k = u.fget x i j k := by
  unfold State.fget
  rw [h.reg]

theorem WriteLeaves.fget {u t : State} (h : WriteLeaves u t) (x : Fld) (i j k : Nat) : t.fget x i j k = u.fget x i j k := by
  unfold State.fget
  rw [h.reg]

theorem exec_read {s : State} {who : Requester} (hr : s.regReach who = true) (off size : Nat) :
    ∃ t, exec (.registerLatchingRead who off size) s = .next t ∧ ReadLeaves (s.regRead who off size) t := by
  refine answers_eq (when_of hr _ s) ⟨rfl, rfl, rfl, fun q => ?_⟩
  rw [reg_settle, State.reg_within, if_pos (RegName.contains_all _)]

theorem exec_write {s : State} {who : Requester} (hr : s.regReach who = true) (off size v : Nat) :
    ∃ t, exec (.registerWrite who off size v) s = .next t ∧ WriteLeaves (s.regWriteAt who off size v) t := by
  refine answers_eq (when_of hr _ s) ⟨rfl, rfl, rfl, rfl, rfl, rfl, rfl, fun q => ?_⟩
  rw [reg_settle, State.reg_within, if_pos (RegName.contains_all _)]

/-! ### Where an access falls -/

/-- The place of an access that is answered with data: neither refused nor another function's key page. -/
def Place.Open (p : Place) : Prop := p ≠ .refuse ∧ ∀ page, p ≠ .foreign page

theorem regRead_refused {s : State} {who : Requester} {off size : Nat} (h : accessOk off size = false ∨ s.placeOf who off = .refuse) :
    s.regRead who off size = s.emit (.unsupported who) := by
  unfold State.regRead
  by_cases ha : accessOk off size = true
  · have h := h.resolve_left (by simp [ha])
    simp [ha, h]
  · simp [ha]

theorem regWriteAt_refused {s : State} {who : Requester} {off size : Nat} (v : Nat)
    (h : accessOk off size = false ∨ s.placeOf who off = .refuse) : s.regWriteAt who off size v = s.emit (.unsupported who) := by
  unfold State.regWriteAt
  by_cases ha : accessOk off size = true
  · have h := h.resolve_left (by simp [ha])
    simp [ha, h]
  · simp [ha]

theorem regRead_foreign {s : State} {who : Requester} {off size page : Nat} (ha : accessOk off size = true) (h : s.placeOf who off = .foreign page) :
    s.regRead who off size = s.keyIsolation who page := by
  unfold State.regRead
  simp [ha, h]

theorem regWriteAt_foreign {s : State} {who : Requester} {off size page : Nat} (v : Nat) (ha : accessOk off size = true)
    (h : s.placeOf who off = .foreign page) : s.regWriteAt who off size v = s.keyIsolation who page := by
  unfold State.regWriteAt
  simp [ha, h]

theorem regRead_word {s : State} {who : Requester} {off : Nat} {p : Place} (ha : accessOk off 4 = true) (h : s.placeOf who off = p) (hp : p.Open) :
    s.regRead who off 4 = (s.placeRead who p).2.emit (.readData who (s.placeRead who p).1) := by
  obtain ⟨h1, h2⟩ := hp
  unfold State.regRead
  rw [ha, h]
  cases p with
  | refuse => exact absurd rfl h1
  | foreign page => exact absurd rfl (h2 page)
  | reg k w ro => rfl
  | blank => rfl
  | vectors f o => rfl
  | plic o => rfl
  | recov o => rfl

theorem regRead_two {s : State} {who : Requester} {off : Nat} {k : RegKey} {ro : Bool} (ha : accessOk off 8 = true) (h : s.placeOf who off = .reg k 0 ro) :
    let x := s.readWord who k 0 ro
    let y := x.2.placeRead who (x.2.placeOf who (off + 4))
    s.regRead who off 8 = y.2.emit (.readData who (x.1 + y.1 * 2 ^ 32)) := by
  unfold State.regRead
  rw [ha, h]
  rfl

theorem regWriteAt_word {s : State} {who : Requester} {off : Nat} {p : Place} (v : Nat) (ha : accessOk off 4 = true) (h : s.placeOf who off = p)
    (hp : p.Open) : s.regWriteAt who off 4 v = s.placeWrite (v % 4294967296) p := by
  obtain ⟨h1, h2⟩ := hp
  unfold State.regWriteAt
  rw [ha, h]
  cases p with
  | refuse => exact absurd rfl h1
  | foreign page => exact absurd rfl (h2 page)
  | reg k w ro => rfl
  | blank => rfl
  | vectors f o => rfl
  | plic o => rfl
  | recov o => rfl

theorem Place.open_reg (k : RegKey) (w : Nat) (ro : Bool) : (Place.reg k w ro).Open := ⟨by simp, by simp⟩
theorem Place.open_blank : Place.blank.Open := ⟨by simp, by simp⟩
theorem Place.open_vectors (f o : Nat) : (Place.vectors f o).Open := ⟨by simp, by simp⟩
theorem Place.open_plic (o : Nat) : (Place.plic o).Open := ⟨by simp, by simp⟩
theorem Place.open_recov (o : Nat) : (Place.recov o).Open := ⟨by simp, by simp⟩

theorem wordAt_width {sp : Space} {page : Option Nat} {off w : Nat} {ro r : Bool} {k : RegKey} (h : wordAt sp page off ro = .reg k w r) :
    32 * w < k.name.place.width := by
  unfold wordAt at h
  split at h
  · cases h
  · next n is b hn =>
    obtain ⟨m, -, hm⟩ := List.exists_of_findSome?_eq_some hn
    obtain ⟨x, hx, he⟩ := Option.map_eq_some_iff.1 hm
    obtain ⟨rfl, rfl⟩ : m = n ∧ x = (is, b) := by simpa using he
    obtain ⟨rfl, rfl, -⟩ : pageKey m page is = k ∧ b / 4 = w ∧ ro = r := by simpa using h
    unfold RegName.at? at hx
    dsimp only at hx
    split at hx
    · have hw : 8 * b < m.place.width := by simpa using (Option.filter_eq_some_iff.1 hx).2
      show 32 * (b / 4) < m.place.width
      omega
    · cases hx

theorem placePage_width {f off w : Nat} {own ro : Bool} {k : RegKey} (h : placePage f off own = .reg k w ro) : 32 * w < k.name.place.width := by
  unfold placePage at h
  split at h
  · exact wordAt_width h
  split at h
  · split at h
    · exact wordAt_width h
    · cases h
  split at h
  · cases h
  split at h
  · exact wordAt_width h
  · cases h

/-- A word of a register lies within the register. -/
theorem placeOf_width {s : State} {who : Requester} {off w : Nat} {k : RegKey} {ro : Bool} (h : s.placeOf who off = .reg k w ro) :
    32 * w < k.name.place.width := by
  unfold State.placeOf at h
  split at h
  · split at h
    · split at h <;> cases h
    split at h
    · exact wordAt_width h
    split at h
    · exact placePage_width h
    · split at h <;> cases h
  · split at h
    · exact placePage_width h
    · cases h
  · split at h
    · exact wordAt_width h
    split at h
    · exact wordAt_width h
    split at h
    · exact wordAt_width h
    split at h
    · cases h
    · split at h <;> cases h

theorem placeOf_congr {s t : State} (h : t.upd = s.upd) (who : Requester) (off : Nat) : t.placeOf who off = s.placeOf who off := by
  unfold State.placeOf
  rw [h]

/-! ### Key pages of other functions (R515) -/

theorem keyIsolation_out (s : State) (who : Requester) (page : Nat) : (s.keyIsolation who page).out = s.out ++ [.unsupported who] := by
  unfold State.keyIsolation
  rw [State.report_out, State.fadd_out]
  rfl

theorem keyIsolation_held (s : State) (who : Requester) (page : Nat) : (s.keyIsolation who page).held = s.held := by
  unfold State.keyIsolation
  rw [State.report_held, State.fadd_held]
  rfl

theorem keyIsolation_cip (s : State) (who : Requester) (page : Nat) : (s.keyIsolation who page).cip = s.cip := by
  unfold State.keyIsolation
  rw [State.report_cip, State.fadd_cip]
  rfl

/-- A counter field after an addition. -/
theorem State.fget_fadd_same (s : State) (x : Fld) (n i j k : Nat) : (s.fadd x n i j k).fget x i j k = satAdd x.w (s.fget x i j k) n := by
  unfold State.fadd
  rw [State.fget_fput_same]
  have : 0 < 2 ^ x.w := Nat.two_pow_pos _
  exact Nat.mod_eq_of_lt (by unfold satAdd; omega)

theorem keyIsolation_counts (s : State) (who : Requester) (page : Nat) :
    (s.keyIsolation who page).fget .cipErr_isolation = satAdd Fld.cipErr_isolation.w (s.fget .cipErr_isolation) 1 := by
  unfold State.keyIsolation
  rw [State.fget_congr (State.report_regs _ _ _ _), State.fget_fadd_same]
  rfl

end Sys2Proof.Machine
end

section
/-!
SUPPORT. Reads of a register's words.
-/

namespace Sys2Proof.Machine

/-! ### Reading a register (R754) -/

/-- The registers whose reading takes something of the machine, or shows more than their view. -/
def RegName.special (n : RegName) : Prop := n ∈ [RegName.evtNonce, .cipRng, .stwData, .glbGpio]

theorem draw_out {s : State} {r : Nat × State} (h : s.draw = some r) : r.2.out = s.out := by
  unfold State.draw at h
  split at h
  · cases h
  · obtain rfl := Option.some.inj h
    dsimp only
    split
    · exact State.fadd_out _ _ _ _ _ _
    · rfl

theorem stwLatch_out (s : State) (w : Nat) : (s.stwLatch w).out = s.out := by
  unfold State.stwLatch
  dsimp only
  split <;> rfl

theorem regNow_out (s : State) (k : RegKey) : (s.regNow k).2.out = s.out := by
  unfold State.regNow
  split <;> rfl

theorem regAtLatch_out (s : State) (k : RegKey) : (s.regAtLatch k).2.out = s.out := by
  unfold State.regAtLatch
  split
  · split
    · rfl
    · split
      · rfl
      · next h =>
        have h := draw_out h
        exact h
  · split
    · exact State.fput_out _ _ _ _ _ _
    · next h => exact (State.fput_out _ _ _ _ _ _).trans (draw_out h)
  · rw [regNow_out]
    split
    · exact stwLatch_out s k.i
    · rfl
  · exact regNow_out s k

theorem regNow_plain {s : State} {k : RegKey} (h : ¬ k.name.special) : s.regNow k = (s.regView k, s) := by
  unfold State.regNow
  split
  · next e => exact absurd (by simp [RegName.special, e]) h
  · next e => exact absurd (by simp [RegName.special, e]) h
  · rfl

theorem regAtLatch_plain {s : State} {k : RegKey} (h : ¬ k.name.special) : s.regAtLatch k = (s.regView k, s) := by
  unfold State.regAtLatch
  split
  · next e => exact absurd (by simp [RegName.special, e]) h
  · next e => exact absurd (by simp [RegName.special, e]) h
  · next e => exact absurd (by simp [RegName.special, e]) h
  · exact regNow_plain h

/-- The state after the latch of word 0 has been taken; only a wide register has one. -/
def State.latched (s : State) (who : Requester) (k : RegKey) (v : Nat) : State := if k.name.place.width ≤ 32 then s else s.latch who k v

theorem latched_out (s : State) (who : Requester) (k : RegKey) (v : Nat) : (s.latched who k v).out = s.out := by
  unfold State.latched
  split <;> rfl

theorem latched_reg (s : State) (who : Requester) (k : RegKey) (v : Nat) (q : RegKey) : (s.latched who k v).reg q = s.reg q := by
  unfold State.latched
  split <;> rfl

theorem latched_tun (s : State) (who : Requester) (k : RegKey) (v : Nat) : (s.latched who k v).tun = s.tun := by
  unfold State.latched
  split <;> rfl

theorem latched_upd (s : State) (who : Requester) (k : RegKey) (v : Nat) : (s.latched who k v).upd = s.upd := by
  unfold State.latched
  split <;> rfl

/-- The latch holds the value taken for that requester. -/
theorem latch_find (s : State) (who : Requester) (k : RegKey) (v : Nat) :
    ((s.latch who k v).latches.find? fun l => decide (l.who = who ∧ l.key = k)) = some ⟨who, k, v⟩ := by
  unfold State.latch
  rw [List.find?_append, List.find?_eq_none.2]
  · simp
  · intro l hl
    have := (List.mem_filter.1 hl).2
    simpa [imp_iff_not_or] using this

theorem readWord_zero (s : State) (who : Requester) (k : RegKey) (ro : Bool) :
    s.readWord who k 0 ro = ((s.regAtLatch k).1 % 2 ^ 32,
      if ro then (s.regAtLatch k).2.latched who k (s.regAtLatch k).1 else ((s.regAtLatch k).2.latched who k (s.regAtLatch k).1).clearRc k) := rfl

theorem readWord_zero_plain {s : State} {k : RegKey} (h : ¬ k.name.special) (who : Requester) (ro : Bool) :
    s.readWord who k 0 ro = (s.regView k % 2 ^ 32, if ro then s.latched who k (s.regView k) else (s.latched who k (s.regView k)).clearRc k) := by
  rw [readWord_zero, regAtLatch_plain h]

/-- The value a later word is taken from: the requester's latch, or the register as it reads now. -/
def State.latchOr (s : State) (who : Requester) (k : RegKey) : Nat × State :=
  match s.latches.find? fun l => decide (l.who = who ∧ l.key = k) with
  | some l => (l.value, s)
  | none => s.regNow k

/-- The last word of EVT_WINDOW moves the cursor on (R683). -/
def State.advanced (s : State) (k : RegKey) (w : Nat) : State :=
  if k.name = .evtWindow ∧ w = 15 ∧ s.flag .evtCursor_auto k.i then s.fput .evtCursor_index (min 16384 (s.fget .evtCursor_index k.i + 1)) k.i else s

theorem readWord_later {w : Nat} (hw : w ≠ 0) (s : State) (who : Requester) (k : RegKey) (ro : Bool) :
    s.readWord who k w ro = ((s.latchOr who k).1 / 2 ^ (32 * w) % 2 ^ 32, (s.latchOr who k).2.advanced k w) := by
  unfold State.readWord
  rw [if_neg hw]
  rfl

theorem latchOr_out (s : State) (who : Requester) (k : RegKey) : (s.latchOr who k).2.out = s.out := by
  unfold State.latchOr
  split
  · rfl
  · exact regNow_out s k

theorem latchOr_plain {s : State} {k : RegKey} (h : ¬ k.name.special) (who : Requester) : (s.latchOr who k).2 = s := by
  unfold State.latchOr
  split
  · rfl
  · rw [regNow_plain h]

theorem latchOr_some {s : State} {who : Requester} {k : RegKey} {l : RegLatch}
    (h : (s.latches.find? fun l => decide (l.who = who ∧ l.key = k)) = some l) : (s.latchOr who k).1 = l.value := by
  unfold State.latchOr
  rw [h]

theorem latchOr_none {s : State} {who : Requester} {k : RegKey} (hk : ¬ k.name.special) (h : ∀ l ∈ s.latches, ¬(l.who = who ∧ l.key = k)) :
    (s.latchOr who k).1 = s.regView k := by
  unfold State.latchOr
  rw [List.find?_eq_none.2 fun l hl => by simpa using h l hl]
  exact congrArg Prod.fst (regNow_plain hk)

theorem advanced_out (s : State) (k : RegKey) (w : Nat) : (s.advanced k w).out = s.out := by
  unfold State.advanced
  split
  · exact State.fput_out _ _ _ _ _ _
  · rfl

theorem advanced_latches (s : State) (k : RegKey) (w : Nat) : (s.advanced k w).latches = s.latches := by
  unfold State.advanced
  split
  · exact State.fput_latches _ _ _ _ _ _
  · rfl

theorem advanced_other (s : State) {k : RegKey} (w : Nat) (h : k.name ≠ .evtWindow) : s.advanced k w = s := if_neg fun hc => h hc.1

/-- A read of a register's word sends nothing out. -/
theorem readWord_out (s : State) (who : Requester) (k : RegKey) (w : Nat) (ro : Bool) : (s.readWord who k w ro).2.out = s.out := by
  by_cases hw : w = 0
  · subst hw
    rw [readWord_zero]
    dsimp only
    split
    · rw [latched_out, regAtLatch_out]
    · rw [State.clearRc_out, latched_out, regAtLatch_out]
  · rw [readWord_later hw]
    dsimp only
    rw [advanced_out, latchOr_out]

theorem readWord_lt (s : State) (who : Requester) (k : RegKey) (w : Nat) (ro : Bool) : (s.readWord who k w ro).1 < 4294967296 := by
  by_cases hw : w = 0
  · subst hw
    exact Nat.mod_lt _ (by decide)
  · rw [readWord_later hw]
    exact Nat.mod_lt _ (by decide)

/-- A read of a wide register in one access of 8 bytes: both words are of one value. -/
theorem regRead_wide {s : State} {who : Requester} {off : Nat} {k : RegKey} {ro : Bool} (hk : ¬ k.name.special) (hw : 32 < k.name.place.width)
    (ha : accessOk off 8 = true) (h0 : s.placeOf who off = .reg k 0 ro) (h1 : s.placeOf who (off + 4) = .reg k 1 ro) :
    (s.regRead who off 8).out = s.out ++ [.readData who (s.regView k % 18446744073709551616)] := by
  have hu : s.latched who k (s.regView k) = s.latch who k (s.regView k) := if_neg (by omega)
  rw [regRead_two ha h0, readWord_zero_plain hk, hu]
  dsimp only
  have hupd : (if ro then s.latch who k (s.regView k) else (s.latch who k (s.regView k)).clearRc k).upd = s.upd := by
    split
    · rfl
    · exact State.clearRc_upd _ _
  have hout : (if ro then s.latch who k (s.regView k) else (s.latch who k (s.regView k)).clearRc k).out = s.out := by
    split
    · rfl
    · exact State.clearRc_out _ _
  have hlat : ((if ro then s.latch who k (s.regView k) else (s.latch who k (s.regView k)).clearRc k).latches.find?
      fun l => decide (l.who = who ∧ l.key = k)) = some ⟨who, k, s.regView k⟩ := by
    split
    · exact latch_find s who k _
    · rw [State.clearRc_latches]
      exact latch_find s who k _
  generalize (if ro then s.latch who k (s.regView k) else (s.latch who k (s.regView k)).clearRc k) = u at *
  rw [placeOf_congr hupd, h1]
  show (u.readWord who k 1 ro).2.out ++ [Output.readData who (s.regView k % 2 ^ 32 + (u.readWord who k 1 ro).1 * 2 ^ 32)] = _
  rw [readWord_out, hout, readWord_later (by decide), latchOr_some hlat]
  dsimp only
  congr 4
  have := Nat.mod_mul (a := 2 ^ 32) (b := 2 ^ 32) (x := s.regView k)
  omega

end Sys2Proof.Machine
end

section
/-!
SUPPORT. A commit of a register: the lock's judgement, the value stored, and the command in the write.
-/

namespace Sys2Proof.Machine

/-! ### The parts of a commit (R754, R759, R774) -/

theorem carry_regs (s : State) (k : RegKey) (lock : Bool) (v m : Nat) : (s.carry k lock v m).regs = s.regs := by
  unfold State.carry
  dsimp only
  split <;> rfl

theorem carry_out (s : State) (k : RegKey) (lock : Bool) (v m : Nat) : (s.carry k lock v m).out = s.out := by
  unfold State.carry
  dsimp only
  split <;> rfl

theorem carry_held (s : State) (k : RegKey) (lock : Bool) (v m : Nat) : (s.carry k lock v m).held = s.held := by
  unfold State.carry
  dsimp only
  split <;> rfl

theorem stwChanged_regs (s : State) (w : Nat) (o : Nat × Nat × Nat × Nat) : (s.stwChanged w o).regs = s.regs := by
  unfold State.stwChanged
  dsimp only
  split <;> rfl

theorem stwChanged_out (s : State) (w : Nat) (o : Nat × Nat × Nat × Nat) : (s.stwChanged w o).out = s.out := by
  unfold State.stwChanged
  dsimp only
  split <;> rfl

theorem stwChanged_held (s : State) (w : Nat) (o : Nat × Nat × Nat × Nat) : (s.stwChanged w o).held = s.held := by
  unfold State.stwChanged
  dsimp only
  split <;> rfl

theorem denied_regs (s : State) (k : RegKey) : (s.denied k).regs = (s.fadd .glbSetupLock_denied 1).regs := by
  unfold State.denied
  dsimp only
  split
  · rfl
  · exact State.report_regs _ _ _ _

theorem denied_out (s : State) (k : RegKey) : (s.denied k).out = s.out := by
  unfold State.denied
  dsimp only
  split
  · exact State.fadd_out _ _ _ _ _ _
  · exact (State.report_out _ _ _ _).trans (State.fadd_out s .glbSetupLock_denied 1 0 0 0)

theorem denied_held (s : State) (k : RegKey) : (s.denied k).held = s.held := by
  unfold State.denied
  dsimp only
  split
  · exact State.fadd_held _ _ _ _ _ _
  · exact (State.report_held _ _ _ _).trans (State.fadd_held s .glbSetupLock_denied 1 0 0 0)

theorem denied_upd (s : State) (k : RegKey) : (s.denied k).upd = s.upd := by
  unfold State.denied
  dsimp only
  split
  · exact State.fadd_upd _ _ _ _ _ _
  · exact (State.report_upd _ _ _ _).trans (State.fadd_upd s .glbSetupLock_denied 1 0 0 0)

theorem denied_counts (s : State) (k : RegKey) : (s.denied k).fget .glbSetupLock_denied = satAdd 16 (s.fget .glbSetupLock_denied) 1 :=
  (State.fget_congr (denied_regs s k) _ 0 0 0).trans (State.fget_fadd_same s .glbSetupLock_denied 1 0 0 0)

theorem denied_other (s : State) (k : RegKey) {q : RegKey} (h : q ≠ ⟨.glbSetupLock, 0, 0, 0⟩) : (s.denied k).reg q = s.reg q :=
  (State.reg_congr (denied_regs s k) q).trans (State.reg_fput_other s .glbSetupLock_denied _ 0 0 0 h)

/-- What the conditions of the fan channels are made of. -/
structure SameFans (s t : State) : Prop where
  upd : t.upd = s.upd
  porst : t.power.porstLow = s.power.porstLow
  stage : t.power.stage = s.power.stage
  pstate : t.power.pstate = s.power.pstate
  halt : t.power.halt = s.power.halt

theorem SameFans.trans {s t u : State} (h : SameFans s t) (k : SameFans t u) : SameFans s u :=
  ⟨k.upd.trans h.upd, k.porst.trans h.porst, k.stage.trans h.stage, k.pstate.trans h.pstate, k.halt.trans h.halt⟩

theorem sameFans_of {s t : State} (hu : t.upd = s.upd) (hp : t.power = s.power) : SameFans s t := ⟨hu, by rw [hp], by rw [hp], by rw [hp], by rw [hp]⟩

/-- Outside a halt the channels' condition does not depend on a register (R603). -/
theorem drtOn_congr {s t : State} (h : SameFans s t) (hh : s.power.halt = none) : t.drtOn = s.drtOn := by
  unfold State.drtOn
  rw [h.upd, h.porst, h.stage, h.pstate, h.halt, hh]

theorem carry_fans (s : State) (k : RegKey) (lock : Bool) (v m : Nat) : SameFans s (s.carry k lock v m) := by
  unfold State.carry
  dsimp only
  split <;> exact ⟨rfl, rfl, rfl, rfl, rfl⟩

theorem denied_fans (s : State) (k : RegKey) : SameFans s (s.denied k) := by
  have hf : SameFans s (s.fadd .glbSetupLock_denied 1) := sameFans_of rfl rfl
  unfold State.denied
  dsimp only
  split
  · exact hf
  · refine hf.trans (SameFans.trans ?_ (sameFans_of (State.report_upd _ _ _ _) (State.report_power _ _ _ _)))
    exact ⟨rfl, rfl, rfl, rfl, rfl⟩

/-! ### A commit -/

/-- The lock has stopped a field of the write (R759). -/
def State.Stopped (s : State) (k : RegKey) (v m : Nat) : Prop :=
  s.flag .glbSetupLock_lock = true ∧ s.regNext k false v m ≠ s.regNext k (s.flag .glbSetupLock_lock) v m

/-- The state after the lock's judgement of a commit. -/
def State.judged (s : State) (k : RegKey) (v m : Nat) : State :=
  if s.flag .glbSetupLock_lock = true ∧ s.regNext k false v m ≠ s.regNext k (s.flag .glbSetupLock_lock) v m then s.denied k else s

theorem judged_stopped {s : State} {k : RegKey} {v m : Nat} (h : s.Stopped k v m) : s.judged k v m = s.denied k := if_pos h

theorem judged_free {s : State} {k : RegKey} {v m : Nat} (h : ¬ s.Stopped k v m) : s.judged k v m = s := if_neg h

/-- A commit up to the command in the write: the lock's judgement, the register's new value, what is carried to the next start, the window's latch. -/
def State.stored (s : State) (k : RegKey) (v m : Nat) : State :=
  let u := ((s.judged k v m).setReg k (s.regNext k (s.flag .glbSetupLock_lock) v m)).carry k (s.flag .glbSetupLock_lock) v m
  if k.name = .stwSel then u.stwChanged k.i (s.stwSel k.i) else u

theorem commit_eq (s : State) (k : RegKey) (v m : Nat) : s.commit k v m = (s.stored k v m).regAct k (s.reg k) (v &&& m) := rfl

theorem judged_out (s : State) (k : RegKey) (v m : Nat) : (s.judged k v m).out = s.out := by
  unfold State.judged
  split
  · exact denied_out s k
  · rfl

theorem judged_held (s : State) (k : RegKey) (v m : Nat) : (s.judged k v m).held = s.held := by
  unfold State.judged
  split
  · exact denied_held s k
  · rfl

theorem judged_fans (s : State) (k : RegKey) (v m : Nat) : SameFans s (s.judged k v m) := by
  unfold State.judged
  split
  · exact denied_fans s k
  · exact sameFans_of rfl rfl

theorem judged_other (s : State) (k : RegKey) (v m : Nat) {q : RegKey} (h : q ≠ ⟨.glbSetupLock, 0, 0, 0⟩) : (s.judged k v m).reg q = s.reg q := by
  unfold State.judged
  split
  · exact denied_other s k h
  · rfl

theorem stored_regs (s : State) (k : RegKey) (v m : Nat) :
    (s.stored k v m).regs = ((s.judged k v m).setReg k (s.regNext k (s.flag .glbSetupLock_lock) v m)).regs := by
  unfold State.stored
  dsimp only
  split
  · rw [stwChanged_regs, carry_regs]
  · rw [carry_regs]

theorem stored_out (s : State) (k : RegKey) (v m : Nat) : (s.stored k v m).out = s.out := by
  unfold State.stored
  dsimp only
  split
  · rw [stwChanged_out, carry_out, State.setReg_out, judged_out]
  · rw [carry_out, State.setReg_out, judged_out]

theorem stored_held (s : State) (k : RegKey) (v m : Nat) : (s.stored k v m).held = s.held := by
  unfold State.stored
  dsimp only
  split
  · rw [stwChanged_held, carry_held, State.setReg_held, judged_held]
  · rw [carry_held, State.setReg_held, judged_held]

theorem stored_fans (s : State) {k : RegKey} (hk : k.name ≠ .stwSel) (v m : Nat) : SameFans s (s.stored k v m) := by
  unfold State.stored
  dsimp only
  rw [if_neg hk]
  exact ((judged_fans s k v m).trans (sameFans_of (State.setReg_upd _ _ _) (State.setReg_power _ _ _))).trans (carry_fans _ _ _ _ _)

theorem commit_held {s : State} {k : RegKey} (h : k.name ≠ .glbResetCtrl) (v m : Nat) : (s.commit k v m).held = s.held := by
  rw [commit_eq, State.regAct_held _ _ _ _ h, stored_held]

/-- The registers whose write makes the part do something at once. -/
def RegName.acts (n : RegName) : Prop :=
  n ∈ [RegName.glbSetupLock, .glbResetCtrl, .glbSupRelease, .hqAdmKick, .hqRingCtrl, .hqAdmCtrl, .hqFuncCtrl, .medLunCtrl, .medRawCtrl, .medSpaceCtrl,
    .cipKpCmd, .cipSkCmd, .cipDrbgCtrl, .cflBankExec, .drtChCtrl, .drtBusCtrl, .netCrossCtrl, .netPortCtrl, .netMgmtMdio, .ptpCtrl, .ptpTodSet, .updTrial,
    .kveSnapCtrl, .twnHbCtrl, .twnRetryCtrl]

/-- A write of any other register commands nothing. -/
theorem regAct_plain (s : State) {k : RegKey} (h : ¬ k.name.acts) (old v : Nat) : s.regAct k old v = s := by
  unfold State.regAct
  split <;> simp_all [RegName.acts]

theorem commit_plain (s : State) {k : RegKey} (h : ¬ k.name.acts) (v m : Nat) : s.commit k v m = s.stored k v m := by
  rw [commit_eq, regAct_plain _ h]

/-- What a commit stores: the register's new value, and in GLB_SETUP_LOCK the count of the writes that the lock has stopped. -/
theorem stored_reg (s : State) {k : RegKey} (h : k.name ≠ .glbSetupLock) (v m : Nat) :
    (s.stored k v m).reg k = s.regNext k (s.flag .glbSetupLock_lock) v m ∧
    (∀ q, q ≠ k → q ≠ ⟨.glbSetupLock, 0, 0, 0⟩ → (s.stored k v m).reg q = s.reg q) ∧
    (s.Stopped k v m → (s.stored k v m).fget .glbSetupLock_denied = satAdd 16 (s.fget .glbSetupLock_denied) 1) ∧
    (¬ s.Stopped k v m → (s.stored k v m).reg ⟨.glbSetupLock, 0, 0, 0⟩ = s.reg ⟨.glbSetupLock, 0, 0, 0⟩) := by
  have hreg : ∀ q, (s.stored k v m).reg q = if q = k then s.regNext k (s.flag .glbSetupLock_lock) v m else (s.judged k v m).reg q := fun q => by
    rw [State.reg_congr (stored_regs s k v m), State.reg_setReg]
  have hl : (⟨.glbSetupLock, 0, 0, 0⟩ : RegKey) ≠ k := fun e => h (by rw [← e])
  refine ⟨by rw [hreg, if_pos rfl], fun q hq hq' => by rw [hreg, if_neg hq, judged_other s k v m hq'], fun hst => ?_,
    fun hst => by rw [hreg, if_neg hl, judged_free hst]⟩
  rw [← denied_counts s k, ← judged_stopped hst]
  unfold State.fget
  rw [show (s.stored k v m).reg (Fld.glbSetupLock_denied.at 0 0 0) = _ from (hreg _).trans (if_neg hl)]

end Sys2Proof.Machine
end

section
/-!
SUPPORT. Accesses of 4 bytes, by the place they fall on.
-/

namespace Sys2Proof.Machine

/-! ### Words of a write (R754) -/

/-- The words that the commit of `v` as word `w` of a register takes: those held, and `v`. -/
def State.commitWords (s : State) (k : RegKey) (w v : Nat) : List (Nat × Nat) :=
  ((s.held.filter fun h => decide (h.key = k)).map fun h => (h.word, h.value)) ++ [(w, v)]

/-- The state without the held words of a register. -/
def State.unheld (s : State) (k : RegKey) : State := { s with held := s.held.filter fun h => !decide (h.key = k) }

theorem writeWord_absent {s : State} {k : RegKey} (h : s.regThere k = false) (w v : Nat) : s.writeWord k w v = s := by
  unfold State.writeWord
  rw [h]
  rfl

theorem writeWord_low {s : State} {k : RegKey} {w : Nat} (h : s.regThere k = true) (hw : 32 * (w + 1) < k.name.place.width) (v : Nat) :
    s.writeWord k w v = { s with held := (s.held.filter fun h => !decide (h.key = k ∧ h.word = w)) ++ [⟨k, w, v⟩] } := by
  unfold State.writeWord
  rw [h]
  exact if_pos hw

theorem writeWord_high {s : State} {k : RegKey} {w : Nat} (h : s.regThere k = true) (hw : k.name.place.width ≤ 32 * (w + 1)) (v : Nat) :
    s.writeWord k w v = (s.unheld k).commit k (wordsValue (s.commitWords k w v)) (wordsMask (s.commitWords k w v)) := by
  unfold State.writeWord
  rw [h]
  exact if_neg (Nat.not_lt.2 hw)

theorem commitWords_alone {s : State} {k : RegKey} (h : ∀ x ∈ s.held, x.key ≠ k) (w v : Nat) : s.commitWords k w v = [(w, v)] := by
  unfold State.commitWords
  rw [List.filter_eq_nil_iff.2 fun x hx => by simpa using h x hx]
  rfl

/-- A bit of the value that a write of word 0 alone commits. -/
theorem bitAt_commit {n : Nat} (hn : n < 32) (v : Nat) : bitAt (wordsValue [(0, v % 4294967296)] &&& wordsMask [(0, v % 4294967296)]) n = bitAt v n := by
  have hb : ∀ x, bitAt x n = x.testBit n := fun x => by
    rw [Nat.testBit_eq_decide_div_mod_eq]
    rfl
  have hv : wordsValue [(0, v % 4294967296)] = v % 2 ^ 32 := by simp [wordsValue]
  have hm : wordsMask [(0, v % 4294967296)] = 2 ^ 32 - 1 := by simp [wordsMask]
  rw [hb, hb, hv, hm, Nat.and_two_pow_sub_one_eq_mod, Nat.mod_mod, Nat.testBit_mod_two_pow, decide_eq_true hn, Bool.true_and]

/-! ### Commands in a write -/

theorem regAct_setupLock {s : State} {k : RegKey} {v : Nat} (h : k.name = .glbSetupLock) (hv : bitAt v 0 = true) (old : Nat) :
    s.regAct k old v = s.setLock := by simp [State.regAct, h, hv]

theorem regAct_clearChop {s : State} {k : RegKey} {v : Nat} (h : k.name = .drtBusCtrl) (hv : bitAt v 0 = true) (hd : s.drtOn = true) (old : Nat) :
    s.regAct k old v = s.clearChop := by simp [State.regAct, h, hv, hd]

theorem regAct_trialStop {s : State} {k : RegKey} {v : Nat} (h : k.name = .updTrial) (hv : bitAt v 18 = true) (old : Nat) :
    s.regAct k old v = s.trialStop := by simp [State.regAct, h, hv]

/-! ### Accesses of 4 bytes -/

/-- What a read of 4 bytes leaves, by the place it falls on. -/
theorem exec_read_word {s : State} {who : Requester} {off : Nat} {p : Place} (hr : s.regReach who = true) (ha : accessOk off 4 = true)
    (h : s.placeOf who off = p) (hp : p.Open) :
    ∃ t, exec (.registerLatchingRead who off 4) s = .next t ∧ ReadLeaves ((s.placeRead who p).2.emit (.readData who (s.placeRead who p).1)) t := by
  obtain ⟨t, ht, lt⟩ := exec_read hr off 4
  exact ⟨t, ht, regRead_word ha h hp ▸ lt⟩

/-- What a write of 4 bytes leaves, by the place it falls on. -/
theorem exec_write_word {s : State} {who : Requester} {off : Nat} {p : Place} (hr : s.regReach who = true) (ha : accessOk off 4 = true)
    (h : s.placeOf who off = p) (hp : p.Open) (v : Nat) :
    ∃ t, exec (.registerWrite who off 4 v) s = .next t ∧ WriteLeaves (s.placeWrite (v % 4294967296) p) t := by
  obtain ⟨t, ht, lt⟩ := exec_write hr off 4 v
  exact ⟨t, ht, regWriteAt_word v ha h hp ▸ lt⟩

/-- A read of word 0 of a register that shows its view: the view's low word, the latch of a wide register, and the RC fields cleared (R13, R754). -/
theorem read_word_zero {s : State} {who : Requester} {off : Nat} {k : RegKey} {ro : Bool} (hr : s.regReach who = true) (ha : accessOk off 4 = true)
    (h : s.placeOf who off = .reg k 0 ro) (hk : ¬ k.name.special) :
    ∃ t : State, exec (.registerLatchingRead who off 4) s = .next t ∧ t.out = s.out ++ [Output.readData who (s.regView k % 4294967296)] ∧
      (k.name.place.width ≤ 32 → t.latches = s.latches) ∧
      (32 < k.name.place.width → (t.latches.find? fun l => decide (l.who = who ∧ l.key = k)) = some ⟨who, k, s.regView k⟩) ∧
      (∀ f ∈ k.name.fields, bits (t.reg k) f.lsb f.w =
        if ro = false ∧ f.acc = .rc then (if k.name = .adStat ∧ f.lsb = 21 then s.tun.rows.length % 2 ^ f.w else 0) else bits (s.reg k) f.lsb f.w) ∧
      ∀ q, q ≠ k → t.reg q = s.reg q := by
  obtain ⟨t, ht, lt⟩ := exec_read_word hr ha h (Place.open_reg k 0 ro)
  have hx : s.placeRead who (.reg k 0 ro) = _ := readWord_zero_plain hk who ro
  rw [hx] at lt
  have hlat : t.latches = (s.latched who k (s.regView k)).latches := by
    refine lt.latches.trans ?_
    show (if ro then s.latched who k (s.regView k) else (s.latched who k (s.regView k)).clearRc k).latches = _
    split
    · rfl
    · exact State.clearRc_latches _ _
  have hreg : ∀ q, t.reg q = (if ro then s.latched who k (s.regView k) else (s.latched who k (s.regView k)).clearRc k).reg q := lt.reg
  refine ⟨t, ht, ?_, fun hw => ?_, fun hw => ?_, fun f hf => ?_, fun q hq => ?_⟩
  · refine lt.out.trans ?_
    show (if ro then s.latched who k (s.regView k) else (s.latched who k (s.regView k)).clearRc k).out ++ _ = _
    congr 1
    split
    · exact latched_out _ _ _ _
    · rw [State.clearRc_out, latched_out]
  · rw [hlat, show s.latched who k (s.regView k) = s from if_pos hw]
  · rw [hlat, show s.latched who k (s.regView k) = s.latch who k (s.regView k) from if_neg (Nat.not_le.2 hw)]
    exact latch_find s who k _
  · rw [hreg k]
    cases ro with
    | true => simp [latched_reg]
    | false =>
      rw [if_neg (by decide), State.clearRc_bits _ _ hf, latched_reg]
      simp only [true_and]
      split
      · unfold State.rcAfter
        rw [latched_tun]
        split
        · rfl
        · exact Nat.zero_mod _
      · rfl
  · rw [hreg q]
    split
    · exact latched_reg _ _ _ _ _
    · rw [State.clearRc_reg_other _ hq, latched_reg]

/-- A read of a later word: from the requester's latch, or from the view where it has none (R754). -/
theorem read_word_later {s : State} {who : Requester} {off w : Nat} {k : RegKey} {ro : Bool} (hr : s.regReach who = true) (ha : accessOk off 4 = true)
    (h : s.placeOf who off = .reg k w ro) (hk : ¬ k.name.special) (hw : w ≠ 0) :
    ∃ t : State, exec (.registerLatchingRead who off 4) s = .next t ∧ t.latches = s.latches ∧
      (∀ l, (s.latches.find? fun l => decide (l.who = who ∧ l.key = k)) = some l → t.out = s.out ++ [Output.readData who (l.value / 2 ^ (32 * w) % 4294967296)]) ∧
      ((∀ l ∈ s.latches, ¬(l.who = who ∧ l.key = k)) → t.out = s.out ++ [Output.readData who (s.regView k / 2 ^ (32 * w) % 4294967296)]) ∧
      (k.name ≠ .evtWindow → ∀ q, t.reg q = s.reg q) := by
  obtain ⟨t, ht, lt⟩ := exec_read_word hr ha h (Place.open_reg k w ro)
  have hx : s.placeRead who (.reg k w ro) = ((s.latchOr who k).1 / 2 ^ (32 * w) % 2 ^ 32, s.advanced k w) :=
    (readWord_later hw s who k ro).trans (by rw [latchOr_plain hk])
  rw [hx] at lt
  have hout : t.out = s.out ++ [Output.readData who ((s.latchOr who k).1 / 2 ^ (32 * w) % 4294967296)] :=
    lt.out.trans (congrArg (· ++ _) (advanced_out s k w))
  refine ⟨t, ht, lt.latches.trans (advanced_latches s k w), fun l hl => ?_, fun hl => ?_, fun he q => ?_⟩
  · rw [hout, latchOr_some hl]
  · rw [hout, latchOr_none hk hl]
  · rw [lt.reg q]
    show (s.advanced k w).reg q = _
    rw [advanced_other s w he]

/-- A write of the highest word of a register commits (R754). -/
theorem exec_commit {s : State} {who : Requester} {off w : Nat} {k : RegKey} (hr : s.regReach who = true) (ha : accessOk off 4 = true)
    (h : s.placeOf who off = .reg k w false) (ht : s.regThere k = true) (hw : k.name.place.width ≤ 32 * (w + 1)) (v : Nat) :
    ∃ t, exec (.registerWrite who off 4 v) s = .next t ∧ WriteLeaves
      ((s.unheld k).commit k (wordsValue (s.commitWords k w (v % 4294967296))) (wordsMask (s.commitWords k w (v % 4294967296)))) t := by
  obtain ⟨t, he, lt⟩ := exec_write_word hr ha h (Place.open_reg k w false) v
  exact ⟨t, he, writeWord_high ht hw _ ▸ lt⟩

/-- The commands in a write that no held word precedes. -/
theorem commit_commands {s : State} {who : Requester} {off w : Nat} {k : RegKey} (hr : s.regReach who = true) (ha : accessOk off 4 = true)
    (h : s.placeOf who off = .reg k w false) (ht : s.regThere k = true) (hw : k.name.place.width ≤ 32 * (w + 1)) (v : Nat)
    (hh : ∀ x ∈ s.held, x.key ≠ k) :
    ∃ t : State, exec (.registerWrite who off 4 v) s = .next t ∧ (k.name = .updTrial → bitAt v 18 = true → t.upd.trial = none) ∧
      (k.name = .glbSetupLock → bitAt v 0 = true → t.flag .glbSetupLock_lock = true) ∧
      (k.name = .drtBusCtrl → bitAt v 0 = true → s.drtOn = true → s.power.halt = none → t.drt.chopFault = false) := by
  obtain ⟨t, he, lt⟩ := exec_commit hr ha h ht hw v
  have hwidth := placeOf_width h
  rw [commitWords_alone hh, commit_eq] at lt
  have hzero : k.name.place.width = 32 → w = 0 := fun e => by omega
  refine ⟨t, he, fun hn hb => ?_, fun hn hb => ?_, fun hn hb hd hp => ?_⟩
  · obtain rfl := hzero (by rw [hn]; rfl)
    rw [regAct_trialStop hn ((bitAt_commit (by decide) v).trans hb)] at lt
    rw [lt.upd]
    rfl
  · obtain rfl := hzero (by rw [hn]; rfl)
    rw [regAct_setupLock hn ((bitAt_commit (by decide) v).trans hb)] at lt
    unfold State.flag
    rw [lt.fget]
    exact State.setLock_lock _
  · obtain rfl := hzero (by rw [hn]; rfl)
    have hfans := stored_fans (s.unheld k) (k := k) (by rw [hn]; decide) (wordsValue [(0, v % 4294967296)]) (wordsMask [(0, v % 4294967296)])
    rw [regAct_clearChop hn ((bitAt_commit (by decide) v).trans hb) ((drtOn_congr hfans hp).trans hd)] at lt
    rw [lt.drt]
    rfl

/-- A commit of a register whose write commands nothing: its next value, the lock's count, and every other register as it was. -/
theorem commit_stores {s : State} {who : Requester} {off w : Nat} {k : RegKey} (hr : s.regReach who = true) (ha : accessOk off 4 = true)
    (h : s.placeOf who off = .reg k w false) (ht : s.regThere k = true) (hw : k.name.place.width ≤ 32 * (w + 1)) (v : Nat) (hk : ¬ k.name.acts) :
    let ws := s.commitWords k w (v % 4294967296)
    let lock := s.flag .glbSetupLock_lock
    let next := fun l : Bool => s.regNext k l (wordsValue ws) (wordsMask ws)
    ∃ t : State, exec (.registerWrite who off 4 v) s = .next t ∧ t.reg k = next lock ∧ t.out = s.out ∧
      (∀ q, q ≠ k → q ≠ ⟨.glbSetupLock, 0, 0, 0⟩ → t.reg q = s.reg q) ∧
      (lock = true → next false ≠ next true → t.fget .glbSetupLock_denied = satAdd 16 (s.fget .glbSetupLock_denied) 1) ∧
      (lock = false ∨ next false = next true → t.reg ⟨.glbSetupLock, 0, 0, 0⟩ = s.reg ⟨.glbSetupLock, 0, 0, 0⟩) := by
  intro ws lock next
  obtain ⟨t, he, lt⟩ := exec_commit hr ha h ht hw v
  rw [commit_plain _ hk] at lt
  have hl : k.name ≠ .glbSetupLock := fun e => hk (by rw [RegName.acts, e]; simp)
  obtain ⟨h1, h2, h3, h4⟩ := stored_reg (s.unheld k) hl (wordsValue ws) (wordsMask ws)
  refine ⟨t, he, (lt.reg k).trans h1, lt.out.trans (stored_out _ _ _ _), fun q hq hq' => (lt.reg q).trans (h2 q hq hq'), fun hlock hne => ?_, fun hfree => ?_⟩
  · refine (lt.fget _ 0 0 0).trans (h3 ⟨hlock, fun e => hne (e.trans ?_)⟩)
    show next lock = next true
    rw [hlock]
  · refine (lt.reg _).trans (h4 fun hst => ?_)
    obtain ⟨hlock, hne⟩ : lock = true ∧ next false ≠ next lock := hst
    rw [hlock] at hne
    rcases hfree with hf | hf
    · rw [hlock] at hf
      cases hf
    · exact hne hf

end Sys2Proof.Machine
end

section
/-!
SUPPORT. The statement about the register map.
-/

namespace Sys2Proof.Machine

/-- A write that changes nothing: to a read-only page, or to a register that the port mode does not have. -/
theorem write_ignored {s : State} {who : Requester} {off w : Nat} {k : RegKey} {ro : Bool} (hr : s.regReach who = true) (ha : accessOk off 4 = true)
    (h : s.placeOf who off = .reg k w ro) (hi : ro = true ∨ s.regThere k = false) (v : Nat) :
    ∃ t : State, exec (.registerWrite who off 4 v) s = .next t ∧ t.out = s.out ∧ t.held = s.held ∧ ∀ q, t.reg q = s.reg q := by
  obtain ⟨t, he, lt⟩ := exec_write_word hr ha h (Place.open_reg k w ro) v
  have hs : s.placeWrite (v % 4294967296) (.reg k w ro) = s := by
    cases ro with
    | true => rfl
    | false => exact writeWord_absent (hi.resolve_left (by decide)) w _
  rw [hs] at lt
  exact ⟨t, he, lt.out, lt.held, lt.reg⟩

/-- A write of a word that is not the highest is held (R754). -/
theorem write_held {s : State} {who : Requester} {off w : Nat} {k : RegKey} (hr : s.regReach who = true) (ha : accessOk off 4 = true)
    (h : s.placeOf who off = .reg k w false) (ht : s.regThere k = true) (hw : 32 * (w + 1) < k.name.place.width) (v : Nat) :
    ∃ t : State, exec (.registerWrite who off 4 v) s = .next t ∧ t.out = s.out ∧
      t.held = (s.held.filter fun h => !decide (h.key = k ∧ h.word = w)) ++ [⟨k, w, v % 4294967296⟩] ∧ ∀ q, t.reg q = s.reg q := by
  obtain ⟨t, he, lt⟩ := exec_write_word hr ha h (Place.open_reg k w false) v
  rw [show s.placeWrite (v % 4294967296) (.reg k w false) = _ from writeWord_low ht hw _] at lt
  exact ⟨t, he, lt.out, lt.held, lt.reg⟩

theorem read_special {s : State} {who : Requester} {off w : Nat} {k : RegKey} {ro : Bool} (hr : s.regReach who = true) (ha : accessOk off 4 = true)
    (h : s.placeOf who off = .reg k w ro) :
    ∃ (t : State) (v : _), exec (.registerLatchingRead who off 4) s = .next t ∧ t.out = s.out ++ [Output.readData who v] ∧ v < 4294967296 := by
  obtain ⟨t, he, lt⟩ := exec_read_word hr ha h (Place.open_reg k w ro)
  exact ⟨t, _, he, lt.out.trans (congrArg (· ++ _) (readWord_out s who k w ro)), readWord_lt s who k w ro⟩

/-- A read of the interrupt controller sends nothing out; a claim changes the controller alone. -/
theorem plicRead_out (s : State) (o : Nat) : (s.plicRead o).2.out = s.out := by
  have hclaim : ∀ ctx, (s.irqClaim ctx).2.out = s.out := fun ctx => by
    unfold State.irqClaim
    dsimp only
    split <;> rfl
  unfold State.plicRead
  dsimp only
  split
  · rfl
  split
  · rfl
  split
  · rfl
  split
  · split
    · rfl
    · split
      · exact hclaim _
      · rfl
  · rfl

/-- Settles O60: reads and writes go by the place they fall on; a commit stores each field by its access code before the command in the write runs. -/
theorem registersAreReadAndWrittenByTheirCodes : Obligations.RegistersAreReadAndWrittenByTheirCodes := by
  unfold Obligations.RegistersAreReadAndWrittenByTheirCodes
  refine ⟨fun s who off size hr => ?refused, fun s who off hr ha => ⟨fun h v => ?blank, fun o h => ?recovRead, fun o v h h1 h2 => ?recovWrite, fun f o h v => ?vectors,
    fun o h v => ?plic, fun k w ro h => ?reg⟩, fun n lock old v m f hf => ?codes, fun s k old new m => ?cross, fun s ctx n hn h0 => ?claim,
    fun s who hr hrec hwho => ?lock, fun s v hr => ?cores⟩
  case refused =>
    obtain ⟨t, ht, lt⟩ := exec_read hr off size
    refine ⟨fun h v => ?_, fun page ha h v => ?_⟩
    · obtain ⟨u, hu, lu⟩ := exec_write hr off size v
      rw [regRead_refused h] at lt
      rw [regWriteAt_refused v h] at lu
      exact ⟨t, u, ht, hu, lt.out, lu.out, lu.held, fun k => ⟨lt.reg k, lu.reg k⟩⟩
    · obtain ⟨u, hu, lu⟩ := exec_write hr off size v
      rw [regRead_foreign ha h] at lt
      rw [regWriteAt_foreign v ha h] at lu
      exact ⟨t, u, ht, hu, lt.out.trans (keyIsolation_out s who page), lu.out.trans lt.out.symm, lu.held.trans (keyIsolation_held s who page),
        (lt.fget _ 0 0 0).trans (keyIsolation_counts s who page), (lu.fget _ 0 0 0).trans (lt.fget _ 0 0 0).symm, lu.cip.trans (keyIsolation_cip s who page)⟩
  case blank =>
    obtain ⟨t, ht, lt⟩ := exec_read_word hr ha h Place.open_blank
    obtain ⟨u, hu, lu⟩ := exec_write_word hr ha h Place.open_blank v
    exact ⟨t, u, ht, hu, lt.out, lu.out, lu.held, fun k => ⟨lt.reg k, lu.reg k⟩⟩
  case recovRead =>
    obtain ⟨t, ht, lt⟩ := exec_read_word hr ha h (Place.open_recov o)
    exact ⟨t, ht, lt.out⟩
  case recovWrite =>
    obtain ⟨u, hu, lu⟩ := exec_write_word hr ha h (Place.open_recov o) v
    refine ⟨u, hu, lu.upd.trans ?_⟩
    show (s.recovWrite o (v % 4294967296)).upd = _
    unfold State.recovWrite
    dsimp only
    rw [if_neg (by omega), if_neg (by omega), if_pos ⟨h1, h2⟩]
  case vectors =>
    obtain ⟨t, ht, lt⟩ := exec_read_word hr ha h (Place.open_vectors f o)
    obtain ⟨u, hu, lu⟩ := exec_write_word hr ha h (Place.open_vectors f o) v
    exact ⟨t, u, ht, lt.out, hu, lu.host⟩
  case plic =>
    obtain ⟨t, ht, lt⟩ := exec_read_word hr ha h (Place.open_plic o)
    obtain ⟨u, hu, lu⟩ := exec_write_word hr ha h (Place.open_plic o) v
    exact ⟨t, u, ht, lt.out.trans (congrArg (· ++ _) (plicRead_out s o)), lt.sup, hu, lu.sup⟩
  case reg =>
    intro special
    refine ⟨fun _ => read_special hr ha h, fun hk hw => ?wordZero, fun hk hw => read_word_later hr ha h hk hw, fun hk hw hwide h8 h1 => ?wide,
      fun hi v => write_ignored hr ha h hi v, fun hro ht hw v => ?held, fun hro ht hw v => ?commit⟩
    case wordZero =>
      subst hw
      exact read_word_zero hr ha h hk
    case wide =>
      subst hw
      obtain ⟨t, ht, lt⟩ := exec_read hr off 8
      exact ⟨t, ht, lt.out.trans (regRead_wide hk hwide h8 h h1)⟩
    case held =>
      subst hro
      exact write_held hr ha h ht hw v
    case commit =>
      subst hro
      refine ⟨fun hn => ?_, commit_commands hr ha h ht hw v, commit_stores hr ha h ht hw v⟩
      obtain ⟨t, he, lt⟩ := exec_commit hr ha h ht hw v
      exact ⟨t, he, lt.held.trans (commit_held hn _ _)⟩
  case codes =>
    dsimp only
    rw [bits_fieldsNext _ _ _ _ _ hf]
    unfold fieldNext mergeBits
    cases f.acc <;> rfl
  case cross =>
    refine ⟨fun hk => ?_, fun hk => ?_, fun hk => ?_, fun hk => ?_⟩
    · rcases hk with hk | hk <;> simp only [State.crossFields, hk]
    · simp only [State.crossFields, hk]
    · simp only [State.crossFields, hk]
    · simp only [List.mem_cons, List.not_mem_nil, or_false] at hk
      rcases hk with hk | hk | hk | hk | hk | hk | hk <;> simp only [State.crossFields, hk]
  case claim =>
    subst hn
    obtain ⟨hm, hf⟩ := s.irqBest_first ctx h0
    obtain ⟨-, hp, he, hprio⟩ := (s.mem_irqReady ctx 0 _).1 hm
    refine ⟨hp, he, fun i hi hpi hei => ?_⟩
    rcases Nat.eq_zero_or_pos (tableGet s.sup.plic.prio i) with hz | hz
    · exact ⟨by omega, fun e => by omega⟩
    · exact hf i ((s.mem_irqReady ctx 0 i).2 ⟨hi, hpi, hei, hz⟩)
  case lock =>
    have hw : (s.regReach who && !s.upd.recovery && decide (who = .sup ∨ who = .func 0)) = true := by simp [hr, hrec, hwho]
    refine answers_eq (when_of hw _ s) ⟨?_, fun hl q => ?_, ?_, fun q hq => ?_⟩
    · unfold State.flag
      rw [fget_reach rfl]
      exact s.setLock_lock
    · rw [reg_settle, State.reg_within, State.setLock_again hl, ite_self]
    · rw [fget_reach rfl, State.setLock_denied]
    · rw [reg_settle, State.reg_within, State.setLock_other s hq, ite_self]
  case cores =>
    obtain ⟨hruns, hkeeps, hadds⟩ := s.releaseCores_from v
    exact answers_eq (when_of hr _ s) ⟨hruns, hkeeps, fun n h1 h8 hb => hadds n ⟨h1, h8, hb⟩⟩

end Sys2Proof.Machine
end

section
/-!
SUPPORT. Blocks that keep to their own state (chapter 01): read off the reach of each command.
-/

namespace Sys2Proof.Safety

open Sys2Proof.Machine

/-- A command leaves every part that its reach does not name. -/
theorem exec_agree {i : Instr} {s t : State} (h : exec i s = .next t) {p : Part} (hp : (reachOf i).1.contains p = false) (hc : p ≠ .changes) :
    Agree p s t := by
  obtain ⟨u, hu, -, hk, -⟩ := everyCommandKeepsWhatLiesOutsideItsReach i s
  obtain rfl : u = t := by rw [hu] at h; exact Host.Outcome.next.inj h
  exact hk p (by simpa using hp) hc

/-- A command leaves the queue. -/
theorem exec_pending {i : Instr} {s t : State} (h : exec i s = .next t) : t.pending = s.pending := (exec_keeps h).1

/-- Only the start of a bank and the installing of a recovery package name what the firmware is. -/
theorem reachOf_ident (i : Instr) : (reachOf i).1.contains .ident = false ∨ (∃ r, i = .startStageDone r) ∨ ∃ r, i = .recoveryCheckDone r := by
  cases i
  case startStageDone r => exact .inr (.inl ⟨r, rfl⟩)
  case recoveryCheckDone r => exact .inr (.inr ⟨r, rfl⟩)
  all_goals exact .inl rfl

/-- No command of a list reaches any part of another list. -/
def Apart (l : List Instr) (ps : List Part) : Prop := (l.all fun i => ps.all fun p => !(reachOf i).1.contains p) = true

theorem Apart.agree {l : List Instr} {ps : List Part} (h : Apart l ps) (hc : .changes ∉ ps) {i : Instr} (hi : i ∈ l) {s t : State}
    (he : exec i s = .next t) : ∀ p ∈ ps, Agree p s t := by
  intro p hp
  have := List.all_eq_true.1 (List.all_eq_true.1 h i hi) p hp
  exact exec_agree he (by simpa using this) fun e => hc (e ▸ hp)

/-- Settles O7: each part that a clause names lies outside the reach of the commands that the clause is about. -/
theorem blocksKeepToTheirOwnState : Obligations.BlocksKeepToTheirOwnState := by
  unfold Obligations.BlocksKeepToTheirOwnState
  refine ⟨fun i s t h hne => ?ident, fun src d x s t i hi h => ?data, fun n a b w hd l d m o z s t i hi h => ?blocks⟩
  case ident => exact (reachOf_ident i).resolve_left fun hp => hne (exec_agree h hp (by decide))
  case data =>
    have keep := Apart.agree (ps := [.cip, .cfl, .upd, .led, .drt, .town, .latches, .winLatch, .held]) (by rfl) (by decide) hi h
    simpa [Agree, exec_pending h] using keep
  case blocks =>
    have keep := Apart.agree (ps := [.kv, .index, .tun, .media, .host, .ywp, .cip]) (by rfl) (by decide) hi h
    simpa [Agree, exec_pending h] using keep

end Sys2Proof.Safety
end

section
/-!
SUPPORT. What the end of an operation leaves: every block but those that its completion, its reply and its context belong to.
-/

namespace Sys2Proof.Machine

/-! ### The frame of an end -/

/-- What ends of operations leave alone: every block that holds no completion, session, message or context; of the Tun all but the references to its
entries; of the registers all but the status of the rings. -/
structure EndKeeps (s t : State) : Prop where
  clk : t.clk = s.clk
  power : t.power = s.power
  index : t.index = s.index
  time : t.time = s.time
  town : t.town = s.town
  net : t.net = s.net
  cip : t.cip = s.cip
  cfl : t.cfl = s.cfl
  upd : t.upd = s.upd
  free : t.free = s.free
  pending : t.pending = s.pending
  rows : t.tun.rows = s.tun.rows
  entries : ∀ e ∈ t.tun.entries, ∃ d ∈ s.tun.entries, e = { d with refs := e.refs }
  ctxs : ∀ e ∈ t.kv.ctxs, e ∈ s.kv.ctxs
  kv : t.kv = { s.kv with ctxs := t.kv.ctxs }
  reg : ∀ q : RegKey, q.name ≠ .hqRingStat → q.name ≠ .hqAdmStat → t.reg q = s.reg q
  vfs : t.host.vfs = s.host.vfs
  perst : t.host.perst = s.host.perst

theorem EndKeeps.refl (s : State) : EndKeeps s s :=
  ⟨rfl, rfl, rfl, rfl, rfl, rfl, rfl, rfl, rfl, rfl, rfl, rfl, fun e he => ⟨e, he, rfl⟩, fun _ he => he, rfl, fun _ _ _ => rfl, rfl, rfl⟩

theorem EndKeeps.trans {s t u : State} (h : EndKeeps s t) (k : EndKeeps t u) : EndKeeps s u where
  clk := k.clk.trans h.clk
  power := k.power.trans h.power
  index := k.index.trans h.index
  time := k.time.trans h.time
  town := k.town.trans h.town
  net := k.net.trans h.net
  cip := k.cip.trans h.cip
  cfl := k.cfl.trans h.cfl
  upd := k.upd.trans h.upd
  free := k.free.trans h.free
  pending := k.pending.trans h.pending
  rows := k.rows.trans h.rows
  entries e he := by
    obtain ⟨d, hd, hed⟩ := k.entries e he
    obtain ⟨d', hd', hdd⟩ := h.entries d hd
    exact ⟨d', hd', by rw [hed, hdd]⟩
  ctxs e he := h.ctxs e (k.ctxs e he)
  kv := by rw [k.kv, h.kv]
  reg q h1 h2 := (k.reg q h1 h2).trans (h.reg q h1 h2)
  vfs := k.vfs.trans h.vfs
  perst := k.perst.trans h.perst

theorem EndKeeps.foldl {α : Type} (g : State → α → State) (h : ∀ s a, EndKeeps s (g s a)) (l : List α) (s : State) : EndKeeps s (l.foldl g s) := by
  induction l generalizing s with
  | nil => exact EndKeeps.refl s
  | cons a l ih => exact (h s a).trans (ih _)

theorem EndKeeps.ite {c : Prop} [Decidable c] {s t u : State} (h : EndKeeps s t) (k : EndKeeps s u) : EndKeeps s (if c then t else u) := by
  split
  · exact h
  · exact k

theorem EndKeeps.fget {s t : State} (h : EndKeeps s t) {x : Fld} (h1 : x.reg ≠ .hqRingStat) (h2 : x.reg ≠ .hqAdmStat) (i j k : Nat) :
    t.fget x i j k = s.fget x i j k := by
  unfold State.fget
  rw [h.reg _ h1 h2]

theorem endKeeps_emit (s : State) (o : Output) : EndKeeps s (s.emit o) := { EndKeeps.refl s with }

theorem endKeeps_modRing (s : State) (f n : Nat) (g : Ring → Ring) : EndKeeps s (s.modRing f n g) := { EndKeeps.refl s with }

theorem endKeeps_modFn (s : State) (f : Nat) (g : Func → Func) : EndKeeps s (s.modFn f g) := { EndKeeps.refl s with }

theorem endKeeps_modSlot (s : State) (n : Nat) (g : Slot → Slot) : EndKeeps s (s.modSlot n g) := { EndKeeps.refl s with }

theorem endKeeps_sendMsg (s : State) (n : Nat) (h : YHead) (b : Bytes) (c : Option Nat) (r : Nat) : EndKeeps s (s.sendMsg n h b c r) :=
  endKeeps_modSlot _ _ _

theorem endKeeps_report (s : State) (k : EvKind) (key d : Nat) : EndKeeps s (s.report k key d) := by
  unfold State.report State.reportFrom
  dsimp only
  exact EndKeeps.ite { EndKeeps.refl s with } (EndKeeps.ite { EndKeeps.refl s with } (EndKeeps.ite { EndKeeps.refl s with } { EndKeeps.refl s with }))

/-- A field of a ring's status. -/
theorem endKeeps_rp (s : State) (f n : Nat) {x : Fld} (hx : x.reg = .hqRingStat) (v : Nat) : EndKeeps s (s.rp f n x v) where
  __ := EndKeeps.refl s
  reg q h1 h2 := by
    unfold State.rp
    rw [State.reg_setReg, if_neg]
    rintro rfl
    rw [ringKey_name, hx] at h1 h2
    split at h1
    · next h => exact h2 (if_pos h)
    · exact h1 rfl

theorem endKeeps_sendMsix (s : State) (f v : Nat) : EndKeeps s (s.sendMsix f v) := (endKeeps_modFn _ _ _).ite (endKeeps_emit _ _)

theorem endKeeps_coalesce (s : State) (f n : Nat) (now : Bool) : EndKeeps s (s.coalesce f n now) :=
  (EndKeeps.refl s).ite (((endKeeps_modRing _ _ _ _).trans (endKeeps_sendMsix _ _ _)).ite (endKeeps_modRing _ _ _ _))

theorem endKeeps_postEntry (s : State) (f n tag st rl rs og gen : Nat) (now : Bool) : EndKeeps s (s.postEntry f n tag st rl rs og gen now) := by
  unfold State.postEntry
  dsimp only
  exact (((endKeeps_emit _ _).trans (endKeeps_rp _ _ _ rfl _)).trans ((endKeeps_modRing _ _ _ _).ite (EndKeeps.refl _))).trans (endKeeps_coalesce _ _ _ _)

theorem endKeeps_completeRing (s : State) (c : OpCtx) (f n : Nat) (r : Res) : EndKeeps s (s.completeRing c f n r) := by
  unfold State.completeRing
  dsimp only
  have h := (endKeeps_postEntry s f n c.desc.tag r.status r.rlen r.rstamp r.origin c.gen false).trans
    (endKeeps_rp _ f n (x := .hqRingStat_outstanding) rfl ((s.postEntry f n c.desc.tag r.status r.rlen r.rstamp r.origin c.gen false).rg f n .hqRingStat_outstanding - 1))
  exact (EndKeeps.refl s).ite ((h.trans (endKeeps_modRing _ _ _ _)).ite h)

/-- Moving references to an entry. -/
theorem endKeeps_refs (s : State) (id : Nat) (g : Nat → Nat) : EndKeeps s (s.modEntry id fun e => { e with refs := g e.refs }) where
  __ := EndKeeps.refl s
  entries e he := by
    obtain ⟨d, hd, rfl⟩ := List.mem_map.1 (show e ∈ updWhere _ _ s.tun.entries from he)
    refine ⟨d, hd, ?_⟩
    split <;> rfl

theorem endKeeps_releaseCtx (s : State) (c : OpCtx) : EndKeeps s (s.releaseCtx c) := by
  unfold State.releaseCtx
  extract_lets u v
  have hu : EndKeeps s u := by
    unfold u
    split
    · exact { EndKeeps.refl s with }
    · exact EndKeeps.refl s
  have hv : EndKeeps u v := EndKeeps.foldl _ (fun x id => endKeeps_refs x id (· - 1)) _ _
  refine (hu.trans hv).trans { EndKeeps.refl v with ctxs := fun e he => (List.mem_filter.1 he).1, kv := rfl }

theorem endKeeps_placeResult (s : State) (c : OpCtx) (ps : List (Nat × Bytes)) : EndKeeps s (s.placeResult c ps) := by
  unfold State.placeResult
  have h := EndKeeps.foldl (fun s p => (scatterAt p.1 (resultSgl c.desc c.fx) p.2).foldl (fun s w => s.emit (.memWrite w.1 w.2 (c.poisoned p.1))) s)
    (fun s p => EndKeeps.foldl _ (fun s w => endKeeps_emit s _) _ s) ps s
  exact (EndKeeps.refl s).ite ((h.trans (endKeeps_report _ _ _ _)).ite h)

theorem endKeeps_sendTown (s : State) (m : Nat) (t : TMsg) : EndKeeps s (s.sendTown m t) := by
  unfold State.sendTown
  dsimp only
  split
  · exact (endKeeps_emit _ _).trans (endKeeps_sendMsg _ _ _ _ _ _)
  · exact endKeeps_emit _ _

theorem endKeeps_replyTo (s : State) (c : OpCtx) (slot m : Nat) (r : Res) (ps : List (Nat × Bytes)) : EndKeeps s (s.replyTo c slot m r ps) := by
  unfold State.replyTo
  extract_lets rbuf body h res u v rec_ wait
  have hv : EndKeeps s v := ((endKeeps_sendMsg _ _ _ _ _ _).ite (EndKeeps.refl s)).trans (endKeeps_modSlot _ _ _)
  refine EndKeeps.ite (.trans ?_ (EndKeeps.foldl _ (fun x y => (endKeeps_modSlot _ _ _).trans (endKeeps_sendMsg _ _ _ _ _ _)) _ _)) hv
  exact hv.trans { EndKeeps.refl v with }

theorem endKeeps_finishAt (s : State) (c : OpCtx) (r : Res) (ps : List (Nat × Bytes)) : EndKeeps s (s.finishAt c r ps) := by
  unfold State.finishAt
  split
  · exact ((endKeeps_placeResult _ _ _).trans (endKeeps_releaseCtx _ _)).trans (endKeeps_completeRing _ _ _ _ _)
  · exact (endKeeps_releaseCtx _ _).trans (endKeeps_replyTo _ _ _ _ _ _)
  · exact (endKeeps_releaseCtx _ _).trans (endKeeps_sendTown _ _ _)

theorem endKeeps_finish (s : State) (c : OpCtx) (r : Res) (ps : List (Nat × Bytes)) : EndKeeps s (s.finish c r ps) :=
  (endKeeps_finishAt s c r ps).trans (EndKeeps.foldl _ (fun s _ => EndKeeps.foldl _ (fun s b => endKeeps_finishAt s b _ _) _ s) _ _)

theorem endKeeps_fail (s : State) (c : OpCtx) (st : Nat) : EndKeeps s (s.fail c st) :=
  ((endKeeps_report _ _ _ _).ite (EndKeeps.refl s)).trans (endKeeps_finish _ _ _ _)

/-! ### An end without result bytes -/

/-- An end without result bytes has nothing to poison. -/
theorem State.finish_bare (s : State) (c : OpCtx) (r : Res) : s.finish c r [] = s.finish { c with poison := [] } r [] := rfl

/-- The end of an operation of a ring that leaves no result bytes. -/
theorem State.finish_ring_bare (s : State) (c : OpCtx) (f n : Nat) (r : Res) (hs : c.src = .ring f n) (ho : c.orphan = false) :
    Safety.Finishes s c f n r (s.finish c r []) ∧ ∀ o ∈ s.out, o ∈ (s.finish c r []).out := by
  obtain ⟨-, h1, h2, h3⟩ := s.finish_ring { c with poison := [] } f n r [] hs ho rfl
  rw [s.finish_bare]
  exact ⟨⟨h1, fun e he => (h3 e he).1⟩, h2⟩

/-- Where the ring stood alike before, the entry is the same. -/
theorem Finishes.of_sameRing {s u t : State} {c : OpCtx} {f n : Nat} {r : Res} (h : Safety.Finishes u c f n r t) (k : SameRing f n s u) :
    Safety.Finishes s c f n r t := by
  obtain ⟨h1, h2⟩ := h
  obtain ⟨k1, k2⟩ := k
  rw [k1 .hqCqBase_addr (Or.inr rfl), k1 .hqRingStat_cqTail (Or.inl rfl), k1 .hqRingStat_sqHead (Or.inl rfl), k2] at h1
  exact ⟨h1, h2⟩

/-- A command's answer finishes an operation where what it computed does. -/
theorem Finishes.settle {s w u : State} {c : OpCtx} {f n : Nat} {r : Res} {ps : List Part} {ns : List RegName} (h : Safety.Finishes s c f n r u)
    (ho : ps.contains .out = true) (hk : ps.contains .kv = true) : Safety.Finishes s c f n r (Machine.settle w (w.within ps ns u)) := by
  obtain ⟨h1, h2⟩ := h
  have eo : (Machine.settle w (w.within ps ns u)).out = u.out := if_pos ho
  have ek : (Machine.settle w (w.within ps ns u)).kv = u.kv := if_pos hk
  exact ⟨by rw [eo]; exact h1, by rw [ek]; exact h2⟩

/-- A failing operation of a ring ends with its status. -/
theorem State.fail_ring (s : State) (c : OpCtx) (f n st : Nat) (hs : c.src = .ring f n) (ho : c.orphan = false) :
    Safety.Finishes s c f n { status := st } (s.fail c st) := by
  unfold State.fail
  split
  · exact Finishes.of_sameRing (State.finish_ring_bare _ c f n _ hs ho).1 (sameRing_regs (State.reportFrom_regs _ _ _ _ _) (State.reportFrom_host _ _ _ _ _))
  · exact (s.finish_ring_bare c f n _ hs ho).1

end Sys2Proof.Machine
end

section
/-!
SUPPORT. The answers to the engine's reads (chapter 01, R120 to R134).
-/

namespace Sys2Proof.Machine

/-! ### Contexts by number -/

theorem KvSt.ctx?_id {k : KvSt} {id : Nat} {c : OpCtx} (h : k.ctx? id = some c) : c.id = id := by simpa using List.find?_some h

theorem KvSt.ctx?_mem {k : KvSt} {id : Nat} {c : OpCtx} (h : k.ctx? id = some c) : c ∈ k.ctxs := List.mem_of_find?_eq_some h

/-- A context that has been replaced under its number. -/
theorem State.ctx_put {s : State} {id : Nat} {c c' : OpCtx} (h : s.kv.ctx? id = some c) (hi : c'.id = id) :
    (s.modCtx id fun _ => c').kv.ctx? id = some c' := by
  have := find_updWhere (fun x : OpCtx => x.id == id) (fun _ => c') s.kv.ctxs fun _ _ => by simpa using hi
  exact this.trans (congrArg (Option.map fun _ => c') h)

/-! ### The answer to a Swap (R120, R121, R125) -/

/-- A Swap that has returned: the engine takes no other until the next. -/
def State.swapped (s : State) (f : Nat) : State := s.modFn f fun x => { x with swapOut := false }

theorem State.swapped_fn (s : State) (f : Nat) : (s.swapped f).fn f = { s.fn f with swapOut := false } := s.fn_modFn f _ (s.fn_f f)

/-- The interval after a summary word. -/
def State.swapInterval (s : State) (f v : Nat) : Nat := s.nextInterval f (s.fn f).intervalNs (decide (v ≠ 0))

theorem State.swapInterval_eq (s : State) (f v : Nat) :
    s.swapInterval f v = if v = 0 then min (2 * (s.fn f).intervalNs) (s.fget .hqFuncCtrl_pollMaxUs f * 1000) else 250 := by
  unfold State.swapInterval State.nextInterval
  by_cases h : v = 0 <;> simp [h]

/-- The state in which the rings that a summary word names are read. -/
def State.summed (s : State) (f v : Nat) : State :=
  (s.swapped f).modFn f fun x => { x with intervalNs := (s.swapped f).swapInterval f v, due := s.clk.cycles + cyclesOfNs ((s.swapped f).swapInterval f v) }

theorem exec_swapValue {s : State} {f : Nat} (h : s.hostOn = true) (hs : (s.fn f).swapOut = true) (v : Nat) :
    ∃ t : State, exec (.swapReturn f (.value v)) s = .next t ∧ t.host.funcs = (s.summed f v).host.funcs ∧
      t.out = s.out ++ ((List.range 64).filter fun n => bitAt v n && decide (s.ringState f n = 1)).map fun n => .memRead f (s.dbAddr f n) 16 := by
  obtain ⟨h1, -, h3⟩ := budgetDbs_out f ((List.range 64).filter fun n => bitAt v n && decide ((s.summed f v).ringState f n = 1)) (s.summed f v)
  exact answers_eq (when_of (by rw [h, hs]; rfl) _ _) ⟨h3, h1⟩

theorem State.summed_fn (s : State) (f v : Nat) :
    (s.summed f v).fn f = { s.fn f with swapOut := false, intervalNs := s.swapInterval f v, due := s.clk.cycles + cyclesOfNs (s.swapInterval f v) } := by
  have hi : (s.swapped f).swapInterval f v = s.swapInterval f v := by unfold State.swapInterval; rw [s.swapped_fn]; rfl
  unfold State.summed
  rw [State.fn_modFn _ _ _ (State.fn_f _ _), s.swapped_fn, hi]

/-- A Swap that has failed: a bit of HQ_FUNC_STAT, and an event. -/
theorem exec_swapError {s : State} {f : Nat} (h : s.hostOn = true) (hs : (s.fn f).swapOut = true) (x y : Fld) (k : EvKind) (r : SwapResult)
    (hr : exec (.swapReturn f r) s = done [.clk, .host, .sup, .ev, .out] [.hqFuncStat] s
      (when (s.hostOn && (s.fn f).swapOut) (fun s => ((s.swapped f).fput x 1 f).report k f) s))
    (hx : x.reg = .hqFuncStat) (hy : y.reg = .hqFuncStat) (hw : 0 < x.w) (hd : y.lsb + y.w ≤ x.lsb ∨ x.lsb + x.w ≤ y.lsb) :
    ∃ t : State, exec (.swapReturn f r) s = .next t ∧ t.fget x f = 1 ∧ t.fget y f = s.fget y f ∧ (t.fn f).swapOut = false ∧
      t.ev = (s.report k f).ev ∧ t.out = s.out := by
  rw [hr]
  have e : (((s.swapped f).fput x 1 f).report k f).regs = ((s.swapped f).fput x 1 f).regs := State.reportFrom_regs _ _ _ _ _
  refine answers_eq (when_of (by rw [h, hs]; rfl) _ _) ⟨?_, ?_, ?_, ?_, ?_⟩
  · rw [fget_reach (by rw [hx]; rfl), State.fget_congr e, State.fget_fput_same, Nat.mod_eq_of_lt (Nat.one_lt_two_pow hw.ne')]
  · rw [fget_reach (by rw [hy]; rfl), State.fget_congr e, State.fget_fput_field _ x y _ _ _ _ (hy.trans hx.symm) hd]
    rfl
  · have hh : (((s.swapped f).fput x 1 f).report k f).host = (s.swapped f).host := State.reportFrom_host _ _ _ _ _
    have : (((s.swapped f).fput x 1 f).report k f).fn f = (s.swapped f).fn f := by unfold State.fn; rw [hh]
    exact (congrArg Func.swapOut this).trans (by rw [s.swapped_fn])
  · exact report_ev_congr (s := (s.swapped f).fput x 1 f) (t := s) rfl rfl k f 0
  · exact State.reportFrom_out _ _ _ _ _

/-! ### A doorbell record (R119, R123, R124) -/

/-- The ring of a valid doorbell record: its tail and head are taken. -/
def State.tookDb (s : State) (f n tail head : Nat) : State :=
  (s.modRing f n fun r => { r with reading := r.reading - 1, polled := false }).modRing f n fun r =>
    { r with tailSeen := tail, headSeen := head, pendingFetch := decide (tail ≠ s.rg f n .hqRingStat_sqHead) }

/-- The next poll of a ring whose record was polled. -/
def State.pollNext (s : State) (f n i : Nat) : State := s.modRing f n fun r => { r with intervalNs := i, due := s.clk.cycles + cyclesOfNs i }

/-- The next reread of a ring that waits for room. -/
def State.roomNext (s : State) (f n i : Nat) : State := s.modRing f n fun r => { r with roomNs := i, roomDue := s.clk.cycles + cyclesOfNs i }

/-- The next poll of a ring whose record came by a poll, in the fallback mode. -/
def State.dbPolled (s : State) (f n : Nat) (r : Ring) (tail : Nat) : State :=
  if r.polled && s.polls f 1 then s.pollNext f n (s.nextInterval f r.intervalNs (decide (tail ≠ r.tailSeen))) else s

/-- The next reread of a ring that waits for room once its record has come. -/
def State.dbRoom (s : State) (f n : Nat) (r : Ring) (waited : Bool) (head : Nat) : State :=
  if s.waitsRoom f n then s.roomNext f n (s.nextInterval f r.roomNs (!waited || decide (head ≠ r.headSeen))) else s

theorem exec_doorbell {s : State} {f n tail head : Nat} (h : s.hostOn = true) (hr : 0 < (s.ring f n).reading) (ha : s.ringState f n = 1)
    (ht : tail < s.ringN f n) (hh : head < s.ringN f n) :
    exec (.doorbellReadDone f n tail head) s = done [.host, .sup, .ev] [] s
      (((s.tookDb f n tail head).dbPolled f n (s.ring f n) tail).dbRoom f n (s.ring f n) (s.waitsRoom f n) head) := by
  have hg : (s.hostOn && decide (0 < (s.ring f n).reading)) = true := by simp [h, hr]
  show done _ _ s (when _ _ s) = _
  rw [when_of hg]
  dsimp only
  rw [if_neg (show ¬ State.ringState (s.modRing f n _) f n ≠ 1 from fun hc => hc ha),
    if_neg (show ¬ (State.ringN (s.modRing f n _) f n ≤ tail ∨ State.ringN (s.modRing f n _) f n ≤ head) from fun hc =>
      hc.elim (fun hc => absurd ht (Nat.not_lt.2 hc)) fun hc => absurd hh (Nat.not_lt.2 hc))]
  rfl

theorem State.tookDb_ring (s : State) (f n tail head : Nat) : ∃ k, (s.tookDb f n tail head).ring f n = { s.ring f n with
    reading := (s.ring f n).reading - 1, polled := false, tailSeen := tail, headSeen := head,
    pendingFetch := decide (tail ≠ s.rg f n .hqRingStat_sqHead), changeSeq := k } := by
  unfold State.tookDb
  rw [State.ring_modRing _ _ _ _ (State.ring_fn _ _ _).1 (State.ring_fn _ _ _).2, State.ring_modRing _ _ _ _ (State.ring_fn _ _ _).1 (State.ring_fn _ _ _).2]
  exact ⟨_, rfl⟩

theorem State.tookDb_other (s : State) (f n tail head : Nat) {a b : Nat} (h : ¬(a = f ∧ b = n)) : (s.tookDb f n tail head).ring a b = s.ring a b := by
  unfold State.tookDb
  rw [State.ring_modRing_other _ _ _ _ _ _ (State.ring_fn _ _ _).1 (State.ring_fn _ _ _).2 h, State.ring_modRing_other _ _ _ _ _ _ (State.ring_fn _ _ _).1 (State.ring_fn _ _ _).2 h]

theorem State.dbPolled_ring (s : State) (f n : Nat) (r : Ring) (tail : Nat) : ∃ due k, (s.dbPolled f n r tail).ring f n = { s.ring f n with
    intervalNs := if r.polled = false ∨ s.polls f 1 = false then (s.ring f n).intervalNs else s.nextInterval f r.intervalNs (decide (tail ≠ r.tailSeen)),
    due := due, changeSeq := k } := by
  unfold State.dbPolled
  by_cases h : (r.polled && s.polls f 1) = true
  · obtain ⟨h1, h2⟩ := Bool.and_eq_true_iff.1 h
    rw [if_pos h, if_neg (by simp [h1, h2])]
    unfold State.pollNext
    rw [State.ring_modRing _ _ _ _ (State.ring_fn _ _ _).1 (State.ring_fn _ _ _).2]
    exact ⟨_, _, rfl⟩
  · rw [if_neg h, if_pos (by simpa [← Bool.not_eq_true, imp_iff_not_or] using h)]
    exact ⟨_, _, rfl⟩

theorem State.dbPolled_other (s : State) (f n : Nat) (r : Ring) (tail : Nat) {a b : Nat} (h : ¬(a = f ∧ b = n)) :
    (s.dbPolled f n r tail).ring a b = s.ring a b := by
  unfold State.dbPolled
  split
  · exact State.ring_modRing_other _ _ _ _ _ _ (State.ring_fn _ _ _).1 (State.ring_fn _ _ _).2 h
  · rfl

theorem State.dbPolled_rest (s : State) (f n : Nat) (r : Ring) (tail : Nat) :
    (s.dbPolled f n r tail).regs = s.regs ∧ (s.dbPolled f n r tail).clk = s.clk ∧ (s.dbPolled f n r tail).ev = s.ev := by
  unfold State.dbPolled
  split <;> exact ⟨rfl, rfl, rfl⟩

/-- Whether a ring waits for room rests on its registers, what it has to fetch, and the head seen. -/
theorem State.waitsRoom_congr {s t : State} {f n : Nat} (hr : ∀ q, t.reg q = s.reg q) (hp : (t.ring f n).pendingFetch = (s.ring f n).pendingFetch)
    (hh : (t.ring f n).headSeen = (s.ring f n).headSeen) : t.waitsRoom f n = s.waitsRoom f n := by
  have hg : ∀ x, t.rg f n x = s.rg f n x := fun x => by unfold State.rg; rw [hr]
  unfold State.waitsRoom State.cqRoom State.posted State.ringN
  simp only [hp, hh, hg]

/-- A ring after the reread of one that waits for room has been set. -/
theorem State.dbRoom_ring (s : State) (f n : Nat) (r : Ring) (waited : Bool) (head : Nat) : ∃ k, (s.dbRoom f n r waited head).ring f n = { s.ring f n with
    roomNs := if s.waitsRoom f n then s.nextInterval f r.roomNs (!waited || decide (head ≠ r.headSeen)) else (s.ring f n).roomNs,
    roomDue := if s.waitsRoom f n then s.clk.cycles + cyclesOfNs (s.nextInterval f r.roomNs (!waited || decide (head ≠ r.headSeen))) else (s.ring f n).roomDue,
    changeSeq := k } := by
  unfold State.dbRoom
  by_cases h : s.waitsRoom f n = true
  · rw [if_pos h, if_pos h, if_pos h]
    unfold State.roomNext
    rw [State.ring_modRing _ _ _ _ (State.ring_fn _ _ _).1 (State.ring_fn _ _ _).2]
    exact ⟨_, rfl⟩
  · rw [if_neg h, if_neg h, if_neg h]
    exact ⟨_, rfl⟩

theorem State.dbRoom_other (s : State) (f n : Nat) (r : Ring) (waited : Bool) (head : Nat) {a b : Nat} (h : ¬(a = f ∧ b = n)) :
    (s.dbRoom f n r waited head).ring a b = s.ring a b := by
  unfold State.dbRoom
  split
  · exact State.ring_modRing_other _ _ _ _ _ _ (State.ring_fn _ _ _).1 (State.ring_fn _ _ _).2 h
  · rfl

theorem State.dbRoom_rest (s : State) (f n : Nat) (r : Ring) (waited : Bool) (head : Nat) :
    (s.dbRoom f n r waited head).regs = s.regs ∧ (s.dbRoom f n r waited head).ev = s.ev := by
  unfold State.dbRoom
  split <;> exact ⟨rfl, rfl⟩

/-- What the record of an ACTIVE ring leaves, where its tail and head are valid. -/
theorem exec_doorbellDone {s : State} {f n tail head : Nat} (h : s.hostOn = true) (hr : 0 < (s.ring f n).reading) (ha : s.ringState f n = 1)
    (ht : tail < s.ringN f n) (hh : head < s.ringN f n) :
    ∃ t : State, exec (.doorbellReadDone f n tail head) s = .next t ∧ (t.ring f n).tailSeen = tail ∧ (t.ring f n).headSeen = head ∧
      (t.ring f n).reading = (s.ring f n).reading - 1 ∧ (t.ring f n).pendingFetch = decide (tail ≠ s.rg f n .hqRingStat_sqHead) ∧
      (t.ring f n).resetReq = (s.ring f n).resetReq ∧ (t.ring f n).polled = false ∧ t.ev = s.ev ∧
      (t.ring f n).intervalNs = (if (s.ring f n).polled = false ∨ s.polls f 1 = false then (s.ring f n).intervalNs else if tail ≠ (s.ring f n).tailSeen then 250
        else min (2 * (s.ring f n).intervalNs) (s.fget .hqFuncCtrl_pollMaxUs f * 1000)) ∧
      (t.waitsRoom f n = true → (t.ring f n).roomDue = s.clk.cycles + (t.ring f n).roomNs * 3 / 5 ∧
        (t.ring f n).roomNs = if s.waitsRoom f n = false ∨ head ≠ (s.ring f n).headSeen then 250
          else min (2 * (s.ring f n).roomNs) (s.fget .hqFuncCtrl_pollMaxUs f * 1000)) ∧
      (∀ a b, ¬(a = f ∧ b = n) → t.ring a b = s.ring a b) := by
  rw [exec_doorbell h hr ha ht hh]
  obtain ⟨k, h1⟩ := s.tookDb_ring f n tail head
  obtain ⟨due, k', h2⟩ := (s.tookDb f n tail head).dbPolled_ring f n (s.ring f n) tail
  obtain ⟨r1, r2, r3⟩ := (s.tookDb f n tail head).dbPolled_rest f n (s.ring f n) tail
  rw [h1] at h2
  have hp : (s.tookDb f n tail head).polls f 1 = s.polls f 1 := rfl
  have hi : ∀ now news, (s.tookDb f n tail head).nextInterval f now news = s.nextInterval f now news := fun _ _ => rfl
  have hi' : ∀ now news, ((s.tookDb f n tail head).dbPolled f n (s.ring f n) tail).nextInterval f now news = s.nextInterval f now news := by
    intro now news
    unfold State.nextInterval
    rw [State.fget_congr r1]
    rfl
  have ho : ∀ a b, ¬(a = f ∧ b = n) → ((s.tookDb f n tail head).dbPolled f n (s.ring f n) tail).ring a b = s.ring a b :=
    fun a b hab => (State.dbPolled_other _ _ _ _ _ hab).trans (State.tookDb_other _ _ _ _ _ hab)
  rw [hp, hi] at h2
  have hc : ((s.tookDb f n tail head).dbPolled f n (s.ring f n) tail).clk = s.clk := r2
  have he : ((s.tookDb f n tail head).dbPolled f n (s.ring f n) tail).ev = s.ev := r3
  generalize (s.tookDb f n tail head).dbPolled f n (s.ring f n) tail = w at h2 r1 hi' ho hc he ⊢
  obtain ⟨k'', h3⟩ := w.dbRoom_ring f n (s.ring f n) (s.waitsRoom f n) head
  obtain ⟨d1, d2⟩ := w.dbRoom_rest f n (s.ring f n) (s.waitsRoom f n) head
  rw [hi', hc, h2] at h3
  have hreg : ∀ q, w.reg q = s.reg q := State.reg_congr r1
  have hring : ∀ a b, (settle s (s.within [.host, .sup, .ev] [] (w.dbRoom f n (s.ring f n) (s.waitsRoom f n) head))).ring a b =
      (w.dbRoom f n (s.ring f n) (s.waitsRoom f n) head).ring a b := fun _ _ => rfl
  refine answers ⟨?_, ?_, ?_, ?_, ?_, ?_, d2.trans he, ?_, fun hx => ?_, fun a b hab => ?_⟩
  · rw [hring, h3]
  · rw [hring, h3]
  · rw [hring, h3]
  · rw [hring, h3]
  · rw [hring, h3]
  · rw [hring, h3]
  · rw [hring, h3]
    dsimp only
    unfold State.nextInterval
    simp
  · have hx' : w.waitsRoom f n = true := by
      rw [← hx]
      refine (State.waitsRoom_congr (fun q => ?_) ?_ ?_).symm
      · rw [reg_settle, State.reg_within, hreg]; rfl
      · rw [hring, h3, h2]
      · rw [hring, h3, h2]
    rw [hring, h3, hx']
    refine ⟨rfl, ?_⟩
    unfold State.nextInterval
    cases s.waitsRoom f n <;> simp
  · rw [hring, State.dbRoom_other _ _ _ _ _ _ hab, ho a b hab]

/-! ### The answers to a command's fetches (R27, R130, R131) -/

/-- What a command has once the fetches under way have come. -/
def OpCtx.joined (c : OpCtx) (x : Fetched) : Fetched := joinFetched c.fx (if c.valueDue then { x with value := [] } else x)

theorem exec_fetched {s : State} {id : Nat} {c : OpCtx} (hs : s.serving = true) (hc : s.kv.ctx? id = some c) (hp : c.phase = .fetching) (x : Fetched) :
    exec (.hostFetchDone id x) s = done dataParts dataRegs s (s.fetched c x) := by
  show done _ _ s (match s.kv.ctx? id with | none => s | some c => when s.serving _ s) = _
  rw [hc]
  dsimp only
  rw [when_of hs, if_pos hp]

/-- A command whose value does not come later, or that a fetch has failed, goes on to its admission. -/
theorem State.fetched_held (s : State) {c : OpCtx} {x : Fetched}
    (h : c.valueDue = false ∨ (c.pool ≠ .admin ∧ fillsLate c.desc.opc = true) ∨ c.fx.fault = true ∨ x.fault = true) :
    s.fetched c x = (let c' : OpCtx := { c with fx := c.joined x, phase := .held }
      if c.pool = .admin then s.modCtx c.id fun _ => c' else (s.modCtx c.id fun _ => c').admitCtx c') := by
  have hf : (c.joined x).fault = (c.fx.fault || x.fault) := by unfold OpCtx.joined joinFetched; cases c.valueDue <;> rfl
  unfold State.fetched
  dsimp only
  rw [if_neg]
  · rfl
  · show ¬ (c.valueDue && !(c.joined x).fault && _) = true
    rw [hf]
    rcases h with h | ⟨h, h'⟩ | h | h
    · simp [h]
    · simp [h, h']
    · simp [h]
    · simp [h]

/-- A command of the admin pool whose value lies behind an element array reads it next. -/
theorem State.fetched_value (s : State) {c : OpCtx} {x : Fetched} (hv : c.valueDue = true) (hf : c.fx.fault = false) (hx : x.fault = false)
    (hp : c.pool = .admin) :
    s.fetched c x = (let c' : OpCtx := { c with fx := joinFetched c.fx { x with value := [] }, valueDue := false }
      (s.modCtx c.id fun _ => c').fetchValue c') := by
  unfold State.fetched
  rw [hv, if_pos rfl, if_pos (by simp [joinFetched, hf, hx, hp])]
  dsimp only
  rw [if_pos (Or.inl hp)]

/-- Reading a value from host memory issues its reads, and changes nothing else. -/
theorem State.fetchValue_ring (s : State) {c : OpCtx} {f n : Nat} (h : c.src = .ring f n) :
    s.fetchValue c = { s with out := s.out ++ (gather (valueSgl c.desc c.fx) c.desc.vlen).map fun r => .memRead f r.1 r.2 } := by
  unfold State.fetchValue
  rw [h]
  exact emits_spec _ _ _

/-! ### Entries given up -/

/-- Giving up entries takes them, and every row of theirs, out of the Tun, and nothing else. -/
theorem freeEntries_spec (l : List Nat) (s : State) : (l.foldl (fun s id => s.freeEntry id) s) = { s with tun := (l.foldl (fun s id => s.freeEntry id) s).tun } ∧
    (∀ e ∈ (l.foldl (fun s id => s.freeEntry id) s).tun.entries, e ∈ s.tun.entries ∧ e.id ∉ l) ∧
    ∀ r ∈ (l.foldl (fun s id => s.freeEntry id) s).tun.rows, r ∈ s.tun.rows ∧ r.entry ∉ l := by
  induction l generalizing s with
  | nil => exact ⟨rfl, fun e he => ⟨he, by simp⟩, fun r hr => ⟨hr, by simp⟩⟩
  | cons a l ih =>
    obtain ⟨h1, h2, h3⟩ := ih (s.freeEntry a)
    refine ⟨h1, fun e he => ?_, fun r hr => ?_⟩
    · obtain ⟨he, hl⟩ := h2 e he
      obtain ⟨hm, ha⟩ := List.mem_filter.1 (show e ∈ s.tun.entries.filter _ from he)
      exact ⟨hm, by simpa using ⟨by simpa using ha, hl⟩⟩
    · obtain ⟨hr, hl⟩ := h3 r hr
      have hr : r ∈ (s.tun.rows.filter fun x => !(x.entry == a && x.intent == false)).filter fun x => !(x.entry == a && x.intent == true) := hr
      obtain ⟨hr, h5⟩ := List.mem_filter.1 hr
      obtain ⟨hm, h4⟩ := List.mem_filter.1 hr
      have ha : r.entry ≠ a := by
        cases hi : r.intent
        · simpa [hi] using h4
        · simpa [hi] using h5
      exact ⟨hm, by simpa using ⟨ha, hl⟩⟩

/-- A mutation whose value cannot be fetched (R27). -/
theorem exec_valueFault {s : State} {id f n : Nat} {x : Fetched} {c : OpCtx} (hs : s.serving = true) (hc : s.kv.ctx? id = some c) (hp : c.phase = .value)
    (hx : x.fault = true) (hr : c.src = .ring f n) (ho : c.orphan = false) :
    ∃ t : State, exec (.hostFetchDone id x) s = .next t ∧ Safety.Finishes s c f n { status := 0x0F00 } t ∧ (∀ e ∈ t.tun.entries, e.id ∉ c.entries) ∧
      ∀ r ∈ t.tun.rows, r.entry ∉ c.entries := by
  obtain ⟨h1, h2, h3⟩ := freeEntries_spec c.entries s
  have hu : exec (.hostFetchDone id x) s = done dataParts dataRegs s ((c.entries.foldl (fun s id => s.freeEntry id) s).fail c stInternalFault) := by
    show done _ _ s (match s.kv.ctx? id with | none => s | some c => when s.serving _ s) = _
    rw [hc]
    dsimp only
    rw [when_of hs, if_neg (by rw [hp]; decide), if_pos ⟨hp, Or.inl hx⟩]
    unfold State.valueCome
    rw [if_pos hx]
  rw [hu]
  generalize c.entries.foldl (fun s id => s.freeEntry id) s = v at h1 h2 h3 ⊢
  have hv : SameRing f n s v := sameRing_regs (by rw [h1]) (by rw [h1])
  have hk := endKeeps_fail v c stInternalFault
  refine answers ⟨Finishes.settle (Finishes.of_sameRing (State.fail_ring v c f n _ hr ho) hv) rfl rfl, fun e he => ?_, fun r hr => ?_⟩
  · obtain ⟨d, hd, hed⟩ := hk.entries e he
    rw [hed]
    exact (h2 d hd).2
  · exact (h3 r (hk.rows ▸ hr)).2

/-! ### The statement -/

/-- Settles O10: one clause for each answer. -/
theorem answersToTheEnginesReads : Obligations.AnswersToTheEnginesReads := by
  unfold Obligations.AnswersToTheEnginesReads
  refine ⟨fun s f v h hs => ?swap, fun s f h hs => ?failed, fun s f n tail head h hr ha ht hh => ?doorbell, fun s id x c hs hc hp ha => ?admin,
    fun s id x c hs hc hp ha hl => ?data, fun s id f n x c hs hc hp hx hr ho => exec_valueFault hs hc hp hx hr ho, fun a b => ?join⟩
  case swap =>
    obtain ⟨t, ht, hf, ho⟩ := exec_swapValue h hs v
    have hfn : t.fn f = (s.summed f v).fn f := by unfold State.fn; rw [hf]
    rw [s.summed_fn] at hfn
    refine ⟨t, ht, by rw [hfn], ?_, ?_, ho⟩
    · rw [hfn]; exact s.swapInterval_eq f v
    · rw [hfn]; rfl
  case failed =>
    obtain ⟨t, h1, h2, h3, h4, h5, h6⟩ := exec_swapError h hs .hqFuncStat_swapUr .hqFuncStat_swapErr .swapRefused .refused rfl rfl rfl (by decide) (by decide)
    obtain ⟨u, k1, k2, k3, k4, k5, k6⟩ := exec_swapError h hs .hqFuncStat_swapErr .hqFuncStat_swapUr .swapFailed .failed rfl rfl rfl (by decide) (by decide)
    exact ⟨t, u, h1, k1, h2, h3, k2, k3, h4, k4, h5, k5, h6, k6⟩
  case doorbell => exact exec_doorbellDone h hr ha ht hh
  case admin =>
    have hi := KvSt.ctx?_id hc
    refine ⟨fun hv => ?_, fun f n hv hf hx hr => ?_⟩
    · rw [exec_fetched hs hc hp, s.fetched_held (hv.imp_right Or.inr)]
      dsimp only
      rw [if_pos ha, hi]
      exact answers ⟨rfl, rfl, State.ctx_put hc rfl⟩
    · dsimp only
      rw [exec_fetched hs hc hp, s.fetched_value hv hf hx ha, hi]
      exact answers_eq (State.fetchValue_ring _ hr) ⟨State.ctx_put hc rfl, rfl, rfl⟩
  case data =>
    rw [exec_fetched hs hc hp, s.fetched_held (hl.imp_right fun h => h.imp_left fun h => ⟨ha, h⟩)]
    dsimp only
    rw [if_neg ha, KvSt.ctx?_id hc]
    rfl
  case join =>
    have keep : ∀ {α : Type} (l : List α), (if l.isEmpty then [] else l) = l := fun l => by cases l <;> rfl
    refine ⟨?_, by simp [joinFetched], rfl⟩
    unfold joinFetched
    dsimp only
    rw [keep, keep, keep, keep, Bool.or_false]

end Sys2Proof.Machine
end

section
/-!
SUPPORT. How data commands arrive (chapter 01, R21, R29, R32): the context they take, and their admission.
-/

namespace Sys2Proof.Machine

/-- The data commands with their opcodes. -/
def dataOps (src : Src) (d : Desc) (x : Fetched) : List (Instr × Nat) :=
  [(.get src d x, 0x01), (.getRange src d x, 0x02), (.exists src d x, 0x03), (.getMeta src d x, 0x04),
    (.put src d x, 0x05), (.putIf src d x, 0x06), (.patch src d x, 0x07), (.append src d x, 0x08),
    (.delete src d x, 0x09), (.deleteIf src d x, 0x0A), (.batch src d x, 0x0B), (.stageOpen src d x, 0x0C),
    (.stageData src d x, 0x0D), (.stagePublish src d x, 0x0E), (.stageDiscard src d x, 0x0F),
    (.scan src d x, 0x10), (.snapshotOpen src d x, 0x11), (.snapshotClose src d x, 0x12), (.barrier src d x, 0x13)]

/-- Every data command arrives in the same way, under its opcode. -/
theorem exec_arrive {src : Src} {d : Desc} {x : Fetched} {p : Instr × Nat} (hp : p ∈ dataOps src d x) (s : State) :
    exec p.1 s = done dataParts dataRegs s (s.arrive p.2 src d x) := by
  unfold dataOps at hp
  fin_cases hp <;> rfl

/-- On the admin ring a data command takes a context and waits for its turn. -/
theorem State.arrive_admin {s : State} {f : Nat} (h : s.mayFetch f 64 = true) (op : Nat) (d : Desc) (x : Fetched) :
    s.arrive op (.ring f 64) d x = s.fetchOne f 64 { d with opc := op } x .held := by
  unfold State.arrive
  dsimp only
  rw [if_pos h, if_pos rfl]

/-- A ring that may not be fetched from keeps its command. -/
theorem State.arrive_shut {s : State} {f n : Nat} (h : s.mayFetch f n = false) (op : Nat) (d : Desc) (x : Fetched) :
    s.arrive op (.ring f n) d x = s := by
  unfold State.arrive
  dsimp only
  rw [if_neg (by rw [h]; decide)]

/-- The context of a request. -/
def State.reqCtx (s : State) (slot m op : Nat) (y : Slot) (d : Desc) (x : Fetched) : OpCtx :=
  { id := s.kv.nextCtx, pool := .target, src := .sess slot m, tenant := y.tenant, desc := { d with opc := op }, fx := x, phase := .held,
    identity := y.identity, reqNo := 0, since := s.clk.cycles }

/-- The state in which a context has joined. -/
def State.joined (s : State) (c : OpCtx) : State := { s with kv := { s.kv with ctxs := s.kv.ctxs ++ [c], nextCtx := c.id + 1 } }

/-- The opcodes that version 1 lacks (R357). -/
def lacking (op : Nat) : Prop := (opStageOpen ≤ op ∧ op ≤ opStageDiscard) ∨ op = opSnapOpen ∨ op = opSnapClose

theorem lacking_iff (op : Nat) : lacking op ↔ op ∈ [0x0C, 0x0D, 0x0E, 0x0F, 0x11, 0x12] := by
  simp only [lacking, opStageOpen, opStageDiscard, opSnapOpen, opSnapClose, List.mem_cons, List.not_mem_nil, or_false]
  omega

section request

variable {s : State} {slot : Nat} {y : Slot} (hy : s.ywp.slot? slot = some y) (ho : y.state = .opened) (hs : s.serving = true) (hf : s.hasFlash = true)
include hy ho hs hf

/-- A request that the pool has no room for does nothing. -/
theorem State.arrive_full (hp : poolSize .target ≤ s.inPool .target) (m op : Nat) (d : Desc) (x : Fetched) : s.arrive op (.sess slot m) d x = s := by
  unfold State.arrive State.openTarget
  dsimp only
  rw [hy]
  dsimp only
  rw [if_pos ⟨ho, hs, hf⟩, if_pos hp]

/-- A request takes a context; it is admitted, unless its session's version lacks it. -/
theorem State.arrive_request (hp : s.inPool .target < poolSize .target) (m op : Nat) (d : Desc) (x : Fetched) :
    (¬(y.ver = 1 ∧ lacking op) → s.arrive op (.sess slot m) d x = (s.joined (s.reqCtx slot m op y d x)).admitCtx (s.reqCtx slot m op y d x)) ∧
    (y.ver = 1 ∧ lacking op → s.arrive op (.sess slot m) d x = (s.joined (s.reqCtx slot m op y d x)).fail (s.reqCtx slot m op y d x) stVersion) := by
  unfold State.arrive State.openTarget
  dsimp only
  rw [hy]
  dsimp only
  rw [if_pos ⟨ho, hs, hf⟩, if_neg (Nat.not_le.2 hp)]
  exact ⟨fun hl => if_neg hl, fun hl => if_pos hl⟩

end request

/-- Settles O14: a ring's command by `fetchOne`, a session's by `reqCtx`. -/
theorem dataCommandsAreFetchedAndAdmitted : Obligations.DataCommandsAreFetchedAndAdmitted := by
  unfold Obligations.DataCommandsAreFetchedAndAdmitted
  intro s src d x p hp admitted
  have hexec := exec_arrive (show p ∈ dataOps src d x from hp) s
  refine ⟨fun f n hsrc => ?ring, fun slot m y hsrc hy ho hs hf => ?session⟩
  case ring =>
    subst hsrc
    obtain ⟨h1, h2, h3, -⟩ := s.fetchOne_spec f n { d with opc := p.2 } x .held
    refine ⟨h2, h3, h1, fun hm hn => ?_, fun hm hn => ?_, fun hm => ?_⟩
    · rw [hexec, s.arrive_ring _ _ _ _ _ hm hn]
      rfl
    · subst hn
      rw [hexec, State.arrive_admin hm]
      rfl
    · rw [hexec, State.arrive_shut hm]
      rfl
  case session =>
    subst hsrc
    refine ⟨fun hp => ?_, fun hp => ?_⟩
    · obtain ⟨h1, h2⟩ := State.arrive_request hy ho hs hf hp m p.2 d x
      refine ⟨s.reqCtx slot m p.2 y d x, s.joined (s.reqCtx slot m p.2 y d x), rfl, rfl, rfl, rfl, rfl, rfl, rfl, fun hl => ?_, fun hv hl => ?_⟩
      · rw [hexec, h1 (by rwa [lacking_iff])]
        rfl
      · rw [hexec, h2 ⟨hv, (lacking_iff _).2 hl⟩]
        rfl
    · rw [hexec, State.arrive_full hy ho hs hf hp]
      rfl

end Sys2Proof.Machine
end

section
/-!
SUPPORT. A mutation that nothing holds (chapter 01, R22, R63 to R68, R203): its entry becomes LIVE at its stamp.
-/

namespace Sys2Proof.Machine

/-! ### What counting a lookup leaves -/

/-- What counting a lookup leaves alone: the Tun, the clock, and every register but the counts. -/
structure CountKeeps (s t : State) : Prop where
  tun : t.tun = s.tun
  clk : t.clk = s.clk
  reg : ∀ q : RegKey, q.name ∉ [RegName.kveIdxStat, .adErr, .adStat] → t.reg q = s.reg q

theorem CountKeeps.trans {s t u : State} (h : CountKeeps s t) (k : CountKeeps t u) : CountKeeps s u :=
  ⟨k.tun.trans h.tun, k.clk.trans h.clk, fun q hq => (k.reg q hq).trans (h.reg q hq)⟩

theorem countKeeps_fput (s : State) {x : Fld} (hx : x.reg ∈ [RegName.kveIdxStat, .adErr, .adStat]) (v i j k : Nat) : CountKeeps s (s.fput x v i j k) :=
  ⟨State.fput_tun _ _ _ _ _ _, State.fput_clk _ _ _ _ _ _, fun q hq => State.reg_fput_other _ _ _ _ _ _ fun h => hq (by rw [h]; exact hx)⟩

theorem State.countRead_keeps (s : State) (v : Ver) : CountKeeps s (s.countRead v) := by
  unfold State.countRead
  extract_lets a b c d small
  have ha : CountKeeps s a := by
    unfold a
    split
    · exact ⟨rfl, rfl, fun _ _ => rfl⟩
    · exact countKeeps_fput s (by decide) _ _ _ _
  have hb : CountKeeps a b := by
    unfold b
    clear_value a
    split
    · exact ⟨rfl, rfl, fun _ _ => rfl⟩
    · exact countKeeps_fput a (by decide) _ _ _ _
  have hc : CountKeeps b c := by
    unfold c
    clear_value b
    exact countKeeps_fput b (by decide) _ _ _ _
  have hd : CountKeeps c d := by
    unfold d
    clear_value c
    cases v.leaf with
    | none => exact ⟨rfl, rfl, fun _ _ => rfl⟩
    | some l => exact ⟨c.modLeaf_tun _ _ _ _, c.modLeaf_clk _ _ _ _, fun q _ => State.reg_congr (c.modLeaf_regs _ _ _ _) q⟩
  have he : CountKeeps d { d with index := { d.index with small := d.index.small ++ small } } := by
    clear_value small d
    exact ⟨rfl, rfl, fun _ _ => rfl⟩
  exact (((ha.trans hb).trans hc).trans hd).trans he

theorem CountKeeps.memberId {s t : State} (h : CountKeeps s t) : t.memberId = s.memberId := by
  unfold State.memberId State.fget
  rw [h.reg _ (by decide)]

/-! ### The dispatch of a mutation -/

/-- The entry of a mutation of the version `v` at a stamp. -/
def State.mutNew (s : State) (c : OpCtx) (v : Ver) (acks : List Nat) (st : Nat) : TunEntry :=
  { id := 0, kind := (mutEntry c.desc v).1, state := .live, ksp := c.desc.ksp, key := keyOf c.desc c.fx, origin := s.memberId, replAck := acks.isEmpty,
    stamp := st, vlen := (mutEntry c.desc v).2.2, offset := (mutEntry c.desc v).2.1, digest := s.digest c.desc.ksp (keyOf c.desc c.fx), data := mutData c }

/-- What a mutation that goes LIVE will report. -/
def State.mutRes (s : State) (c : OpCtx) (v : Ver) (st : Nat) : Res :=
  { status := stOk, rlen := (mutEntry c.desc v).2.2, rstamp := st, origin := s.memberId }

/-- Its context once the entry is written. -/
def State.mutCtx (s : State) (c : OpCtx) (v : Ver) (acks : List Nat) (st id : Nat) : OpCtx :=
  { c with stamp := st, ponr := true, entries := [id], res := s.mutRes c v st, acks := acks, got := [], lost := [], valueDue := false }

/-- The size of an entry rests on neither its stamp nor its replicas. -/
theorem entryUnits_stamped (e : TunEntry) (st : Nat) (b : Bool) : entryUnits { e with stamp := st, replAck := b } = entryUnits e := rfl

/-- Nothing stands in the way of a mutation of the version `v` (R34, R63 to R68, R438, R775). -/
structure State.Mutates (s : State) (c : OpCtx) (v : Ver) (acks : List Nat) (st : Nat) : Prop where
  version : (if needsCur c.desc.opc then s.curVer c.desc.ksp (keyOf c.desc c.fx) else {}) = v
  leaf : ∀ l, v.leaf = some l → l.rebuild = false
  good : v.bad = false
  found : s.missing c v [] = []
  fits : mutLength c.desc v = false
  writable : s.media.readOnly = false
  space : addsData c.desc.opc = true → s.noSpace = false
  stamped : s.askStamp = .stamp st
  holds : mutCond c.desc v = none
  kept : ∀ a ∈ v.recs, lostAt s.media c a = false
  tun : s.tunRoom (entryUnits (s.mutNew c v acks st)) 1 = true
  leaves : s.leafRoom (s.digest c.desc.ksp (keyOf c.desc c.fx)) = true
  town : s.townRoom acks.length = true
  whole : mutNeeds c.desc v = []

/-- A mutation that nothing stands in the way of, with its value at hand, writes its entry and goes LIVE. -/
theorem State.runMut_live {s w : State} {c : OpCtx} {v : Ver} {acks : List Nat} {st id rf : Nat} (hm : s.Mutates c v acks st) (hd : c.valueDue = false)
    (hr : s.receivers (wardOf (s.digest c.desc.ksp (keyOf c.desc c.fx))) rf = acks)
    (ha : s.addEntry (s.mutNew c v acks st) false = some (id, w)) (hw : w.memberId = s.memberId) :
    s.runMut c rf = ((((if needsCur c.desc.opc then w.countRead v else w).tookStamp st).modCtx c.id fun _ => s.mutCtx c v acks st id).goLive
      (s.mutCtx c v acks st id) [id] (s.mutRes c v st) acks [wardOf (s.digest c.desc.ksp (keyOf c.desc c.fx))] rf) := by
  obtain ⟨hv, hl, hb, hf, hlen, hro, hsp, hst, hc, hk, ht, hlf, htw, hn⟩ := hm
  have hleaf : (v.leaf.any fun l => l.rebuild) = false := by
    cases h : v.leaf with
    | none => rfl
    | some l => exact hl l h
  have hlost : (v.recs.any fun a => lostAt s.media c a) = false := by
    rw [List.any_eq_false]
    exact fun a ha => by rw [hk a ha]; decide
  unfold State.runMut
  dsimp only
  rw [hv, hf, hst, hr, hc, hn, if_neg (by simp [hleaf, hb]), if_neg (by simp), if_neg (by simp [hlen]), if_neg (by simp [hro]),
    if_neg (fun h => absurd (hsp h.1) (by rw [h.2]; decide)), if_neg (by simp), if_neg (by simp [hlost])]
  dsimp only
  have ht : s.tunRoom (entryUnits { s.mutNew c v acks st with stamp := 0, replAck := false }) 1 = true := ht
  rw [if_neg (by rintro (h | h | h) <;> simp_all [State.mutNew]), hd]
  show (match s.addEntry (s.mutNew c v acks st) false with | none => s | some (id, s) => _) = _
  rw [ha]
  have hi : (((if needsCur c.desc.opc then w.countRead v else w).tookStamp st)).memberId = s.memberId := by
    rw [← hw]
    split
    · exact (w.countRead_keeps v).memberId
    · rfl
  dsimp only
  rw [if_neg (by decide), if_pos (show ([] : List Nat).isEmpty = true from rfl), hi]
  rfl

/-- No mutation makes a batch record. -/
theorem mutEntry_kind (d : Desc) (v : Ver) : (mutEntry d v).1 ≠ .batchRecord := by
  unfold mutEntry
  split_ifs <;> simp

/-- What a mutation of a ring leaves that goes LIVE and waits for its clock. -/
theorem State.admit_mut {u : State} {c : OpCtx} {v : Ver} {acks : List Nat} {st id : Nat} (hr : Safety.Runs u c) (hn : c.reqNo = 0) (ho : isMut c.desc.opc = true)
    (hd : c.valueDue = false) (hm : u.Mutates c v acks st)
    (ha : u.receivers (wardOf (u.digest c.desc.ksp (keyOf c.desc c.fx))) (((u.ksp? c.desc.ksp).map fun k => k.rf).getD 1) = acks)
    (hf : u.tunFit (entryUnits (u.mutNew c v acks st)) = some id) (hp : u.passed st = false) (hc : c ∈ u.kv.ctxs) :
    let t := u.admitCtx c
    t.tun.entries = u.tun.entries ++ [{ u.mutNew c v acks st with id := id, late := decide (2 ≤ u.media.spaceState) }] ∧
    t.kv.lastU = st / 4096 ∧ t.kv.lastK = st % 4096 ∧ (needsCur c.desc.opc = false → t.index = u.index) ∧
    (∃ e ∈ t.kv.ctxs, e.id = c.id ∧ e.phase = .commit ∧ e.stamp = st ∧ e.entries = [id] ∧ e.acks = acks ∧
      e.wards = [wardOf (u.digest c.desc.ksp (keyOf c.desc c.fx))] ∧ e.clock = true ∧ e.ponr = true ∧ e.res = u.mutRes c v st) ∧
    ∃ r ∈ t.tun.rows, r.digest = u.digest c.desc.ksp (keyOf c.desc c.fx) ∧ r.entry = id ∧ r.intent = false := by
  obtain ⟨w, hw, wk, wi, wc, wm, -, we, wr⟩ := addEntry_live u (u.mutNew c v acks st) id hf (mutEntry_kind _ _) rfl
  have hread : isRead c.desc.opc = false := by
    simp only [isMut, isRead, decide_eq_true_eq, decide_eq_false_iff_not] at ho ⊢
    omega
  obtain ⟨y, hy, yt, yk, yc, yi⟩ : ∃ y, y = (if needsCur c.desc.opc then w.countRead v else w) ∧ y.tun = w.tun ∧ y.kv = u.kv ∧ y.clk = u.clk ∧
      (needsCur c.desc.opc = false → y.index = u.index) := by
    refine ⟨_, rfl, ?_⟩
    split
    · next h =>
      have k := w.countRead_keeps v
      exact ⟨k.tun, ((w.countRead_spec v 0 0).2.2).trans wk, k.clk.trans wc, fun h' => by rw [h] at h'; cases h'⟩
    · exact ⟨rfl, wk, wc, fun _ => wi⟩
  have hput : (u.mutCtx c v acks st id) ∈ ((y.tookStamp st).modCtx c.id fun _ => u.mutCtx c v acks st id).kv.ctxs :=
    mem_updWhere (x := c) (f := fun _ => u.mutCtx c v acks st id) (by show c ∈ y.kv.ctxs; rw [yk]; exact hc) (beq_self_eq_true _)
  obtain ⟨g1, g2, g3, g4, g5⟩ := goLive_waits ((y.tookStamp st).modCtx c.id fun _ => u.mutCtx c v acks st id) (u.mutCtx c v acks st id) [id] (u.mutRes c v st) acks
    [wardOf (u.digest c.desc.ksp (keyOf c.desc c.fx))] (((u.ksp? c.desc.ksp).map fun k => k.rf).getD 1) ((passed_congr yc st).trans hp) ⟨_, hput, rfl⟩
  have hnum := (numbered_spec ((y.tookStamp st).modCtx c.id fun _ => u.mutCtx c v acks st id) (u.mutCtx c v acks st id) acks).2.2.2.2
  rw [u.admit_key c hr hn (Or.inr ho), if_neg (by rw [hread]; decide), State.runMut_live hm hd ha hw wm, ← hy]
  refine ⟨(congrArg TunSt.entries (g1.trans yt)).trans we, g3, g4, fun h => g2.trans (yi h), ⟨_, g5, ?_⟩, ?_⟩
  · rw [hnum]
    exact ⟨rfl, rfl, rfl, rfl, rfl, rfl, rfl, rfl, rfl⟩
  · rw [g1]
    show ∃ r ∈ y.tun.rows, _
    rw [yt]
    exact wr

/-- The mutations of one key with their opcodes. -/
def mutOps (src : Src) (d : Desc) (x : Fetched) : List (Instr × Nat) :=
  [(.put src d x, 0x05), (.putIf src d x, 0x06), (.patch src d x, 0x07), (.append src d x, 0x08), (.delete src d x, 0x09), (.deleteIf src d x, 0x0A)]

theorem mutOps_spec {src : Src} {d : Desc} {x : Fetched} {p : Instr × Nat} (hp : p ∈ mutOps src d x) : p ∈ dataOps src d x ∧ isMut p.2 = true := by
  unfold mutOps at hp
  fin_cases hp <;> simp [dataOps, isMut]

/-- Settles O16: the mutation is admitted, and what its admission leaves lies within its reach. -/
theorem mutationsMakeALiveEntryAtTheirStamp : Obligations.MutationsMakeALiveEntryAtTheirStamp := by
  unfold Obligations.MutationsMakeALiveEntryAtTheirStamp
  intro s f n d x hn hm p hp c u v dig acks new stamp id hruns hleaf hbad hfound hlen hro hsp hst hcond hlost hroom hfit hlf htw hwhole hpass
  obtain ⟨hmem, hmut⟩ := mutOps_spec (show p ∈ mutOps (.ring f n) d x from hp)
  obtain ⟨hctx, -, -, -⟩ := s.fetchOne_spec f n { d with opc := p.2 } x .held
  have hdata : mutData c = if usesValue p.2 then x.value.take d.vlen else [] := by
    show (if !usesValue p.2 then [] else x.value.take d.vlen) = _
    cases usesValue p.2 <;> rfl
  have hnew : u.mutNew c v acks stamp = { new with stamp := stamp, late := false } := by
    unfold State.mutNew
    rw [hdata]
    exact rfl
  have hunits : entryUnits (u.mutNew c v acks stamp) = entryUnits new := by rw [hnew]; rfl
  have hmutates : u.Mutates c v acks stamp :=
    ⟨rfl, hleaf, hbad, hfound, hlen, hro, hsp, hst, hcond, hlost, hunits ▸ hroom, hlf, htw, hwhole⟩
  obtain ⟨h1, h2, h3, h4, h5, h6⟩ := State.admit_mut hruns rfl hmut rfl hmutates rfl (hunits ▸ hfit) hpass (by rw [hctx]; simp [c])
  have htun : u.tun = s.tun := fetchOne_tun _ _ _ _ _ _
  rw [hnew, htun] at h1
  rw [exec_arrive hmem s, s.arrive_ring _ _ _ _ _ hm hn]
  exact answers ⟨h1, h2, h3, fun h => (h4 h).trans (fetchOne_index _ _ _ _ _ _), h5, h6⟩

end Sys2Proof.Machine
end

section
/-!
SUPPORT. The waits of the key-value engine (chapter 01, R21, R47, R49, R61, R94, R435): what ends them, and how an operation goes on.
-/

namespace Sys2Proof.Machine

/-! ### A part that a command reaches -/

section reach

variable {s u : State} {ps : List Part} {ns : List RegName}

theorem kv_reach (h : ps.contains .kv = true) : (settle s (s.within ps ns u)).kv = u.kv := if_pos h

theorem host_reach (h : ps.contains .host = true) : (settle s (s.within ps ns u)).host = u.host := if_pos h

theorem index_reach (h : ps.contains .index = true) : (settle s (s.within ps ns u)).index = u.index := if_pos h

theorem tun_reach (h : ps.contains .tun = true) : (settle s (s.within ps ns u)).tun = u.tun := if_pos h

theorem media_reach (h : ps.contains .media = true) : (settle s (s.within ps ns u)).media = u.media := if_pos h

theorem town_reach (h : ps.contains .town = true) : (settle s (s.within ps ns u)).town = u.town := if_pos h

theorem ywp_reach (h : ps.contains .ywp = true) : (settle s (s.within ps ns u)).ywp = u.ywp := if_pos h

theorem cip_reach (h : ps.contains .cip = true) : (settle s (s.within ps ns u)).cip = u.cip := if_pos h

theorem ev_reach (h : ps.contains .ev = true) : (settle s (s.within ps ns u)).ev = u.ev := if_pos h

theorem out_reach (h : ps.contains .out = true) : (settle s (s.within ps ns u)).out = u.out := if_pos h

theorem power_reach (h : ps.contains .power = true) : (settle s (s.within ps ns u)).power = u.power := if_pos h

theorem sup_reach (h : ps.contains .sup = true) : (settle s (s.within ps ns u)).sup = u.sup := if_pos h

theorem tai_reach (h : ps.contains .clk = true) : (settle s (s.within ps ns u)).clk.tai = u.clk.tai := by
  show (if ps.contains .clk then u.clk else s.clk).tai = u.clk.tai
  rw [if_pos h]

end reach

/-! ### Time (R427, R435) -/

/-- Waiting for a counter value reaches it, where the counter runs. -/
theorem State.waitTai_reaches {s : State} (h : s.incr ≠ 0) (v : Nat) : v ≤ (s.waitTai v).clk.tai := by
  unfold State.waitTai
  rw [if_neg h]
  show v ≤ s.clk.tai + (v - s.clk.tai + s.incr - 1) / s.incr * s.incr
  have hm := Nat.div_add_mod (v - s.clk.tai + s.incr - 1) s.incr
  have hl := Nat.mod_lt (v - s.clk.tai + s.incr - 1) (Nat.pos_of_ne_zero h)
  rw [Nat.mul_comm] at hm
  omega

theorem sameRing_waitTai (s : State) (v f n : Nat) : SameRing f n s (s.waitTai v) :=
  sameRing_regs (State.waitTai_regs _ _) (State.waitTai_host _ _)

/-- What a command answers has passed a stamp where what it computed has. -/
theorem passed_settle {s u : State} {ps : List Part} {ns : List RegName} (h : ps.contains .clk = true) (v : Nat) :
    (settle s (s.within ps ns u)).passed v = u.passed v := by
  unfold State.passed State.below2020 State.nowUs
  rw [tai_reach h]

/-! ### The commit wait (R435) -/

theorem exec_commitWait {s : State} {id : Nat} {c : OpCtx} (hc : s.kv.ctx? id = some c)
    (hg : ((s.serving && decide (c.phase = .snapOpen ∨ c.phase = .snapRead)) || (s.ready && decide (c.phase = .commit))) = true) :
    exec (.commitWaitDone id) s = done (dataParts ++ [.clk]) dataRegs s ((s.waitTai (taiOfUs (c.stamp / 4096 + 1))).resume id) := by
  show done _ _ s (match s.kv.ctx? id with | none => s | some c => when _ _ s) = _
  rw [hc]
  dsimp only
  rw [when_of hg]

/-- Going on from where an operation stands, by its phase. -/
theorem State.resume_of {s : State} {id : Nat} {c : OpCtx} (hc : s.kv.ctx? id = some c) :
    (c.phase = .held ∨ c.phase = .counter → s.resume id = s.dispatch c) ∧
    (c.phase = .intent ∨ c.phase = .readAck ∨ c.phase = .replica ∨ c.phase = .buffer →
      s.resume id = if !c.ponr then s.dispatch c else if c.desc.opc = opScan then s.scanCall c c.readT c.handle else s.readStep c) ∧
    (c.phase = .commit → s.resume id = s.commitCheck c) ∧
    (c.phase = .snapOpen → s.resume id = if s.passed c.stamp then s.snapOpenDone c else s) := by
  unfold State.resume
  rw [hc]
  dsimp only
  refine ⟨?_, ?_, fun h => by rw [h], fun h => by rw [h]⟩
  · rintro (h | h) <;> rw [h]
  · rintro (h | h | h | h) <;> rw [h]

/-- An operation whose clock has passed and whose replicas have acknowledged ends with its result. -/
theorem State.commitCheck_ends {s : State} {c : OpCtx} (hc : s.kv.ctx? c.id = some c) (ha : c.acks = []) (hp : s.passed c.stamp = true) :
    s.commitCheck c = s.finish c c.res [] := by
  unfold State.commitCheck
  rw [hc]
  dsimp only
  unfold State.commitStep
  rw [if_neg (by simp [ha, hp])]

/-- The lease of a snapshot whose stamp has passed (R86). -/
def State.leased (s : State) (c : OpCtx) : State :=
  { s with kv := { s.kv with leases := updWhere (fun l => l.tenant == c.tenant && l.stamp == c.stamp) (fun l => { l with reserved := false, expiry := c.stamp + s.retainUs * 4096 }) s.kv.leases } }

theorem sameRing_leased (s : State) (c : OpCtx) (f n : Nat) : SameRing f n s (s.leased c) := sameRing_regs rfl rfl

theorem State.snapOpenDone_eq (s : State) (c : OpCtx) :
    s.snapOpenDone c = (s.leased c).finish c { status := stOk, rlen := (c.stamp / 4096 + s.retainUs - s.nowUs) / 1000, rstamp := c.stamp, origin := s.memberId } [] :=
  rfl

/-! ### BARRIER (R94) -/

/-- An operation that nothing refuses or holds comes to its dispatch by opcode; a BARRIER waits for what is before it. -/
theorem State.admit_barrier {u : State} {c : OpCtx} (hf : Safety.Free u c) (hn : u.notJoined = false) (ho : c.desc.opc = opBarrier) :
    u.admitCtx c = if u.kv.ctxs.any (fun e => sameSrc e.src c.src && decide (e.id < c.id)) then u.modCtx c.id fun c => { c with phase := .barrier }
      else u.finish c {} [] := by
  obtain ⟨h1, h2, h3, h4⟩ := hf
  unfold State.admitCtx
  rw [h1]
  dsimp only
  unfold State.dispatch
  dsimp only
  rw [h2, h3, hn, if_neg, Bool.false_and, if_neg (by decide), if_neg (by rw [ho]; decide), if_neg (by rw [ho]; decide), if_pos ho]
  rintro (h | h | ⟨h, h'⟩)
  · cases h
  · cases h
  · obtain ⟨k, hk, hi⟩ := List.any_eq_true.1 h'
    rw [h4 h k hk] at hi
    cases hi

/-- The end of an operation that a ring has just given. -/
theorem Ends.fetched {s : State} {f n : Nat} {d : Desc} {x : Fetched} {r : Res} :
    Safety.Ends (s.fetchOne f n d x .held) f n d x (s.ringCtx f n d x .held).id r []
      ((s.fetchOne f n d x .held).finish (s.ringCtx f n d x .held) r []) := by
  obtain ⟨h1, h2, h3, h4⟩ := (s.fetchOne f n d x .held).finish_ring (s.ringCtx f n d x .held) f n r [] rfl rfl rfl
  have hg : (s.ringCtx f n d x .held).gen = (s.fetchOne f n d x .held).rg f n .hqRingStat_gen :=
    (s.fetchOne_stat f n d x .held .hqRingStat_gen rfl (by decide)).symm
  rw [hg] at h2
  exact ⟨h2, h1, h3, fun e he => (h4 e he).1⟩

/-- A command's answer ends an operation where what it computed does. -/
theorem Ends.settle {u w v : State} {f n id : Nat} {d : Desc} {x : Fetched} {r : Res} {l : List (Nat × Bytes)} {ps : List Part} {ns : List RegName}
    (h : Safety.Ends u f n d x id r l v) (ho : ps.contains .out = true) (hk : ps.contains .kv = true) :
    Safety.Ends u f n d x id r l (Machine.settle w (w.within ps ns v)) := by
  have eo : (Machine.settle w (w.within ps ns v)).out = v.out := if_pos ho
  have ek : (Machine.settle w (w.within ps ns v)).kv = v.kv := if_pos hk
  unfold Safety.Ends
  rw [eo, ek]
  exact h

/-! ### A held operation's turn (R21, R151) -/

/-- How a held operation goes on. -/
def State.turn (s : State) (id : Nat) (c : OpCtx) : State :=
  if c.pool = .admin then
    (if c.phase = .held ∧ !s.adminBusy c then s.runAdmin c else if c.phase = .noOwner then s.adminAgain c else s)
  else if let some m := c.repl then s.takeAgain c m
  else if c.phase = .held then s.resume id
  else if c.phase = .noOwner ∧ c.minEpoch ≤ s.town.epoch then s.dispatch c
  else s

theorem exec_turn {s : State} {id : Nat} {c : OpCtx} (hs : s.serving = true) (hc : s.kv.ctx? id = some c) :
    exec (.operationDispatch id) s = done (townParts ++ [Part.cfl, Part.upd, Part.free])
      (ledRegs ++ townRegs ++ [RegName.adErr, RegName.cipDrbgStat, RegName.kveIdxStat, RegName.ptpWaitStat]) s (s.turn id c) := by
  show done _ _ s (match s.kv.ctx? id with | none => s | some c => when s.serving _ s) = _
  rw [hc]
  dsimp only
  rw [when_of hs]
  rfl

/-! ### What the ends of waits answer -/

/-- The end of a commit wait (R435). -/
theorem exec_commitDone {s : State} {id f n : Nat} {c : OpCtx} (hs : s.ready = true) (hc : s.kv.ctx? id = some c) (hp : c.phase = .commit) (ha : c.acks = [])
    (hr : c.src = .ring f n) (ho : c.orphan = false) (hpass : (s.waitTai (taiOfUs (c.stamp / 4096 + 1))).passed c.stamp = true) :
    ∃ t : State, exec (.commitWaitDone id) s = .next t ∧ t.passed c.stamp = true ∧ Safety.Finishes s c f n c.res t := by
  have hi := KvSt.ctx?_id hc
  have hcX : (s.waitTai (taiOfUs (c.stamp / 4096 + 1))).kv.ctx? id = some c := by rw [State.waitTai_kv]; exact hc
  rw [exec_commitWait hc (by simp [hs, hp]), (State.resume_of hcX).2.2.1 hp, State.commitCheck_ends (by rw [hi]; exact hcX) ha hpass]
  have hsame := sameRing_waitTai s (taiOfUs (c.stamp / 4096 + 1)) f n
  generalize s.waitTai (taiOfUs (c.stamp / 4096 + 1)) = X at hpass hsame
  obtain ⟨h1, h2⟩ := Finishes.of_sameRing (X.finish_ring_bare c f n c.res hr ho).1 hsame
  have hclk := (endKeeps_finish X c c.res []).clk
  generalize X.finish c c.res [] = Z at h1 h2 hclk
  refine answers ⟨?_, Finishes.settle ⟨h1, h2⟩ rfl rfl⟩
  rw [passed_settle rfl, passed_congr hclk, hpass]

/-- The end of a snapshot's wait (R86, R435). -/
theorem exec_snapDone {s : State} {id f n : Nat} {c : OpCtx} (hs : s.serving = true) (hc : s.kv.ctx? id = some c) (hp : c.phase = .snapOpen)
    (hr : c.src = .ring f n) (ho : c.orphan = false) (hpass : (s.waitTai (taiOfUs (c.stamp / 4096 + 1))).passed c.stamp = true) :
    ∃ t : State, exec (.commitWaitDone id) s = .next t ∧
      t.kv.leases = updWhere (fun l => l.tenant == c.tenant && l.stamp == c.stamp)
        (fun l => { l with reserved := false, expiry := c.stamp + s.retainUs * 4096 }) s.kv.leases ∧
      Safety.Finishes s c f n { status := stOk, rlen := (c.stamp / 4096 + s.retainUs - (s.waitTai (taiOfUs (c.stamp / 4096 + 1))).nowUs) / 1000, rstamp := c.stamp, origin := s.memberId } t := by
  have hi := KvSt.ctx?_id hc
  have hcX : (s.waitTai (taiOfUs (c.stamp / 4096 + 1))).kv.ctx? id = some c := by rw [State.waitTai_kv]; exact hc
  rw [exec_commitWait hc (by simp [hs, hp]), (State.resume_of hcX).2.2.2 hp, if_pos hpass, State.snapOpenDone_eq]
  have hsame := sameRing_waitTai s (taiOfUs (c.stamp / 4096 + 1)) f n
  have hregs : (s.waitTai (taiOfUs (c.stamp / 4096 + 1))).regs = s.regs := State.waitTai_regs _ _
  have hkv := s.waitTai_kv (taiOfUs (c.stamp / 4096 + 1))
  generalize s.waitTai (taiOfUs (c.stamp / 4096 + 1)) = X at hsame hregs hkv ⊢
  have hret : X.retainUs = s.retainUs := by unfold State.retainUs; rw [State.fget_congr hregs]
  have hmem : X.memberId = s.memberId := by unfold State.memberId; rw [State.fget_congr hregs]
  rw [hret, hmem]
  generalize hres : ({ status := stOk, rlen := (c.stamp / 4096 + s.retainUs - X.nowUs) / 1000, rstamp := c.stamp, origin := s.memberId } : Res) = r
  have hfin := ((X.leased c).finish_ring_bare c f n r hr ho).1
  obtain ⟨h1, h2⟩ := Finishes.of_sameRing hfin (hsame.trans (sameRing_leased X c f n))
  have hl : ((X.leased c).finish c r []).kv.leases = (X.leased c).kv.leases := by rw [(endKeeps_finish (X.leased c) c r []).kv]
  have hleases : (X.leased c).kv.leases = updWhere (fun l => l.tenant == c.tenant && l.stamp == c.stamp)
      (fun l => { l with reserved := false, expiry := c.stamp + s.retainUs * 4096 }) s.kv.leases := by rw [← hret, ← hkv]; rfl
  generalize (X.leased c).finish c r [] = Z at h1 h2 hl
  refine answers ⟨?_, Finishes.settle ⟨h1, h2⟩ rfl rfl⟩
  rw [kv_reach rfl]
  exact hl.trans hleases

/-- A BARRIER that a ring gives ends, or waits for what is before it (R94). -/
theorem exec_barrier {s : State} {f n : Nat} (d : Desc) (x : Fetched) (hn : n ≠ 64) (hm : s.mayFetch f n = true) :
    let c := s.ringCtx f n { d with opc := 0x13 } x .held
    let u := s.fetchOne f n { d with opc := 0x13 } x .held
    Safety.Free u c → u.notJoined = false →
    ((∀ e ∈ s.kv.ctxs, ¬(sameSrc e.src (.ring f n) = true ∧ e.id < s.kv.nextCtx)) →
      ∃ t : State, exec (.barrier (.ring f n) d x) s = .next t ∧ Safety.Ends u f n d x c.id {} [] t) ∧
    ((∃ e ∈ s.kv.ctxs, sameSrc e.src (.ring f n) = true ∧ e.id < s.kv.nextCtx) →
      ∃ t : State, exec (.barrier (.ring f n) d x) s = .next t ∧ t.out = s.out ∧ ∃ e ∈ t.kv.ctxs, e.id = c.id ∧ e.phase = .barrier) := by
  intro c u hfree hj
  obtain ⟨hctx, -, -, hout⟩ := s.fetchOne_spec f n { d with opc := 0x13 } x .held
  have hany : u.kv.ctxs.any (fun e => sameSrc e.src c.src && decide (e.id < c.id)) = true ↔ ∃ e ∈ s.kv.ctxs, sameSrc e.src (.ring f n) = true ∧ e.id < s.kv.nextCtx := by
    show List.any (State.kv u).ctxs _ = true ↔ _
    rw [hctx]
    simp [c, State.ringCtx]
  have hexec := exec_arrive (src := .ring f n) (d := d) (x := x) (p := (.barrier (.ring f n) d x, 0x13)) (by simp [dataOps]) s
  rw [s.arrive_ring _ _ _ _ _ hm hn, State.admit_barrier hfree hj rfl] at hexec
  refine ⟨fun h => ?_, fun h => ?_⟩
  · rw [if_neg (fun h' => by obtain ⟨e, he, h''⟩ := hany.1 h'; exact h e he h'')] at hexec
    exact ⟨_, hexec, Ends.settle Ends.fetched rfl rfl⟩
  · rw [if_pos (hany.2 h)] at hexec
    have hmem := mem_updWhere (p := fun e : OpCtx => e.id == c.id) (f := fun e : OpCtx => { e with phase := .barrier })
      (show c ∈ u.kv.ctxs by rw [hctx]; simp [c]) (beq_self_eq_true _)
    refine ⟨_, hexec, ?_, { c with phase := .barrier }, ?_, rfl, rfl⟩
    · rw [out_reach rfl, State.modCtx_out]; exact hout
    · rw [kv_reach rfl]; exact hmem

/-! ### The statement -/

/-- Settles O21: one clause for each wait. -/
theorem waitsOfTheEngineEnd : Obligations.WaitsOfTheEngineEnd := by
  unfold Obligations.WaitsOfTheEngineEnd
  refine ⟨fun s id f n c hs hc hp ha hr ho hpass => ?commit, fun s id f n c hs hc hp hr ho hpass => ?snapshot, fun s id c hs hc hp => ?counter,
    fun s id c hs hc hp => ?read, fun s f n d x hn hm => exec_barrier d x hn hm, fun s id c hs hc => ?turn⟩
  case commit =>
    obtain ⟨t, ht, hpast, hend, hgone⟩ := exec_commitDone hs hc hp ha hr ho hpass
    exact ⟨t, ht, hpast, KvSt.ctx?_id hc ▸ hgone, hend⟩
  case snapshot =>
    obtain ⟨t, ht, hl, hend, hgone⟩ := exec_snapDone hs hc hp hr ho hpass
    exact ⟨t, ht, KvSt.ctx?_id hc ▸ hgone, hl, hend⟩
  case counter =>
    refine ⟨?_, fun h => State.waitTai_reaches h _⟩
    have hcX : s.waitCounter.kv.ctx? id = some c := by unfold State.waitCounter; rw [State.waitTai_kv]; exact hc
    show done _ _ s (when _ _ s) = _
    rw [when_of (by simp [hs, hc, hp]), (State.resume_of hcX).1 (Or.inr hp)]
    rfl
  case read =>
    show done _ _ s (when _ _ s) = _
    rw [when_of (by simp [hs, hc, hp]), (State.resume_of hc).2.1 hp]
    cases c.ponr <;> rfl
  case turn =>
    intro keep
    have hexec := exec_turn hs hc
    unfold State.turn at hexec
    refine ⟨fun ha hp => ?_, fun ha hp => ?_, fun m ha hm => ?_, fun ha hm hp => ?_, fun ha hm hp => ?_⟩
    · rw [hexec, if_pos ha, hp]
      cases s.adminBusy c <;> rfl
    · rw [hexec, if_pos ha, if_neg (by simp [hp]), if_pos hp]
      rfl
    · rw [hexec, if_neg ha, hm]
      rfl
    · rw [hexec, if_neg ha, hm]
      dsimp only
      rw [if_pos hp, (State.resume_of hc).1 (Or.inl hp)]
      rfl
    · rw [hexec, if_neg ha, hm]
      dsimp only
      rw [if_neg (by simp [hp]), hp]
      simp only [true_and]
      rfl

end Sys2Proof.Machine
end

section
/-!
SUPPORT. Function resets and the PCIe link (chapter 01, R26, R112, R150, R522, R714, R732).
-/

namespace Sys2Proof.Machine

/-! ### Folds that establish a property of each element -/

/-- What a round establishes of its element, and every round keeps, holds of every element of the fold. -/
theorem foldl_establishes {α β : Type} {g : β → α → β} {P : α → β → Prop} (hset : ∀ b a, P a (g b a)) (hkeep : ∀ b a c, P c b → P c (g b a))
    (l : List α) (b : β) : ∀ a ∈ l, P a (l.foldl g b) := by
  induction l using List.reverseRecOn generalizing b with
  | nil => simp
  | append_singleton l x ih =>
    intro a ha
    rw [List.foldl_append]
    rcases List.mem_append.1 ha with ha | ha
    · exact hkeep _ _ _ (ih b a ha)
    · obtain rfl := List.mem_singleton.1 ha
      exact hset _ _

/-! ### The reset of a function (R150, R714) -/

/-- A register list without some registers holds their reset values. -/
theorem regLookup_filter (p : RegKey → Bool) (q : RegKey) (l : List (RegKey × Nat)) :
    regLookup q (l.filter fun e => p e.1) = if p q then regLookup q l else q.reset := by
  induction l with
  | nil => simp [regLookup]
  | cons e l ih =>
    obtain ⟨k, w⟩ := e
    by_cases hk : p k = true
    · simp only [List.filter_cons, hk, if_true, regLookup, ih]
      by_cases hq : k = q
      · subst hq; simp [hk]
      · simp [hq]
    · simp only [List.filter_cons, hk, if_false, regLookup, ih, Bool.false_eq_true]
      by_cases hq : k = q
      · subst hq; simp [hk]
      · simp [hq]

/-- Commands that leave one after another. -/
theorem releaseCtxs_spec (l : List OpCtx) (s : State) : EndKeeps s (l.foldl (fun s c => s.releaseCtx c) s) ∧
    (l.foldl (fun s c => s.releaseCtx c) s).regs = s.regs ∧ (l.foldl (fun s c => s.releaseCtx c) s).host = s.host ∧
    ∀ e ∈ (l.foldl (fun s c => s.releaseCtx c) s).kv.ctxs, ∀ c ∈ l, e.id ≠ c.id := by
  induction l generalizing s with
  | nil => exact ⟨EndKeeps.refl s, rfl, rfl, fun _ _ _ h => absurd h List.not_mem_nil⟩
  | cons a l ih =>
    obtain ⟨r1, r2, -, r4⟩ := s.releaseCtx_spec a
    obtain ⟨h1, h2, h3, h4⟩ := ih (s.releaseCtx a)
    refine ⟨(endKeeps_releaseCtx s a).trans h1, h2.trans r1, h3.trans r2, fun e he c hc => ?_⟩
    rcases List.mem_cons.1 hc with rfl | hc
    · have := h1.ctxs e he
      rw [r4] at this
      exact bne_iff_ne.1 (List.mem_filter.1 this).2
    · exact h4 e he c hc

/-- The commands of a function's rings. -/
def OpCtx.ofFunc (f : Nat) (c : OpCtx) : Bool := match c.src with | .ring g _ => g == f | _ => false

theorem OpCtx.ofFunc_iff {f : Nat} {c : OpCtx} : c.ofFunc f = true ↔ ∃ n, c.src = .ring f n := by
  unfold OpCtx.ofFunc
  cases c.src with
  | ring g n => simp only [beq_iff_eq, Src.ring.injEq, exists_and_left, exists_eq', and_true]
  | _ => simp only [Bool.false_eq_true, reduceCtorEq, exists_false]

/-- What the reset of a function leaves: its rings, registers and commands are gone, those past their point of no return run on alone; no other
block's, and no stored, state has changed. -/
structure FuncReset (f : Nat) (s t : State) : Prop where
  rings : t.host.rings = s.host.rings.filter fun r => r.f != f
  vfs : t.host.vfs = s.host.vfs
  perst : t.host.perst = s.host.perst
  linkUp : t.host.linkUp = s.host.linkUp
  reg : ∀ q, t.reg q = if pageReg f q then q.reset else s.reg q
  kv : t.kv = { s.kv with ctxs := t.kv.ctxs }
  ctxs : ∀ e ∈ t.kv.ctxs, ∃ d ∈ s.kv.ctxs, e.src = d.src ∧ e.ponr = d.ponr ∧ (d.orphan = true → e.orphan = true) ∧
    (d.ofFunc f = true → d.ponr = true ∧ e.orphan = true)
  power : t.power = s.power
  cip : t.cip = s.cip
  town : t.town = s.town

theorem State.resetFunction_reset (s : State) (f : Nat) : FuncReset f s (s.resetFunction f) := by
  unfold State.resetFunction
  extract_lets mine u k v m r w h
  obtain ⟨k1, k2, k3, k4⟩ : _ := releaseCtxs_spec (s.kv.ctxs.filter fun c => mine c && !c.ponr) s
  have hkept : ∀ e ∈ u.kv.ctxs, e.ofFunc f = true → e.ponr = true := by
    intro e he hf
    by_contra hp
    exact k4 e he e (List.mem_filter.2 ⟨k1.ctxs e he, by rw [show mine e = true from hf, Bool.eq_false_iff.2 hp]; rfl⟩) rfl
  have hw : w.host = u.host ∧ w.regs = u.regs ∧ w.kv = { u.kv with ctxs := updWhere (OpCtx.ofFunc f) (fun (c : OpCtx) => { c with orphan := true }) u.kv.ctxs } ∧
      w.power = u.power ∧ w.cip = u.cip ∧ w.town = u.town := by
    unfold w
    split <;> exact ⟨rfl, rfl, rfl, rfl, rfl, rfl⟩
  change EndKeeps s u at k1
  change u.regs = s.regs at k2
  change u.host = s.host at k3
  clear_value w u
  obtain ⟨hh, hr, hk, hp, hc, ht⟩ := hw
  refine ⟨?_, ?_, ?_, ?_, fun q => ?_, ?_, fun e he => ?_, hp.trans k1.power, hc.trans k1.cip, ht.trans k1.town⟩
  · exact congrArg (fun h : HostSt => h.rings.filter fun r => r.f != f) (hh.trans k3)
  · exact (congrArg HostSt.vfs (hh.trans k3) :)
  · exact (congrArg HostSt.perst (hh.trans k3) :)
  · exact (congrArg HostSt.linkUp (hh.trans k3) :)
  · show regLookup q (w.regs.filter fun r => !pageReg f r.1) = _
    rw [regLookup_filter (fun q => !pageReg f q), hr, k2]
    cases pageReg f q <;> rfl
  · show w.kv = { s.kv with ctxs := w.kv.ctxs }
    rw [hk, k1.kv]
  · have he : e ∈ w.kv.ctxs := he
    rw [hk] at he
    obtain ⟨d, hd, rfl⟩ := List.mem_map.1 he
    refine ⟨d, k1.ctxs d hd, ?_⟩
    split
    · exact ⟨rfl, rfl, fun _ => rfl, fun hf => ⟨hkept d hd hf, rfl⟩⟩
    · next hf => exact ⟨rfl, rfl, id, fun h => absurd h hf⟩

/-! ### A function that has no ring and no command of a host -/

/-- The function has no ring, and what it still runs answers nobody. -/
structure Gone (f : Nat) (s : State) : Prop where
  rings : ∀ r ∈ s.host.rings, r.f ≠ f
  ctxs : ∀ e ∈ s.kv.ctxs, e.ofFunc f = true → e.orphan = true

theorem Gone.of_host {f : Nat} {s t : State} (h : Gone f s) (hh : t.host.rings = s.host.rings)
    (hk : ∀ e ∈ t.kv.ctxs, ∃ d ∈ s.kv.ctxs, e.src = d.src ∧ e.orphan = d.orphan) : Gone f t where
  rings r hr := h.rings r (hh ▸ hr)
  ctxs e he hf := by
    obtain ⟨d, hd, hs, ho⟩ := hk e he
    rw [ho]
    exact h.ctxs d hd (by rw [← hf]; unfold OpCtx.ofFunc; rw [hs])

/-- A ring of another function that changes makes none for this one. -/
theorem Gone.modRing {f g n : Nat} {s : State} {k : Ring → Ring} (h : Gone f s) (hg : g ≠ f) (hk : ∀ r, (k r).f = r.f) : Gone f (s.modRing g n k) where
  ctxs := h.ctxs
  rings r hr := by
    have hn : (k (s.ring g n)).f ≠ f := by rw [hk, (s.ring_fn g n).1]; exact hg
    unfold State.modRing at hr
    dsimp only at hr
    split at hr
    · obtain ⟨q, hq, rfl⟩ := List.mem_map.1 hr
      split
      · exact hn
      · exact h.rings q hq
    · rcases List.mem_append.1 hr with hr | hr
      · exact h.rings r hr
      · rw [List.mem_singleton.1 hr]
        exact hn

theorem Gone.sendMsix {f g n : Nat} {s : State} (h : Gone f s) : Gone f (s.sendMsix g n) := by
  unfold State.sendMsix
  split
  · exact ⟨h.rings, h.ctxs⟩
  · exact ⟨h.rings, h.ctxs⟩

theorem Gone.coalesce {f g n : Nat} {s : State} (h : Gone f s) (hg : g ≠ f) (now : Bool) : Gone f (s.coalesce g n now) := by
  unfold State.coalesce
  dsimp only
  split
  · exact h
  · split
    · refine Gone.sendMsix ?_
      exact h.modRing hg fun _ => rfl
    · exact h.modRing hg fun _ => rfl

theorem Gone.rp {f g n v : Nat} {x : Fld} {s : State} (h : Gone f s) : Gone f (s.rp g n x v) := ⟨h.rings, h.ctxs⟩

theorem Gone.emit {f : Nat} {s : State} {o : Output} (h : Gone f s) : Gone f (s.emit o) := ⟨h.rings, h.ctxs⟩

theorem Gone.completeRing {f g n : Nat} {s : State} {c : OpCtx} {r : Res} (h : Gone f s) (hg : g = f → c.orphan = true) : Gone f (s.completeRing c g n r) := by
  unfold State.completeRing
  dsimp only
  split
  · exact h
  next ho =>
    have hg : g ≠ f := fun e => ho (hg e)
    have hp : Gone f (s.postEntry g n c.desc.tag r.status r.rlen r.rstamp r.origin c.gen false) := by
      unfold State.postEntry
      dsimp only
      split
      · refine Gone.coalesce ?_ hg _
        exact h.emit.rp.modRing hg fun _ => rfl
      · exact h.emit.rp.coalesce hg _
    split
    · exact hp.rp.modRing hg fun r => by split <;> rfl
    · exact hp.rp

theorem State.placeResult_host (s : State) (c : OpCtx) (ps : List (Nat × Bytes)) : (s.placeResult c ps).host = s.host := by
  unfold State.placeResult
  have h : (ps.foldl (fun s p => (scatterAt p.1 (resultSgl c.desc c.fx) p.2).foldl (fun s w => s.emit (.memWrite w.1 w.2 (c.poisoned p.1))) s) s).host = s.host :=
    foldl_keeps State.host _ _ _ fun x p => foldl_keeps State.host _ _ _ fun _ _ => rfl
  split
  · rfl
  · dsimp only
    split
    · exact (State.report_host _ _ _ _).trans h
    · exact h

theorem State.sendTown_host (s : State) (m : Nat) (t : TMsg) : (s.sendTown m t).host = s.host := by
  unfold State.sendTown
  dsimp only
  split <;> rfl

theorem State.replyTo_host (s : State) (c : OpCtx) (slot m : Nat) (r : Res) (ps : List (Nat × Bytes)) : (s.replyTo c slot m r ps).host = s.host := by
  unfold State.replyTo
  dsimp only
  split
  · refine (foldl_keeps State.host _ _ _ ?_).trans ?_
    · exact fun _ _ => rfl
    · split <;> rfl
  · split <;> rfl

/-- What leaves the rings and only lets contexts go. -/
theorem Gone.of_ends {f : Nat} {s t : State} (h : Gone f s) (hh : t.host = s.host) (k : EndKeeps s t) : Gone f t :=
  h.of_host (congrArg HostSt.rings hh) fun e he => ⟨e, k.ctxs e he, rfl, rfl⟩

theorem Gone.finishAt {f : Nat} {s : State} {c : OpCtx} {r : Res} {ps : List (Nat × Bytes)} (h : Gone f s) (hc : c.ofFunc f = true → c.orphan = true) :
    Gone f (s.finishAt c r ps) := by
  unfold State.finishAt
  split
  next g n hs =>
    have h1 := h.of_ends (s.placeResult_host c ps) (endKeeps_placeResult s c ps)
    exact (h1.of_ends ((s.placeResult c ps).releaseCtx_spec c).2.1 (endKeeps_releaseCtx _ c)).completeRing fun e => hc (OpCtx.ofFunc_iff.2 ⟨n, e ▸ hs⟩)
  · exact h.of_ends ((State.replyTo_host _ _ _ _ _ _).trans (s.releaseCtx_spec c).2.1) ((endKeeps_releaseCtx _ _).trans (endKeeps_replyTo _ _ _ _ _ _))
  · exact h.of_ends ((State.sendTown_host _ _ _).trans (s.releaseCtx_spec c).2.1) ((endKeeps_releaseCtx _ _).trans (endKeeps_sendTown _ _ _))

/-- Operations that end one after another make the function no ring. -/
theorem Gone.foldl_ends {f : Nat} {s : State} {g : State → OpCtx → State} {l : List OpCtx} (h : Gone f s)
    (hg : ∀ u c, Gone f u → (c.ofFunc f = true → c.orphan = true) → Gone f (g u c)) (hl : ∀ c ∈ l, c ∈ s.kv.ctxs) : Gone f (l.foldl g s) :=
  List.foldlRecOn l g h fun u hu c hc => hg u c hu (h.ctxs c (hl c hc))

theorem Gone.finish {f : Nat} {s : State} {c : OpCtx} {r : Res} {ps : List (Nat × Bytes)} (h : Gone f s) (hc : c.ofFunc f = true → c.orphan = true) :
    Gone f (s.finish c r ps) :=
  List.foldlRecOn _ _ (h.finishAt hc) fun _ hu _ _ => hu.foldl_ends (fun _ _ => Gone.finishAt) fun _ hb => (List.mem_filter.1 hb).1

theorem Gone.fail {f : Nat} {s : State} {c : OpCtx} {st : Nat} (h : Gone f s) (hc : c.ofFunc f = true → c.orphan = true) : Gone f (s.fail c st) := by
  unfold State.fail
  split
  · exact (h.of_ends (State.report_host _ _ _ _) (endKeeps_report _ _ _ _)).finish hc
  · exact h.finish hc

/-! ### Key pages (R519, R522) -/

theorem State.dropKeys_spec (l : List SlotKey) (n : Nat) (s : State) : (l.foldl (fun s k => s.dropKey n k.slot) s).host = s.host ∧
    (l.foldl (fun s k => s.dropKey n k.slot) s).kv = s.kv ∧ (l.foldl (fun s k => s.dropKey n k.slot) s).ywp = s.ywp ∧
    (l.foldl (fun s k => s.dropKey n k.slot) s).power = s.power ∧
    ∀ k ∈ (l.foldl (fun s k => s.dropKey n k.slot) s).cip.keys, k ∈ s.cip.keys ∧ ∀ a ∈ l, ¬(k.tenant = n ∧ k.slot = a.slot) := by
  induction l generalizing s with
  | nil => exact ⟨rfl, rfl, rfl, rfl, fun k hk => ⟨hk, fun _ h => absurd h List.not_mem_nil⟩⟩
  | cons a l ih =>
    obtain ⟨h1, h2, h3, h4, h5⟩ := ih (s.dropKey n a.slot)
    refine ⟨h1, h2, h3, h4, fun k hk => ?_⟩
    obtain ⟨hm, hl⟩ := h5 k hk
    obtain ⟨hm, ha⟩ := List.mem_filter.1 (show k ∈ s.cip.keys.filter fun k => !(k.tenant == n && k.slot == a.slot) from hm)
    refine ⟨hm, fun b hb => ?_⟩
    rcases List.mem_cons.1 hb with rfl | hb
    · exact fun e => by simp [e] at ha
    · exact hl b hb

theorem State.setTrk_spec (s : State) (n : Nat) (k : Option Nat) : (s.setTrk n k).host = s.host ∧ (s.setTrk n k).kv = s.kv ∧ (s.setTrk n k).ywp = s.ywp ∧
    (s.setTrk n k).power = s.power ∧ (s.setTrk n k).cip.keys = s.cip.keys := by
  simp only [State.setTrk, State.fput_host, State.fput_kv, State.fput_ywp, State.fput_power, State.fput_cip, and_self]

/-- Zeroing a page leaves no key of its tenant, and adds none. -/
theorem State.zeroPage_spec (s : State) (n : Nat) : (s.zeroPage n).host = s.host ∧ (s.zeroPage n).kv = s.kv ∧ (s.zeroPage n).ywp = s.ywp ∧
    (s.zeroPage n).power = s.power ∧ ∀ k ∈ (s.zeroPage n).cip.keys, k ∈ s.cip.keys ∧ k.tenant ≠ n := by
  obtain ⟨h1, h2, h3, h4, h5⟩ := State.dropKeys_spec (s.cip.keys.filter fun k => k.tenant == n) n s
  obtain ⟨k1, k2, k3, k4, k5⟩ := ((s.cip.keys.filter fun k => k.tenant == n).foldl (fun s k => s.dropKey n k.slot) s).setTrk_spec n none
  refine ⟨k1.trans h1, k2.trans h2, k3.trans h3, k4.trans h4, fun k hk => ?_⟩
  obtain ⟨hm, hl⟩ := h5 k (k5 ▸ hk)
  exact ⟨hm, fun e => hl k (List.mem_filter.2 ⟨hm, beq_iff_eq.2 e⟩) ⟨e, rfl⟩⟩

/-- Zeroing pages one after another. -/
theorem State.zeroes_spec (l : List Nat) (s : State) : (l.foldl (fun s n => s.zeroPage n) s).host = s.host ∧ (l.foldl (fun s n => s.zeroPage n) s).kv = s.kv ∧
    (l.foldl (fun s n => s.zeroPage n) s).ywp = s.ywp ∧ (l.foldl (fun s n => s.zeroPage n) s).power = s.power ∧
    ∀ k ∈ (l.foldl (fun s n => s.zeroPage n) s).cip.keys, k ∈ s.cip.keys ∧ k.tenant ∉ l := by
  induction l generalizing s with
  | nil => exact ⟨rfl, rfl, rfl, rfl, fun k hk => ⟨hk, List.not_mem_nil⟩⟩
  | cons n l ih =>
    obtain ⟨h1, h2, h3, h4, h5⟩ := ih (s.zeroPage n)
    obtain ⟨k1, k2, k3, k4, k5⟩ := s.zeroPage_spec n
    refine ⟨h1.trans k1, h2.trans k2, h3.trans k3, h4.trans k4, fun k hk => ?_⟩
    obtain ⟨hm, hl⟩ := h5 k hk
    obtain ⟨hm, hn⟩ := k5 k hm
    exact ⟨hm, fun h => (List.mem_cons.1 h).elim hn hl⟩

/-- Zeroing every page leaves no key. -/
theorem State.zeroPages_spec (s : State) : s.zeroPages.host = s.host ∧ s.zeroPages.kv = s.kv ∧ s.zeroPages.ywp = s.ywp ∧ s.zeroPages.power = s.power ∧
    s.zeroPages.cip.keys = [] := by
  obtain ⟨h1, h2, h3, h4, h5⟩ := State.zeroes_spec ((s.cip.keys.map fun k => k.tenant) ++ s.cip.trks.map fun k => k.1).eraseDups s
  refine ⟨h1, h2, h3, h4, List.eq_nil_iff_forall_not_mem.2 fun k hk => ?_⟩
  obtain ⟨hm, hn⟩ := h5 k hk
  exact hn (List.mem_eraseDups.2 (List.mem_append_left _ (List.mem_map_of_mem hm)))

/-- What the end of a page leaves: of the engine all but its contexts; no key is added, and a function that had no ring and no command has none. -/
structure Clears (s t : State) : Prop where
  kv : t.kv = { s.kv with ctxs := t.kv.ctxs }
  keys : ∀ k ∈ t.cip.keys, k ∈ s.cip.keys
  gone : ∀ f, Gone f s → Gone f t

theorem Clears.refl (s : State) : Clears s s := ⟨rfl, fun _ h => h, fun _ h => h⟩

theorem Clears.trans {s t u : State} (h : Clears s t) (k : Clears t u) : Clears s u :=
  ⟨by rw [k.kv, h.kv], fun q hq => h.keys q (k.keys q hq), fun f hf => k.gone f (h.gone f hf)⟩

theorem Clears.foldl {α : Type} (g : State → α → State) (h : ∀ s a, Clears s (g s a)) (l : List α) (s : State) : Clears s (l.foldl g s) :=
  List.foldlRecOn l g (Clears.refl s) fun _ hu a _ => hu.trans (h _ a)

theorem Clears.ite {c : Prop} [Decidable c] {s t u : State} (h : Clears s t) (k : Clears s u) : Clears s (if c then t else u) := by
  split
  · exact h
  · exact k

/-- What leaves the rings, the keys and the contexts' origins. -/
theorem Clears.of_same {s t : State} (hh : t.host = s.host) (hk : t.kv = s.kv) (hc : ∀ k ∈ t.cip.keys, k ∈ s.cip.keys) : Clears s t where
  kv := by rw [hk]
  keys := hc
  gone _ h := h.of_host (congrArg HostSt.rings hh) fun e he => ⟨e, hk ▸ he, rfl, rfl⟩

theorem clears_report (s : State) (e : EvKind) (a b : Nat) : Clears s (s.report e a b) :=
  .of_same (State.report_host _ _ _ _) (State.report_kv _ _ _ _) fun _ hk => State.report_cip s e a b ▸ hk

theorem clears_zeroPage (s : State) (n : Nat) : Clears s (s.zeroPage n) := by
  obtain ⟨h1, h2, -, -, h5⟩ := s.zeroPage_spec n
  exact .of_same h1 h2 fun k hk => (h5 k hk).1

theorem clears_emptyReads (s : State) (n slot : Nat) : Clears s (s.emptyReads n slot) := by
  unfold State.emptyReads
  extract_lets hit
  have h := EndKeeps.foldl (fun s c => s.fail c stSlotEmpty) (fun s c => endKeeps_fail s c _) (s.kv.ctxs.filter hit) s
  exact ⟨h.kv, fun k hk => h.cip ▸ hk, fun f hf => hf.foldl_ends (fun _ _ => Gone.fail) fun c hc => (List.mem_filter.1 hc).1⟩

theorem clears_skPromote (s : State) (n d g : Nat) : Clears s (s.skPromote n d g) := by
  unfold State.skPromote
  dsimp only
  split <;> exact .of_same rfl rfl fun _ h => h

theorem clears_txRekey (s : State) (n : Nat) : Clears s (s.txRekey n) := by
  unfold State.txRekey
  split
  · exact .refl s
  · refine Clears.ite (.refl s) ?_
    dsimp only
    refine Clears.trans (Clears.ite (clears_report s _ _ _) (.refl s)) (Clears.ite ?_ (.refl _))
    exact (clears_skPromote _ _ _ _).trans (.of_same rfl rfl fun _ h => h)

theorem clears_sendPacket (s : State) (n : Nat) (p : YPacket) : Clears s (s.sendPacket n p) := by
  unfold State.sendPacket
  dsimp only
  split
  · exact clears_txRekey s n
  · exact (clears_txRekey s n).trans (.of_same rfl rfl fun _ h => h)

theorem clears_releaseCtx (s : State) (c : OpCtx) : Clears s (s.releaseCtx c) :=
  ⟨(endKeeps_releaseCtx s c).kv, fun _ h => (endKeeps_releaseCtx s c).cip ▸ h, fun _ h => h.of_ends (s.releaseCtx_spec c).2.1 (endKeeps_releaseCtx s c)⟩

/-- Contexts that change neither their origin nor whether a host waits. -/
theorem clears_updCtxs (s : State) (p : OpCtx → Bool) (g : OpCtx → OpCtx) (h : ∀ c, (g c).src = c.src ∧ (g c).orphan = c.orphan) :
    Clears s { s with kv := { s.kv with ctxs := updWhere p g s.kv.ctxs } } where
  kv := rfl
  keys _ hk := hk
  gone _ hf := hf.of_host rfl fun e he => by
    obtain ⟨d, hd, rfl⟩ := List.mem_map.1 he
    refine ⟨d, hd, ?_⟩
    split
    · exact h d
    · exact ⟨rfl, rfl⟩

theorem clears_closeRequests (s : State) (n : Nat) : Clears s (s.closeRequests n) := by
  unfold State.closeRequests
  split
  · exact .refl s
  · refine Clears.trans ?_ (Clears.foldl _ clears_releaseCtx _ _)
    exact clears_updCtxs s _ _ fun _ => ⟨rfl, rfl⟩

theorem clears_closeSlot (s : State) (n cause : Nat) : Clears s (s.closeSlot n cause) := by
  unfold State.closeSlot
  dsimp only
  refine Clears.trans (clears_closeRequests s n) (Clears.trans ?_ (clears_report _ _ _ _))
  exact .of_same rfl rfl fun _ h => h

theorem clears_sendClose (s : State) (n code cause : Nat) : Clears s (s.sendClose n code cause) := by
  unfold State.sendClose
  split
  · exact .refl s
  · exact (clears_sendPacket _ _ _).trans (clears_closeSlot _ _ _)

/-- Once a page is zeroed, reads end and sessions close. -/
theorem clears_pageUsers (s : State) (n : Nat) : Clears (s.zeroPage n) (s.clearPage n) :=
  (Clears.foldl _ (fun u k => clears_emptyReads u n k) _ _).trans (Clears.foldl _ (fun u (x : Slot) => clears_sendClose u x.n 5 5) _ _)

theorem clears_clearPage (s : State) (n : Nat) : Clears s (s.clearPage n) := (clears_zeroPage s n).trans (clears_pageUsers s n)

/-- Clearing a page leaves no key of its tenant. -/
theorem State.clearPage_keys (s : State) (n : Nat) : ∀ k ∈ (s.clearPage n).cip.keys, k.tenant ≠ n := by
  obtain ⟨-, -, -, -, h5⟩ := s.zeroPage_spec n
  exact fun k hk => (h5 k ((clears_pageUsers s n).keys k hk)).2

/-- A page sent on to the members: messages alone, and the note of what the standby has not yet. -/
theorem State.sendKeys_spec (s : State) (n m : Nat) :
    (s.sendKeys n m).host = s.host ∧ (s.sendKeys n m).kv = s.kv ∧ (s.sendKeys n m).regs = s.regs ∧ (s.sendKeys n m).cip = s.cip := by
  have h : ∀ t, (s.sendTown m t).host = s.host ∧ (s.sendTown m t).kv = s.kv ∧ (s.sendTown m t).regs = s.regs ∧ (s.sendTown m t).cip = s.cip := by
    intro t
    unfold State.sendTown
    dsimp only
    split <;> exact ⟨rfl, rfl, rfl, rfl⟩
  unfold State.sendKeys
  split
  · exact ⟨rfl, rfl, rfl, rfl⟩
  · split <;> exact h _

theorem State.distribute_spec (s : State) (n : Nat) :
    (s.distribute n).host = s.host ∧ (s.distribute n).kv = s.kv ∧ (s.distribute n).regs = s.regs ∧ (s.distribute n).cip.keys = s.cip.keys := by
  unfold State.distribute
  split
  · exact ⟨rfl, rfl, rfl, rfl⟩
  split
  · obtain ⟨h1, h2, h3, h4⟩ := s.sendKeys_spec n (idOf s.town.standby)
    exact ⟨h1, h2, h3, (congrArg CipSt.keys h4 :)⟩
  · refine ⟨foldl_keeps State.host _ _ _ fun u m => (u.sendKeys_spec n m).1, foldl_keeps State.kv _ _ _ fun u m => (u.sendKeys_spec n m).2.1,
      foldl_keeps State.regs _ _ _ fun u m => (u.sendKeys_spec n m).2.2.1, congrArg CipSt.keys (foldl_keeps State.cip _ _ _ fun u m => (u.sendKeys_spec n m).2.2.2)⟩

/-! ### FLR (R150, R522) -/

theorem FuncReset.gone {f : Nat} {s t : State} (h : FuncReset f s t) : Gone f t where
  rings r hr := by
    rw [h.rings] at hr
    exact bne_iff_ne.1 (List.mem_filter.1 hr).2
  ctxs e he hf := by
    obtain ⟨d, -, hs, -, -, ho⟩ := h.ctxs e he
    exact (ho (by rw [← hf]; unfold OpCtx.ofFunc; rw [hs])).2

theorem FuncReset.clears {f : Nat} {s t : State} (h : FuncReset f s t) : Clears s t where
  kv := h.kv
  keys k hk := h.cip ▸ hk
  gone g hg := by
    refine ⟨fun r hr => ?_, fun e he hf => ?_⟩
    · rw [h.rings] at hr
      exact hg.rings r (List.mem_filter.1 hr).1
    · obtain ⟨d, hd, hs, -, ho, -⟩ := h.ctxs e he
      exact ho (hg.ctxs d hd (by rw [← hf]; unfold OpCtx.ofFunc; rw [hs]))

theorem clears_distribute (s : State) (n : Nat) : Clears s (s.distribute n) := by
  obtain ⟨h1, h2, -, h4⟩ := s.distribute_spec n
  exact .of_same h1 h2 fun k hk => h4 ▸ hk

theorem clears_flr (s : State) (f : Nat) : Clears s (s.flr f) :=
  ((clears_clearPage s f).trans (State.resetFunction_reset _ f).clears).trans (clears_distribute _ f)

/-- What an FLR leaves of its function: no ring, no register, no key, and commands past their point of no return alone. -/
structure Flred (f : Nat) (t : State) : Prop where
  gone : Gone f t
  keys : ∀ k ∈ t.cip.keys, k.tenant ≠ f

theorem State.flr_flred (s : State) (f : Nat) : Flred f (s.flr f) where
  gone := (clears_distribute _ f).gone f (State.resetFunction_reset (s.clearPage f) f).gone
  keys k hk := s.clearPage_keys f k (((State.resetFunction_reset (s.clearPage f) f).clears.trans (clears_distribute _ f)).keys k hk)

theorem Flred.clears {f : Nat} {s t : State} (h : Flred f s) (k : Clears s t) : Flred f t := ⟨k.gone f h.gone, fun q hq => h.keys q (k.keys q hq)⟩

/-! ### A function at its reset state -/

/-- The function has no ring, its registers hold their reset values, and what it still runs is past its point of no return and answers nobody. -/
structure Cleared (f : Nat) (s : State) : Prop where
  rings : ∀ r ∈ s.host.rings, r.f ≠ f
  reg : ∀ q, pageReg f q = true → s.reg q = q.reset
  ctxs : ∀ e ∈ s.kv.ctxs, ∀ n, e.src = .ring f n → e.orphan = true ∧ e.ponr = true

theorem Cleared.of_same {f : Nat} {s t : State} (h : Cleared f s) (hh : t.host.rings = s.host.rings) (hr : t.regs = s.regs) (hk : t.kv = s.kv) : Cleared f t :=
  ⟨hh ▸ h.rings, fun q hq => (congrArg (regLookup q) hr).trans (h.reg q hq), hk ▸ h.ctxs⟩

theorem FuncReset.cleared {f : Nat} {s t : State} (h : FuncReset f s t) : Cleared f t where
  rings := h.gone.rings
  reg q hq := (h.reg q).trans (if_pos hq)
  ctxs e he n hn := by
    obtain ⟨d, -, hs, hp, -, ho⟩ := h.ctxs e he
    obtain ⟨hd, ho⟩ := ho (OpCtx.ofFunc_iff.2 ⟨n, hs ▸ hn⟩)
    exact ⟨ho, hp.trans hd⟩

theorem FuncReset.keeps_cleared {f g : Nat} {s t : State} (h : FuncReset g s t) (k : Cleared f s) : Cleared f t where
  rings r hr := by
    rw [h.rings] at hr
    exact k.rings r (List.mem_filter.1 hr).1
  reg q hq := by
    rw [h.reg q]
    split
    · rfl
    · exact k.reg q hq
  ctxs e he n hn := by
    obtain ⟨d, hd, hs, hp, ho, -⟩ := h.ctxs e he
    obtain ⟨h1, h2⟩ := k.ctxs d hd n (hs ▸ hn)
    exact ⟨ho h1, hp.trans h2⟩

/-- An FLR leaves its function at its reset state. -/
theorem State.flr_cleared (s : State) (f : Nat) : Cleared f (s.flr f) := by
  obtain ⟨h1, h2, h3, -⟩ := ((s.clearPage f).resetFunction f).distribute_spec f
  exact (State.resetFunction_reset (s.clearPage f) f).cleared.of_same (congrArg HostSt.rings h1) h3 h2

/-- What the resets of functions one after another leave of the rest of the part. -/
structure ResetsKeep (s t : State) : Prop where
  perst : t.host.perst = s.host.perst
  linkUp : t.host.linkUp = s.host.linkUp
  power : t.power = s.power
  cip : t.cip = s.cip
  kv : t.kv = { s.kv with ctxs := t.kv.ctxs }

theorem State.resetFunctions_keep (s : State) (l : List Nat) : ResetsKeep s (l.foldl (fun s f => s.resetFunction f) s) :=
  List.foldlRecOn l _ ⟨rfl, rfl, rfl, rfl, rfl⟩ fun u hu f _ =>
    have h := State.resetFunction_reset u f
    ⟨h.perst.trans hu.perst, h.linkUp.trans hu.linkUp, h.power.trans hu.power, h.cip.trans hu.cip, by rw [h.kv, hu.kv]⟩

theorem State.resetFunctions_cleared (s : State) (l : List Nat) : ∀ f ∈ l, Cleared f (l.foldl (fun s f => s.resetFunction f) s) :=
  foldl_establishes (P := Cleared) (fun u f => (State.resetFunction_reset u f).cleared) (fun u g _ h => (State.resetFunction_reset u g).keeps_cleared h) l s

/-- The registers of a function's pages are among those that its reset reaches. -/
theorem pageReg_mem {f : Nat} {q : RegKey} (h : pageReg f q = true) : pageRegs.contains q.name = true := by
  have hall : (RegName.all.all fun n => !decide (n.place.space = .setup ∨ n.place.space = .win ∨ n.place.space = .key) || pageRegs.contains n) = true := by decide
  have hq := List.all_eq_true.1 hall q.name (List.contains_iff_mem.1 (RegName.contains_all _))
  unfold pageReg at h
  rw [Bool.and_eq_true] at h
  simpa [h.2] using hq

/-- What a command's answer leaves of a function at its reset state. -/
theorem Cleared.reach {f : Nat} {s u : State} {ps : List Part} {ns : List RegName} (h : Cleared f u) (h1 : ps.contains .host = true) (h2 : ps.contains .kv = true)
    (h3 : ∀ n, pageRegs.contains n = true → ns.contains n = true) : Cleared f (settle s (s.within ps ns u)) where
  rings := by rw [host_reach h1]; exact h.rings
  reg q hq := by rw [reg_settle, State.reg_within, if_pos (h3 _ (pageReg_mem hq))]; exact h.reg q hq
  ctxs := by rw [kv_reach h2]; exact h.ctxs

/-! ### Resets -/

theorem exec_hostReset_ready (s : State) (hp : s.pinsActive = true) (hr : s.ready = true) (hs : s.power.pstate ≠ 3) :
    ∃ t : State, exec .hostReset s = .next t ∧ t.host.perst = true ∧ t.host.linkUp = false ∧ t.host.vfs = 0 ∧
      t.power = { s.power with resetType := 2, resetCause := 6 } ∧ t.cip.keys = [] ∧ t.ywp.slots = s.ywp.slots ∧ t.kv.keyspaces = s.kv.keyspaces ∧
      ∀ f, f ≤ s.host.vfs → Cleared f t := by
  have e : exec .hostReset s = execHostReset s := rfl
  rw [e]
  unfold execHostReset
  rw [when_of hp]
  extract_lets h v u p k q
  rw [if_pos (show (v.ready && decide (v.power.pstate ≠ 3)) = true by rw [Bool.and_eq_true]; exact ⟨hr, decide_eq_true hs⟩)]
  obtain ⟨z1, z2, -, z4, z5⟩ := v.zeroPages_spec
  obtain ⟨k1, k2, k3, k4, k5⟩ : ResetsKeep v.zeroPages u := State.resetFunctions_keep _ _
  have hc : ∀ f ∈ List.range (v.host.vfs + 1), Cleared f u := State.resetFunctions_cleared _ _
  clear_value u
  refine answers ⟨k1.trans (congrArg HostSt.perst z1), k2.trans (congrArg HostSt.linkUp z1), rfl, ?_, (congrArg CipSt.keys k4).trans z5, rfl, ?_, fun f hf => ?_⟩
  · show { u.power with resetType := 2, resetCause := 6 } = _
    rw [k3, z4]
  · show u.kv.keyspaces = _
    rw [k5, z2]
  · exact Cleared.reach (Cleared.of_same (hc f (List.mem_range.2 (Nat.lt_succ_of_le hf))) rfl rfl rfl) rfl rfl fun n hn => hn

theorem exec_hostReset_starting (s : State) (hp : s.pinsActive = true) (hn : s.ready = false ∨ s.power.pstate = 3) :
    ∃ t : State, exec .hostReset s = .next t ∧ t.host = { s.host with perst := true, linkUp := false } ∧ t.power = s.power ∧ t.kv = s.kv := by
  have e : exec .hostReset s = execHostReset s := rfl
  rw [e]
  unfold execHostReset
  rw [when_of hp]
  extract_lets h v u p k
  rw [if_neg (show ¬(v.ready && decide (v.power.pstate ≠ 3)) = true by
    rw [Bool.and_eq_true, decide_eq_true_eq]
    rintro ⟨h1, h2⟩
    rcases hn with hn | hn
    · exact Bool.noConfusion (hn.symm.trans h1)
    · exact h2 hn)]
  exact answers ⟨rfl, rfl, rfl⟩

theorem exec_flr (s : State) (f : Nat) (hr : s.ready = true) (hp : s.host.perst = false) (hs : s.power.pstate ≠ 3) (hf : f ≤ s.host.vfs) :
    ∃ t : State, exec (.functionLevelReset f) s = .next t ∧ Cleared f t ∧ Flred f t ∧ Clears s t := by
  have e : exec (.functionLevelReset f) s = execFunctionLevelReset f s := rfl
  rw [e]
  unfold execFunctionLevelReset
  rw [when_of (by simp [hr, hp, hs, hf])]
  have h1 := s.flr_cleared f
  have h2 := s.flr_flred f
  have h3 := clears_flr s f
  generalize s.flr f = u at h1 h2 h3
  have hk : ∀ {ps ns}, ps.contains .host = true → ps.contains .kv = true → ps.contains .cip = true → Clears u (settle s (s.within ps ns u)) :=
    fun a b c => .of_same (host_reach a) (kv_reach b) fun k hk => cip_reach (s := s) c ▸ hk
  have hm := hk (ps := finishParts ++ [.latches, .held, .winLatch, .cip]) (ns := pageRegs ++ [.ywpKeyStat]) rfl rfl rfl
  exact answers ⟨h1.reach rfl rfl fun n hn => by rw [List.contains_append, hn]; rfl, h2.clears hm, h3.trans hm⟩

theorem exec_vfEnableClear (s : State) (hr : s.ready = true) (hp : s.host.perst = false) (hs : s.power.pstate ≠ 3) :
    ∃ t : State, exec .vfEnableClear s = .next t ∧ t.host.vfs = 0 ∧ ∀ f, 1 ≤ f → f ≤ s.host.vfs → Flred f t := by
  have e : exec .vfEnableClear s = execVfEnableClear s := rfl
  rw [e]
  unfold execVfEnableClear
  rw [when_of (by simp [hr, hp, hs])]
  extract_lets u
  have h : ∀ k ∈ List.range s.host.vfs, Flred (k + 1) u :=
    foldl_establishes (P := fun k u => Flred (k + 1) u) (fun u k => u.flr_flred (k + 1)) (fun u g _ h => h.clears (clears_flr u (g + 1))) _ s
  clear_value u
  refine answers ⟨rfl, fun f h1 hf => ?_⟩
  obtain ⟨k, rfl⟩ := Nat.exists_eq_add_of_le' h1
  obtain ⟨⟨g1, g2⟩, g3⟩ := h k (List.mem_range.2 hf)
  exact ⟨⟨g1, g2⟩, g3⟩

/-! ### Configuration requests (R26, R140) -/

theorem State.msixControl_spec (s : State) (f : Nat) (on mask : Bool) :
    let w := s.modFn f fun x => { x with msixOn := on, msixMask := mask }
    let go := (s.fn f).msixPba.filter fun v => !w.vecMasked f v
    (s.msixControl f on mask).out = s.out ++ go.map (fun v => .msix f v) ∧ (∀ v ∈ go, v ∉ ((s.msixControl f on mask).fn f).msixPba) ∧
      ((s.msixControl f on mask).fn f).msixOn = on ∧ ((s.msixControl f on mask).fn f).msixMask = mask := by
  intro w go
  have hf : (s.fn f).f = f := by
    unfold State.fn
    cases h : s.host.funcs.find? fun x => x.f == f with
    | none => rfl
    | some r => simpa using List.find?_some h
  have hw : w.fn f = { s.fn f with msixOn := on, msixMask := mask } := State.fn_modFn s f _ hf
  have hgo : ((w.fn f).msixPba.filter fun v => !w.vecMasked f v) = go := by rw [hw]
  have he : s.msixControl f on mask = go.foldl (fun s v => s.emit (.msix f v))
      (if go.isEmpty then w else w.modFn f fun x => { x with msixPba := x.msixPba.filter fun v => !go.contains v }) := by
    rw [← hgo]
    rfl
  rw [he, emits_spec]
  by_cases hz : go.isEmpty = true
  · rw [if_pos hz]
    have hz : go = [] := List.isEmpty_iff.1 hz
    exact ⟨rfl, fun v hv => absurd hv (hz ▸ List.not_mem_nil), congrArg Func.msixOn hw, congrArg Func.msixMask hw⟩
  · rw [if_neg hz]
    have hx := State.fn_modFn w f (fun x => { x with msixPba := x.msixPba.filter fun v => !go.contains v }) (by rw [hw]; exact hf)
    refine ⟨rfl, fun v hv hm => ?_, ?_, ?_⟩
    · have hm : v ∈ ((w.modFn f fun x => { x with msixPba := x.msixPba.filter fun v => !go.contains v }).fn f).msixPba := hm
      rw [hx] at hm
      have := (List.mem_filter.1 hm).2
      simp [hv] at this
    · exact (congrArg Func.msixOn hx).trans (congrArg Func.msixOn hw)
    · exact (congrArg Func.msixMask hx).trans (congrArg Func.msixMask hw)

theorem exec_configurationRequest (s : State) (r : CfgRequest) (hl : s.linkMay = true) : exec (.configurationRequest r) s = done [.host, .out] [] s
    (if !(s.ready || s.upd.recovery) then s.emit (.cfg (.func r.f) true)
    else if r.f ≤ (if s.upd.recovery then 0 else s.host.vfs) then
      (r.msix.elim s fun m => s.msixControl r.f m.1 m.2).emit (.cfg (.func r.f) false)
    else s.emit (.unsupported (.func r.f))) := by
  obtain ⟨f, m⟩ := r
  have e : exec (.configurationRequest ⟨f, m⟩) s = execConfigurationRequest ⟨f, m⟩ s := rfl
  rw [e]
  unfold execConfigurationRequest
  rw [when_of hl]
  cases m with
  | none => simp only [decide_eq_true_eq, Option.elim]
  | some m => simp only [decide_eq_true_eq, Option.elim]

/-- Settles O35: the resets of functions one after another each establish a function's reset state, which the later ones keep. -/
theorem functionsAreResetAndTheLinkAnswers : Obligations.FunctionsAreResetAndTheLinkAnswers := by
  unfold Obligations.FunctionsAreResetAndTheLinkAnswers
  refine ⟨fun s hp => ⟨fun hr hs => ?_, exec_hostReset_starting s hp⟩, fun s f hr hp hs hf => ?_, fun s hr hp hs => ?_, fun s hl => ?_,
    fun s f m hl => ⟨fun hr hc => ?_, fun hr hc hf => ⟨?_, ?_⟩, fun hr hc hf => ?_, fun hc => ⟨fun hf => ?_, ?_⟩⟩⟩
  · obtain ⟨t, ht, h1, h2, h3, h4, h5, h6, h7, h8⟩ := exec_hostReset_ready s hp hr hs
    exact ⟨t, ht, h1, h2, h3, h4, h5, h6, h7, fun f hf => ⟨(h8 f hf).rings, (h8 f hf).reg, (h8 f hf).ctxs⟩⟩
  · obtain ⟨t, ht, h1, h2, h3⟩ := exec_flr s f hr hp hs hf
    exact ⟨t, ht, h1.rings, h1.reg, h2.keys, by rw [h3.kv], by rw [h3.kv], by rw [h3.kv], h1.ctxs⟩
  · obtain ⟨t, ht, h1, h2⟩ := exec_vfEnableClear s hr hp hs
    exact ⟨t, ht, h1, fun f ha hf => ⟨(h2 f ha hf).gone.rings, (h2 f ha hf).keys⟩⟩
  · exact answers_eq (when_of hl _ s) rfl
  · rw [exec_configurationRequest s _ hl, if_pos (by simp [hr, hc])]
    exact answers ⟨rfl, rfl⟩
  · rintro rfl
    rw [exec_configurationRequest s _ hl, if_neg (by simp [hr]), if_pos (by simpa [hc] using hf)]
    exact answers ⟨rfl, rfl⟩
  · rintro on mask rfl
    rw [exec_configurationRequest s _ hl, if_neg (by simp [hr]), if_pos (by simpa [hc] using hf)]
    obtain ⟨h1, h2, h3, h4⟩ := s.msixControl_spec f on mask
    rw [Option.elim_some]
    dsimp only
    generalize s.msixControl f on mask = u at h1 h2 h3 h4
    exact answers ⟨⟨congrArg (· ++ _) h1, h2⟩, h3, h4⟩
  · rw [exec_configurationRequest s _ hl, if_neg (by simp [hr]), if_neg (by simpa [hc] using hf)]
    exact answers ⟨rfl, rfl⟩
  · rw [exec_configurationRequest s _ hl, if_neg (by simp [hc]), if_neg (by simpa [hc] using Nat.pos_iff_ne_zero.1 hf)]
    exact answers rfl
  · rw [exec_configurationRequest s _ hl, if_neg (by simp [hc]), if_pos (by simp [hc])]
    exact answers rfl

end Sys2Proof.Machine
end

section
/-!
SUPPORT. The slots of sessions (chapter 07): what a slot is after the operations that open, send over and close its session.
-/

namespace Sys2Proof.Machine

/-! ### The lowest free number -/

theorem firstFree_below (l : List Nat) (k n m : Nat) (h : n ≤ m) (hm : m < firstFree l k n) : m ∈ l := by
  induction k generalizing n with
  | zero => exact absurd hm (Nat.not_lt.2 h)
  | succ k ih =>
    unfold firstFree at hm
    split at hm
    next hl =>
      rcases Nat.eq_or_lt_of_le h with rfl | h
      · exact List.contains_iff_mem.1 hl
      · exact ih (n + 1) h hm
    · exact absurd hm (Nat.not_lt.2 h)

theorem firstFree_or (l : List Nat) (k n : Nat) : firstFree l k n ∉ l ∨ firstFree l k n = n + k := by
  induction k generalizing n with
  | zero => exact Or.inr rfl
  | succ k ih =>
    unfold firstFree
    split
    · rcases ih (n + 1) with h | h
      · exact Or.inl h
      · exact Or.inr (by omega)
    next hl => exact Or.inl fun h => hl (List.contains_iff_mem.2 h)

/-- Among more numbers than a list has elements one is not in the list. -/
theorem firstFree_not_mem (l : List Nat) (k n : Nat) (h : l.length < k) : firstFree l k n ∉ l := by
  rcases firstFree_or l k n with hf | hf
  · exact hf
  · have hs : List.range' n k ⊆ l := fun m hm => by
      obtain ⟨h1, h2⟩ := List.mem_range'_1.1 hm
      exact firstFree_below l k n m h1 (hf ▸ h2)
    have := (List.Nodup.subperm List.nodup_range' hs).length_le
    rw [List.length_range'] at this
    omega

theorem YwpSt.newSlot_spec {y : YwpSt} {n inc : Nat} (h : y.newSlot = some (n, inc)) :
    n < 262144 ∧ (∀ x ∈ y.slots, x.n = n → x.state = .free) ∧ ∀ m, m < n → ∃ x ∈ y.slots, x.n = m ∧ x.state ≠ .free := by
  unfold YwpSt.newSlot at h
  dsimp only at h
  split at h
  next hn =>
    obtain ⟨rfl, -⟩ := Prod.mk.inj (Option.some.inj h)
    refine ⟨hn, fun x hx hxn => ?_, fun m hm => ?_⟩
    · by_contra hf
      refine firstFree_not_mem _ _ 0 ?_ (List.mem_map.2 ⟨x, List.mem_filter.2 ⟨hx, decide_eq_true hf⟩, hxn⟩)
      rw [List.length_map]
      exact Nat.lt_succ_of_le (List.length_filter_le _ _)
    · obtain ⟨x, hx, rfl⟩ := List.mem_map.1 (firstFree_below _ _ 0 m (Nat.zero_le m) hm)
      obtain ⟨hx, hf⟩ := List.mem_filter.1 hx
      exact ⟨x, hx, rfl, of_decide_eq_true hf⟩
  · exact absurd h (by simp)

/-! ### A slot by its number -/

theorem YwpSt.slot?_n {y : YwpSt} {n : Nat} {x : Slot} (h : y.slot? n = some x) : x.n = n := beq_iff_eq.1 (List.find?_some (p := fun x : Slot => x.n == n) h)

theorem State.slot_putSlot (s : State) (x : Slot) : (s.putSlot x).ywp.slot? x.n = some x := by
  show ((s.ywp.slots.filter fun y => y.n != x.n) ++ [x]).find? (fun y => y.n == x.n) = some x
  have h : (s.ywp.slots.filter fun y => y.n != x.n).find? (fun y => y.n == x.n) = none :=
    List.find?_eq_none.2 fun y hy => by simpa using (List.mem_filter.1 hy).2
  rw [List.find?_append, h]
  simp

/-- A change of the slot whose record is known. -/
theorem State.slot_modSlot_some {s : State} {n : Nat} {x : Slot} (h : s.ywp.slot? n = some x) (g : Slot → Slot) (hg : ∀ x, (g x).n = x.n) :
    (s.modSlot n g).ywp.slot? n = some (g x) := by
  rw [State.slot_modSlot s n g hg, h]
  rfl

/-! ### Freeing (R330) -/

theorem State.freeSlot_of {s : State} {n : Nat} {x : Slot} (h : s.ywp.slot? n = some x) :
    s.freeSlot n = (s.skZero n).putSlot { n := n, state := .free, inc := (x.inc + 1) % 65536 } := by
  unfold State.freeSlot
  rw [h]

theorem State.freeSlot_spec {s : State} {n : Nat} {x : Slot} (h : s.ywp.slot? n = some x) :
    (s.freeSlot n).ywp.slot? n = some { n := n, state := .free, inc := (x.inc + 1) % 65536 } ∧ (∀ k ∈ (s.freeSlot n).cip.sk, k.slot ≠ n) ∧
      (s.freeSlot n).clk = s.clk ∧ (s.freeSlot n).ev = s.ev := by
  rw [State.freeSlot_of h]
  exact ⟨(s.skZero n).slot_putSlot { n := n, state := .free, inc := (x.inc + 1) % 65536 }, fun k hk => bne_iff_ne.1 (List.mem_filter.1 hk).2, rfl, rfl⟩

theorem State.hsFail_spec {s : State} {n : Nat} {x : Slot} (h : s.ywp.slot? n = some x) :
    (s.hsFail n).ywp.slot? n = some { n := n, state := .free, inc := (x.inc + 1) % 65536 } ∧ (s.hsFail n).clk = s.clk ∧
      (s.hsFail n).ev = (s.report .sessionClosed n).ev := by
  obtain ⟨h1, -, h3, h4⟩ := State.freeSlot_spec h
  unfold State.hsFail
  exact ⟨by rw [State.report_ywp]; exact h1, (State.report_clk _ _ _ _).trans h3, report_ev_congr h4 (congrArg Clock.cycles h3) _ _ _⟩

/-! ### Sending handshake packets (R327) -/

/-- A state that has only sent packets. -/
theorem foldl_emit_length {α : Type} (g : State → α → Output) (l : List α) (s : State) :
    ∃ o, l.foldl (fun s a => s.emit (g s a)) s = { s with out := s.out ++ o } ∧ o.length = l.length := by
  induction l generalizing s with
  | nil => exact ⟨[], by simp, rfl⟩
  | cons a l ih =>
    obtain ⟨o, ho, hl⟩ := ih (s.emit (g s a))
    refine ⟨g s a :: o, ?_, by rw [List.length_cons, List.length_cons, hl]⟩
    rw [List.foldl_cons, ho]
    simp [State.emit]

/-- Sending handshake packets appends them, and marks when the slot spoke. -/
theorem State.sendHs_of (s : State) (x : Slot) (ps : List (Nat × Nat × Bytes)) : ∃ o : List Output, o.length = ps.length ∧
    s.sendHs x ps = if ps.isEmpty then { s with out := s.out ++ o } else ({ s with out := s.out ++ o } : State).modSlot x.n fun x => { x with spoke := s.clk.cycles } := by
  unfold State.sendHs
  extract_lets u
  obtain ⟨o, ho, hl⟩ := foldl_emit_length (fun (s : State) (q : Nat × Nat × Bytes) => Output.packet x.n (s.addressed x 0
    { ver := 0, typ := 1, flags := 16 * s.fget .ywpCtrl_jumboEn + 32 * b2n (x.client && !x.peerKnown), sid := x.peerSlot, inc := x.peerInc,
      plen := q.2.2.length, psn := q.1, ackPsn := x.hsRx, window := s.window x, txTs := s.wireNs, msgId := x.n, valOff := q.2.1, srcInc := x.inc, bytes := q.2.2 })) ps s
  have hu : u = { s with out := s.out ++ o } := ho
  refine ⟨o, hl, ?_⟩
  rw [hu]

theorem State.sendHs_spec {s : State} {x y : Slot} (h : s.ywp.slot? x.n = some y) (ps : List (Nat × Nat × Bytes)) :
    (∃ sp, (s.sendHs x ps).ywp.slot? x.n = some { y with spoke := sp } ∧ (ps ≠ [] → sp = s.clk.cycles)) ∧
      (s.sendHs x ps).out.length = s.out.length + ps.length ∧ (s.sendHs x ps).clk = s.clk ∧ (s.sendHs x ps).free = s.free ∧ (s.sendHs x ps).regs = s.regs := by
  obtain ⟨o, hl, ho⟩ := s.sendHs_of x ps
  have hu : ({ s with out := s.out ++ o } : State).ywp.slot? x.n = some y := h
  rw [ho, ← hl]
  split
  next he => exact ⟨⟨y.spoke, hu, fun hn => absurd (List.isEmpty_iff.1 he) hn⟩, List.length_append, rfl, rfl, rfl⟩
  · exact ⟨⟨s.clk.cycles, State.slot_modSlot_some hu _ fun _ => rfl, fun _ => rfl⟩, List.length_append, rfl, rfl, rfl⟩

/-- A slot that holds the pieces of TLS bytes until they are acknowledged. -/
def Slot.says (x : Slot) (ps : List (Nat × Nat × Bytes)) (n : Nat) : Slot := { x with hsTx := x.hsTx + ps.length, hsSent := x.hsSent + n, hsOut := x.hsOut ++ ps }

/-- TLS bytes that fit go out in pieces. -/
theorem State.hsReply_spec {s : State} {n : Nat} {x : Slot} (h : s.ywp.slot? n = some x) {b : Bytes} (hb : x.hsSent + b.length ≤ 65536) :
    (∃ sp, (s.hsReply n b).ywp.slot? n = some { x.says (hsPieces x.hsTx x.hsSent b) b.length with spoke := sp }) ∧
      (s.hsReply n b).out.length = s.out.length + (hsPieces x.hsTx x.hsSent b).length ∧ (s.hsReply n b).clk = s.clk ∧ (s.hsReply n b).free = s.free ∧
      (s.hsReply n b).regs = s.regs := by
  obtain rfl := YwpSt.slot?_n h
  have hr : s.hsReply x.n b = (s.modSlot x.n fun y => y.says (hsPieces x.hsTx x.hsSent b) b.length).sendHs x (hsPieces x.hsTx x.hsSent b) := by
    unfold State.hsReply
    rw [h]
    exact if_neg (Nat.not_lt.2 hb)
  rw [hr]
  obtain ⟨⟨sp, h1, -⟩, h2⟩ := State.sendHs_spec (State.slot_modSlot_some h (fun y => y.says (hsPieces x.hsTx x.hsSent b) b.length) fun _ => rfl) (hsPieces x.hsTx x.hsSent b)
  exact ⟨⟨sp, h1⟩, h2⟩

/-! ### Sending protected packets (R322, R334) -/

/-- While the generation has invocations left, a packet goes out with the next one. -/
theorem State.sendPacket_of {s : State} {n : Nat} {x : Slot} (h : s.ywp.slot? n = some x) (hi : x.invoc < rekeyAt) (p : YPacket) : ∃ q : YPacket, q.typ = p.typ ∧ q.cause = p.cause ∧
    s.sendPacket n p = (s.modSlot n fun x => { x with invoc := x.invoc + 1, spoke := s.clk.cycles }).emit (.packet n q) := by
  have hr : s.txRekey n = s := by
    unfold State.txRekey
    rw [h]
    exact if_pos hi
  unfold State.sendPacket
  rw [hr]
  dsimp only
  rw [h]
  refine ⟨_, ?_, ?_, rfl⟩
  · rfl
  · rfl

/-- An operation that leaves a slot its state, and the clock. -/
structure SlotStays (n : Nat) (x : Slot) (s t : State) : Prop where
  slot : ∃ y, t.ywp.slot? n = some y ∧ y.state = x.state ∧ y.cause = x.cause
  clk : t.clk = s.clk

theorem SlotStays.modSlot {n : Nat} {x : Slot} {s t : State} (h : SlotStays n x s t) (g : Slot → Slot) (hg : ∀ x, (g x).n = x.n ∧ (g x).state = x.state ∧ (g x).cause = x.cause) :
    SlotStays n x s (t.modSlot n g) := by
  obtain ⟨⟨y, h1, h2, h3⟩, h4⟩ := h
  exact ⟨⟨g y, State.slot_modSlot_some h1 g fun x => (hg x).1, (hg y).2.1.trans h2, (hg y).2.2.trans h3⟩, h4⟩

theorem SlotStays.of_ywp {n : Nat} {x : Slot} {s t u : State} (h : SlotStays n x s t) (hy : u.ywp = t.ywp) (hc : u.clk = t.clk) : SlotStays n x s u := by
  obtain ⟨⟨y, h1, h2⟩, h4⟩ := h
  exact ⟨⟨y, by rw [hy]; exact h1, h2⟩, hc.trans h4⟩

theorem SlotStays.ite {n : Nat} {x : Slot} {s t u : State} {c : Prop} [Decidable c] (h : SlotStays n x s t) (k : SlotStays n x s u) : SlotStays n x s (if c then t else u) := by
  split
  · exact h
  · exact k

theorem State.skPromote_ywp (s : State) (n d g : Nat) : (s.skPromote n d g).ywp = s.ywp ∧ (s.skPromote n d g).clk = s.clk := by
  unfold State.skPromote
  dsimp only
  split <;> exact ⟨rfl, rfl⟩

theorem slotStays_txRekey {s : State} {n : Nat} {x : Slot} (h : s.ywp.slot? n = some x) : SlotStays n x s (s.txRekey n) := by
  have h0 : SlotStays n x s s := ⟨⟨x, h, rfl, rfl⟩, rfl⟩
  unfold State.txRekey
  rw [h]
  dsimp only
  refine SlotStays.ite h0 ?_
  have hr : SlotStays n x s (if x.invoc = rekeyAt then s.report .rekey n else s) := SlotStays.ite (h0.of_ywp (State.report_ywp _ _ _ _) (State.report_clk _ _ _ _)) h0
  refine SlotStays.ite (SlotStays.of_ywp ?_ (State.fadd_ywp _ _ _ _ _ _) (State.fadd_clk _ _ _ _ _ _)) hr
  exact (hr.of_ywp (State.skPromote_ywp _ _ _ _).1 (State.skPromote_ywp _ _ _ _).2).modSlot _ fun _ => ⟨rfl, rfl, rfl⟩

theorem slotStays_sendPacket {s : State} {n : Nat} {x : Slot} (h : s.ywp.slot? n = some x) (p : YPacket) : SlotStays n x s (s.sendPacket n p) := by
  have hr := slotStays_txRekey h
  unfold State.sendPacket
  dsimp only
  split
  · exact hr
  · refine SlotStays.of_ywp ?_ (State.emit_ywp _ _) (State.emit_clk _ _)
    exact hr.modSlot _ fun _ => ⟨rfl, rfl, rfl⟩

/-! ### Closing (R330, R354) -/

theorem State.releaseCtx_ywp (s : State) (c : OpCtx) : (s.releaseCtx c).ywp = s.ywp := by
  have h : ∀ u : State, (c.refs.foldl (fun s id => s.modEntry id fun e => { e with refs := e.refs - 1 }) u).ywp = u.ywp := fun u => foldl_keeps State.ywp _ _ _ fun _ _ => rfl
  unfold State.releaseCtx
  dsimp only
  rw [h]
  split <;> rfl

theorem State.closeRequests_ywp (s : State) (n : Nat) : (s.closeRequests n).ywp = s.ywp ∧ (s.closeRequests n).clk = s.clk ∧ (s.closeRequests n).out = s.out := by
  unfold State.closeRequests
  split
  · exact ⟨rfl, rfl, rfl⟩
  · refine ⟨foldl_keeps State.ywp _ _ _ fun u c => u.releaseCtx_ywp c, foldl_keeps State.clk _ _ _ fun u c => (endKeeps_releaseCtx u c).clk,
      foldl_keeps State.out _ _ _ fun u c => (u.releaseCtx_spec c).2.2.1⟩

/-- A closed slot keeps its keys and its cause, and no message. -/
theorem State.closeSlot_spec {s : State} {n : Nat} {x : Slot} (h : s.ywp.slot? n = some x) (cause : Nat) :
    (s.closeSlot n cause).ywp.slot? n = some { x with state := .closed, cause := cause, since := s.clk.cycles, tx := [], rx := [], unacked := [] } ∧
      (s.closeSlot n cause).clk = s.clk ∧ ∀ o ∈ s.out, o ∈ (s.closeSlot n cause).out := by
  obtain ⟨h1, h2, h3⟩ := s.closeRequests_ywp n
  unfold State.closeSlot
  dsimp only
  generalize s.closeRequests n = u at h1 h2 h3
  have hu : ({ u with ywp := { u.ywp with running := u.ywp.running.filter fun w => w.1 != n } } : State).ywp.slot? n = some x := by
    rw [← h, ← h1]
    rfl
  rw [← h2]
  refine ⟨?_, State.report_clk _ _ _ _, fun o ho => ?_⟩
  · rw [State.report_ywp]
    exact State.slot_modSlot_some hu _ fun _ => rfl
  · rw [State.report_out]
    exact h3 ▸ ho

/-- Sending CLOSE leaves the slot closed with its cause. -/
theorem State.sendClose_spec {s : State} {n : Nat} {x : Slot} (h : s.ywp.slot? n = some x) (code cause : Nat) :
    ∃ y, (s.sendClose n code cause).ywp.slot? n = some y ∧ y.state = .closed ∧ y.cause = cause ∧ y.since = s.clk.cycles ∧ y.tx = [] ∧ y.rx = [] ∧ y.unacked = [] := by
  obtain ⟨⟨y, hy, -⟩, hc⟩ := slotStays_sendPacket h { typ := 4, psn := x.nextPsn, plen := 8, cause := code }
  obtain ⟨h1, -⟩ := State.closeSlot_spec hy cause
  unfold State.sendClose
  rw [h]
  exact ⟨_, h1, rfl, rfl, congrArg Clock.cycles hc, rfl, rfl, rfl⟩

/-- While the generation has invocations left, the CLOSE goes out with the next one. -/
theorem State.sendClose_out {s : State} {n : Nat} {x : Slot} (h : s.ywp.slot? n = some x) (hi : x.invoc < rekeyAt) (code cause : Nat) :
    ∃ q : YPacket, Output.packet n q ∈ (s.sendClose n code cause).out ∧ q.typ = 4 ∧ q.cause = code := by
  obtain ⟨q, h1, h2, he⟩ := State.sendPacket_of h hi { typ := 4, psn := x.nextPsn, plen := 8, cause := code }
  obtain ⟨⟨y, hy, -⟩, -⟩ := slotStays_sendPacket h { typ := 4, psn := x.nextPsn, plen := 8, cause := code }
  obtain ⟨-, -, h3⟩ := State.closeSlot_spec hy cause
  unfold State.sendClose
  rw [h]
  exact ⟨q, h3 _ (by rw [he]; exact List.mem_append_right _ (List.mem_singleton_self _)), h1, h2⟩

end Sys2Proof.Machine
end

section
/-!
SUPPORT. Sessions open and close (chapter 07, R326 to R334, R357).
-/

namespace Sys2Proof.Machine

/-! ### Sending ACK, and entering OPEN (R328, R334, R338) -/

theorem State.sendAck_spec {s : State} {n : Nat} {x : Slot} (h : s.ywp.slot? n = some x) (hi : x.invoc < rekeyAt) (now : Bool) :
    (s.sendAck n now).ywp.slot? n = some { x with invoc := x.invoc + 1, spoke := s.clk.cycles, rxUnacked := 0, ce := false } := by
  unfold State.sendAck
  rw [h]
  dsimp only
  obtain ⟨q, -, -, he⟩ := State.sendPacket_of h hi { typ := 3, psn := x.nextPsn, plen := 8 * (sackOf x).length, sack := sackOf x, flags := b2n now + 4 * b2n x.ce }
  rw [he]
  have hy := State.slot_modSlot_some h (fun y => { y with invoc := y.invoc + 1, spoke := s.clk.cycles }) fun _ => rfl
  exact State.slot_modSlot_some (show ((s.modSlot n _).emit _).ywp.slot? n = _ from hy) (fun y => { y with rxUnacked := 0, ce := false }) fun _ => rfl

theorem State.skOpen_ywp (s : State) (n : Nat) : (s.skOpen n).ywp = s.ywp := by
  unfold State.skOpen
  split
  · rfl
  · exact foldl_keeps State.ywp _ _ _ fun u w => by split <;> rfl

/-- A slot that has entered OPEN at a cycle with a congestion window. -/
def Slot.opened (x : Slot) (c w : Nat) : Slot :=
  { x with state := .opened, since := c, heard := c, spoke := c, hsOut := if x.client then [] else x.hsOut, cwnd := w, rto := rtoCap, timer := c }

theorem State.openSlot_spec {s : State} {n : Nat} {x : Slot} (h : s.ywp.slot? n = some x) :
    ∃ w, (s.openSlot n).ywp.slot? n = some (x.opened s.clk.cycles w) := by
  rw [← s.skOpen_ywp n] at h
  exact ⟨s.firstCwnd x, State.slot_modSlot_some h _ fun _ => rfl⟩

/-- A session of no member brings no message of the Town. -/
theorem State.sessionUp_user {s : State} {n : Nat} {x : Slot} (h : s.ywp.slot? n = some x) (hm : x.member = false) : s.sessionUp n = s := by
  unfold State.sessionUp
  rw [h]
  simp [hm]

/-! ### TLS (R326, R329, R357) -/

section
variable {s : State} {n : Nat} {x : Slot}

/-- A server's handshake is done: the session is OPEN with the version and the rights that TLS found. -/
theorem State.tlsStep_done (h : s.ywp.slot? n = some x) (hd : s.flag .cipDrbgStat_failed = false) (hs : x.state = .handshake) (hc : x.client = false) (hi : x.invoc < rekeyAt)
    {b : Bytes} (hb : x.hsSent + b.length ≤ 65536) {ver tenant identity : Nat} {mgmt : Bool} {ps : TlsParams} (h1 : s.fget .ywpCtrl_verMin ≤ ver) (h2 : ver ≤ s.fget .ywpCtrl_verMax)
    (h3 : tlsSupported ps = true) :
    ∃ y, (s.tlsStep n (.done b ver tenant identity false mgmt ps)).ywp.slot? n = some y ∧ y.state = .opened ∧ y.ver = ver ∧ y.tenant = tenant ∧ y.identity = identity ∧
      y.member = false ∧ y.mgmt = mgmt ∧ y.secret = s.fresh.1 ∧ y.since = s.clk.cycles ∧ y.rto = 100000000 := by
  obtain ⟨⟨sp, hy⟩, -, hclk, hfree, -⟩ := State.hsReply_spec h hb
  unfold State.tlsStep
  rw [if_neg (by simp [hd])]
  dsimp only
  rw [if_neg (by simp [h3]; omega)]
  generalize s.hsReply n b = u at hy hclk hfree
  unfold State.fresh
  rw [← hfree, ← hclk]
  dsimp only
  have hz := State.slot_modSlot_some (s := { u with free := u.free + 1 }) hy
    (fun x => { x with secret := Config.freeValue u.free, ver := ver, tenant := tenant, identity := identity, member := false, mgmt := mgmt }) fun _ => rfl
  rw [hz]
  dsimp only
  rw [if_pos (by simp [Slot.says, hs, hc])]
  obtain ⟨w, ho⟩ := State.openSlot_spec hz
  have ha := State.sendAck_spec ho hi false
  rw [State.sessionUp_user ha rfl]
  exact ⟨_, ha, rfl, rfl, rfl, rfl, rfl, rfl, rfl, rfl, rfl⟩

/-- A version out of the bounds, or TLS options that the part does not support, fail the handshake. -/
theorem State.tlsStep_unfit (hd : s.flag .cipDrbgStat_failed = false) {b : Bytes} {ver tenant identity : Nat} {member mgmt : Bool} {ps : TlsParams}
    (hv : ver < s.fget .ywpCtrl_verMin ∨ s.fget .ywpCtrl_verMax < ver ∨ tlsSupported ps = false) : s.tlsStep n (.done b ver tenant identity member mgmt ps) = s.hsFail n := by
  unfold State.tlsStep
  rw [if_neg (by simp [hd])]
  exact if_pos (by simpa using hv)

theorem State.tlsStep_more (hd : s.flag .cipDrbgStat_failed = false) (b : Bytes) : s.tlsStep n (.more b) = s.hsReply n b := if_neg (by simp [hd])

theorem State.tlsStep_failed : s.tlsStep n .failed = s.hsFail n := ite_self _

end

/-! ### A server's first packet (R325, R327) -/

/-- The slot that an INIT packet makes. -/
def Slot.ofInit (p : YPacket) (n inc now : Nat) (jumbo : Bool) : Slot :=
  { n := n, state := .handshake, inc := inc, peer := p.src, hop := p.mac, peerSlot := p.msgId, peerInc := p.srcInc, peerKnown := true, hsKey := p.msgId,
    jumbo := bitAt p.flags 4 && jumbo, since := now }

/-- The stream after its first packet. -/
theorem hsAdvance_first (n : Nat) : hsAdvance [(1, 0, n)] 1 0 = (2, n, true) := by
  simp [hsAdvance, sortBy, insertBy]

/-- A new slot takes its first packet, and TLS its bytes. -/
theorem State.hsTake_init {s : State} {p : YPacket} {n inc now : Nat} {jumbo : Bool} (t : TlsStep) (h : s.ywp.slot? n = some (Slot.ofInit p n inc now jumbo))
    (hl : p.plen ≤ 1344) (hi : bitAt p.flags 5 = true) (h0 : p.ver = 0) (h1 : p.psn = 1) (h2 : p.valOff = 0) :
    ∃ u : State, s.hsTake (Slot.ofInit p n inc now jumbo) p t = u.tlsStep n t ∧
      u.ywp.slot? n = some { Slot.ofInit p n inc now jumbo with hsRx := 2, hsStream := p.plen } ∧ u.clk = s.clk ∧ u.regs = s.regs ∧ u.free = s.free ∧ u.ev = s.ev := by
  have hz := State.slot_modSlot_some (State.slot_modSlot_some h (fun x =>
      let x := if x.peerKnown then x else { x with peer := p.src, peerSlot := p.msgId, peerInc := p.srcInc, peerKnown := true, jumbo := x.jumbo && bitAt p.flags 4 }
      { x with hsOut := x.hsOut.filter fun q => decide (p.ackPsn ≤ q.1) }) fun x => by dsimp only; split <;> rfl)
    (fun x => { x with hsRx := 2, hsStream := p.plen, hsAhead := x.hsAhead.filter fun q => decide (2 ≤ q.1) }) fun _ => rfl
  obtain ⟨x, hx⟩ : ∃ x, x = Slot.ofInit p n inc now jumbo := ⟨_, rfl⟩
  obtain ⟨x1, x2, x3, x4, x5, x6⟩ : x.n = n ∧ x.hsRx = 1 ∧ x.hsStream = 0 ∧ x.hsAhead = [] ∧ x.state = .handshake ∧ x.ver = 0 := by
    rw [hx]
    exact ⟨rfl, rfl, rfl, rfl, rfl, rfl⟩
  refine ⟨_, ?_, hz, rfl, rfl, rfl, rfl⟩
  rw [← hx]
  unfold State.hsTake
  simp only [hi, Bool.not_true, Bool.false_eq_true, false_and, if_false, h0, h1, h2, ne_eq, not_true_eq_false, x1, x2, x3, x4, x5, x6, List.nil_append, hsAdvance_first,
    Nat.lt_irrefl, or_self]
  rw [if_neg (by omega), if_neg (by simp only [or_false]; omega)]

/-- The first INIT packet takes a new slot, and TLS its bytes. -/
theorem exec_handshake_init {s : State} {p : YPacket} {n inc : Nat} (t : TlsStep) (hn : s.netOn = true) (hy : s.ywpOn = true) (hr : s.ready = true) (hip : ipBad p = false)
    (hu : p.udpLen = 64 + p.plen) (ht : p.typ = 1) (hv : p.rsvBad = false) (hl : p.plen ≤ 1344) (hi : bitAt p.flags 5 = true) (hs : s.hsSlot p = none)
    (hh : s.ywp.handshaking < 1024) (hw : s.ywp.newSlot = some (n, inc)) (h0 : p.ver = 0) (h1 : p.psn = 1) (h2 : p.valOff = 0) :
    ∃ u : State, exec (.handshake p t) s = done [.town, .ywp, .cip, .sup, .ev, .out, .free] [.ywpDrop, .ywpKeyStat] s (u.tlsStep n t) ∧
      u.ywp.slot? n = some { Slot.ofInit p n inc s.clk.cycles (s.flag .ywpCtrl_jumboEn) with hsRx := 2, hsStream := p.plen } ∧ u.clk = s.clk ∧ u.regs = s.regs ∧ u.free = s.free ∧
      u.ev = s.ev := by
  have e : exec (.handshake p t) s = execHandshake p t s := rfl
  rw [e]
  unfold execHandshake
  rw [when_of hn, if_neg (by simp [hip, hu, ht, hv, hl]), hs]
  dsimp only
  rw [if_neg (by simp [hi, hy, hr, hh]), if_neg (by simp [h0]), if_neg (by simp [h1]), if_neg (by simp [h1]), hw]
  dsimp only
  obtain ⟨u, hu, hk⟩ := State.hsTake_init t (s.slot_putSlot (Slot.ofInit p n inc s.clk.cycles (s.flag .ywpCtrl_jumboEn))) hl hi h0 h1 h2
  exact ⟨u, congrArg _ hu, hk⟩

/-! ### A client's first flight (R330, R469) -/

/-- The slot of a session that the part opens. -/
def Slot.ofOpen (n inc peer hop member now : Nat) (jumbo : Bool) : Slot :=
  { n := n, state := .handshake, inc := inc, client := true, peer := peer, hop := hop, identity := member, jumbo := jumbo, since := now }

/-- A part opens a session in the lowest FREE slot, with its first flight out. -/
theorem exec_sessionOpen {s : State} {peer member hop n inc : Nat} {tls : Bytes} (hy : s.ywpOn = true) (hr : s.ready = true ∨ member ≠ 0) (hh : s.ywp.handshaking < 1024)
    (hw : s.ywp.newSlot = some (n, inc)) (ht : tls ≠ []) (hl : tls.length ≤ 65536) :
    ∃ (t : State) (y : _), exec (.sessionOpen ⟨peer, hop⟩ member tls) s = .next t ∧ t.ywp.slot? n = some y ∧ y.state = .handshake ∧ y.client = true ∧ y.peer = peer ∧ y.hop = hop ∧
      y.inc = inc ∧ y.identity = member ∧ y.since = s.clk.cycles ∧ y.hsOut = hsPieces 1 0 tls ∧ y.hsSent = tls.length ∧ y.ver = 0 ∧
      t.out.length = s.out.length + (hsPieces 1 0 tls).length := by
  have e : exec (.sessionOpen ⟨peer, hop⟩ member tls) s = execSessionOpen ⟨peer, hop⟩ member tls s := rfl
  rw [e]
  unfold execSessionOpen
  rw [if_neg (by simpa using ht), when_of (by simp [hy, hr, hh]), hw]
  dsimp only
  obtain ⟨⟨sp, h1⟩, h2, -⟩ := State.hsReply_spec (s.slot_putSlot (Slot.ofOpen n inc peer hop member s.clk.cycles (s.flag .ywpCtrl_jumboEn)))
    (b := tls) (by rw [show (Slot.ofOpen n inc peer hop member s.clk.cycles (s.flag .ywpCtrl_jumboEn)).hsSent = 0 from rfl]; omega)
  change (State.hsReply (s.putSlot (Slot.ofOpen n inc peer hop member s.clk.cycles (s.flag .ywpCtrl_jumboEn))) n tls).ywp.slot? n = _ at h1
  change (State.hsReply (s.putSlot (Slot.ofOpen n inc peer hop member s.clk.cycles (s.flag .ywpCtrl_jumboEn))) n tls).out.length = s.out.length + (hsPieces 1 0 tls).length at h2
  change ∃ (t : State) (y : _), done _ _ s (State.hsReply (s.putSlot (Slot.ofOpen n inc peer hop member s.clk.cycles (s.flag .ywpCtrl_jumboEn))) n tls) = .next t ∧ _
  generalize State.hsReply (s.putSlot (Slot.ofOpen n inc peer hop member s.clk.cycles (s.flag .ywpCtrl_jumboEn))) n tls = u at h1 h2 ⊢
  refine ⟨_, _, rfl, (congrArg (YwpSt.slot? · n) (ywp_reach rfl)).trans h1, rfl, rfl, rfl, rfl, rfl, rfl, rfl, rfl, Nat.zero_add _, rfl, (congrArg List.length (out_reach rfl)).trans h2⟩

/-! ### Packets that are dropped -/

theorem exec_handshake_malformed {s : State} {p : YPacket} (z : TlsStep) (hn : s.netOn = true)
    (hb : ipBad p = true ∨ p.udpLen ≠ 64 + p.plen ∨ p.typ ≠ 1 ∨ p.rsvBad = true ∨ 1344 < p.plen) :
    ∃ t : State, exec (.handshake p z) s = .next t ∧ t.ywp = s.ywp ∧ t.out = s.out ∧
      t.fget .ywpDrop_malformed = satAdd Fld.ywpDrop_malformed.w (s.fget .ywpDrop_malformed) 1 := by
  have e : exec (.handshake p z) s = execHandshake p z s := rfl
  rw [e]
  unfold execHandshake
  rw [when_of hn, if_pos hb]
  refine answers ⟨?_, ?_, ?_⟩
  · rw [ywp_reach rfl]
    exact s.fadd_ywp _ _ _ _ _
  · rw [out_reach rfl]
    exact s.fadd_out _ _ _ _ _
  · rw [fget_reach rfl]
    exact s.fget_fadd_same _ _ _ _ _

theorem State.flag_congr {s t : State} (h : t.regs = s.regs) (f : Fld) (i j k : Nat) : t.flag f i j k = s.flag f i j k := by
  unfold State.flag
  rw [State.fget_congr h]

/-- A closed session runs out of no invocation. -/
theorem State.limitCheck_closed {s : State} {n : Nat} {y : Slot} (h : s.ywp.slot? n = some y) (hy : y.state = .closed) : s.limitCheck n = s := by
  unfold State.limitCheck
  rw [h]
  exact if_neg (by simp [hy])

/-- Waiting changes no slot. -/
theorem State.slot_waitCycle {s : State} {n : Nat} {x : Slot} (h : s.ywp.slot? n = some x) (c : Nat) : (s.waitCycle c).ywp.slot? n = some x := by
  rw [State.waitCycle_ywp, h]

/-- A clock that a command has moved on to a deadline. -/
theorem cycles_reach {s u : State} {ps : List Part} {ns : List RegName} {c : Nat} (h : ps.contains .clk = true) (hc : u.clk.cycles = max s.clk.cycles c) :
    (settle s (s.within ps ns u)).clk.cycles = max s.clk.cycles c := by
  rw [settle_cycles _ _ _ _ h, hc, ← Nat.max_assoc, Nat.max_self]

/-- The erasure of the old receive generation, with its event. -/
theorem State.oldErase_spec {s : State} {n : Nat} {x : Slot} (h : s.ywp.slot? n = some x) :
    (((s.skErase n 1 3).modSlot n fun x => { x with oldGen := none }).report .rekey n).clk = s.clk ∧
    (((s.skErase n 1 3).modSlot n fun x => { x with oldGen := none }).report .rekey n).ywp.slot? n = some { x with oldGen := none } ∧
    (((s.skErase n 1 3).modSlot n fun x => { x with oldGen := none }).report .rekey n).ev = (s.report .rekey n).ev ∧
    ∀ k ∈ (((s.skErase n 1 3).modSlot n fun x => { x with oldGen := none }).report .rekey n).cip.sk, ¬(k.slot = n ∧ k.dir = 1 ∧ k.pos = 3) := by
  rw [State.report_clk, State.report_ywp, State.report_cip]
  refine ⟨rfl, State.slot_modSlot_some (s := s.skErase n 1 3) h _ fun _ => rfl, ?_, fun k hk => ?_⟩
  · exact report_ev_congr (s := (s.skErase n 1 3).modSlot n fun x => { x with oldGen := none }) (t := s) rfl rfl _ _ _
  · exact of_decide_eq_false (Bool.not_eq_true' _ ▸ (List.mem_filter.1 hk).2)

/-! ### Timers (R327, R330, R334) -/

section
variable {s : State} {n : Nat} {x : Slot} (h : s.ywp.slot? n = some x) (hn : s.netOn = true)
include h hn

theorem exec_handshakeRetransmit (hx : x.state = .handshake ∨ x.state = .opened) (ho : x.hsOut ≠ []) :
    ∃ (t : State) (y : _), exec (.handshakeRetransmit n) s = .next t ∧ t.clk.cycles = max s.clk.cycles (x.spoke + 6000000) ∧
      t.out.length = s.out.length + x.hsOut.length ∧ t.ywp.slot? n = some y ∧ y = { x with spoke := t.clk.cycles } := by
  obtain rfl := YwpSt.slot?_n h
  have e : exec (.handshakeRetransmit x.n) s = execHandshakeRetransmit x.n s := rfl
  rw [e]
  unfold execHandshakeRetransmit
  rw [h]
  dsimp only
  rw [when_of (by simp [hn, hx, ho])]
  rw [show 10 * msCycles = 6000000 by norm_num [msCycles]]
  have hw := State.slot_waitCycle h (x.spoke + 6000000)
  have hc := State.waitCycle_cycles (x.spoke + 6000000) s
  have hl := s.waitCycle_out (x.spoke + 6000000)
  generalize s.waitCycle (x.spoke + 6000000) = w at hw hc hl
  obtain ⟨⟨sp, h1, h2⟩, h3, h4, -⟩ := State.sendHs_spec hw x.hsOut
  obtain rfl := h2 ho
  rw [hl] at h3
  rw [← h4] at h1 hc
  generalize w.sendHs x x.hsOut = u at h1 h3 h4 hc
  have hk := cycles_reach (s := s) (ps := [.clk, .ywp, .out]) (ns := []) rfl hc
  exact ⟨_, _, rfl, hk, (congrArg List.length (out_reach rfl)).trans h3, (congrArg (YwpSt.slot? · x.n) (ywp_reach rfl)).trans h1, by rw [hk, hc]⟩

theorem exec_handshakeTimeout (hx : x.state = .handshake) :
    ∃ (t : State) (y : _), exec (.handshakeTimeout n) s = .next t ∧ t.clk.cycles = max s.clk.cycles (x.since + s.fget .ywpSessCtrl_hsTimeoutMs * 600000) ∧
      t.ywp.slot? n = some y ∧ y.state = .free ∧ y.inc = (x.inc + 1) % 65536 := by
  have e : exec (.handshakeTimeout n) s = execHandshakeTimeout n s := rfl
  rw [e]
  unfold execHandshakeTimeout
  rw [h]
  dsimp only
  rw [when_of (by simp [hn, hx])]
  obtain ⟨h1, h2, -⟩ := State.hsFail_spec (State.slot_waitCycle h (x.since + s.fget .ywpSessCtrl_hsTimeoutMs * msCycles))
  generalize (s.waitCycle (x.since + s.fget .ywpSessCtrl_hsTimeoutMs * msCycles)).hsFail n = u at h1 h2
  refine ⟨_, _, rfl, ?_, (congrArg (YwpSt.slot? · n) (ywp_reach rfl)).trans h1, rfl, rfl⟩
  exact cycles_reach rfl (by rw [h2]; exact State.waitCycle_cycles _ _)

theorem exec_closedSlotFree (hx : x.state = .closed) :
    ∃ (t : State) (y : _), exec (.closedSlotFree n) s = .next t ∧ t.clk.cycles = max s.clk.cycles (x.since + 120000000) ∧ t.ywp.slot? n = some y ∧
      y.state = .free ∧ y.inc = (x.inc + 1) % 65536 ∧ ∀ k ∈ t.cip.sk, k.slot ≠ n := by
  have e : exec (.closedSlotFree n) s = execClosedSlotFree n s := rfl
  rw [e]
  unfold execClosedSlotFree
  rw [h]
  dsimp only
  rw [when_of (by simp [hn, hx])]
  rw [show 200 * msCycles = 120000000 by norm_num [msCycles]]
  obtain ⟨h1, h2, h3, -⟩ := State.freeSlot_spec (State.slot_waitCycle h (x.since + 120000000))
  generalize (s.waitCycle (x.since + 120000000)).freeSlot n = u at h1 h2 h3
  refine ⟨_, _, rfl, ?_, (congrArg (YwpSt.slot? · n) (ywp_reach rfl)).trans h1, rfl, rfl, ?_⟩
  · exact cycles_reach rfl (by rw [h3]; exact State.waitCycle_cycles _ _)
  · rw [cip_reach rfl]
    exact h2

theorem exec_oldGenerationErase {g : Nat × Nat} (hg : x.oldGen = some g) :
    ∃ t : State, exec (.oldGenerationErase n) s = .next t ∧ t.clk.cycles = max s.clk.cycles (g.2 + 60000000) ∧
      t.ywp.slot? n = some { x with oldGen := none } ∧ t.ev = ((s.waitCycle (g.2 + 60000000)).report .rekey n).ev ∧ ∀ k ∈ t.cip.sk, ¬(k.slot = n ∧ k.dir = 1 ∧ k.pos = 3) := by
  have e : exec (.oldGenerationErase n) s = execOldGenerationErase n s := rfl
  rw [e]
  unfold execOldGenerationErase
  rw [h, Option.bind_some, hg]
  dsimp only
  rw [when_of hn]
  rw [show 100 * msCycles = 60000000 by norm_num [msCycles]]
  obtain ⟨h1, h2, h3, h4⟩ := State.oldErase_spec (State.slot_waitCycle h (g.2 + 60000000))
  rw [← h3]
  generalize State.report (State.modSlot _ n _) .rekey n = u at h1 h2 h4
  refine answers ⟨cycles_reach rfl ?_, ?_, ?_, ?_⟩
  · rw [h1]
    exact State.waitCycle_cycles _ _
  · rw [ywp_reach rfl]
    exact h2
  · exact ev_reach rfl
  · rw [cip_reach rfl]
    exact h4

theorem exec_idleSessionClose (hx : x.state = .opened) (hi : x.invoc < 4293918720) :
    ∃ (t : State) (y : _) (q : _), exec (.idleSessionClose n) s = .next t ∧ t.ywp.slot? n = some y ∧ y.state = .closed ∧ y.cause = 1 ∧
      y.tx = [] ∧ y.rx = [] ∧ y.unacked = [] ∧ y.since = s.clk.cycles ∧ Output.packet n q ∈ t.out ∧ q.typ = 4 ∧ q.cause = 1 := by
  obtain ⟨y, h1, h2, h3, h4, h5, h6, h7⟩ := State.sendClose_spec h 1 1
  obtain ⟨q, k1, k2, k3⟩ := State.sendClose_out h hi 1 1
  have e : exec (.idleSessionClose n) s = execIdleSessionClose n s := rfl
  rw [e]
  unfold execIdleSessionClose State.onOpen
  rw [h]
  dsimp only
  rw [when_of (by simp [State.linkOn, hn, hx])]
  generalize s.sendClose n 1 1 = u at h1 k1
  rw [State.limitCheck_closed h1 h2]
  refine ⟨_, y, q, rfl, ?_, h2, h3, h5, h6, h7, h4, ?_, k2, k3⟩
  · rw [ywp_reach rfl]
    exact h1
  · rw [out_reach rfl]
    exact k1

end

/-! ### CLOSE from the peer (R323, R330, R332) -/

/-- A change of any slot, as the slot of a number sees it. -/
theorem State.slot_modSlot_any (s : State) (m n : Nat) (g : Slot → Slot) (hg : ∀ x, (g x).n = x.n) :
    (s.modSlot m g).ywp.slot? n = (s.ywp.slot? n).map fun x => if x.n == m then g x else x := by
  show (s.ywp.slots.map fun x => if x.n == m then g x else x).find? (fun x => x.n == n) = _
  rw [List.find?_map]
  congr 2
  funext x
  show ((if x.n == m then g x else x).n == n) = (x.n == n)
  split
  · rw [hg]
  · rfl

theorem SlotStays.modSlot_any {n m : Nat} {x : Slot} {s t : State} (h : SlotStays n x s t) (g : Slot → Slot) (hg : ∀ x, (g x).n = x.n ∧ (g x).state = x.state ∧ (g x).cause = x.cause) :
    SlotStays n x s (t.modSlot m g) := by
  obtain ⟨⟨y, h1, h2, h3⟩, h4⟩ := h
  refine ⟨⟨if y.n == m then g y else y, by rw [State.slot_modSlot_any _ _ _ _ fun x => (hg x).1, h1]; rfl, ?_⟩, h4⟩
  split
  · exact ⟨(hg y).2.1.trans h2, (hg y).2.2.trans h3⟩
  · exact ⟨h2, h3⟩

theorem SlotStays.sendMsg {n : Nat} {x : Slot} {s u : State} (h : SlotStays n x s u) (m : Nat) (k : YHead) (b : Bytes) (c : Option Nat) (r : Nat) :
    SlotStays n x s (u.sendMsg m k b c r) := h.modSlot_any _ fun _ => ⟨rfl, rfl, rfl⟩

theorem SlotStays.sendKeys {n : Nat} {x : Slot} {s u : State} (h : SlotStays n x s u) (t m : Nat) : SlotStays n x s (u.sendKeys t m) := by
  have hs : ∀ k, SlotStays n x s (u.sendTown m k) := by
    intro k
    unfold State.sendTown
    dsimp only
    split
    · refine SlotStays.sendMsg ?_ _ _ _ _ _
      exact h.of_ywp (State.emit_ywp _ _) (State.emit_clk _ _)
    · exact h.of_ywp (State.emit_ywp _ _) (State.emit_clk _ _)
  unfold State.sendKeys
  split
  · exact h
  · split
    · exact hs _
    · exact hs _

theorem SlotStays.distCheck {n : Nat} {x : Slot} {s u : State} (h : SlotStays n x s u) : SlotStays n x s u.distCheck := by
  unfold State.distCheck
  extract_lets waits go c w
  have hw : SlotStays n x s w := h.of_ywp rfl rfl
  exact SlotStays.ite (List.foldlRecOn _ _ hw fun _ hv t _ => List.foldlRecOn _ _ hv fun _ hy m _ => hy.sendKeys t m) hw

/-- A packet that passes the checks is of a session that has a slot. -/
theorem State.checkPacket_slot {s : State} {p : YPacket} {typ : Nat} {x : Slot} (h : s.checkPacket p typ = .ok x) : s.ywp.slot? x.n = some x := by
  have hx : s.ywp.slot? p.sid = some x := by
    unfold State.checkPacket at h
    cases hy : s.ywp.slot? p.sid with
    | none =>
      rw [hy] at h
      dsimp only at h
      split_ifs at h
    | some y =>
      rw [hy] at h
      dsimp only at h
      split_ifs at h
      rw [Except.ok.inj h]
  rw [YwpSt.slot?_n hx, hx]

theorem slotStays_authenticated {s : State} {x : Slot} (h : s.ywp.slot? x.n = some x) (hx : x.state = .opened) (p : YPacket) : SlotStays x.n x s (s.authenticated x p) := by
  unfold State.authenticated
  rw [show (if x.state = .handshake then s.openSlot x.n else s) = s from if_neg (by simp [hx])]
  dsimp only
  have h1 : SlotStays x.n x s (s.modSlot x.n fun x => { x with heard := s.clk.cycles, peerWindow := p.window }) :=
    SlotStays.modSlot ⟨⟨x, h, rfl, rfl⟩, rfl⟩ _ fun _ => ⟨rfl, rfl, rfl⟩
  refine SlotStays.ite (SlotStays.of_ywp ?_ (State.fadd_ywp _ _ _ _ _ _) (State.fadd_clk _ _ _ _ _ _)) h1
  exact (h1.of_ywp (State.skPromote_ywp _ _ _ _).1 (State.skPromote_ywp _ _ _ _).2).modSlot _ fun _ => ⟨rfl, rfl, rfl⟩

/-- A CLOSE that passes the checks closes its session, with a cause that the state `u` of the answer holds. -/
theorem exec_close {s u : State} {p : YPacket} {x : Slot} {cause : Nat} (hn : s.netOn = true) (hx : x.state = .opened) (hc : s.checkPacket p 4 = .ok x)
    (hu : (if p.plen ≠ 8 then (s.authenticated x p).violation x.n else (s.authenticated x p).closeSlot x.n (if 1 ≤ p.cause ∧ p.cause ≤ 5 then p.cause else 2)) = u)
    (hs : ∃ y, u.ywp.slot? x.n = some y ∧ y.state = .closed ∧ y.cause = cause) :
    ∃ (t : State) (y : _), exec (.close p) s = .next t ∧ t.ywp.slot? x.n = some y ∧ y.state = .closed ∧ y.cause = cause := by
  have e : exec (.close p) s = execClose p s := rfl
  rw [e]
  unfold execClose State.receive
  rw [when_of (by simp [State.linkOn, hn]), hc]
  dsimp only
  rw [if_neg (by simp [hx]), if_neg (by simp [hx]), hu]
  obtain ⟨y, h1, h2, h3⟩ := hs
  rw [State.limitCheck_closed h1 h2]
  obtain ⟨⟨z, k1, k2, k3⟩, -⟩ := SlotStays.distCheck (s := u) (u := u) ⟨⟨y, h1, rfl, rfl⟩, rfl⟩
  generalize u.distCheck = v at k1
  exact ⟨_, z, rfl, by rw [ywp_reach rfl]; exact k1, k2.trans h2, k3.trans h3⟩

/-- Settles O38: each way into and out of a session is followed to the record of its slot. -/
theorem sessionsOpenAndClose : Obligations.SessionsOpenAndClose := by
  unfold Obligations.SessionsOpenAndClose
  refine ⟨fun y n inc h => YwpSt.newSlot_spec h, fun s peer member hop => ⟨_, rfl, rfl, rfl⟩, fun s peer member hop n inc tls hy hr hh hw ht hl => exec_sessionOpen hy hr hh hw ht hl,
    fun s p n inc b hn hy hr hip hu ht hv hl hi hs hh hw h0 h1 h2 hd hb => ⟨?_, ?_, ?_, ?_⟩, fun s p z hn hb => exec_handshake_malformed z hn hb,
    fun s n x h hn => ⟨exec_handshakeRetransmit h hn, exec_handshakeTimeout h hn, exec_closedSlotFree h hn, fun g hg => exec_oldGenerationErase h hn hg, exec_idleSessionClose h hn⟩,
    fun s p x hn hx hc => ⟨fun hp => ?_, fun hp => ?_⟩, fun ps => by simp [tlsSupported, and_assoc]⟩
  · obtain ⟨u, he, hz, hclk, hregs, -⟩ := exec_handshake_init (.more b) hn hy hr hip hu ht hv hl hi hs hh hw h0 h1 h2
    rw [he, State.tlsStep_more ((State.flag_congr hregs _ _ _ _).trans hd)]
    obtain ⟨⟨sp, k1⟩, -⟩ := State.hsReply_spec hz (b := b) (by simpa [Slot.ofInit] using hb)
    generalize u.hsReply n b = v at k1
    exact ⟨_, _, rfl, (congrArg (YwpSt.slot? · n) (ywp_reach rfl)).trans k1, rfl, rfl, rfl, rfl, rfl, rfl, rfl, rfl, rfl, Nat.zero_add _, rfl⟩
  · obtain ⟨u, he, hz, hclk, hregs, -, hev⟩ := exec_handshake_init .failed hn hy hr hip hu ht hv hl hi hs hh hw h0 h1 h2
    rw [he, State.tlsStep_failed]
    obtain ⟨k1, -, k3⟩ := State.hsFail_spec hz
    generalize u.hsFail n = v at k1 k3
    exact ⟨_, _, rfl, (congrArg (YwpSt.slot? · n) (ywp_reach rfl)).trans k1, rfl, rfl, (ev_reach rfl).trans (k3.trans (report_ev_congr hev (congrArg Clock.cycles hclk) _ _ _))⟩
  · intro ver tenant identity mgmt ps hv1 hv2 hps
    obtain ⟨u, he, hz, hclk, hregs, hfree, -⟩ := exec_handshake_init (.done b ver tenant identity false mgmt ps) hn hy hr hip hu ht hv hl hi hs hh hw h0 h1 h2
    obtain ⟨y, k1, k2, k3, k4, k5, k6, k7, k8, k9, k10⟩ := State.tlsStep_done hz ((State.flag_congr hregs _ _ _ _).trans hd) rfl rfl (show 0 < rekeyAt by decide)
      (b := b) (by rw [show ({ Slot.ofInit p n inc s.clk.cycles (s.flag .ywpCtrl_jumboEn) with hsRx := 2, hsStream := p.plen } : Slot).hsSent = 0 from rfl, Nat.zero_add]; exact hb)
      (tenant := tenant) (identity := identity) (mgmt := mgmt) (State.fget_congr hregs _ _ _ _ ▸ hv1) (State.fget_congr hregs _ _ _ _ ▸ hv2) hps
    rw [he]
    generalize u.tlsStep n (.done b ver tenant identity false mgmt ps) = v at k1
    exact ⟨_, y, rfl, (congrArg (YwpSt.slot? · n) (ywp_reach rfl)).trans k1, k2, k3, k4, k5, k6, k7, k8.trans (congrArg Config.freeValue hfree), k9.trans (congrArg Clock.cycles hclk), k10⟩
  · intro ver tenant identity member mgmt ps hvp
    obtain ⟨u, he, hz, hclk, hregs, hfree, -⟩ := exec_handshake_init (.done b ver tenant identity member mgmt ps) hn hy hr hip hu ht hv hl hi hs hh hw h0 h1 h2
    rw [he, State.tlsStep_unfit ((State.flag_congr hregs _ _ _ _).trans hd) (by rw [State.fget_congr hregs, State.fget_congr hregs]; exact hvp)]
    obtain ⟨k1, -⟩ := State.hsFail_spec hz
    generalize u.hsFail n = v at k1
    exact ⟨_, _, rfl, (congrArg (YwpSt.slot? · n) (ywp_reach rfl)).trans k1, rfl⟩
  · obtain ⟨⟨y, hy, -⟩, -⟩ := slotStays_authenticated (State.checkPacket_slot hc) hx p
    obtain ⟨k1, -⟩ := State.closeSlot_spec hy (if 1 ≤ p.cause ∧ p.cause ≤ 5 then p.cause else 2)
    exact exec_close hn hx hc (if_neg (not_not.2 hp)) ⟨_, k1, rfl, rfl⟩
  · obtain ⟨⟨y, hy, -⟩, -⟩ := slotStays_authenticated (State.checkPacket_slot hc) hx p
    obtain ⟨z, k1, k2, k3, -⟩ := State.sendClose_spec hy 2 2
    exact exec_close hn hx hc (if_pos hp) ⟨z, k1, k2, k3⟩

end Sys2Proof.Machine
end

section
/-!
SUPPORT. Town messages (chapter 08): what sending one leaves, when one is heard, and what a receiver of changes writes.
-/

namespace Sys2Proof.Machine
open Safety (headed sends)

/-! ### Sending (R412) -/

/-- Only messages have been sent, in order. -/
structure Sent (s : State) (l : List (Nat × TMsg)) (t : State) : Prop where
  out : t.out = s.out ++ sends s l
  town : t.town = s.town
  kv : t.kv = s.kv
  tun : t.tun = s.tun
  index : t.index = s.index
  media : t.media = s.media
  regs : t.regs = s.regs
  clk : t.clk = s.clk
  cip : t.cip = s.cip
  records : t.ywp.records = s.ywp.records

/-- The head of a message depends on the sender's handle, its term and its epoch alone. -/
theorem sends_of {s t : State} (hm : t.memberId = s.memberId) (hi : t.town.incarnation = s.town.incarnation) (ht : t.town.term = s.town.term) (he : t.town.epoch = s.town.epoch) :
    sends t = sends s := by
  funext l
  unfold sends headed State.handle
  rw [hm, hi, ht, he]

theorem sends_congr {s t : State} (ht : t.town = s.town) (hm : t.memberId = s.memberId) : sends t = sends s := by
  refine sends_of hm ?_ ?_ ?_ <;> rw [ht]

theorem memberId_congr {s t : State} (h : t.regs = s.regs) : t.memberId = s.memberId := State.fget_congr h _ _ _ _

theorem Sent.refl (s : State) : Sent s [] s := ⟨(List.append_nil _).symm, rfl, rfl, rfl, rfl, rfl, rfl, rfl, rfl, rfl⟩

theorem Sent.trans {s t u : State} {l l' : List (Nat × TMsg)} (h : Sent s l t) (k : Sent t l' u) : Sent s (l ++ l') u where
  out := by
    rw [k.out, h.out, sends_congr h.town (memberId_congr h.regs), List.append_assoc]
    exact congrArg _ List.map_append.symm
  town := k.town.trans h.town
  kv := k.kv.trans h.kv
  tun := k.tun.trans h.tun
  index := k.index.trans h.index
  media := k.media.trans h.media
  regs := k.regs.trans h.regs
  clk := k.clk.trans h.clk
  cip := k.cip.trans h.cip
  records := k.records.trans h.records

theorem State.sendTown_sent (s : State) (a : Nat) (m : TMsg) : Sent s [(a, m)] (s.sendTown a m) := by
  unfold State.sendTown
  dsimp only
  split
  · exact ⟨rfl, rfl, rfl, rfl, rfl, rfl, rfl, rfl, rfl, rfl⟩
  · exact ⟨rfl, rfl, rfl, rfl, rfl, rfl, rfl, rfl, rfl, rfl⟩

/-- A member that is not the acting Hall sends to it. -/
theorem State.toHall_of {s : State} (h : s.acting = false) (m : TMsg) (f : State → State) : s.toHall m f = s.sendTown (idOf s.town.hall) m := by
  unfold State.toHall
  rw [h]
  rfl

/-! ### Hearing (R373, R384) -/

theorem State.onTown_of {s : State} {m : TMsg} (h : Safety.Heard s m) (f : State → State) : s.onTown m f = f s := by
  obtain ⟨hn, hm⟩ := h
  unfold State.onTown
  rw [when_of (by rw [hn]; rfl)]
  dsimp only
  refine if_pos ?_
  rcases hm with h | h | h | h
  · cases hx : s.town.member? (idOf m.sender) with
    | none =>
      rw [hx] at h
      cases h
    | some x =>
      rw [hx] at h
      simp [Option.some.inj h]
  · simp [h]
  · simp [h]
  · simp [h]

theorem State.underMap_of {s : State} {m : TMsg} (h : m.epoch ≤ s.town.epoch) (f : State → State) : s.underMap m f = f s := if_neg (Nat.not_lt.2 h)

/-! ### Writing entries (R204, R391) -/

/-- Entries have been written to the Tun: nothing but it and its fill level has changed. -/
structure Wrote (s t : State) : Prop where
  kv : t.kv = s.kv
  ywp : t.ywp = s.ywp
  out : t.out = s.out
  town : t.town = s.town
  memberId : t.memberId = s.memberId
  media : t.media = s.media

theorem Wrote.refl (s : State) : Wrote s s := ⟨rfl, rfl, rfl, rfl, rfl, rfl⟩

theorem Wrote.trans {s t u : State} (h : Wrote s t) (k : Wrote t u) : Wrote s u :=
  ⟨k.kv.trans h.kv, k.ywp.trans h.ywp, k.out.trans h.out, k.town.trans h.town, k.memberId.trans h.memberId, k.media.trans h.media⟩

theorem wrote_addRow (s : State) (d : Nat) (i : Bool) (n k : Nat) : Wrote s (s.addRow d i n k) := by
  refine ⟨s.addRow_kv d i n k, s.addRow_ywp d i n k, s.addRow_out d i n k, s.addRow_town d i n k, ?_, s.addRow_media d i n k⟩
  unfold State.memberId State.addRow State.fmax
  rw [State.fget_fput_reg _ _ _ _ _ _ _ _ _ _ (by decide)]
  rfl

theorem wrote_addEntry {s : State} {e : TunEntry} {filling : Bool} {r : Nat × State} (h : s.addEntry e filling = some r) : Wrote s r.2 := by
  obtain ⟨id, -, rfl⟩ := Option.map_eq_some_iff.1 h
  dsimp only
  split
  · exact ⟨rfl, rfl, rfl, rfl, rfl, rfl⟩
  · refine Wrote.trans ?_ (wrote_addRow _ _ _ _ _)
    exact ⟨rfl, rfl, rfl, rfl, rfl, rfl⟩

/-- The entries of a message that the part does not hold yet, as it keeps them. -/
def State.newEntries (s : State) (sender : Nat) (es : List TunEntry) : List TunEntry :=
  (es.filter fun e => decide (e.kind ≠ .batchRecord) && !s.holdsVersion e).map (s.localEntry sender)

/-- What taking the entries of a message leaves: they are written where there is room, and the pieces that they complete go. -/
theorem State.takeEntries_spec {s w : State} {sender : Nat} {es : List TunEntry} (h : s.takeEntries sender es = some w) : ∃ (u : State) (ps : List _),
    w = { u with town := { u.town with pieces := ps } } ∧ Wrote s u ∧ (s.newEntries sender es = [] → u.tun = s.tun) ∧
      ((es.find? fun e => decide (e.kind = .batchRecord)) = none → ∀ e, s.newEntries sender es = [e] →
        (s.tunFit (entryUnits e)).isSome = true ∧ ∀ r, s.addEntry { e with batch := 0 } false = some r → u = r.2) := by
  unfold State.takeEntries at h
  extract_lets rec_ es' b units at h
  split at h
  · cases h
  next hr =>
  have hroom : (s.tunFit units).isSome = true := by
    by_contra hn
    exact hr (by rw [State.tunRoom, Bool.eq_false_iff.2 hn]; rfl)
  clear hr
  split at h
  next ids u hf =>
  have hu : Wrote s u := by
    have hk : Wrote s (ids, u).2 := by
      rw [← hf]
      refine List.foldlRecOn (motive := fun acc : List Nat × State => Wrote s acc.2) es' _ (Wrote.refl s) fun acc hacc e _ => ?_
      split
      · exact hacc
      · next ha => exact hacc.trans (wrote_addEntry ha)
    exact hk
  have hnil : es' = [] → u = s ∧ ids = [] := fun he => by
    rw [he] at hf
    obtain ⟨h1, h2⟩ := Prod.mk.inj hf
    exact ⟨h2.symm, h1.symm⟩
  have hone : rec_ = none → ∀ e, es' = [e] → ∀ r, s.addEntry { e with batch := 0 } false = some r → u = r.2 := fun hn e he r hr => by
    rw [he, hn, List.foldl_cons, List.foldl_nil] at hf
    dsimp only [Option.isSome] at hf
    rw [if_neg (by decide), hr] at hf
    exact (Prod.mk.inj hf).2.symm
  refine ⟨_, _, (Option.some.inj h).symm, ?_⟩
  clear h hf
  change Wrote s _ ∧ (es' = [] → _) ∧ (rec_ = none → ∀ e, es' = [e] → _)
  refine ⟨?_, fun he => ?_, fun hn e he => ⟨?_, fun r hr => ?_⟩⟩
  · clear_value rec_
    cases rec_ with
    | none => exact hu
    | some r =>
      dsimp only
      split
      · exact hu
      · refine hu.trans ?_
        rcases hx : State.addEntry _ _ false with - | x
        · exact ⟨rfl, rfl, rfl, rfl, rfl, rfl⟩
        · exact Wrote.trans (t := { u with tun := { u.tun with batchNo := b } }) ⟨rfl, rfl, rfl, rfl, rfl, rfl⟩ (wrote_addEntry hx)
  · obtain ⟨rfl, rfl⟩ := hnil he
    clear_value rec_
    cases rec_ with
    | none => rfl
    | some r => rfl
  · have hunits : units = entryUnits e := by
      unfold units
      rw [he, hn]
      simp
    rw [← hunits]
    exact hroom
  · rw [hn]
    exact hone hn e he r hr

/-- An entry as a receiver keeps it is of the same version. -/
theorem State.localEntry_spec (s : State) (sender : Nat) (e : TunEntry) : (s.localEntry sender e).ksp = e.ksp ∧ (s.localEntry sender e).key = e.key ∧
    (s.localEntry sender e).stamp = e.stamp ∧ (s.localEntry sender e).origin = e.origin ∧ (e.kind ≠ .batchRecord → (s.localEntry sender e).kind ≠ .batchRecord) := by
  unfold State.localEntry
  dsimp only
  split
  · split
    · split
      · exact ⟨rfl, rfl, rfl, rfl, id⟩
      · exact ⟨rfl, rfl, rfl, rfl, fun _ => by simp⟩
    · exact ⟨rfl, rfl, rfl, rfl, fun _ => by simp⟩
  · exact ⟨rfl, rfl, rfl, rfl, id⟩

/-- An entry that fits is written. -/
theorem State.addEntry_fits {s : State} {e : TunEntry} (h : (s.tunFit (entryUnits e)).isSome = true) : ∃ r, s.addEntry e false = some r ∧
    ∃ x ∈ r.2.tun.entries, x.ksp = e.ksp ∧ x.key = e.key ∧ x.stamp = e.stamp ∧ x.origin = e.origin ∧ x.kind = e.kind := by
  obtain ⟨id, hid⟩ := Option.isSome_iff_exists.1 h
  unfold State.addEntry
  rw [hid]
  refine ⟨_, rfl, { e with id := id, state := .live, late := decide (2 ≤ s.media.spaceState) }, ?_, rfl, rfl, rfl, rfl, rfl⟩
  dsimp only
  split
  · exact List.mem_append_right _ (List.mem_singleton_self _)
  · rw [State.addRow, State.fmax_tun]
    exact List.mem_append_right _ (List.mem_singleton_self _)

/-- A version that the Tun holds. -/
theorem State.holdsVersion_of_mem {s : State} {e x : TunEntry} (hx : x ∈ s.tun.entries) (h1 : x.ksp = e.ksp) (h2 : x.key = e.key) (h3 : x.stamp = e.stamp)
    (h4 : x.origin = e.origin) (h5 : x.kind ≠ .batchRecord) : s.holdsVersion e = true := by
  unfold State.holdsVersion
  rw [Bool.or_eq_true]
  exact Or.inl (List.any_eq_true.2 ⟨x, hx, by simp [h1, h2, h3, h4, h5]⟩)

theorem State.holdsVersion_congr {s t : State} (ht : t.tun = s.tun) (hm : t.media = s.media) (e : TunEntry) : t.holdsVersion e = s.holdsVersion e := by
  unfold State.holdsVersion
  rw [ht, hm]

/-- Versions that the part holds already change nothing in the Tun. -/
theorem State.takeEntries_known {s w : State} {sender : Nat} {es : List TunEntry} (h : s.takeEntries sender es = some w)
    (he : ∀ e ∈ es, e.kind = .batchRecord ∨ s.holdsVersion e = true) : w.tun = s.tun := by
  obtain ⟨u, ps, rfl, -, h1, -⟩ := State.takeEntries_spec h
  refine h1 ?_
  unfold State.newEntries
  rw [List.map_eq_nil_iff, List.filter_eq_nil_iff]
  intro e hm
  rcases he e hm with h | h
  · simp [h]
  · simp [h]

/-- A version taken alone is held from then on. -/
theorem State.takeEntries_one {s w : State} {sender : Nat} {e : TunEntry} (h : s.takeEntries sender [e] = some w) (hk : e.kind ≠ .batchRecord) : w.holdsVersion e = true := by
  obtain ⟨u, ps, rfl, hu, h1, h2⟩ := State.takeEntries_spec h
  by_cases hv : s.holdsVersion e = true
  · have ht := h1 (by simp [State.newEntries, hv])
    exact (State.holdsVersion_congr (s := s) ht hu.media e).trans hv
  · obtain ⟨k1, k2, k3, k4, k5⟩ := s.localEntry_spec sender e
    obtain ⟨hfit, hr⟩ := h2 (by simp [hk]) (s.localEntry sender e) (by simp [State.newEntries, hv, hk])
    obtain ⟨r, hra, x, hx, x1, x2, x3, x4, x5⟩ := State.addEntry_fits (e := { s.localEntry sender e with batch := 0 }) hfit
    obtain rfl := hr r hra
    exact State.holdsVersion_of_mem (s := { r.2 with town := _ }) hx (x1.trans k1) (x2.trans k2) (x3.trans k3) (x4.trans k4) (x5 ▸ k5 hk)

end Sys2Proof.Machine
end

section
/-!
SUPPORT. Wards are replicated and moved (chapter 08, R388 to R391, R403 to R407).
-/

namespace Sys2Proof.Machine
open Safety (sends)

/-! ### Messages of changes (R391, R404) -/

theorem State.takesChange_repl {s : State} {m : TMsg} (hm : m.tmsg = 0x0A) (hr : s.receiverOf m.ward m.sender = true) : s.takesChange m = true := by
  unfold State.takesChange
  rw [if_pos hm, hr]

theorem State.takesChange_transfer {s : State} {m : TMsg} (hm : m.tmsg = 0x0C) (ha : (s.wardEntry m.ward).assigned = true) (ho : (s.wardEntry m.ward).owner = idOf m.sender)
    (ht : ∃ x ∈ s.town.transfers, x.ward = m.ward ∧ idOf x.target = s.memberId) : s.takesChange m = true := by
  obtain ⟨x, hx, hw, hi⟩ := ht
  unfold State.takesChange
  rw [if_neg (by rw [hm]; decide)]
  dsimp only
  rw [ha, ho, List.any_eq_true.2 ⟨x, hx, by simp [hw, hi]⟩]
  simp

/-- A message of changes that is accepted waits in its session's queue where the sender may take no Town context. -/
theorem State.takeChange_full {s : State} {m : TMsg} (ht : s.takesChange m = true) (hf : s.townFree (idOf m.sender) = false) : s.takeChange m = s.holdChange m .queue := by
  unfold State.takeChange
  rw [ht, hf]
  rfl

/-- It waits in a Town context where its changes cannot be made yet. -/
theorem State.takeChange_waits {s : State} {m : TMsg} (ht : s.takesChange m = true) (hf : s.townFree (idOf m.sender) = true) (ha : s.applyChange s.kv.nextCtx m = none) :
    s.takeChange m = s.holdChange m .town := by
  unfold State.takeChange
  rw [ht, hf, ha]
  rfl

theorem State.takeChange_made {s u : State} {m : TMsg} (ht : s.takesChange m = true) (hf : s.townFree (idOf m.sender) = true) (ha : s.applyChange s.kv.nextCtx m = some u) :
    s.takeChange m = u := by
  unfold State.takeChange
  rw [ht, hf, ha]
  rfl

/-- Both kinds of message are taken in the same way. -/
theorem exec_change {s : State} {m : TMsg} (h : Safety.Heard s m) (he : m.epoch ≤ s.town.epoch) :
    exec (.replicate m) s = done changeParts changeRegs s (s.takeChange m) ∧ exec (.transferData m) s = done changeParts changeRegs s (s.takeChange m) := by
  have e1 : exec (.replicate m) s = execReplicate m s := rfl
  have e2 : exec (.transferData m) s = execTransferData m s := rfl
  rw [e1, e2]
  unfold execReplicate execTransferData
  rw [State.onTown_of h, State.underMap_of he]
  exact ⟨rfl, rfl⟩

theorem heldChange_reach (s : State) (m : TMsg) (p : Pool) :
    ∃ t, done changeParts changeRegs s (s.holdChange m p) = .next t ∧ Safety.HeldChange s m p t := by
  exact answers ⟨_, rfl, rfl, rfl, rfl, rfl, rfl, rfl, rfl, rfl, rfl⟩

section
variable {s w : State} {m : TMsg} {es : List TunEntry}

/-- Entries that wait for an earlier change, or for room. -/
theorem State.applyChange_waits {id : Nat} (hb : s.changeBehind id es = true ∨ s.takeEntries m.sender es = none) (hm : (∃ r, m.body = .repl es r) ∨ ∃ rs l, m.body = .versions es rs l) :
    s.applyChange id m = none := by
  have hn : (if s.changeBehind id es then none else s.takeEntries m.sender es) = none := by
    rcases hb with h | h
    · exact if_pos h
    · rw [h, ite_self]
  unfold State.applyChange
  rcases hm with ⟨r, hm⟩ | ⟨rs, l, hm⟩
  · rw [hm]
    dsimp only
    split at hn
    next h => rw [if_pos h]
    next h => rw [if_neg h, hn]; rfl
  · rw [hm]
    dsimp only
    split at hn
    next h => rw [if_pos h]
    next h => rw [if_neg h, hn]; rfl

/-- REPLICATE's entries that are written are acknowledged (R391). -/
theorem State.applyChange_repl {id : Nat} {r : Option ReqRecord} (hm : m.body = .repl es r) (hb : s.changeBehind id es = false) (ht : s.takeEntries m.sender es = some w) :
    s.applyChange id m = some ((w.keepRecords r.toList).sendTown (idOf m.sender) { tmsg := 0x0B, ward := m.ward, stamp := m.stamp, status := stOk }) := by
  unfold State.applyChange
  rw [hm]
  dsimp only
  rw [if_neg (by rw [hb]; decide), ht]
  rfl

theorem State.applyChange_versions {id : Nat} {rs : List ReqRecord} {l : Bool} (hm : m.body = .versions es rs l) (hb : s.changeBehind id es = false)
    (ht : s.takeEntries m.sender es = some w) : s.applyChange id m = some (w.keepRecords rs) := by
  unfold State.applyChange
  rw [hm]
  dsimp only
  rw [if_neg (by rw [hb]; decide), ht]
  rfl

end

/-- What a receiver sends after it has written entries bears its own head. -/
theorem sends_taken {s w : State} {sender : Nat} {es : List TunEntry} (h : s.takeEntries sender es = some w) (l : List (Nat × TMsg)) :
    sends w l = sends s l ∧ w.out = s.out ∧ w.ywp = s.ywp := by
  obtain ⟨u, ps, rfl, hu, -⟩ := State.takeEntries_spec h
  exact ⟨congrFun (sends_of hu.memberId (congrArg TownSt.incarnation hu.town) (congrArg TownSt.term hu.town) (congrArg TownSt.epoch hu.town)) l, hu.out, hu.ywp⟩

/-- REPLICATE is written and acknowledged. -/
theorem exec_replicate_made {s w : State} {m : TMsg} {es : List TunEntry} {r : Option ReqRecord} (h : Safety.Heard s m) (he : m.epoch ≤ s.town.epoch) (hm : m.tmsg = 0x0A)
    (hr : s.receiverOf m.ward m.sender = true) (hf : s.townFree (idOf m.sender) = true) (hb : m.body = .repl es r) (hn : s.changeBehind s.kv.nextCtx es = false)
    (ht : s.takeEntries m.sender es = some w) :
    ∃ t : State, exec (.replicate m) s = .next t ∧ t.tun = w.tun ∧
      t.ywp.records = s.ywp.records ++ r.toList.filter (fun r => !(s.ywp.records.any fun q => q.identity == r.identity && q.reqNo == r.reqNo)) ∧
      t.out = s.out ++ sends s [(idOf m.sender, { tmsg := 0x0B, ward := m.ward, stamp := m.stamp })] := by
  rw [(exec_change h he).1, State.takeChange_made (State.takesChange_repl hm hr) hf (State.applyChange_repl hb hn ht)]
  obtain ⟨h1, h2, h3⟩ := sends_taken ht [(idOf m.sender, { tmsg := 0x0B, ward := m.ward, stamp := m.stamp })]
  have hs := (w.keepRecords r.toList).sendTown_sent (idOf m.sender) { tmsg := 0x0B, ward := m.ward, stamp := m.stamp, status := stOk }
  generalize (w.keepRecords r.toList).sendTown (idOf m.sender) { tmsg := 0x0B, ward := m.ward, stamp := m.stamp, status := stOk } = u at hs
  refine answers ⟨?_, ?_, ?_⟩
  · rw [tun_reach rfl]
    exact hs.tun
  · rw [ywp_reach rfl, hs.records, ← h3]
    rfl
  · rw [out_reach rfl, hs.out, ← h1, ← h2]
    rfl

theorem exec_transfer_made {s w : State} {m : TMsg} {es : List TunEntry} {rs : List ReqRecord} {l : Bool} (h : Safety.Heard s m) (he : m.epoch ≤ s.town.epoch)
    (ht : s.takesChange m = true) (hf : s.townFree (idOf m.sender) = true) (hb : m.body = .versions es rs l) (hn : s.changeBehind s.kv.nextCtx es = false)
    (hw : s.takeEntries m.sender es = some w) :
    ∃ t : State, exec (.transferData m) s = .next t ∧ t.tun = w.tun ∧ t.out = s.out ∧
      t.ywp.records = s.ywp.records ++ rs.filter fun r => !(s.ywp.records.any fun q => q.identity == r.identity && q.reqNo == r.reqNo) := by
  rw [(exec_change h he).2, State.takeChange_made ht hf (State.applyChange_versions hb hn hw)]
  obtain ⟨-, h2, h3⟩ := sends_taken hw []
  refine answers ⟨rfl, ?_, ?_⟩
  · rw [out_reach rfl, ← h2]
    rfl
  · rw [ywp_reach rfl, ← h3]
    rfl

theorem exec_replicate_piece {s w : State} {m : TMsg} {h k dl off : Nat} {key b : Bytes} (hh : Safety.Heard s m) (he : m.epoch ≤ s.town.epoch) (hm : m.tmsg = 0x0A)
    (hr : s.receiverOf m.ward m.sender = true) (hf : s.townFree (idOf m.sender) = true) (hb : m.body = .piece h k key dl off b)
    (hw : s.takePiece s.kv.nextCtx m h k key dl off b = some w) :
    ∃ t : State, exec (.replicate m) s = .next t ∧ t.media = w.media ∧ t.kv = w.kv ∧ t.town = w.town ∧ t.tun = w.tun ∧ t.out = w.out := by
  have ha : s.applyChange s.kv.nextCtx m = some w := by
    unfold State.applyChange
    rw [hb]
    exact hw
  rw [(exec_change hh he).1, State.takeChange_made (State.takesChange_repl hm hr) hf ha]
  exact answers ⟨rfl, rfl, rfl, rfl, rfl⟩

/-! ### Acknowledgements (R390, R391) -/

/-- The entries of an operation whose replicas have acknowledged. -/
def State.ackEntries (s : State) (ids : List Nat) : State := ids.foldl (fun s e => s.modEntry e fun e => { e with replAck := true }) s

/-- All but the entries stays. -/
theorem State.ackEntries_keeps (s : State) (ids : List Nat) : (s.ackEntries ids).kv = s.kv ∧ (s.ackEntries ids).out = s.out ∧ (s.ackEntries ids).town = s.town ∧
    (s.ackEntries ids).regs = s.regs ∧ (s.ackEntries ids).host = s.host ∧ (s.ackEntries ids).clk = s.clk :=
  ⟨foldl_keeps State.kv _ _ _ fun _ _ => rfl, foldl_keeps State.out _ _ _ fun _ _ => rfl, foldl_keeps State.town _ _ _ fun _ _ => rfl,
    foldl_keeps State.regs _ _ _ fun _ _ => rfl, foldl_keeps State.host _ _ _ fun _ _ => rfl, foldl_keeps State.clk _ _ _ fun _ _ => rfl⟩

theorem State.ackEntries_acked (s : State) (ids : List Nat) : ∀ e ∈ (s.ackEntries ids).tun.entries, e.id ∈ ids → e.replAck = true := by
  have hmod : ∀ (u : State) (j : Nat), ∀ e ∈ (u.modEntry j fun e => { e with replAck := true }).tun.entries,
      ∃ d ∈ u.tun.entries, e.id = d.id ∧ (d.replAck = true → e.replAck = true) ∧ (d.id = j → e.replAck = true) := by
    intro u j e he
    obtain ⟨d, hd, rfl⟩ := List.mem_map.1 (show e ∈ u.tun.entries.map fun e => if e.id == j then { e with replAck := true } else e from he)
    refine ⟨d, hd, ?_⟩
    split
    · exact ⟨rfl, fun _ => rfl, fun _ => rfl⟩
    next hj => exact ⟨rfl, id, fun h => absurd (beq_iff_eq.2 h) hj⟩
  have h := foldl_establishes (g := fun (s : State) i => s.modEntry i fun e => { e with replAck := true }) (P := fun i s => ∀ e ∈ s.tun.entries, e.id = i → e.replAck = true)
    (fun u i e he hi => ?_) (fun u j i hu e he hi => ?_) ids s
  · exact fun e he hi => h e.id hi e he rfl
  · obtain ⟨d, -, h1, -, h3⟩ := hmod u i e he
    exact h3 (h1 ▸ hi)
  · obtain ⟨d, hd, h1, h2, -⟩ := hmod u j e he
    exact h2 (hu d hd (h1 ▸ hi))

/-- What an acknowledgement goes on to do where no Ward is cut and no piece waits. -/
theorem State.afterAck {v : State} (hc : v.town.cuts = []) (hp : ∀ x ∈ v.kv.ctxs, x.phase ≠ .pages) :
    ({ v with town := { v.town with offers := [] } } : State).piecesCheck.cutCheck = { v with town := { v.town with offers := [] } } := by
  have h1 : ({ v with town := { v.town with offers := [] } } : State).piecesCheck = { v with town := { v.town with offers := [] } } := by
    unfold State.piecesCheck
    rw [List.filter_eq_nil_iff.2 fun x hx => by simp [hp x hx]]
    rfl
  rw [h1]
  unfold State.cutCheck
  dsimp only
  rw [hc]
  rfl

/-- The last replica of operation `c` has acknowledged its change: nothing is waited for any more, and its entries bear it. -/
def State.lastAck (s : State) (c : OpCtx) : State := (s.modCtx c.id fun c => { c with acks := [] }).ackEntries c.entries

theorem State.lastAck_ctx {s : State} {c : OpCtx} (h : s.kv.ctx? c.id = some c) : (s.lastAck c).kv.ctx? c.id = some { c with acks := [] } := by
  unfold State.lastAck
  rw [(State.ackEntries_keeps _ _).1, State.ctx_modCtx s c.id (fun c => { c with acks := [] }) fun _ => rfl, h]
  rfl

/-- A change of one context that keeps its phase, or makes it wait for the clock, leaves no context at its pages. -/
theorem noPages_modCtx {s : State} {i : Nat} {g : OpCtx → OpCtx} (hg : ∀ x, (g x).phase = x.phase ∨ (g x).phase = .commit) (h : ∀ x ∈ s.kv.ctxs, x.phase ≠ .pages) :
    ∀ x ∈ (s.modCtx i g).kv.ctxs, x.phase ≠ .pages := by
  intro x hx
  obtain ⟨d, hd, rfl⟩ := List.mem_map.1 (show x ∈ s.kv.ctxs.map fun x => if x.id == i then g x else x from hx)
  split
  · rcases hg d with e | e
    · exact e ▸ h d hd
    · simp [e]
  · exact h d hd

/-- The acknowledgement that was the last leads to the next step of the commit. -/
theorem State.ackFrom_last {s v : State} {m : TMsg} {c : OpCtx} (ha : m.arg0 = 0)
    (hf : s.kv.ctxs.filter (fun x => x.acks.contains (idOf m.sender) && x.stamp == m.stamp) = [c]) (hctx : s.kv.ctx? c.id = some c) (hc : c.acks = [idOf m.sender]) (hb : c.batchNo = 0)
    (hp : c.phase = .commit) (hv : (s.lastAck c).commitStep { c with acks := [] } = v) (ho : v.town.offers = []) (hcut : v.town.cuts = [])
    (hpg : ∀ x ∈ v.kv.ctxs, x.phase ≠ .pages) : s.ackFrom m = { v with town := { v.town with offers := [] } } := by
  have hv' : (c.entries.foldl (fun s e => s.modEntry e fun e => { e with replAck := true }) (s.modCtx c.id fun c => { c with acks := [] })).commitCheck c = v := by
    rw [← hv]
    unfold State.commitCheck
    rw [show (c.entries.foldl (fun s e => s.modEntry e fun e => { e with replAck := true }) (s.modCtx c.id fun c => { c with acks := [] })) = s.lastAck c from rfl, State.lastAck_ctx hctx]
  unfold State.ackFrom
  simp only [ha, if_true, hf, List.foldl_cons, List.foldl_nil, hc, List.filter_cons, List.filter_nil, bne_self_eq_false, Bool.false_eq_true, if_false, List.isEmpty_nil,
    Bool.not_true, hb, hp]
  rw [hv', ho]
  exact State.afterAck hcut hpg

/-- An operation whose stamp has not passed waits for the clock alone. -/
theorem State.commitStep_waits {s : State} {c : OpCtx} (hctx : s.kv.ctx? c.id = some c) (hp : c.phase = .commit) (hq : s.passed c.stamp = false) (hpg : ∀ x ∈ s.kv.ctxs, x.phase ≠ .pages) :
    ∃ v, s.commitStep c = v ∧ v.kv.ctx? c.id = some { c with clock := true } ∧ v.town = s.town ∧ v.out = s.out ∧ v.tun = s.tun ∧ ∀ x ∈ v.kv.ctxs, x.phase ≠ .pages := by
  unfold State.commitStep
  rw [if_pos (by simp [hq])]
  refine ⟨_, rfl, ?_, rfl, rfl, rfl, noPages_modCtx (fun _ => Or.inr rfl) hpg⟩
  rw [State.ctx_modCtx s c.id (fun c => { c with phase := .commit, clock := !s.passed c.stamp }) fun _ => rfl, hctx, Option.map_some, hq, ← hp]
  rfl

/-- One whose stamp has passed and whose replicas have all acknowledged ends. -/
theorem State.commitStep_ends {s : State} {c : OpCtx} {f n : Nat} (ha : c.acks = []) (hq : s.passed c.stamp = true) (hs : c.src = .ring f n) (hor : c.orphan = false) :
    ∃ v, s.commitStep c = v ∧ EndKeeps s v ∧ Safety.Finishes s c f n c.res v := by
  unfold State.commitStep
  rw [if_neg (by simp [hq, ha])]
  exact ⟨_, rfl, endKeeps_finish s c c.res [], (s.finish_ring_bare c f n c.res hs hor).1⟩

/-- The operation whose last replica has acknowledged: it ends once its stamp has passed. -/
theorem exec_replAck_last {s : State} {m : TMsg} {c : OpCtx} {f n : Nat} (h : Safety.Heard s m) (hst : m.status = 0) (ha : m.arg0 = 0) (ho : s.town.offers = [])
    (hcut : s.town.cuts = []) (hpg : ∀ x ∈ s.kv.ctxs, x.phase ≠ .pages)
    (hf : s.kv.ctxs.filter (fun x => x.acks.contains (idOf m.sender) && x.stamp == m.stamp) = [c]) (hctx : s.kv.ctx? c.id = some c) (hc : c.acks = [idOf m.sender]) (hb : c.batchNo = 0)
    (hp : c.phase = .commit) (hs : c.src = .ring f n) (hor : c.orphan = false) :
    ∃ t : State, exec (.replAck m) s = .next t ∧ (∀ e ∈ t.tun.entries, e.id ∈ c.entries → e.replAck = true) ∧
      (s.passed c.stamp = false → { c with acks := [], clock := true } ∈ t.kv.ctxs ∧ t.out = s.out) ∧ (s.passed c.stamp = true → Safety.Finishes s c f n c.res t) := by
  have e : exec (.replAck m) s = execReplAck m s := rfl
  rw [e]
  unfold execReplAck
  rw [State.onTown_of h, if_pos (show m.status = stOk from hst)]
  have hctx' := State.lastAck_ctx hctx
  have hack : ∀ e ∈ (s.lastAck c).tun.entries, e.id ∈ c.entries → e.replAck = true := State.ackEntries_acked _ _
  have hlast := fun v => State.ackFrom_last (v := v) ha hf hctx hc hb hp
  obtain ⟨k1, k2, k3, k4, k5, k6⟩ := (s.modCtx c.id fun c => { c with acks := [] }).ackEntries_keeps c.entries
  have hpgE : ∀ x ∈ (s.lastAck c).kv.ctxs, x.phase ≠ .pages := by
    have hmod := noPages_modCtx (i := c.id) (g := fun c => { c with acks := [] }) (fun _ => Or.inl rfl) hpg
    rw [← k1] at hmod
    exact hmod
  have hring : SameRing f n s (s.lastAck c) := sameRing_regs k4 k5
  have hpass : (s.lastAck c).passed c.stamp = s.passed c.stamp := passed_congr k6 c.stamp
  have htown : (s.lastAck c).town = s.town := k3
  have hout : (s.lastAck c).out = s.out := k2
  clear k1 k2 k3 k4 k5 k6
  generalize s.lastAck c = E at *
  cases hq : s.passed c.stamp with
  | false =>
    obtain ⟨v, hv, h1, h2, h3, h4, h5⟩ := State.commitStep_waits (c := { c with acks := [] }) hctx' hp (hpass.trans hq) hpgE
    rw [hlast v hv (h2 ▸ htown ▸ ho) (h2 ▸ htown ▸ hcut) h5]
    refine answers ⟨?_, fun _ => ⟨?_, ?_⟩, nofun⟩
    · rw [tun_reach rfl]
      exact h4 ▸ hack
    · rw [kv_reach rfl]
      exact KvSt.ctx?_mem h1
    · rw [out_reach rfl]
      exact h3.trans hout
  | true =>
    obtain ⟨v, hv, hk, hfin⟩ := State.commitStep_ends (s := E) (c := { c with acks := [] }) rfl (hpass.trans hq) hs hor
    rw [hlast v hv (hk.town ▸ htown ▸ ho) (hk.town ▸ htown ▸ hcut) fun x hx => hpgE x (hk.ctxs x hx)]
    refine answers ⟨?_, nofun, fun _ => Finishes.settle (u := { v with town := { v.town with offers := [] } }) (Finishes.of_sameRing hfin hring) rfl rfl⟩
    rw [tun_reach rfl]
    intro e he hi
    obtain ⟨d, hd, hed⟩ := hk.entries e he
    exact (congrArg TunEntry.replAck hed).trans (hack d hd (congrArg TunEntry.id hed ▸ hi))

/-- MOVED makes the owner fetch the map. -/
theorem exec_replAck_moved {s : State} {m : TMsg} (h : Safety.Heard s m) (hst : m.status = 0x0500) (ha : s.acting = false) :
    ∃ t : State, exec (.replAck m) s = .next t ∧ t.kv = s.kv ∧ t.tun = s.tun ∧ t.out = s.out ++ sends s [(idOf s.town.hall, { tmsg := 0x08 })] := by
  have e : exec (.replAck m) s = execReplAck m s := rfl
  rw [e]
  unfold execReplAck
  rw [State.onTown_of h, if_neg (by rw [hst]; decide), if_pos (show m.status = stMoved from hst), State.toHall_of ha]
  have hs := s.sendTown_sent (idOf s.town.hall) { tmsg := 0x08 }
  generalize s.sendTown (idOf s.town.hall) { tmsg := 0x08 } = u at hs
  exact answers ⟨(kv_reach rfl).trans hs.kv, (tun_reach rfl).trans hs.tun, (out_reach rfl).trans hs.out⟩

/-! ### The end of a copy, and of a cut (R404, R406) -/

/-- A dispatched mutation of a Ward waits for a receiver, or a batch of it is open. -/
def State.cutBusy (s : State) (w : Nat) : Bool :=
  (s.kv.ctxs.any fun c => (!c.acks.isEmpty || c.open_) && (if c.wards.isEmpty then s.ctxWard c == w else c.wards.contains w)) || s.tun.rows.any fun r => r.intent && wardOf r.digest == w

theorem State.cutBusy_congr {s t : State} (hk : t.kv = s.kv) (ht : t.tun = s.tun) (w : Nat) : t.cutBusy w = s.cutBusy w := by
  have hc : t.ctxWard = s.ctxWard := by
    funext c
    unfold State.ctxWard State.wardsOf State.keysOf State.digest State.kspOf State.ksp?
    rw [hk]
  unfold State.cutBusy
  rw [hk, ht, hc]

/-- A single cut that is not over yet. -/
theorem State.cutCheck_one {s : State} {w t : Nat} (hc : s.town.cuts = [(w, t)]) (hn : s.town.copied.contains w = false) (ha : s.acting = false) :
    s.cutCheck = if s.cutBusy w then s else ({ s with town := { s.town with copied := s.town.copied ++ [w] } } : State).sendTown (idOf s.town.hall) { tmsg := 0x0D, ward := w } := by
  have hf : ([(w, t)].filter fun c => !s.town.copied.contains c.1) = [(w, t)] := by
    rw [List.filter_cons, hn]
    rfl
  unfold State.cutCheck
  rw [hc, hf, List.foldl_cons, List.foldl_nil]
  dsimp only
  rw [State.toHall_of (s := { s with town := { s.town with copied := s.town.copied ++ [w] } }) ha]
  rfl

/-- The copy of a Ward that has gone out: a FILL is ready, a MOVE begins its cut. -/
theorem exec_transferCopyDone {s : State} {w : Nat} {x : Transfer} (hn : s.netOn = true) (ha : s.acting = false) (ho : s.wardOwner w = .self) (hc : s.town.copied.contains w = false)
    (hx : (s.town.transfers.find? fun t => t.ward == w) = some x) :
    ∃ v : State, Sent s [(idOf x.target, { tmsg := 0x0C, ward := w, body := .versions (s.versionsOf w) s.ywp.records true })] v ∧
      exec (.transferCopyDone w) s = done townParts townRegs s (if x.move then ({ v with town := { v.town with cuts := v.town.cuts ++ [(w, v.clk.cycles)] } } : State).cutCheck
        else ({ v with town := { v.town with cuts := (v.town.cuts ++ [(w, v.clk.cycles)]).filter fun c => c.1 != w, copied := v.town.copied ++ [w] } } : State).sendTown (idOf v.town.hall) { tmsg := 0x0D, ward := w }) := by
  have e : exec (.transferCopyDone w) s = execTransferCopyDone w s := rfl
  rw [e]
  unfold execTransferCopyDone
  rw [hx]
  dsimp only
  rw [when_of (by rw [hn, ho, hc]; rfl)]
  have hs := s.sendTown_sent (idOf x.target) { tmsg := 0x0C, ward := w, body := .versions (s.versionsOf w) s.ywp.records true }
  generalize s.sendTown (idOf x.target) { tmsg := 0x0C, ward := w, body := .versions (s.versionsOf w) s.ywp.records true } = v at hs
  refine ⟨v, hs, ?_⟩
  have ha' : v.acting = false := by
    unfold State.acting
    rw [hs.town]
    exact ha
  rw [State.toHall_of (s := { v with town := { v.town with cuts := (v.town.cuts ++ [(w, v.clk.cycles)]).filter fun c => c.1 != w, copied := v.town.copied ++ [w] } }) ha']

/-- Outputs of two states one after another. -/
theorem Sent.out_two {s u v w : State} {a b : Nat × TMsg} (h : Sent s [a] v) (k : Sent u [b] w) (ho : u.out = v.out) (ht : sends u = sends v) : w.out = s.out ++ sends s [a, b] := by
  rw [k.out, ho, h.out, ht, sends_congr h.town (memberId_congr h.regs), List.append_assoc]
  rfl

/-- A FILL is reported ready. -/
theorem exec_transferCopyDone_fill {s : State} {w : Nat} {x : Transfer} (hn : s.netOn = true) (ha : s.acting = false) (ho : s.wardOwner w = .self) (hc : s.town.copied.contains w = false)
    (hx : (s.town.transfers.find? fun t => t.ward == w) = some x) (hm : x.move = false) :
    ∃ t : State, exec (.transferCopyDone w) s = .next t ∧
      t.out = s.out ++ sends s [(idOf x.target, { tmsg := 0x0C, ward := w, body := .versions (s.versionsOf w) s.ywp.records true }), (idOf s.town.hall, { tmsg := 0x0D, ward := w })] ∧
      t.town.copied = s.town.copied ++ [w] ∧ t.town.wards = s.town.wards := by
  obtain ⟨v, hv, he⟩ := exec_transferCopyDone hn ha ho hc hx
  rw [he, if_neg (by simp [hm])]
  have hs := ({ v with town := { v.town with cuts := (v.town.cuts ++ [(w, v.clk.cycles)]).filter fun c => c.1 != w, copied := v.town.copied ++ [w] } } : State).sendTown_sent
    (idOf v.town.hall) { tmsg := 0x0D, ward := w }
  generalize State.sendTown { v with town := { v.town with cuts := (v.town.cuts ++ [(w, v.clk.cycles)]).filter fun c => c.1 != w, copied := v.town.copied ++ [w] } }
    (idOf v.town.hall) { tmsg := 0x0D, ward := w } = u at hs
  have hout := hv.out_two hs rfl (sends_of rfl rfl rfl rfl)
  rw [hv.town] at hout
  refine answers ⟨(out_reach rfl).trans hout, ?_, ?_⟩
  · rw [town_reach rfl, hs.town, ← hv.town]
  · rw [town_reach rfl, hs.town, ← hv.town]

/-- A MOVE begins its cut, which ends at once where nothing of the Ward is under way. -/
theorem exec_transferCopyDone_move {s : State} {w : Nat} {x : Transfer} (hn : s.netOn = true) (ha : s.acting = false) (ho : s.wardOwner w = .self) (hc : s.town.copied.contains w = false)
    (hx : (s.town.transfers.find? fun t => t.ward == w) = some x) (hm : x.move = true) (hcut : s.town.cuts = []) :
    (s.cutBusy w = true → ∃ t : State, exec (.transferCopyDone w) s = .next t ∧
      t.out = s.out ++ sends s [(idOf x.target, { tmsg := 0x0C, ward := w, body := .versions (s.versionsOf w) s.ywp.records true })] ∧
      t.town.cuts = [(w, s.clk.cycles)] ∧ t.town.copied = s.town.copied) ∧
    (s.cutBusy w = false → ∃ t : State, exec (.transferCopyDone w) s = .next t ∧
      t.out = s.out ++ sends s [(idOf x.target, { tmsg := 0x0C, ward := w, body := .versions (s.versionsOf w) s.ywp.records true }), (idOf s.town.hall, { tmsg := 0x0D, ward := w })] ∧
      t.town.copied = s.town.copied ++ [w]) := by
  obtain ⟨v, hv, he⟩ := exec_transferCopyDone hn ha ho hc hx
  have hcut' : v.town.cuts ++ [(w, v.clk.cycles)] = [(w, s.clk.cycles)] := by rw [hv.town, hcut, hv.clk]; rfl
  have hbusy : ({ v with town := { v.town with cuts := [(w, s.clk.cycles)] } } : State).cutBusy w = s.cutBusy w := State.cutBusy_congr hv.kv hv.tun w
  rw [he, if_pos hm, hcut', State.cutCheck_one rfl (by rw [hv.town]; exact hc) (by unfold State.acting; rw [hv.town]; exact ha), hbusy]
  refine ⟨fun hb => ?_, fun hb => ?_⟩
  · rw [if_pos hb]
    refine answers ⟨(out_reach rfl).trans hv.out, ?_, ?_⟩
    · rw [town_reach rfl]
    · rw [town_reach rfl, ← hv.town]
  · rw [if_neg (by simp [hb])]
    have hs := ({ v with town := { v.town with cuts := [(w, s.clk.cycles)], copied := v.town.copied ++ [w] } } : State).sendTown_sent (idOf v.town.hall) { tmsg := 0x0D, ward := w }
    dsimp only
    generalize State.sendTown { v with town := { v.town with cuts := [(w, s.clk.cycles)], copied := v.town.copied ++ [w] } } (idOf v.town.hall) { tmsg := 0x0D, ward := w } = u at hs
    have hout := hv.out_two hs rfl (sends_of rfl rfl rfl rfl)
    rw [hv.town] at hout
    refine answers ⟨(out_reach rfl).trans hout, ?_⟩
    rw [town_reach rfl, hs.town, ← hv.town]

/-- A cut that goes leaves the count of it and the word to the acting Hall. -/
theorem State.cutAbort_spec {s : State} (w : Nat) (ha : s.acting = false) :
    ∃ u, (({ s.fadd .twnDrop_cutAborts 1 with town := { (s.fadd .twnDrop_cutAborts 1).town with cuts := (s.fadd .twnDrop_cutAborts 1).town.cuts.filter fun c => c.1 != w } } : State).toHall
        { tmsg := 0x0D, flags := 2, ward := w } fun s => s.hallReady s.handle w true) = u ∧ u.clk = s.clk ∧ u.town = { s.town with cuts := s.town.cuts.filter fun c => c.1 != w } ∧
      u.fget .twnDrop_cutAborts = satAdd Fld.twnDrop_cutAborts.w (s.fget .twnDrop_cutAborts) 1 ∧
      u.out = s.out ++ sends s [(idOf s.town.hall, { tmsg := 0x0D, flags := 2, ward := w })] := by
  have hm : (s.fadd .twnDrop_cutAborts 1).memberId = s.memberId := by
    unfold State.memberId State.fadd
    rw [State.fget_fput_reg _ _ _ _ _ _ _ _ _ _ (by decide)]
  have hd : (s.fadd .twnDrop_cutAborts 1).fget .twnDrop_cutAborts = satAdd Fld.twnDrop_cutAborts.w (s.fget .twnDrop_cutAborts) 1 := State.fget_fadd_same _ _ _ _ _ _
  have ht : (s.fadd .twnDrop_cutAborts 1).town = s.town := State.fadd_town _ _ _ _ _ _
  have ho : (s.fadd .twnDrop_cutAborts 1).out = s.out := State.fadd_out _ _ _ _ _ _
  have hc : (s.fadd .twnDrop_cutAborts 1).clk = s.clk := State.fadd_clk _ _ _ _ _ _
  obtain ⟨z, hz⟩ : ∃ z, s.fadd .twnDrop_cutAborts 1 = z := ⟨_, rfl⟩
  rw [hz] at hm hd ht ho hc ⊢
  clear hz
  have hs := ({ z with town := { z.town with cuts := z.town.cuts.filter fun c => c.1 != w } } : State).sendTown_sent (idOf z.town.hall) { tmsg := 0x0D, flags := 2, ward := w }
  rw [State.toHall_of (s := { z with town := { z.town with cuts := z.town.cuts.filter fun c => c.1 != w } }) (by unfold State.acting; dsimp only; rw [ht]; exact ha)]
  dsimp only at hs ⊢
  generalize State.sendTown _ (idOf z.town.hall) { tmsg := 0x0D, flags := 2, ward := w } = u at hs ⊢
  refine ⟨u, rfl, hs.clk.trans hc, ?_, ?_, ?_⟩
  · rw [hs.town, ht]
  · rw [State.fget_congr hs.regs]
    exact hd
  · have he := sends_of (s := s) (t := { z with town := { z.town with cuts := z.town.cuts.filter fun c => c.1 != w } }) hm (congrArg TownSt.incarnation ht :) (congrArg TownSt.term ht :)
      (congrArg TownSt.epoch ht :)
    rw [hs.out, he, ht]
    exact congrArg (· ++ _) ho

/-- A cut of 5 ms is abandoned, and the acting Hall hears of it (R406). -/
theorem exec_cutTimeout {s : State} {w : Nat} {c : Nat × Nat} (hn : s.netOn = true) (ha : s.acting = false) (hcop : s.town.copied.contains w = false)
    (hc : (s.town.cuts.find? fun c => c.1 == w) = some c) :
    ∃ t : State, exec (.cutTimeout w) s = .next t ∧ t.clk.cycles = max s.clk.cycles (c.2 + 3000000) ∧ t.town = { s.town with cuts := s.town.cuts.filter fun c => c.1 != w } ∧
      t.fget .twnDrop_cutAborts = satAdd Fld.twnDrop_cutAborts.w (s.fget .twnDrop_cutAborts) 1 ∧
      t.out = s.out ++ sends s [(idOf s.town.hall, { tmsg := 0x0D, flags := 2, ward := w })] := by
  have e : exec (.cutTimeout w) s = execCutTimeout w s := rfl
  rw [e]
  unfold execCutTimeout
  rw [hc]
  dsimp only
  rw [when_of (by rw [hn, hcop]; rfl), show 5 * msCycles = 3000000 by norm_num [msCycles]]
  have hclk := State.waitCycle_cycles (c.2 + 3000000) s
  have htown := State.waitCycle_town s (c.2 + 3000000)
  have hout := State.waitCycle_out s (c.2 + 3000000)
  have hregs := State.waitCycle_regs s (c.2 + 3000000)
  obtain ⟨v, hv⟩ : ∃ v, s.waitCycle (c.2 + 3000000) = v := ⟨_, rfl⟩
  rw [hv] at hclk htown hout hregs ⊢
  clear hv
  have hacting : v.acting = false := by
    unfold State.acting
    rw [htown]
    exact ha
  obtain ⟨u, hu, h1, h2, h3, h4⟩ := State.cutAbort_spec w hacting
  rw [hu]
  clear hu
  refine answers ⟨?_, ?_, ?_, ?_⟩
  · exact cycles_reach rfl ((congrArg (·.cycles) h1).trans hclk)
  · rw [town_reach rfl, h2, htown]
  · rw [fget_reach rfl, h3, State.fget_congr hregs]
  · rw [out_reach rfl, h4, hout, htown, sends_congr htown (memberId_congr hregs)]

/-! ### Publications of the acting Hall (R377) -/

theorem toStandby_congr {s v t : State} {b : MapBody} (ht : v.town = s.town) (hm : v.memberId = s.memberId) (ho : v.out = s.out) (h : Safety.ToStandby v v.out b t) :
    Safety.ToStandby s s.out b t := by
  unfold Safety.ToStandby Safety.nextEpoch at h
  rw [ho, sends_congr ht hm, ht] at h
  exact h

/-- A change that the acting Hall publishes goes to a standby that it can reach; no bound KCV goes with it. -/
theorem State.publishAs_standby {s : State} (p : Publish) (hs : s.town.standby ≠ 0) (hx : (s.slotTo (idOf s.town.standby)).isSome = true) (hb : s.cip.bound = [])
    (ht : p.takeover = false) : Safety.ToStandby s s.out p.body (s.publishAs p) ∧ (s.publishAs p).kv = s.kv ∧ ∃ ps, (s.publishAs p).town = { s.town with publish := ps } := by
  have hbound : (s.kv.keyspaces.filter fun k => s.cip.bound.contains k.ksp && !(p.body.keyspaces.map fun k => k.ksp).contains k.ksp) = [] := by
    rw [hb]
    exact List.filter_eq_nil_iff.2 fun k _ => Bool.false_ne_true
  unfold State.publishAs
  dsimp only
  rw [hbound, List.append_nil, if_pos ⟨hs, hx, by rw [ht]; rfl⟩]
  have hsent := ({ s with cip := { s.cip with bound := [] } } : State).sendTown_sent (idOf s.town.standby)
    { tmsg := 0x06, epoch := (s.town.publish.map fun p => p.epoch).foldl max s.town.epoch + 1, arg0 := (s.town.publish.map fun p => p.epoch).foldl max s.town.epoch + 1 - 1, body := .map p.body }
  exact ⟨hsent.out, hsent.kv, _, by rw [hsent.town]⟩

/-- What decides how a publication goes out is as it was. -/
structure SameTown (s v : State) : Prop where
  town : v.town = s.town
  ywp : v.ywp = s.ywp
  bound : v.cip.bound = s.cip.bound
  memberId : v.memberId = s.memberId
  out : v.out = s.out

theorem SameTown.refl (s : State) : SameTown s s := ⟨rfl, rfl, rfl, rfl, rfl⟩

/-- The acting Hall whose changes go to a standby publishes one. -/
theorem SameTown.publishAs {s v : State} (k : SameTown s v) (h : Safety.ByStandby s) (p : Publish) (hp : p.takeover = false) :
    Safety.ToStandby s s.out p.body (v.publishAs p) ∧ (v.publishAs p).kv = v.kv ∧ ∃ ps, (v.publishAs p).town = { s.town with publish := ps } := by
  obtain ⟨-, -, hs, hx, hb, -⟩ := h
  obtain ⟨ht, hy, hc, hm, ho⟩ := k
  have hx' : (v.slotTo (idOf v.town.standby)).isSome = true := by
    unfold State.slotTo
    rw [ht, hy]
    exact hx
  obtain ⟨h1, h2, h3⟩ := State.publishAs_standby p (ht ▸ hs) hx' (hc.trans hb) hp
  exact ⟨toStandby_congr ht hm ho h1, h2, ht ▸ h3⟩

theorem ToStandby.settle {s u w : State} {o : List Output} {b : MapBody} {ps : List Part} {ns : List RegName} (h : Safety.ToStandby s o b u) (ho : ps.contains .out = true) :
    Safety.ToStandby s o b (settle w (w.within ps ns u)) := (if_pos ho).trans h

/-- Such an acting Hall judges what it hears. -/
theorem byStandby_judges {s : State} (h : Safety.ByStandby s) : s.acting = true ∧ (!s.frozen) = true := by
  obtain ⟨ha, hf, -⟩ := h
  exact ⟨ha, by rw [hf]; rfl⟩

/-! ### TRANSFER_READY (R404, R406) -/

theorem mem_insertBy_iff {α : Type} (k : α → Nat) (x y : α) (l : List α) : y ∈ insertBy k x l ↔ y = x ∨ y ∈ l := by
  induction l with
  | nil => simp [insertBy]
  | cons a l ih =>
    unfold insertBy
    split
    · exact List.mem_cons
    · rw [List.mem_cons, ih, List.mem_cons]
      exact or_left_comm

theorem State.wardEntry_ward (s : State) (w : Nat) : (s.wardEntry w).ward = w := by
  unfold State.wardEntry
  cases h : s.town.wards.find? fun e => e.ward == w with
  | none => rfl
  | some e => exact beq_iff_eq.1 (List.find?_some (p := fun e : WardEntry => e.ward == w) h)

/-- The entry of a Ward whose transfer is over: the target owns it or replicates it, unless the transfer only goes. -/
def State.readyEntry (s : State) (x : Transfer) (w : Nat) (aborted : Bool) : WardEntry :=
  let e := s.wardEntry w
  let b := idOf x.target
  if aborted ∨ (x.move ∧ !s.mayOwn b) then e
  else if x.move then
    { e with owner := b, reps := e.reps.filter (fun r => r != b), orphan := e.orphan && e.orphanOf != b, orphanOf := if e.orphanOf = b then 0 else e.orphanOf }
  else { e with reps := (e.reps.filter fun r => !s.town.closing.contains r) ++ [b] }

theorem State.readyEntry_ward (s : State) (x : Transfer) (w : Nat) (a : Bool) : (s.readyEntry x w a).ward = w := by
  unfold State.readyEntry
  dsimp only
  split
  · exact s.wardEntry_ward w
  · split
    · exact s.wardEntry_ward w
    · exact s.wardEntry_ward w

/-- A transfer that is abandoned, or whose target has no flash, leaves the owner and the replicas. -/
theorem State.readyEntry_goes {s : State} {x : Transfer} {w : Nat} {a : Bool} (h : a = true ∨ (x.move = true ∧ s.mayOwn (idOf x.target) = false)) :
    s.readyEntry x w a = s.wardEntry w := by
  unfold State.readyEntry
  exact if_pos (h.imp id fun h => ⟨h.1, by rw [h.2]; rfl⟩)

theorem State.readyEntry_move {s : State} {x : Transfer} {w : Nat} (hm : x.move = true) (ho : s.mayOwn (idOf x.target) = true) :
    (s.readyEntry x w false).owner = idOf x.target ∧ (s.readyEntry x w false).reps = (s.wardEntry w).reps.filter fun r => r != idOf x.target := by
  unfold State.readyEntry
  dsimp only
  rw [if_neg (by simp [ho]), if_pos hm]
  exact ⟨rfl, rfl⟩

theorem State.readyEntry_fill {s : State} {x : Transfer} {w : Nat} (hm : x.move = false) : (s.readyEntry x w false).owner = (s.wardEntry w).owner ∧
    (s.readyEntry x w false).reps = ((s.wardEntry w).reps.filter fun r => !s.town.closing.contains r) ++ [idOf x.target] := by
  unfold State.readyEntry
  dsimp only
  rw [if_neg (by simp [hm]), if_neg (by simp [hm])]
  exact ⟨rfl, rfl⟩

theorem State.leftCheck_of {s : State} (h : s.town.leaving = []) : s.leftCheck = s := by
  unfold State.leftCheck
  rw [h]
  rfl

/-- The acting Hall publishes a transfer's end. -/
theorem State.hallReady_eq {s : State} {sender w : Nat} {x : Transfer} (a : Bool) (hx : (s.town.transfers.find? fun t => t.ward == w) = some x)
    (ho : (s.wardEntry w).owner = idOf sender) : ∃ ts : List Transfer, s.hallReady sender w a = (s.publishMap { s.noChange with
      wards := (markTransfers ts (putWard (s.readyEntry x w a) s.town.wards)).filter (fun e => !(s.town.wards.contains e)), transfers := some ts }).leftCheck := by
  unfold State.hallReady
  rw [hx]
  dsimp only
  rw [if_neg (by rw [ho]; simp)]
  exact ⟨_, rfl⟩

theorem State.hallReady_publish {s : State} {sender w : Nat} {x : Transfer} (a : Bool) (hb : Safety.ByStandby s) (hx : (s.town.transfers.find? fun t => t.ward == w) = some x)
    (ho : (s.wardEntry w).owner = idOf sender) : ∃ ts : List Transfer, ∃ b : MapBody,
      b.wards = (markTransfers ts (putWard (s.readyEntry x w a) s.town.wards)).filter (fun e => !(s.town.wards.contains e)) ∧
      Safety.ToStandby s s.out b (s.hallReady sender w a) ∧ (s.hallReady sender w a).town.wards = s.town.wards := by
  obtain ⟨ts, he⟩ := State.hallReady_eq a hx ho
  obtain ⟨-, -, -, -, -, hl⟩ := id hb
  have hp := (SameTown.refl s).publishAs hb { body := { s.noChange with
    wards := (markTransfers ts (putWard (s.readyEntry x w a) s.town.wards)).filter (fun e => !(s.town.wards.contains e)), transfers := some ts } } rfl
  rw [he, State.publishMap]
  obtain ⟨h1, -, ps, h3⟩ := hp
  rw [State.leftCheck_of (by rw [h3]; exact hl)]
  exact ⟨ts, _, rfl, h1, by rw [h3]⟩

/-- What such a publication says of the Ward: its one entry is the new one, but for the bit of its transfer. -/
theorem marked_putWard {e : WardEntry} {ts : List Transfer} {ws b : List WardEntry} (hb : b = (markTransfers ts (putWard e ws)).filter fun e => !(ws.contains e)) :
    ∃ e' : WardEntry, e'.ward = e.ward ∧ e'.owner = e.owner ∧ e'.reps = e.reps ∧ (e' ∈ b ∨ e' ∈ ws) ∧ ∀ y ∈ b, y.ward = e.ward → y = e' := by
  subst hb
  refine ⟨{ e with transfer := ts.any fun t => t.ward == e.ward }, rfl, rfl, rfl, ?_, fun y hy hw => ?_⟩
  · by_cases h : { e with transfer := ts.any fun t => t.ward == e.ward } ∈ ws
    · exact Or.inr h
    · refine Or.inl (List.mem_filter.2 ⟨List.mem_map.2 ⟨e, mem_insertBy _ _ _, rfl⟩, ?_⟩)
      simpa using h
  · obtain ⟨x, hx, rfl⟩ := List.mem_map.1 (List.mem_of_mem_filter hy)
    rcases (mem_insertBy_iff _ _ _ _).1 hx with rfl | hx
    · rfl
    · exact absurd hw (by simpa using (List.mem_filter.1 hx).2)

/-- TRANSFER_READY at the acting Hall. -/
theorem exec_transferReady {s : State} {m : TMsg} {x : Transfer} (h : Safety.Heard s m) (hb : Safety.ByStandby s) (hx : (s.town.transfers.find? fun t => t.ward == m.ward) = some x)
    (ho : (s.wardEntry m.ward).owner = idOf m.sender) :
    ∃ (t : State) (b : MapBody) (e : WardEntry), exec (.transferReady m) s = .next t ∧ Safety.ToStandby s s.out b t ∧ t.town.wards = s.town.wards ∧ e.ward = m.ward ∧
      (e ∈ b.wards ∨ e ∈ s.town.wards) ∧ (∀ y ∈ b.wards, y.ward = m.ward → y = e) ∧
      ((bitAt m.flags 1 = true ∨ (x.move = true ∧ s.mayOwn (idOf x.target) = false)) → e.owner = (s.wardEntry m.ward).owner ∧ e.reps = (s.wardEntry m.ward).reps) ∧
      (bitAt m.flags 1 = false → x.move = true → s.mayOwn (idOf x.target) = true → e.owner = idOf x.target ∧ idOf x.target ∉ e.reps ∧
        ∀ r ∈ (s.wardEntry m.ward).reps, r ≠ idOf x.target → r ∈ e.reps) ∧
      (bitAt m.flags 1 = false → x.move = false → e.owner = (s.wardEntry m.ward).owner ∧
        e.reps = ((s.wardEntry m.ward).reps.filter fun r => !s.town.closing.contains r) ++ [idOf x.target]) := by
  have e : exec (.transferReady m) s = execTransferReady m s := rfl
  rw [e]
  unfold execTransferReady
  rw [State.onTown_of h, if_pos (byStandby_judges hb)]
  obtain ⟨ts, b, hw, h1, h2⟩ := State.hallReady_publish (bitAt m.flags 1) hb hx ho
  obtain ⟨y, k1, k2, k3, k4, k5⟩ := marked_putWard hw
  rw [s.readyEntry_ward x m.ward] at k1 k5
  refine ⟨_, b, y, rfl, ToStandby.settle h1 rfl, (congrArg TownSt.wards (town_reach rfl)).trans h2, k1, k4, k5, fun hg => ?_, fun ha hm hf => ?_, fun ha hm => ?_⟩
  · rw [k2, k3, State.readyEntry_goes hg]
    exact ⟨rfl, rfl⟩
  · rw [k2, k3, ha, (State.readyEntry_move hm hf).1, (State.readyEntry_move hm hf).2]
    exact ⟨rfl, by simp, fun r hr hne => List.mem_filter.2 ⟨hr, by simpa using hne⟩⟩
  · rw [k2, k3, ha]
    exact State.readyEntry_fill hm

/-! ### Forwarded commands (R407, R414, R416) -/

/-- Drawing a salt leaves the Town and what the part stores. -/
theorem draw_sameTown {s : State} {r : Nat × State} (h : s.draw = some r) : SameTown s r.2 ∧ r.2.kv = s.kv := by
  unfold State.draw at h
  split at h
  · cases h
  · obtain rfl := Option.some.inj h
    dsimp only
    split
    · refine ⟨⟨State.fadd_town _ _ _ _ _ _, State.fadd_ywp _ _ _ _ _ _, ?_, ?_, State.fadd_out _ _ _ _ _ _⟩, State.fadd_kv _ _ _ _ _ _⟩
      · rw [State.fadd_cip]
        rfl
      · unfold State.memberId State.fadd
        rw [State.fget_fput_reg _ _ _ _ _ _ _ _ _ _ (by decide)]
        rfl
    · exact ⟨⟨rfl, rfl, rfl, rfl, rfl⟩, rfl⟩

theorem State.kspNew_sameTown {s w : State} {f : Nat} {d : Desc} {k : Keyspace} (h : s.kspNew f d = .ok (k, w)) : SameTown s w ∧ w.kv = s.kv := by
  unfold State.kspNew at h
  dsimp only at h
  split at h
  · cases h
  · split at h
    · cases h
    · split at h
      · cases h
      · split at h
        · cases h
        next v hd =>
          obtain ⟨-, rfl⟩ := Prod.mk.inj (Except.ok.inj h)
          split at hd
          · exact draw_sameTown hd
          · obtain ⟨-, rfl⟩ := Prod.mk.inj (Option.some.inj hd)
            exact ⟨SameTown.refl _, rfl⟩

theorem State.kspGoneNew_reclaiming {s : State} {f : Nat} {d : Desc} {k : Keyspace} (h : s.kspGoneNew f d = .ok k) : k.reclaiming = true := by
  unfold State.kspGoneNew at h
  split at h
  · cases h
  · split at h
    · cases h
    · split at h
      · cases h
      · obtain rfl := Except.ok.inj h
        rfl

section
variable {s w : State} {f : Nat} {d : Desc} {k : Keyspace} {st : Nat} {a : Option (Nat × TMsg)} {fin : State → Nat → State}

theorem State.hallKeyspace_create_refused (hd : d.opc = 0x81) (h : s.kspNew f d = .error st) : s.hallKeyspace f d none a fin = fin s st := by
  unfold State.hallKeyspace
  dsimp only
  rw [if_pos (show d.opc = opKspCreate from hd), h]

theorem State.hallKeyspace_create (hd : d.opc = 0x81) (h : s.kspNew f d = .ok (k, w)) :
    ∃ p : Publish, s.hallKeyspace f d none a fin = w.publishAs p ∧ p.takeover = false ∧ p.body.keyspaces = [k] := by
  unfold State.hallKeyspace
  dsimp only
  rw [if_pos (show d.opc = opKspCreate from hd), h]
  exact ⟨_, rfl, rfl, rfl⟩

theorem State.hallKeyspace_delete_refused (hd : d.opc = 0x82) (h : s.kspGoneNew f d = .error st) : s.hallKeyspace f d none a fin = fin s st := by
  unfold State.hallKeyspace
  dsimp only
  rw [if_neg (by rw [hd]; decide), h]

theorem State.hallKeyspace_delete (hd : d.opc = 0x82) (h : s.kspGoneNew f d = .ok k) :
    ∃ p : Publish, s.hallKeyspace f d none a fin = s.publishAs p ∧ p.takeover = false ∧ p.body.keyspaces = [k] := by
  unfold State.hallKeyspace
  dsimp only
  rw [if_neg (by rw [hd]; decide), h]
  exact ⟨_, rfl, rfl, rfl⟩

end

section
variable {s : State} {m : TMsg} {f : Nat} {d : Desc} (h : Safety.Heard s m) (hb : Safety.ByStandby s) (hm : m.body = .command f d)
include h hb hm

/-- KEYSPACE_REQ at the acting Hall. -/
theorem exec_keyspaceReq (hd : d.opc = 0x81 ∨ d.opc = 0x82) : exec (.keyspaceReq m) s = done (townParts ++ [.free]) (townRegs ++ [.cipDrbgStat]) s
    (s.hallKeyspace f d none (some (idOf m.sender, { tmsg := 0x10, arg0 := m.arg0, status := stOk })) fun s st => s.sendTown (idOf m.sender) { tmsg := 0x10, arg0 := m.arg0, status := st }) := by
  have e : exec (.keyspaceReq m) s = execKeyspaceReq m s := rfl
  rw [e]
  unfold execKeyspaceReq
  rw [State.onTown_of h, hm]
  exact congrArg _ (if_pos (and_assoc.1 ⟨byStandby_judges hb, hd⟩))

/-- A refused keyspace command is answered with its status. -/
theorem exec_keyspaceReq_refused {st : Nat} (he : (d.opc = 0x81 ∧ s.kspNew f d = .error st) ∨ (d.opc = 0x82 ∧ s.kspGoneNew f d = .error st)) :
    ∃ t : State, exec (.keyspaceReq m) s = .next t ∧ t.town = s.town ∧ t.kv = s.kv ∧ t.out = s.out ++ sends s [(idOf m.sender, { tmsg := 0x10, arg0 := m.arg0, status := st })] := by
  have hs := s.sendTown_sent (idOf m.sender) { tmsg := 0x10, arg0 := m.arg0, status := st }
  rw [exec_keyspaceReq h hb hm (he.imp And.left And.left)]
  rcases he with ⟨hd, he⟩ | ⟨hd, he⟩
  · rw [State.hallKeyspace_create_refused hd he]
    exact answers ⟨(town_reach rfl).trans hs.town, (kv_reach rfl).trans hs.kv, (out_reach rfl).trans hs.out⟩
  · rw [State.hallKeyspace_delete_refused hd he]
    exact answers ⟨(town_reach rfl).trans hs.town, (kv_reach rfl).trans hs.kv, (out_reach rfl).trans hs.out⟩

/-- One that is accepted is published. -/
theorem exec_keyspaceReq_published {k : Keyspace} (he : (d.opc = 0x81 ∧ ∃ w, s.kspNew f d = .ok (k, w)) ∨ (d.opc = 0x82 ∧ s.kspGoneNew f d = .ok k)) :
    ∃ (t : State) (b : MapBody), exec (.keyspaceReq m) s = .next t ∧ Safety.ToStandby s s.out b t ∧ b.keyspaces = [k] ∧ t.kv.keyspaces = s.kv.keyspaces := by
  rw [exec_keyspaceReq h hb hm (he.imp And.left And.left)]
  have hp : ∃ (v : State) (p : Publish), SameTown s v ∧ v.kv = s.kv ∧ p.takeover = false ∧ p.body.keyspaces = [k] ∧
      s.hallKeyspace f d none (some (idOf m.sender, { tmsg := 0x10, arg0 := m.arg0, status := stOk })) (fun s st => s.sendTown (idOf m.sender) { tmsg := 0x10, arg0 := m.arg0, status := st }) =
        v.publishAs p := by
    rcases he with ⟨hd, w, he⟩ | ⟨hd, he⟩
    · obtain ⟨p, h1, h2, h3⟩ := State.hallKeyspace_create hd he
      obtain ⟨k1, k2⟩ := State.kspNew_sameTown he
      exact ⟨w, p, k1, k2, h2, h3, h1⟩
    · obtain ⟨p, h1, h2, h3⟩ := State.hallKeyspace_delete hd he
      exact ⟨s, p, SameTown.refl s, rfl, h2, h3, h1⟩
  obtain ⟨v, p, hv, hk, hp, hb', e⟩ := hp
  rw [e]
  obtain ⟨h1, h2, -⟩ := hv.publishAs hb p hp
  exact ⟨_, p.body, rfl, ToStandby.settle h1 rfl, hb', by rw [kv_reach rfl, h2, hk]⟩

/-- FORWARDED_TOWN_CONTROL at the acting Hall. -/
theorem exec_forwardedTownControl (hd : d.opc = 0x8B) : exec (.forwardedTownControl m) s = done townParts townRegs s
    (s.runControl d none (some (idOf m.sender, { tmsg := 0x10, arg0 := m.arg0, status := stOk })) fun s st => s.sendTown (idOf m.sender) { tmsg := 0x10, arg0 := m.arg0, status := st }) := by
  have e : exec (.forwardedTownControl m) s = execForwardedTownControl m s := rfl
  rw [e]
  unfold execForwardedTownControl
  rw [State.onTown_of h, hm]
  exact congrArg _ (if_pos (and_assoc.1 ⟨byStandby_judges hb, hd⟩))

theorem exec_forwardedTownControl_refused {st : Nat} (hd : d.opc = 0x8B) (he : s.hallControl d = .error st) :
    ∃ t : State, exec (.forwardedTownControl m) s = .next t ∧ t.town = s.town ∧ t.out = s.out ++ sends s [(idOf m.sender, { tmsg := 0x10, arg0 := m.arg0, status := st })] := by
  rw [exec_forwardedTownControl h hb hm hd, State.runControl, he]
  have hs := s.sendTown_sent (idOf m.sender) { tmsg := 0x10, arg0 := m.arg0, status := st }
  exact answers ⟨(town_reach rfl).trans hs.town, (out_reach rfl).trans hs.out⟩

theorem exec_forwardedTownControl_published {b : MapBody} (hd : d.opc = 0x8B) (he : s.hallControl d = .ok (some b)) :
    ∃ t : State, exec (.forwardedTownControl m) s = .next t ∧ Safety.ToStandby s s.out b t := by
  rw [exec_forwardedTownControl h hb hm hd, State.runControl, he]
  dsimp only
  refine answers (ToStandby.settle (SameTown.publishAs ?_ hb _ rfl).1 rfl)
  split
  · exact ⟨s.report_town _ _ _, s.report_ywp _ _ _, by rw [s.report_cip], memberId_congr (s.report_regs _ _ _), s.report_out _ _ _⟩
  · exact SameTown.refl s

/-- HALL_RETURN hands the whole map to the defined Hall. -/
theorem exec_forwardedTownControl_return (hd : d.opc = 0x8B) (he : s.hallControl d = .ok none) :
    ∃ t : State, exec (.forwardedTownControl m) s = .next t ∧ t.town.returning = some s.town.standby ∧
      t.out = s.out ++ sends s [(idOf s.town.standby, { tmsg := 0x09, epoch := s.town.epoch + 1, arg1 := 1, body := .map s.fullMap })] := by
  rw [exec_forwardedTownControl h hb hm hd, State.runControl, he]
  have hs := s.sendTown_sent (idOf s.town.standby) { tmsg := 0x09, epoch := s.town.epoch + 1, arg1 := 1, body := .map s.fullMap }
  refine answers ⟨?_, ?_⟩
  · rw [town_reach rfl]
  · rw [out_reach rfl]
    exact hs.out

end

/-! ### Ends of forwarded commands (R388, R403, R407) -/

/-- Whom a member can reach does not depend on who joins. -/
theorem frozen_of {s t : State} (hm : t.memberId = s.memberId) (hy : t.ywp = s.ywp) (ht : ∃ j, t.town = { s.town with joinCtx := j }) : t.frozen = s.frozen := by
  obtain ⟨j, ht⟩ := ht
  unfold State.frozen State.reach State.isMember State.handle State.slotTo
  rw [hm, hy, ht]

section
variable {s : State} {c : OpCtx} {f n : Nat} (hc : s.kv.ctx? c.id = some c) (hs : c.src = .ring f n) (ho : c.orphan = false)
include hc hs ho

/-- The acting Hall's answer ends the command. -/
theorem exec_keyspaceReqAnswer {m : TMsg} (h : Safety.Heard s m) (hm : m.arg0 = c.id) (hp : c.phase = .admin) (hl : c.pool = .admin)
    (hd : c.desc.opc = 0x81 ∨ c.desc.opc = 0x82 ∨ c.desc.opc = 0x8B) :
    ∃ t : State, exec (.keyspaceReqAnswer m) s = .next t ∧ Safety.Finishes s c f n { status := m.status, rstamp := if m.status = 0 then m.stamp else 0 } t := by
  have e : exec (.keyspaceReqAnswer m) s = execKeyspaceReqAnswer m s := rfl
  rw [e]
  unfold execKeyspaceReqAnswer
  rw [State.onTown_of h, hm, hc]
  dsimp only
  rw [if_pos (by rcases hd with hd | hd | hd <;> simp [hp, hl, hd, opKspCreate, opKspDelete, opTown])]
  by_cases hst : m.status = 0
  · rw [if_pos (show m.status = stOk from hst), if_pos hst, hst]
    exact answers (Finishes.settle (s.finish_ring_bare c f n _ hs ho).1 rfl rfl)
  · rw [if_neg (show ¬m.status = stOk from hst), if_neg hst]
    exact answers (Finishes.settle (s.fail_ring c f n _ hs ho) rfl rfl)

omit hc in
/-- A command that fails when its wait of RETRY_MS is over. -/
theorem fail_after {v : State} {b st : Nat} {ps : List Part} (hk : ps.contains .clk = true) (hout : ps.contains .out = true) (hkv : ps.contains .kv = true)
    (hv : SameRing f n s v) (hclk : v.clk.cycles = max s.clk.cycles b) :
    ∃ t : State, done ps ringRegs s (v.fail c st) = .next t ∧ Safety.Finishes s c f n { status := st } t ∧ t.clk.cycles = max s.clk.cycles b :=
  answers ⟨Finishes.settle (Finishes.of_sameRing (v.fail_ring c f n st hs ho) hv) hout hkv, cycles_reach hk ((congrArg (·.cycles) (endKeeps_fail v c st).clk).trans hclk)⟩

theorem exec_ownerRetryTimeout (hr : s.ready = true) (hp : c.phase = .noOwner) (hl : c.pool ≠ .admin) :
    ∃ t : State, exec (.ownerRetryTimeout c.id) s = .next t ∧ Safety.Finishes s c f n { status := 0x0501 } t ∧
      t.clk.cycles = max s.clk.cycles (c.since + s.fget .twnRetryCtrl_retryMs * 600000) := by
  have e : exec (.ownerRetryTimeout c.id) s = execOwnerRetryTimeout c.id s := rfl
  rw [e]
  unfold execOwnerRetryTimeout
  rw [hc]
  dsimp only
  rw [when_of (by simp [hr, hp, hl])]
  exact fail_after hs ho rfl rfl rfl (sameRing_regs (State.waitCycle_regs _ _) (State.waitCycle_host _ _)) (State.waitCycle_cycles _ s)

theorem exec_hallUnreachableTimeout (hr : s.ready = true) (hl : c.pool = .admin)
    (hw : c.phase = .noOwner ∨ s.hallLost c = true ∨ (s.town.joinCtx = some c.id ∧ s.town.state = 1)) :
    ∃ t : State, exec (.hallUnreachableTimeout c.id) s = .next t ∧ Safety.Finishes s c f n { status := if s.frozen then 0x0505 else 0x0501 } t ∧
      t.clk.cycles = max s.clk.cycles (c.since + s.fget .twnRetryCtrl_retryMs * 600000) := by
  have e : exec (.hallUnreachableTimeout c.id) s = execHallUnreachableTimeout c.id s := rfl
  rw [e]
  unfold execHallUnreachableTimeout
  rw [hc]
  dsimp only
  rw [when_of (by rcases hw with hw | hw | ⟨hw, hj⟩ <;> simp [*])]
  obtain ⟨v, hv⟩ : ∃ v, s.waitCycle (c.since + s.fget .twnRetryCtrl_retryMs * msCycles) = v := ⟨_, rfl⟩
  have hclk := State.waitCycle_cycles (c.since + s.fget .twnRetryCtrl_retryMs * msCycles) s
  have htown := State.waitCycle_town s (c.since + s.fget .twnRetryCtrl_retryMs * msCycles)
  have hywp := State.waitCycle_ywp s (c.since + s.fget .twnRetryCtrl_retryMs * msCycles)
  have hregs := State.waitCycle_regs s (c.since + s.fget .twnRetryCtrl_retryMs * msCycles)
  have hhost := State.waitCycle_host s (c.since + s.fget .twnRetryCtrl_retryMs * msCycles)
  rw [hv] at hclk htown hywp hregs hhost ⊢
  clear hv
  split
  · rw [frozen_of (s := s) (t := { v with town := { v.town with joinCtx := none } }) (memberId_congr hregs) hywp ⟨none, by rw [htown]⟩]
    exact fail_after hs ho rfl rfl rfl (sameRing_regs hregs hhost) hclk
  · rw [frozen_of (s := s) (memberId_congr hregs) hywp ⟨s.town.joinCtx, htown⟩]
    exact fail_after hs ho rfl rfl rfl (sameRing_regs hregs hhost) hclk

end

/-- Settles O45: a message of changes is written, held or answered as its Town contexts and the Tun allow; the operations of a Ward end with their last
acknowledgement; and the acting Hall publishes to its standby what it accepts. -/
theorem wardsAreReplicatedAndMoved : Obligations.WardsAreReplicatedAndMoved := by
  unfold Obligations.WardsAreReplicatedAndMoved
  refine ⟨fun s m h he hm hr => ⟨fun hf => ?_, fun hf es r hb => ⟨fun w hn ht => exec_replicate_made h he hm hr hf hb hn ht, fun hn => ?_⟩,
      fun hf hd k key dl off b hb => ⟨fun w hw => exec_replicate_piece h he hm hr hf hb hw, fun hw => ?_⟩⟩,
    fun s m es => ⟨fun w => State.takeEntries_known, fun w e ht hes hk => State.takeEntries_one (hes ▸ ht) hk⟩,
    fun s m es rs last h he hm ha ho ht hb => ?_,
    fun s m h => ⟨exec_replAck_moved h, fun c f n hst ha ho hcut hpg hf hctx hc hb hp hs hor => exec_replAck_last h hst ha ho hcut hpg hf hctx hc hb hp hs hor⟩,
    fun s w x hn ha ho hc hx => ⟨exec_transferCopyDone_fill hn ha ho hc hx, fun hm hcut => (exec_transferCopyDone_move hn ha ho hc hx hm hcut).1,
      fun hm hcut => (exec_transferCopyDone_move hn ha ho hc hx hm hcut).2⟩,
    fun s m x h hb hx ho => exec_transferReady h hb hx ho,
    fun s w c hn ha hcop hc => exec_cutTimeout hn ha hcop hc,
    fun s m f d h hb hm => ⟨fun hd => ⟨fun st he => exec_keyspaceReq_refused h hb hm (Or.inl ⟨hd, he⟩), fun k w he => exec_keyspaceReq_published h hb hm (Or.inl ⟨hd, w, he⟩)⟩,
      fun hd => ⟨fun st he => exec_keyspaceReq_refused h hb hm (Or.inr ⟨hd, he⟩), fun k he => ⟨State.kspGoneNew_reclaiming he, ?_⟩⟩,
      fun hd => ⟨fun st he => exec_forwardedTownControl_refused h hb hm hd he, fun b he => exec_forwardedTownControl_published h hb hm hd he,
        fun he => exec_forwardedTownControl_return h hb hm hd he⟩⟩,
    fun s c f n hc hs ho => ⟨fun m h hm hp hl hd => exec_keyspaceReqAnswer hc hs ho h hm hp hl hd, exec_ownerRetryTimeout hc hs ho, exec_hallUnreachableTimeout hc hs ho⟩⟩
  · rw [(exec_change h he).1, State.takeChange_full (State.takesChange_repl hm hr) hf]
    exact heldChange_reach s m .queue
  · rw [(exec_change h he).1, State.takeChange_waits (State.takesChange_repl hm hr) hf (State.applyChange_waits hn (Or.inl ⟨r, hb⟩))]
    exact heldChange_reach s m .town
  · rw [(exec_change h he).1, State.takeChange_waits (State.takesChange_repl hm hr) hf (by unfold State.applyChange; rw [hb]; exact hw)]
    exact heldChange_reach s m .town
  · have hc := State.takesChange_transfer hm ha ho ht
    refine ⟨fun hf => ?_, fun hf hn => ?_, fun hf hn w hw => exec_transfer_made h he hc hf hb hn hw⟩
    · rw [(exec_change h he).2, State.takeChange_full hc hf]
      exact heldChange_reach s m .queue
    · rw [(exec_change h he).2, State.takeChange_waits hc hf (State.applyChange_waits hn (Or.inr ⟨rs, last, hb⟩))]
      exact heldChange_reach s m .town
  · obtain ⟨t, b, h1, h2, h3, -⟩ := exec_keyspaceReq_published h hb hm (Or.inr ⟨hd, he⟩)
    exact ⟨t, b, h1, h2, h3⟩

end Sys2Proof.Machine
end

section
/-!
SUPPORT. Operations that nothing holds (chapter 02, R21, R105): how they come to their dispatch, and how their end leaves their ring.
-/

namespace Sys2Proof.Machine

/-! ### Dispatch -/

/-- Nothing that came before holds an operation (R21, R94, R206, R775). -/
structure State.Unheld (s : State) (c : OpCtx) : Prop where
  order : s.behind c = false
  filling : s.fillingOn (s.kspOf c.desc) (s.keysOf c) = false
  intents : changesKeys c.desc.opc = true → ∀ k ∈ s.keysOf c, s.intentOn (s.kspOf c.desc) k = false

theorem State.Unheld.goes {s : State} {c : OpCtx} (h : s.Unheld c) :
    ¬(s.behind c = true ∨ s.fillingOn (s.kspOf c.desc) (s.keysOf c) = true ∨
      (changesKeys c.desc.opc = true ∧ ((s.keysOf c).any fun k => s.intentOn (s.kspOf c.desc) k) = true)) := by
  rintro (hb | hf | ⟨hc, hi⟩)
  · rw [h.order] at hb; cases hb
  · rw [h.filling] at hf; cases hf
  · obtain ⟨k, hk, hi⟩ := List.any_eq_true.1 hi
    rw [h.intents hc k hk] at hi
    cases hi

theorem State.unheld_of_free {s : State} {c : OpCtx} (h : Safety.Free s c) : s.Unheld c := ⟨h.2.1, h.2.2.1, h.2.2.2⟩

/-- Only a staged value's operations act in a keyspace that their descriptor does not name. -/
theorem State.kspOf_plain (s : State) {d : Desc} (h : d.opc < 0x0D ∨ 0x0F < d.opc) : s.kspOf d = d.ksp := by
  unfold State.kspOf opStageData opStagePublish opStageDiscard
  rw [if_neg (by omega)]

theorem State.unheld_of_runs {s : State} {c : OpCtx} (h : Safety.Runs s c) (ho : c.desc.opc < 0x0D ∨ 0x0F < c.desc.opc) : s.Unheld c := by
  obtain ⟨-, hb, hf, hi, -, -⟩ := h
  have hk := s.kspOf_plain ho
  exact ⟨hb, by rw [hk]; exact hf, by rw [hk]; exact hi⟩

/-- An operation that its descriptor does not refuse is dispatched. -/
theorem State.admit_dispatch {s : State} {c : OpCtx} (h : s.refused c = none) : s.admitCtx c = s.dispatch c := by
  unfold State.admitCtx
  rw [h]

/-- On a member whose join has not completed, snapshots and BARRIER end with PEER_UNREACHABLE (R26). -/
theorem State.dispatch_unjoined {s : State} {c : OpCtx} (h : s.Unheld c) (hj : s.notJoined = true)
    (ho : c.desc.opc = opSnapOpen ∨ c.desc.opc = opSnapClose ∨ c.desc.opc = opBarrier) : s.dispatch c = s.fail c stPeerUnreachable := by
  unfold State.dispatch
  dsimp only
  rw [if_neg h.goes, if_pos]
  rcases ho with ho | ho | ho <;> simp [hj, ho]

theorem State.dispatch_snapOpen {s : State} {c : OpCtx} (h : s.Unheld c) (hj : s.notJoined = false) (ho : c.desc.opc = opSnapOpen) :
    s.dispatch c = s.runSnapOpen c := by
  unfold State.dispatch
  dsimp only
  rw [if_neg h.goes, hj, Bool.false_and, if_neg (by decide), if_pos ho]

theorem State.dispatch_snapClose {s : State} {c : OpCtx} (h : s.Unheld c) (hj : s.notJoined = false) (ho : c.desc.opc = opSnapClose) :
    s.dispatch c = s.runSnapClose c := by
  unfold State.dispatch
  dsimp only
  rw [if_neg h.goes, hj, Bool.false_and, if_neg (by decide), if_neg (by rw [ho]; decide), if_pos ho]

/-- How an operation on a staged value goes on with the value its handle names, if any (R81 to R83). -/
def State.stagedGo (s : State) (c : OpCtx) : Option Staged → State
  | none => s.runAway c
  | some v =>
    match s.stageCheck v.ksp v.tenant s.slotLoaded with
    | some st => if c.desc.opc = opStageDiscard ∧ st = stSlotEmpty then (s.dropStaged v.handle).finish c {} [] else s.fail c st
    | none =>
      if s.notJoined then s.fail c stPeerUnreachable
      else if c.desc.opc = opStageData then s.runStageData c v (((s.ksp? v.ksp).map fun k => k.rf).getD 1)
      else if c.desc.opc = opStagePublish then s.runPublish c v (((s.ksp? v.ksp).map fun k => k.rf).getD 1)
      else (s.dropStaged v.handle).finish c {} []

theorem State.dispatch_staged {s : State} {c : OpCtx} (h : s.Unheld c) (h1 : 0x0D ≤ c.desc.opc) (h2 : c.desc.opc ≤ 0x0F) :
    s.dispatch c = s.stagedGo c (s.kv.staged.find? fun v => v.handle == handleOf c.desc && v.tenant == c.tenant) := by
  have hs : c.desc.opc ≠ opSnapOpen ∧ c.desc.opc ≠ opSnapClose ∧ c.desc.opc ≠ opBarrier := by
    unfold opSnapOpen opSnapClose opBarrier; omega
  obtain ⟨h3, h4, h5⟩ := hs
  unfold State.dispatch
  dsimp only
  rw [if_neg h.goes, if_neg (by simp [h3, h4, h5]), if_neg h3, if_neg h4, if_neg h5,
    if_pos (by unfold opStageData opStagePublish opStageDiscard; omega)]
  cases s.kv.staged.find? fun v => v.handle == handleOf c.desc && v.tenant == c.tenant <;> rfl

/-- How an operation goes on in a keyspace that is its tenant's, on Wards that this part owns. -/
def State.hereGo (s : State) (c : OpCtx) : State :=
  if c.desc.opc = opScan then s.runScan c
  else if c.desc.opc = opStageOpen ∧ 4096 ≤ s.kv.staged.length then s.fail c stStageLimit
  else if isRead c.desc.opc then s.runRead c
  else if isMut c.desc.opc then s.runMut c (((s.ksp? c.desc.ksp).map fun k => k.rf).getD 1)
  else if c.desc.opc = opBatch then s.runBatch c (((s.ksp? c.desc.ksp).map fun k => k.rf).getD 1)
  else s.runStageOpen c

theorem State.dispatch_here {s : State} {c : OpCtx} (h : s.Unheld c) (ho : c.desc.opc < 0x0D ∨ c.desc.opc = opScan) (hn : c.reqNo = 0)
    (hk : s.kspCheck c.desc.ksp c.tenant s.slotLoaded = none)
    (hr : s.route c (if c.desc.opc = opScan then s.scanWards c else s.wardsOf c) (((s.ksp? c.desc.ksp).map fun k => k.rf).getD 1) = .here) :
    s.dispatch c = s.hereGo c := by
  have hs : c.desc.opc ≠ opSnapOpen ∧ c.desc.opc ≠ opSnapClose ∧ c.desc.opc ≠ opBarrier ∧
      ¬(c.desc.opc = opStageData ∨ c.desc.opc = opStagePublish ∨ c.desc.opc = opStageDiscard) := by
    unfold opSnapOpen opSnapClose opBarrier opStageData opStagePublish opStageDiscard
    unfold opScan at ho
    omega
  obtain ⟨h1, h2, h3, h4⟩ := hs
  have hksp := s.kspOf_plain (d := c.desc) (by unfold opScan at ho; omega)
  unfold State.dispatch
  dsimp only
  rw [if_neg h.goes, if_neg (by simp [h1, h2, h3]), if_neg h1, if_neg h2, if_neg h3, if_neg h4, hk]
  dsimp only
  rw [hksp, hr]
  dsimp only
  rw [s.ranBefore_none hn]
  rfl

/-! ### Ends -/

/-- A status that is no INTERNAL_FAULT ends an operation without an event. -/
theorem State.fail_plain (s : State) (c : OpCtx) {st : Nat} (h : st ≠ stInternalFault) : s.fail c st = s.finish c { status := st } [] := by
  unfold State.fail
  rw [if_neg h]

/-- The end of an operation of a ring, in a state where the ring stands as when the operation was fetched. -/
theorem Ends.finish {u w : State} {c : OpCtx} {f n : Nat} {r : Res} {ps : List (Nat × Bytes)} (hs : c.src = .ring f n) (ho : c.orphan = false)
    (hz : c.poison = []) (hg : c.gen = u.rg f n .hqRingStat_gen) (hr : SameRing f n u w) (hw : ∀ o ∈ u.out, o ∈ w.out) :
    Safety.Ends u f n c.desc c.fx c.id r ps (w.finish c r ps) := by
  obtain ⟨h1, h2, h3, h4⟩ := w.finish_ring c f n r ps hs ho hz
  rw [hr.1 .hqCqBase_addr (Or.inr rfl), hr.1 .hqRingStat_cqTail (Or.inl rfl), hr.1 .hqRingStat_sqHead (Or.inl rfl), hr.2, hg] at h2
  exact ⟨h2, h1, fun o ho => h3 o (hw o ho), fun e he => (h4 e he).1⟩

/-- The end of a command does not ask for the opcode that its descriptor stands under. -/
theorem Ends.named {u t : State} {f n id o : Nat} {d : Desc} {x : Fetched} {r : Res} {ps : List (Nat × Bytes)}
    (h : Safety.Ends u f n { d with opc := o } x id r ps t) : Safety.Ends u f n d x id r ps t := h

theorem State.fetchOne_gen (s : State) (f n : Nat) (d : Desc) (x : Fetched) (ph : Phase) :
    (s.ringCtx f n d x ph).gen = (s.fetchOne f n d x ph).rg f n .hqRingStat_gen :=
  (s.fetchOne_stat f n d x ph .hqRingStat_gen rfl (by decide)).symm

theorem State.fetchOne_kv (s : State) (f n : Nat) (d : Desc) (x : Fetched) (ph : Phase) :
    (s.fetchOne f n d x ph).kv = { s.kv with ctxs := s.kv.ctxs ++ [s.ringCtx f n d x ph], nextCtx := s.kv.nextCtx + 1 } := by
  unfold State.fetchOne
  rw [State.modRing_kv, State.rp_kv, State.rp_kv]
  rfl

@[simp] theorem State.fetchOne_leases (s : State) (f n : Nat) (d : Desc) (x : Fetched) (ph : Phase) : (s.fetchOne f n d x ph).kv.leases = s.kv.leases := by
  rw [s.fetchOne_kv]

@[simp] theorem State.fetchOne_staged (s : State) (f n : Nat) (d : Desc) (x : Fetched) (ph : Phase) : (s.fetchOne f n d x ph).kv.staged = s.kv.staged := by
  rw [s.fetchOne_kv]

@[simp] theorem State.fetchOne_handle (s : State) (f n : Nat) (d : Desc) (x : Fetched) (ph : Phase) : (s.fetchOne f n d x ph).kv.handle = s.kv.handle := by
  rw [s.fetchOne_kv]

/-- The context of a fetched command stands in the engine. -/
theorem State.fetchOne_mem (s : State) (f n : Nat) (d : Desc) (x : Fetched) (ph : Phase) :
    s.ringCtx f n d x ph ∈ (s.fetchOne f n d x ph).kv.ctxs := by
  rw [s.fetchOne_kv]
  simp

/-- A ring's data command that may be fetched is admitted. -/
theorem exec_admit {s : State} {f n : Nat} {d : Desc} {x : Fetched} {p : Instr × Nat} (hp : p ∈ dataOps (.ring f n) d x) (hn : n ≠ 64)
    (hm : s.mayFetch f n = true) :
    exec p.1 s = done dataParts dataRegs s
      ((s.fetchOne f n { d with opc := p.2 } x .held).admitCtx (s.ringCtx f n { d with opc := p.2 } x .held)) := by
  rw [exec_arrive hp s, s.arrive_ring _ _ _ _ _ hm hn]

end Sys2Proof.Machine
end

section
/-!
SUPPORT. Snapshots and their leases (chapter 02, R26, R84 to R87).
-/

namespace Sys2Proof.Machine

/-- Without an entry to a power state there is none to break off (R160). -/
theorem State.breakSlumber_none {s : State} (h : s.power.entry = none) : s.breakSlumber = s := by
  unfold State.breakSlumber
  rw [h]
  rfl

/-- The lease of a snapshot that waits for its stamp (R86). -/
def State.reserved (s : State) (c : OpCtx) (stamp : Nat) : State :=
  { s with kv := { s.kv with leases := s.kv.leases ++ [{ tenant := c.tenant, stamp := stamp, reserved := true }] } }

theorem State.runSnapOpen_waits {s : State} {c : OpCtx} {stamp : Nat} (hl : s.kv.leases.length < 1024) (ht : s.snapStamp = some stamp)
    (hr : s.retainUs ≠ 0) (hp : s.power.entry = none) :
    s.runSnapOpen c = (s.reserved c stamp).modCtx c.id fun c => { c with phase := .snapOpen, ponr := true, stamp := stamp } := by
  unfold State.runSnapOpen
  rw [if_neg (Nat.not_le.2 hl), ht]
  dsimp only
  rw [if_neg hr]
  exact congrArg (fun v => State.modCtx v c.id _) (State.breakSlumber_none (s := s.reserved c stamp) hp)

/-- A tenant's recorded leases at a stamp go (R87). -/
def State.closed (s : State) (tenant stamp : Nat) : State :=
  { s with kv := { s.kv with leases := s.kv.leases.filter fun l => !(l.tenant == tenant && l.stamp == stamp && !l.reserved) } }

theorem State.closed_kv (s : State) (tenant stamp : Nat) : (s.closed tenant stamp).kv.leases =
    s.kv.leases.filter fun l => !(l.tenant == tenant && l.stamp == stamp && !l.reserved) := rfl

theorem State.runSnapClose_eq (s : State) (c : OpCtx) :
    s.runSnapClose c = (s.closed c.tenant c.desc.snap).finish c { status := 0, rlen := 0, rstamp := c.desc.snap, origin := s.memberId } [] := by
  unfold State.runSnapClose
  rw [← memberId_congr (s := s) (t := s.closed c.tenant c.desc.snap) rfl]
  rfl

/-- SNAPSHOT_CLOSE ends with its stamp, and its lease is gone. -/
theorem State.runSnapClose_spec {u : State} {c : OpCtx} {f n : Nat} (hs : c.src = .ring f n) (ho : c.orphan = false) (hz : c.poison = [])
    (hg : c.gen = u.rg f n .hqRingStat_gen) :
    (u.runSnapClose c).kv.leases = u.kv.leases.filter (fun l => !(l.tenant == c.tenant && l.stamp == c.desc.snap && !l.reserved)) ∧
      Safety.Ends u f n c.desc c.fx c.id { status := 0, rlen := 0, rstamp := c.desc.snap, origin := u.memberId } [] (u.runSnapClose c) := by
  rw [State.runSnapClose_eq]
  refine ⟨?_, Ends.finish hs ho hz hg (sameRing_regs rfl rfl) fun _ ho => ho⟩
  rw [(endKeeps_finish _ _ _ _).kv]
  exact u.closed_kv c.tenant c.desc.snap

/-- The recorded leases of a tenant at a stamp that a clock has reached go (R87). -/
def State.expired (s : State) (tenant stamp clock : Nat) : State :=
  { s with kv := { s.kv with leases := s.kv.leases.filter fun l => !(l.tenant == tenant && l.stamp == stamp && !l.reserved && decide (l.expiry ≤ clock)) } }

theorem State.expired_clk (s : State) (tenant stamp clock : Nat) : (s.expired tenant stamp clock).clk = s.clk := rfl

theorem State.expired_kv (s : State) (tenant stamp clock : Nat) : (s.expired tenant stamp clock).kv =
    { s.kv with leases := s.kv.leases.filter fun l => !(l.tenant == tenant && l.stamp == stamp && !l.reserved && decide (l.expiry ≤ clock)) } := rfl

theorem exec_leaseExpiry_eq {s : State} {tenant stamp : Nat} {l : Lease} (hs : s.serving = true)
    (hl : s.kv.leases.find? (fun l => l.tenant == tenant && l.stamp == stamp && !l.reserved) = some l) :
    exec (.leaseExpiry tenant stamp) s = done [.clk, .kv] [] s ((s.waitTai (taiOfUs (l.expiry / 4096))).expired tenant stamp l.expiry) := by
  have e : exec (.leaseExpiry tenant stamp) s = execLeaseExpiry tenant stamp s := rfl
  have hl' : s.kv.leases.find? (fun l => l.at_ tenant stamp) = some l := hl
  rw [e]
  unfold execLeaseExpiry
  rw [hl']
  dsimp only
  rw [when_of hs]
  rfl

/-- The clock of a lease's expiry is reached, and the lease goes (R87). -/
theorem exec_leaseExpiry {s : State} {tenant stamp : Nat} {l : Lease} (hs : s.serving = true)
    (hl : s.kv.leases.find? (fun l => l.tenant == tenant && l.stamp == stamp && !l.reserved) = some l) :
    ∃ t : State, exec (.leaseExpiry tenant stamp) s = .next t ∧
      t.kv = { s.kv with leases := s.kv.leases.filter fun y => !(y.tenant == tenant && y.stamp == stamp && !y.reserved && decide (y.expiry ≤ l.expiry)) } ∧
      (s.incr ≠ 0 → taiOfUs (l.expiry / 4096) ≤ t.clk.tai) := by
  rw [exec_leaseExpiry_eq hs hl]
  refine answers ⟨?_, fun h => ?_⟩
  · rw [kv_reach rfl, State.expired_kv, State.waitTai_kv]
  · rw [tai_reach rfl, State.expired_clk]
    exact State.waitTai_reaches h _

section ring

variable {s : State} {f n : Nat} {d : Desc} {x : Fetched} (hn : n ≠ 64) (hm : s.mayFetch f n = true)
include hn hm

/-- A snapshot that may be opened reserves its lease and waits for its stamp (R86). -/
theorem exec_snapshotOpen {stamp : Nat} (hf : Safety.Free (s.fetchOne f n { d with opc := 0x11 } x .held) (s.ringCtx f n { d with opc := 0x11 } x .held))
    (hj : (s.fetchOne f n { d with opc := 0x11 } x .held).notJoined = false) (hl : s.kv.leases.length < 1024)
    (ht : (s.fetchOne f n { d with opc := 0x11 } x .held).snapStamp = some stamp) (hr : (s.fetchOne f n { d with opc := 0x11 } x .held).retainUs ≠ 0)
    (hp : s.power.entry = none) :
    ∃ t : State, exec (.snapshotOpen (.ring f n) d x) s = .next t ∧
      t.kv.leases = s.kv.leases ++ [{ tenant := f, stamp := stamp, reserved := true }] ∧ (∀ o ∈ s.out, o ∈ t.out) ∧
      ∃ e ∈ t.kv.ctxs, e.id = (s.ringCtx f n { d with opc := 0x11 } x .held).id ∧ e.phase = .snapOpen ∧ e.ponr = true ∧ e.stamp = stamp := by
  have hexec := exec_admit (d := d) (x := x) (p := (.snapshotOpen (.ring f n) d x, 0x11)) (by simp [dataOps]) hn hm
  have hkv := s.fetchOne_kv f n { d with opc := 0x11 } x .held
  have hmem := s.fetchOne_mem f n { d with opc := 0x11 } x .held
  have hpow := s.fetchOne_power f n { d with opc := 0x11 } x .held
  have hout := s.fetchOne_out f n { d with opc := 0x11 } x .held
  dsimp only at hexec
  rw [State.admit_dispatch hf.1, State.dispatch_snapOpen (State.unheld_of_free hf) hj rfl,
    State.runSnapOpen_waits (by rw [hkv]; exact hl) ht hr (by rw [hpow]; exact hp)] at hexec
  generalize s.fetchOne f n { d with opc := 0x11 } x .held = u at *
  refine ⟨_, hexec, ?_, ?_, ?_⟩
  · rw [kv_reach rfl]
    show u.kv.leases ++ _ = _
    rw [hkv]
    rfl
  · rw [out_reach rfl]
    exact fun o ho => hout ▸ ho
  · rw [kv_reach rfl]
    exact ⟨_, mem_updWhere (p := fun e : OpCtx => e.id == s.kv.nextCtx) hmem (beq_self_eq_true _), rfl, rfl, rfl, rfl⟩

/-- Every lease is taken (R86). -/
theorem exec_snapshotOpen_full (hf : Safety.Free (s.fetchOne f n { d with opc := 0x11 } x .held) (s.ringCtx f n { d with opc := 0x11 } x .held))
    (hj : (s.fetchOne f n { d with opc := 0x11 } x .held).notJoined = false) (hl : 1024 ≤ s.kv.leases.length) :
    ∃ t : State, exec (.snapshotOpen (.ring f n) d x) s = .next t ∧ t.kv.leases = s.kv.leases ∧
      Safety.Ends (s.fetchOne f n { d with opc := 0x11 } x .held) f n d x (s.ringCtx f n { d with opc := 0x11 } x .held).id { status := 0x0109 } [] t := by
  have hexec := exec_admit (d := d) (x := x) (p := (.snapshotOpen (.ring f n) d x, 0x11)) (by simp [dataOps]) hn hm
  have hkv := s.fetchOne_kv f n { d with opc := 0x11 } x .held
  have hrun : (s.fetchOne f n { d with opc := 0x11 } x .held).runSnapOpen (s.ringCtx f n { d with opc := 0x11 } x .held) =
      (s.fetchOne f n { d with opc := 0x11 } x .held).finish (s.ringCtx f n { d with opc := 0x11 } x .held) { status := stSnapLimit } [] := by
    unfold State.runSnapOpen
    rw [if_pos (by rw [hkv]; exact hl), State.fail_plain _ _ (by decide)]
  dsimp only at hexec
  rw [State.admit_dispatch hf.1, State.dispatch_snapOpen (State.unheld_of_free hf) hj rfl, hrun] at hexec
  refine ⟨_, hexec, ?_, Ends.named (Ends.settle Ends.fetched rfl rfl)⟩
  rw [kv_reach rfl, (endKeeps_finish _ _ _ _).kv, hkv]

/-- A snapshot is closed (R87). -/
theorem exec_snapshotClose (hf : Safety.Free (s.fetchOne f n { d with opc := 0x12 } x .held) (s.ringCtx f n { d with opc := 0x12 } x .held))
    (hj : (s.fetchOne f n { d with opc := 0x12 } x .held).notJoined = false) :
    ∃ t : State, exec (.snapshotClose (.ring f n) d x) s = .next t ∧
      t.kv.leases = s.kv.leases.filter (fun l => !(l.tenant == f && l.stamp == d.snap && !l.reserved)) ∧
      Safety.Ends (s.fetchOne f n { d with opc := 0x12 } x .held) f n d x (s.ringCtx f n { d with opc := 0x12 } x .held).id
        { status := 0, rlen := 0, rstamp := d.snap, origin := (s.fetchOne f n { d with opc := 0x12 } x .held).memberId } [] t := by
  have hexec := exec_admit (d := d) (x := x) (p := (.snapshotClose (.ring f n) d x, 0x12)) (by simp [dataOps]) hn hm
  dsimp only at hexec
  rw [State.admit_dispatch hf.1, State.dispatch_snapClose (State.unheld_of_free hf) hj rfl] at hexec
  obtain ⟨hleases, hends⟩ := State.runSnapClose_spec (c := s.ringCtx f n { d with opc := 0x12 } x .held) rfl rfl rfl (s.fetchOne_gen f n { d with opc := 0x12 } x .held)
  refine ⟨_, hexec, ?_, Ends.named (Ends.settle hends rfl rfl)⟩
  rw [kv_reach rfl, hleases, State.fetchOne_leases]
  rfl

/-- A member whose join has not completed answers no snapshot and no BARRIER (R26). -/
theorem exec_unjoined {p : Instr × Nat}
    (hp : p ∈ ([(.snapshotOpen (.ring f n) d x, 0x11), (.snapshotClose (.ring f n) d x, 0x12), (.barrier (.ring f n) d x, 0x13)] : List (Instr × Nat)))
    (hf : Safety.Free (s.fetchOne f n { d with opc := p.2 } x .held) (s.ringCtx f n { d with opc := p.2 } x .held))
    (hj : (s.fetchOne f n { d with opc := p.2 } x .held).notJoined = true) :
    ∃ t : State, exec p.1 s = .next t ∧ t.kv.leases = s.kv.leases ∧
      Safety.Ends (s.fetchOne f n { d with opc := p.2 } x .held) f n d x (s.ringCtx f n { d with opc := p.2 } x .held).id { status := 0x0501 } [] t := by
  have hop : p.2 = opSnapOpen ∨ p.2 = opSnapClose ∨ p.2 = opBarrier := by
    fin_cases hp
    · exact Or.inl rfl
    · exact Or.inr (Or.inl rfl)
    · exact Or.inr (Or.inr rfl)
  have hexec := exec_admit (d := d) (x := x) (p := p) (by unfold dataOps; exact List.mem_of_mem_drop (i := 16) hp) hn hm
  rw [State.admit_dispatch hf.1, State.dispatch_unjoined (State.unheld_of_free hf) hj hop, State.fail_plain _ _ (by decide)] at hexec
  refine ⟨_, hexec, ?_, Ends.named (Ends.settle Ends.fetched rfl rfl)⟩
  rw [kv_reach rfl, (endKeeps_finish _ _ _ _).kv, s.fetchOne_kv]

end ring

/-- Settles O20: one clause for each way a lease begins, ends, or is refused. -/
theorem snapshotsHoldLeases : Obligations.SnapshotsHoldLeases := by
  unfold Obligations.SnapshotsHoldLeases
  exact ⟨fun s f n d x stamp hn hm hf hj hl ht hr hp => exec_snapshotOpen hn hm hf hj hl ht hr hp,
    fun s f n d x hn hm hf hj hl => exec_snapshotOpen_full hn hm hf hj hl,
    fun s f n d x hn hm hf hj => exec_snapshotClose hn hm hf hj,
    fun s f n d x hn hm p hp hf hj => exec_unjoined hn hm hp hf hj,
    fun s tenant stamp l hs hl => exec_leaseExpiry hs hl⟩

end Sys2Proof.Machine
end

section
/-!
SUPPORT. What a mutation makes of the current version (chapter 02, R63 to R68).
-/

namespace Sys2Proof.Machine

/-! ### The entry a mutation makes (R203) -/

theorem mutEntry_put {d : Desc} (h : d.opc = 0x05 ∨ d.opc = 0x06) (v : Ver) : mutEntry d v = (.put, 0, d.vlen) := by
  rcases h with h | h <;> simp [mutEntry, h, opPatch, opAppend, opDelete, opDeleteIf]

theorem mutEntry_patch {d : Desc} (h : d.opc = 0x07) (v : Ver) : mutEntry d v = (.patch, d.offset, max v.vlen (d.offset + d.vlen)) := if_pos h

theorem mutEntry_append {d : Desc} (h : d.opc = 0x08) (v : Ver) :
    mutEntry d v = if v.present then (.patch, v.vlen, v.vlen + d.vlen) else (.put, 0, d.vlen) := by
  cases hp : v.present <;> simp [mutEntry, h, hp, opPatch, opAppend, opDelete, opDeleteIf]

theorem mutEntry_delete {d : Desc} (h : d.opc = 0x09 ∨ d.opc = 0x0A) (v : Ver) : mutEntry d v = (.tombstone, 0, 0) := by
  rcases h with h | h <;> simp [mutEntry, h, opPatch, opAppend, opDelete, opDeleteIf]

/-! ### The condition that refuses a mutation (R64) -/

theorem condHolds_modes (cond : Nat) (v : Ver) : condHolds 0 cond v = (v.present && v.stamp == cond) ∧ condHolds 1 cond v = !v.present ∧
    condHolds 2 cond v = v.present ∧ condHolds 3 cond v = (!v.present || decide (v.stamp ≤ cond)) := ⟨rfl, rfl, rfl, rfl⟩

theorem mutCond_none {d : Desc} (h : d.opc = 0x05 ∨ d.opc = 0x08) (v : Ver) : mutCond d v = none := by
  rcases h with h | h <;> simp [mutCond, firstStatus, h, opPutIf, opPatch, opDelete, opDeleteIf]

theorem mutCond_present {d : Desc} (h : d.opc = 0x07 ∨ d.opc = 0x09) (v : Ver) : mutCond d v = if v.present then none else some 0x0002 := by
  rcases h with h | h <;> cases hp : v.present <;> simp [mutCond, firstStatus, h, hp, opPutIf, opPatch, opDelete, opDeleteIf, stNotFound]

theorem mutCond_putIf {d : Desc} (h : d.opc = 0x06) (v : Ver) : mutCond d v = if condHolds (d.flg / 4 % 4) d.cond v then none else some 0x0003 := by
  have hm : cmode d.flg = d.flg / 4 % 4 := rfl
  cases hc : condHolds (d.flg / 4 % 4) d.cond v <;> simp [mutCond, firstStatus, h, hm, hc, opPutIf, opPatch, opDelete, opDeleteIf, stCondFalse]

theorem mutCond_deleteIf {d : Desc} (h : d.opc = 0x0A) (v : Ver) :
    mutCond d v = if condHolds (d.flg / 4 % 4) d.cond v then (if v.present then none else some 0x0002) else some 0x0003 := by
  have hm : cmode d.flg = d.flg / 4 % 4 := rfl
  cases hc : condHolds (d.flg / 4 % 4) d.cond v <;> cases hp : v.present <;>
    simp [mutCond, firstStatus, h, hm, hc, hp, opPutIf, opPatch, opDelete, opDeleteIf, stCondFalse, stNotFound]

/-- A mutation that meets none of the refusals before its condition, and whose condition refuses it, ends with the current version's
description (R55, R105). -/
theorem State.runMut_refused {s : State} {c : OpCtx} {st : Nat} {v : Ver} (rf : Nat) (hv : v = s.curVer c.desc.ksp (keyOf c.desc c.fx))
    (hn : needsCur c.desc.opc = true) (hb : v.bad = false) (hl : ∀ l, v.leaf = some l → l.rebuild = false) (hm : s.missing c v [] = [])
    (hlen : mutLength c.desc v = false) (hro : s.media.readOnly = false) (hsp : addsData c.desc.opc = true → s.noSpace = false)
    (ha : s.askStamp ≠ .refused) (hc : mutCond c.desc v = some st) :
    s.runMut c rf = (s.useVer c v).finish (c.using v) (resOfVer st v) [] := by
  have hleaf : (v.leaf.any fun l => l.rebuild) = false := by
    cases hl' : v.leaf with
    | none => rfl
    | some l => exact hl l hl'
  have hspace : ¬(addsData c.desc.opc = true ∧ s.noSpace = true) := by
    rintro ⟨h1, h2⟩
    rw [hsp h1] at h2
    cases h2
  unfold State.runMut
  simp only [hn, if_true, ← hv, hleaf, hb, hm, hlen, hro, hspace, ha, hc, Bool.false_eq_true, false_and, and_false, or_self, if_false, List.isEmpty_nil,
    Bool.not_true]

/-- Settles O17: the entry and the condition of each opcode, and the end of a mutation that its condition refuses. -/
theorem mutationsFollowTheirOpcode : Obligations.MutationsFollowTheirOpcode := by
  unfold Obligations.MutationsFollowTheirOpcode
  exact ⟨fun _ v h => mutEntry_put h v, fun _ v h => mutEntry_patch h v, fun _ v h => mutEntry_append h v, fun _ v h => mutEntry_delete h v,
    fun _ v h => mutCond_none h v, fun _ v h => mutCond_present h v, fun _ v h => mutCond_putIf h v, fun _ v h => mutCond_deleteIf h v, condHolds_modes,
    fun _ _ rf _ _ hv hn hb hl hm hlen hro hsp ha hc => State.runMut_refused rf hv hn hb hl hm hlen hro hsp ha hc⟩

end Sys2Proof.Machine
end

section
/-!
SUPPORT. Reads that have nothing to wait for (chapter 02, R49, R54, R57 to R60, R84).
-/

namespace Sys2Proof.Machine

/-! ### The result of a read (R57 to R60) -/

/-- An absent version. -/
theorem State.readRes_absent (s : State) (d : Desc) (g cap : Nat) {v : Ver} (h : v.present = false) :
    s.readRes d g v cap = ({ status := 0x0002, rstamp := v.stamp, origin := v.origin }, []) := by
  unfold State.readRes
  rw [h]
  rfl

section present

variable (s : State) {d : Desc} (g cap : Nat) {v : Ver} (h : v.present = true)
include h

theorem State.readRes_get (ho : d.opc = 0x01) : s.readRes d g v cap =
    ({ status := if cap < v.vlen then 0x0001 else 0, rlen := v.vlen, rstamp := v.stamp, origin := v.origin }, v.data.take cap) := by
  simp only [State.readRes, h, Bool.not_true, Bool.false_eq_true, if_false, ho, opGet, if_true]
  rfl

theorem State.readRes_getRange (ho : d.opc = 0x02) (hv : d.offset ≤ v.vlen) : s.readRes d g v cap =
    ({ status := if cap < min d.vlen (v.vlen - d.offset) then 0x0001 else 0, rlen := min d.vlen (v.vlen - d.offset),
       rstamp := v.stamp, origin := v.origin }, ((v.data.drop d.offset).take (min d.vlen (v.vlen - d.offset))).take cap) := by
  simp only [State.readRes, h, Bool.not_true, Bool.false_eq_true, if_false, ho, opGet, opGetRange, if_neg (Nat.not_lt.2 hv)]
  rfl

theorem State.readRes_getRange_beyond (ho : d.opc = 0x02) (hv : v.vlen < d.offset) : s.readRes d g v cap = ({ status := 0x0102 }, []) := by
  simp only [State.readRes, h, Bool.not_true, Bool.false_eq_true, if_false, ho, opGet, opGetRange, if_pos hv]
  rfl

theorem State.readRes_exists (ho : d.opc = 0x03) :
    s.readRes d g v cap = ({ status := 0, rlen := v.vlen, rstamp := v.stamp, origin := v.origin }, []) := by
  simp only [State.readRes, h, Bool.not_true, Bool.false_eq_true, if_false, ho, opGet, opGetRange, opGetMeta, Nat.not_lt_zero]
  rfl

theorem State.readRes_getMeta (ho : d.opc = 0x04) :
    s.readRes d g v cap = ({ status := 0, rlen := v.vlen, rstamp := v.stamp, origin := v.origin }, s.metaRecord d.ksp g v) := by
  simp only [State.readRes, h, Bool.not_true, Bool.false_eq_true, if_false, ho, opGet, opGetRange, opGetMeta, Nat.not_lt_zero]
  rfl

end present

/-! ### A read that its own descriptor dates (R49, R84) -/

/-- The operation as it reads at a stamp. -/
def OpCtx.readAt (c : OpCtx) (t : Nat) : OpCtx := { c with ponr := true, readT := t }

/-- The stamp a read looks at: the greatest assigned one, or SNAP. -/
def State.readStamp (s : State) (d : Desc) : Nat := if d.snap = 0 then s.lastStamp else d.snap

/-- A read whose stamp is not too old and has passed looks at once. -/
theorem State.runRead_reads {s : State} {c : OpCtx} (h : c.desc.snap ≠ 0 → s.tooOld c.desc.snap = false ∧ s.passed c.desc.snap = true) :
    s.runRead c = (s.modCtx c.id fun e => e.readAt (s.readStamp c.desc)).readStep (c.readAt (s.readStamp c.desc)) := by
  have hold : ¬(c.desc.snap ≠ 0 ∧ s.tooOld c.desc.snap = true) := fun ⟨h0, h1⟩ => by rw [(h h0).1] at h1; cases h1
  have hpass : ¬(c.desc.snap ≠ 0 ∧ (!(s.modCtx c.id fun e => e.readAt (s.readStamp c.desc)).passed c.desc.snap) = true) := fun ⟨h0, h1⟩ => by
    rw [passed_congr (s := s.modCtx c.id _) (t := s) rfl, (h h0).2] at h1
    cases h1
  unfold State.runRead
  dsimp only
  rw [if_neg hold]
  exact if_neg hpass

/-- A read of a ring with nothing left to wait for ends with what it found. -/
theorem State.admit_readAt {u : State} {c : OpCtx} {f n : Nat} {key : Bytes} {v : Ver} {e : List Nat} (hr : Safety.Runs u c) (hn : c.reqNo = 0)
    (ho : isRead c.desc.opc = true) (hs : c.src = .ring f n) (hq : c.orphan = false) (hz : c.poison = []) (hlf : c.leaves = [])
    (hg : c.gen = u.rg f n .hqRingStat_gen) (hk : keyOf c.desc c.fx = key)
    (hsnap : c.desc.snap ≠ 0 → u.tooOld c.desc.snap = false ∧ u.passed c.desc.snap = true)
    (hv : u.readVer c.desc.ksp key (u.readStamp c.desc) = v) (he : extsFor v (wantBytes c.desc v).1 (wantBytes c.desc v).2 = e)
    (h1 : u.intentOn c.desc.ksp key = false) (h2 : v.bad = false) (h3 : ∀ l, v.leaf = some l → l.rebuild = false)
    (h4 : u.missing c v e = []) (h5 : ∀ q ∈ v.recs ++ e, lostAt u.media c q = false) (h6 : v.unacked = false) :
    Safety.Ends u f n c.desc c.fx c.id (u.readRes c.desc (u.digest c.desc.ksp key) v (sglLen (resultSgl c.desc c.fx))).1
      [(0, (u.readRes c.desc (u.digest c.desc.ksp key) v (sglLen (resultSgl c.desc c.fx))).2)] (u.admitCtx c) := by
  obtain ⟨w, hw⟩ : ∃ w, w = u.modCtx c.id fun e => e.readAt (u.readStamp c.desc) := ⟨_, rfl⟩
  have hread : w.readVer c.desc.ksp key (u.readStamp c.desc) ((c.readAt (u.readStamp c.desc)).heldLeaf (w.digest c.desc.ksp key)) = v := by
    rw [OpCtx.heldLeaf_none (c := c.readAt (u.readStamp c.desc)) hlf, hw]
    exact (State.readVer_congr (s := u.modCtx c.id _) (t := u) rfl rfl rfl rfl _ _ _ _).trans hv
  have hfill : w.fillingTo c.desc.ksp key (u.readStamp c.desc) = false := by
    rw [hw]
    exact State.fillingTo_none (ks := u.keysOf c) hr.2.2.1 (hk ▸ u.keysOf_read ho) _
  have hends := w.readStep_ends (c.readAt (u.readStamp c.desc)) hk hread he (by rw [hw]; exact h1) hfill h2 h3 (by rw [hw]; exact h4)
    (by rw [hw]; exact h5) h6
  rw [u.admit_key c hr hn (Or.inl ho), if_pos ho, State.runRead_reads hsnap, ← hw, hends]
  obtain ⟨hring, hout, -⟩ := w.useVer_spec (c.readAt (u.readStamp c.desc)) v f n
  have hsame : SameRing f n u (w.useVer (c.readAt (u.readStamp c.desc)) v) := (hw ▸ sameRing_regs rfl rfl : SameRing f n u w).trans hring
  have hres : w.readRes c.desc (w.digest c.desc.ksp key) v (sglLen (resultSgl c.desc c.fx)) =
      u.readRes c.desc (u.digest c.desc.ksp key) v (sglLen (resultSgl c.desc c.fx)) := by rw [hw]; rfl
  have hmade : ∀ o ∈ u.out, o ∈ (w.useVer (c.readAt (u.readStamp c.desc)) v).out := fun o ho => by rw [hout, hw]; exact ho
  dsimp only [OpCtx.readAt] at hsame hmade ⊢
  rw [hres]
  exact Ends.finish (c := OpCtx.using _ v) hs hq hz hg hsame hmade

/-- Settles O15: reads through the stamp their descriptor names, and the result of each opcode. -/
theorem readsAnswerTheCurrentVersion : Obligations.ReadsAnswerTheCurrentVersion := by
  unfold Obligations.ReadsAnswerTheCurrentVersion
  refine ⟨fun s f n d x hn hm p hp => ?_, fun s d g cap v => ⟨s.readRes_absent d g cap, s.readRes_get g cap, s.readRes_getRange g cap,
    s.readRes_getRange_beyond g cap, s.readRes_exists g cap, s.readRes_getMeta g cap⟩⟩
  intro c u v e a hr hsnap h1 h2 h3 h4 h5 h6
  have hread : isRead p.2 = true := by
    fin_cases hp <;> rfl
  have hexec := exec_admit (d := d) (x := x) (p := p) (by unfold dataOps; exact List.mem_of_mem_take (i := 4) hp) hn hm
  exact ⟨_, hexec, Ends.named (Ends.settle (State.admit_readAt hr rfl hread rfl rfl rfl rfl (s.fetchOne_gen _ _ _ _ _) rfl hsnap rfl rfl h1 h2 h3 h4 h5 h6) rfl rfl)⟩

end Sys2Proof.Machine
end

section
/-!
SUPPORT. A batch that only reads, and a BARRIER that its end completes (chapter 02, R70 to R76, R94, R209).
-/

namespace Sys2Proof.Machine

/-- A part at READY whose PF has ring 3 ACTIVE and keyspace 18, with a PUT in its Tun to which a BARRIER of ring 4 refers. -/
def barrierRefers : State :=
  let s : State := { clk := ⟨0, 1700000000000000000 * 4294967296⟩, power := { stage := 10, ready := true }, tun := { sizeMib := 2048, replayDone := true },
                     index := { slots := 4096 }, media := { luns := [{ n := 0, state := .accepted }] }, host := { linkUp := true } }
  let s := ((((((s.modRing 0 3 id).rp 0 3 .hqRingCtrl_sizeLog2 8).rp 0 3 .hqRingCtrl_enable 1).rp 0 3 .hqRingStat_state 1).fput .hqFuncCtrl_enable 1).fput
    .cipKpSlotStat_loaded 1)
  { s with
    kv := { s.kv with
      keyspaces := [{ ksp := 18, tenant := 0, rf := 1, slot := 0, salt := 4660, created := 0 }]
      ctxs := [{ id := 0, pool := .host, src := .ring 0 4, tenant := 0, desc := { opc := 0x13 }, phase := .barrier, refs := [0] }]
      nextCtx := 1, lastU := 1000 }
    tun := { s.tun with
      entries := [{ id := 0, kind := .put, state := .live, ksp := 18, key := [97#8], origin := 0, replAck := true, stamp := 4096000, vlen := 1,
                    digest := 0, data := [120#8], refs := 1 }] } }

/-- A batch list of one EXISTS of the key "b". -/
def existsList : Bytes := packLe 81 [(0, 16, 1), (32, 32, 81), (128, 8, 3), (144, 16, 1), (320, 32, 80), (384, 32, 16), (640, 8, 98)]

/-- The batch of that list. -/
def existsBatch : Desc := { tag := 7, ksp := 18, vlen := 81, vsglCnt := 1, vsglInl := ⟨4096, 81, 0⟩, rsglCnt := 1, rsglInl := ⟨8192, 8192, 0⟩ }

/-- The batch's context, and the state that has fetched it. -/
def existsCtx : OpCtx := barrierRefers.ringCtx 0 3 { existsBatch with opc := 0x0B } { value := existsList } .held
def existsFetched : State := barrierRefers.fetchOne 0 3 { existsBatch with opc := 0x0B } { value := existsList } .held

theorem existsFetched_runs : Safety.Runs existsFetched existsCtx := by
  unfold Safety.Runs
  decide +kernel

theorem existsFetched_stamp : existsFetched.askStamp = .stamp 500380467200000000 := by decide +kernel

/-- The batch has one element: it reads, and finds its key's version with nothing to wait for. -/
theorem existsFetched_elems : ∀ e ∈ batchElems existsCtx.desc existsList, isRead e.d.opc = true ∧
    (existsFetched.curVer 18 e.key).bad = false ∧ (existsFetched.curVer 18 e.key).leaf = none ∧
    existsFetched.missing existsCtx (existsFetched.curVer 18 e.key) (elemExts e (existsFetched.curVer 18 e.key)) = [] ∧
    (existsFetched.curVer 18 e.key).unacked = false := by decide +kernel

/-- The end of the batch completes the BARRIER, and the BARRIER lets go of the entry (R94, R209). -/
theorem existsFetched_releases : (existsFetched.admitCtx existsCtx).tun.entries.map (fun e => e.refs) = [0] := by decide +kernel

/-- Refutes O18: a batch that only reads may change the Tun's entries. Where a BARRIER that nothing is left to hold up refers to an entry, the
end of the batch completes it, and the count of references to the entry falls from 1 to 0. -/
theorem not_batchesApplyWholeOrNotAtAll : ¬ Obligations.BatchesApplyWholeOrNotAtAll := by
  unfold Obligations.BatchesApplyWholeOrNotAtAll
  intro h
  have hmay : barrierRefers.mayFetch 0 3 = true := by decide +kernel
  have hready : ∀ y ∈ (batchElems existsCtx.desc existsList).map (fun e => (e, existsFetched.curVer 18 e.key)), y.2.bad = false ∧
      (∀ l, y.2.leaf = some l → l.rebuild = false) ∧ existsFetched.missing existsCtx y.2 (elemExts y.1 y.2) = [] ∧
      (isRead y.1.d.opc = true → y.2.unacked = false) := by
    intro y hy
    obtain ⟨e, he, rfl⟩ := List.mem_map.1 hy
    obtain ⟨-, hbad, hleaf, hmissing, hacked⟩ := existsFetched_elems e he
    exact ⟨hbad, fun l hl => (by rw [hleaf] at hl; cases hl), hmissing, fun _ => hacked⟩
  obtain ⟨t, ht, -, -, hsame, -⟩ := (h barrierRefers 0 3 existsBatch { value := existsList } (by decide) hmay 500380467200000000 existsFetched_runs
    hready existsFetched_stamp).1 fun e he => (existsFetched_elems e he).1
  have hexec := exec_admit (s := barrierRefers) (d := existsBatch) (x := { value := existsList }) (p := (.batch (.ring 0 3) existsBatch { value := existsList }, 0x0B))
    (by simp [dataOps]) (by decide) hmay
  have htun : t.tun = (existsFetched.admitCtx existsCtx).tun := by
    rw [show t = _ from (Host.Outcome.next.inj (ht.symm.trans hexec))]
    exact tun_reach rfl
  have hrefs : (existsFetched.admitCtx existsCtx).tun.entries.map (fun e => e.refs) = barrierRefers.tun.entries.map fun e => e.refs := by
    rw [← htun, hsame]
  rw [existsFetched_releases] at hrefs
  exact absurd hrefs (by decide)

end Sys2Proof.Machine
end

section
/-!
SUPPORT. Placing an item in flash (R249 to R253, R259) changes the media engine alone, and no item that is there.
-/

namespace Sys2Proof.Machine

/-- `t` is `s` but for the media engine, whose items are the same. -/
structure Placing (s t : State) : Prop where
  rest : t = { s with media := t.media }
  items : t.media.items = s.media.items

theorem Placing.refl (s : State) : Placing s s := ⟨rfl, rfl⟩

theorem Placing.trans {s t u : State} (h : Placing s t) (k : Placing t u) : Placing s u where
  rest := k.rest.trans (by rw [h.rest])
  items := k.items.trans h.items

theorem Placing.foldl {α : Type} (g : State → α → State) (h : ∀ s a, Placing s (g s a)) (l : List α) (s : State) : Placing s (l.foldl g s) := by
  induction l generalizing s with
  | nil => exact Placing.refl s
  | cons a l ih => exact (h s a).trans (ih _)

theorem placing_modSet (s : State) (w : Nat) (f : TSet → TSet) : Placing s (s.modSet w f) := ⟨rfl, rfl⟩

theorem placing_modBlock (s : State) (lun blk : Nat) (f : Block → Block) : Placing s (s.modBlock lun blk f) := by
  have h : (s.media.modBlock lun blk f).items = s.media.items := by
    unfold MediaSt.modBlock
    split <;> rfl
  exact ⟨rfl, h⟩

theorem placing_updateSpace (s : State) : Placing s s.updateSpace := by
  unfold State.updateSpace
  extract_lets next st
  split
  · exact Placing.refl s
  · exact ⟨rfl, rfl⟩

/-- A page's program is queued. -/
theorem placing_queuePage (s : State) (addr w k cls rank : Nat) : Placing s (s.queueOp .program addr (.page w k) cls rank) := ⟨rfl, rfl⟩

theorem placing_movePtr (s : State) (w p rank : Nat) : Placing s (s.movePtr w p rank) := by
  unfold State.movePtr
  split
  · exact Placing.refl s
  · exact (placing_modSet s w _).trans (Placing.foldl _ (fun v i => placing_queuePage v _ w _ _ rank) _ _)

theorem placing_padStep (s : State) (w : Nat) : Placing s (s.padStep w) := by
  unfold State.padStep
  split
  · exact Placing.refl s
  · split
    · exact Placing.refl s
    · exact placing_movePtr _ _ _ _

theorem placing_padSet (s : State) (w rank : Nat) : Placing s (s.padSet w rank) := (placing_modSet s w _).trans (placing_padStep _ w)

theorem placing_openSet {s : State} {st : Stream} {may : Bool} {r : Nat × State} (h : s.openSet st may = some r) : Placing s r.2 := by
  unfold State.openSet at h
  extract_lets w luns wseq par data blocks t u at h
  split at h
  · cases h
  · obtain rfl := Option.some.inj h
    refine (Placing.trans ?_ (Placing.foldl _ (fun v b => placing_modBlock v _ _ _) blocks _)).trans (placing_updateSpace _)
    exact ⟨rfl, rfl⟩

theorem placing_place {s : State} {st : Stream} {units ksp rank : Nat} {whole may : Bool} {r : Nat × Nat × State}
    (h : s.place st units ksp whole rank may = some r) : Placing s r.2.2 := by
  unfold State.place at h
  extract_lets put fresh at h
  have hput : ∀ t u r, put t u = some r → Placing u r.2.2 := by
    intro t u r h
    obtain ⟨p, -, h⟩ := Option.bind_eq_some_iff.1 h
    split at h
    · obtain rfl := Option.some.inj h
      exact (placing_modSet _ _ _).trans (placing_movePtr _ _ _ _)
    · cases h
  have hfresh : ∀ u r, fresh u = some r → Placing u r.2.2 := by
    intro u r h
    obtain ⟨⟨w, v⟩, ho, h⟩ := Option.bind_eq_some_iff.1 h
    obtain ⟨t, -, h⟩ := Option.bind_eq_some_iff.1 h
    exact (placing_openSet ho).trans (hput t v r h)
  split at h
  · exact hfresh s r h
  · split at h
    · exact hput _ _ _ h
    · exact (placing_padSet _ _ _).trans (hfresh _ _ h)

/-- A stored item stands in flash at its address; the index loses at most a cached small record. -/
structure Stored (s t : State) (i : Item) (a : Nat) : Prop where
  rest : t = { s with media := t.media, index := { s.index with small := t.index.small } }
  items : ∃ w, t.media.items = s.media.items ++ [{ i with addr := a, wseq := w }]

section stored

variable {s t : State} {i : Item} {a : Nat} (h : Stored s t i a)
include h

theorem Stored.clk : t.clk = s.clk := by rw [h.rest]

theorem Stored.regs : t.regs = s.regs := by rw [h.rest]

theorem Stored.kv : t.kv = s.kv := by rw [h.rest]

theorem Stored.leaves : t.index.leaves = s.index.leaves := by rw [h.rest]

theorem Stored.leafSeq : t.index.leafSeq = s.index.leafSeq := by rw [h.rest]

theorem Stored.jseq : t.index.jseq = s.index.jseq := by rw [h.rest]

end stored

theorem stored_store {s t : State} {st : Stream} {i : Item} {whole may : Bool} {rank a : Nat} (h : s.store st i whole rank may = some (a, t)) :
    Stored s t i a := by
  obtain ⟨⟨b, w, u⟩, hp, he⟩ := Option.map_eq_some_iff.1 h
  obtain ⟨rfl, rfl⟩ := Prod.mk.inj he
  obtain ⟨hrest, hitems⟩ := placing_place hp
  dsimp only at hrest hitems
  refine ⟨?_, w, ?_⟩
  · rw [hrest]
  · dsimp only
    rw [hitems]

end Sys2Proof.Machine
end

section
/-!
SUPPORT. The write-back and the rebuild of leaves, and the checkpoint of the map (chapter 04, R189, R191, R192; chapter 06, R308).
-/

namespace Sys2Proof.Machine

/-! ### A leaf's write (R191) -/

/-- The leaf's new copy at address `a` is under way: the cached leaf stands as it is stored, with the next sequence number and the journal's mark. -/
def State.leafWriting (s : State) (l : Leaf) (a : Nat) : State :=
  ((({ s with index := { s.index with leafSeq := s.index.leafSeq + 1 } } : State).modItem a fun i =>
      { i with data := leafChain { l with seq := s.index.leafSeq + 1 } l.entries ((s.media.cwsOf a).drop 1) }).modLeaf l.ward l.pfx l.ldepth fun x =>
    { x with writing := a, seq := s.index.leafSeq + 1, storing := x.entries, mark := s.index.jseq, changes := 0 })

/-- What the write of a leaf's Ward's segment leaves alone. -/
structure SegmentKeeps (s t : State) : Prop where
  clk : t.clk = s.clk
  leaves : t.index.leaves = s.index.leaves
  leafSeq : t.index.leafSeq = s.index.leafSeq
  items : ∀ i ∈ s.media.items, ∃ j ∈ t.media.items, j.kind = i.kind ∧ j.addr = i.addr ∧ j.ward = i.ward ∧ j.pfx = i.pfx ∧ j.ldepth = i.ldepth

theorem SegmentKeeps.refl (s : State) : SegmentKeeps s s := ⟨rfl, rfl, rfl, fun i hi => ⟨i, hi, rfl, rfl, rfl, rfl, rfl⟩⟩

/-- The data of an item does not say which item it is. -/
theorem modItem_data_items (s : State) (a : Nat) (g : Item → Bytes) {i : Item} (h : i ∈ s.media.items) :
    ∃ j ∈ (s.modItem a fun i => { i with data := g i }).media.items, j.kind = i.kind ∧ j.addr = i.addr ∧ j.ward = i.ward ∧ j.pfx = i.pfx ∧ j.ldepth = i.ldepth := by
  refine ⟨_, List.mem_map_of_mem h, ?_⟩
  split <;> exact ⟨rfl, rfl, rfl, rfl, rfl⟩

/-- The write of a leaf that merges with no other, whose copy finds its place. -/
theorem State.writeLeaf_spec {s v : State} {l : Leaf} {a : Nat} (hm : s.mergeLeaf l = (l, s))
    (hs : s.store .index { addr := 0, kind := .leaf, wseq := 0, units := 256 * (1 + (l.entries.length - 1) / 96), ward := l.ward, ldepth := l.ldepth, pfx := l.pfx } true
      s.leafRank = some (a, v)) : SegmentKeeps (v.leafWriting l a) (s.writeLeaf l) := by
  unfold State.writeLeaf
  rw [hm]
  dsimp only
  rw [hs]
  show SegmentKeeps (v.leafWriting l a) (if _ then (match (v.leafWriting l a).store .index _ true _ with | none => v.leafWriting l a | some (b, s) => _) else v.leafWriting l a)
  split
  · split
    · exact SegmentKeeps.refl _
    · next b t ht =>
      have hst := stored_store ht
      obtain ⟨w, hitems⟩ := hst.items
      refine ⟨hst.clk, hst.leaves, hst.leafSeq, fun i hi => modItem_data_items t b _ ?_⟩
      rw [hitems]
      exact List.mem_append_left _ hi
  · exact SegmentKeeps.refl _

/-- A leaf's write begins (R191): its cached entries are what is stored, and its new copy is an item of flash. -/
theorem State.writeLeaf_begins {s v : State} {l : Leaf} {a : Nat} (hl : l ∈ s.index.leaves) (hm : s.mergeLeaf l = (l, s))
    (hs : s.store .index { addr := 0, kind := .leaf, wseq := 0, units := 256 * (1 + (l.entries.length - 1) / 96), ward := l.ward, ldepth := l.ldepth, pfx := l.pfx } true
      s.leafRank = some (a, v)) :
    (s.writeLeaf l).clk = s.clk ∧ (s.writeLeaf l).index.leafSeq = s.index.leafSeq + 1 ∧
      (∃ y ∈ (s.writeLeaf l).index.leaves, y.ward = l.ward ∧ y.pfx = l.pfx ∧ y.ldepth = l.ldepth ∧ y.writing = a ∧ y.seq = s.index.leafSeq + 1 ∧
        y.storing = l.entries ∧ y.mark = s.index.jseq ∧ y.changes = 0) ∧
      ∃ i ∈ (s.writeLeaf l).media.items, i.kind = .leaf ∧ i.addr = a ∧ i.ward = l.ward ∧ i.pfx = l.pfx ∧ i.ldepth = l.ldepth := by
  have hst := stored_store hs
  have hseg := State.writeLeaf_spec hm hs
  refine ⟨hseg.clk.trans hst.clk, ?_, ?_, ?_⟩
  · rw [hseg.leafSeq, ← hst.leafSeq]
    rfl
  · rw [hseg.leaves, ← hst.leafSeq, ← hst.jseq]
    exact ⟨_, mem_updWhere (p := fun x : Leaf => x.ward == l.ward && x.pfx == l.pfx && x.ldepth == l.ldepth) (hst.leaves ▸ hl) (by simp),
      rfl, rfl, rfl, rfl, rfl, rfl, rfl, rfl⟩
  · obtain ⟨w, hitems⟩ := hst.items
    have hnew : ({ addr := a, kind := .leaf, wseq := w, units := 256 * (1 + (l.entries.length - 1) / 96), ward := l.ward, ldepth := l.ldepth, pfx := l.pfx } : Item) ∈ v.media.items := by
      rw [hitems]
      exact List.mem_append_right _ List.mem_cons_self
    obtain ⟨i, hi, h1, h2, h3, h4, h5⟩ := modItem_data_items { v with index := { v.index with leafSeq := v.index.leafSeq + 1 } } a
      (fun _ => leafChain { l with seq := v.index.leafSeq + 1 } l.entries ((v.media.cwsOf a).drop 1)) hnew
    obtain ⟨j, hj, k1, k2, k3, k4, k5⟩ := hseg.items i hi
    exact ⟨j, hj, k1.trans h1, k2.trans h2, k3.trans h3, k4.trans h4, k5.trans h5⟩

/-! ### The events (R189, R192, R308) -/

/-- The leaf that an event names. -/
theorem IndexSt.leafAt_spec {x : IndexSt} {w p dep : Nat} {l : Leaf} (h : x.leafAt w p dep = some l) :
    l ∈ x.leaves ∧ l.ward = w ∧ l.pfx = p ∧ l.ldepth = dep := by
  have hp := List.find?_some h
  simp only [Bool.and_eq_true, beq_iff_eq] at hp
  obtain ⟨⟨h1, h2⟩, h3⟩ := hp
  exact ⟨List.mem_of_find?_eq_some h, h1, h2, h3⟩

/-- A leaf is written back at once where this holds (R189, R159), else when its oldest change is WB_AGE_MS old. -/
abbrev State.urgent (s : State) (l : Leaf) : Prop :=
  s.power.entry.any (fun e => e.1 == 3) = true ∨ s.fget .kveIdxCtrl_wbChanges ≤ l.changes ∨ s.journalOver (s.fget .kveIdxCtrl_wbUrgentPct) = true ∨
    s.fget .kveIdxCtrl_wbUrgentPct ≤ s.index.dirtyPct

theorem exec_leafWriteBack {s : State} {w p dep : Nat} {l : Leaf} (hl : s.index.leafAt w p dep = some l) (hm : s.mediaOn = true)
    (hd : l.dirty = true) (hw : l.writing = 0) :
    exec (.leafWriteBack w p dep) s = done [.clk, .power, .index, .media, .time, .net, .sup, .ev, .out] countRegs s
      ((if s.urgent l then s else s.waitCycle (l.oldest + s.fget .kveIdxCtrl_wbAgeMs * 600000)).writeLeaf l) := by
  have e : exec (.leafWriteBack w p dep) s = execLeafWriteBack w p dep s := rfl
  rw [e]
  unfold execLeafWriteBack
  rw [hl]
  dsimp only
  rw [when_of (by rw [hm, hd, hw]; rfl)]
  by_cases h : s.urgent l
  · rw [if_pos h, if_pos h]
  · rw [if_neg h, if_neg h]
    rfl

/-- A leaf's write begins at once, or when its oldest change is old enough. -/
theorem exec_leafWriteBack_begins {s v : State} {w p dep a : Nat} {l : Leaf} (hl : s.index.leafAt w p dep = some l)
    (hm : s.mediaOn = true) (hd : l.dirty = true) (hw : l.writing = 0) {u : State}
    (hu : u = if s.urgent l then s else s.waitCycle (l.oldest + s.fget .kveIdxCtrl_wbAgeMs * 600000)) (hmerge : u.mergeLeaf l = (l, u))
    (hs : u.store .index { addr := 0, kind := .leaf, wseq := 0, units := 256 * (1 + (l.entries.length - 1) / 96), ward := l.ward, ldepth := l.ldepth, pfx := l.pfx } true
      u.leafRank = some (a, v))
    (ht : s.urgent l ∨ s.clk.cycles ≤ l.oldest + s.fget .kveIdxCtrl_wbAgeMs * 600000) :
    ∃ t : State, exec (.leafWriteBack w p dep) s = .next t ∧ t.index.leafSeq = s.index.leafSeq + 1 ∧
      t.clk.cycles = (if s.urgent l then s.clk.cycles else l.oldest + s.fget .kveIdxCtrl_wbAgeMs * 600000) ∧
      (∃ y ∈ t.index.leaves, y.ward = w ∧ y.pfx = p ∧ y.ldepth = dep ∧ y.writing = a ∧ y.seq = s.index.leafSeq + 1 ∧ y.storing = l.entries ∧
        y.mark = s.index.jseq ∧ y.changes = 0) ∧
      ∃ i ∈ t.media.items, i.kind = .leaf ∧ i.addr = a ∧ i.ward = w ∧ i.pfx = p ∧ i.ldepth = dep := by
  obtain ⟨hmem, rfl, rfl, rfl⟩ := IndexSt.leafAt_spec hl
  have hindex : u.index = s.index := by
    rw [hu]
    split
    · rfl
    · exact s.waitCycle_index _
  have hcycles : max s.clk.cycles u.clk.cycles = if s.urgent l then s.clk.cycles else l.oldest + s.fget .kveIdxCtrl_wbAgeMs * 600000 := by
    rw [hu]
    split
    · exact Nat.max_self _
    · next h => rw [State.waitCycle_cycles, ← Nat.max_assoc, Nat.max_self, Nat.max_eq_right (ht.resolve_left h)]
  obtain ⟨hclk, hseq, hleaf, hitem⟩ := State.writeLeaf_begins (hindex ▸ hmem) hmerge hs
  rw [hindex] at hseq hleaf
  rw [exec_leafWriteBack hl hm hd hw, ← hu]
  refine answers ⟨?_, ?_, ?_, ?_⟩
  · rw [index_reach rfl]
    exact hseq
  · rw [settle_cycles _ _ _ _ rfl, hclk]
    exact hcycles
  · rw [index_reach rfl]
    exact hleaf
  · rw [media_reach rfl]
    exact hitem

/-- A rebuilt leaf stands dirty in the cache, and an event says so (R192). -/
theorem exec_leafRebuildDone {s : State} {w p dep : Nat} {l : Leaf} (hl : s.index.leafAt w p dep = some l) (hs : s.serving = true) (hr : l.rebuild = true) :
    ∃ t : State, exec (.leafRebuildDone w p dep) s = .next t ∧
      t.index.leaves = updWhere (fun y => y.ward == w && y.pfx == p && y.ldepth == dep)
        (fun y => leafChanged s.clk.cycles { y with rebuild := false }) s.index.leaves ∧
      t.ev = (s.report .leafRebuildEnd l.addr).ev := by
  have e : exec (.leafRebuildDone w p dep) s = execLeafRebuildDone w p dep s := rfl
  rw [e]
  unfold execLeafRebuildDone
  rw [hl]
  dsimp only
  rw [when_of (by rw [hs, hr]; rfl)]
  refine answers ⟨?_, ?_⟩
  · rw [index_reach rfl, State.report_index]
    rfl
  · rw [ev_reach rfl]
    exact report_ev_congr (s := s.modLeaf w p dep _) (t := s) rfl rfl _ _ _

theorem leafChanged_spec (now : Nat) (l : Leaf) : (leafChanged now l).dirty = true ∧ (leafChanged now l).cached = true ∧
    (leafChanged now l).changes = l.changes + 1 ∧ (leafChanged now l).oldest = (if l.changes = 0 then now else l.oldest) ∧
    (leafChanged now l).entries = l.entries := ⟨rfl, rfl, rfl, rfl, rfl⟩

/-- A checkpoint of the map raises both floors (R308, R79, R442). -/
theorem exec_mediaMapCheckpoint {s : State} (hr : s.ready = true) (hf : s.hasFlash = true) (hp : s.power.pstate ≠ 3) :
    ∃ t : State, exec .mediaMapCheckpoint s = .next t ∧ t.media.handleFloor = (s.kv.handle + 1048576) % 2 ^ 32 ∧
      t.media.stampFloor = max s.media.stampFloor (if s.kv.lastU = 0 then 1 else s.kv.lastU + 120000000) ∧ t.media.checkpointAt = s.clk.cycles ∧
      t.media.items = s.media.items ∧ t.media.sets = s.media.sets ∧ t.media.blocks = s.media.blocks := by
  have e : exec .mediaMapCheckpoint s = execMediaMapCheckpoint s := rfl
  rw [e]
  unfold execMediaMapCheckpoint
  rw [when_of (by rw [hr, hf, decide_eq_true hp]; rfl)]
  refine answers ?_
  rw [media_reach rfl]
  exact ⟨rfl, rfl, rfl, rfl, rfl, rfl⟩

/-- Settles O28: the write of a leaf begins, a rebuilt leaf stands again, and a checkpoint raises the floors. -/
theorem leavesAreWrittenBackAndRebuilt : Obligations.LeavesAreWrittenBackAndRebuilt := by
  unfold Obligations.LeavesAreWrittenBackAndRebuilt
  refine ⟨fun s w p dep a l v hl hm hd hw => ?_, fun s w p dep l hl hs hr => exec_leafRebuildDone hl hs hr, leafChanged_spec,
    fun s hr hf hp => exec_mediaMapCheckpoint hr hf hp⟩
  intro urgent u hmerge hs ht
  exact exec_leafWriteBack_begins hl hm hd hw rfl hmerge hs ht

end Sys2Proof.Machine
end

section
/-!
SUPPORT. The part leaves Nap (R161): its ports become active, which the engines of the key-value store do not see.
-/

namespace Sys2Proof.Machine

/-- `t` has the clock, the key-value engine, the index, the Tun, the media and the Town of `s`, and its registers but for the port counters. -/
structure PortsOnly (s t : State) : Prop where
  clk : t.clk = s.clk
  kv : t.kv = s.kv
  index : t.index = s.index
  tun : t.tun = s.tun
  media : t.media = s.media
  town : t.town = s.town
  reg : ∀ q : RegKey, q.name ∉ [RegName.netCnt, .netCntHalf] → t.reg q = s.reg q

theorem PortsOnly.refl (s : State) : PortsOnly s s := ⟨rfl, rfl, rfl, rfl, rfl, rfl, fun _ _ => rfl⟩

theorem PortsOnly.trans {s t u : State} (h : PortsOnly s t) (k : PortsOnly t u) : PortsOnly s u :=
  ⟨k.clk.trans h.clk, k.kv.trans h.kv, k.index.trans h.index, k.tun.trans h.tun, k.media.trans h.media, k.town.trans h.town,
    fun q hq => (k.reg q hq).trans (h.reg q hq)⟩

theorem PortsOnly.ite {c : Prop} [Decidable c] {s t u : State} (h : PortsOnly s t) (k : PortsOnly s u) : PortsOnly s (if c then t else u) := by
  split
  · exact h
  · exact k

theorem PortsOnly.foldl {α : Type} (g : State → α → State) (h : ∀ s a, PortsOnly s (g s a)) (l : List α) (s : State) : PortsOnly s (l.foldl g s) := by
  induction l generalizing s with
  | nil => exact PortsOnly.refl s
  | cons a l ih => exact (h s a).trans (ih _)

theorem PortsOnly.memberId {s t : State} (h : PortsOnly s t) : t.memberId = s.memberId := by
  unfold State.memberId State.fget
  rw [h.reg _ (by decide)]

theorem portsOnly_fput (s : State) {x : Fld} (hx : x.reg ∈ [RegName.netCnt, .netCntHalf]) (v i j k : Nat) : PortsOnly s (s.fput x v i j k) :=
  ⟨State.fput_clk _ _ _ _ _ _, State.fput_kv _ _ _ _ _ _, State.fput_index _ _ _ _ _ _, State.fput_tun _ _ _ _ _ _, State.fput_media _ _ _ _ _ _,
    State.fput_town _ _ _ _ _ _, fun q hq => State.reg_fput_other _ _ _ _ _ _ fun h => hq (by rw [h]; exact hx)⟩

theorem portsOnly_netCount (s : State) (p c n : Nat) : PortsOnly s (s.netCount p c n) := by
  unfold State.netCount
  dsimp only
  exact PortsOnly.ite ((portsOnly_fput s (by decide) _ _ _ _).trans (portsOnly_fput _ (by decide) _ _ _ _)) (portsOnly_fput s (by decide) _ _ _ _)

theorem portsOnly_modPort (s : State) (p : Nat) (g : Port → Port) : PortsOnly s (s.modPort p g) := ⟨rfl, rfl, rfl, rfl, rfl, rfl, fun _ _ => rfl⟩

theorem portsOnly_report (s : State) (k : EvKind) (key d : Nat) : PortsOnly s (s.report k key d) :=
  ⟨State.report_clk _ _ _ _, State.report_kv _ _ _ _, State.report_index _ _ _ _, State.report_tun _ _ _ _, State.report_media _ _ _ _,
    State.report_town _ _ _ _, fun q _ => State.reg_congr (State.report_regs _ _ _ _) q⟩

theorem portsOnly_time (s : State) (x : TimeSt) : PortsOnly s { s with time := x } := ⟨rfl, rfl, rfl, rfl, rfl, rfl, fun _ _ => rfl⟩

theorem portsOnly_power (s : State) (x : PowerSt) : PortsOnly s { s with power := x } := ⟨rfl, rfl, rfl, rfl, rfl, rfl, fun _ _ => rfl⟩

theorem portsOnly_ptpOff (s : State) : PortsOnly s s.ptpOff := by
  unfold State.ptpOff
  extract_lets was u v
  have hv : PortsOnly s v := portsOnly_time s _
  exact PortsOnly.ite hv (hv.trans (portsOnly_report v .timeUnsynced 0 0))

theorem portsOnly_bringUp (s : State) (p : Nat) : PortsOnly s (s.bringUp p) := portsOnly_modPort s p _

theorem portsOnly_portClear (s : State) (p : Nat) : PortsOnly s (s.portClear p) := by
  unfold State.portClear
  have h := (portsOnly_netCount s p 52 (s.port p).queue.length).trans (portsOnly_modPort _ p fun x =>
    { x with link := false, up := false, lanes := 0, rxLanes := 0, queue := [], req := none, txSwitch := none, rxSwitch := none, demand := false,
             lost := (s.netCount p 52 (s.port p).queue.length).clk.cycles })
  exact PortsOnly.ite (h.trans (portsOnly_ptpOff _)) h

theorem portsOnly_linkDown (s : State) (p : Nat) : PortsOnly s (s.linkDown p) :=
  (((portsOnly_netCount s p 56 1).trans (portsOnly_report _ _ _ _)).trans (portsOnly_portClear _ p)).trans (portsOnly_bringUp _ p)

theorem portsOnly_countTx (s : State) (p : Nat) (f : TxFrame) : PortsOnly s (s.countTx p f) := by
  unfold State.countTx
  extract_lets u v
  have hu : PortsOnly s u := ((portsOnly_netCount s _ _ _).trans (portsOnly_netCount _ _ _ _)).trans (portsOnly_netCount _ _ _ _)
  have hv : PortsOnly s v := PortsOnly.ite (hu.trans (portsOnly_netCount _ _ _ _)) hu
  split
  case h_5 => exact hv
  all_goals exact hv.trans (portsOnly_netCount _ _ _ _)

theorem portsOnly_parkNext (s : State) (p : Nat) : PortsOnly s (s.parkNext p) := by
  have hemit : ∀ (v : State) (o : Output), PortsOnly v (v.emit o) := fun v o => ⟨rfl, rfl, rfl, rfl, rfl, rfl, fun _ _ => rfl⟩
  have hsend : PortsOnly s (s.sendReq p true s.fullLanes s.clk.cycles) := by
    unfold State.sendReq State.sendPark
    exact ((portsOnly_modPort _ _ _).trans (hemit _ _)).trans (portsOnly_countTx _ _ _)
  exact PortsOnly.ite hsend (PortsOnly.ite (portsOnly_modPort _ _ _) (PortsOnly.refl s))

theorem portsOnly_portsActive (s : State) : PortsOnly s s.portsActive := by
  unfold State.portsActive
  refine PortsOnly.foldl _ (fun v p => ?_) _ _
  exact PortsOnly.ite (PortsOnly.ite ((portsOnly_modPort v p _).trans (portsOnly_parkNext _ p)) (portsOnly_linkDown v p)) (PortsOnly.refl v)

theorem portsOnly_leaveNap (s : State) : PortsOnly s s.leaveNap := by
  unfold State.leaveNap
  exact PortsOnly.ite (((portsOnly_power s _).trans (portsOnly_report _ .napExit 0 0)).trans (portsOnly_portsActive _)) (PortsOnly.refl s)

/-- Messages to members change neither the registers nor any engine but YWP. -/
theorem portsOnly_sendTown (s : State) (m : Nat) (t : TMsg) : PortsOnly s (s.sendTown m t) := by
  have h := s.sendTown_sent m t
  exact ⟨h.clk, h.kv, h.index, h.tun, h.media, h.town, fun q _ => State.reg_congr h.regs q⟩

end Sys2Proof.Machine
end

section
/-!
SUPPORT. The end of an operation keeps the floor of the handles (R79).
-/

namespace Sys2Proof.Machine

/-- Both states' maps hold the same floor of the handles. -/
def SameFloor (s t : State) : Prop := t.media.handleFloor = s.media.handleFloor

theorem SameFloor.refl (s : State) : SameFloor s s := rfl

theorem SameFloor.trans {s t u : State} (h : SameFloor s t) (k : SameFloor t u) : SameFloor s u := Eq.trans k h

theorem SameFloor.ite {c : Prop} [Decidable c] {s t u : State} (h : SameFloor s t) (k : SameFloor s u) : SameFloor s (if c then t else u) := by
  split
  · exact h
  · exact k

theorem SameFloor.foldl {α : Type} (g : State → α → State) (h : ∀ s a, SameFloor s (g s a)) (l : List α) (s : State) : SameFloor s (l.foldl g s) :=
  foldl_keeps (fun s : State => s.media.handleFloor) g l s h

theorem SameFloor.of_media {s t : State} (h : t.media = s.media) : SameFloor s t := congrArg MediaSt.handleFloor h

theorem sameFloor_report (s : State) (k : EvKind) (key d : Nat) : SameFloor s (s.report k key d) := SameFloor.of_media (State.report_media _ _ _ _)

theorem sameFloor_rp (s : State) (f n : Nat) (x : Fld) (v : Nat) : SameFloor s (s.rp f n x v) := SameFloor.of_media (State.rp_media _ _ _ _ _)

theorem sameFloor_modRing (s : State) (f n : Nat) (g : Ring → Ring) : SameFloor s (s.modRing f n g) := rfl

theorem sameFloor_modSlot (s : State) (n : Nat) (g : Slot → Slot) : SameFloor s (s.modSlot n g) := rfl

theorem sameFloor_sendMsg (s : State) (n : Nat) (h : YHead) (b : Bytes) (c : Option Nat) (r : Nat) : SameFloor s (s.sendMsg n h b c r) := rfl

theorem sameFloor_emit (s : State) (o : Output) : SameFloor s (s.emit o) := rfl

theorem sameFloor_coalesce (s : State) (f n : Nat) (now : Bool) : SameFloor s (s.coalesce f n now) := by
  have hsend : ∀ (v : State) (a : Nat), SameFloor v (v.sendMsix f a) := fun v a => SameFloor.ite rfl (sameFloor_emit v _)
  unfold State.coalesce
  exact SameFloor.ite (SameFloor.refl s) (SameFloor.ite ((sameFloor_modRing s f n _).trans (hsend _ _)) (sameFloor_modRing s f n _))

theorem sameFloor_postEntry (s : State) (f n tag st rl rs og gen : Nat) (now : Bool) : SameFloor s (s.postEntry f n tag st rl rs og gen now) := by
  unfold State.postEntry
  dsimp only
  exact (((sameFloor_emit s _).trans (sameFloor_rp _ f n _ _)).trans ((sameFloor_modRing _ f n _).ite (SameFloor.refl _))).trans (sameFloor_coalesce _ f n now)

theorem sameFloor_completeRing (s : State) (c : OpCtx) (f n : Nat) (r : Res) : SameFloor s (s.completeRing c f n r) := by
  unfold State.completeRing
  extract_lets u v
  have hv : SameFloor s v := (sameFloor_postEntry s f n _ _ _ _ _ _ _).trans (sameFloor_rp _ f n _ _)
  exact (SameFloor.refl s).ite ((hv.trans (sameFloor_modRing _ f n _)).ite hv)

theorem sameFloor_placeResult (s : State) (c : OpCtx) (ps : List (Nat × Bytes)) : SameFloor s (s.placeResult c ps) := by
  unfold State.placeResult
  extract_lets u
  have hu : SameFloor s u := SameFloor.foldl _ (fun v p => SameFloor.foldl _ (fun w q => sameFloor_emit w _) _ v) _ _
  exact (SameFloor.refl s).ite ((hu.trans (sameFloor_report u _ _ _)).ite hu)

theorem sameFloor_releaseCtx (s : State) (c : OpCtx) : SameFloor s (s.releaseCtx c) := by
  unfold State.releaseCtx
  extract_lets u v
  have hu : SameFloor s u := by
    unfold u
    split
    · rfl
    · rfl
  have hv : SameFloor u v := SameFloor.foldl (fun (x : State) (id : Nat) => x.modEntry id fun e => { e with refs := e.refs - 1 }) (fun _ _ => rfl) _ _
  exact hu.trans hv

theorem sameFloor_replyTo (s : State) (c : OpCtx) (slot m : Nat) (r : Res) (ps : List (Nat × Bytes)) : SameFloor s (s.replyTo c slot m r ps) := by
  unfold State.replyTo
  extract_lets rbuf body h res u v rec_ wait
  have hv : SameFloor s v := ((sameFloor_sendMsg s _ _ _ _ _).ite (SameFloor.refl s)).trans (sameFloor_modSlot _ _ _)
  refine SameFloor.ite (hv.trans ?_) hv
  exact SameFloor.foldl _ (fun x y => (sameFloor_modSlot x _ _).trans (sameFloor_sendMsg _ _ _ _ _ _)) _ _

theorem sameFloor_finishAt (s : State) (c : OpCtx) (r : Res) (ps : List (Nat × Bytes)) : SameFloor s (s.finishAt c r ps) := by
  unfold State.finishAt
  split
  · exact ((sameFloor_placeResult s c ps).trans (sameFloor_releaseCtx _ c)).trans (sameFloor_completeRing _ c _ _ _)
  · exact (sameFloor_releaseCtx s c).trans (sameFloor_replyTo _ c _ _ r ps)
  · exact (sameFloor_releaseCtx s c).trans (SameFloor.of_media (State.sendTown_sent _ _ _).media)

theorem sameFloor_finish (s : State) (c : OpCtx) (r : Res) (ps : List (Nat × Bytes)) : SameFloor s (s.finish c r ps) :=
  (sameFloor_finishAt s c r ps).trans (SameFloor.foldl _ (fun v _ => SameFloor.foldl _ (fun w b => sameFloor_finishAt w b {} []) _ v) _ _)

end Sys2Proof.Machine
end

section
/-!
SUPPORT. Staged values (chapter 02, R78 to R83, R260; chapter 08, R388).
-/

namespace Sys2Proof.Machine

/-! ### STAGE_OPEN (R78, R79) -/

/-- The handle that STAGE_OPEN answers: the next one, never 0. -/
def State.handleNext (s : State) : Nat := if (s.kv.handle + 1) % 2 ^ 32 = 0 then 1 else s.kv.handle + 1

/-- The next handle would pass the floor that the map holds. -/
abbrev State.floorDue (s : State) : Prop := s.kv.handle = s.media.handleFloor ∨ s.handleNext = (s.media.handleFloor + 1) % 2 ^ 32

/-- A staged value has been opened under the next handle. -/
def State.stageOpened (s : State) (c : OpCtx) : State :=
  { (if s.floorDue then s.checkpoint else s) with
    kv := { s.kv with handle := s.handleNext,
                      staged := s.kv.staged ++ [{ handle := s.handleNext, tenant := c.tenant, ksp := c.desc.ksp, key := keyOf c.desc c.fx, declared := c.desc.vlen, last := s.clk.cycles }] } }

theorem State.stageOpened_keeps (s : State) (c : OpCtx) : (s.stageOpened c).regs = s.regs ∧ (s.stageOpened c).host = s.host ∧
    (s.stageOpened c).out = s.out ∧ (s.stageOpened c).power = s.power ∧
    (s.stageOpened c).media.handleFloor = if s.floorDue then (s.kv.handle + 1048576) % 2 ^ 32 else s.media.handleFloor := by
  unfold State.stageOpened
  split <;> exact ⟨rfl, rfl, rfl, rfl, rfl⟩

theorem State.nextHandle_eq (s : State) : s.nextHandle = (s.handleNext,
    { (if s.floorDue then s.checkpoint else s) with kv := { (if s.floorDue then s.checkpoint else s).kv with handle := s.handleNext } }) := rfl

theorem State.runStageOpen_eq {s : State} {c : OpCtx} (hro : s.media.readOnly = false) (hsp : s.noSpace = false) (hp : s.power.entry = none) :
    s.runStageOpen c = (s.stageOpened c).finish c { status := 0, rlen := s.handleNext, rstamp := 0, origin := s.memberId } [] := by
  obtain ⟨hregs, -, -, hpower, -⟩ := s.stageOpened_keeps c
  have hopen : (let (h, s) := s.nextHandle
      let v : Staged := { handle := h, tenant := c.tenant, ksp := c.desc.ksp, key := keyOf c.desc c.fx, declared := c.desc.vlen, last := s.clk.cycles }
      ({ s with kv := { s.kv with staged := s.kv.staged ++ [v] } } : State)) = s.stageOpened c := by
    rw [State.nextHandle_eq]
    unfold State.stageOpened
    by_cases h : s.floorDue
    · rw [if_pos h]
      rfl
    · rw [if_neg h]
  have hbreak : (s.stageOpened c).breakSlumber = s.stageOpened c := State.breakSlumber_none (by rw [hpower]; exact hp)
  unfold State.runStageOpen
  dsimp only at hopen ⊢
  rw [hro, hsp, if_neg (by decide), if_neg (by decide), hopen, hbreak, memberId_congr hregs]
  rfl

/-- STAGE_OPEN opens a staged value and ends with its handle. -/
theorem State.runStageOpen_spec {u : State} {c : OpCtx} {f n : Nat} (hro : u.media.readOnly = false) (hsp : u.noSpace = false) (hp : u.power.entry = none)
    (hs : c.src = .ring f n) (ho : c.orphan = false) (hz : c.poison = []) (hg : c.gen = u.rg f n .hqRingStat_gen) :
    (u.runStageOpen c).kv.handle = u.handleNext ∧
      (u.runStageOpen c).media.handleFloor = (if u.floorDue then (u.kv.handle + 1048576) % 2 ^ 32 else u.media.handleFloor) ∧
      (u.runStageOpen c).kv.staged = u.kv.staged ++ [{ handle := u.handleNext, tenant := c.tenant, ksp := c.desc.ksp, key := keyOf c.desc c.fx, declared := c.desc.vlen, last := u.clk.cycles }] ∧
      Safety.Ends u f n c.desc c.fx c.id { status := 0, rlen := u.handleNext, rstamp := 0, origin := u.memberId } [] (u.runStageOpen c) := by
  obtain ⟨hregs, hhost, hout, -, hfloor⟩ := u.stageOpened_keeps c
  rw [State.runStageOpen_eq hro hsp hp]
  refine ⟨?_, ?_, ?_, Ends.finish hs ho hz hg (sameRing_regs hregs hhost) fun o ho => hout ▸ ho⟩
  · rw [(endKeeps_finish _ _ _ _).kv]
    rfl
  · rw [sameFloor_finish]
    exact hfloor
  · rw [(endKeeps_finish _ _ _ _).kv]
    rfl

theorem State.hereGo_stageOpen {s : State} {c : OpCtx} (ho : c.desc.opc = 0x0C) (hl : s.kv.staged.length < 4096) : s.hereGo c = s.runStageOpen c := by
  unfold State.hereGo
  rw [ho, if_neg (by decide), if_neg (by omega), if_neg (by decide), if_neg (by decide), if_neg (by decide)]

/-! ### The staged value that a handle names (R81 to R83) -/

theorem State.stageCheck_none {s : State} {ksp tenant : Nat} {g : Nat → Nat → Bool} (h : s.kspCheck ksp tenant g = none) : s.stageCheck ksp tenant g = none := by
  unfold State.stageCheck
  rw [h]
  rfl

/-- A keyspace with a loaded key slot stands also where its slot is not asked for. -/
theorem State.kspCheck_unasked {s : State} {ksp tenant : Nat} {g : Nat → Nat → Bool} (h : s.kspCheck ksp tenant g = none) :
    s.kspCheck ksp tenant (fun _ _ => true) = none := by
  unfold State.kspCheck at h ⊢
  split at h
  · cases h
  · unfold firstStatus at h ⊢
    unfold firstStatus at h ⊢
    split at h
    · cases h
    · next h1 =>
      split at h
      · cases h
      · next h2 =>
        rw [if_neg h1, if_neg h2]
        rfl

theorem State.stagedGo_data {s : State} {c : OpCtx} {v : Staged} (hk : s.kspCheck v.ksp v.tenant s.slotLoaded = none) (hj : s.notJoined = false)
    (ho : c.desc.opc = opStageData) : s.stagedGo c (some v) = s.runStageData c v (((s.ksp? v.ksp).map fun k => k.rf).getD 1) := by
  unfold State.stagedGo
  dsimp only
  rw [State.stageCheck_none hk]
  dsimp only
  rw [hj, if_neg (by decide), if_pos ho]

theorem State.stagedGo_publish {s : State} {c : OpCtx} {v : Staged} (hk : s.kspCheck v.ksp v.tenant s.slotLoaded = none) (hj : s.notJoined = false)
    (ho : c.desc.opc = opStagePublish) : s.stagedGo c (some v) = s.runPublish c v (((s.ksp? v.ksp).map fun k => k.rf).getD 1) := by
  unfold State.stagedGo
  dsimp only
  rw [State.stageCheck_none hk]
  dsimp only
  rw [hj, if_neg (by decide), if_neg (by rw [ho]; decide), if_pos ho]

/-- A staged value is dropped where its keyspace stands, and where it stands but for its key slot. -/
theorem State.stagedGo_discard {s : State} {c : OpCtx} {v : Staged} (ho : c.desc.opc = 0x0F)
    (hk : s.kspCheck v.ksp v.tenant s.slotLoaded = none ∧ s.notJoined = false ∨ s.kspCheck v.ksp v.tenant s.slotLoaded = some 0x0401) :
    s.stagedGo c (some v) = (s.dropStaged v.handle).finish c {} [] := by
  unfold State.stagedGo
  dsimp only
  rcases hk with ⟨hk, hj⟩ | hk
  · rw [State.stageCheck_none hk]
    dsimp only
    rw [hj, if_neg (by decide), if_neg (by rw [ho]; decide), if_neg (by rw [ho]; decide)]
  · rw [show s.stageCheck v.ksp v.tenant s.slotLoaded = some stSlotEmpty by unfold State.stageCheck; rw [hk]; rfl]
    dsimp only
    rw [if_pos ⟨ho, rfl⟩]

theorem dropStaged_staged (s : State) (h : Nat) : (s.dropStaged h).kv.staged = s.kv.staged.filter fun v => v.handle != h := rfl

theorem dropStaged_clk (s : State) (h : Nat) : (s.dropStaged h).clk = s.clk := rfl

theorem dropStaged_kv (s : State) (h : Nat) : (s.dropStaged h).kv = { s.kv with staged := s.kv.staged.filter fun v => v.handle != h } := rfl

theorem dropStaged_same (s : State) (h f n : Nat) : SameRing f n s (s.dropStaged h) := sameRing_regs rfl rfl

/-! ### A handle of another owner (R79, R388) -/

section away

variable {s : State} {c : OpCtx} {f n : Nat} (hs : c.src = .ring f n)
include hs

/-- A handle that nobody has issued is unknown. -/
theorem State.runAway_unknown (h : s.kv.away? c.tenant (handleOf c.desc) = none) : s.runAway c = s.fail c 0x0105 := by
  unfold State.runAway
  rw [hs]
  dsimp only
  rw [h]
  rfl

/-- A handle of another owner leads to that owner, as long as it owns the key's Ward. -/
theorem State.runAway_remote {v : AwayStage} {m : Nat} (h : s.kv.away? c.tenant (handleOf c.desc) = some v)
    (hk : s.kspCheck v.ksp v.tenant s.slotLoaded = none) (hw : s.wardOwner (wardOf (s.digest v.ksp v.key)) = .remote m) :
    s.runAway c = if m = v.owner then s.forward c m else s.fail c 0x0105 := by
  unfold State.runAway
  rw [hs]
  dsimp only
  rw [h]
  dsimp only
  rw [hw, State.stageCheck_none (State.kspCheck_unasked hk)]
  dsimp only
  by_cases hm : m = v.owner
  · rw [if_neg (by simp [hm]), if_pos hm, if_neg (by decide)]
  · rw [if_pos hm, if_neg hm]
    rfl

end away

/-- The handle that another owner has answered is remembered (R79). -/
theorem State.awayReply_open (s : State) (c : OpCtx) (h : Nat) (ho : c.desc.opc = 0x0C) :
    (s.awayReply c 0 h).kv.away? c.tenant h = some ⟨h, c.tenant, c.desc.ksp, keyOf c.desc c.fx, c.dest⟩ := by
  have hnew : (s.awayReply c 0 h).kv.away = (s.kv.away.filter fun v => !(v.handle == h && v.tenant == c.tenant)) ++
      [⟨h, c.tenant, c.desc.ksp, keyOf c.desc c.fx, c.dest⟩] := by
    unfold State.awayReply
    dsimp only
    rw [if_pos ⟨ho, rfl⟩]
  have hgone : (s.kv.away.filter fun v => !(v.handle == h && v.tenant == c.tenant)).find? (fun v => v.handle == h && v.tenant == c.tenant) = none := by
    rw [List.find?_eq_none]
    intro v hv hp
    have := (List.mem_filter.1 hv).2
    rw [hp] at this
    cases this
  unfold KvSt.away?
  rw [hnew, List.find?_append, hgone]
  simp

/-! ### A staged value without activity (R83) -/

/-- A staged value is dropped when a clock that has been waited for is there. -/
theorem dropStaged_done {s w : State} {n : Nat} (h : Nat) (hclk : w.clk.cycles = max s.clk.cycles n) (hkv : w.kv = s.kv) :
    ∃ t : State, done [.clk, .kv, .sup, .ev] [] s ((w.dropStaged h).report .stagedDiscarded h) = .next t ∧
      t.kv = { s.kv with staged := s.kv.staged.filter fun y => y.handle != h } ∧ t.clk.cycles = max s.clk.cycles n ∧ t.ev = (w.report .stagedDiscarded h).ev := by
  refine answers ⟨?_, ?_, ?_⟩
  · rw [kv_reach rfl, State.report_kv, dropStaged_kv, hkv]
  · refine cycles_reach rfl ?_
    rw [State.report_clk, dropStaged_clk, hclk]
  · rw [ev_reach rfl]
    exact report_ev_congr (s := w.dropStaged h) (t := w) rfl rfl _ _ _

theorem exec_stagedIdleTimeout {s : State} {h : Nat} {v : Staged} (hs : s.serving = true) (hv : s.kv.staged? h = some v) :
    ∃ t : State, exec (.stagedIdleTimeout h) s = .next t ∧ t.kv = { s.kv with staged := s.kv.staged.filter fun y => y.handle != h } ∧
      t.clk.cycles = max s.clk.cycles (v.last + s.fget .kveStageCtrl_idleS * 600000000) ∧
      t.ev = ((s.waitCycle (v.last + s.fget .kveStageCtrl_idleS * 600000000)).report .stagedDiscarded h).ev := by
  have e : exec (.stagedIdleTimeout h) s = execStagedIdleTimeout h s := rfl
  rw [e]
  unfold execStagedIdleTimeout secCycles
  rw [hv]
  dsimp only
  rw [when_of hs]
  exact dropStaged_done h (State.waitCycle_cycles _ s) (s.waitCycle_kv _)

/-! ### Waiting for flash -/

theorem queueOp_kv (s : State) (kind : NandKind) (addr : Nat) (why : NandFor) (cls rank item : Nat) (shares : Bool) :
    (s.queueOp kind addr why cls rank item shares).kv = s.kv := by
  unfold State.queueOp
  extract_lets u
  have hu : u.kv = s.kv := by
    unfold u
    split
    · exact (portsOnly_leaveNap s).kv
    · rfl
    · rfl
  exact hu

theorem queueRead_kv (s : State) (a : Nat) (why : NandFor) (rank : Nat) : (s.queueRead a why rank).kv = s.kv :=
  foldl_keeps State.kv _ _ s fun v _ => queueOp_kv v _ _ _ _ _ _ _

/-- An operation waits for what it reads from flash. -/
theorem waitReads_spec {s : State} {c : OpCtx} (need : List (Nat × NandFor)) (hc : c ∈ s.kv.ctxs) :
    (s.waitReads c need).kv.staged = s.kv.staged ∧
      ∃ e ∈ (s.waitReads c need).kv.ctxs, e.id = c.id ∧ e.phase = .reading ∧ e.need = need.map fun n => n.1 := by
  unfold State.waitReads
  extract_lets u v
  have hu : u.kv = s.kv := by
    unfold u
    split <;> rfl
  rw [foldl_keeps State.kv (fun s (n : Nat × NandFor) => s.queueRead n.1 n.2 0) need v fun w n => queueRead_kv w n.1 n.2 0]
  refine ⟨show u.kv.staged = s.kv.staged by rw [hu], ?_⟩
  exact ⟨_, mem_updWhere (p := fun e : OpCtx => e.id == c.id) (show c ∈ u.kv.ctxs by rw [hu]; exact hc) (beq_self_eq_true _), rfl, rfl, rfl⟩

/-! ### STAGE_DATA (R80, R260) -/

theorem State.runStageData_long {s : State} {c : OpCtx} {v : Staged} (rf : Nat) (h : v.declared < c.desc.offset + c.desc.vlen) :
    s.runStageData c v rf = s.fail c 0x0102 := if_pos h

/-- What every STAGE_DATA asks for before it reads or stores. -/
structure State.Fills (s : State) (c : OpCtx) (v : Staged) : Prop where
  length : c.desc.offset + c.desc.vlen ≤ v.declared
  writable : s.media.readOnly = false
  space : s.noSpace = false
  alone : s.sameOpen c v.handle = false

/-- A piece that covers extents in part reads their former contents first. -/
theorem State.runStageData_reads {s : State} {c : OpCtx} {v : Staged} (rf : Nat) (h : s.Fills c v) (hg : c.got = [])
    (hex : ∃ e ∈ mergedExtents v c.desc.offset c.desc.vlen, lostAt s.media c e.2 = false) :
    s.runStageData c v rf =
      s.waitReads c (((mergedExtents v c.desc.offset c.desc.vlen).filter fun e => !lostAt s.media c e.2).map fun e => (e.2, NandFor.ctx c.id)) := by
  obtain ⟨hlen, hro, hsp, ho⟩ := h
  have hneed : (mergedExtents v c.desc.offset c.desc.vlen).filter (fun e => !c.got.contains e.2 && !lostAt s.media c e.2) =
      (mergedExtents v c.desc.offset c.desc.vlen).filter fun e => !lostAt s.media c e.2 := by
    rw [hg]
    rfl
  have hsome : ((mergedExtents v c.desc.offset c.desc.vlen).filter fun e => !lostAt s.media c e.2).map (fun e => (e.2, NandFor.ctx c.id)) ≠ [] := by
    obtain ⟨e, he, hl⟩ := hex
    exact List.ne_nil_of_mem (List.mem_map_of_mem (List.mem_filter.2 ⟨he, by rw [hl]; rfl⟩))
  unfold State.runStageData
  dsimp only
  rw [if_neg (by omega), hro, if_neg (by decide), hsp, if_neg (by decide), ho, if_neg (by decide), hneed]
  exact if_pos (by rw [List.isEmpty_eq_false_iff.2 hsome]; rfl)

theorem storeExtents_keeps {st : Stream} {ksp rank : Nat} (l : List (Nat × Bytes)) {r : List (Nat × Nat) × State} :
    ∀ {s : State} {acc : List (Nat × Nat)}, s.storeExtents st ksp rank l acc = some r → r.2.kv = s.kv ∧ r.2.clk = s.clk ∧ r.2.regs = s.regs := by
  induction l with
  | nil =>
    intro s acc h
    obtain rfl := Option.some.inj h
    exact ⟨rfl, rfl, rfl⟩
  | cons x l ih =>
    intro s acc h
    unfold State.storeExtents at h
    split at h
    · cases h
    · next a t hs =>
      obtain ⟨h1, h2, h3⟩ := ih h
      have hst := stored_store hs
      exact ⟨h1.trans hst.kv, h2.trans hst.clk, h3.trans hst.regs⟩

/-- The staged value as its extents and its last activity stand. -/
def State.refill (s : State) (h : Nat) (es : List (Nat × Nat)) : State :=
  { s with kv := { s.kv with staged := updWhere (fun x => x.handle == h) (fun x => { x with extents := es, last := s.clk.cycles }) s.kv.staged } }

/-- A stored piece goes to its replicas, and its operation waits for the pages. -/
def State.pieceOut (s : State) (c : OpCtx) (v : Staged) (w : Nat) (acks : List Nat) (b : Bytes) (need : List Nat) : State :=
  (acks.foldl (fun s m => s.sendPiece w m v c.desc.offset b) s).modCtx c.id fun e =>
    { e with phase := .pages, ponr := true, need := need, acks := acks, wards := [w], handle := v.handle,
             res := { status := stOk, rlen := c.desc.vlen, rstamp := 0, origin := (acks.foldl (fun s m => s.sendPiece w m v c.desc.offset b) s).memberId } }

/-- A piece that covers no extent in part is stored at once. -/
theorem State.runStageData_stores {s t : State} {c : OpCtx} {v : Staged} {es : List (Nat × Nat)} (rf : Nat) (h : s.Fills c v)
    (hm : mergedExtents v c.desc.offset c.desc.vlen = []) (ht : s.townRoom (s.receivers (wardOf (s.digest v.ksp v.key)) rf).length = true)
    (hs : s.storeExtents .staged v.ksp 1 (pieceExtents s.media v c.desc.offset (c.fx.value.take c.desc.vlen)) [] = some (es, t)) :
    s.runStageData c v rf = (t.leaveNap.refill v.handle (sortBy (fun e => e.1) ((v.extents.filter fun e => !(es.any fun x => x.1 == e.1)) ++ es))).pieceOut c v
      (wardOf (s.digest v.ksp v.key)) (t.leaveNap.receivers (wardOf (s.digest v.ksp v.key)) rf) (c.fx.value.take c.desc.vlen) (es.map fun e => e.2) := by
  obtain ⟨hlen, hro, hsp, ho⟩ := h
  have hspoilt : (es.filter fun _ => false) = [] := List.filter_eq_nil_iff.2 (by simp)
  unfold State.runStageData
  dsimp only
  rw [if_neg (by omega), hro, if_neg (by decide), hsp, if_neg (by decide), ho, if_neg (by decide), hm]
  refine (if_neg (by simp)).trans ?_
  rw [ht, if_neg (by decide), hs]
  dsimp only [List.any_nil]
  rw [hspoilt]
  rfl

theorem sendPieces_keeps (s : State) (w : Nat) (v : Staged) (off : Nat) (b : Bytes) (acks : List Nat) :
    PortsOnly s (acks.foldl (fun s m => s.sendPiece w m v off b) s) := PortsOnly.foldl _ (fun u m => portsOnly_sendTown u m _) _ _

theorem pieceOut_spec {s : State} {c : OpCtx} (v : Staged) (w : Nat) (acks : List Nat) (b : Bytes) (need : List Nat) (hc : c ∈ s.kv.ctxs) :
    (s.pieceOut c v w acks b need).media = s.media ∧ (s.pieceOut c v w acks b need).kv.staged = s.kv.staged ∧
      ∃ e ∈ (s.pieceOut c v w acks b need).kv.ctxs, e.id = c.id ∧ e.phase = .pages ∧ e.ponr = true ∧ e.need = need ∧ e.handle = v.handle ∧
        e.res = { status := 0, rlen := c.desc.vlen, rstamp := 0, origin := s.memberId } := by
  have hk := sendPieces_keeps s w v c.desc.offset b acks
  refine ⟨hk.media, show (acks.foldl (fun s m => s.sendPiece w m v c.desc.offset b) s).kv.staged = s.kv.staged by rw [hk.kv], ?_⟩
  rw [← hk.memberId]
  exact ⟨_, mem_updWhere (p := fun e : OpCtx => e.id == c.id) (show c ∈ (acks.foldl (fun s m => s.sendPiece w m v c.desc.offset b) s).kv.ctxs by rw [hk.kv]; exact hc)
    (beq_self_eq_true _), rfl, rfl, rfl, rfl, rfl, rfl⟩

/-- What the state holds once a piece that covers no extent in part is stored (R80, R260). -/
theorem State.runStageData_stored {s t : State} {c : OpCtx} {v : Staged} {es : List (Nat × Nat)} (rf : Nat) (h : s.Fills c v)
    (hm : mergedExtents v c.desc.offset c.desc.vlen = []) (ht : s.townRoom (s.receivers (wardOf (s.digest v.ksp v.key)) rf).length = true)
    (hs : s.storeExtents .staged v.ksp 1 (pieceExtents s.media v c.desc.offset (c.fx.value.take c.desc.vlen)) [] = some (es, t))
    (hc : c ∈ s.kv.ctxs) (hv : v ∈ s.kv.staged) :
    (s.runStageData c v rf).media = t.media ∧
      (∃ y ∈ (s.runStageData c v rf).kv.staged, y.handle = v.handle ∧ y.last = s.clk.cycles ∧
        y.extents = sortBy (fun e => e.1) ((v.extents.filter fun e => !(es.any fun x => x.1 == e.1)) ++ es)) ∧
      ∃ e ∈ (s.runStageData c v rf).kv.ctxs, e.id = c.id ∧ e.phase = .pages ∧ e.ponr = true ∧ e.need = es.map (fun e => e.2) ∧ e.handle = v.handle ∧
        e.res = { status := 0, rlen := c.desc.vlen, rstamp := 0, origin := s.memberId } := by
  obtain ⟨hkv, hclk, hregs⟩ := storeExtents_keeps _ hs
  have hnap := portsOnly_leaveNap t
  have hid : t.leaveNap.memberId = s.memberId := hnap.memberId.trans (memberId_congr hregs)
  rw [State.runStageData_stores rf h hm ht hs]
  generalize t.leaveNap = z at hnap hid
  generalize hall : sortBy (fun e => e.1) ((v.extents.filter fun e => !(es.any fun x => x.1 == e.1)) ++ es) = all
  obtain ⟨hmedia, hstaged, hctx⟩ := pieceOut_spec (s := z.refill v.handle all) (c := c) v (wardOf (s.digest v.ksp v.key)) (z.receivers (wardOf (s.digest v.ksp v.key)) rf)
    (c.fx.value.take c.desc.vlen) (es.map fun e => e.2) (show c ∈ z.kv.ctxs by rw [hnap.kv, hkv]; exact hc)
  refine ⟨hmedia.trans hnap.media, ?_, ?_⟩
  · rw [hstaged, ← hclk, ← hnap.clk]
    exact ⟨_, mem_updWhere (p := fun x : Staged => x.handle == v.handle) (show v ∈ z.kv.staged by rw [hnap.kv, hkv]; exact hv) (beq_self_eq_true _), rfl, rfl, rfl⟩
  · rw [← hid]
    exact hctx

/-! ### STAGE_PUBLISH (R81) -/

theorem goLive_staged (s : State) (c : OpCtx) (ids : List Nat) (res : Res) (acks ws : List Nat) (rf : Nat) :
    (s.goLive c ids res acks ws rf).kv.staged = s.kv.staged := by
  have hstep : ∀ (u : State) (e : OpCtx), (u.commitStep e).kv.staged = u.kv.staged := by
    intro u e
    unfold State.commitStep
    split
    · rfl
    · rw [(endKeeps_finish _ _ _ _).kv]
  have hnum := (numbered_spec s c acks).1
  unfold State.goLive
  generalize s.numbered c acks = p at hnum
  obtain ⟨d, z⟩ := p
  dsimp only at hnum ⊢
  rw [hstep]
  show (State.replicateAll _ _ _ _ _ _ _).kv.staged = s.kv.staged
  rw [(replicateAll_keeps _ _ _ _ _ _ _).1, State.fmax_kv, hnum]

/-- What every STAGE_PUBLISH that is not held asks for (R81, R105). -/
structure State.Publishes (s : State) (c : OpCtx) (v : Staged) (e : TunEntry) (acks : List Nat) (stamp id : Nat) : Prop where
  whole : ∀ y ∈ s.kv.ctxs, ¬(y.phase = .pages ∧ y.handle = v.handle)
  free : s.intentOn v.ksp v.key = false
  writable : s.media.readOnly = false
  space : s.noSpace = false
  room : s.tunRoom (entryUnits e) 1 = true
  fit : s.tunFit (entryUnits e) = some id
  leaf : s.leafRoom (s.digest v.ksp v.key) = true
  town : s.townRoom acks.length = true
  asked : s.askStamp = .stamp stamp
  ahead : s.passed stamp = false

/-- The entry that a published value makes. -/
def State.publishEntry (s : State) (v : Staged) (acks : List Nat) (stamp : Nat) : TunEntry :=
  { id := 0, kind := .publish, state := .live, ksp := v.ksp, key := v.key, origin := s.memberId, replAck := acks.isEmpty, stamp := stamp,
    vlen := v.declared, digest := s.digest v.ksp v.key, extents := v.extents, handle := v.handle }

theorem State.runPublish_eq {s w : State} {c : OpCtx} {v : Staged} {acks : List Nat} {stamp id : Nat} (rf : Nat)
    (hr : s.receivers (wardOf (s.digest v.ksp v.key)) rf = acks) (h : s.Publishes c v (s.publishEntry v acks stamp) acks stamp id)
    (hw : s.addEntry (s.publishEntry v acks stamp) false = some (id, w)) :
    s.runPublish c v rf = ((((w.tookStamp stamp).dropStaged v.handle).modCtx c.id fun _ => { c with stamp := stamp, ponr := true }).goLive
      { c with stamp := stamp, ponr := true } [id] { status := stOk, rlen := v.declared, rstamp := stamp, origin := ((w.tookStamp stamp).dropStaged v.handle).memberId } acks
      [wardOf (s.digest v.ksp v.key)] rf) := by
  obtain ⟨hwhole, hfree, hro, hsp, hroom, -, hleaf, htown, hst, -⟩ := h
  have hpages : ¬((s.kv.ctxs.any fun x => decide (x.phase = .pages ∧ x.handle = v.handle)) = true ∨ s.intentOn v.ksp v.key = true) := by
    rintro (hp | hi)
    · obtain ⟨y, hy, hp⟩ := List.any_eq_true.1 hp
      exact hwhole y hy (of_decide_eq_true hp)
    · rw [hfree] at hi
      cases hi
  have hgo : ¬((!s.tunRoom (entryUnits (s.publishEntry v acks 0)) 1) = true ∨ (!s.leafRoom (s.digest v.ksp v.key)) = true ∨ (!s.townRoom acks.length) = true) := by
    rw [show s.tunRoom (entryUnits (s.publishEntry v acks 0)) 1 = true from hroom, hleaf, htown]
    decide
  unfold State.runPublish
  dsimp only
  rw [hr, if_neg hpages, hro, if_neg (by decide), hsp, if_neg (by decide)]
  refine (if_neg hgo).trans ?_
  rw [hst]
  dsimp only
  change (match s.addEntry (s.publishEntry v acks stamp) false with | none => _ | some (id, s) => _) = _
  rw [hw]

/-- A published value's entry stands LIVE at its stamp, its handle is closed, and the operation waits for the clock and its replicas. -/
theorem State.runPublish_spec {s : State} {c : OpCtx} {v : Staged} {acks : List Nat} {stamp id : Nat} (rf : Nat)
    (hr : s.receivers (wardOf (s.digest v.ksp v.key)) rf = acks) (h : s.Publishes c v (s.publishEntry v acks stamp) acks stamp id) (hc : c ∈ s.kv.ctxs) :
    (s.runPublish c v rf).tun.entries = s.tun.entries ++ [{ s.publishEntry v acks stamp with id := id, late := decide (2 ≤ s.media.spaceState) }] ∧
      (s.runPublish c v rf).kv.lastU = stamp / 4096 ∧ (s.runPublish c v rf).kv.lastK = stamp % 4096 ∧
      (s.runPublish c v rf).kv.staged = s.kv.staged.filter (fun y => y.handle != v.handle) ∧
      ∃ e ∈ (s.runPublish c v rf).kv.ctxs, e.id = c.id ∧ e.phase = .commit ∧ e.stamp = stamp ∧ e.entries = [id] ∧ e.acks = acks ∧ e.clock = true ∧
        e.res = { status := 0, rlen := v.declared, rstamp := stamp, origin := s.memberId } := by
  obtain ⟨w, hw, hkv, -, hclk, hid, -, hentries, -⟩ := addEntry_live s (s.publishEntry v acks stamp) id h.fit (show TunKind.publish ≠ TunKind.batchRecord by decide) rfl
  have hid' : ((w.tookStamp stamp).dropStaged v.handle).memberId = s.memberId := hid
  rw [State.runPublish_eq rf hr h hw, hid']
  have hctx : { c with stamp := stamp, ponr := true } ∈
      (((w.tookStamp stamp).dropStaged v.handle).modCtx c.id fun _ => { c with stamp := stamp, ponr := true }).kv.ctxs :=
    mem_updWhere (x := c) (p := fun e : OpCtx => e.id == c.id) (f := fun _ => { c with stamp := stamp, ponr := true })
      (show c ∈ w.kv.ctxs by rw [hkv]; exact hc) (beq_self_eq_true _)
  have hpass : (((w.tookStamp stamp).dropStaged v.handle).modCtx c.id fun _ => { c with stamp := stamp, ponr := true }).passed stamp = false :=
    (passed_congr hclk stamp).trans h.ahead
  have hkept : (((w.tookStamp stamp).dropStaged v.handle).modCtx c.id fun _ => { c with stamp := stamp, ponr := true }).kv.staged =
      w.kv.staged.filter fun y => y.handle != v.handle := rfl
  have hmade : (((w.tookStamp stamp).dropStaged v.handle).modCtx c.id fun _ => { c with stamp := stamp, ponr := true }).tun.entries = w.tun.entries := rfl
  have htook : (((w.tookStamp stamp).dropStaged v.handle).modCtx c.id fun _ => { c with stamp := stamp, ponr := true }).kv.lastU = stamp / 4096 ∧
      (((w.tookStamp stamp).dropStaged v.handle).modCtx c.id fun _ => { c with stamp := stamp, ponr := true }).kv.lastK = stamp % 4096 := ⟨rfl, rfl⟩
  generalize (((w.tookStamp stamp).dropStaged v.handle).modCtx c.id fun _ => { c with stamp := stamp, ponr := true }) = z at hctx hpass hkept hmade htook ⊢
  obtain ⟨g1, -, g3, g4, g5⟩ := goLive_waits z { c with stamp := stamp, ponr := true } [id] { status := stOk, rlen := v.declared, rstamp := stamp, origin := s.memberId } acks
    [wardOf (s.digest v.ksp v.key)] rf hpass ⟨_, hctx, rfl⟩
  have hnum := (numbered_spec z { c with stamp := stamp, ponr := true } acks).2.2.2.2
  refine ⟨?_, g3.trans htook.1, g4.trans htook.2, ?_, ⟨_, g5, ?_⟩⟩
  · rw [g1, hmade, hentries]
  · rw [goLive_staged, hkept, hkv]
  · rw [hnum]
    exact ⟨rfl, rfl, rfl, rfl, rfl, rfl, rfl⟩

/-- The end of an operation that drops a staged value (R83). -/
theorem dropStaged_ends {u : State} {c : OpCtx} {f n : Nat} (h : Nat) (hs : c.src = .ring f n) (ho : c.orphan = false) (hz : c.poison = [])
    (hg : c.gen = u.rg f n .hqRingStat_gen) :
    ((u.dropStaged h).finish c {} []).kv.staged = u.kv.staged.filter (fun y => y.handle != h) ∧
      Safety.Ends u f n c.desc c.fx c.id {} [] ((u.dropStaged h).finish c {} []) := by
  refine ⟨?_, Ends.finish hs ho hz hg (dropStaged_same u h f n) fun o ho => ho⟩
  rw [(endKeeps_finish _ _ _ _).kv]
  exact dropStaged_staged u h

/-! ### The commands of a ring -/

section ring

variable {s : State} {f n : Nat} {d : Desc} {x : Fetched} (hn : n ≠ 64) (hm : s.mayFetch f n = true)
include hn hm

theorem exec_stageOpen (hl : s.kv.staged.length < 4096) (hp : s.power.entry = none)
    (hr : Safety.Runs (s.fetchOne f n { d with opc := 0x0C } x .held) (s.ringCtx f n { d with opc := 0x0C } x .held))
    (hro : (s.fetchOne f n { d with opc := 0x0C } x .held).media.readOnly = false) (hsp : (s.fetchOne f n { d with opc := 0x0C } x .held).noSpace = false) :
    ∃ t : State, exec (.stageOpen (.ring f n) d x) s = .next t ∧ t.kv.handle = s.handleNext ∧
      t.media.handleFloor = (if s.floorDue then (s.kv.handle + 1048576) % 2 ^ 32 else s.media.handleFloor) ∧
      t.kv.staged = s.kv.staged ++ [{ handle := s.handleNext, tenant := f, ksp := d.ksp, key := keyOf d x, declared := d.vlen, last := s.clk.cycles }] ∧
      Safety.Ends (s.fetchOne f n { d with opc := 0x0C } x .held) f n d x (s.ringCtx f n { d with opc := 0x0C } x .held).id
        { status := 0, rlen := s.handleNext, rstamp := 0, origin := (s.fetchOne f n { d with opc := 0x0C } x .held).memberId } [] t := by
  have hexec := exec_admit (d := d) (x := x) (p := (.stageOpen (.ring f n) d x, 0x0C)) (by simp [dataOps]) hn hm
  dsimp only at hexec
  rw [State.admit_dispatch hr.1, State.dispatch_here (State.unheld_of_runs hr (Or.inl (by show 0x0C < 0x0D; decide))) (Or.inl (by show 0x0C < 0x0D; decide)) rfl hr.2.2.2.2.1 hr.2.2.2.2.2,
    State.hereGo_stageOpen rfl (by rw [s.fetchOne_staged]; exact hl)] at hexec
  obtain ⟨h1, h2, h3, h4⟩ := State.runStageOpen_spec (c := s.ringCtx f n { d with opc := 0x0C } x .held) hro hsp (by rw [s.fetchOne_power]; exact hp) rfl rfl rfl
    (s.fetchOne_gen f n { d with opc := 0x0C } x .held)
  have hhandle := s.fetchOne_handle f n { d with opc := 0x0C } x .held
  have hnext : (s.fetchOne f n { d with opc := 0x0C } x .held).handleNext = s.handleNext := by
    unfold State.handleNext
    rw [hhandle]
  have hmedia := s.fetchOne_media f n { d with opc := 0x0C } x .held
  rw [hnext] at h1 h3 h4
  refine ⟨_, hexec, ?_, ?_, ?_, Ends.named (Ends.settle h4 rfl rfl)⟩
  · rw [kv_reach rfl]
    exact h1
  · rw [media_reach rfl, h2]
    unfold State.floorDue
    rw [hnext, hhandle, hmedia]
  · rw [kv_reach rfl, h3, s.fetchOne_staged, s.fetchOne_clk]
    rfl

/-- A command on a staged value that this part holds. -/
theorem exec_staged {p : Instr × Nat} {v : Staged} (hp : p ∈ dataOps (.ring f n) d x) (h1 : 0x0D ≤ p.2) (h2 : p.2 ≤ 0x0F)
    (hf : Safety.Free (s.fetchOne f n { d with opc := p.2 } x .held) (s.ringCtx f n { d with opc := p.2 } x .held))
    (hv : (s.fetchOne f n { d with opc := p.2 } x .held).kv.staged.find?
      (fun v => v.handle == handleOf (s.ringCtx f n { d with opc := p.2 } x .held).desc && v.tenant == f) = some v) :
    exec p.1 s = done dataParts dataRegs s
      ((s.fetchOne f n { d with opc := p.2 } x .held).stagedGo (s.ringCtx f n { d with opc := p.2 } x .held) (some v)) := by
  rw [exec_admit hp hn hm, State.admit_dispatch hf.1, State.dispatch_staged (State.unheld_of_free hf) h1 h2]
  exact congrArg (fun o => done dataParts dataRegs s (State.stagedGo _ _ o)) hv

/-- A piece that reaches past the declared length. -/
theorem exec_stageData_long {v : Staged}
    (hf : Safety.Free (s.fetchOne f n { d with opc := 0x0D } x .held) (s.ringCtx f n { d with opc := 0x0D } x .held))
    (hv : (s.fetchOne f n { d with opc := 0x0D } x .held).kv.staged.find?
      (fun v => v.handle == handleOf (s.ringCtx f n { d with opc := 0x0D } x .held).desc && v.tenant == f) = some v)
    (hk : (s.fetchOne f n { d with opc := 0x0D } x .held).kspCheck v.ksp v.tenant (s.fetchOne f n { d with opc := 0x0D } x .held).slotLoaded = none)
    (hj : (s.fetchOne f n { d with opc := 0x0D } x .held).notJoined = false) (hlen : v.declared < d.offset + d.vlen) :
    ∃ t : State, exec (.stageData (.ring f n) d x) s = .next t ∧ t.kv.staged = s.kv.staged ∧
      Safety.Ends (s.fetchOne f n { d with opc := 0x0D } x .held) f n d x (s.ringCtx f n { d with opc := 0x0D } x .held).id { status := 0x0102 } [] t := by
  have hexec := exec_staged hn hm (d := d) (x := x) (p := (.stageData (.ring f n) d x, 0x0D)) (by simp [dataOps]) (by simp) (by simp) hf hv
  dsimp only at hexec
  rw [State.stagedGo_data hk hj rfl, State.runStageData_long _ hlen, State.fail_plain _ _ (by decide)] at hexec
  refine ⟨_, hexec, ?_, Ends.named (Ends.settle Ends.fetched rfl rfl)⟩
  rw [kv_reach rfl, (endKeeps_finish _ _ _ _).kv, ← s.fetchOne_staged f n { d with opc := 0x0D } x .held]

/-- A staged value is dropped on demand (R83). -/
theorem exec_stageDiscard {v : Staged}
    (hf : Safety.Free (s.fetchOne f n { d with opc := 0x0F } x .held) (s.ringCtx f n { d with opc := 0x0F } x .held))
    (hv : (s.fetchOne f n { d with opc := 0x0F } x .held).kv.staged.find?
      (fun v => v.handle == handleOf (s.ringCtx f n { d with opc := 0x0F } x .held).desc && v.tenant == f) = some v)
    (hk : (s.fetchOne f n { d with opc := 0x0F } x .held).kspCheck v.ksp v.tenant (s.fetchOne f n { d with opc := 0x0F } x .held).slotLoaded = none ∧
        (s.fetchOne f n { d with opc := 0x0F } x .held).notJoined = false ∨
      (s.fetchOne f n { d with opc := 0x0F } x .held).kspCheck v.ksp v.tenant (s.fetchOne f n { d with opc := 0x0F } x .held).slotLoaded = some 0x0401) :
    ∃ t : State, exec (.stageDiscard (.ring f n) d x) s = .next t ∧ t.kv.staged = s.kv.staged.filter (fun y => y.handle != v.handle) ∧
      Safety.Ends (s.fetchOne f n { d with opc := 0x0F } x .held) f n d x (s.ringCtx f n { d with opc := 0x0F } x .held).id {} [] t := by
  have hexec := exec_staged hn hm (d := d) (x := x) (p := (.stageDiscard (.ring f n) d x, 0x0F)) (by simp [dataOps]) (by simp) (by simp) hf hv
  dsimp only at hexec
  rw [State.stagedGo_discard rfl hk] at hexec
  obtain ⟨hstaged, hends⟩ := dropStaged_ends (c := s.ringCtx f n { d with opc := 0x0F } x .held) v.handle rfl rfl rfl (s.fetchOne_gen f n { d with opc := 0x0F } x .held)
  refine ⟨_, hexec, ?_, Ends.named (Ends.settle hends rfl rfl)⟩
  rw [kv_reach rfl, hstaged, s.fetchOne_staged]

end ring

/-- A handle that this part does not hold (R79, R388). -/
theorem State.dispatch_away {s : State} {c : OpCtx} {f n : Nat} (hs : c.src = .ring f n) (h1 : 0x0D ≤ c.desc.opc) (h2 : c.desc.opc ≤ 0x0F)
    (hb : s.behind c = false) (hf : s.fillingOn (s.kspOf c.desc) (s.keysOf c) = false) (hi : ∀ k ∈ s.keysOf c, s.intentOn (s.kspOf c.desc) k = false)
    (hv : s.kv.staged.find? (fun v => v.handle == handleOf c.desc && v.tenant == c.tenant) = none) :
    (s.kv.away? c.tenant (handleOf c.desc) = none → s.dispatch c = s.fail c 0x0105) ∧
    ∀ v m, s.kv.away? c.tenant (handleOf c.desc) = some v → s.kspCheck v.ksp v.tenant s.slotLoaded = none →
      s.wardOwner (wardOf (s.digest v.ksp v.key)) = .remote m → s.dispatch c = if m = v.owner then s.forward c m else s.fail c 0x0105 := by
  have hgo : s.dispatch c = s.runAway c := by
    rw [State.dispatch_staged ⟨hb, hf, fun _ => hi⟩ h1 h2, hv]
    rfl
  rw [hgo]
  exact ⟨fun h => State.runAway_unknown hs h, fun v m h hk hw => State.runAway_remote hs h hk hw⟩

/-- Settles O19: opening, filling, publishing, dropping, and the handles of other owners, a clause each. -/
theorem stagedValuesAreOpenedFilledPublishedAndDropped : Obligations.StagedValuesAreOpenedFilledPublishedAndDropped := by
  unfold Obligations.StagedValuesAreOpenedFilledPublishedAndDropped
  refine ⟨?opened, ?filled, ?published, ?discarded, ?idle, ?away, ?remembered⟩
  case opened =>
    intro s f n d x hn hm hl hp c u h hr hro hsp
    exact exec_stageOpen hn hm hl hp hr hro hsp
  case filled =>
    intro s f n d x v hn hm c u hf hv hk hj
    have hexec := exec_staged hn hm (d := d) (x := x) (p := (.stageData (.ring f n) d x, 0x0D)) (by simp [dataOps]) (by simp) (by simp) hf hv
    have hmem : c ∈ u.kv.ctxs := s.fetchOne_mem f n { d with opc := 0x0D } x .held
    have hstaged : u.kv.staged = s.kv.staged := s.fetchOne_staged f n { d with opc := 0x0D } x .held
    have hclk : u.clk = s.clk := s.fetchOne_clk f n { d with opc := 0x0D } x .held
    rw [State.stagedGo_data hk hj rfl] at hexec
    refine ⟨fun hlen => exec_stageData_long hn hm hf hv hk hj hlen, fun hlen hro hsp ho hex => ?_, fun es w hlen hro hsp ho hmerged htown hstore => ?_⟩
    · rw [State.runStageData_reads _ ⟨hlen, hro, hsp, ho⟩ rfl hex] at hexec
      obtain ⟨h1, e, he, h2, h3, h4⟩ := waitReads_spec (((mergedExtents v d.offset d.vlen).filter fun e => !lostAt u.media c e.2).map fun e => (e.2, NandFor.ctx c.id)) hmem
      refine ⟨_, hexec, ?_, e, ?_, h2, h3, ?_⟩
      · rw [kv_reach rfl]
        exact h1.trans hstaged
      · rw [kv_reach rfl]
        exact he
      · rw [h4, List.map_map]
        rfl
    · obtain ⟨h1, h2, h3⟩ := State.runStageData_stored _ ⟨hlen, hro, hsp, ho⟩ hmerged htown hstore hmem (List.mem_of_find?_eq_some hv)
      rw [hclk] at h2
      refine ⟨_, hexec, ?_, ?_, ?_⟩
      · rw [media_reach rfl]
        exact h1
      · rw [kv_reach rfl]
        exact h2
      · rw [kv_reach rfl]
        exact h3
  case published =>
    intro s f n d x v stamp id hn hm c u dig acks new hf hv hk hj hwhole hfree hro hsp hroom hfit hleaf htown hask hpass
    have hexec := exec_staged hn hm (d := d) (x := x) (p := (.stagePublish (.ring f n) d x, 0x0E)) (by simp [dataOps]) (by simp) (by simp) hf hv
    have hmem : c ∈ u.kv.ctxs := s.fetchOne_mem f n { d with opc := 0x0E } x .held
    have hstaged : u.kv.staged = s.kv.staged := s.fetchOne_staged f n { d with opc := 0x0E } x .held
    have htun : u.tun = s.tun := s.fetchOne_tun f n { d with opc := 0x0E } x .held
    rw [State.stagedGo_publish hk hj rfl] at hexec
    obtain ⟨h1, h2, h3, h4, h5⟩ := State.runPublish_spec (((u.ksp? v.ksp).map fun k => k.rf).getD 1) (acks := acks) rfl
      ⟨hwhole, hfree, hro, hsp, hroom, hfit, hleaf, htown, hask, hpass⟩ hmem
    rw [htun] at h1
    rw [hstaged] at h4
    refine ⟨_, hexec, ?_, ?_, ?_, ?_, ?_⟩
    · rw [tun_reach rfl]
      exact h1
    · rw [kv_reach rfl]
      exact h2
    · rw [kv_reach rfl]
      exact h3
    · rw [kv_reach rfl]
      exact h4
    · rw [kv_reach rfl]
      exact h5
  case discarded =>
    intro s f n d x v hn hm c u hf hv hk
    exact exec_stageDiscard hn hm hf hv hk
  case idle => exact fun s h v hs hv => exec_stagedIdleTimeout hs hv
  case away => exact fun s c f n hs h1 h2 hb hf hi hv => State.dispatch_away hs h1 h2 hb hf hi hv
  case remembered => exact fun s c h ho => s.awayReply_open c h ho

end Sys2Proof.Machine
end

section
/-!
SUPPORT. Scans (chapter 02, R88 to R92; chapter 04, R210; chapter 08, R388).
-/

namespace Sys2Proof.Machine

/-! ### The order of keys (R88, R92) -/

/-- The order of keys in a scan is that of their digests, then lengths, then bytes. -/
def keyRank (k : Nat × Bytes) : Nat ×ₗ Nat ×ₗ Nat := toLex (k.1, toLex (k.2.length, ofBe k.2))

theorem keyLt_iff (a b : Nat × Bytes) : keyLt a b = true ↔ keyRank a < keyRank b := by
  unfold keyLt keyRank
  simp [Prod.Lex.toLex_lt_toLex]

theorem keyLt_eq_false_iff (a b : Nat × Bytes) : keyLt a b = false ↔ keyRank b ≤ keyRank a := by
  rw [← not_lt, ← keyLt_iff, Bool.not_eq_true]

/-- Scan order without repetition. -/
def scanSorted (l : List (Nat × Bytes)) : Prop := l.Pairwise fun a b => keyLt b a = false ∧ a ≠ b

theorem mem_insertKey {x k : Nat × Bytes} {l : List (Nat × Bytes)} (h : k ∈ insertKey x l) : k = x ∨ k ∈ l := by
  induction l with
  | nil => exact Or.inl (List.mem_singleton.1 h)
  | cons y ys ih =>
    unfold insertKey at h
    split at h
    · exact Or.inr h
    · split at h
      · exact List.mem_cons.1 h
      · rcases List.mem_cons.1 h with rfl | h
        · exact Or.inr List.mem_cons_self
        · exact (ih h).imp_right (List.mem_cons_of_mem y)

theorem scanSorted_insertKey (x : Nat × Bytes) {l : List (Nat × Bytes)} (h : scanSorted l) : scanSorted (insertKey x l) := by
  induction l with
  | nil => exact List.pairwise_singleton _ _
  | cons y ys ih =>
    obtain ⟨hy, hys⟩ := List.pairwise_cons.1 h
    unfold insertKey
    split
    · exact h
    · next hne =>
      split
      · next hlt =>
        have hxy := (keyLt_iff x y).1 hlt
        refine List.pairwise_cons.2 ⟨fun z hz => ?_, h⟩
        have hyz : keyRank y ≤ keyRank z := by
          rcases List.mem_cons.1 hz with rfl | hz
          · exact le_refl _
          · exact (keyLt_eq_false_iff z y).1 (hy z hz).1
        have hxz := lt_of_lt_of_le hxy hyz
        exact ⟨(keyLt_eq_false_iff z x).2 hxz.le, fun he => (ne_of_lt hxz) (congrArg keyRank he)⟩
      · next hge =>
        refine List.pairwise_cons.2 ⟨fun z hz => ?_, ih hys⟩
        rcases mem_insertKey hz with rfl | hz
        · exact ⟨Bool.not_eq_true _ ▸ hge, fun he => hne he.symm⟩
        · exact hy z hz

theorem insertKeys_spec (l : List (Nat × Bytes)) {acc : List (Nat × Bytes)} (h : scanSorted acc) :
    scanSorted (l.foldl (fun acc k => insertKey k acc) acc) ∧ ∀ k ∈ l.foldl (fun acc k => insertKey k acc) acc, k ∈ acc ∨ k ∈ l := by
  induction l generalizing acc with
  | nil => exact ⟨h, fun k hk => Or.inl hk⟩
  | cons x l ih =>
    obtain ⟨h1, h2⟩ := ih (scanSorted_insertKey x h)
    refine ⟨h1, fun k hk => ?_⟩
    rcases h2 k hk with hk | hk
    · rcases mem_insertKey hk with rfl | hk
      · exact Or.inr List.mem_cons_self
      · exact Or.inl hk
    · exact Or.inr (List.mem_cons_of_mem x hk)

/-- The keys of a scan stand in scan order, each of a Ward that the part serves and within the digests asked for. -/
theorem State.scanKeys_spec (s : State) (ls : List Leaf) (ksp lo hi : Nat) :
    (∀ k ∈ s.scanKeys ls ksp lo hi, s.wardOwner (wardOf k.1) = .self ∧ lo ≤ k.1 ∧ k.1 < hi) ∧ scanSorted (s.scanKeys ls ksp lo hi) := by
  unfold State.scanKeys
  extract_lets a b
  obtain ⟨h1, h2⟩ := insertKeys_spec ((a ++ b).filter fun k => decide (lo ≤ k.1 ∧ k.1 < hi) && decide (s.wardOwner (wardOf k.1) = .self)) (acc := []) List.Pairwise.nil
  refine ⟨fun k hk => ?_, h1⟩
  rcases h2 k hk with hk | hk
  · cases hk
  · obtain ⟨-, hk⟩ := List.mem_filter.1 hk
    obtain ⟨hd, ho⟩ := Bool.and_eq_true_iff.1 hk
    exact ⟨of_decide_eq_true ho, of_decide_eq_true hd⟩

/-! ### Whole digest groups (R91, R92) -/

theorem headGroup_take (l : List (Nat × Bytes)) : headGroup l = l.take (headGroup l).length := by
  unfold headGroup
  split
  · rfl
  · next x xs => exact List.prefix_iff_eq_take.1 (List.takeWhile_prefix _)

/-- The records of a call are the first of those found. -/
theorem takeGroups_take (fuel : Nat) : ∀ (cap left : Nat) (first : Bool) (l : List (Nat × Bytes)), ∃ k, takeGroups fuel cap left first l = l.take k := by
  induction fuel with
  | zero => exact fun _ _ _ _ => ⟨0, rfl⟩
  | succ fuel ih =>
    intro cap left first l
    unfold takeGroups
    extract_lets g n
    split
    · exact ⟨0, rfl⟩
    · obtain ⟨k, hk⟩ := ih (cap - n) (left - g.length) false (l.drop g.length)
      refine ⟨g.length + k, ?_⟩
      rw [hk, List.take_add]
      exact congrArg (· ++ _) (headGroup_take l)

/-- The records that an operation's call returns of those found. -/
def OpCtx.taken (c : OpCtx) (recs : List (Nat × Bytes)) : List (Nat × Bytes) :=
  takeGroups (recs.length + 1) (sglLen (resultSgl c.desc c.fx) - 32) c.desc.vlen true recs

theorem OpCtx.taken_nil (c : OpCtx) : c.taken [] = [] := rfl

/-! ### The end of a call (R90 to R92) -/

/-- The result of a call that returns records. -/
def scanBody (got : List (Nat × Bytes)) (atEnd : Bool) (carried : Nat) : Bytes :=
  scanHeader got.length atEnd ((got.getLast?.map fun y => y.1).getD 0) carried ++ (got.map fun y => y.2).flatten

section answer

variable (s : State) (c : OpCtx) (t carried : Nat) (atEnd : Bool) {recs : List (Nat × Bytes)}

/-- Nothing was found. -/
theorem State.scanAnswer_nil (hc : 32 ≤ sglLen (resultSgl c.desc c.fx)) :
    s.scanAnswer c t carried atEnd [] = s.finish c { status := 0, rlen := 32, rstamp := t } [(0, scanHeader 0 true (fieldAt (keyOf c.desc c.fx) 0 16) carried)] := by
  unfold State.scanAnswer
  exact (if_pos rfl).trans (if_pos hc)

/-- Nothing was found, and the header has no room. -/
theorem State.scanAnswer_nil_short (hc : sglLen (resultSgl c.desc c.fx) < 32) :
    s.scanAnswer c t carried atEnd [] = s.finish c { status := 0x0001, rlen := 32, rstamp := t } [] := by
  unfold State.scanAnswer
  exact (if_pos rfl).trans (if_neg (Nat.not_le.2 hc))

/-- The first digest group does not fit. -/
theorem State.scanAnswer_short (hr : recs ≠ []) (hc : sglLen (resultSgl c.desc c.fx) < 32 ∨ c.taken recs = []) :
    s.scanAnswer c t carried atEnd recs = s.finish c { status := 0x0001, rlen := 32 + ((headGroup recs).map fun y => y.2.length).sum, rstamp := t }
      (if 32 ≤ sglLen (resultSgl c.desc c.fx) then [(0, scanHeader 0 false (fieldAt (keyOf c.desc c.fx) 0 16) carried)] else []) := by
  have hne : ¬recs.isEmpty = true := by rwa [List.isEmpty_iff]
  unfold State.scanAnswer
  dsimp only
  rw [if_neg hne]
  exact if_pos (hc.imp_right List.isEmpty_iff.2)

/-- Some digest groups fit. -/
theorem State.scanAnswer_fits (hc : 32 ≤ sglLen (resultSgl c.desc c.fx)) (hg : c.taken recs ≠ []) :
    s.scanAnswer c t carried atEnd recs = s.finish c
      { status := 0, rlen := (scanBody (c.taken recs) (atEnd && decide ((c.taken recs).length = recs.length)) carried).length, rstamp := t }
      [(0, scanBody (c.taken recs) (atEnd && decide ((c.taken recs).length = recs.length)) carried)] := by
  have hne : ¬recs.isEmpty = true := by
    rw [List.isEmpty_iff]
    rintro rfl
    exact hg c.taken_nil
  have hfit : ¬(sglLen (resultSgl c.desc c.fx) < 32 ∨ (c.taken recs).isEmpty = true) := by
    rintro (h | h)
    · omega
    · exact hg (List.isEmpty_iff.1 h)
  unfold State.scanAnswer
  dsimp only
  rw [if_neg hne]
  exact if_neg hfit

end answer

/-! ### A call that has nothing to wait for (R88, R210) -/

/-- The leaves a scan walks in one go. -/
def State.scanWalked (s : State) (c : OpCtx) : List Leaf := s.scanLeaves c c.scanAt (s.scanEnd c)

/-- The keys it finds. -/
def State.scanFound (s : State) (c : OpCtx) : List (Nat × Bytes) := s.scanKeys (s.scanWalked c) c.desc.ksp c.scanAt (s.scanEnd c)

/-- The version of a key at the scan stamp. -/
def State.scanVer (s : State) (c : OpCtx) (t : Nat) (k : Nat × Bytes) : Ver := s.readVer c.desc.ksp k.2 t (c.heldLeaf k.1)

/-- Everything it looks at. -/
def State.scanSeen (s : State) (c : OpCtx) (t : Nat) : List Ver := (s.scanFound c).map (s.scanVer c t) ++ (s.scanWalked c).map fun l => ({ leaf := some l } : Ver)

/-- The records of the present versions. -/
def State.scanNew (s : State) (c : OpCtx) (t : Nat) : List (Nat × Bytes) :=
  (((s.scanFound c).map fun k => (k, s.scanVer c t k)).filter fun y => y.2.present).map fun y => (y.1.1, scanRecord y.1.2 y.2)

/-- The operation behind what it has read. -/
def State.scanOn (s : State) (c : OpCtx) (t : Nat) : OpCtx := { c with scanned := c.scanned ++ s.scanNew c t, scanAt := max c.scanAt (s.scanEnd c) }

/-- The state that has counted what was looked at. -/
def State.scanLooked (s : State) (c : OpCtx) (t : Nat) : State := (s.scanSeen c t).foldl (fun s v => s.countRead v) s

/-- A scan call has nothing to wait for. -/
structure State.ScanGoes (s : State) (c : OpCtx) (t : Nat) : Prop where
  filling : s.fillingIn c.desc.ksp c.scanAt (s.scanEnd c) (max t c.seen) = false
  intents : ∀ k ∈ s.scanFound c, s.intentOn c.desc.ksp k.2 = false
  seen : ∀ v ∈ s.scanSeen c t, v.bad = false ∧ (∀ l, v.leaf = some l → l.rebuild = false) ∧ v.unacked = false ∧ s.missing c v [] = []

theorem State.scanCall_goes {s : State} {c : OpCtx} {t : Nat} (carried : Nat) (h : s.ScanGoes c t) :
    s.scanCall c t carried = (s.scanLooked c t).scanNext (s.scanOn c t) t carried := by
  obtain ⟨hfill, hint, hseen⟩ := h
  have hvs : ((s.scanFound c).map fun k => (k, s.scanVer c t k)).map (fun x => x.2) = (s.scanFound c).map (s.scanVer c t) := List.map_map
  have hall : (((s.scanFound c).map fun k => (k, s.scanVer c t k)).map fun x => x.2) ++ (s.scanWalked c).map (fun l => ({ leaf := some l } : Ver)) = s.scanSeen c t := by
    rw [hvs]
    rfl
  have hheld : ((s.scanFound c).any fun k => s.intentOn c.desc.ksp k.2) = false := List.any_eq_false.2 fun k hk => by rw [hint k hk]; decide
  have hbad : ((s.scanSeen c t).any fun v => v.bad || v.leaf.any fun l => l.rebuild) = false := by
    refine List.any_eq_false.2 fun v hv => ?_
    obtain ⟨hb, hl, -⟩ := hseen v hv
    cases hv' : v.leaf with
    | none => simp [hb]
    | some l => simp [hb, hl l hv']
  have hneed : ((s.scanSeen c t).flatMap fun v => s.missing c v []) = [] := List.flatMap_eq_nil_iff.2 fun v hv => (hseen v hv).2.2.2
  have hacked : ((s.scanSeen c t).any fun v => v.unacked) = false := List.any_eq_false.2 fun v hv => by rw [(hseen v hv).2.2.1]; decide
  unfold State.scanCall
  extract_lets d hi walked keys vs all need looked
  have e1 : all = s.scanSeen c t := hall
  have e2 : need = [] := by
    unfold need
    rw [e1, hneed]
    rfl
  have e3 : (keys.any fun k => s.intentOn d.ksp k.2) = false := hheld
  have e4 : s.fillingIn d.ksp c.scanAt hi (max t c.seen) = false := hfill
  have e5 : looked = s.scanLooked c t := by
    unfold looked
    rw [e1]
    rfl
  rw [e1, e2, e3, e4, e5, hbad, hacked]
  rfl

theorem State.countRead_engines (s : State) (v : Ver) : (s.countRead v).ywp = s.ywp ∧ (s.countRead v).town = s.town := by
  unfold State.countRead
  extract_lets a b p q small
  have ha : a.ywp = s.ywp ∧ a.town = s.town := by
    unfold a
    split
    · exact ⟨rfl, rfl⟩
    · exact ⟨State.fadd_ywp _ _ _ _ _ _, State.fadd_town _ _ _ _ _ _⟩
  have hb : b.ywp = a.ywp ∧ b.town = a.town := by
    unfold b
    clear_value a
    split
    · exact ⟨rfl, rfl⟩
    · exact ⟨State.fadd_ywp _ _ _ _ _ _, State.fadd_town _ _ _ _ _ _⟩
  have hp : p.ywp = b.ywp ∧ p.town = b.town := by
    unfold p
    clear_value b
    exact ⟨State.fmax_ywp _ _ _, State.fmax_town _ _ _⟩
  have hq : q.ywp = p.ywp ∧ q.town = p.town := by
    unfold q
    clear_value p
    cases v.leaf with
    | none => exact ⟨rfl, rfl⟩
    | some l => exact ⟨p.modLeaf_ywp _ _ _ _, p.modLeaf_town _ _ _ _⟩
  have hlast : ({ q with index := { q.index with small := q.index.small ++ small } } : State).ywp = q.ywp ∧
      ({ q with index := { q.index with small := q.index.small ++ small } } : State).town = q.town := by
    clear_value small q
    exact ⟨rfl, rfl⟩
  exact ⟨hlast.1.trans (hq.1.trans (hp.1.trans (hb.1.trans ha.1))), hlast.2.trans (hq.2.trans (hp.2.trans (hb.2.trans ha.2)))⟩

/-- What counting leaves alone. -/
structure LookedKeeps (s w : State) : Prop where
  kv : w.kv = s.kv
  ywp : w.ywp = s.ywp
  town : w.town = s.town
  out : w.out = s.out
  ring : ∀ f n, SameRing f n s w

theorem State.scanLooked_keeps (s : State) (c : OpCtx) (t : Nat) : LookedKeeps s (s.scanLooked c t) := by
  unfold State.scanLooked
  generalize s.scanSeen c t = l
  induction l generalizing s with
  | nil => exact ⟨rfl, rfl, rfl, rfl, fun f n => sameRing_regs rfl rfl⟩
  | cons v l ih =>
    obtain ⟨h1, h2, h3, h4, h5⟩ := ih (s.countRead v)
    have hspec := s.countRead_spec v
    have heng := s.countRead_engines v
    exact ⟨h1.trans (hspec 0 0).2.2, h2.trans heng.1, h3.trans heng.2, h4.trans (hspec 0 0).2.1, fun f n => (hspec f n).1.trans (h5 f n)⟩

/-! ### What follows a call (R88, R91, R388, R399) -/

section next

variable {s : State} {c : OpCtx} (t carried : Nat)

theorem State.scanNext_last (h : 2 ^ 128 ≤ c.scanAt) : s.scanNext c t carried = s.scanAnswer c t carried true c.scanned := if_pos h

theorem State.scanNext_full (h : c.scanAt < 2 ^ 128) (hg : (c.taken c.scanned).length < c.scanned.length) :
    s.scanNext c t carried = s.scanAnswer c t carried false c.scanned := (if_neg (Nat.not_le.2 h)).trans (if_pos hg)

theorem State.scanNext_nobody (h : c.scanAt < 2 ^ 128) (hg : (c.taken c.scanned).length = c.scanned.length)
    (hw : s.wardOwner (wardOf c.scanAt) = .nobody) : s.scanNext c t carried = s.fail c 0x0501 := by
  refine (if_neg (Nat.not_le.2 h)).trans ((if_neg (show ¬(c.taken c.scanned).length < c.scanned.length by omega)).trans ?_)
  rw [hw]
  rfl

theorem State.scanNext_remote {m : Nat} (h : c.scanAt < 2 ^ 128) (hg : (c.taken c.scanned).length = c.scanned.length)
    (hw : s.wardOwner (wardOf c.scanAt) = .remote m) :
    s.scanNext c t carried = (s.modCtx c.id fun e => { e with scanned := c.scanned, scanAt := c.scanAt }).scanAway c m carried := by
  refine (if_neg (Nat.not_le.2 h)).trans ((if_neg (show ¬(c.taken c.scanned).length < c.scanned.length by omega)).trans ?_)
  rw [hw]

end next

/-- The next request number is taken where it is used. -/
def State.numberTaken (s : State) (rq : Nat) : State := if rq = s.ywp.reqNo then { s with ywp := { s.ywp with reqNo := rq + 1 } } else s

theorem State.numberTaken_keeps (s : State) (rq : Nat) : (s.numberTaken rq).ywp.slots = s.ywp.slots ∧ (s.numberTaken rq).kv = s.kv ∧ (s.numberTaken rq).town = s.town := by
  unfold State.numberTaken
  split <;> exact ⟨rfl, rfl, rfl⟩

/-- A request without a body has gone to a session, and its operation waits for the answer. -/
def State.requestSent (s : State) (c : OpCtx) (m : Nat) (d : Desc) (key : Bytes) (rbuf : Nat) (x : Slot) (rq : Nat) : State :=
  (s.sendMsg x.n (.request d key rbuf rq s.town.epoch (s.reqFloor c.id rq) false) [] (some c.id) (s.reserveFor (segCount (slotP x) d.klen 0))).modCtx c.id fun c =>
    { c with phase := .forwarded, ponr := true, dest := m, since := s.clk.cycles, reqNo := rq }

/-- A SCAN is sent to an owner where its session, the areas and the cipher have room (R31, R36). -/
theorem State.forwardAs_scan {s : State} {c : OpCtx} {m rbuf : Nat} {d : Desc} {key : Bytes} {x : Slot} (hx : s.slotFor m c.tenant = some x) (ho : d.opc = 0x10)
    (ha : s.areaUsed ≤ areaBytes) (hf : s.cipherFull x (segCount (slotP x) d.klen 0) = false) :
    ∃ rq, s.forwardAs c m d key [] rbuf = (s.numberTaken rq).requestSent c m d key rbuf x rq := by
  have hstage : ¬(decide (0x0C ≤ d.opc ∧ d.opc ≤ 0x0F) && (decide (s.town.level ≤ 1) || x.ver == 1)) = true := by
    rw [ho]
    simp
  have hsnap : ¬(x.ver = 1 ∧ (d.opc = opSnapOpen ∨ d.opc = opSnapClose)) := by
    rw [ho]
    unfold opSnapOpen opSnapClose
    omega
  have hfull : ¬s.cipherFull x (segCount (slotP x) d.klen ([] : Bytes).length) = true := by
    rw [List.length_nil, hf]
    decide
  refine ⟨if !leavesRecord d c.fx then 0 else if c.reqNo ≠ 0 then c.reqNo else s.ywp.reqNo, ?_⟩
  unfold State.forwardAs
  rw [hx]
  exact (if_neg hstage).trans ((if_neg hsnap).trans ((if_neg (Nat.not_lt.2 ha)).trans (if_neg hfull)))

theorem State.requestSent_spec {s : State} {c : OpCtx} {m rbuf rq : Nat} {d : Desc} {key : Bytes} {x : Slot} (hx : x ∈ s.ywp.slots) :
    (∃ y ∈ (s.requestSent c m d key rbuf x rq).ywp.slots, y.n = x.n ∧
        ∃ q ∈ y.tx, q.ctx = some c.id ∧ ∃ rq fl, q.head = .request d key rbuf rq s.town.epoch fl false) ∧
      ∀ e ∈ s.kv.ctxs, e.id = c.id → ∃ g ∈ (s.requestSent c m d key rbuf x rq).kv.ctxs, g.id = c.id ∧ g.phase = .forwarded ∧ g.dest = m ∧
        g.scanned = e.scanned ∧ g.scanAt = e.scanAt := by
  refine ⟨⟨_, mem_updWhere (p := fun y : Slot => y.n == x.n) hx (beq_self_eq_true _), rfl, _, List.mem_append_right _ List.mem_cons_self, rfl, _, _, rfl⟩, fun e he hid => ?_⟩
  exact ⟨_, mem_updWhere (p := fun b : OpCtx => b.id == c.id) he (by rw [hid]; exact beq_self_eq_true _), hid, rfl, rfl, rfl, rfl⟩

theorem leBytes_length (n v : Nat) : (leBytes n v).length = n := by
  induction n generalizing v with
  | zero => rfl
  | succ n ih => exact congrArg (· + 1) (ih (v / 256))

/-- The key of the request that goes on from a digest. -/
theorem scanCursor_length (at_ carried : Nat) :
    (if at_ = 0 then ([] : Bytes) else leBytes 16 (at_ - 1) ++ leBytes 8 carried).length = if at_ = 0 then 0 else 24 := by
  split
  · rfl
  · rw [List.length_append, leBytes_length, leBytes_length]

/-- A measure of the records that a test picks does not see a change that keeps both. -/
theorem filter_map_updWhere {α β : Type} {p q : α → Bool} {f : α → α} {g : α → β} (hp : ∀ x, p (f x) = p x) (hg : ∀ x, g (f x) = g x) (l : List α) :
    ((updWhere q f l).filter p).map g = (l.filter p).map g := by
  have h1 : p ∘ (fun x => if q x then f x else x) = p := funext fun x => by
    show p (if q x then f x else x) = p x
    split
    · exact hp x
    · rfl
  have h2 : g ∘ (fun x => if q x then f x else x) = g := funext fun x => by
    show g (if q x then f x else x) = g x
    split
    · exact hg x
    · rfl
  unfold updWhere
  rw [List.filter_map, List.map_map, h1, h2]

/-- How far a scan has come takes no room of the areas (R36). -/
theorem State.areaUsed_scan (s : State) (id : Nat) (recs : List (Nat × Bytes)) (at_ : Nat) :
    (s.modCtx id fun e => { e with scanned := recs, scanAt := at_ }).areaUsed = s.areaUsed :=
  congrArg (fun l : List Nat => (s.ywp.slots.map fun x => x.rxQueue).sum + (s.ywp.records.map fun r => 64 + r.body.length).sum + l.sum)
    (filter_map_updWhere (q := fun c => c.id == id) (f := fun e => { e with scanned := recs, scanAt := at_ }) (p := fun c : OpCtx => c.onRing && decide (c.phase = .forwarded)) (g := fun c : OpCtx => c.fx.value.length)
      (fun _ => rfl) (fun _ => rfl) s.kv.ctxs)

/-- The SCAN that a walking part sends to the owner of the next Ward (R388). -/
theorem State.scanAway_spec {s : State} {c : OpCtx} {m carried : Nat} {x : Slot} (hx : s.slotFor m c.tenant = some x) (ho : c.desc.opc = 0x10)
    (ha : s.areaUsed ≤ areaBytes) (hf : s.cipherFull x (segCount (slotP x) (if c.scanAt = 0 then 0 else 24) 0) = false)
    (hc : ∃ e ∈ s.kv.ctxs, e.id = c.id ∧ e.scanned = c.scanned ∧ e.scanAt = c.scanAt) :
    ∃ y ∈ (s.scanAway c m carried).ywp.slots, y.n = x.n ∧ (∃ q ∈ y.tx, q.ctx = some c.id ∧ ∃ rq fl, q.head = .request
        { c.desc with klen := if c.scanAt = 0 then 0 else 24, snap := if c.scanAt = 0 then carried else 0, vlen := max 1 (c.desc.vlen - c.scanned.length) }
        (if c.scanAt = 0 then [] else leBytes 16 (c.scanAt - 1) ++ leBytes 8 carried) scanRbuf rq s.town.epoch fl false) ∧
      ∃ e ∈ (s.scanAway c m carried).kv.ctxs, e.id = c.id ∧ e.phase = .forwarded ∧ e.dest = m ∧ e.scanned = c.scanned ∧ e.scanAt = c.scanAt := by
  obtain ⟨e, he, hid, h1, h2⟩ := hc
  have hmem : x ∈ s.ywp.slots := List.mem_of_find?_eq_some hx
  unfold State.scanAway
  dsimp only
  rw [scanCursor_length]
  obtain ⟨rq, hsent⟩ := State.forwardAs_scan (c := c) (rbuf := scanRbuf)
    (d := { c.desc with klen := if c.scanAt = 0 then 0 else 24, snap := if c.scanAt = 0 then carried else 0, vlen := max 1 (c.desc.vlen - c.scanned.length) })
    (key := if c.scanAt = 0 then [] else leBytes 16 (c.scanAt - 1) ++ leBytes 8 carried) hx ho ha hf
  rw [hsent]
  obtain ⟨k1, k2, k3⟩ := s.numberTaken_keeps rq
  obtain ⟨⟨y, hy, hn, hq⟩, hg⟩ := (s.numberTaken rq).requestSent_spec (c := c) (m := m) (rbuf := scanRbuf) (rq := rq)
    (d := { c.desc with klen := if c.scanAt = 0 then 0 else 24, snap := if c.scanAt = 0 then carried else 0, vlen := max 1 (c.desc.vlen - c.scanned.length) })
    (key := if c.scanAt = 0 then [] else leBytes 16 (c.scanAt - 1) ++ leBytes 8 carried) (k1 ▸ hmem)
  rw [k3] at hq
  obtain ⟨g, hgm, g1, g2, g3, g4, g5⟩ := hg e (k2 ▸ he) hid
  exact ⟨y, hy, hn, hq, g, hgm, g1, g2, g3, g4.trans h1, g5.trans h2⟩

/-! ### The answer of an owner (R388) -/

/-- The records of an answer that are of the Ward asked for. -/
def State.scanMine (s : State) (c : OpCtx) (body : Bytes) : List (Nat × Bytes) :=
  ((scanRecords (fieldAt body 0 4) (body.drop 32)).map fun r => (s.digest c.desc.ksp r.1, r.2)).takeWhile fun r => wardOf r.1 == wardOf c.scanAt

/-- An operation that has scanned so far. -/
def OpCtx.scannedTo (c : OpCtx) (recs : List (Nat × Bytes)) (at_ : Nat) : OpCtx := { c with scanned := recs, scanAt := at_ }

/-- An answer that says the end of its part leads to the next Ward. -/
theorem State.scanReply_end (s : State) (c : OpCtx) (rlen : Nat) (body : Bytes) (h : bitAt (fieldAt body 4 1) 0 = true) :
    s.scanReply c 0 rlen body = (s.modCtx c.id fun e => e.scannedTo (c.scanned ++ s.scanMine c body) (wardStart (wardOf c.scanAt + 1))).scanCall
      (c.scannedTo (c.scanned ++ s.scanMine c body) (wardStart (wardOf c.scanAt + 1))) c.readT c.handle := by
  have hend : decide (fieldAt body 4 1 % 2 = 0) = false := by
    rw [decide_eq_false_iff_not]
    simp only [bitAt, pow_zero, Nat.div_one, beq_iff_eq] at h
    omega
  unfold State.scanReply
  extract_lets w recs mine more next e
  have hmore : more = false := by
    unfold more
    rw [hend, Bool.and_false]
  have hnext : next = wardStart (w + 1) := by
    unfold next
    rw [hmore]
    split <;> rfl
  have he : e = c.scannedTo (c.scanned ++ s.scanMine c body) (wardStart (wardOf c.scanAt + 1)) := by
    unfold e
    rw [hnext]
    rfl
  rw [if_neg (by decide), he]
  rfl

/-! ### The dispatch of a SCAN (R89) -/

/-- The digest at which a SCAN begins. -/
def OpCtx.scanStart (c : OpCtx) : Nat := if c.desc.klen = 0 then 0 else fieldAt (keyOf c.desc c.fx) 0 16 + 1

/-- A SCAN that takes no scan stamp. -/
abbrev State.scanOwn (s : State) (c : OpCtx) : Prop :=
  (c.desc.klen = 24 ∧ fieldAt (keyOf c.desc c.fx) 16 8 = 0) ∨ (c.desc.klen = 0 ∧ c.desc.snap = 0 ∧ s.retainUs = 0)

/-- The scan stamp that a SCAN names. -/
def OpCtx.scanGiven (c : OpCtx) : Nat := if c.desc.klen = 24 then fieldAt (keyOf c.desc c.fx) 16 8 else c.desc.snap

/-- The stamp at which a SCAN reads, and the one that its header carries on. -/
def State.scanStamp (s : State) (c : OpCtx) : Nat := if s.scanOwn c then s.lastStamp else c.scanGiven
def State.scanCarried (s : State) (c : OpCtx) : Nat := if s.scanOwn c then 0 else c.scanGiven

/-- The context `e` of a SCAN `c` as it stands while the SCAN reads at a stamp. -/
def OpCtx.scanFrom (c e : OpCtx) (t carried seen : Nat) : OpCtx := { e with ponr := true, readT := t, handle := carried, scanAt := c.scanStart, seen := seen }

/-- The state in which a SCAN reads. -/
def State.scanning (s : State) (c : OpCtx) (t carried : Nat) : State := s.modCtx c.id fun e => c.scanFrom e t carried s.lastStamp

theorem State.runScan_reads {s : State} {c : OpCtx} (hp : c.ponr = false)
    (h : s.scanOwn c ∨ (c.scanGiven ≠ 0 ∧ s.tooOld c.scanGiven = false ∧ s.passed c.scanGiven = true)) :
    s.runScan c = (s.scanning c (s.scanStamp c) (s.scanCarried c)).scanCall (c.scanFrom c (s.scanStamp c) (s.scanCarried c) s.lastStamp) (s.scanStamp c) (s.scanCarried c) := by
  unfold State.runScan
  dsimp only
  rw [hp, if_neg (by decide)]
  by_cases ho : s.scanOwn c
  · rw [show s.scanStamp c = s.lastStamp from if_pos ho, show s.scanCarried c = 0 from if_pos ho]
    exact if_pos ho
  · obtain ⟨h0, hold, hpass⟩ := h.resolve_left ho
    rw [show s.scanStamp c = c.scanGiven from if_neg ho, show s.scanCarried c = c.scanGiven from if_neg ho]
    refine (if_neg ho).trans ?_
    change (if c.scanGiven ≠ 0 ∧ s.tooOld c.scanGiven = true then _ else match (if c.scanGiven ≠ 0 then some c.scanGiven else s.snapStamp) with | none => _ | some t => _) = _
    rw [hold, if_neg (by simp), if_pos h0]
    exact if_pos ((passed_congr (s := s.scanning c c.scanGiven c.scanGiven) (t := s) rfl _).trans hpass)

/-- A SCAN that takes a scan stamp waits until the clock has passed it. -/
theorem State.runScan_waits {s : State} {c : OpCtx} {stamp : Nat} (hp : c.ponr = false) (ho : ¬s.scanOwn c) (hg : c.scanGiven = 0)
    (hs : s.snapStamp = some stamp) (hpass : s.passed stamp = false) :
    s.runScan c = (s.scanning c stamp stamp).modCtx c.id fun e => { e with phase := .snapRead, stamp := stamp } := by
  unfold State.runScan
  dsimp only
  rw [hp, if_neg (by decide)]
  refine (if_neg ho).trans ?_
  change (if c.scanGiven ≠ 0 ∧ s.tooOld c.scanGiven = true then _ else match (if c.scanGiven ≠ 0 then some c.scanGiven else s.snapStamp) with | none => _ | some t => _) = _
  rw [hg, if_neg (by simp), if_neg (by simp), hs]
  refine if_neg ?_
  show ¬(s.scanning c stamp stamp).passed stamp = true
  rw [passed_congr (s := s.scanning c stamp stamp) (t := s) rfl, hpass]
  decide

/-! ### A part outside a Town (R88) -/

theorem State.scanEnd_alone {s : State} (c : OpCtx) (h : s.isMember = false) : s.scanEnd c = 2 ^ 128 := by
  unfold State.scanEnd
  rw [h]
  split <;> rfl

section alone

variable {u : State} {c : OpCtx} (t carried : Nat) (hm : u.isMember = false) (hl : c.leaves = [])

include hm in
theorem scanning_end : (u.scanning c t carried).scanEnd (c.scanFrom c t carried u.lastStamp) = 2 ^ 128 := State.scanEnd_alone _ hm

include hm in
theorem scanning_walked : (u.scanning c t carried).scanWalked (c.scanFrom c t carried u.lastStamp) = u.scanLeaves c c.scanStart (2 ^ 128) := by
  unfold State.scanWalked
  rw [scanning_end t carried hm]
  rfl

include hm in
theorem scanning_found : (u.scanning c t carried).scanFound (c.scanFrom c t carried u.lastStamp) =
    u.scanKeys (u.scanLeaves c c.scanStart (2 ^ 128)) c.desc.ksp c.scanStart (2 ^ 128) := by
  unfold State.scanFound
  rw [scanning_walked t carried hm, scanning_end t carried hm]
  rfl

include hl in
theorem scanning_ver (k : Nat × Bytes) : (u.scanning c t carried).scanVer (c.scanFrom c t carried u.lastStamp) t k = u.readVer c.desc.ksp k.2 t := by
  unfold State.scanVer
  rw [OpCtx.heldLeaf_none (c := c.scanFrom c t carried u.lastStamp) hl]
  exact State.readVer_congr (s := u.scanning c t carried) (t := u) rfl rfl rfl rfl _ _ _ _

/-- The records of the present versions at a stamp. -/
def State.scanPresent (u : State) (c : OpCtx) (t : Nat) : List (Nat × Bytes) :=
  (((u.scanKeys (u.scanLeaves c c.scanStart (2 ^ 128)) c.desc.ksp c.scanStart (2 ^ 128)).map fun k => (k, u.readVer c.desc.ksp k.2 t)).filter fun y => y.2.present).map
    fun y => (y.1.1, scanRecord y.1.2 y.2)

include hm hl in
theorem scanning_new : (u.scanning c t carried).scanNew (c.scanFrom c t carried u.lastStamp) t = u.scanPresent c t := by
  have hver := scanning_ver (u := u) t carried hl
  unfold State.scanNew State.scanPresent
  rw [scanning_found t carried hm]
  simp only [hver]

include hm hl in
/-- What a SCAN of a part outside a Town asks for before it answers. -/
theorem scanning_goes (hfill : u.fillingIn c.desc.ksp c.scanStart (2 ^ 128) (max t u.lastStamp) = false)
    (hkeys : ∀ k ∈ u.scanKeys (u.scanLeaves c c.scanStart (2 ^ 128)) c.desc.ksp c.scanStart (2 ^ 128), u.intentOn c.desc.ksp k.2 = false ∧
      (u.readVer c.desc.ksp k.2 t).bad = false ∧ (u.readVer c.desc.ksp k.2 t).unacked = false ∧ u.missing c (u.readVer c.desc.ksp k.2 t) [] = [])
    (hwalked : ∀ l ∈ u.scanLeaves c c.scanStart (2 ^ 128), l.rebuild = false ∧ u.missing c { leaf := some l } [] = [])
    (hleaves : ∀ k ∈ u.scanKeys (u.scanLeaves c c.scanStart (2 ^ 128)) c.desc.ksp c.scanStart (2 ^ 128), ∀ l, (u.readVer c.desc.ksp k.2 t).leaf = some l → l.rebuild = false) :
    (u.scanning c t carried).ScanGoes (c.scanFrom c t carried u.lastStamp) t := by
  have hver := scanning_ver (u := u) t carried hl
  refine ⟨?_, ?_, ?_⟩
  · rw [scanning_end t carried hm]
    exact hfill
  · rw [scanning_found t carried hm]
    exact fun k hk => (hkeys k hk).1
  · intro v hv
    unfold State.scanSeen at hv
    rw [scanning_found t carried hm, scanning_walked t carried hm] at hv
    rcases List.mem_append.1 hv with hv | hv
    · obtain ⟨k, hk, rfl⟩ := List.mem_map.1 hv
      obtain ⟨-, hb, hu, hmiss⟩ := hkeys k hk
      rw [hver]
      exact ⟨hb, hleaves k hk, hu, hmiss⟩
    · obtain ⟨l, hlw, rfl⟩ := List.mem_map.1 hv
      obtain ⟨hr, hmiss⟩ := hwalked l hlw
      exact ⟨rfl, fun l' h' => Option.some.inj h' ▸ hr, rfl, hmiss⟩

include hm hl in
/-- A SCAN of a part outside a Town that has nothing to wait for answers what it has found. -/
theorem scanning_answers (hc : c.scanned = []) (h : (u.scanning c t carried).ScanGoes (c.scanFrom c t carried u.lastStamp) t) :
    (u.scanning c t carried).scanCall (c.scanFrom c t carried u.lastStamp) t carried =
      ((u.scanning c t carried).scanLooked (c.scanFrom c t carried u.lastStamp) t).scanAnswer
        ((u.scanning c t carried).scanOn (c.scanFrom c t carried u.lastStamp) t) t carried true (u.scanPresent c t) := by
  have hlast : 2 ^ 128 ≤ ((u.scanning c t carried).scanOn (c.scanFrom c t carried u.lastStamp) t).scanAt := by
    show 2 ^ 128 ≤ max _ _
    rw [scanning_end t carried hm]
    exact le_max_right _ _
  have hrecs : ((u.scanning c t carried).scanOn (c.scanFrom c t carried u.lastStamp) t).scanned = u.scanPresent c t := by
    show c.scanned ++ _ = _
    rw [hc, scanning_new t carried hm hl]
    rfl
  rw [State.scanCall_goes carried h, State.scanNext_last t carried hlast, hrecs]

/-- The end of a SCAN, in the state that has read, ends it in the state that fetched it. -/
theorem scanning_ends {f n : Nat} {r : Res} {ps : List (Nat × Bytes)} (hs : c.src = .ring f n) (ho : c.orphan = false) (hz : c.poison = [])
    (hg : c.gen = u.rg f n .hqRingStat_gen) :
    Safety.Ends u f n c.desc c.fx c.id r ps (((u.scanning c t carried).scanLooked (c.scanFrom c t carried u.lastStamp) t).finish
      ((u.scanning c t carried).scanOn (c.scanFrom c t carried u.lastStamp) t) r ps) := by
  have hk := (u.scanning c t carried).scanLooked_keeps (c.scanFrom c t carried u.lastStamp) t
  have hsame : SameRing f n u (u.scanning c t carried) := sameRing_regs rfl rfl
  exact Ends.finish (c := (u.scanning c t carried).scanOn (c.scanFrom c t carried u.lastStamp) t) hs ho hz hg (hsame.trans (hk.ring f n)) fun o ho => hk.out ▸ ho

end alone

/-- A SCAN of a ring that nothing refuses or holds, in a keyspace that is its tenant's, runs. -/
theorem exec_scan {s : State} {f n : Nat} {d : Desc} {x : Fetched} (hn : n ≠ 64) (hm : s.mayFetch f n = true)
    (hf : Safety.Free (s.fetchOne f n { d with opc := 0x10 } x .held) (s.ringCtx f n { d with opc := 0x10 } x .held))
    (hk : (s.fetchOne f n { d with opc := 0x10 } x .held).kspCheck d.ksp f (s.fetchOne f n { d with opc := 0x10 } x .held).slotLoaded = none)
    (hr : (s.fetchOne f n { d with opc := 0x10 } x .held).route (s.ringCtx f n { d with opc := 0x10 } x .held)
      ((s.fetchOne f n { d with opc := 0x10 } x .held).scanWards (s.ringCtx f n { d with opc := 0x10 } x .held))
      ((((s.fetchOne f n { d with opc := 0x10 } x .held).ksp? d.ksp).map fun k => k.rf).getD 1) = .here) :
    exec (.scan (.ring f n) d x) s = done dataParts dataRegs s
      ((s.fetchOne f n { d with opc := 0x10 } x .held).runScan (s.ringCtx f n { d with opc := 0x10 } x .held)) := by
  have hexec := exec_admit (d := d) (x := x) (p := (.scan (.ring f n) d x, 0x10)) (by simp [dataOps]) hn hm
  dsimp only at hexec
  rw [hexec, State.admit_dispatch hf.1, State.dispatch_here (State.unheld_of_free hf) (Or.inr rfl) rfl hk hr]
  rfl

/-! ### The walk of a part (R88, R91, R92, R388) -/

section walk

variable {s : State} {c : OpCtx} {t carried : Nat} (h : s.ScanGoes c t)
include h

/-- Nothing is left to find, and nothing was found. -/
theorem State.scanCall_none (hlast : 2 ^ 128 ≤ (s.scanOn c t).scanAt) (hcap : 32 ≤ sglLen (resultSgl c.desc c.fx)) (hr : (s.scanOn c t).scanned = []) :
    s.scanCall c t carried = (s.scanLooked c t).finish (s.scanOn c t) { status := 0, rlen := 32, rstamp := t }
      [(0, scanHeader 0 true (fieldAt (keyOf c.desc c.fx) 0 16) carried)] := by
  rw [State.scanCall_goes carried h, State.scanNext_last t carried hlast, hr]
  exact State.scanAnswer_nil _ (s.scanOn c t) t carried true hcap

/-- Nothing is left to find, and some of what was found fits. -/
theorem State.scanCall_some (hlast : 2 ^ 128 ≤ (s.scanOn c t).scanAt) (hcap : 32 ≤ sglLen (resultSgl c.desc c.fx))
    (hg : c.taken (s.scanOn c t).scanned ≠ []) :
    s.scanCall c t carried = (s.scanLooked c t).finish (s.scanOn c t)
      { status := 0, rlen := (scanBody (c.taken (s.scanOn c t).scanned) (decide ((c.taken (s.scanOn c t).scanned).length = (s.scanOn c t).scanned.length)) carried).length, rstamp := t }
      [(0, scanBody (c.taken (s.scanOn c t).scanned) (decide ((c.taken (s.scanOn c t).scanned).length = (s.scanOn c t).scanned.length)) carried)] := by
  rw [State.scanCall_goes carried h, State.scanNext_last t carried hlast]
  exact State.scanAnswer_fits _ (s.scanOn c t) t carried true hcap hg

/-- Some of what was found does not fit, and some does. -/
theorem State.scanCall_full (hat : (s.scanOn c t).scanAt < 2 ^ 128) (hfew : (c.taken (s.scanOn c t).scanned).length < (s.scanOn c t).scanned.length)
    (hcap : 32 ≤ sglLen (resultSgl c.desc c.fx)) (hg : c.taken (s.scanOn c t).scanned ≠ []) :
    s.scanCall c t carried = (s.scanLooked c t).finish (s.scanOn c t)
      { status := 0, rlen := (scanBody (c.taken (s.scanOn c t).scanned) false carried).length, rstamp := t }
      [(0, scanBody (c.taken (s.scanOn c t).scanned) false carried)] := by
  rw [State.scanCall_goes carried h, State.scanNext_full t carried hat hfew]
  exact State.scanAnswer_fits _ (s.scanOn c t) t carried false hcap hg

/-- Of what was found, the first digest group does not fit. -/
theorem State.scanCall_short (hend : 2 ^ 128 ≤ (s.scanOn c t).scanAt ∨ (c.taken (s.scanOn c t).scanned).length < (s.scanOn c t).scanned.length)
    (hcap : 32 ≤ sglLen (resultSgl c.desc c.fx)) (hr : (s.scanOn c t).scanned ≠ []) (hg : c.taken (s.scanOn c t).scanned = []) :
    s.scanCall c t carried = (s.scanLooked c t).finish (s.scanOn c t)
      { status := 0x0001, rlen := 32 + ((headGroup (s.scanOn c t).scanned).map fun y => y.2.length).sum, rstamp := t }
      [(0, scanHeader 0 false (fieldAt (keyOf c.desc c.fx) 0 16) carried)] := by
  have hshort : ∀ atEnd, (s.scanLooked c t).scanAnswer (s.scanOn c t) t carried atEnd (s.scanOn c t).scanned = (s.scanLooked c t).finish (s.scanOn c t)
      { status := 0x0001, rlen := 32 + ((headGroup (s.scanOn c t).scanned).map fun y => y.2.length).sum, rstamp := t }
      [(0, scanHeader 0 false (fieldAt (keyOf c.desc c.fx) 0 16) carried)] := fun atEnd => by
    rw [State.scanAnswer_short _ (s.scanOn c t) t carried atEnd hr (Or.inr hg)]
    exact congrArg _ (if_pos hcap)
  rw [State.scanCall_goes carried h]
  by_cases hlast : 2 ^ 128 ≤ (s.scanOn c t).scanAt
  · rw [State.scanNext_last t carried hlast]
    exact hshort true
  · rw [State.scanNext_full t carried (Nat.not_le.1 hlast) (hend.resolve_left hlast)]
    exact hshort false

/-- The next Ward has no owner. -/
theorem State.scanCall_nobody (hat : (s.scanOn c t).scanAt < 2 ^ 128) (hall : (c.taken (s.scanOn c t).scanned).length = (s.scanOn c t).scanned.length)
    (hw : (s.scanLooked c t).wardOwner (wardOf (s.scanOn c t).scanAt) = .nobody) :
    s.scanCall c t carried = (s.scanLooked c t).fail (s.scanOn c t) 0x0501 := by
  rw [State.scanCall_goes carried h]
  exact State.scanNext_nobody t carried hat hall hw

/-- The next Ward has another owner: a SCAN that goes on from there is sent to it. -/
theorem State.scanCall_remote {m : Nat} {x : Slot} (ho : c.desc.opc = 0x10) (hat : (s.scanOn c t).scanAt < 2 ^ 128)
    (hall : (c.taken (s.scanOn c t).scanned).length = (s.scanOn c t).scanned.length)
    (hw : (s.scanLooked c t).wardOwner (wardOf (s.scanOn c t).scanAt) = .remote m) (hx : s.slotFor m c.tenant = some x)
    (hf : (s.scanLooked c t).cipherFull x (segCount (slotP x) (if (s.scanOn c t).scanAt = 0 then 0 else 24) 0) = false) (ha : s.areaUsed ≤ areaBytes) (hc : c ∈ s.kv.ctxs) :
    ∃ y ∈ (s.scanCall c t carried).ywp.slots, y.n = x.n ∧ (∃ q ∈ y.tx, q.ctx = some c.id ∧ ∃ rq fl, q.head = .request
        { c.desc with klen := if (s.scanOn c t).scanAt = 0 then 0 else 24, snap := if (s.scanOn c t).scanAt = 0 then carried else 0,
                      vlen := max 1 (c.desc.vlen - (s.scanOn c t).scanned.length) }
        (if (s.scanOn c t).scanAt = 0 then [] else leBytes 16 ((s.scanOn c t).scanAt - 1) ++ leBytes 8 carried) scanRbuf rq s.town.epoch fl false) ∧
      ∃ e ∈ (s.scanCall c t carried).kv.ctxs, e.id = c.id ∧ e.phase = .forwarded ∧ e.dest = m ∧ e.scanned = (s.scanOn c t).scanned ∧ e.scanAt = (s.scanOn c t).scanAt := by
  obtain ⟨hkv, hywp, htown, -, -⟩ := s.scanLooked_keeps c t
  have hslot : (s.scanLooked c t).slotFor m c.tenant = some x := by
    unfold State.slotFor
    rw [hywp]
    exact hx
  have harea : (s.scanLooked c t).areaUsed ≤ areaBytes := by
    unfold State.areaUsed
    rw [hywp, hkv]
    exact ha
  rw [State.scanCall_goes carried h, State.scanNext_remote (c := s.scanOn c t) t carried hat hall hw, ← htown]
  refine State.scanAway_spec (s := (s.scanLooked c t).modCtx c.id fun e => { e with scanned := (s.scanOn c t).scanned, scanAt := (s.scanOn c t).scanAt }) (c := s.scanOn c t)
    hslot ho ?_ hf ⟨_, mem_updWhere (p := fun e : OpCtx => e.id == c.id) (hkv ▸ hc) (beq_self_eq_true _), rfl, rfl, rfl⟩
  rw [State.areaUsed_scan]
  exact harea

end walk

/-! ### A SCAN of a ring -/

section ring

variable {s : State} {f n : Nat} {d : Desc} {x : Fetched} {u : State} {c : OpCtx} (hn : n ≠ 64) (hm : s.mayFetch f n = true)
  (hu : u = s.fetchOne f n { d with opc := 0x10 } x .held) (hc : c = s.ringCtx f n { d with opc := 0x10 } x .held) (hf : Safety.Free u c)
  (hk : u.kspCheck d.ksp f u.slotLoaded = none) (hr : u.route c (u.scanWards c) (((u.ksp? d.ksp).map fun k => k.rf).getD 1) = .here)
include hn hm hu hc hf hk hr

/-- What a SCAN that waits for nothing answers is what its answer's end leaves. -/
theorem exec_scan_ends {t carried : Nat} {r : Res} {ps : List (Nat × Bytes)}
    (he : u.runScan c = ((u.scanning c t carried).scanLooked (c.scanFrom c t carried u.lastStamp) t).finish
      ((u.scanning c t carried).scanOn (c.scanFrom c t carried u.lastStamp) t) r ps) :
    ∃ t : State, exec (.scan (.ring f n) d x) s = .next t ∧ Safety.Ends u f n d x c.id r ps t := by
  subst hu hc
  have hexec := exec_scan hn hm hf hk hr
  rw [he] at hexec
  exact ⟨_, hexec, Ends.named (Ends.settle (scanning_ends t carried rfl rfl rfl (s.fetchOne_gen f n { d with opc := 0x10 } x .held)) rfl rfl)⟩

/-- A SCAN that takes a scan stamp waits. -/
theorem exec_scan_waits {stamp : Nat} (hown : ¬u.scanOwn c) (hgiven : c.scanGiven = 0) (hsnap : u.snapStamp = some stamp) (hpass : u.passed stamp = false) :
    ∃ t : State, exec (.scan (.ring f n) d x) s = .next t ∧ t.out = s.out ∧
      ∃ e ∈ t.kv.ctxs, e.id = c.id ∧ e.phase = .snapRead ∧ e.stamp = stamp ∧ e.readT = stamp ∧ e.handle = stamp ∧ e.scanAt = c.scanStart ∧ e.ponr = true := by
  subst hu hc
  have hexec := exec_scan hn hm hf hk hr
  rw [State.runScan_waits rfl hown hgiven hsnap hpass] at hexec
  have hctx := s.fetchOne_mem f n { d with opc := 0x10 } x .held
  have hout := s.fetchOne_out f n { d with opc := 0x10 } x .held
  generalize s.fetchOne f n { d with opc := 0x10 } x .held = u at *
  generalize s.ringCtx f n { d with opc := 0x10 } x .held = c at *
  have hread : c.scanFrom c stamp stamp u.lastStamp ∈ (u.scanning c stamp stamp).kv.ctxs :=
    mem_updWhere (p := fun e : OpCtx => e.id == c.id) hctx (beq_self_eq_true _)
  refine ⟨_, hexec, ?_, ?_⟩
  · rw [out_reach rfl]
    exact hout
  · rw [kv_reach rfl]
    exact ⟨_, mem_updWhere (p := fun e : OpCtx => e.id == c.id) hread (beq_self_eq_true _), rfl, rfl, rfl, rfl, rfl, rfl, rfl⟩

end ring

/-- The clauses of a SCAN outside a Town: what it finds decides its answer. -/
theorem runScan_answers {u : State} {c : OpCtx} (hm : u.isMember = false) (hp : c.ponr = false) (hl : c.leaves = []) (hc : c.scanned = [])
    (hstamp : u.scanOwn c ∨ (c.scanGiven ≠ 0 ∧ u.tooOld c.scanGiven = false ∧ u.passed c.scanGiven = true))
    (hgoes : (u.scanning c (u.scanStamp c) (u.scanCarried c)).ScanGoes (c.scanFrom c (u.scanStamp c) (u.scanCarried c) u.lastStamp) (u.scanStamp c)) :
    u.runScan c = ((u.scanning c (u.scanStamp c) (u.scanCarried c)).scanLooked (c.scanFrom c (u.scanStamp c) (u.scanCarried c) u.lastStamp) (u.scanStamp c)).scanAnswer
      ((u.scanning c (u.scanStamp c) (u.scanCarried c)).scanOn (c.scanFrom c (u.scanStamp c) (u.scanCarried c) u.lastStamp) (u.scanStamp c))
      (u.scanStamp c) (u.scanCarried c) true (u.scanPresent c (u.scanStamp c)) :=
  (State.runScan_reads hp hstamp).trans (scanning_answers _ _ hm hl hc hgoes)

/-- Settles O22: a SCAN of a part outside a Town, the walk of a part from Ward to Ward, and the answer of an owner. -/
theorem scansAnswerWholeGroupsInOrder : Obligations.ScansAnswerWholeGroupsInOrder := by
  unfold Obligations.ScansAnswerWholeGroupsInOrder
  refine ⟨?alone, ?walk, fun s c rlen body h => s.scanReply_end c rlen body h⟩
  case alone =>
    intro s f n d x hn hm hmember c u cstamp start own given t0 carried cur cap walked keys vs recs got body hf hk hr
    have hmem : u.isMember = false := by
      unfold State.isMember
      rw [s.fetchOne_town]
      exact hmember
    refine ⟨fun hstamp hfill hkeys hwalked hleaves => ?_, fun stamp hown hgiven hsnap hpass => exec_scan_waits hn hm rfl rfl hf hk hr hown hgiven hsnap hpass⟩
    have hrun := runScan_answers (u := u) (c := c) hmem rfl rfl rfl hstamp (scanning_goes (c := c) (u := u) t0 carried hmem rfl hfill hkeys hwalked hleaves)
    refine ⟨fun hnil hcap => exec_scan_ends (t := t0) (carried := carried) hn hm rfl rfl hf hk hr (hrun.trans ?_), fun hnil hcap => exec_scan_ends (t := t0) (carried := carried) hn hm rfl rfl hf hk hr (hrun.trans ?_),
      fun _ hcap hgot => exec_scan_ends (t := t0) (carried := carried) hn hm rfl rfl hf hk hr (hrun.trans (State.scanAnswer_fits _ _ t0 carried true hcap hgot)),
      fun hsome hshort => exec_scan_ends (t := t0) (carried := carried) hn hm rfl rfl hf hk hr (hrun.trans (State.scanAnswer_short _ _ t0 carried true hsome hshort))⟩
    · rw [show u.scanPresent c (u.scanStamp c) = [] from hnil]
      exact State.scanAnswer_nil _ _ t0 carried true hcap
    · rw [show u.scanPresent c (u.scanStamp c) = [] from hnil]
      exact State.scanAnswer_nil_short _ _ t0 carried true hcap
  case walk =>
    intro s c f n t0 carried hs ho hz hopc cur cap walked keys ver all vs recs got at_ c' w body hfill hint hall
    have h : s.ScanGoes c t0 := ⟨hfill, hint, hall⟩
    obtain ⟨hkeys, hsorted⟩ := s.scanKeys_spec walked c.desc.ksp c.scanAt (s.scanEnd c)
    refine ⟨hkeys, hsorted, takeGroups_take _ _ _ _ _, s.scanEnd_alone c, fun hlast hcap => ⟨fun hr => State.scanCall_none h hlast hcap hr, fun hg => State.scanCall_some h hlast hcap hg⟩,
      fun hend hcap hr hg => State.scanCall_short h hend hcap hr hg, fun hat hfew hcap hg => State.scanCall_full h hat hfew hcap hg,
      fun hat hsame => ⟨fun hw => State.scanCall_nobody h hat hsame hw, fun m x hw hx hf ha hc _ => State.scanCall_remote h hopc hat hsame hw hx hf ha hc⟩,
      fun r ps => (s.finish_ring c f n r ps hs ho hz).2.1⟩

end Sys2Proof.Machine
end

section
/-!
SUPPORT. Polling, and reads that act as reset requests (chapter 01, R119 to R128, R142, R147, R168).
-/

namespace Sys2Proof.Machine

/-! ### Reset requests (R128, R142, R147) -/

/-- A ring's record rests on the host engine alone. -/
theorem State.ring_congr {s t : State} (h : s.host = t.host) (f n : Nat) : s.ring f n = t.ring f n := by
  unfold State.ring
  rw [h]

/-- A function's record rests on the host engine alone. -/
theorem State.fn_congr {s t : State} (h : s.host = t.host) (f : Nat) : s.fn f = t.fn f := by
  unfold State.fn
  rw [h]

theorem ring_reach {s u : State} {ps : List Part} {ns : List RegName} {f n : Nat} (h : ps.contains .host = true) :
    (settle s (s.within ps ns u)).ring f n = u.ring f n := State.ring_congr (host_reach h) f n

theorem fn_reach {s u : State} {ps : List Part} {ns : List RegName} {f : Nat} (h : ps.contains .host = true) :
    (settle s (s.within ps ns u)).fn f = u.fn f := State.fn_congr (host_reach h) f

/-- A reset request at an ACTIVE ring keeps the cause of an earlier one, and changes nothing else of the ring. -/
theorem State.askReset_ring {s : State} {f n : Nat} (h : s.ringState f n = 1) (cause : Nat) :
    ∃ k, (s.askReset f n cause).ring f n = { s.ring f n with resetReq := some ((s.ring f n).resetReq.getD cause), changeSeq := k } := by
  unfold State.askReset
  rw [if_pos h, State.ring_modRing _ _ _ _ (State.ring_fn _ _ _).1 (State.ring_fn _ _ _).2]
  exact ⟨_, rfl⟩

theorem State.askReset_other (s : State) (f n cause : Nat) {a b : Nat} (h : ¬(a = f ∧ b = n)) : (s.askReset f n cause).ring a b = s.ring a b := by
  unfold State.askReset
  split
  · exact State.ring_modRing_other _ _ _ _ _ _ (State.ring_fn _ _ _).1 (State.ring_fn _ _ _).2 h
  · rfl

theorem State.askReset_rest (s : State) (f n cause : Nat) :
    (s.askReset f n cause).regs = s.regs ∧ (s.askReset f n cause).ev = s.ev ∧ (s.askReset f n cause).clk = s.clk := by
  unfold State.askReset
  split <;> exact ⟨rfl, rfl, rfl⟩

/-- A read that has come in vain: the ring's record changed by `g`, a reset request, and an event. -/
theorem State.readAsReset_spec {s : State} {f n : Nat} (h : s.ringState f n = 1) (g : Ring → Ring) (cause : Nat) (k : EvKind) (key : Nat)
    (hg : ∀ r, (g r).f = r.f ∧ (g r).n = r.n ∧ (g r).resetReq = r.resetReq ∧ (g r).tailSeen = r.tailSeen ∧ (g r).headSeen = r.headSeen) :
    let u := ((s.modRing f n g).askReset f n cause).report k key
    (u.ring f n).resetReq = some ((s.ring f n).resetReq.getD cause) ∧ (u.ring f n).tailSeen = (s.ring f n).tailSeen ∧
      (u.ring f n).headSeen = (s.ring f n).headSeen ∧ u.ev = (s.report k key).ev ∧ ∀ a b, ¬(a = f ∧ b = n) → u.ring a b = s.ring a b := by
  intro u
  obtain ⟨h1, h2, h3, h4, h5⟩ := hg (s.ring f n)
  have hf := h1.trans (s.ring_fn f n).1
  have hn := h2.trans (s.ring_fn f n).2
  have hu : ∀ a b, u.ring a b = ((s.modRing f n g).askReset f n cause).ring a b := State.ring_congr (State.report_host _ _ _ _)
  obtain ⟨c, hc⟩ := State.askReset_ring (s := s.modRing f n g) h cause
  obtain ⟨-, he, hk⟩ := (s.modRing f n g).askReset_rest f n cause
  rw [hu, hc, State.ring_modRing _ _ _ _ hf hn]
  refine ⟨by rw [← h3], h4, h5, report_ev_congr (s := (s.modRing f n g).askReset f n cause) (t := s) he (congrArg Clock.cycles hk) _ _ _, fun a b hab => ?_⟩
  rw [hu, State.askReset_other _ _ _ _ hab, State.ring_modRing_other _ _ _ _ _ _ hf hn hab]

/-- Settles O9: both reads end as `readAsReset_spec` has it. -/
theorem invalidAndFailedDoorbellReadsActAsResetRequests : Obligations.InvalidAndFailedDoorbellReadsActAsResetRequests := by
  unfold Obligations.InvalidAndFailedDoorbellReadsActAsResetRequests
  refine ⟨fun s f n tail head h hr ha hb => ?invalid, fun s f n h ha => ?failed⟩
  case invalid =>
    have e : exec (.doorbellReadDone f n tail head) s = execDoorbellReadDone f n tail head s := rfl
    rw [e]
    unfold execDoorbellReadDone
    rw [when_of (by simp [h, hr])]
    dsimp only
    rw [if_neg (show ¬ State.ringState (s.modRing f n _) f n ≠ 1 from fun hc => hc ha),
      if_pos (show State.ringN (s.modRing f n _) f n ≤ tail ∨ State.ringN (s.modRing f n _) f n ≤ head from hb)]
    exact answers (State.readAsReset_spec ha _ 2 .dbInvalid (f * 128 + n) fun _ => ⟨rfl, rfl, rfl, rfl, rfl⟩)
  case failed =>
    have e : exec (.descriptorReadFault f n) s = execDescriptorReadFault f n s := rfl
    rw [e]
    unfold execDescriptorReadFault
    rw [when_of (by simp [h, ha])]
    obtain ⟨h1, -, -, h4, h5⟩ := State.readAsReset_spec ha (fun r => { r with reading := r.reading - 1 }) 1 .fetchError (f * 128 + n)
      fun _ => ⟨rfl, rfl, rfl, rfl, rfl⟩
    exact answers ⟨h1, h4, h5⟩

/-! ### Polls (R119 to R126, R168) -/

/-- A poll on the budget: time has passed to the cycle at which it fell due, and nothing of the rings and functions has changed. -/
theorem State.duePoll_spec (s : State) (due : Nat) (p : Option Nat) :
    ((s.waitCycle due).budgetRead p).out = s.out ∧ due ≤ ((s.waitCycle due).budgetRead p).clk.cycles ∧
      ((s.waitCycle due).budgetRead p).host.rings = s.host.rings ∧ (∀ a, ((s.waitCycle due).budgetRead p).fn a = s.fn a) ∧
      ∀ a b, ((s.waitCycle due).budgetRead p).ring a b = s.ring a b ∧ ((s.waitCycle due).budgetRead p).dbAddr a b = s.dbAddr a b := by
  obtain ⟨h1, h2, h3, -, -⟩ := (s.waitCycle due).budgetRead_spec p
  have hd := State.waitCycle_cycles due s
  refine ⟨h1, by omega, by rw [h3]; rfl, fun a => State.budgetRead_fn _ _ _, fun a b => ⟨State.budgetRead_ring _ _ _ _, State.budgetRead_dbAddr _ _ _ _⟩⟩

/-- The read of a ring's record that fell due. -/
theorem State.dueRead_spec (s : State) (due : Nat) (p : Option Nat) (f n : Nat) :
    let u := ((s.waitCycle due).budgetRead p).readDb f n
    u.out = s.out ++ [Output.memRead f (s.fget .hqDbBase_addr f * 4096 + 16 * n) 16] ∧ (u.ring f n).reading = (s.ring f n).reading + 1 ∧
      due ≤ u.clk.cycles ∧ ∀ a b, ¬(a = f ∧ b = n) → u.ring a b = s.ring a b := by
  intro u
  obtain ⟨h1, h2, -, -, h5⟩ := s.duePoll_spec due p
  refine ⟨?_, ?_, h2, fun a b hab => (State.readDb_other _ _ _ _ _ hab).trans (h5 a b).1⟩
  · rw [State.readDb_out, h1, (h5 f n).2]
    rfl
  · rw [State.readDb_reading, (h5 f n).1]

/-- Reading one record after another takes no time. -/
theorem readDbs_clk (f g : Nat → Nat) (l : List Nat) (s : State) : (l.foldl (fun s n => s.readDb (f n) (g n)) s).clk = s.clk := by
  induction l generalizing s with
  | nil => rfl
  | cons a l ih => exact ih _

/-- Settles O8: a clause for each poll. -/
theorem pollingIssuesTheReadsOfItsMode : Obligations.PollingIssuesTheReadsOfItsMode := by
  unfold Obligations.PollingIssuesTheReadsOfItsMode
  refine ⟨fun s f hp hu he ho hb => ?summary, fun s f hb => ?failed, fun s f n hp hn ha hr hb => ?doorbell, fun s f n h ha hw hr => ?reread, fun s h => ?admin,
    fun s f h hf hd => ?kick⟩
  case summary =>
    obtain ⟨h1, h2, h3, h4, -⟩ := s.duePoll_spec (s.fn f).due (some (s.fn f).due)
    have e : exec (.summaryPoll f) s = execSummaryPoll f s := rfl
    rw [e]
    unfold execSummaryPoll
    rw [when_of (by simp [hp, hu, he, ho, hb])]
    generalize (s.waitCycle (s.fn f).due).budgetRead (some (s.fn f).due) = v at h1 h2 h3 h4
    refine answers ⟨congrArg (· ++ _) h1, ?_, le_max_of_le_right h2, h3⟩
    rw [fn_reach rfl, State.fn_modFn _ _ _ (by exact State.fn_f _ _)]
  case failed =>
    have e : exec (.summaryPoll f) s = execSummaryPoll f s := rfl
    rw [e]
    unfold execSummaryPoll
    rw [when_not (by rcases hb with hb | hb <;> simp [hb])]
    refine answers ⟨rfl, rfl, ?_⟩
    show (⟨max s.clk.cycles s.clk.cycles, s.clk.tai⟩ : Clock) = s.clk
    rw [Nat.max_self]
  case doorbell =>
    obtain ⟨h1, h2, h3, h4⟩ := s.dueRead_spec (s.ring f n).due (some (s.ring f n).due) f n
    have e : exec (.doorbellPoll f n) s = execDoorbellPoll f n s := rfl
    rw [e]
    unfold execDoorbellPoll
    rw [when_of (by simp [hp, hn, ha, hr, hb])]
    generalize ((s.waitCycle (s.ring f n).due).budgetRead (some (s.ring f n).due)).readDb f n = v at h1 h2 h3 h4
    rw [hr] at h2
    refine answers ⟨h1, ?_, le_max_of_le_right h3, fun a b hab => ?_⟩
    · rw [ring_reach rfl, State.ring_modRing _ _ _ _ (by exact (State.ring_fn _ _ _).1) (by exact (State.ring_fn _ _ _).2)]
      exact h2
    · rw [ring_reach rfl, State.ring_modRing_other _ _ _ _ _ _ (by exact (State.ring_fn _ _ _).1) (by exact (State.ring_fn _ _ _).2) hab, h4 a b hab]
  case reread =>
    obtain ⟨h1, h2, h3, h4⟩ := s.dueRead_spec (s.ring f n).roomDue none f n
    have e : exec (.cqHeadReread f n) s = execCqHeadReread f n s := rfl
    rw [e]
    unfold execCqHeadReread
    rw [when_of (by simp [h, ha, hw, hr])]
    generalize ((s.waitCycle (s.ring f n).roomDue).budgetRead none).readDb f n = v at h1 h2 h3 h4
    rw [hr] at h2
    exact answers ⟨h1, h2, le_max_of_le_right h3, h4⟩
  case admin =>
    have e : exec .adminDoorbellPoll s = execAdminDoorbellPoll s := rfl
    rw [e]
    unfold execAdminDoorbellPoll
    rw [when_of h]
    refine answers ⟨?_, (readDbs_out (fun f => f) (fun _ => 64) _ _).1.trans (congrArg (s.out ++ ·) ?_)⟩
    · rw [settle_cycles _ _ _ _ rfl, readDbs_clk (fun f => f) (fun _ => 64), State.waitCycle_cycles]
      omega
    · rfl
  case kick =>
    have e : exec (.hqAdmKick f) s = execHqAdmKick f s := rfl
    rw [e]
    unfold execHqAdmKick State.admKick
    rw [when_of (by simp [State.hasDb, h, hf, hd])]
    exact answers ⟨State.readDb_out _ _ _, State.readDb_reading _ _ _⟩

end Sys2Proof.Machine
end

section
/-!
SUPPORT. Rings are enabled and reset (chapter 01, R142, R144, R145, R170, R172), and messages that coalescing has held back (R141).
-/

namespace Sys2Proof.Machine

/-! ### Coalesced messages and virtual functions (R112, R140, R141) -/

/-- Settles O13: the message of a ring whose oldest counted completion has waited, and the VFs that the owner enables. -/
theorem coalescedMessagesAndVirtualFunctions : Obligations.CoalescedMessagesAndVirtualFunctions := by
  unfold Obligations.CoalescedMessagesAndVirtualFunctions
  refine ⟨fun s f n h hc hi ht => ?coalesced, fun s n h hv hn => ?vfs⟩
  case coalesced =>
    have e : exec (.msixCoalesceTimeout f n) s = execMsixCoalesceTimeout f n s := rfl
    rw [e]
    unfold execMsixCoalesceTimeout
    rw [when_of (by simp [h, hc, hi, ht])]
    dsimp only
    have hw := State.waitCycle_cycles ((s.ring f n).oldest + s.rg f n .hqCoal_timeUs * usCycles) s
    have hv : (s.waitCycle ((s.ring f n).oldest + s.rg f n .hqCoal_timeUs * usCycles)).host = s.host := rfl
    have ho : (s.waitCycle ((s.ring f n).oldest + s.rg f n .hqCoal_timeUs * usCycles)).out = s.out := rfl
    generalize s.waitCycle ((s.ring f n).oldest + s.rg f n .hqCoal_timeUs * usCycles) = w at hw hv ho ⊢
    have hm : (w.modRing f n fun r => { r with counted := 0 }).vecMasked f n = s.vecMasked f n := by
      show w.vecMasked f n = s.vecMasked f n
      unfold State.vecMasked
      rw [State.fn_congr hv, hv]
    have hclk : ((w.modRing f n fun r => { r with counted := 0 }).sendMsix f n).clk = w.clk := by
      unfold State.sendMsix
      split <;> rfl
    refine answers ⟨?_, cycles_reach rfl (by rw [hclk, hw]; rfl), ?_, fun hx => ?_, fun a b hab => ?_⟩
    · rw [ring_reach rfl, State.ring_sendMsix, State.ring_modRing _ _ _ _ (by exact (State.ring_fn _ _ _).1) (by exact (State.ring_fn _ _ _).2)]
    · rw [out_reach rfl, State.sendMsix_out, hm]
      show (if _ then w.out else w.out ++ _) = _
      rw [ho]
    · rw [fn_reach rfl]
      exact State.sendMsix_pba _ _ _ (hm.trans hx)
    · rw [ring_reach rfl, State.ring_sendMsix,
        State.ring_modRing_other _ _ _ _ _ _ (by exact (State.ring_fn _ _ _).1) (by exact (State.ring_fn _ _ _).2) hab, State.ring_congr hv]
  case vfs =>
    have e : exec (.vfEnableSet n) s = execVfEnableSet n s := rfl
    rw [e]
    unfold execVfEnableSet
    rw [when_of (by simp [h, hv]), Nat.min_eq_left hn]
    refine answers ⟨rfl, fun f => ?_⟩
    show decide (f = 0 ∨ f ≤ n) = true ↔ f ≤ n
    rw [decide_eq_true_iff]
    omega

/-! ### The registers of a ring -/

/-- A command that writes HQ_RING_STAT and HQ_ADM_STAT reaches the status of every ring. -/
theorem statReached {x : Fld} (hx : x.reg = .hqRingStat) {ns : List RegName} (h : ns.contains .hqRingStat = true) (ha : ns.contains .hqAdmStat = true) (f n : Nat) :
    ns.contains (ringKey x f n).name = true := by
  rw [ringKey_name, hx]
  split
  · exact ha
  · exact h

/-- A command that writes HQ_RING_CTRL and HQ_ADM_CTRL reaches the control of every ring. -/
theorem ctrlReached {x : Fld} (hx : x.reg = .hqRingCtrl) {ns : List RegName} (h : ns.contains .hqRingCtrl = true) (ha : ns.contains .hqAdmCtrl = true) (f n : Nat) :
    ns.contains (ringKey x f n).name = true := by
  rw [ringKey_name, hx]
  split
  · exact ha
  · exact h

/-- A ring's status and its control are two registers. -/
theorem ringKey_stat_ctrl {x y : Fld} (hx : x.reg = .hqRingStat) (hy : y.reg = .hqRingCtrl) (f n : Nat) : ringKey x f n ≠ ringKey y f n := by
  intro h
  have := congrArg RegKey.name h
  rw [ringKey_name, ringKey_name, hx, hy] at this
  split at this <;> cases this

/-- The status of a ring after a write of its control. -/
theorem State.stat_rpCtrl (s : State) (f n v : Nat) {x y : Fld} (hx : x.reg = .hqRingStat) (hy : y.reg = .hqRingCtrl) : (s.rp f n y v).rg f n x = s.rg f n x :=
  s.rg_rp_reg f n f n y x v (ringKey_stat_ctrl hx hy f n)

/-- The control of a ring after a write of its status. -/
theorem State.ctrl_rpStat (s : State) (f n v : Nat) {x y : Fld} (hx : x.reg = .hqRingStat) (hy : y.reg = .hqRingCtrl) : (s.rp f n x v).rg f n y = s.rg f n y :=
  s.rg_rp_reg f n f n x y v (ringKey_stat_ctrl hx hy f n).symm

/-- A field of a ring's status after a write of another one. -/
theorem State.stat_rpStat (s : State) (f n v : Nat) {x y : Fld} (hx : x.reg = .hqRingStat) (hy : y.reg = .hqRingStat)
    (h : y.lsb + y.w ≤ x.lsb ∨ x.lsb + x.w ≤ y.lsb) : (s.rp f n x v).rg f n y = s.rg f n y := s.rg_rp_field f n x y v (hy.trans hx.symm) h

theorem State.ring_rp (s : State) (f n v : Nat) (x : Fld) (a b : Nat) : (s.rp f n x v).ring a b = s.ring a b := State.ring_congr (State.rp_host _ _ _ _ _) a b

/-! ### ENABLE (R170, R172) -/

/-- The ring that an ENABLE makes ACTIVE. -/
def State.activated (s : State) (f n : Nat) : State :=
  (((s.rp f n .hqRingStat_setupErr 0).rp f n .hqRingStat_state 1).rp f n .hqRingCtrl_enable 1).modRing f n fun r =>
    { r with intervalNs := 250, due := s.clk.cycles + cyclesOfNs 250, phase := true, resetReq := none }

theorem State.enableRing_valid {s : State} {f n : Nat} (hd : s.ringState f n = 0) (he : s.setupErr f n = 0) (hp : n = 64 ∨ s.power.entry = none) :
    s.enableRing f n = s.activated f n := by
  have hb : (if n = 64 then s.activated f n else (s.activated f n).breakSlumber) = s.activated f n := by
    rcases hp with hn | hp
    · exact if_pos hn
    · exact (congrArg _ (breakSlumber_none (s := s.activated f n) (by exact hp))).trans (ite_self _)
  unfold State.enableRing
  rw [if_neg (not_not.2 hd), he]
  exact hb

theorem State.enableRing_refused {s : State} {f n : Nat} (hd : s.ringState f n = 0) (he : s.setupErr f n ≠ 0) :
    s.enableRing f n = s.rp f n .hqRingStat_setupErr (s.setupErr f n) := by
  unfold State.enableRing
  rw [if_neg (not_not.2 hd)]
  exact if_pos he

theorem State.activated_spec (s : State) (f n : Nat) :
    (s.activated f n).ringState f n = 1 ∧ (s.activated f n).rg f n .hqRingCtrl_enable = 1 ∧ (s.activated f n).rg f n .hqRingStat_setupErr = 0 ∧
      (s.activated f n).rg f n .hqRingStat_gen = s.rg f n .hqRingStat_gen ∧
      (∃ k, (s.activated f n).ring f n = { s.ring f n with intervalNs := 250, due := s.clk.cycles + cyclesOfNs 250, phase := true, resetReq := none, changeSeq := k }) ∧
      ∀ a b, ¬(a = f ∧ b = n) → (s.activated f n).ring a b = s.ring a b := by
  have hr : ∀ x, (s.activated f n).rg f n x = (((s.rp f n .hqRingStat_setupErr 0).rp f n .hqRingStat_state 1).rp f n .hqRingCtrl_enable 1).rg f n x :=
    State.rg_congr (State.modRing_regs _ _ _ _) f n
  refine ⟨?_, ?_, ?_, ?_, ?_, fun a b hab => ?_⟩
  · simp (disch := decide) [State.ringState, hr, State.stat_rpCtrl, State.rg_rp_same, Fld.hqRingStat_state]
  · simp (disch := decide) [hr, State.rg_rp_same, Fld.hqRingCtrl_enable]
  · simp (disch := decide) [hr, State.stat_rpCtrl, State.stat_rpStat, State.rg_rp_same]
  · simp (disch := decide) [hr, State.stat_rpCtrl, State.stat_rpStat]
  · unfold State.activated
    rw [State.ring_modRing _ _ _ _ (by exact (State.ring_fn _ _ _).1) (by exact (State.ring_fn _ _ _).2), State.ring_rp, State.ring_rp, State.ring_rp]
    exact ⟨_, rfl⟩
  · unfold State.activated
    rw [State.ring_modRing_other _ _ _ _ _ _ (by exact (State.ring_fn _ _ _).1) (by exact (State.ring_fn _ _ _).2) hab, State.ring_rp, State.ring_rp, State.ring_rp]

/-! ### A reset is taken (R142, R144) -/

/-- What the end of a ring's own command by the reset leaves: the other contexts, the ring's status but for CQ_TAIL and OUTSTANDING, and the count of the marker. -/
structure Aborts (f n : Nat) (l : List OpCtx) (s t : State) : Prop where
  ctxs : t.kv.ctxs = s.kv.ctxs.filter fun e => decide (∀ c ∈ l, e.id ≠ c.id)
  stat : ∀ y : Fld, y.reg = .hqRingStat → y.lsb + y.w ≤ 32 → t.rg f n y = s.rg f n y
  aborted : (t.ring f n).aborted = (s.ring f n).aborted + l.length

theorem State.finishAt_aborts {s : State} {c : OpCtx} {f n : Nat} (hs : c.src = .ring f n) (ho : c.orphan = false) (hr : s.ringState f n = 2) :
    Aborts f n [c] s (s.finishAt c { status := stAborted } []) := by
  have e : s.finishAt c { status := stAborted } [] = (s.releaseCtx c).completeRing c f n { status := stAborted } := by
    unfold State.finishAt
    rw [hs]
    dsimp only
    rw [show s.placeResult c [] = s by unfold State.placeResult; rw [ho]; rfl, show c.told { status := stAborted } [] = { status := stAborted } by
      unfold OpCtx.told; exact if_neg fun h => Bool.noConfusion h.2]
  obtain ⟨r1, r2, -, r4⟩ := s.releaseCtx_spec c
  obtain ⟨c1, -, -, -, c5, c6⟩ := (s.releaseCtx c).completeRing_spec c f n { status := stAborted } ho
  rw [e]
  refine ⟨?_, fun y hy hb => (c5 y hy hb).trans (State.rg_congr r1 f n y), ?_⟩
  · rw [c1, r4]
    exact List.filter_congr fun x _ => by simp [bne, beq_eq_decide]
  · rw [c6 ((State.rg_congr r1 f n _).trans hr), State.ring_congr r2]
    rfl

theorem abortAll {f n : Nat} (l : List OpCtx) (s : State) (hl : ∀ c ∈ l, c.src = .ring f n ∧ c.orphan = false) (hr : s.ringState f n = 2) :
    Aborts f n l s (l.foldl (fun s c => s.finishAt c { status := stAborted } []) s) := by
  induction l generalizing s with
  | nil => exact ⟨by simp, fun _ _ _ => rfl, rfl⟩
  | cons c l ih =>
    obtain ⟨hs, ho⟩ := hl c (by simp)
    obtain ⟨a1, a2, a3⟩ := State.finishAt_aborts hs ho hr
    obtain ⟨b1, b2, b3⟩ := ih _ (fun c h => hl c (List.mem_cons_of_mem _ h)) ((a2 .hqRingStat_state rfl (by decide)).trans hr)
    refine ⟨?_, fun y hy hb => (b2 y hy hb).trans (a2 y hy hb), ?_⟩
    · rw [List.foldl_cons, b1, a1, List.filter_filter]
      exact List.filter_congr fun x _ => by simp [Bool.and_comm]
    · rw [List.foldl_cons, b3, a3, Nat.add_assoc, Nat.add_comm [c].length]
      rfl

/-- The ring whose reset is taken. -/
def State.resetting (s : State) (f n cause : Nat) : State :=
  ((s.rp f n .hqRingStat_state 2).rp f n .hqRingStat_cause cause).modRing f n fun r =>
    { r with resetReq := none, doneAfter := 0, aborted := 0, reading := 0, pendingFetch := false }

theorem exec_resetTaken {s : State} {f n cause : Nat} (h : s.hostOn = true) (ha : s.ringState f n = 1) (hc : (s.ring f n).resetReq = some cause) :
    exec (.queueResetTaken f n) s = done [.kv, .host, .tun, .media, .ywp, .out] ringRegs s
      (((s.ringCtxs f n).filter fun c => !c.ponr).foldl (fun s c => s.finishAt c { status := stAborted } []) (s.resetting f n cause)) := by
  show done _ _ s (match (s.ring f n).resetReq with | none => s | some cause => when _ _ s) = _
  rw [hc]
  dsimp only
  rw [when_of (by simp [h, ha])]
  rfl

theorem State.resetting_stat (s : State) (f n cause : Nat) :
    (s.resetting f n cause).ringState f n = 2 ∧ (s.resetting f n cause).rg f n .hqRingStat_cause = cause % 4 ∧
      (s.resetting f n cause).rg f n .hqRingStat_gen = s.rg f n .hqRingStat_gen ∧
      (s.resetting f n cause).rg f n .hqRingStat_sqHead = s.rg f n .hqRingStat_sqHead ∧ ((s.resetting f n cause).ring f n).aborted = 0 := by
  have hr : ∀ x, (s.resetting f n cause).rg f n x = ((s.rp f n .hqRingStat_state 2).rp f n .hqRingStat_cause cause).rg f n x :=
    State.rg_congr (State.modRing_regs _ _ _ _) f n
  refine ⟨?_, ?_, ?_, ?_, ?_⟩
  · simp (disch := decide) [State.ringState, hr, State.stat_rpStat, State.rg_rp_same, Fld.hqRingStat_state]
  · exact (hr _).trans (State.rg_rp_same _ _ _ _ _)
  · simp (disch := decide) [hr, State.stat_rpStat]
  · simp (disch := decide) [hr, State.stat_rpStat]
  · unfold State.resetting
    rw [State.ring_modRing _ _ _ _ (by exact (State.ring_fn _ _ _).1) (by exact (State.ring_fn _ _ _).2)]

/-! ### A reset is done (R145) -/

/-- The ring that a reset leaves DISABLED in its next generation. -/
def State.disabled (s : State) (f n gen : Nat) : State :=
  (((((s.rp f n .hqRingStat_gen ((gen + 1) % 256)).rp f n .hqRingStat_state 0).rp f n .hqRingCtrl_enable 0).rp f n .hqRingStat_sqHead 0).rp f n .hqRingStat_cqTail 0).modRing
    f n fun r => { r with phase := true, tailSeen := 0, headSeen := 0, pendingFetch := false, counted := 0, doneAfter := 0, aborted := 0 }

theorem State.disabled_spec (s : State) (f n gen : Nat) :
    (s.disabled f n gen).ringState f n = 0 ∧ (s.disabled f n gen).rg f n .hqRingCtrl_enable = 0 ∧ (s.disabled f n gen).rg f n .hqRingStat_gen = (gen + 1) % 256 ∧
      (s.disabled f n gen).rg f n .hqRingStat_sqHead = 0 ∧ (s.disabled f n gen).rg f n .hqRingStat_cqTail = 0 ∧ ((s.disabled f n gen).ring f n).phase = true ∧
      (s.disabled f n gen).out = s.out := by
  have hr : ∀ x, (s.disabled f n gen).rg f n x = (((((s.rp f n .hqRingStat_gen ((gen + 1) % 256)).rp f n .hqRingStat_state 0).rp f n .hqRingCtrl_enable 0).rp
      f n .hqRingStat_sqHead 0).rp f n .hqRingStat_cqTail 0).rg f n x := State.rg_congr (State.modRing_regs _ _ _ _) f n
  refine ⟨?_, ?_, ?_, ?_, ?_, ?_, ?_⟩
  · simp (disch := decide) [State.ringState, hr, State.stat_rpCtrl, State.stat_rpStat, State.rg_rp_same]
  · simp (disch := decide) [hr, State.ctrl_rpStat, State.rg_rp_same]
  · simp (disch := decide) [hr, State.stat_rpCtrl, State.stat_rpStat, State.rg_rp_same, Fld.hqRingStat_gen]
  · simp (disch := decide) [hr, State.stat_rpStat, State.rg_rp_same]
  · simp [hr, State.rg_rp_same]
  · unfold State.disabled
    rw [State.ring_modRing _ _ _ _ (by exact (State.ring_fn _ _ _).1) (by exact (State.ring_fn _ _ _).2)]
  · unfold State.disabled
    rw [State.modRing_out, State.rp_out, State.rp_out, State.rp_out, State.rp_out, State.rp_out]

/-- Settles O12: a clause for each step of a ring's life. -/
theorem ringsAreEnabledAndReset : Obligations.RingsAreEnabledAndReset := by
  unfold Obligations.RingsAreEnabledAndReset
  refine ⟨fun s f n h hf hn hd he hp => ?enabled, fun s f n h hf hn hd he => ?refused, fun s f n => rfl, fun s f n h hf hn => ?request,
    fun s f n cause h ha hc hk => ?taken, fun s f n h ha hl => ?finished⟩
  case enabled =>
    have e : exec (.ringEnable f n) s = execRingEnable f n s := rfl
    rw [e]
    unfold execRingEnable
    rw [when_of (by simp [h, hf, hn]), State.enableRing_valid hd he hp]
    obtain ⟨h1, h2, h3, h4, ⟨k, h5⟩, h6⟩ := s.activated_spec f n
    generalize s.activated f n = u at h1 h2 h3 h4 h5 h6 ⊢
    refine answers ⟨?_, ?_, ?_, ?_, ?_, ?_, ?_, fun a b hab => ?_⟩
    · exact (rg_reach (statReached rfl rfl rfl f n)).trans h1
    · exact (rg_reach (ctrlReached rfl rfl rfl f n)).trans h2
    · exact (rg_reach (statReached rfl rfl rfl f n)).trans h3
    · rw [ring_reach rfl, h5]
    · rw [ring_reach rfl, h5]
    · rw [ring_reach rfl, h5]
    · exact (rg_reach (statReached rfl rfl rfl f n)).trans h4
    · rw [ring_reach rfl, h6 a b hab]
  case refused =>
    have e : exec (.ringEnable f n) s = execRingEnable f n s := rfl
    rw [e]
    unfold execRingEnable
    rw [when_of (by simp [h, hf, hn]), State.enableRing_refused hd he]
    refine answers ⟨?_, ?_, ?_⟩
    · refine (rg_reach (statReached rfl rfl rfl f n)).trans ?_
      exact (State.stat_rpStat _ _ _ _ rfl rfl (by decide)).trans hd
    · rw [rg_reach (statReached rfl rfl rfl f n), State.rg_rp_same]
      refine Nat.mod_eq_of_lt ?_
      show _ < 8
      unfold State.setupErr
      dsimp only
      split_ifs <;> omega
    · rw [host_reach rfl, State.rp_host]
  case request =>
    have e : exec (.ringResetRequest f n) s = execRingResetRequest f n s := rfl
    rw [e]
    unfold execRingResetRequest State.writeReset
    rw [when_of (by simp [h, hf, hn])]
    by_cases ha : s.ringState f n = 1
    · obtain ⟨k, hk⟩ := State.askReset_ring ha 0
      obtain ⟨hregs, -, -⟩ := s.askReset_rest f n 0
      have hother := fun a b => s.askReset_other f n 0 (a := a) (b := b)
      rw [if_pos ⟨ha, rfl⟩, if_pos ha, if_pos ha]
      generalize s.askReset f n 0 = v at hk hregs hother ⊢
      refine answers ⟨?_, ?_, ?_, fun a b hab => ?_⟩
      · unfold State.ringState
        rw [rg_settle, State.rg_within, State.stat_rpCtrl _ _ _ _ rfl rfl, State.rg_congr hregs, ite_self]
      · rw [ring_reach rfl, State.ring_rp, hk]
      · rw [rg_reach (ctrlReached rfl rfl rfl f n), State.rg_rp_same]
        rfl
      · rw [ring_reach rfl, State.ring_rp, hother a b hab]
    · rw [if_neg (fun hc => ha hc.1), if_neg ha, if_neg ha, show s.askReset f n 0 = s from if_neg ha]
      refine answers ⟨?_, rfl, ?_, fun _ _ _ => rfl⟩
      · unfold State.ringState
        rw [rg_settle, State.rg_within, ite_self]
      · rw [rg_settle, State.rg_within, ite_self]
  case taken =>
    obtain ⟨h1, h2, h3, h4, h5⟩ := s.resetting_stat f n cause
    obtain ⟨k1, k2, k3⟩ := abortAll (f := f) (n := n) ((s.ringCtxs f n).filter fun c => !c.ponr) (s.resetting f n cause) (fun c hc => by
      obtain ⟨hc, -⟩ := List.mem_filter.1 hc
      obtain ⟨-, hc⟩ := List.mem_filter.1 hc
      simpa using hc) h1
    have hkv : (s.resetting f n cause).kv = s.kv := by unfold State.resetting; rw [State.modRing_kv, State.rp_kv, State.rp_kv]
    rw [exec_resetTaken h ha hc]
    generalize List.foldl _ _ _ = u at k1 k2 k3 ⊢
    rw [hkv] at k1
    have hmem : ∀ e, e ∈ (settle s (s.within [.kv, .host, .tun, .media, .ywp, .out] ringRegs u)).kv.ctxs ↔
        e ∈ s.kv.ctxs ∧ ∀ c ∈ s.ringCtxs f n, c.ponr = false → e.id ≠ c.id := by
      intro e
      rw [kv_reach rfl, k1]
      simp
    refine answers ⟨?_, ?_, ?_, ?_, ?_, fun e he => ?_, fun e he hn => (hmem e).2 ⟨he, hn⟩⟩
    · exact (rg_reach (statReached rfl rfl rfl f n)).trans ((k2 _ rfl (by decide)).trans h1)
    · rw [rg_reach (statReached rfl rfl rfl f n), k2 _ rfl (by decide), h2, Nat.mod_eq_of_lt hk]
    · rw [rg_reach (statReached rfl rfl rfl f n), k2 _ rfl (by decide), h3]
    · rw [rg_reach (statReached rfl rfl rfl f n), k2 _ rfl (by decide), h4]
    · rw [ring_reach rfl, k3, h5, Nat.zero_add]
      unfold State.ringCtxs
      rw [List.filter_filter, List.filter_filter]
      refine congrArg List.length (List.filter_congr fun x _ => ?_)
      cases x.orphan <;> simp
    · obtain ⟨he, hn⟩ := (hmem e).1 he
      refine ⟨he, fun hx => hn e (List.mem_filter.2 ⟨he, ?_⟩) hx.2.1 rfl⟩
      simp [hx.1, hx.2.2]
  case finished =>
    have e : exec (.queueResetDone f n) s = execQueueResetDone f n s := rfl
    rw [e]
    unfold execQueueResetDone
    rw [when_of (by simp [h, ha, hl])]
    dsimp only
    obtain ⟨-, ⟨l, hout⟩, -⟩ := s.postEntry_spec f n 0 stResetDone (s.rg f n .hqRingStat_sqHead) ((s.ring f n).doneAfter + (s.ring f n).aborted * 2 ^ 32) 0
      (s.rg f n .hqRingStat_gen) true
    generalize s.postEntry f n 0 stResetDone _ _ _ _ _ = v at hout ⊢
    obtain ⟨h1, h2, h3, h4, h5, h6, h7⟩ := v.disabled_spec f n (s.rg f n .hqRingStat_gen)
    change ∃ t, done _ _ s (v.disabled f n (s.rg f n .hqRingStat_gen)) = _ ∧ _
    generalize v.disabled f n (s.rg f n .hqRingStat_gen) = u at h1 h2 h3 h4 h5 h6 h7 ⊢
    refine answers ⟨?_, ?_, ?_, ?_, ?_, ?_, ?_⟩
    · exact (rg_reach (statReached rfl rfl rfl f n)).trans h1
    · exact (rg_reach (ctrlReached rfl rfl rfl f n)).trans h2
    · exact (rg_reach (statReached rfl rfl rfl f n)).trans h3
    · exact (rg_reach (statReached rfl rfl rfl f n)).trans h4
    · exact (rg_reach (statReached rfl rfl rfl f n)).trans h5
    · rw [ring_reach rfl, h6]
    · rw [out_reach rfl, h7, hout]
      exact List.mem_append_right _ (List.mem_cons_self ..)

end Sys2Proof.Machine
end

section
/-!
SUPPORT. Fetching descriptors (chapter 01, R119, R123, R127, R130).
-/

namespace Sys2Proof.Machine

/-- Writing a ring's field and changing its record leave the contexts. -/
theorem State.rp_putKv (s : State) (k : KvSt) (f n v : Nat) (x : Fld) : ({ s with kv := k } : State).rp f n x v = { s.rp f n x v with kv := k } := rfl

theorem State.modRing_putKv (s : State) (k : KvSt) (f n : Nat) (g : Ring → Ring) : ({ s with kv := k } : State).modRing f n g = { s.modRing f n g with kv := k } := rfl

/-- The ring that a command is fetched from: SQ_HEAD moves on, and the command is outstanding. -/
def State.headOn (s : State) (f n : Nat) : State :=
  let u := s.rp f n .hqRingStat_sqHead ((s.rg f n .hqRingStat_sqHead + 1) % s.ringN f n)
  (u.rp f n .hqRingStat_outstanding (u.rg f n .hqRingStat_outstanding + 1)).modRing f n fun r => r

theorem State.headOn_putKv (s : State) (k : KvSt) (f n : Nat) : ({ s with kv := k } : State).headOn f n = { s.headOn f n with kv := k } := by
  unfold State.headOn
  dsimp only
  rw [State.rp_putKv]
  exact (congrArg (State.modRing · f n fun r => r) (State.rp_putKv _ _ _ _ _ _)).trans (State.modRing_putKv _ _ _ _ _)

/-- That a command's value is fetched later shows in its context alone. -/
theorem State.fetchOne_due (s : State) (f n : Nat) (d : Desc) (x : Fetched) (ph : Phase) (due : Bool) :
    s.fetchOne f n d x ph due = { s.fetchOne f n d x ph with kv := { s.kv with ctxs := s.kv.ctxs ++ [s.ringCtx f n d x ph due], nextCtx := s.kv.nextCtx + 1 } } := by
  have e : ∀ b, s.fetchOne f n d x ph b = { s.headOn f n with kv := { s.kv with ctxs := s.kv.ctxs ++ [s.ringCtx f n d x ph b], nextCtx := s.kv.nextCtx + 1 } } :=
    fun b => s.headOn_putKv _ f n
  rw [e due, e false]

/-- A descriptor that nothing refuses early, of a command that needs host memory: the command waits for its first fetches. -/
theorem State.takeDesc_fetches {s : State} {f n : Nat} {d : Desc} (he : n = 64 ∨ s.refusedEarly (s.ringCtx f n d {} .held) = none) (hf : hostFetches (n == 64) d ≠ []) :
    s.takeDesc f n d = (hostFetches (n == 64) d).foldl (fun s r => s.emit (.memRead f r.1 r.2))
      ((s.emit (.memRead f (s.rg f n .hqSqBase_addr * 4096 + 128 * s.rg f n .hqRingStat_sqHead) 128)).fetchOne f n d {} .fetching (valueLater (n == 64) d)) := by
  have hn : (if n = 64 then none else (s.emit (.memRead f (s.rg f n .hqSqBase_addr * 4096 + 128 * s.rg f n .hqRingStat_sqHead) 128)).refusedEarly
      ((s.emit (.memRead f (s.rg f n .hqSqBase_addr * 4096 + 128 * s.rg f n .hqRingStat_sqHead) 128)).ringCtx f n d {} .held)) = none := by
    rcases he with rfl | he
    · rfl
    · exact (congrArg _ he).trans (ite_self _)
  have hz : (hostFetches (n == 64) d).isEmpty = false := by simpa using hf
  unfold State.takeDesc
  dsimp only
  rw [hn]
  simp only [Option.isSome_none, Bool.false_eq_true, if_false, hz]

/-- Settles O11: a turn's frame, the order of turns, the loop over descriptors, the rules of R127, and the descriptor whose command needs host memory. -/
theorem descriptorsAreFetchedWhileTheRulesAllow : Obligations.DescriptorsAreFetchedWhileTheRulesAllow := by
  unfold Obligations.DescriptorsAreFetchedWhileTheRulesAllow
  refine ⟨fun s f n ds hp => ?turn, fun s f n => ?order, fun s f n b bs => ⟨rfl, ?loop⟩, fun s f n h => ?rules, fun s f n d he hf => ?needs⟩
  case turn =>
    have e : exec (.descriptorFetch f n ds) s = execDescriptorFetch f n ds s := rfl
    dsimp only
    rw [e]
    unfold execDescriptorFetch
    refine ⟨fun ht => ?_, fun ht => ?_⟩
    · rw [when_of (by rw [hp, ht]; rfl)]
      rfl
    · rw [when_not (by rw [ht, Bool.and_false])]
      exact answers ⟨rfl, rfl, rfl⟩
  case order =>
    unfold State.itsTurn
    simp only [List.all_eq_true, Bool.or_eq_true, Bool.not_eq_true', Bool.and_eq_false_iff, decide_eq_true_eq]
    refine forall₂_congr fun r _ => ?_
    cases r.pendingFetch <;> cases s.mayFetch r.f r.n <;> simp
  case loop =>
    rw [State.fetchMany]
    simp only [Bool.and_eq_true, decide_eq_true_eq]
  case rules =>
    unfold State.mayFetch State.cqRoom State.posted at h
    simp only [Bool.and_eq_true, decide_eq_true_eq] at h
    obtain ⟨⟨⟨⟨⟨-, h1⟩, h2⟩, h3⟩, h4⟩, h5⟩ := h
    exact ⟨h1, h2, h3, h4, h5⟩
  case needs =>
    rw [State.takeDesc_fetches he hf, emits_spec, State.fetchOne_due]
    obtain ⟨-, h2, h3, h4⟩ := (s.emit (.memRead f (s.rg f n .hqSqBase_addr * 4096 + 128 * s.rg f n .hqRingStat_sqHead) 128)).fetchOne_spec f n d {} .fetching
    exact ⟨_, rfl, rfl, rfl, rfl, rfl, rfl, rfl, rfl, rfl, h2, h3, congrArg (· ++ _) h4⟩

end Sys2Proof.Machine
end

section
/-!
SUPPORT. Admin commands (chapter 01, R127, R151, R777): their arrival, their turn, and the common checks.
-/

namespace Sys2Proof.Machine

/-! ### Arrival (R127, R151) -/

/-- A command of an admin ring arrives there, with its opcode and what runs it. -/
theorem exec_admin {i : Instr} {op f : Nat} {d : Desc} {x : Fetched} {run : State → OpCtx → State} (h : Safety.adminOf i = some (op, f, d, x, run)) (s : State) :
    exec i s = done (Safety.reachOf i).1 (Safety.reachOf i).2 s (s.adminArrive op f d x run) := by
  cases i <;> cases h <;> rfl

/-- An admin command that may be fetched runs at once, or waits for those before it. -/
theorem State.adminArrive_fetched {s : State} {f : Nat} (h : s.mayFetch f 64 = true) (op : Nat) (d : Desc) (x : Fetched) (run : State → OpCtx → State) :
    s.adminArrive op f d x run =
      (if (s.fetchOne f 64 { d with opc := op } x .held).adminBusy (s.ringCtx f 64 { d with opc := op } x .held) then s.fetchOne f 64 { d with opc := op } x .held
        else run (s.fetchOne f 64 { d with opc := op } x .held) (s.ringCtx f 64 { d with opc := op } x .held)) := if_pos h

theorem State.adminArrive_not {s : State} {f : Nat} (h : s.mayFetch f 64 = false) (op : Nat) (d : Desc) (x : Fetched) (run : State → OpCtx → State) :
    s.adminArrive op f d x run = s := if_neg (by simp [h])

/-- A command of an admin ring whose turn it is runs. -/
theorem exec_adminRuns {i : Instr} {op f : Nat} {d : Desc} {x : Fetched} {run : State → OpCtx → State} (h : Safety.adminOf i = some (op, f, d, x, run)) {s : State}
    (hm : s.mayFetch f 64 = true) (hb : (s.fetchOne f 64 { d with opc := op } x .held).adminBusy (s.ringCtx f 64 { d with opc := op } x .held) = false) :
    exec i s = done (Safety.reachOf i).1 (Safety.reachOf i).2 s (run (s.fetchOne f 64 { d with opc := op } x .held) (s.ringCtx f 64 { d with opc := op } x .held)) := by
  rw [exec_admin h, State.adminArrive_fetched hm, if_neg (by simp [hb])]

/-- What is before a command of an admin ring stood there when it came. -/
theorem State.adminBusy_fetched (s : State) (f : Nat) (d : Desc) (x : Fetched) :
    (s.fetchOne f 64 d x .held).adminBusy (s.ringCtx f 64 d x .held) = true ↔ ∃ e ∈ s.kv.ctxs, e.src = .ring f 64 ∧ e.id < s.kv.nextCtx := by
  unfold State.adminBusy
  rw [s.fetchOne_kv]
  simp [State.ringCtx]

/-! ### The common checks (R777) -/

theorem State.adminRun_refused {s : State} {c : OpCtx} {pf bad : Bool} {need st : Nat} (h : adminRefused c pf bad need = some st) (g : State → OpCtx → State) :
    s.adminRun c pf bad need g = s.fail c st := by
  unfold State.adminRun
  rw [h]

theorem State.adminRun_runs {s : State} {c : OpCtx} {pf bad : Bool} {need : Nat} (h : adminRefused c pf bad need = none) (g : State → OpCtx → State) :
    s.adminRun c pf bad need g =
      g (s.modCtx c.id fun _ => { c with ponr := true, phase := .admin, since := s.clk.cycles }) { c with ponr := true, phase := .admin, since := s.clk.cycles } := by
  unfold State.adminRun
  rw [h]

/-- A bad field: of the descriptor, or a reserved one of an SGL that the opcode uses. -/
def adminField (c : OpCtx) (bad : Bool) (need : Nat) : Bool :=
  bad || (adminValue c.desc.opc && decide (c.desc.vsglCnt ≤ 4096) && sglRsv (valueSgl c.desc c.fx))
    || (decide (0 < need) && decide (c.desc.rsglCnt ≤ 4096) && sglRsv (resultSgl c.desc c.fx))

/-- A bad SGL, or one that is too short. -/
def adminSgl (c : OpCtx) (need : Nat) : Bool :=
  (adminValue c.desc.opc && (sglBad c.desc.vsglCnt c.desc.vsglPtr c.desc.vsglInl (valueSgl c.desc c.fx) || decide (sglLen (valueSgl c.desc c.fx) < c.desc.vlen)))
    || (decide (0 < need) && (sglBad c.desc.rsglCnt c.desc.rsglPtr c.desc.rsglInl (resultSgl c.desc c.fx) || decide (sglLen (resultSgl c.desc c.fx) < need)))

/-- The common checks in the order of R777. -/
theorem adminRefused_eq (c : OpCtx) (pf bad : Bool) (need : Nat) :
    adminRefused c pf bad need = if c.fx.fault = true then some 0x0F00 else if (pf && decide (c.tenant ≠ 0)) = true then some 0x0400
      else if adminField c bad need = true then some 0x0101 else if adminSgl c need = true then some 0x0106 else none := rfl

/-- Settles O23: the arrival of every command of an admin ring, and the common checks. -/
theorem adminCommandsRunOneAtATime : Obligations.AdminCommandsRunOneAtATime := by
  unfold Obligations.AdminCommandsRunOneAtATime
  refine ⟨fun i s op f d x run h => ⟨fun hm => ?_, fun hm hb => ?_, fun hm hb => ?_, s.adminBusy_fetched f _ x, ?_, ?_⟩,
    fun s c pf bad need g => ⟨fun st h => State.adminRun_refused h g, fun h => State.adminRun_runs h g, ?checks⟩⟩
  · rw [exec_admin h, State.adminArrive_not hm]
    rfl
  · rw [exec_admin h, State.adminArrive_fetched hm, if_pos hb]
    rfl
  · rw [exec_adminRuns h hm hb]
    rfl
  · exact (s.fetchOne_spec f 64 _ x .held).1
  · exact (s.fetchOne_spec f 64 _ x .held).2.1
  case checks =>
    rw [adminRefused_eq]
    refine ⟨fun hf => if_pos hf, fun hf hp ht => ?_, fun hf hp hb => ?_, fun st h => ?_, fun h hn => ?_⟩
    · rw [if_neg (by simp [hf]), if_pos (by simp [hp, ht])]
    · rw [if_neg (by simp [hf]), if_neg (by rcases hp with hp | hp <;> simp [hp]), if_pos (by simp [adminField, hb])]
    · split_ifs at h <;> simp_all
    · split_ifs at h with _ _ _ hs
      by_contra hc
      exact hs (by simp [adminSgl, hn, Nat.lt_of_not_le hc])

end Sys2Proof.Machine
end

section
/-!
SUPPORT. A STATE_DUMP of one object (chapter 16, R692, R693).
-/

namespace Sys2Proof.Machine

/-! ### A dump of one object (R692, R693) -/

/-- A part at READY whose PF has its admin ring ACTIVE, with 256 slots. -/
def adminUp : State := (({ power := { stage := 10, ready := true } } : State).rp 0 64 .hqRingCtrl_sizeLog2 8).rp 0 64 .hqRingStat_state 1

/-- A dump of type 1 of block 0, with room for 8,192 bytes. -/
def dumpOne : Desc := { tag := 9, key40 := padTo 40 [0, 1], rsglCnt := 1, rsglInl := ⟨8192, 8192, 0⟩ }

/-- The dump's context, and the state that has fetched it. -/
def dumpCtx : OpCtx := adminUp.ringCtx 0 64 { dumpOne with opc := 0x86 } {} .held
def dumpFetched : State := adminUp.fetchOne 0 64 { dumpOne with opc := 0x86 } {} .held

/-- The type has one object of 64 bytes: its header and the object fit, and the dump is complete. -/
theorem dumpFetched_complete : Safety.entryAt dumpFetched 0 64 dumpOne { status := 1, rlen := 64 } ∉ (dumpFetched.runStateDump dumpCtx).out := by decide +kernel

/-- Refutes O24: the clause of STATE_DUMP hands the walk over the objects (`dumpAll`) the number of its rounds as the block and the block as the number
of its rounds. Of block 0 it therefore expects a dump that stops before the first object, with status TRUNCATED; the one object of type 1 fits, and the
command ends with OK. -/
theorem not_adminQueriesWriteTheirRecords : ¬ Obligations.AdminQueriesWriteTheirRecords := by
  unfold Obligations.AdminQueriesWriteTheirRecords
  rintro ⟨-, -, -, -, -, h⟩
  have hmay : adminUp.mayFetch 0 64 = true := by decide +kernel
  have hfree : dumpFetched.adminBusy dumpCtx = false := by decide +kernel
  obtain ⟨t, ht, hentry, -⟩ := h adminUp 0 dumpOne {} 0 0 [] (some (1, 0)) hmay hfree (by decide +kernel) (by decide) (by decide +kernel) (by decide +kernel)
    (by decide +kernel) (Or.inl rfl) (by decide +kernel)
  have hexec := exec_adminRuns (i := .stateDump 0 dumpOne {}) rfl hmay hfree
  have hout : t.out = (dumpFetched.runStateDump dumpCtx).out := by
    rw [show t = _ from Host.Outcome.next.inj (ht.symm.trans hexec)]
    exact out_reach rfl
  exact dumpFetched_complete (hout ▸ hentry)

end Sys2Proof.Machine
end

section
/-!
SUPPORT. Admin commands that run as soon as they are fetched (chapter 01, R127, R151), and the power states (R158 to R160).
-/

namespace Sys2Proof.Machine

/-! ### A command that an admin ring has just given -/

/-- The state `u` in which an admin ring of function `f` has just given the command `c` of descriptor `d`, with everything fetched. -/
structure Given (s u : State) (c : OpCtx) (f : Nat) (d : Desc) (x : Fetched) : Prop where
  src : c.src = .ring f 64
  orphan : c.orphan = false
  poison : c.poison = []
  gen : c.gen = u.rg f 64 .hqRingStat_gen
  desc : c.desc = d
  fx : c.fx = x
  tenant : c.tenant = f
  id : c.id = s.kv.nextCtx
  kv : u.kv = { s.kv with ctxs := s.kv.ctxs ++ [c], nextCtx := s.kv.nextCtx + 1 }
  out : u.out = s.out
  clk : u.clk = s.clk
  power : u.power = s.power
  town : u.town = s.town
  tun : u.tun = s.tun
  ywp : u.ywp = s.ywp
  cip : u.cip = s.cip
  upd : u.upd = s.upd
  free : u.free = s.free
  fget : ∀ g i j k, ringRegs.contains g.reg = false → u.fget g i j k = s.fget g i j k

theorem State.given (s : State) (f : Nat) (d : Desc) (x : Fetched) : Given s (s.fetchOne f 64 d x .held) (s.ringCtx f 64 d x .held) f d x where
  src := rfl
  orphan := rfl
  poison := rfl
  gen := s.fetchOne_gen f 64 d x .held
  desc := rfl
  fx := rfl
  tenant := rfl
  id := rfl
  kv := s.fetchOne_kv f 64 d x .held
  out := State.fetchOne_out _ _ _ _ _ _
  clk := State.fetchOne_clk _ _ _ _ _ _
  power := State.fetchOne_power _ _ _ _ _ _
  town := State.fetchOne_town _ _ _ _ _ _
  tun := State.fetchOne_tun _ _ _ _ _ _
  ywp := State.fetchOne_ywp _ _ _ _ _ _
  cip := State.fetchOne_cip _ _ _ _ _ _
  upd := State.fetchOne_upd _ _ _ _ _ _
  free := State.fetchOne_free _ _ _ _ _ _
  fget g i j k h := by
    have hk : ∀ y : Fld, y.reg = .hqRingStat → g.at i j k ≠ ringKey y f 64 := by
      intro y hy he
      have := (congrArg RegKey.name he).trans (ringKey_name y f 64)
      rw [if_pos rfl, hy] at this
      rw [show g.reg = .hqAdmStat from this] at h
      cases h
    unfold State.fetchOne
    dsimp only
    rw [State.fget_congr (State.modRing_regs _ _ _ _)]
    unfold State.fget State.rp
    rw [State.reg_setReg, if_neg (hk _ rfl), State.reg_setReg, if_neg (hk _ rfl)]
    rfl

/-- An admin command that has begun to execute (R143). -/
def OpCtx.begun (c : OpCtx) (now : Nat) : OpCtx := { c with ponr := true, phase := .admin, since := now }

/-- The state in which it executes. -/
def State.begun (s : State) (c : OpCtx) : State := s.modCtx c.id fun _ => c.begun s.clk.cycles

/-- A command that the common checks do not refuse begins. -/
theorem State.adminRun_begun {u : State} {c : OpCtx} {pf bad : Bool} {need : Nat} (h : adminRefused c pf bad need = none) (g : State → OpCtx → State) :
    u.adminRun c pf bad need g = g (u.begun c) (c.begun u.clk.cycles) := State.adminRun_runs h g

section
variable {s u : State} {c : OpCtx} {f : Nat} {d : Desc} {x : Fetched} (g : Given s u c f d x)
include g

/-- The end of an admin command in a state in which its ring stands as when it was fetched. -/
theorem Given.ends {w : State} (hr : SameRing f 64 u w) (hw : ∀ o ∈ u.out, o ∈ w.out) (r : Res) (ps : List (Nat × Bytes)) (now : Nat) :
    Safety.Ends u f 64 d x c.id r ps (w.finish (c.begun now) r ps) := by
  have h := Ends.finish (c := c.begun now) (r := r) (ps := ps) g.src g.orphan g.poison g.gen hr hw
  rw [← g.desc, ← g.fx]
  exact h

/-- The end of a command that has changed nothing. -/
theorem Given.ends_begun (r : Res) (ps : List (Nat × Bytes)) (now : Nat) : Safety.Ends u f 64 d x c.id r ps ((u.begun c).finish (c.begun now) r ps) :=
  g.ends (w := u.begun c) (sameRing_regs rfl rfl) (fun _ h => h) r ps now

/-- The end of a command that is refused, after it has begun. -/
theorem Given.fails_begun {st : Nat} (h : st ≠ stInternalFault) (now : Nat) : Safety.Ends u f 64 d x c.id { status := st } [] ((u.begun c).fail (c.begun now) st) := by
  rw [State.fail_plain _ _ h]
  exact g.ends_begun _ _ _

end

/-! ### The ports on the way into and out of Nap (R161) -/

/-- What the ports do on their own: the engines, the power state and the rings stay, and no output is taken back. -/
structure PortsAside (s t : State) : Prop where
  ports : PortsOnly s t
  power : t.power = s.power
  host : t.host = s.host
  out : ∀ o ∈ s.out, o ∈ t.out

theorem PortsAside.refl (s : State) : PortsAside s s := ⟨PortsOnly.refl s, rfl, rfl, fun _ h => h⟩

theorem PortsAside.trans {s t u : State} (h : PortsAside s t) (k : PortsAside t u) : PortsAside s u :=
  ⟨h.ports.trans k.ports, k.power.trans h.power, k.host.trans h.host, fun o ho => k.out o (h.out o ho)⟩

theorem PortsAside.ite {c : Prop} [Decidable c] {s t u : State} (h : PortsAside s t) (k : PortsAside s u) : PortsAside s (if c then t else u) := by
  split
  · exact h
  · exact k

theorem PortsAside.foldl {α : Type} (g : State → α → State) (h : ∀ s a, PortsAside s (g s a)) (l : List α) (s : State) : PortsAside s (l.foldl g s) := by
  induction l generalizing s with
  | nil => exact PortsAside.refl s
  | cons a l ih => exact (h s a).trans (ih _)

theorem PortsAside.sameRing {s t : State} (h : PortsAside s t) (f n : Nat) : SameRing f n s t := by
  refine ⟨fun y hy => ?_, State.ring_congr h.host f n⟩
  unfold State.rg
  rw [h.ports.reg]
  rw [ringKey_name]
  rcases hy with hy | hy <;> rw [hy] <;> split <;> decide

theorem portsAside_modPort (s : State) (p : Nat) (g : Port → Port) : PortsAside s (s.modPort p g) := ⟨portsOnly_modPort s p g, rfl, rfl, fun _ h => h⟩

theorem portsAside_netCount (s : State) (p c n : Nat) : PortsAside s (s.netCount p c n) := by
  have h : ∀ (u : State) {x : Fld}, x.reg ∈ [RegName.netCnt, .netCntHalf] → ∀ v i j k, PortsAside u (u.fput x v i j k) := fun u x hx v i j k =>
    ⟨portsOnly_fput u hx v i j k, State.fput_power _ _ _ _ _ _, State.fput_host _ _ _ _ _ _, fun o ho => by rw [State.fput_out]; exact ho⟩
  unfold State.netCount
  dsimp only
  exact PortsAside.ite ((h s (by decide) _ _ _ _).trans (h _ (by decide) _ _ _ _)) (h s (by decide) _ _ _ _)

theorem portsAside_report (s : State) (k : EvKind) (key d : Nat) : PortsAside s (s.report k key d) :=
  ⟨portsOnly_report s k key d, State.report_power _ _ _ _, State.report_host _ _ _ _, fun o ho => by rw [State.report_out]; exact ho⟩

theorem portsAside_ptpOff (s : State) : PortsAside s s.ptpOff := by
  unfold State.ptpOff
  extract_lets was u v
  have hv : PortsAside s v := ⟨portsOnly_time s _, rfl, rfl, fun _ h => h⟩
  exact PortsAside.ite hv (hv.trans (portsAside_report v .timeUnsynced 0 0))

theorem portsAside_portClear (s : State) (p : Nat) : PortsAside s (s.portClear p) := by
  unfold State.portClear
  have h := (portsAside_netCount s p 52 (s.port p).queue.length).trans (portsAside_modPort _ p fun x =>
    { x with link := false, up := false, lanes := 0, rxLanes := 0, queue := [], req := none, txSwitch := none, rxSwitch := none, demand := false,
             lost := (s.netCount p 52 (s.port p).queue.length).clk.cycles })
  exact PortsAside.ite (h.trans (portsAside_ptpOff _)) h

theorem portsAside_bringUp (s : State) (p : Nat) : PortsAside s (s.bringUp p) := portsAside_modPort s p _

theorem portsAside_linkDown (s : State) (p : Nat) : PortsAside s (s.linkDown p) :=
  (((portsAside_netCount s p 56 1).trans (portsAside_report _ _ _ _)).trans (portsAside_portClear _ p)).trans (portsAside_bringUp _ p)

theorem portsAside_countTx (s : State) (p : Nat) (f : TxFrame) : PortsAside s (s.countTx p f) := by
  unfold State.countTx
  extract_lets u v
  have hu : PortsAside s u := ((portsAside_netCount s _ _ _).trans (portsAside_netCount _ _ _ _)).trans (portsAside_netCount _ _ _ _)
  have hv : PortsAside s v := PortsAside.ite (hu.trans (portsAside_netCount _ _ _ _)) hu
  split
  case h_5 => exact hv
  all_goals exact hv.trans (portsAside_netCount _ _ _ _)

theorem portsAside_sendReq (s : State) (p : Nat) (r : Bool) (l since : Nat) : PortsAside s (s.sendReq p r l since) := by
  have hemit : ∀ (v : State) (o : Output), PortsAside v (v.emit o) := fun v o =>
    ⟨⟨rfl, rfl, rfl, rfl, rfl, rfl, fun _ _ => rfl⟩, rfl, rfl, fun _ h => List.mem_append_left _ h⟩
  unfold State.sendReq State.sendPark
  exact ((portsAside_modPort _ _ _).trans (hemit _ _)).trans (portsAside_countTx _ _ _)

theorem portsAside_portsNap (s : State) : PortsAside s s.portsNap := by
  unfold State.portsNap
  refine PortsAside.foldl _ (fun v p => ?_) _ _
  exact PortsAside.ite (PortsAside.ite (PortsAside.ite (portsAside_sendReq v p _ _ _) (PortsAside.refl v)) (portsAside_linkDown v p)) (PortsAside.refl v)

theorem portsAside_portsActive (s : State) : PortsAside s s.portsActive := by
  have hnext : ∀ (v : State) (p : Nat), PortsAside v (v.parkNext p) := fun v p =>
    PortsAside.ite (portsAside_sendReq v p _ _ _) (PortsAside.ite (portsAside_modPort v p _) (PortsAside.refl v))
  unfold State.portsActive
  refine PortsAside.foldl _ (fun v p => ?_) _ _
  exact PortsAside.ite (PortsAside.ite ((portsAside_modPort v p _).trans (hnext _ p)) (portsAside_linkDown v p)) (PortsAside.refl v)

/-! ### SET_POWER_STATE (R158, R159) -/

/-- What SET_POWER_STATE does once it has begun. -/
def State.setPower (s : State) (c : OpCtx) (t : Nat) : State :=
  if t = s.power.pstate then s.finish c { status := stOk, rlen := t } []
  else if t = 3 ∧ s.slumberBusy then s.fail c stPowerBusy
  else if t = 2 then ({ s with power := { s.power with entry := some (t, s.clk.cycles, c.id) } } : State).portsNap
  else { s with power := { s.power with entry := some (t, s.clk.cycles, c.id) } }

/-- A state that no R158 names is a bad field. -/
theorem State.runSetPower_bad {u : State} {c : OpCtx} (h : 3 < param c.desc 56 1) (hr : adminRefused c true (adminBad c.desc 57) 0 = none) :
    u.runSetPower c = u.fail c 0x0101 := by
  have hbad : adminRefused c true (adminBad c.desc 57 || decide (3 < param c.desc 56 1)) 0 = some 0x0101 := by
    rw [adminRefused_eq] at hr ⊢
    split_ifs at hr with h1 h2
    rw [if_neg h1, if_neg h2, if_pos (by simp [adminField, h])]
  unfold State.runSetPower
  exact State.adminRun_refused hbad _

theorem State.runSetPower_begun {u : State} {c : OpCtx} (h : param c.desc 56 1 ≤ 3) (hr : adminRefused c true (adminBad c.desc 57) 0 = none) :
    u.runSetPower c = (u.begun c).setPower (c.begun u.clk.cycles) (param c.desc 56 1) := by
  unfold State.runSetPower
  dsimp only
  rw [State.adminRun_begun (by simpa [Nat.not_lt.2 h] using hr)]
  rfl

/-- An entry that begins: it holds the command, and the ports go on their way where it is one to Nap. -/
theorem State.setPower_enters {u : State} {c : OpCtx} {t : Nat} (hp : t ≠ u.power.pstate) (hb : t = 3 → u.slumberBusy = false) :
    PortsAside { u with power := { u.power with entry := some (t, u.clk.cycles, c.id) } } (u.setPower c t) := by
  unfold State.setPower
  rw [if_neg hp, if_neg fun h => by rw [hb h.1] at h; exact Bool.noConfusion h.2]
  exact PortsAside.ite (portsAside_portsNap _) (PortsAside.refl _)

section
variable {s u : State} {c : OpCtx} {d : Desc} {x : Fetched} (g : Given s u c 0 d x) (hr : adminRefused c true (adminBad c.desc 57) 0 = none)
include g hr

/-- How SET_POWER_STATE ends at once, or is refused. -/
theorem Given.setPower_ends :
    (3 < param c.desc 56 1 → (u.runSetPower c).power = s.power ∧ Safety.Ends u 0 64 d x c.id { status := 0x0101 } [] (u.runSetPower c)) ∧
    (param c.desc 56 1 ≤ 3 → param c.desc 56 1 = s.power.pstate →
      (u.runSetPower c).power = s.power ∧ Safety.Ends u 0 64 d x c.id { status := 0, rlen := param c.desc 56 1 } [] (u.runSetPower c)) ∧
    (param c.desc 56 1 = 3 → s.power.pstate ≠ 3 → u.slumberBusy = true →
      (u.runSetPower c).power = s.power ∧ Safety.Ends u 0 64 d x c.id { status := 0x010C } [] (u.runSetPower c)) := by
  have hp : (u.begun c).power = s.power := g.power
  refine ⟨fun h => ?_, fun h he => ?_, fun h hn hb => ?_⟩
  · rw [State.runSetPower_bad h hr]
    refine ⟨(endKeeps_fail _ _ _).power.trans g.power, ?_⟩
    rw [State.fail_plain _ _ (by decide), ← g.desc, ← g.fx]
    exact Ends.finish g.src g.orphan g.poison g.gen (sameRing_regs rfl rfl) fun _ h => h
  · rw [State.runSetPower_begun h hr, State.setPower, if_pos (by rw [hp]; exact he)]
    exact ⟨(endKeeps_finish _ _ _ _).power.trans hp, g.ends_begun _ _ _⟩
  · rw [State.runSetPower_begun (by omega) hr, State.setPower, if_neg (by rw [hp]; omega), if_pos ⟨h, hb⟩]
    exact ⟨(endKeeps_fail _ _ _).power.trans hp, g.fails_begun (by decide) _⟩

/-- How SET_POWER_STATE begins an entry. -/
theorem Given.setPower_begins (h3 : param c.desc 56 1 ≤ 3) (hn : param c.desc 56 1 ≠ s.power.pstate) (hb : param c.desc 56 1 = 3 → u.slumberBusy = false) :
    (u.runSetPower c).power = { s.power with entry := some (param c.desc 56 1, s.clk.cycles, c.id) } ∧
      ∃ e ∈ (u.runSetPower c).kv.ctxs, e.id = c.id ∧ e.phase = .admin ∧ e.ponr = true := by
  have hp := State.setPower_enters (u := u.begun c) (c := c.begun u.clk.cycles) (t := param c.desc 56 1) (by rw [show (u.begun c).power = s.power from g.power]; exact hn) hb
  rw [State.runSetPower_begun h3 hr]
  refine ⟨hp.power.trans ?_, c.begun u.clk.cycles, ?_, rfl, rfl, rfl⟩
  · show ({ u.power with entry := some (param c.desc 56 1, u.clk.cycles, c.id) } : PowerSt) = _
    rw [g.power, g.clk]
  · rw [hp.ports.kv]
    refine mem_updWhere (p := fun e : OpCtx => e.id == c.id) (f := fun _ => c.begun u.clk.cycles) (x := c) ?_ (beq_self_eq_true _)
    rw [g.kv]
    exact List.mem_append_right _ (List.mem_singleton_self c)

end

/-! ### The end of an entry (R160) -/

/-- The part has no other command in flight than that of the entry. -/
theorem State.alone_of {s : State} {id : Nat} (h : ∀ e ∈ s.kv.ctxs, e.id = id ∨ e.pool = .town ∨ e.pool = .queue) :
    (s.kv.ctxs.all fun e => decide (e.id = id ∨ e.pool = .town ∨ e.pool = .queue)) = true := by
  simpa using h

/-- What an entry to a state below Slumber leaves of the part when it ends: the ports go back where it was in Nap. -/
def State.entered (s : State) (t : Nat) : State :=
  if decide (s.power.pstate = 2) then ({ s with power := { s.power with pstate := t, entry := none } } : State).portsActive
  else { s with power := { s.power with pstate := t, entry := none } }

theorem portsAside_entered (s : State) (t : Nat) : PortsAside { s with power := { s.power with pstate := t, entry := none } } (s.entered t) :=
  PortsAside.ite (portsAside_portsActive _) (PortsAside.refl _)

section
variable {s : State} {tgt since id : Nat} {c : OpCtx} (he : s.power.entry = some (tgt, since, id)) (hc : s.kv.ctx? id = some c)
include he hc

/-- An entry is abandoned: the part is Active, and its command ends with POWER_STATE_BUSY. -/
theorem State.abandonEntry_eq : s.abandonEntry =
    (if decide (tgt = 2 ∨ s.power.pstate = 2) then ({ s with power := { s.power with entry := none, pstate := 0 } } : State).portsActive
      else { s with power := { s.power with entry := none, pstate := 0 } }).finish c { status := stPowerBusy } [] := by
  have hk : ∀ u : State, u.kv = s.kv → (match u.kv.ctx? id with | some c => u.finish c { status := stPowerBusy } [] | none => u) = u.finish c { status := stPowerBusy } [] := by
    intro u hu
    rw [hu, hc]
  unfold State.abandonEntry
  rw [he]
  dsimp only
  refine hk _ ?_
  split
  · exact (portsAside_portsActive _).ports.kv
  · rfl

theorem execPowerEntryDone_eq (hs : s.serving = true) (ha : ∀ e ∈ s.kv.ctxs, e.id = id ∨ e.pool = .town ∨ e.pool = .queue) (ht : s.clk.cycles < since + 100 * 600000) :
    exec .powerEntryDone s = done (finishParts ++ [.clk, .power, .time, .net, .cip, .drt, .free]) (countRegs ++ ringRegs ++ [.cipKpSlotStat, .cipKpStat, .cipKpUse, .netWakeBad, .netWakePat, .ywpKeyStat]) s
      (if tgt = 3 then (if s.tun.entries.isEmpty && s.index.journal.isEmpty then s.toSlumber c else s) else (s.entered tgt).finish c { status := stOk, rlen := tgt } []) := by
  have e : exec .powerEntryDone s = execPowerEntryDone s := rfl
  rw [e]
  unfold execPowerEntryDone
  rw [he]
  dsimp only
  rw [hc]
  dsimp only
  rw [State.alone_of ha, hs, if_neg (by simp), if_neg (by unfold msCycles; omega)]
  rfl

end

/-! ### Slumber (R721) -/

theorem State.coastAll_cip (s : State) (mark : Bool) : (s.coastAll mark).cip = s.cip := by
  unfold State.coastAll
  exact List.foldlRecOn _ _ (motive := fun u : State => u.cip = s.cip) rfl fun u h _ _ => h

theorem State.wakeVerify_cip (s : State) : s.wakeVerify.cip = s.cip := by
  unfold State.wakeVerify
  refine List.foldlRecOn _ _ (motive := fun u : State => u.cip = s.cip) rfl fun u h i _ => ?_
  split
  · rw [State.report_cip, State.fput_cip, State.fput_cip, h]
  · exact h

theorem State.toSlumber_spec (s : State) (c : OpCtx) : (s.toSlumber c).power.pstate = 3 ∧ (s.toSlumber c).power.entry = none ∧ (s.toSlumber c).host.linkUp = false ∧
    (s.toSlumber c).cip.keys = [] ∧ ∀ p ∈ (s.toSlumber c).net.ports, p.link = false ∧ p.up = false := by
  refine ⟨rfl, rfl, rfl, ?_, fun p hp => ?_⟩
  · have hz : ((s.shutdownSessions.zeroPages).finish c { status := stOk, rlen := 3 } []).cip.keys = [] := by
      rw [(endKeeps_finish _ _ _ _).cip]
      exact s.shutdownSessions.zeroPages_spec.2.2.2.2
    unfold State.toSlumber
    generalize (s.shutdownSessions.zeroPages).finish c { status := stOk, rlen := 3 } [] = w at hz ⊢
    dsimp only
    rw [State.wakeVerify_cip, State.emit_cip]
    show (State.coastAll (w.tickN msCycles) false).cip.keys = []
    rw [State.coastAll_cip]
    exact hz
  · obtain ⟨q, -, rfl⟩ := List.mem_map.1 hp
    exact ⟨rfl, rfl⟩

/-- Settles O26: the command, the end of an entry below Slumber and of one to Slumber, and the entry that is abandoned. -/
theorem powerStatesAreEnteredOrAbandoned : Obligations.PowerStatesAreEnteredOrAbandoned := by
  unfold Obligations.PowerStatesAreEnteredOrAbandoned
  refine ⟨?command, fun s tgt since f id c he hc hs ha ht hn hr ho => ?below, fun s since id c he hc hs ha hn => ?slumber, fun s tgt since f id c he hc hs hr ho => ?abandoned⟩
  case command =>
    intro s d x hm c u tgt hb hr
    have g := s.given 0 { d with opc := 0x84 } x
    rw [exec_adminRuns (i := .setPowerState 0 d x) rfl hm hb]
    obtain ⟨h1, h2, h3⟩ := g.setPower_ends hr
    refine ⟨fun h => answers ?_, fun h he => answers ?_, fun h hp hs => answers ?_, fun h hp hs => answers ?_⟩
    · exact ⟨(power_reach rfl).trans (h1 h).1, Ends.settle (Ends.named (h1 h).2) rfl rfl⟩
    · exact ⟨(power_reach rfl).trans (h2 h he).1, Ends.settle (Ends.named (h2 h he).2) rfl rfl⟩
    · exact ⟨(power_reach rfl).trans (h3 h hp hs).1, Ends.settle (Ends.named (h3 h hp hs).2) rfl rfl⟩
    · obtain ⟨k1, k2⟩ := g.setPower_begins hr h hp hs
      exact ⟨(power_reach rfl).trans k1, by rw [kv_reach rfl]; exact k2⟩
  case below =>
    have hk := portsAside_entered s tgt
    rw [execPowerEntryDone_eq he hc hs ha hn, if_neg (by omega)]
    generalize s.entered tgt = w at hk ⊢
    have hring : SameRing f 64 s w := (sameRing_regs rfl rfl).trans (hk.sameRing f 64)
    obtain ⟨h1, h2⟩ := Finishes.of_sameRing (w.finish_ring_bare c f 64 { status := stOk, rlen := tgt } hr ho).1 hring
    refine answers ⟨?_, ?_, ?_⟩
    · rw [power_reach rfl, (endKeeps_finish _ _ _ _).power, hk.power]
    · rw [kv_reach rfl, ← KvSt.ctx?_id hc]
      exact h2
    · rw [out_reach rfl]
      exact h1
  case slumber =>
    rw [execPowerEntryDone_eq he hc hs ha hn, if_pos rfl]
    refine ⟨fun h => ?_, fun h1 h2 => ?_⟩
    · rw [if_neg (by rcases h with h | h <;> simp [h])]
      exact answers ⟨rfl, rfl, rfl⟩
    · rw [h1, h2, if_pos (by rfl)]
      obtain ⟨k1, k2, k3, k4, k5⟩ := s.toSlumber_spec c
      generalize s.toSlumber c = w at k1 k2 k3 k4 k5 ⊢
      exact answers ⟨k1, k2, k3, k4, k5⟩
  case abandoned =>
    have e : exec .powerEntryAbandon s = execPowerEntryAbandon s := rfl
    rw [e]
    unfold execPowerEntryAbandon
    rw [he]
    dsimp only
    rw [when_of hs, show 100 * msCycles = 100 * 600000 from rfl]
    obtain ⟨w, hwait⟩ : ∃ w, w = s.waitCycle (since + 100 * 600000) := ⟨_, rfl⟩
    rw [← hwait]
    have hw : w.clk.cycles = max s.clk.cycles (since + 100 * 600000) := by rw [hwait, State.waitCycle_cycles]
    have hp : w.power = s.power := by rw [hwait, State.waitCycle_power]
    have he' : w.power.entry = some (tgt, since, id) := by rw [hp, he]
    have hc' : w.kv.ctx? id = some c := by rw [hwait, State.waitCycle_kv, hc]
    have hk : SameRing f 64 s w := sameRing_regs (by rw [hwait, State.waitCycle_regs]) (by rw [hwait, State.waitCycle_host])
    rw [State.abandonEntry_eq he' hc']
    have hq : PortsAside { w with power := { w.power with entry := none, pstate := 0 } }
        (if decide (tgt = 2 ∨ w.power.pstate = 2) then ({ w with power := { w.power with entry := none, pstate := 0 } } : State).portsActive
          else { w with power := { w.power with entry := none, pstate := 0 } }) := PortsAside.ite (portsAside_portsActive _) (PortsAside.refl _)
    generalize (if decide (tgt = 2 ∨ w.power.pstate = 2) then _ else _ : State) = v at hq ⊢
    have hring : SameRing f 64 s v := (hk.trans (sameRing_regs rfl rfl)).trans (hq.sameRing f 64)
    obtain ⟨h1, h2⟩ := Finishes.of_sameRing (v.finish_ring_bare c f 64 { status := stPowerBusy } hr ho).1 hring
    refine answers ⟨?_, ?_, ?_, ?_⟩
    · rw [power_reach rfl, (endKeeps_finish _ _ _ _).power, hq.power, hp]
    · exact cycles_reach rfl (by rw [(endKeeps_finish _ _ _ _).clk, hq.ports.clk]; exact hw)
    · rw [kv_reach rfl, ← KvSt.ctx?_id hc]
      exact h2
    · rw [out_reach rfl]
      exact h1

end Sys2Proof.Machine
end

section
/-!
SUPPORT. Keyspaces are created and deleted (chapter 01, R154 to R156; chapter 08, R377, R403, R407).
-/

namespace Sys2Proof.Machine

/-! ### The keyspace of a command (R155, R156) -/

/-- The parameters of a KEYSPACE_CREATE that this part can meet: RF, key slot, and members for the replicas. -/
def State.kspFits (s : State) (d : Desc) : Prop :=
  ¬(param d 57 1 = 0 ∨ 4 < param d 57 1 ∨ (1 < param d 57 1 ∧ (!s.isMember) = true) ∨ 63 < param d 58 1 ∨ (s.isMember = true ∧ s.town.live.length < param d 57 1))

/-- The stamp of a creation (R155). -/
def State.kspStamp (s : State) : Nat := if s.below2020 then 0 else s.nowUs * 4096

/-- The keyspace that a KEYSPACE_CREATE makes with a salt. -/
def State.kspMade (s : State) (d : Desc) (salt : Nat) : Keyspace :=
  { ksp := d.ksp, tenant := param d 56 1, rf := param d 57 1, slot := param d 58 1, salt := salt % 2 ^ 128, created := s.kspStamp,
    kcv := (s.keyIn (param d 56 1) (param d 58 1)).map fun k => kcvOf 64 k.key }

section
variable {s : State} {f : Nat} {d : Desc} (hfit : s.kspFits d) (hf : f = 0 ∨ param d 56 1 = f)
include hfit hf

/-- A keyspace number that is taken is refused, by what holds it. -/
theorem State.kspNew_taken {k : Keyspace} (h : s.kspNext d.ksp = some k) : s.kspNew f d = .error (if k.reclaiming then stKspBusy else stKspExists) := by
  unfold State.kspNew
  dsimp only
  rw [if_neg hfit, if_neg (by omega), h]

/-- A free one is made, with the salt given or one drawn. -/
theorem State.kspNew_free (h : s.kspNext d.ksp = none) {r : Nat × State} (hr : (if param d 64 16 = 0 then s.draw else some (param d 64 16, s)) = some r) :
    s.kspNew f d = .ok (s.kspMade d r.1, r.2) := by
  unfold State.kspNew
  dsimp only
  rw [if_neg hfit, if_neg (by omega), h]
  dsimp only
  rw [hr]
  rfl

/-- Where no salt can be drawn, none is made (R533). -/
theorem State.kspNew_saltless (h : s.kspNext d.ksp = none) (hz : param d 64 16 = 0) (hr : s.flag .cipDrbgStat_ready = false) :
    s.kspNew f d = .error stInternalFault := by
  unfold State.kspNew
  dsimp only
  rw [if_neg hfit, if_neg (by omega), h]
  dsimp only
  rw [if_pos hz, show s.draw = none from if_pos (by rw [hr]; rfl)]

end

/-- A draw gives the next free value, and leaves what the end of a command looks at. -/
theorem State.draw_ready {s : State} (h : s.flag .cipDrbgStat_ready = true) :
    ∃ w : State, s.draw = some (Config.freeValue s.free, w) ∧ w.free = s.free + 1 ∧ w.kv = s.kv ∧ w.out = s.out ∧ w.host = s.host ∧
      ∀ q : RegKey, q.name ≠ .cipDrbgStat → w.reg q = s.reg q := by
  unfold State.draw
  rw [h]
  dsimp only
  refine ⟨_, rfl, ?_⟩
  split
  · refine ⟨State.fadd_free _ _ _ _ _ _, State.fadd_kv _ _ _ _ _ _, State.fadd_out _ _ _ _ _ _, State.fadd_host _ _ _ _ _ _, fun q hq => ?_⟩
    exact State.reg_fput_other _ _ _ _ _ _ fun he => hq (by rw [he]; rfl)
  · exact ⟨rfl, rfl, rfl, rfl, fun _ _ => rfl⟩

section
variable {s : State} {f : Nat} {d : Desc} {k : Keyspace}

theorem State.kspGoneNew_active (h : s.kspNext d.ksp = some k) (hk : k.reclaiming = false) (hf : f = 0 ∨ k.tenant = f) :
    s.kspGoneNew f d = .ok { k with reclaiming := true } := by
  unfold State.kspGoneNew
  rw [h]
  dsimp only
  rw [if_neg (by simp [hk]), if_neg (by omega)]

theorem State.kspGoneNew_denied (h : s.kspNext d.ksp = some k) (hk : k.reclaiming = false) (hf : f ≠ 0) (ht : k.tenant ≠ f) :
    s.kspGoneNew f d = .error stAccessDenied := by
  unfold State.kspGoneNew
  rw [h]
  dsimp only
  rw [if_neg (by simp [hk]), if_pos ⟨hf, ht⟩]

theorem State.kspGoneNew_unknown (h : ∀ k, s.kspNext d.ksp = some k → k.reclaiming = true) : s.kspGoneNew f d = .error stKspUnknown := by
  unfold State.kspGoneNew
  cases hk : s.kspNext d.ksp with
  | none => rfl
  | some k => exact if_pos (h k hk)

end

/-- A keyspace is put in its place. -/
def State.withKsp (s : State) (k : Keyspace) : State := { s with kv := { s.kv with keyspaces := putKsp k s.kv.keyspaces } }

/-! ### The part as a command that has begun sees it -/

section
variable {s u : State} {c : OpCtx} {f : Nat} {d : Desc} {x : Fetched} (g : Given s u c f d x)
include g

theorem Given.sameTown : SameTown s (u.begun c) where
  town := g.town
  ywp := g.ywp
  bound := congrArg CipSt.bound g.cip
  memberId := g.fget _ _ _ _ (by decide)
  out := g.out

theorem Given.isMember : (u.begun c).isMember = s.isMember := congrArg (fun t : TownSt => decide (t.role ≠ 0)) g.town

theorem Given.keyspaces : (u.begun c).kv.keyspaces = s.kv.keyspaces := by
  show u.kv.keyspaces = _
  rw [g.kv]

theorem Given.kspNext (k : Nat) : (u.begun c).kspNext k = s.kspNext k := by
  unfold State.kspNext State.ksp?
  rw [g.keyspaces, show (u.begun c).town = s.town from g.town]

theorem Given.kspStamp : (u.begun c).kspStamp = s.kspStamp := by
  unfold State.kspStamp State.below2020 State.nowUs
  rw [show (u.begun c).clk = s.clk from g.clk]

theorem Given.frozen : (u.begun c).frozen = s.frozen := frozen_of g.sameTown.memberId g.ywp ⟨s.town.joinCtx, g.town⟩

theorem Given.reach (h : Nat) : (u.begun c).reach h = s.reach h := by
  unfold State.reach State.handle State.slotTo
  rw [g.sameTown.memberId, g.sameTown.town, g.sameTown.ywp]

theorem Given.acting : (u.begun c).acting = s.acting := by
  unfold State.acting
  rw [g.sameTown.town]

/-- The command's context while it runs. -/
theorem Given.running : (c.begun u.clk.cycles) ∈ (u.begun c).kv.ctxs := by
  refine mem_updWhere (p := fun e : OpCtx => e.id == c.id) (f := fun _ => c.begun u.clk.cycles) (x := c) ?_ (beq_self_eq_true _)
  rw [g.kv]
  exact List.mem_append_right _ (List.mem_singleton_self c)

/-- A command that is refused after it has begun leaves the keyspaces. -/
theorem Given.refuses {st : Nat} : ((u.begun c).fail (c.begun u.clk.cycles) st).kv.keyspaces = s.kv.keyspaces ∧
    Safety.Ends u f 64 d x c.id { status := st } [] ((u.begun c).fail (c.begun u.clk.cycles) st) := by
  refine ⟨(congrArg KvSt.keyspaces (endKeeps_fail _ _ _).kv).trans g.keyspaces, ?_⟩
  unfold State.fail
  have hr : SameRing f 64 (u.begun c) (if st = stInternalFault then (u.begun c).report .internalFault (c.begun u.clk.cycles).id else u.begun c) := by
    split
    · exact sameRing_regs (State.report_regs _ _ _ _) (State.report_host _ _ _ _)
    · exact sameRing_regs rfl rfl
  have ho : ∀ o ∈ u.out, o ∈ (if st = stInternalFault then (u.begun c).report .internalFault (c.begun u.clk.cycles).id else u.begun c).out := by
    intro o h
    split
    · rw [State.report_out]
      exact h
    · exact h
  exact g.ends ((sameRing_regs rfl rfl : SameRing f 64 u (u.begun c)).trans hr) ho _ _ _

/-! ### On a part outside a Town -/

/-- The end of a keyspace change of a part outside a Town. -/
theorem Given.keeps {w : State} (hr : SameRing f 64 (u.begun c) w) (ho : w.out = u.out) (hk : w.kv = (u.begun c).kv) (k : Keyspace) (r : Res) :
    ((w.withKsp k).finish (c.begun u.clk.cycles) r []).kv.keyspaces = putKsp k s.kv.keyspaces ∧
      Safety.Ends u f 64 d x c.id r [] ((w.withKsp k).finish (c.begun u.clk.cycles) r []) := by
  have hsame : SameRing f 64 (u.begun c) (w.withKsp k) := hr.trans (sameRing_regs rfl rfl)
  refine ⟨?_, g.ends (SameRing.trans (sameRing_regs rfl rfl : SameRing f 64 u (u.begun c)) hsame) (fun o h => ?_) _ _ _⟩
  · rw [(endKeeps_finish _ _ _ _).kv]
    show putKsp k w.kv.keyspaces = _
    rw [hk, g.keyspaces]
  · show o ∈ w.out
    rw [ho]
    exact h

end

/-- Reaping takes keyspaces away that are reclaiming, and posts nothing. -/
theorem State.kspReap_spec (s : State) : s.kspReap.out = s.out ∧ s.kspReap.kv.ctxs = s.kv.ctxs ∧ ∀ k ∈ s.kspReap.kv.keyspaces, k ∈ s.kv.keyspaces := by
  have hr : ∀ (l : List LeafEntry) (v : State), (l.foldl (fun s e => s.removeEntry e) v).out = v.out ∧ (l.foldl (fun s e => s.removeEntry e) v).kv = v.kv := by
    intro l v
    refine List.foldlRecOn l _ (motive := fun t : State => t.out = v.out ∧ t.kv = v.kv) ⟨rfl, rfl⟩ fun t ht e _ => ?_
    unfold State.removeEntry
    split
    · exact ht
    · exact ht
  unfold State.kspReap
  dsimp only
  split
  · exact ⟨rfl, rfl, fun _ h => h⟩
  · obtain ⟨h1, h2⟩ := hr (s.index.leaves.flatMap fun l => l.entries.filter fun e => ((s.kv.keyspaces.filter fun k => k.reclaiming && !s.kspHeld k.ksp).map fun k => k.ksp).contains e.ksp) s
    refine ⟨h1, ?_, fun k hk => ?_⟩
    · exact (congrArg KvSt.ctxs h2 :)
    · have hk := (List.mem_filter.1 hk).1
      rw [h2] at hk
      exact hk

/-- The keyspace under a number, after one has been put there. -/
theorem mem_putKsp {k q : Keyspace} {l : List Keyspace} (h : q ∈ putKsp k l) (hq : q.ksp = k.ksp) : q = k := by
  rcases (mem_insertBy_iff _ _ _ _).1 h with h | h
  · exact h
  · exact absurd hq (by simpa using (List.mem_filter.1 h).2)

/-- The keyspace that a number stands for has it. -/
theorem State.kspNext_ksp {s : State} {n : Nat} {k : Keyspace} (h : s.kspNext n = some k) : k.ksp = n := by
  unfold State.kspNext at h
  cases hp : ((s.town.publish.reverse.flatMap fun p => p.body.keyspaces).find? fun k => k.ksp == n) with
  | some q =>
    rw [hp] at h
    obtain rfl := Option.some.inj h
    simpa using List.find?_some hp
  | none =>
    rw [hp] at h
    simpa using List.find?_some (show s.kv.keyspaces.find? (fun k => k.ksp == n) = some k from h)

/-! ### On a member of a Town (R377, R403, R407) -/

theorem SameTown.modCtx {s v : State} (h : SameTown s v) (id : Nat) (g : OpCtx → OpCtx) : SameTown s (v.modCtx id g) :=
  ⟨h.town, h.ywp, h.bound, h.memberId, h.out⟩

section
variable {s w : State} {f id : Nat} {d : Desc} {k : Keyspace} {fin : State → Nat → State}

theorem State.hallKeyspace_create_own (hd : d.opc = 0x81) (h : s.kspNew f d = .ok (k, w)) :
    ∃ p : Publish, s.hallKeyspace f d (some id) none fin = (w.modCtx id fun c => { c with res := { status := stOk, rstamp := k.created } }).publishAs p ∧
      p.takeover = false ∧ p.body.keyspaces = [k] := by
  unfold State.hallKeyspace
  dsimp only
  rw [if_pos (show d.opc = opKspCreate from hd), h]
  exact ⟨_, rfl, rfl, rfl⟩

theorem State.hallKeyspace_delete_own (hd : d.opc = 0x82) (h : s.kspGoneNew f d = .ok k) :
    ∃ p : Publish, s.hallKeyspace f d (some id) none fin = (s.modCtx id fun c => { c with res := { status := stOk, rstamp := 0 } }).publishAs p ∧
      p.takeover = false ∧ p.body.keyspaces = [k] := by
  unfold State.hallKeyspace
  dsimp only
  rw [if_neg (by rw [hd]; decide), h]
  exact ⟨_, rfl, rfl, rfl⟩

end

/-- A keyspace command at the acting Hall, for a context of its own. -/
theorem State.hallKeyspace_own {s : State} {f id : Nat} {d : Desc} {k : Keyspace} {fin : State → Nat → State}
    (h : (d.opc = 0x81 ∧ ∃ w, s.kspNew f d = .ok (k, w)) ∨ (d.opc = 0x82 ∧ s.kspGoneNew f d = .ok k)) :
    ∃ (v : State) (p : Publish), SameTown s v ∧ p.takeover = false ∧ p.body.keyspaces = [k] ∧ s.hallKeyspace f d (some id) none fin = v.publishAs p := by
  rcases h with ⟨hd, w, hk⟩ | ⟨hd, hk⟩
  · obtain ⟨p, h1, h2, h3⟩ := State.hallKeyspace_create_own (id := id) (fin := fin) hd hk
    exact ⟨_, p, (State.kspNew_sameTown hk).1.modCtx _ _, h2, h3, h1⟩
  · obtain ⟨p, h1, h2, h3⟩ := State.hallKeyspace_delete_own (id := id) (fin := fin) hd hk
    exact ⟨_, p, (SameTown.refl s).modCtx _ _, h2, h3, h1⟩

section
variable {s u : State} {c : OpCtx} {f : Nat} {d : Desc} {x : Fetched} (g : Given s u c f d x)
include g

/-- How a keyspace command of a member goes on: frozen, to the acting Hall, or waiting for a session to it. -/
theorem Given.kspTown :
    (s.frozen = true → (u.begun c).kspTown (c.begun u.clk.cycles) = (u.begun c).fail (c.begun u.clk.cycles) stTownFrozen) ∧
    (s.frozen = false → s.acting = false → s.reach s.town.hall = true →
      ((u.begun c).kspTown (c.begun u.clk.cycles)).out = s.out ++ Safety.sends s [(idOf s.town.hall, { tmsg := 0x10, arg0 := c.id, body := .command f d })] ∧
      ∃ e ∈ ((u.begun c).kspTown (c.begun u.clk.cycles)).kv.ctxs, e.id = c.id ∧ e.phase = .admin) ∧
    (s.frozen = false → s.acting = false → s.reach s.town.hall = false →
      ((u.begun c).kspTown (c.begun u.clk.cycles)).out = s.out ∧ ∃ e ∈ ((u.begun c).kspTown (c.begun u.clk.cycles)).kv.ctxs, e.id = c.id ∧ e.phase = .noOwner) ∧
    (∀ k : Keyspace, Safety.ByStandby s →
      ((d.opc = 0x81 ∧ ∃ w, (u.begun c).kspNew f d = .ok (k, w)) ∨ (d.opc = 0x82 ∧ (u.begun c).kspGoneNew f d = .ok k)) →
      ∃ b : MapBody, b.keyspaces = [k] ∧ Safety.ToStandby s s.out b ((u.begun c).kspTown (c.begun u.clk.cycles))) := by
  have hsame := g.sameTown
  have ht : (c.begun u.clk.cycles).tenant = f := g.tenant
  have hd : (c.begun u.clk.cycles).desc = d := g.desc
  unfold State.kspTown
  rw [g.frozen, g.acting, show (u.begun c).town.hall = s.town.hall by rw [hsame.town], g.reach, ht, hd]
  refine ⟨fun h => by rw [h]; rfl, fun h ha hr => ?_, fun h ha hr => ?_, fun k hb hk => ?_⟩
  · rw [h, ha, hr, if_neg (by decide), if_neg (by decide), if_pos rfl]
    have hs := (u.begun c).sendTown_sent (idOf s.town.hall) { tmsg := 0x10, arg0 := (c.begun u.clk.cycles).id, body := .command f d }
    refine ⟨hs.out.trans ?_, ?_⟩
    · rw [hsame.out, sends_congr hsame.town hsame.memberId]
      rfl
    · have hmem := g.running
      rw [← hs.kv] at hmem
      exact ⟨_, mem_updWhere (p := fun e : OpCtx => e.id == c.id) hmem (beq_self_eq_true _), rfl, rfl⟩
  · rw [h, ha, hr, if_neg (by decide), if_neg (by decide), if_neg (by decide)]
    exact ⟨hsame.out, _, mem_updWhere (p := fun e : OpCtx => e.id == c.id) g.running (beq_self_eq_true _), rfl, rfl⟩
  · obtain ⟨ha, hf⟩ := byStandby_judges hb
    rw [ha, if_neg (by simpa using hf), if_pos rfl]
    obtain ⟨v, p, hv, hp, hbody, e⟩ := State.hallKeyspace_own (id := (c.begun u.clk.cycles).id)
      (fin := fun s st => match s.kv.ctx? (c.begun u.clk.cycles).id with | some c => s.fail c st | none => s) hk
    refine ⟨p.body, hbody, ?_⟩
    have hsv : SameTown s v := ⟨hv.town.trans hsame.town, hv.ywp.trans hsame.ywp, hv.bound.trans hsame.bound, hv.memberId.trans hsame.memberId, hv.out.trans hsame.out⟩
    exact e ▸ (hsv.publishAs hb p hp).1

end

/-! ### KEYSPACE_CREATE and KEYSPACE_DELETE -/

/-- A bad field of a KEYSPACE_CREATE. -/
def State.kspBad (s : State) (d : Desc) : Bool :=
  adminBad d 80 || decide (param d 59 5 ≠ 0 ∨ param d 57 1 = 0 ∨ 4 < param d 57 1 ∨ (1 < param d 57 1 ∧ s.isMember = false) ∨ 63 < param d 58 1)

theorem field_good {c : OpCtx} {pf bad : Bool} {need : Nat} (h : adminRefused c pf bad need = none) : bad = false := by
  rw [adminRefused_eq] at h
  split_ifs at h with _ _ hb
  by_contra hbad
  exact hb (by simp [adminField, hbad])

section
variable {s u : State} {c : OpCtx} {f : Nat} {d : Desc} {x : Fetched} (g : Given s u c f d x)
include g

/-- A KEYSPACE_CREATE that the checks let through. -/
theorem Given.runKspCreate (hr : adminRefused c false (s.kspBad d) 0 = none) :
    u.runKspCreate c = if f ≠ 0 ∧ param d 56 1 ≠ f then (u.begun c).fail (c.begun u.clk.cycles) stAccessDenied
      else if s.isMember then (u.begun c).kspTown (c.begun u.clk.cycles) else (u.begun c).kspHere (c.begun u.clk.cycles) := by
  have hm : u.isMember = s.isMember := g.isMember
  have hbad : (adminBad c.desc 80 || decide (param c.desc 59 5 ≠ 0 ∨ param c.desc 57 1 = 0 ∨ 4 < param c.desc 57 1 ∨ (1 < param c.desc 57 1 ∧ !u.isMember) ∨ 63 < param c.desc 58 1)) = s.kspBad d := by
    unfold State.kspBad
    rw [g.desc, hm]
    simp only [Bool.not_eq_true']
  unfold State.runKspCreate
  dsimp only
  rw [hbad, State.adminRun_begun hr]
  show (if c.tenant ≠ 0 ∧ param c.desc 56 1 ≠ c.tenant then _ else if (u.begun c).isMember then _ else _) = _
  rw [g.tenant, g.desc, g.isMember]

theorem Given.runKspDelete (hr : adminRefused c false (adminBad c.desc 56) 0 = none) :
    u.runKspDelete c = if s.isMember then (u.begun c).kspTown (c.begun u.clk.cycles) else (u.begun c).kspHere (c.begun u.clk.cycles) := by
  unfold State.runKspDelete
  rw [State.adminRun_begun hr, g.isMember]

theorem Given.kspFits (hr : s.kspBad d = false) (hl : s.isMember = true → param d 57 1 ≤ s.town.live.length) : (u.begun c).kspFits d := by
  have ht : (u.begun c).town = s.town := g.town
  have hb := of_decide_eq_false (Bool.or_eq_false_iff.1 hr).2
  simp only [not_or, not_and] at hb
  obtain ⟨-, h0, h4, hmem, h63⟩ := hb
  unfold State.kspFits
  rw [g.isMember, ht]
  rintro (h | h | ⟨h, hm⟩ | h | ⟨hm, h⟩)
  · exact h0 h
  · omega
  · exact hmem h (by simpa using hm)
  · omega
  · have := hl hm
    omega

/-- How a keyspace command outside a Town goes on: a creation that is made, one that is refused, a deletion, and one that is refused. -/
theorem Given.kspHere :
    (d.opc = 0x81 → ∀ (k : Keyspace) (w : State), (u.begun c).kspNew f d = .ok (k, w) →
      (u.begun c).kspHere (c.begun u.clk.cycles) = (w.withKsp k).finish (c.begun u.clk.cycles) { status := stOk, rstamp := k.created } []) ∧
    (d.opc = 0x81 → ∀ st : Nat, (u.begun c).kspNew f d = .error st → (u.begun c).kspHere (c.begun u.clk.cycles) = (u.begun c).fail (c.begun u.clk.cycles) st) ∧
    (d.opc = 0x82 → ∀ k : Keyspace, (u.begun c).kspGoneNew f d = .ok k →
      (u.begun c).kspHere (c.begun u.clk.cycles) = (((u.begun c).withKsp k).finish (c.begun u.clk.cycles) { status := stOk } []).kspReap) ∧
    (d.opc = 0x82 → ∀ st : Nat, (u.begun c).kspGoneNew f d = .error st → (u.begun c).kspHere (c.begun u.clk.cycles) = (u.begun c).fail (c.begun u.clk.cycles) st) := by
  have ht : (c.begun u.clk.cycles).tenant = f := g.tenant
  have hd : (c.begun u.clk.cycles).desc = d := g.desc
  unfold State.kspHere
  rw [ht, hd]
  refine ⟨fun ho k w h => ?_, fun ho st h => ?_, fun ho k h => ?_, fun ho st h => ?_⟩
  · rw [if_pos (show d.opc = opKspCreate from ho), h]
    rfl
  · rw [if_pos (show d.opc = opKspCreate from ho), h]
  · rw [if_neg (by rw [ho]; decide), h]
    rfl
  · rw [if_neg (by rw [ho]; decide), h]

/-- A deletion outside a Town ends at once, and the keyspace is reclaiming for as long as it stays. -/
theorem Given.deletes {k : Keyspace} (hk : k.ksp = d.ksp) :
    (∀ q, ((((u.begun c).withKsp { k with reclaiming := true }).finish (c.begun u.clk.cycles) { status := stOk } []).kspReap).ksp? d.ksp = some q → q.reclaiming = true) ∧
      Safety.Ends u f 64 d x c.id { status := 0 } [] (((u.begun c).withKsp { k with reclaiming := true }).finish (c.begun u.clk.cycles) { status := stOk } []).kspReap := by
  obtain ⟨h1, h2⟩ := g.keeps (w := u.begun c) (sameRing_regs rfl rfl) rfl rfl { k with reclaiming := true } { status := stOk }
  generalize ((u.begun c).withKsp { k with reclaiming := true }).finish (c.begun u.clk.cycles) { status := stOk } [] = v at h1 h2 ⊢
  obtain ⟨k1, k2, k3⟩ := v.kspReap_spec
  refine ⟨fun q hq => ?_, ?_⟩
  · have hmem := k3 q (List.mem_of_find?_eq_some hq)
    rw [h1] at hmem
    have hid : q.ksp = d.ksp := by simpa using List.find?_some hq
    exact congrArg Keyspace.reclaiming (mem_putKsp hmem (hid.trans hk.symm))
  · unfold Safety.Ends at h2 ⊢
    rw [k1, k2]
    exact h2

end

/-- What a KEYSPACE_CREATE makes. -/
theorem Given.made_is {s u : State} {c : OpCtx} {f : Nat} {d : Desc} {x : Fetched} (g : Given s u c f d x) (salt : Nat) :
    ((u.begun c).kspMade d salt).ksp = d.ksp ∧ ((u.begun c).kspMade d salt).tenant = param d 56 1 ∧ ((u.begun c).kspMade d salt).rf = param d 57 1 ∧
      ((u.begun c).kspMade d salt).slot = param d 58 1 ∧ ((u.begun c).kspMade d salt).salt = salt % 2 ^ 128 ∧ ((u.begun c).kspMade d salt).created = s.kspStamp ∧
      ((u.begun c).kspMade d salt).reclaiming = false :=
  ⟨rfl, rfl, rfl, rfl, rfl, g.kspStamp, rfl⟩

section
variable {s u : State} {c : OpCtx} {f : Nat} {d : Desc} {x : Fetched} (g : Given s u c f d x) (hd : d.opc = 0x81) (hr : adminRefused c false (s.kspBad d) 0 = none)
include g hr

theorem Given.create_denied (hf : f ≠ 0) (ht : param d 56 1 ≠ f) : (u.runKspCreate c).kv.keyspaces = s.kv.keyspaces ∧ Safety.Ends u f 64 d x c.id { status := 0x0400 } [] (u.runKspCreate c) := by
  rw [g.runKspCreate hr, if_pos ⟨hf, ht⟩]
  exact g.refuses

section
variable (hf : f = 0 ∨ param d 56 1 = f) (hm : s.isMember = false)
include hd hf hm

/-- A creation outside a Town that is refused. -/
theorem Given.create_refused {st : Nat} (h : (u.begun c).kspNew f d = .error st) :
    (u.runKspCreate c).kv.keyspaces = s.kv.keyspaces ∧ Safety.Ends u f 64 d x c.id { status := st } [] (u.runKspCreate c) := by
  rw [g.runKspCreate hr, if_neg (by omega), hm, if_neg (by decide), g.kspHere.2.1 hd _ h]
  exact g.refuses

/-- One that is made, with the salt `r.1`. -/
theorem Given.create_made (hn : s.kspNext d.ksp = none) {r : Nat × State} (h : (if param d 64 16 = 0 then (u.begun c).draw else some (param d 64 16, u.begun c)) = some r)
    (hring : SameRing f 64 (u.begun c) r.2) (hkv : r.2.kv = (u.begun c).kv) (hout : r.2.out = u.out) :
    (u.runKspCreate c).kv.keyspaces = putKsp ((u.begun c).kspMade d r.1) s.kv.keyspaces ∧ (u.runKspCreate c).free = r.2.free ∧
      Safety.Ends u f 64 d x c.id { status := 0, rstamp := s.kspStamp } [] (u.runKspCreate c) := by
  have hnew := State.kspNew_free (g.kspFits (field_good hr) fun h => by rw [hm] at h; cases h) hf (by rw [g.kspNext]; exact hn) h
  have hstamp : ((u.begun c).kspMade d r.1).created = s.kspStamp := g.kspStamp
  rw [g.runKspCreate hr, if_neg (by omega), hm, if_neg (by decide), g.kspHere.1 hd _ _ hnew, hstamp]
  obtain ⟨h1, h2⟩ := g.keeps hring hout hkv ((u.begun c).kspMade d r.1) { status := stOk, rstamp := s.kspStamp }
  exact ⟨h1, (endKeeps_finish _ _ _ _).free, h2⟩

/-- The creations that are made, and those that are refused (R155). -/
theorem Given.creates :
    (s.kspNext d.ksp = none → param d 64 16 ≠ 0 → (u.runKspCreate c).kv.keyspaces = putKsp ((u.begun c).kspMade d (param d 64 16)) s.kv.keyspaces ∧
      Safety.Ends u f 64 d x c.id { status := 0, rstamp := s.kspStamp } [] (u.runKspCreate c)) ∧
    (s.kspNext d.ksp = none → param d 64 16 = 0 → s.flag .cipDrbgStat_ready = true →
      (u.runKspCreate c).kv.keyspaces = putKsp ((u.begun c).kspMade d (Config.freeValue s.free)) s.kv.keyspaces ∧ (u.runKspCreate c).free = s.free + 1 ∧
      Safety.Ends u f 64 d x c.id { status := 0, rstamp := s.kspStamp } [] (u.runKspCreate c)) ∧
    (s.kspNext d.ksp = none → param d 64 16 = 0 → s.flag .cipDrbgStat_ready = false →
      (u.runKspCreate c).kv.keyspaces = s.kv.keyspaces ∧ Safety.Ends u f 64 d x c.id { status := 0x0F00 } [] (u.runKspCreate c)) ∧
    (∀ k, s.kspNext d.ksp = some k → (u.runKspCreate c).kv.keyspaces = s.kv.keyspaces ∧
      Safety.Ends u f 64 d x c.id { status := if k.reclaiming then 0x010B else 0x010A } [] (u.runKspCreate c)) := by
  have hfit := g.kspFits (field_good hr) fun h => by rw [hm] at h; cases h
  have hflag : (u.begun c).flag .cipDrbgStat_ready = s.flag .cipDrbgStat_ready := by
    unfold State.flag
    rw [← g.fget .cipDrbgStat_ready 0 0 0 (by decide)]
    rfl
  have hfree : (u.begun c).free = s.free := g.free
  refine ⟨fun hn hz => ?_, fun hn hz hdr => ?_, fun hn hz hdr => ?_, fun k hk => ?_⟩
  · obtain ⟨h1, -, h2⟩ := g.create_made hd hr hf hm hn (r := (param d 64 16, u.begun c)) (if_neg hz) (sameRing_regs rfl rfl) rfl rfl
    exact ⟨h1, h2⟩
  · obtain ⟨w, hw, h1, h2, h3, h4, h5⟩ := State.draw_ready (hflag.trans hdr)
    rw [hfree] at hw h1
    have hring : SameRing f 64 (u.begun c) w := by
      refine ⟨fun y hy => ?_, State.ring_congr h4 f 64⟩
      unfold State.rg
      rw [h5]
      rw [ringKey_name, if_pos rfl]
      rcases hy with hy | hy <;> rw [hy] <;> decide
    obtain ⟨k1, k2, k3⟩ := g.create_made hd hr hf hm hn (r := (Config.freeValue s.free, w)) ((if_pos hz).trans hw) hring h2 h3
    exact ⟨k1, k2.trans h1, k3⟩
  · exact g.create_refused hd hr hf hm (State.kspNew_saltless hfit hf (by rw [g.kspNext]; exact hn) hz (hflag.trans hdr))
  · exact g.create_refused hd hr hf hm (State.kspNew_taken hfit hf (by rw [g.kspNext]; exact hk))

end
end

theorem free_reach {s u : State} {ps : List Part} {ns : List RegName} (h : ps.contains .free = true) : (settle s (s.within ps ns u)).free = u.free := if_pos h

/-- What the clauses about a member say, of the state in which a keyspace command ends its run. -/
structure KspSent (s u t : State) (c : OpCtx) (f : Nat) (d : Desc) (x : Fetched) : Prop where
  frozen : s.frozen = true → t.kv.keyspaces = s.kv.keyspaces ∧ Safety.Ends u f 64 d x c.id { status := 0x0505 } [] t
  sent : s.frozen = false → s.acting = false → s.reach s.town.hall = true →
    t.out = s.out ++ Safety.sends s [(idOf s.town.hall, { tmsg := 0x10, arg0 := c.id, body := .command f d })] ∧ ∃ e ∈ t.kv.ctxs, e.id = c.id ∧ e.phase = .admin
  waits : s.frozen = false → s.acting = false → s.reach s.town.hall = false → t.out = s.out ∧ ∃ e ∈ t.kv.ctxs, e.id = c.id ∧ e.phase = .noOwner

theorem Given.sends {s u : State} {c : OpCtx} {f : Nat} {d : Desc} {x : Fetched} (g : Given s u c f d x) : KspSent s u ((u.begun c).kspTown (c.begun u.clk.cycles)) c f d x where
  frozen h := by
    rw [g.kspTown.1 h]
    exact g.refuses
  sent := g.kspTown.2.1
  waits := g.kspTown.2.2.1

theorem KspSent.settle {s u t : State} {c : OpCtx} {f : Nat} {d : Desc} {x : Fetched} (h : KspSent s u t c f d x) :
    KspSent s u (settle s (s.within (townParts ++ [.free]) (townRegs ++ [.cipDrbgStat]) t)) c f d x where
  frozen hf := by
    rw [kv_reach rfl]
    exact ⟨(h.frozen hf).1, Ends.settle (Ends.named (h.frozen hf).2) rfl rfl⟩
  sent hf ha hr := by
    rw [kv_reach rfl, out_reach rfl]
    exact h.sent hf ha hr
  waits hf ha hr := by
    rw [kv_reach rfl, out_reach rfl]
    exact h.waits hf ha hr

/-- Settles O25: the creation and the deletion, outside a Town and on a member of one. -/
theorem keyspacesAreCreatedAndDeleted : Obligations.KeyspacesAreCreatedAndDeleted := by
  unfold Obligations.KeyspacesAreCreatedAndDeleted
  refine ⟨?create, ?delete⟩
  case create =>
    intro s f d x hm c u tenant rf created bad is hb hr
    have g := s.given f { d with opc := 0x81 } x
    have hr' : adminRefused (s.ringCtx f 64 { d with opc := 0x81 } x .held) false (s.kspBad { d with opc := 0x81 }) 0 = none := hr
    rw [exec_adminRuns (i := .keyspaceCreate f d x) rfl hm hb]
    refine ⟨fun hf ht => answers ?_, fun hf hn => ⟨fun h hz => ?_, fun h hz hdr => ?_, fun h hz hdr => answers ?_, fun k hk => answers ?_⟩, fun hf hi => ?member⟩
    · obtain ⟨h1, h2⟩ := g.create_denied hr' hf ht
      exact ⟨by rw [kv_reach rfl]; exact h1, Ends.settle (Ends.named h2) rfl rfl⟩
    · obtain ⟨h1, h2⟩ := (g.creates rfl hr' hf hn).1 h hz
      exact ⟨_, _, rfl, by rw [kv_reach rfl]; exact h1, (g.made_is _), Ends.settle (Ends.named h2) rfl rfl⟩
    · obtain ⟨h1, h2, h3⟩ := (g.creates rfl hr' hf hn).2.1 h hz hdr
      exact ⟨_, _, rfl, by rw [kv_reach rfl]; exact h1, (g.made_is _), by rw [free_reach rfl]; exact h2, Ends.settle (Ends.named h3) rfl rfl⟩
    · obtain ⟨h1, h2⟩ := (g.creates rfl hr' hf hn).2.2.1 h hz hdr
      exact ⟨by rw [kv_reach rfl]; exact h1, Ends.settle (Ends.named h2) rfl rfl⟩
    · obtain ⟨h1, h2⟩ := (g.creates rfl hr' hf hn).2.2.2 k hk
      exact ⟨by rw [kv_reach rfl]; exact h1, Ends.settle (Ends.named h2) rfl rfl⟩
    case member =>
      have h := g.sends.settle
      rw [g.runKspCreate hr', if_neg fun h => hf.elim h.1 h.2, hi, if_pos rfl]
      refine ⟨fun k => answers (h.frozen k), fun k1 k2 k3 => answers (h.sent k1 k2 k3), fun k1 k2 k3 => answers (h.waits k1 k2 k3), fun hby hl hn hz => ?_⟩
      have hnew := State.kspNew_free (g.kspFits (field_good hr') fun _ => hl) hf (by rw [g.kspNext]; exact hn) (r := (param d 64 16, _)) (if_neg hz)
      obtain ⟨b, hk, ht⟩ := g.kspTown.2.2.2 _ hby (.inl ⟨rfl, _, hnew⟩)
      exact ⟨_, _, b, rfl, hk, g.made_is _, ToStandby.settle ht rfl⟩
  case delete =>
    intro s f d x hm c u hb hr
    have g := s.given f { d with opc := 0x82 } x
    have hr' : adminRefused (s.ringCtx f 64 { d with opc := 0x82 } x .held) false (adminBad (s.ringCtx f 64 { d with opc := 0x82 } x .held).desc 56) 0 = none := hr
    rw [exec_adminRuns (i := .keyspaceDelete f d x) rfl hm hb, g.runKspDelete hr']
    refine ⟨fun hn => ?alone, fun hi => ?member⟩
    case alone =>
      rw [hn, if_neg (by decide)]
      refine ⟨fun k hk hl hf => answers ?_, fun k hk hl hf ht => answers ?_, fun h => answers ?_⟩
      · rw [g.kspHere.2.2.1 rfl _ (State.kspGoneNew_active ((g.kspNext _).trans hk) hl hf)]
        obtain ⟨h1, h2⟩ := g.deletes (k := k) (State.kspNext_ksp hk)
        refine ⟨fun q hq => h1 q ?_, Ends.settle (Ends.named h2) rfl rfl⟩
        unfold State.ksp? at hq
        rw [kv_reach rfl] at hq
        exact hq
      · rw [g.kspHere.2.2.2 rfl _ (State.kspGoneNew_denied ((g.kspNext _).trans hk) hl hf ht), kv_reach rfl]
        exact ⟨g.refuses.1, Ends.settle (Ends.named g.refuses.2) rfl rfl⟩
      · rw [g.kspHere.2.2.2 rfl _ (State.kspGoneNew_unknown fun k hk => h k ((g.kspNext _).symm.trans hk)), kv_reach rfl]
        exact ⟨g.refuses.1, Ends.settle (Ends.named g.refuses.2) rfl rfl⟩
    case member =>
      have h := g.sends.settle
      rw [hi, if_pos rfl]
      refine ⟨fun k => answers (h.frozen k), fun k1 k2 k3 => answers (h.sent k1 k2 k3), fun k1 k2 k3 => answers (h.waits k1 k2 k3), fun k hby hk hl hf => ?_⟩
      obtain ⟨b, hb', ht⟩ := g.kspTown.2.2.2 _ hby (.inr ⟨rfl, State.kspGoneNew_active ((g.kspNext _).trans hk) hl hf⟩)
      exact ⟨_, b, rfl, hb', ToStandby.settle ht rfl⟩

end Sys2Proof.Machine
end

section
/-!
SUPPORT. The read ladder, the rebuild of a codeword, and raw diagnostic reads (chapter 03, R776; chapter 05, R242, R263, R264, R268, R270).
-/

namespace Sys2Proof.Machine

/-! ### A LUN that answers (R266, R300) -/

/-- A change of a LUN that leaves what its blocks hold and the table that last decoded. -/
structure LunQuiet (g : Lun → Lun) : Prop where
  n : ∀ x, (g x).n = x.n
  state : ∀ x, (g x).state = x.state
  label : ∀ x, (g x).label = x.label
  factoryBad : ∀ x, (g x).factoryBad = x.factoryBad
  lastTable : ∀ x, (g x).lastTable = x.lastTable

theorem map_find_updWhere {α β : Type} {p q : α → Bool} {f : α → α} {h : α → β} (hp : ∀ x, p (f x) = p x) (hh : ∀ x, h (f x) = h x) (l : List α) :
    ((updWhere q f l).find? p).map h = (l.find? p).map h := by
  rw [← List.head?_filter, ← List.head?_filter, ← List.head?_map, ← List.head?_map, filter_map_updWhere hp hh]

section
variable {g : Lun → Lun} (hg : LunQuiet g) (s : State) (n : Nat)
include hg

theorem LunQuiet.lun {β : Type} {h : Lun → β} (hh : ∀ x, h (g x) = h x) (k : Nat) : ((s.modLun n g).media.lun? k).map h = (s.media.lun? k).map h :=
  map_find_updWhere (fun x => by rw [hg.n]) hh s.media.luns

theorem LunQuiet.factoryBad_eq (k : Nat) : (s.modLun n g).media.factoryBad k = s.media.factoryBad k :=
  congrArg (fun o : Option (List Nat) => o.getD []) (hg.lun s n hg.factoryBad k)

theorem LunQuiet.mapLuns : (s.modLun n g).media.mapLuns = s.media.mapLuns :=
  congrArg (fun l : List Nat => (l.filter fun n => !caskLun n).take 4)
    (filter_map_updWhere (q := fun l => l.n == n) (p := fun l : Lun => decide (l.state = .accepted)) (fun x => by rw [hg.state]) hg.n s.media.luns)

theorem LunQuiet.regionKind (lun blk : Nat) : (s.modLun n g).media.regionKind lun blk = s.media.regionKind lun blk := by
  unfold MediaSt.regionKind MediaSt.sysBlocks
  rw [hg.factoryBad_eq, hg.mapLuns]
  rfl

theorem LunQuiet.caskCw (a : Nat) : (s.modLun n g).caskCw a = s.caskCw a := by
  unfold State.caskCw
  rw [hg.factoryBad_eq]
  rfl

/-- The flash holds what it held. -/
theorem LunQuiet.cwImage (a : Nat) : (s.modLun n g).cwImage a = s.cwImage a := by
  have hl : ∀ k, (((s.modLun n g).media.lun? k).all fun l => l.label.isNone) = (s.media.lun? k).all fun l => l.label.isNone := fun k => by
    have h := congrArg (fun o : Option (Option _) => o.all Option.isNone) (hg.lun s n hg.label k)
    rwa [Option.all_map, Option.all_map] at h
  unfold State.cwImage
  dsimp only
  rw [hg.regionKind, hl, hg.caskCw]
  rfl

theorem LunQuiet.tablesNow (o : NandOp) : (s.modLun n g).tablesNow o = s.tablesNow o := by
  have hj : ∀ o : Option Lun, (o.bind fun l => l.lastTable) = (o.map fun l => l.lastTable).join := fun o => by cases o <;> rfl
  unfold State.tablesNow
  rw [hj, hj, hg.lun s n hg.lastTable]
  rfl

theorem LunQuiet.ladder (o : NandOp) (decoded : Bool) (unsat : Nat) : (s.modLun n g).ladder o decoded unsat = s.ladder o decoded unsat := by
  unfold State.ladder State.tableAt
  rw [hg.tablesNow]
  rfl

end

/-- The LUN of an operation has answered, and one more read of its suspended erase is served. -/
def State.attempted (s : State) (o : NandOp) : State := (s.lunAnswered (addrLun o.addr)).burstRead (addrLun o.addr)

theorem answered_quiet : LunQuiet fun l => { l with timeouts := 0 } := ⟨fun _ => rfl, fun _ => rfl, fun _ => rfl, fun _ => rfl, fun _ => rfl⟩

theorem burst_quiet : LunQuiet fun l => if l.suspended then { l with burst := l.burst + 1 } else l := by
  constructor <;> intro x <;> split <;> rfl

section
variable (s : State) (o : NandOp)

theorem State.readBytes_attempted (raw : Bytes) : (s.attempted o).readBytes o raw = s.readBytes o raw := by
  have h : (s.attempted o).cwImage o.addr = s.cwImage o.addr := (burst_quiet.cwImage _ _ _).trans (answered_quiet.cwImage _ _ _)
  unfold State.readBytes
  rw [h]

theorem State.tablesNow_attempted (x : NandOp) : (s.attempted o).tablesNow x = s.tablesNow x := (burst_quiet.tablesNow _ _ _).trans (answered_quiet.tablesNow _ _ _)

theorem State.ladder_attempted (x : NandOp) (decoded : Bool) (unsat : Nat) : (s.attempted o).ladder x decoded unsat = s.ladder x decoded unsat :=
  (burst_quiet.ladder _ _ _ _ _).trans (answered_quiet.ladder _ _ _ _ _)

theorem State.cwValid_attempted (a : Nat) (raw : Bytes) : (s.attempted o).cwValid a raw = s.cwValid a raw := rfl

end

/-! ### The attempt ends (R242, R263) -/

theorem State.running_id {s : State} {id : Nat} {k : NandKind} {o : NandOp} (h : s.running id k = some o) : o.id = id := by
  unfold State.running at h
  obtain ⟨ho, -⟩ := Option.filter_eq_some_iff.1 h
  simpa using List.find?_some ho

/-- What the model takes for an erased page. -/
def erasedPage (bytes : Bytes) : Bool := !bytes.isEmpty && bytes.all fun b => decide (b = 255#8)

theorem erasedPage_of_ne {bytes : Bytes} (h : ∃ b ∈ bytes, b ≠ 255#8) : erasedPage bytes = false := by
  obtain ⟨b, hb, hne⟩ := h
  unfold erasedPage
  rw [List.all_eq_false.2 ⟨b, hb, by simpa using hne⟩, Bool.and_false]

theorem decodes {s : State} {o : NandOp} {raw : Bytes} (hd : o.why = .raw → s.media.raw.mode = false ∧ erasedPage (s.readBytes o raw) = false) :
    ¬(decide (o.why = .raw) && ((s.attempted o).media.raw.mode || (decide (o.why = .raw) && !(s.readBytes o raw).isEmpty && (s.readBytes o raw).all fun b => decide (b = 255#8)))) = true := by
  by_cases hw : o.why = .raw
  · obtain ⟨h1, h2⟩ := hd hw
    rw [show (s.attempted o).media.raw.mode = false from h1, Bool.and_assoc (decide (o.why = .raw)), show (!(s.readBytes o raw).isEmpty && (s.readBytes o raw).all fun b => decide (b = 255#8)) = false from h2]
    simp
  · rw [decide_eq_false hw]
    exact Bool.false_ne_true

section
variable {s : State} {id corrected unsat : Nat} {decoded : Bool} {raw : Bytes} {o : NandOp} (h : s.running id .read = some o)
include h

/-- A raw read of MODE 1, or of an erased page, ends with the bytes as read. -/
theorem exec_nandReadDone_asRead (hw : o.why = .raw) (hm : s.media.raw.mode = true ∨ erasedPage (s.readBytes o raw) = true) :
    exec (.nandReadDone id decoded corrected unsat raw) s = done dataParts (dataRegs ++ [.cipKpUse, .medRawStat]) s
      (((s.attempted o).dropOp id).rawEnded stOk (if s.media.raw.mode then 0 else 1) 0 0 (erasedPage (s.readBytes o raw))
        ((s.readBytes o raw).take (if s.media.raw.mode then s.media.geom.cwBytes else 4128))) := by
  have e : exec (.nandReadDone id decoded corrected unsat raw) s = execNandReadDone id decoded corrected unsat raw s := rfl
  rw [e]
  unfold execNandReadDone
  rw [h]
  dsimp only
  rw [show (s.lunAnswered (addrLun o.addr)).burstRead (addrLun o.addr) = s.attempted o from rfl, s.readBytes_attempted, hw, if_pos]
  · rw [decide_eq_true rfl, Bool.true_and]
    rfl
  · rcases hm with hm | hm
    · rw [show (s.attempted o).media.raw.mode = true from hm]
      rfl
    · rw [Bool.and_assoc, show (!(s.readBytes o raw).isEmpty && (s.readBytes o raw).all fun b => decide (b = 255#8)) = true from hm]
      simp

section
variable (hd : o.why = .raw → s.media.raw.mode = false ∧ erasedPage (s.readBytes o raw) = false)
include hd

/-- Another read goes down the ladder, which asks for one more attempt. -/
theorem exec_nandReadDone_again {step : Nat} {tried : List (Nat × Nat)}
    (hl : s.ladder o (decoded && (raw.isEmpty || s.cwValid o.addr raw)) unsat = .again step tried) :
    exec (.nandReadDone id decoded corrected unsat raw) s = done dataParts (dataRegs ++ [.cipKpUse, .medRawStat]) s
      (if step = 4 then (s.attempted o).step4 { o with tried := tried }
        else { s.attempted o with media := { (s.attempted o).media with ops := updWhere (fun x => x.id == id) (fun x =>
          { x with step := step, tried := tried, issued := false, order := if x.order.isEmpty then s.tablesNow x else x.order }) s.media.ops } }) := by
  have e : exec (.nandReadDone id decoded corrected unsat raw) s = execNandReadDone id decoded corrected unsat raw s := rfl
  have ht : ∀ x, (s.attempted o).tablesNow x = s.tablesNow x := s.tablesNow_attempted o
  rw [e]
  unfold execNandReadDone
  rw [h]
  dsimp only
  rw [show (s.lunAnswered (addrLun o.addr)).burstRead (addrLun o.addr) = s.attempted o from rfl, s.readBytes_attempted, s.ladder_attempted, s.cwValid_attempted, if_neg (decodes hd), hl]
  simp only [ht]
  rfl

/-- A raw read of MODE 0 ends down the ladder. -/
theorem exec_nandReadDone_raw {step table : Nat} (hw : o.why = .raw) (h5 : step ≠ 5)
    (hl : s.ladder o (decoded && (raw.isEmpty || s.cwValid o.addr raw)) unsat = .ended step table) :
    exec (.nandReadDone id decoded corrected unsat raw) s = done dataParts (dataRegs ++ [.cipKpUse, .medRawStat]) s
      ((((s.attempted o).dropOp id).ladderEnd o.addr step table corrected).rawEnded stOk step table corrected false (padTo 4128 ((s.readBytes o raw).take 4128))) := by
  have e : exec (.nandReadDone id decoded corrected unsat raw) s = execNandReadDone id decoded corrected unsat raw s := rfl
  rw [e]
  unfold execNandReadDone
  rw [h]
  dsimp only
  rw [show (s.lunAnswered (addrLun o.addr)).burstRead (addrLun o.addr) = s.attempted o from rfl, s.readBytes_attempted, s.ladder_attempted, s.cwValid_attempted, if_neg (decodes hd), hl]
  dsimp only
  rw [hw]
  exact congrArg _ (if_neg h5)

end
end

/-- An operation that leaves takes its own records with it. -/
theorem State.dropOp_spec (s : State) (id : Nat) : (s.dropOp id).media.rawPoison = s.media.rawPoison ∧ (s.dropOp id).media.raw = s.media.raw ∧
    (s.dropOp id).media.health = s.media.health ∧ ∀ x ∈ (s.dropOp id).media.ops, x.id ≠ id := by
  have hid : ∀ x ∈ (s.dropOp id).media.ops, x.id ≠ id := fun x hx => by simpa using (List.mem_filter.1 hx).2
  refine ⟨?_, ?_, ?_, hid⟩ <;> unfold State.dropOp MediaSt.dropOp <;> dsimp only <;> split <;> rfl

/-! ### The end of a ladder, and of a raw read -/

/-- The health counters at the end of a ladder (R263, R306). -/
def Health.laddered (h : Health) (step corrected : Nat) : Health :=
  if step = 1 then (if corrected = 0 then h else { h with corrected := satAdd 64 h.corrected 1 })
  else if step = 2 then { h with retried := satAdd 64 h.retried 1 }
  else if step = 5 then { h with unrecoverable := satAdd 64 h.unrecoverable 1 }
  else { h with softDecoded := satAdd 64 h.softDecoded 1 }

/-- The end of a ladder counts, and leaves the operations, the raw read and what has gone out. -/
structure LadderOnly (s t : State) (step corrected : Nat) : Prop where
  health : t.media.health = s.media.health.laddered step corrected
  ops : t.media.ops = s.media.ops
  raw : t.media.raw = s.media.raw
  rawPoison : t.media.rawPoison = s.media.rawPoison
  out : t.out = s.out

theorem LadderOnly.report {s t : State} {step corrected : Nat} (h : LadderOnly s t step corrected) (k : EvKind) (key d : Nat) :
    LadderOnly s (t.report k key d) step corrected := by
  obtain ⟨h1, h2, h3, h4, h5⟩ := h
  constructor <;> simpa

theorem State.ladderEnd_only (s : State) (a step table corrected : Nat) : LadderOnly s (s.ladderEnd a step table corrected) step corrected := by
  unfold State.ladderEnd
  extract_lets h h' m u v w
  have hu : LadderOnly s u step corrected := ⟨rfl, rfl, rfl, rfl, rfl⟩
  have hv : LadderOnly s v step corrected := by
    show LadderOnly s (if step = 2 then _ else u) step corrected
    split
    · exact ⟨hu.health, rfl, rfl, rfl, rfl⟩
    · exact hu
  have hw : LadderOnly s w step corrected := by
    show LadderOnly s (if step = 4 then _ else v) step corrected
    split
    · refine LadderOnly.report ?_ _ _ _
      split
      · exact ⟨hv.health, hv.ops, hv.raw, hv.rawPoison, hv.out⟩
      · exact hv
    · exact hv
  show LadderOnly s (if step = 5 then _ else w) step corrected
  split
  · exact hw.report _ _ _
  · exact hw

/-- A ladder ends at one of the steps of R263. -/
theorem State.ladder_step {s : State} {o : NandOp} {decoded : Bool} {unsat step table : Nat} (h : s.ladder o decoded unsat = .ended step table) : step ≤ 5 := by
  unfold State.ladder at h
  dsimp only at h
  split_ifs at h <;> obtain ⟨rfl, -⟩ := Ladder.ended.inj h <;> decide

section
variable (s : State) (status step table corrected : Nat) (erased : Bool) (data : Bytes)

/-- A raw read that ends has a piece to write, unless an FLR has cut it off. -/
def State.rawWrites (s : State) (data : Bytes) : Bool := !data.isEmpty && !s.media.raw.cut

/-- Its bytes go poisoned where their buffer was found uncorrectable (R776). -/
def State.rawBad (s : State) (data : Bytes) : Bool := s.media.rawPoison && s.rawWrites data

/-- The state in which a raw read that ends has written its bytes. -/
def State.rawWritten (s : State) (data : Bytes) : State :=
  let u := if s.rawWrites data then s.emit (.memWrite s.media.raw.dest data (s.rawBad data)) else s
  if s.rawBad data then ({ u with media := { u.media with rawPoison := false } } : State).report .resultPoisoned 0 else u

/-- MED_RAW_STAT at the end of a raw read. -/
def State.rawStat (s : State) (status step table corrected : Nat) (erased : Bool) : State :=
  ((((((s.fput .medRawStat_status status).fput .medRawStat_busy 0).fput .medRawStat_erased (b2n erased)).fput .medRawStat_step step).fput .medRawStat_table table).fput
    .medRawStat_corrected (min corrected 65535))

theorem State.rawEnded_eq : s.rawEnded status step table corrected erased data =
    (s.rawWritten data).rawStat (if s.rawBad data then stInternalFault else status) step table corrected erased := rfl

theorem State.rawWritten_out : (s.rawWritten data).out = s.out ++ (if s.rawWrites data then [Output.memWrite s.media.raw.dest data (s.rawBad data)] else []) := by
  have hu : ∀ b : Bool, (if b then s.emit (.memWrite s.media.raw.dest data (s.rawBad data)) else s).out = s.out ++ (if b then [Output.memWrite s.media.raw.dest data (s.rawBad data)] else []) := by
    rintro (b | b)
    · exact (List.append_nil _).symm
    · rfl
  unfold State.rawWritten
  dsimp only
  split
  · rw [State.report_out]
    exact hu _
  · exact hu _

theorem State.rawWritten_media : (s.rawWritten data).media = if s.rawBad data then { s.media with rawPoison := false } else s.media := by
  have hu : ∀ b : Bool, (if b then s.emit (.memWrite s.media.raw.dest data (s.rawBad data)) else s).media = s.media := by
    rintro (b | b) <;> rfl
  unfold State.rawWritten
  dsimp only
  split
  · rw [State.report_media]
    show ({ (_ : State).media with rawPoison := false } : MediaSt) = _
    rw [hu]
  · exact hu _

/-- What a raw read leaves when it ends. -/
theorem State.rawEnded_media : (s.rawEnded status step table corrected erased data).media = if s.rawBad data then { s.media with rawPoison := false } else s.media := by
  rw [s.rawEnded_eq, ← s.rawWritten_media]
  unfold State.rawStat
  simp only [State.fput_media]

theorem State.rawEnded_out : (s.rawEnded status step table corrected erased data).out =
    s.out ++ (if s.rawWrites data then [Output.memWrite s.media.raw.dest data (s.rawBad data)] else []) := by
  rw [s.rawEnded_eq, ← s.rawWritten_out]
  unfold State.rawStat
  simp only [State.fput_out]

theorem State.rawStat_fields : (s.rawStat status step table corrected erased).fget .medRawStat_busy = 0 ∧
    (s.rawStat status step table corrected erased).fget .medRawStat_erased = b2n erased ∧ (s.rawStat status step table corrected erased).fget .medRawStat_status = status % 2 ^ 16 ∧
    (s.rawStat status step table corrected erased).fget .medRawStat_step = step % 2 ^ 3 ∧
    (s.rawStat status step table corrected erased).fget .medRawStat_corrected = min corrected 65535 := by
  have hw : ∀ (v : State) (x y : Fld) (n : Nat), y.reg = x.reg → (y.lsb + y.w ≤ x.lsb ∨ x.lsb + x.w ≤ y.lsb) → (v.fput x n).fget y = v.fget y := fun v x y n h1 h2 =>
    State.fget_fput_field v x y n 0 0 0 h1 h2
  unfold State.rawStat
  refine ⟨?_, ?_, ?_, ?_, ?_⟩
  · simp (disch := decide) only [hw]
    exact State.fget_fput_same _ _ _ _ _ _
  · simp (disch := decide) only [hw]
    refine (State.fget_fput_same _ _ _ _ _ _).trans ?_
    cases erased <;> rfl
  · simp (disch := decide) only [hw]
    exact State.fget_fput_same _ _ _ _ _ _
  · simp (disch := decide) only [hw]
    exact State.fget_fput_same _ _ _ _ _ _
  · refine (State.fget_fput_same _ _ _ _ _ _).trans (Nat.mod_eq_of_lt ?_)
    show min corrected 65535 < 65536
    omega

end

/-- How a raw read ends that has read something (R268, R776). -/
theorem State.rawEnded_read (v : State) (step table corrected : Nat) (erased : Bool) {data : Bytes} (hd : data ≠ []) (hs : step < 8) :
    (v.rawEnded stOk step table corrected erased data).fget .medRawStat_busy = 0 ∧
    (v.rawEnded stOk step table corrected erased data).fget .medRawStat_erased = b2n erased ∧
    (v.rawEnded stOk step table corrected erased data).fget .medRawStat_status = (if v.media.rawPoison ∧ v.media.raw.cut = false then 0x0F00 else 0) ∧
    (v.rawEnded stOk step table corrected erased data).fget .medRawStat_step = step ∧
    (v.rawEnded stOk step table corrected erased data).fget .medRawStat_corrected = min corrected 65535 ∧
    (v.rawEnded stOk step table corrected erased data).out =
      v.out ++ (if v.media.raw.cut then [] else [Output.memWrite v.media.raw.dest data v.media.rawPoison]) ∧
    (v.rawEnded stOk step table corrected erased data).media.ops = v.media.ops ∧
    (v.rawEnded stOk step table corrected erased data).media.health = v.media.health := by
  have hne : data.isEmpty = false := by simpa using hd
  have hout := v.rawEnded_out stOk step table corrected erased data
  have hmedia := v.rawEnded_media stOk step table corrected erased data
  obtain ⟨h1, h2, h3, h4, h5⟩ := (v.rawWritten data).rawStat_fields (if v.rawBad data then stInternalFault else stOk) step table corrected erased
  rw [← v.rawEnded_eq] at h1 h2 h3 h4 h5
  refine ⟨h1, h2, h3.trans ?_, h4.trans (Nat.mod_eq_of_lt hs), h5, hout.trans ?_, ?_, ?_⟩
  · unfold State.rawBad State.rawWrites
    rw [hne]
    cases v.media.rawPoison <;> cases v.media.raw.cut <;> rfl
  · unfold State.rawBad State.rawWrites
    rw [hne]
    cases v.media.raw.cut
    · simp
    · rfl
  · rw [hmedia]
    split <;> rfl
  · rw [hmedia]
    split <;> rfl

/-- How a raw read ends that is refused (R270, R271, R283). -/
theorem State.rawEnded_refused (v : State) {status : Nat} (hs : status < 65536) :
    (v.rawEnded status 0 0 0 false []).fget .medRawStat_status = status ∧ (v.rawEnded status 0 0 0 false []).fget .medRawStat_busy = 0 ∧
    (v.rawEnded status 0 0 0 false []).fget .medRawStat_erased = 0 ∧ (v.rawEnded status 0 0 0 false []).fget .medRawStat_step = 0 ∧
    (v.rawEnded status 0 0 0 false []).out = v.out ∧ (v.rawEnded status 0 0 0 false []).media = v.media := by
  have hb : v.rawBad [] = false := Bool.and_false _
  obtain ⟨h1, h2, h3, h4, -⟩ := (v.rawWritten []).rawStat_fields (if v.rawBad [] then stInternalFault else status) 0 0 0 false
  rw [← v.rawEnded_eq] at h1 h2 h3 h4
  refine ⟨h3.trans ?_, h1, h2, h4, (v.rawEnded_out _ _ _ _ _ _).trans (List.append_nil _), ?_⟩
  · rw [hb]
    exact Nat.mod_eq_of_lt hs
  · rw [v.rawEnded_media, hb]
    rfl

/-! ### The rebuild (R263) -/

/-- The reads of a rebuild are queued behind what is there. -/
theorem State.queueRebuild (op rank : Nat) (l : List Nat) (v : State) :
    ∃ m : List NandOp, (l.foldl (fun s a => s.queueOp .read a (.rebuild op) 0 rank a) v).media.ops = v.media.ops ++ m ∧ m.length = l.length ∧
      (∀ a ∈ l, ∃ x ∈ m, x.kind = .read ∧ x.addr = a ∧ x.why = .rebuild op ∧ x.rank = rank ∧ x.step = 1) ∧
      (l.foldl (fun s a => s.queueOp .read a (.rebuild op) 0 rank a) v).media.health = v.media.health ∧
      (l.foldl (fun s a => s.queueOp .read a (.rebuild op) 0 rank a) v).kv = v.kv := by
  induction l generalizing v with
  | nil => exact ⟨[], (List.append_nil _).symm, rfl, fun _ h => absurd h List.not_mem_nil, rfl, rfl⟩
  | cons b l ih =>
    obtain ⟨m, h1, h2, h3, h4, h5⟩ := ih (v.queueOp .read b (.rebuild op) 0 rank b)
    refine ⟨⟨v.media.nextOp, .read, b, .rebuild op, 0, rank, false, 1, [], b, [], none, false⟩ :: m, h1.trans (List.append_assoc _ [_] m), congrArg (· + 1) h2, fun a ha => ?_, h4, h5⟩
    rcases List.mem_cons.1 ha with rfl | ha
    · exact ⟨_, List.mem_cons_self, rfl, rfl, rfl, rfl, rfl⟩
    · obtain ⟨x, hx, h⟩ := h3 a ha
      exact ⟨x, List.mem_cons_of_mem _ hx, h⟩

/-- An operation goes to step 4. -/
def State.toStep4 (s : State) (id : Nat) : State :=
  { s with media := { s.media with ops := updWhere (fun x => x.id == id) (fun x => { x with step := 4, issued := false }) s.media.ops } }

theorem State.step4_rebuilds {s : State} {o : NandOp} {l : List Nat} (hl : (s.toStep4 o.id).rebuildFrom o.addr = some l) (hn : l ≠ []) :
    s.step4 o = l.foldl (fun s a => s.queueOp .read a (.rebuild o.id) 0 o.rank a) (s.toStep4 o.id) := by
  have e : s.step4 o = match (s.toStep4 o.id).rebuildFrom o.addr with
    | none => (s.toStep4 o.id).step4End o false
    | some [] => (s.toStep4 o.id).step4End o true
    | some l => l.foldl (fun s a => s.queueOp .read a (.rebuild o.id) 0 o.rank a) (s.toStep4 o.id) := rfl
  rw [e, hl]
  cases l with
  | nil => exact absurd rfl hn
  | cons b l => rfl

theorem State.rebuildFrom_attempted (s : State) (o : NandOp) (id a : Nat) : ((s.attempted o).toStep4 id).rebuildFrom a = (s.toStep4 id).rebuildFrom a := rfl

/-! ### A raw read begins (R268, R270, R283) -/

/-- The raw read of a GO, with MODE and the destination as they stand then. -/
def State.rawAsked (s : State) (mode : Nat) : RawRead := { mode := decide (mode = 1), dest := s.fget .medRawDest_addr * 16 }

/-- The state in which a GO has been taken. -/
def State.rawLatched (s : State) (mode : Nat) : State := { s.fput .medRawCtrl_mode mode with media := { s.media with raw := s.rawAsked mode } }

/-- The codeword that MED_RAW_ADDR names. -/
def State.rawAddr (s : State) : Nat := s.fget .medRawAddr_addr / 256 * 256

/-- The block of an address is in a suspended erase. -/
def State.eraseSuspendedAt (s : State) (a : Nat) : Bool :=
  s.media.ops.any fun o => decide (o.kind = .erase) && o.issued && decide (addrLun o.addr = addrLun a ∧ addrBlk o.addr = addrBlk a)
    && (s.media.lun? (addrLun a)).any fun l => l.suspended

theorem State.eraseSuspendedAt_iff (s : State) (a : Nat) : s.eraseSuspendedAt a = true ↔
    (∃ o ∈ s.media.ops, o.kind = .erase ∧ o.issued = true ∧ addrLun o.addr = addrLun a ∧ addrBlk o.addr = addrBlk a) ∧
      ∃ l, s.media.lun? (addrLun a) = some l ∧ l.suspended = true := by
  unfold State.eraseSuspendedAt
  simp only [List.any_eq_true, Bool.and_eq_true, decide_eq_true_eq, Option.any_eq_true, and_assoc]
  exact ⟨fun ⟨o, ho, hk, hi, hl, hb, hs⟩ => ⟨⟨o, ho, hk, hi, hl, hb⟩, hs⟩, fun ⟨⟨o, ho, hk, hi, hl, hb⟩, hs⟩ => ⟨o, ho, hk, hi, hl, hb, hs⟩⟩

theorem State.rawGo_eq {s : State} (hb : s.flag .medRawStat_busy = false) (mode : Nat) :
    s.rawGo mode = if s.rawAddrOk s.rawAddr = false then (s.rawLatched mode).rawEnded stFieldInvalid 0 0 0 false []
      else if s.eraseSuspendedAt s.rawAddr = true then (s.rawLatched mode).rawEnded stEraseSuspended 0 0 0 false []
      else ((s.rawLatched mode).fput .medRawStat_busy 1).queueOp .read s.rawAddr .raw 0 4 s.rawAddr := by
  have hput : ∀ y : Fld, y.reg ≠ .medRawCtrl → (s.fput .medRawCtrl_mode mode).fget y = s.fget y := fun y hy =>
    State.fget_fput_reg _ _ _ _ _ _ _ _ _ _ fun he => hy (congrArg RegKey.name he)
  unfold State.rawGo
  rw [hb, if_neg (by decide)]
  dsimp only
  rw [hput _ (by decide), hput _ (by decide)]
  have hok : (s.rawLatched mode).rawAddrOk s.rawAddr = s.rawAddrOk s.rawAddr := rfl
  have herase : (s.rawLatched mode).eraseSuspendedAt s.rawAddr = s.eraseSuspendedAt s.rawAddr := rfl
  rw [← hok, ← herase]
  show (if (!(s.rawLatched mode).rawAddrOk s.rawAddr) = true then _ else if (s.rawLatched mode).eraseSuspendedAt s.rawAddr = true then _ else _) = _
  cases (s.rawLatched mode).rawAddrOk s.rawAddr <;> rfl

/-- Settles O30: the ladder, the attempt that asks for another, the counters, the two ends of a raw read, and its beginning. -/
theorem readsGoDownTheLadder : Obligations.ReadsGoDownTheLadder := by
  unfold Obligations.ReadsGoDownTheLadder
  refine ⟨fun s o decoded unsat => ?ladder, fun s id corrected unsat step tried decoded raw o h hr hl => ?again, fun s a step table corrected => ?counts,
    fun s id corrected unsat step table decoded raw o h hw hm hb hl h5 => ?decoded, fun s id corrected unsat decoded raw o h hw => ?asRead, fun s mode hs hm hb => ?go⟩
  case ladder =>
    have hmay : s.mayRebuild o = true ↔ s.media.verifiedAt o.addr = false ∧ o.why ≠ .raw ∧ ∀ p, o.why ≠ .rebuild p := by
      unfold State.mayRebuild
      cases o.why <;> simp
    unfold State.ladder
    refine ⟨fun h => by simp [h], fun h hd => by simp [h, hd], fun h hd hn => by simp [h, hd, hn], fun h hd hn => by simp [h, hd, Nat.not_lt.2 hn], fun h => by simp [h],
      fun h => by simp [h], hmay⟩
  case counts => exact (s.ladderEnd_only a step table corrected).health
  case again =>
    have hd : o.why = .raw → s.media.raw.mode = false ∧ erasedPage (s.readBytes o raw) = false := fun hw => ⟨(hr hw).1, erasedPage_of_ne (hr hw).2⟩
    rw [exec_nandReadDone_again h hd hl]
    refine ⟨fun h4 => ?_, fun h4 => ?_⟩
    · rw [if_neg h4]
      exact answers ⟨by rw [media_reach rfl]; rfl, by rw [kv_reach rfl]; rfl, by rw [media_reach rfl]⟩
    · intro u l hu hn
      have hid := State.running_id h
      have hx : ((s.attempted o).toStep4 o.id).rebuildFrom o.addr = some l := by
        rw [s.rebuildFrom_attempted, hid]
        exact hu
      rw [if_pos h4, State.step4_rebuilds (o := { o with tried := tried }) hx hn]
      obtain ⟨m, h1, h2, h3, h4, h5⟩ := State.queueRebuild o.id o.rank l ((s.attempted o).toStep4 o.id)
      rw [hid] at h1 h3 h4 h5 ⊢
      have hops : ((s.attempted o).toStep4 id).media.ops = u.media.ops := rfl
      have hlen : u.media.ops.length = s.media.ops.length := List.length_map _
      refine answers ?_
      rw [media_reach rfl, kv_reach rfl]
      refine ⟨h4, h5, ?_, ?_, fun a ha => ?_⟩
      · exact (congrArg _ h1).trans (List.take_left' hlen)
      · exact (congrArg _ h1).trans ((List.length_append).trans (congrArg₂ _ hlen h2))
      · obtain ⟨x, hx, hp⟩ := h3 a ha
        exact ⟨x, h1 ▸ List.mem_append_right _ hx, hp⟩
  case decoded =>
    have hpad : padTo 4128 ((s.readBytes o raw).take 4128) ≠ [] := fun he => by
      have := congrArg List.length he
      unfold padTo at this
      simp at this
    obtain ⟨-, k2, k3, k4, k5⟩ := ((s.attempted o).dropOp id).ladderEnd_only o.addr step table corrected
    obtain ⟨d1, d2, -, d4⟩ := (s.attempted o).dropOp_spec id
    obtain ⟨h1, h2, h3, h4, h6, h7, h8, -⟩ := State.rawEnded_read (((s.attempted o).dropOp id).ladderEnd o.addr step table corrected) step table corrected false hpad
      (by have := State.ladder_step hl; omega)
    rw [exec_nandReadDone_raw h (fun _ => ⟨hm, erasedPage_of_ne hb⟩) hw h5 hl]
    rw [k4, k3, d1, d2] at h3 h7
    rw [k5] at h7
    refine answers ?_
    rw [fget_reach rfl, fget_reach rfl, fget_reach rfl, fget_reach rfl, fget_reach rfl, media_reach rfl, out_reach rfl]
    exact ⟨h1, h2, h3, h4, h6, fun x hx => d4 x (by rwa [h8, k2] at hx), h7⟩
  case asRead =>
    intro bytes data hne hcase
    have hbytes : bytes.isEmpty = false := by
      rw [List.isEmpty_eq_false_iff]
      exact fun he => hne (by rw [show data = bytes.take _ from rfl, he, List.take_nil])
    have herased : erasedPage (s.readBytes o raw) = bytes.all fun b => decide (b = 255#8) := by
      unfold erasedPage
      rw [show (s.readBytes o raw).isEmpty = false from hbytes]
      rfl
    obtain ⟨d1, d2, d3, d4⟩ := (s.attempted o).dropOp_spec id
    obtain ⟨h1, h2, h3, h4, -, h7, h8, h9⟩ := State.rawEnded_read ((s.attempted o).dropOp id) (if s.media.raw.mode then 0 else 1) 0 0 (erasedPage (s.readBytes o raw)) hne
      (by split <;> decide)
    rw [exec_nandReadDone_asRead h hw (hcase.imp_right fun hall => herased.trans (by simpa using hall))]
    rw [d1, d2] at h3 h7
    refine answers ?_
    rw [fget_reach rfl, fget_reach rfl, fget_reach rfl, fget_reach rfl, media_reach rfl, out_reach rfl]
    exact ⟨h1, h2.trans (congrArg b2n herased), h3, h4, h9.trans d3, fun x hx => d4 x (h8 ▸ hx), h7⟩
  case go =>
    intro a latched suspended
    have e : exec (.rawReadGo mode) s = done [.power, .media, .time, .net, .sup, .ev, .out] (countRegs ++ [.medRawCtrl, .medRawStat]) s (s.rawGo mode) :=
      congrArg (done _ _ s) (if_pos hs)
    have hgo := State.rawGo_eq hb mode
    rw [e]
    refine ⟨fun hok => ?_, fun hok hsus => ?_, fun hok hsus => ?_⟩
    · obtain ⟨h1, h2, h3, h4, h5, h6⟩ := (s.rawLatched mode).rawEnded_refused (status := stFieldInvalid) (by decide)
      rw [hgo, if_pos (show s.rawAddrOk s.rawAddr = false from hok)]
      refine answers ?_
      rw [fget_reach rfl, fget_reach rfl, fget_reach rfl, fget_reach rfl, media_reach rfl, out_reach rfl]
      exact ⟨h1, h2, h3, h4, h5, h6⟩
    · obtain ⟨h1, h2, -, -, h5, h6⟩ := (s.rawLatched mode).rawEnded_refused (status := stEraseSuspended) (by decide)
      rw [hgo, if_neg (show ¬s.rawAddrOk s.rawAddr = false from ne_false_of_eq_true hok), if_pos ((s.eraseSuspendedAt_iff s.rawAddr).2 hsus)]
      refine answers ?_
      rw [fget_reach rfl, fget_reach rfl, media_reach rfl, out_reach rfl]
      exact ⟨h1, h2, h5, h6⟩
    · rw [hgo, if_neg (show ¬s.rawAddrOk s.rawAddr = false from ne_false_of_eq_true hok), if_neg (fun h => hsus ((s.eraseSuspendedAt_iff s.rawAddr).1 h))]
      have hbusy : ((s.rawLatched mode).fput .medRawStat_busy 1).fget .medRawStat_busy = 1 := State.fget_fput_same _ _ _ _ _ _
      have hmode : ((s.rawLatched mode).fput .medRawStat_busy 1).fget .medRawCtrl_mode = mode :=
        (State.fget_fput_reg _ _ _ _ _ _ _ _ _ _ (by decide)).trans ((State.fget_fput_same s _ _ _ _ _).trans (Nat.mod_eq_of_lt hm))
      refine ⟨_, ⟨s.media.nextOp, .read, s.rawAddr, .raw, 0, 4, false, 1, [], s.rawAddr, [], none, false⟩, rfl, ?_⟩
      rw [fget_reach rfl, fget_reach rfl, media_reach rfl]
      exact ⟨hbusy, hmode, rfl, rfl, rfl, rfl, rfl, rfl, rfl⟩

end Sys2Proof.Machine
end

section
/-!
SUPPORT. The AD scrub, what releases Tun entries, and the drain (chapter 04, R198, R199, R211, R212; chapter 03, R156).
-/

namespace Sys2Proof.Machine

/-! ### Parity errors of AD rows (R198) -/

theorem satAdd_satAdd (w v m n : Nat) : satAdd w (satAdd w v m) n = satAdd w v (m + n) := by
  unfold satAdd
  omega

theorem satAdd_zero {w v : Nat} (h : v < 2 ^ w) : satAdd w v 0 = v := by
  unfold satAdd
  omega

/-- The entries after a parity error of a row is found, and the row's entry passed its CHECK or not. -/
def TunSt.faulted (t : TunSt) (row : Nat) (good : Bool) : List TunEntry :=
  match t.rows.find? fun r => r.row == row with
  | none => t.entries
  | some r => if good then t.entries else updWhere (fun e => e.id == r.entry) (fun e => { e with good := false }) t.entries

/-- What a parity error leaves: the rows and the clock, and one more error counted where the row is there. -/
structure Faulted (s t : State) (n : Nat) (es : List TunEntry) : Prop where
  rows : t.tun.rows = s.tun.rows
  clk : t.clk = s.clk
  errs : t.fget .adErr_parityErrs = satAdd Fld.adErr_parityErrs.w (s.fget .adErr_parityErrs) n
  entries : t.tun.entries = es

theorem State.adFault_spec (s : State) (row : Nat) (good : Bool) :
    Faulted s (s.adFault row good) (if s.tun.rows.any fun r => r.row == row then 1 else 0) (s.tun.faulted row good) := by
  have hany : (s.tun.rows.any fun r => r.row == row) = (s.tun.rows.find? fun r => r.row == row).isSome := by rw [Bool.eq_iff_iff, List.find?_isSome, List.any_eq_true]
  unfold State.adFault TunSt.faulted
  rw [hany]
  cases hf : s.tun.rows.find? fun r => r.row == row with
  | none => exact ⟨rfl, rfl, (satAdd_zero (bits_lt _ _ _)).symm, rfl⟩
  | some r =>
    have herrs : ((s.fadd .adErr_parityErrs 1).report .adParity row).fget .adErr_parityErrs = satAdd Fld.adErr_parityErrs.w (s.fget .adErr_parityErrs) 1 :=
      (State.fget_congr (State.report_regs _ _ _ _) _ _ _ _).trans (State.fget_fadd_same _ _ _ _ _ _)
    have htun : ((s.fadd .adErr_parityErrs 1).report .adParity row).tun = s.tun := by rw [State.report_tun, State.fadd_tun]
    have hclk : ((s.fadd .adErr_parityErrs 1).report .adParity row).clk = s.clk := by rw [State.report_clk, State.fadd_clk]
    dsimp only
    cases good with
    | true => exact ⟨congrArg TunSt.rows htun, hclk, herrs, congrArg TunSt.entries htun⟩
    | false =>
      refine ⟨?_, ?_, ?_, ?_⟩
      · rw [if_neg (by decide), State.report_tun]
        exact (congrArg TunSt.rows htun :)
      · rw [if_neg (by decide), State.report_clk]
        exact hclk
      · rw [if_neg (by decide)]
        exact (State.fget_congr (State.report_regs _ _ _ _) _ _ _ _).trans herrs
      · rw [if_neg (by decide), State.report_tun]
        exact congrArg (fun l : List TunEntry => updWhere (fun e => e.id == r.entry) (fun e => { e with good := false }) l) (congrArg TunSt.entries htun)

/-- An entry stands after a parity error, unusable if it was, or if the error is of its row. -/
theorem TunSt.mem_faulted {t : TunSt} {e : TunEntry} (h : e ∈ t.entries) (row : Nat) (good : Bool) :
    (e ∈ t.faulted row good ∨ { e with good := false } ∈ t.faulted row good) ∧
    (good = false → (t.rows.find? fun r => r.row == row).map (fun r => r.entry) = some e.id → { e with good := false } ∈ t.faulted row good) := by
  unfold TunSt.faulted
  cases t.rows.find? fun r => r.row == row with
  | none => exact ⟨.inl h, fun _ hn => by cases hn⟩
  | some r =>
    dsimp only
    cases good with
    | true => exact ⟨.inl h, fun hn => by cases hn⟩
    | false =>
      rw [if_neg (by decide)]
      have hm : r.entry = e.id → { e with good := false } ∈ updWhere (fun e : TunEntry => e.id == r.entry) (fun e => { e with good := false }) t.entries := fun he =>
        mem_updWhere (p := fun e : TunEntry => e.id == r.entry) h (beq_iff_eq.2 he.symm)
      refine ⟨?_, fun _ he => hm (Option.some.inj he)⟩
      by_cases he : r.entry = e.id
      · exact .inr (hm he)
      · refine .inl (List.mem_map.2 ⟨e, h, if_neg ?_⟩)
        simpa using fun h => he h.symm

/-- A scrub pass counts an error for each row named that is there, and marks the entries whose CHECK fails. -/
theorem State.adFaults_spec (bad : List (Nat × Bool)) (s : State) :
    (bad.foldl (fun s b => s.adFault b.1 b.2) s).tun.rows = s.tun.rows ∧ (bad.foldl (fun s b => s.adFault b.1 b.2) s).clk = s.clk ∧
    (bad.foldl (fun s b => s.adFault b.1 b.2) s).fget .adErr_parityErrs =
      satAdd Fld.adErr_parityErrs.w (s.fget .adErr_parityErrs) (bad.filter fun b => s.tun.rows.any fun r => r.row == b.1).length ∧
    (∀ e ∈ s.tun.entries, e.good = false → e ∈ (bad.foldl (fun s b => s.adFault b.1 b.2) s).tun.entries) ∧
    ∀ e ∈ s.tun.entries, (∃ b ∈ bad, b.2 = false ∧ (s.tun.rows.find? fun r => r.row == b.1).map (fun r => r.entry) = some e.id) →
      { e with good := false } ∈ (bad.foldl (fun s b => s.adFault b.1 b.2) s).tun.entries := by
  induction bad generalizing s with
  | nil => exact ⟨rfl, rfl, (satAdd_zero (bits_lt _ _ _)).symm, fun _ h _ => h, fun _ _ ⟨_, h, _⟩ => absurd h List.not_mem_nil⟩
  | cons b bad ih =>
    obtain ⟨h1, h2, h3, h4⟩ := s.adFault_spec b.1 b.2
    obtain ⟨k1, k2, k3, k4, k5⟩ := ih (s.adFault b.1 b.2)
    refine ⟨k1.trans h1, k2.trans h2, ?_, fun e he hg => k4 e ?_ hg, fun e he hb => ?_⟩
    · rw [List.foldl_cons, k3, h3, satAdd_satAdd, h1, List.filter_cons]
      split
      · rw [List.length_cons, Nat.add_comm]
      · rw [Nat.zero_add]
    · rw [h4]
      rcases (TunSt.mem_faulted he b.1 b.2).1 with h | h
      · exact h
      · rwa [show ({ e with good := false } : TunEntry) = e by rw [← hg]] at h
    · obtain ⟨a, ha, hg, hr⟩ := hb
      obtain ⟨m1, m2⟩ := TunSt.mem_faulted he b.1 b.2
      rw [← h4] at m1 m2
      rcases List.mem_cons.1 ha with rfl | ha
      · exact k4 _ (m2 hg hr) rfl
      · rcases m1 with m | m
        · exact k5 e m ⟨a, ha, hg, by rw [h1]; exact hr⟩
        · exact k4 _ m rfl

/-- Where a scrub pass ends. -/
def State.scrubEnd (s : State) : State :=
  let p := if s.flag .adCtrl_scrubEn then s.fget .adCtrl_scrubMs * msCycles else 0
  if p = 0 then s else s.waitCycle ((s.clk.cycles / p + 1) * p)

theorem State.scrubEnd_spec (s : State) : s.scrubEnd.tun = s.tun ∧ s.scrubEnd.regs = s.regs ∧ s.scrubEnd.ev = s.ev ∧
    s.scrubEnd.clk.cycles = max s.clk.cycles s.scrubEnd.clk.cycles ∧ s.scrubEnd.clk.cycles =
      (if (if s.flag .adCtrl_scrubEn then s.fget .adCtrl_scrubMs * msCycles else 0) = 0 then s.clk.cycles
        else (s.clk.cycles / (if s.flag .adCtrl_scrubEn then s.fget .adCtrl_scrubMs * msCycles else 0) + 1) * (if s.flag .adCtrl_scrubEn then s.fget .adCtrl_scrubMs * msCycles else 0)) := by
  unfold State.scrubEnd
  dsimp only
  generalize (if s.flag .adCtrl_scrubEn then s.fget .adCtrl_scrubMs * msCycles else 0) = p
  split
  · exact ⟨rfl, rfl, rfl, (Nat.max_self _).symm, rfl⟩
  next hp =>
    have hlt : s.clk.cycles < (s.clk.cycles / p + 1) * p := (Nat.div_lt_iff_lt_mul (Nat.pos_of_ne_zero hp)).1 (Nat.lt_succ_self _)
    have hc : (s.waitCycle ((s.clk.cycles / p + 1) * p)).clk.cycles = (s.clk.cycles / p + 1) * p := by
      rw [State.waitCycle_cycles]
      exact Nat.max_eq_right hlt.le
    exact ⟨State.waitCycle_tun _ _, State.waitCycle_regs _ _, State.waitCycle_ev _ _, by rw [hc]; exact (Nat.max_eq_right hlt.le).symm, hc⟩

theorem exec_adScrub {s : State} (hs : s.serving = true) (bad : List (Nat × Bool)) :
    exec (.adScrub bad) s = done [.clk, .tun, .sup, .ev] [.adErr] s (bad.foldl (fun s b => s.adFault b.1 b.2) s.scrubEnd) := by
  have e : exec (.adScrub bad) s = execAdScrub bad s := rfl
  rw [e]
  unfold execAdScrub
  rw [when_of hs]
  rfl

/-- The clock after a scrub pass. -/
theorem scrub_cycles {s u : State} {ps : List Part} {ns : List RegName} (h : ps.contains .clk = true) (hc : u.clk = s.scrubEnd.clk) :
    (settle s (s.within ps ns u)).clk.cycles = s.scrubEnd.clk.cycles := by
  obtain ⟨-, -, -, hmax, -⟩ := s.scrubEnd_spec
  exact (cycles_reach h (by rw [hc]; exact hmax)).trans hmax.symm

/-! ### What takes entries out of the Tun -/

/-- No entry and no row comes to the Tun. -/
structure TunShrinks (s t : State) : Prop where
  entries : ∀ y ∈ t.tun.entries, ∃ x ∈ s.tun.entries, x.id = y.id
  rows : ∀ r ∈ t.tun.rows, r ∈ s.tun.rows

theorem TunShrinks.of_tun {s t : State} (h : t.tun = s.tun) : TunShrinks s t := ⟨fun y hy => ⟨y, h ▸ hy, rfl⟩, fun _ hr => h ▸ hr⟩

theorem TunShrinks.refl (s : State) : TunShrinks s s := .of_tun rfl

theorem TunShrinks.trans {s t u : State} (h : TunShrinks s t) (k : TunShrinks t u) : TunShrinks s u where
  entries y hy := by
    obtain ⟨x, hx, e⟩ := k.entries y hy
    obtain ⟨z, hz, e'⟩ := h.entries x hx
    exact ⟨z, hz, e'.trans e⟩
  rows r hr := h.rows r (k.rows r hr)

/-- What goes before leaves the Tun. -/
theorem TunShrinks.after {s t u : State} (k : TunShrinks t u) (h : t.tun = s.tun) : TunShrinks s u := (TunShrinks.of_tun h).trans k

theorem TunShrinks.ite {c : Prop} [Decidable c] {s t u : State} (h : TunShrinks s t) (k : TunShrinks s u) : TunShrinks s (if c then t else u) := by
  split
  · exact h
  · exact k

theorem TunShrinks.foldl {α : Type} {g : State → α → State} (h : ∀ s a, TunShrinks s (g s a)) (l : List α) (s : State) : TunShrinks s (l.foldl g s) := by
  induction l generalizing s with
  | nil => exact TunShrinks.refl s
  | cons a l ih => exact (h s a).trans (ih _)

/-- Entries that are changed under their number. -/
theorem TunShrinks.map {s t : State} {g : TunEntry → TunEntry} (hg : ∀ e, (g e).id = e.id) (he : t.tun.entries = s.tun.entries.map g) (hr : t.tun.rows = s.tun.rows) :
    TunShrinks s t where
  entries y hy := by
    rw [he] at hy
    obtain ⟨x, hx, rfl⟩ := List.mem_map.1 hy
    exact ⟨x, hx, (hg x).symm⟩
  rows r h := hr ▸ h

/-! #### The index -/

theorem tunShrinks_trimCache (s : State) : TunShrinks s s.trimCache := by
  unfold State.trimCache
  refine TunShrinks.foldl (fun v _ => ?_) _ s
  split
  · exact .of_tun rfl
  · exact .refl v

theorem tunShrinks_resizeCache (s : State) : TunShrinks s s.resizeCache := by
  unfold State.resizeCache
  exact TunShrinks.ite (.refl s) ((tunShrinks_trimCache _).after rfl)

theorem tunShrinks_splitLeaf (s : State) (l : Leaf) : TunShrinks s (s.splitLeaf l) := by
  unfold State.splitLeaf
  exact (tunShrinks_trimCache _).after rfl

theorem tunShrinks_doubleSegment (s : State) (w : Nat) : TunShrinks s (s.doubleSegment w) := by
  unfold State.doubleSegment
  exact (tunShrinks_resizeCache _).after rfl

theorem tunShrinks_ensureRoot (s : State) (w : Nat) : TunShrinks s (s.ensureRoot w) := by
  unfold State.ensureRoot
  refine TunShrinks.ite (.refl s) (TunShrinks.trans ?_ (tunShrinks_resizeCache _))
  exact (tunShrinks_trimCache _).after rfl

theorem tunShrinks_roomFor (d fuel : Nat) (s : State) : TunShrinks s (s.roomFor d fuel) := by
  induction fuel generalizing s with
  | zero => exact .refl s
  | succ fuel ih =>
    unfold State.roomFor
    split
    next l r _ _ =>
      exact TunShrinks.ite (.refl s) (TunShrinks.ite ((tunShrinks_splitLeaf s l).trans (ih _))
        (TunShrinks.ite (((tunShrinks_doubleSegment s _).trans (tunShrinks_splitLeaf _ l)).trans (ih _)) (TunShrinks.ite (.refl s) (.of_tun rfl))))
    · exact .refl s

theorem tunShrinks_setEntry (s : State) (key : Bytes) (e : LeafEntry) : TunShrinks s (s.setEntry key e) := by
  unfold State.setEntry
  extract_lets v
  have hv : TunShrinks s v := (tunShrinks_ensureRoot s _).trans (tunShrinks_roomFor _ _ _)
  split
  · exact hv
  · exact hv.trans ((tunShrinks_trimCache _).after rfl)

theorem tunShrinks_removeEntry (s : State) (e : LeafEntry) : TunShrinks s (s.removeEntry e) := by
  unfold State.removeEntry
  split
  · exact .refl s
  · exact .of_tun rfl

/-! #### The drain's end (R204, R211) -/

theorem tunShrinks_freeEntry (s : State) (id : Nat) : TunShrinks s (s.freeEntry id) :=
  ⟨fun y hy => ⟨y, (List.mem_filter.1 hy).1, rfl⟩, fun _ hr => (List.mem_filter.1 (List.mem_filter.1 hr).1).1⟩

theorem tunShrinks_drainedTo (s : State) (e : TunEntry) (i : Item) : TunShrinks s (s.drainedTo e i) := by
  unfold State.drainedTo
  extract_lets v mine
  have hv : TunShrinks s v := TunShrinks.ite (tunShrinks_setEntry _ _ _) (.refl s)
  refine hv.trans (TunShrinks.map (g := fun x => if mine x then { x with state := .drained } else x) (fun x => ?_) rfl rfl)
  split <;> rfl

theorem tunShrinks_drainProgress (s : State) : TunShrinks s s.drainProgress := by
  unfold State.drainProgress
  refine TunShrinks.foldl (fun v e => ?_) _ s
  split
  · exact .refl v
  · exact TunShrinks.ite (tunShrinks_drainedTo v _ _) (.refl v)

theorem tunShrinks_releaseDrained (s : State) : TunShrinks s s.releaseDrained := by
  unfold State.releaseDrained
  extract_lets v recs
  have hv : TunShrinks s v := TunShrinks.foldl (fun v (e : TunEntry) => TunShrinks.ite (tunShrinks_freeEntry v e.id) (.refl v)) _ s
  exact hv.trans (TunShrinks.foldl (fun v (e : TunEntry) => tunShrinks_freeEntry v e.id) _ _)

theorem tunShrinks_mediaProgress (s : State) : TunShrinks s s.mediaProgress := (tunShrinks_drainProgress s).trans (tunShrinks_releaseDrained _)

/-! #### Flash -/

theorem Placing.tun {s t : State} (h : Placing s t) : t.tun = s.tun := by rw [h.rest]

theorem Stored.tun {s t : State} {i : Item} {a : Nat} (h : Stored s t i a) : t.tun = s.tun := by rw [h.rest]

theorem tunShrinks_padsGo (s : State) : TunShrinks s s.padsGo := TunShrinks.foldl (fun v (t : TSet) => .of_tun (placing_padStep v t.wseq).tun) _ s

theorem tunShrinks_summarise (s : State) : TunShrinks s s.summarise := by
  refine TunShrinks.foldl (fun v t => TunShrinks.foldl (fun u x => ?_) _ v) _ s
  dsimp only
  refine TunShrinks.ite (.refl u) ?_
  split
  · exact .refl u
  next h => exact .of_tun (stored_store h).tun

theorem tunShrinks_takeSpare (s : State) (n : Nat) : TunShrinks s (s.takeSpare n) := by
  unfold State.takeSpare
  extract_lets sp m v n w
  have hv : v.tun = s.tun := rfl
  have hw : w.tun = s.tun := by
    show (if _ then _ else v : State).tun = _
    split
    · rw [State.report_tun]
    · rfl
  refine .of_tun ?_
  split
  · rw [State.report_tun]
    exact hw
  · exact hw

theorem tunShrinks_retireBlock (s : State) (lun blk : Nat) : TunShrinks s (s.retireBlock lun blk) := by
  unfold State.retireBlock
  refine TunShrinks.trans ?_ (.of_tun (placing_updateSpace _).tun)
  exact (tunShrinks_takeSpare _ 1).after rfl

theorem tunShrinks_retireSet (s : State) (t : TSet) : TunShrinks s (s.retireSet t) := by
  have ha : ∀ v : State, TunShrinks v v.epochAdvance := fun v => TunShrinks.ite (.refl v) (.of_tun rfl)
  unfold State.retireSet
  refine TunShrinks.trans (TunShrinks.foldl (fun v b => ?_) _ s) (ha _)
  exact TunShrinks.ite (tunShrinks_retireBlock v _ _) (.of_tun (placing_modBlock _ _ _ _).tun)

theorem tunShrinks_victimsDone (s : State) : TunShrinks s s.victimsDone := TunShrinks.foldl (fun v t => tunShrinks_retireSet v t) _ s

theorem foldl_tun {α : Type} (g : State → α → State) (h : ∀ s a, (g s a).tun = s.tun) (l : List α) (s : State) : (l.foldl g s).tun = s.tun :=
  List.foldlRecOn l g (motive := fun t : State => t.tun = s.tun) rfl fun t ht a _ => (h t a).trans ht

/-- The extent that a copied one replaces, in a list of extents. -/
def subExtent (old new : Nat) (es : List (Nat × Nat)) : List (Nat × Nat) := es.map fun e => if e.2 = old then (e.1, new) else e

theorem tunShrinks_switchNow (s : State) (c : Item) : TunShrinks s (s.switchNow c) := by
  unfold State.switchNow
  cases hk : c.kind with
  | value | extents | tombstone =>
    dsimp only
    split
    · exact .refl s
    · exact .of_tun rfl
  | extent =>
    dsimp only
    have hj := foldl_tun (fun (s : State) (x : Leaf × LeafEntry) => s.journal 1 0 x.1.ward x.1.pfx (some x.2) 0 0) (fun _ _ => rfl)
      (s.index.leaves.flatMap fun l => (l.entries.filter fun e => ((s.media.items.filter fun i => i.extents.any fun e => e.2 == c.copyOf).map fun i => i.addr).contains e.loc).map fun e => (l, e)) s
    exact TunShrinks.map (g := fun e : TunEntry => { e with extents := subExtent c.copyOf c.addr e.extents }) (fun _ => rfl)
      (congrArg (fun t : TunSt => t.entries.map fun e : TunEntry => { e with extents := subExtent c.copyOf c.addr e.extents }) hj) (congrArg TunSt.rows hj :)
  | leaf => exact .of_tun (foldl_tun (fun (u : State) (l : Leaf) => u.journal 5 0 l.ward l.pfx none c.addr (((s.media.cwsOf c.addr).drop 1).headD 0) l.ldepth) (fun _ _ => rfl) _ s)
  | segment => exact .of_tun (foldl_tun (fun (s : State) (r : WardRoot) => s.journal 4 0 r.ward 0 none r.gdepth 0) (fun _ _ => rfl) _ s)
  | summary => exact .of_tun (foldl_tun (fun (s : State) (b : Block) => s.modBlock b.lun b.blk fun b => { b with summary := c.addr }) (fun v b => (placing_modBlock v _ _ _).tun) _ s)

theorem tunShrinks_switchSet (s : State) (w : Nat) : TunShrinks s (s.switchSet w) := by
  have hi : ∀ (v : State) (i : Item), TunShrinks v (v.switchItem i) := fun v i => TunShrinks.ite ((tunShrinks_switchNow v i).trans (.of_tun rfl)) (.refl v)
  exact (TunShrinks.foldl hi _ s).trans (tunShrinks_victimsDone _)

theorem tunShrinks_switchesGo (s : State) : TunShrinks s s.switchesGo := TunShrinks.foldl (fun v _ => TunShrinks.ite (tunShrinks_switchSet v _) (.refl v)) _ s

theorem tunShrinks_failedGo (s : State) : TunShrinks s s.failedGo := by
  unfold State.failedGo
  refine TunShrinks.foldl (fun v _ => TunShrinks.foldl (fun u b => ?_) _ v) _ s
  exact .of_tun rfl

theorem tunShrinks_restage (s : State) : TunShrinks s s.restage := by
  refine TunShrinks.foldl (fun v i => ?_) _ s
  split
  · exact .refl v
  next a u h =>
    exact TunShrinks.map (g := fun e : TunEntry => { e with extents := e.extents.map fun x : Nat × Nat => (x.1, if x.2 = i.addr then a else x.2) }) (fun _ => rfl)
      (congrArg (fun t : TunSt => t.entries.map fun e : TunEntry => { e with extents := e.extents.map fun x : Nat × Nat => (x.1, if x.2 = i.addr then a else x.2) }) (stored_store h).tun)
      (congrArg TunSt.rows (stored_store h).tun :)

theorem tunShrinks_piecesCheck (s : State) : TunShrinks s s.piecesCheck := by
  refine TunShrinks.foldl (fun v c => ?_) _ s
  have h := endKeeps_finish v c c.res []
  refine ⟨fun y hy => ?_, fun r hr => h.rows ▸ hr⟩
  obtain ⟨x, hx, e⟩ := h.entries y hy
  exact ⟨x, hx, by rw [e]⟩

theorem tunShrinks_tradeRole (s : State) (lun blk : Nat) : TunShrinks s (s.tradeRole lun blk) := by
  unfold State.tradeRole
  dsimp only
  split
  · exact TunShrinks.ite (.refl s) (TunShrinks.map (g := id) (fun _ => rfl) (List.map_id _).symm rfl)
  · exact .refl s

theorem tunShrinks_imageProgress (s : State) : TunShrinks s s.imageProgress := by
  unfold State.imageProgress
  refine TunShrinks.ite ?_ (.refl s)
  have hs : TunShrinks s ({ s with tun := { s.tun with needed := false, slots := s.tun.slots.set s.tun.slot none, leaving := [] } } : State) :=
    TunShrinks.map (g := id) (fun _ => rfl) (List.map_id _).symm rfl
  refine TunShrinks.trans (hs.trans (TunShrinks.foldl (fun v b => ?_) _ _)) (TunShrinks.foldl (fun v b => ?_) _ _)
  · unfold State.eraseSys
    exact (tunShrinks_tradeRole _ _ _).after rfl
  · exact .of_tun rfl

theorem tunShrinks_kspReap (s : State) : TunShrinks s s.kspReap :=
  TunShrinks.ite (.refl s) ((TunShrinks.foldl (fun v e => tunShrinks_removeEntry v e) _ s).trans (.of_tun rfl))

theorem tunShrinks_leafProgress (s : State) : TunShrinks s s.leafProgress := by
  refine TunShrinks.foldl (fun v l => ?_) _ s
  exact .of_tun rfl

theorem tunShrinks_segProgress (s : State) : TunShrinks s s.segProgress := by
  refine TunShrinks.foldl (fun v r => ?_) _ s
  exact .of_tun rfl

/-- What goes on whenever programs have passed brings nothing to the Tun. -/
theorem tunShrinks_progress (s : State) : TunShrinks s s.progress := by
  unfold State.progress
  refine (TunShrinks.trans (TunShrinks.trans ?_ (tunShrinks_piecesCheck _)) (tunShrinks_imageProgress _)).trans (tunShrinks_kspReap _)
  refine (TunShrinks.trans (TunShrinks.trans ?_ (tunShrinks_failedGo _)) (tunShrinks_restage _)).trans (tunShrinks_victimsDone _)
  refine (TunShrinks.trans (TunShrinks.trans ?_ (tunShrinks_padsGo _)) (tunShrinks_summarise _)).trans (tunShrinks_switchesGo _)
  exact ((tunShrinks_mediaProgress s).trans (tunShrinks_leafProgress _)).trans (tunShrinks_segProgress _)

/-! ### The drain (R211, R212) -/

section
variable {s : State} {id : Nat} {e : TunEntry} (he : s.tun.entry? id = some e) (hm : s.mediaOn = true)
include he hm

/-- What TUN_DRAIN does with an entry. -/
theorem exec_tunDrain : exec (.tunDrain id) s = done (dataParts ++ [.town]) (countRegs ++ ringRegs ++ [.adErr, .adStat, .kveIdxStat]) s
    (if s.kspGone e.ksp && decide (e.kind ≠ .batchRecord) && e.refs == 0 then (s.freeEntry e.id).progress
      else if s.drainable e && s.drainTurn e then (((s.countRead (s.readVer e.ksp e.key e.stamp)).drainEntry e).getD s).progress else s) := by
  have e' : exec (.tunDrain id) s = execTunDrain id s := rfl
  rw [e']
  unfold execTunDrain
  rw [he]
  dsimp only
  rw [hm]
  rfl

/-- An entry of a keyspace that is gone is released, and its rows with it (R156). -/
theorem exec_tunDrain_gone (hg : s.kspGone e.ksp = true) (hk : e.kind ≠ .batchRecord) (hr : e.refs = 0) :
    ∃ t : State, exec (.tunDrain id) s = .next t ∧ (∀ y ∈ t.tun.entries, y.id ≠ id) ∧ ∀ r ∈ t.tun.rows, r.entry ≠ id := by
  have hid : e.id = id := by simpa using List.find?_some he
  have hfree := (freeEntries_spec [e.id] s).2
  have hp := tunShrinks_progress (s.freeEntry e.id)
  rw [exec_tunDrain he hm, if_pos (by simp [hg, hk, hr])]
  refine answers ?_
  rw [tun_reach rfl]
  refine ⟨fun y hy hyid => ?_, fun r hrow hrid => ?_⟩
  · obtain ⟨x, hx, hxy⟩ := hp.entries y hy
    exact (hfree.1 x hx).2 (by rw [hxy, hyid, hid]; exact List.mem_singleton_self id)
  · exact (hfree.2 r (hp.rows r hrow)).2 (by rw [hrid, hid]; exact List.mem_singleton_self id)

end

/-- The entries of a drain that name its record. -/
theorem State.recordNamed (a : Nat) (l : List TunEntry) (s : State) :
    (l.foldl (fun s y => s.modEntry y.id fun x => { x with recAddr := a }) s).media = s.media ∧
    (∀ y ∈ s.tun.entries, ∃ x ∈ (l.foldl (fun s y => s.modEntry y.id fun x => { x with recAddr := a }) s).tun.entries,
      x.id = y.id ∧ (y.recAddr = a ∨ y.id ∈ l.map (fun z => z.id) → x.recAddr = a)) := by
  induction l generalizing s with
  | nil => exact ⟨rfl, fun y hy => ⟨y, hy, rfl, fun h => h.resolve_right List.not_mem_nil⟩⟩
  | cons z l ih =>
    obtain ⟨h1, h2⟩ := ih (s.modEntry z.id fun x => { x with recAddr := a })
    refine ⟨h1, fun y hy => ?_⟩
    by_cases hz : y.id = z.id
    · obtain ⟨x, hx, hid, hrec⟩ := h2 { y with recAddr := a } (mem_updWhere (p := fun x : TunEntry => x.id == z.id) hy (beq_iff_eq.2 hz))
      exact ⟨x, hx, hid, fun _ => hrec (.inl rfl)⟩
    · obtain ⟨x, hx, hid, hrec⟩ := h2 y (List.mem_map.2 ⟨y, hy, if_neg (by simpa using hz)⟩)
      exact ⟨x, hx, hid, fun h => hrec (h.imp_right fun h => (List.mem_cons.1 h).resolve_left hz)⟩

/-- What a record says of its version. -/
def Item.sameVersion (i j : Item) : Prop := j.ksp = i.ksp ∧ j.key = i.key ∧ j.stamp = i.stamp ∧ j.origin = i.origin ∧ j.kind = i.kind ∧ j.addr = i.addr

/-- The end of a drain: the record of item `i`, for the entry and those it may skip, with the chain of predecessors. -/
def State.putRecord (u : State) (e : TunEntry) (skipped : List TunEntry) (rank : Nat) (may : Bool) (i : Item) : Option State :=
  (u.store .user i false rank may).map fun (a, s) =>
    let s := (e :: skipped).foldl (fun s y => s.modEntry y.id fun x => { x with recAddr := a }) s
    let next := (sortBy (fun (p : Item) => p.ord) ((s.recordsOf e.ksp e.key).filter fun p => decide (e.ord < p.ord))).head?
    let later := fun (p : Item) => e.upTo != 0 && p.addr != a && next.any fun q => q.addr == p.addr
    let s : State := { s with media := { s.media with items := updWhere later (fun p => { p with pred := a, predStamp := e.stamp }) s.media.items } }
    if i.pred = 0 then s else s.modItem i.pred fun p => { p with succStamp := e.stamp }

theorem mem_updWhere_version {p : Item → Bool} {f : Item → Item} (hf : ∀ x, Item.sameVersion x (f x)) {l : List Item} {x : Item} (h : x ∈ l) :
    ∃ y ∈ updWhere p f l, Item.sameVersion x y := by
  refine ⟨_, List.mem_map_of_mem h, ?_⟩
  split
  · exact hf x
  · exact ⟨rfl, rfl, rfl, rfl, rfl, rfl⟩

/-- The record stands on flash, and the entry names it. -/
theorem State.putRecord_spec {u w : State} {e : TunEntry} {skipped : List TunEntry} {rank : Nat} {may : Bool} {i : Item} (h : u.putRecord e skipped rank may i = some w)
    (he : e ∈ u.tun.entries) :
    ∃ j ∈ w.media.items, j.ksp = i.ksp ∧ j.key = i.key ∧ j.stamp = i.stamp ∧ j.origin = i.origin ∧ j.kind = i.kind ∧ ∃ y ∈ w.tun.entries, y.id = e.id ∧ y.recAddr = j.addr := by
  obtain ⟨⟨a, v⟩, hs, hw⟩ := Option.map_eq_some_iff.1 h
  obtain ⟨k, hitems⟩ := (stored_store hs).items
  have hv : e ∈ v.tun.entries := (stored_store hs).tun ▸ he
  obtain ⟨hmedia, hent⟩ := State.recordNamed a (e :: skipped) v
  obtain ⟨x, hx, hxid, hrec⟩ := hent e hv
  dsimp only at hw
  generalize (e :: skipped).foldl (fun s y => s.modEntry y.id fun x => { x with recAddr := a }) v = z at hmedia hx hw
  have hi : ({ i with addr := a, wseq := k } : Item) ∈ z.media.items := by
    rw [hmedia, hitems]
    exact List.mem_append_right _ (List.mem_singleton_self _)
  obtain ⟨j, hj, hjv⟩ := mem_updWhere_version (p := fun p => e.upTo != 0 && p.addr != a && (sortBy (fun (p : Item) => p.ord) ((z.recordsOf e.ksp e.key).filter fun p => decide (e.ord < p.ord))).head?.any fun q => q.addr == p.addr)
    (f := fun p => { p with pred := a, predStamp := e.stamp }) (fun _ => ⟨rfl, rfl, rfl, rfl, rfl, rfl⟩) hi
  have hrx : x.recAddr = a := hrec (.inr List.mem_cons_self)
  have hdone : ∀ q : Item, Item.sameVersion { i with addr := a, wseq := k } q →
      q.ksp = i.ksp ∧ q.key = i.key ∧ q.stamp = i.stamp ∧ q.origin = i.origin ∧ q.kind = i.kind ∧ ∃ y ∈ z.tun.entries, y.id = e.id ∧ y.recAddr = q.addr := by
    rintro q ⟨h1, h2, h3, h4, h5, h6⟩
    exact ⟨h1, h2, h3, h4, h5, x, hx, hxid, hrx.trans h6.symm⟩
  rw [← hw]
  split
  · exact ⟨j, hj, hdone j hjv⟩
  · obtain ⟨q, hq, hqv⟩ := mem_updWhere_version (p := fun p => p.addr == i.pred) (f := fun p => { p with succStamp := e.stamp }) (fun _ => ⟨rfl, rfl, rfl, rfl, rfl, rfl⟩) hj
    obtain ⟨q1, q2, q3, q4, q5, q6⟩ := hqv
    obtain ⟨j1, j2, j3, j4, j5, j6⟩ := hjv
    exact ⟨q, hq, hdone q ⟨q1.trans j1, q2.trans j2, q3.trans j3, q4.trans j4, q5.trans j5, q6.trans j6⟩⟩

/-- What an entry's record says of its version (R256). -/
def State.drainBase (s : State) (e : TunEntry) : Item :=
  { addr := 0, kind := .value, wseq := 0, units := 0, ksp := e.ksp, key := e.key, stamp := e.stamp, origin := e.origin, vlen := e.vlen,
    pred := ((s.predOf e).map fun p => p.addr).getD 0, predStamp := ((s.predOf e).map fun p => p.stamp).getD 0, succStamp := e.upTo }

/-- The drain of a TOMBSTONE opens a set in DELETE_ONLY, as that of an entry accepted before NO_SPACE does (R303). -/
def drainMay (e : TunEntry) : Bool := decide (e.kind = .tombstone) || !e.late

section
variable {s : State} {e : TunEntry}

theorem State.drainEntry_tombstone (h : e.kind = .tombstone) :
    s.drainEntry e = s.putRecord e (s.undrained e) s.drainRank (drainMay e) { s.drainBase e with kind := .tombstone, vlen := 0, units := recordUnits e.key.length 0 } := by
  unfold State.drainEntry
  exact if_pos h

theorem State.drainEntry_value (h : e.kind ≠ .tombstone) (hp : e.kind ≠ .publish) (hl : e.vlen ≤ 1048576) :
    s.drainEntry e = s.putRecord e (s.undrained e) s.drainRank (drainMay e)
      { s.drainBase e with data := (s.readVer e.ksp e.key e.stamp).data, units := recordUnits e.key.length e.vlen } := by
  unfold State.drainEntry
  exact (if_neg h).trans ((if_neg hp).trans (if_pos hl))

theorem storeExtents_tun {st : Stream} {ksp rank : Nat} {may : Bool} (l : List (Nat × Bytes)) {r : List (Nat × Nat) × State} :
    ∀ {s : State} {acc : List (Nat × Nat)}, s.storeExtents st ksp rank l acc may = some r → r.2.tun = s.tun := by
  induction l with
  | nil =>
    intro s acc h
    obtain rfl := Option.some.inj h
    rfl
  | cons x l ih =>
    intro s acc h
    unfold State.storeExtents at h
    split at h
    · cases h
    next hs => exact (ih h).trans (stored_store hs).tun

/-- What a drain puts on flash: a record of its entry's version, once the extents it needs are stored. -/
theorem State.drainEntry_put {w : State} (h : s.drainEntry e = some w) :
    ∃ (u : State) (i : Item), u.putRecord e (s.undrained e) s.drainRank (drainMay e) i = some w ∧ u.tun = s.tun ∧
      i.ksp = e.ksp ∧ i.key = e.key ∧ i.stamp = e.stamp ∧ i.origin = e.origin ∧ (i.kind = .tombstone ↔ e.kind = .tombstone) := by
  by_cases ht : e.kind = .tombstone
  · exact ⟨s, _, (State.drainEntry_tombstone ht).symm.trans h, rfl, rfl, rfl, rfl, rfl, iff_of_true rfl ht⟩
  by_cases hp : e.kind = .publish
  · unfold State.drainEntry at h
    extract_lets v predItem skipped base klen n rank may put at h
    rw [if_neg ht, if_pos hp] at h
    exact ⟨s, _, h, rfl, rfl, rfl, rfl, rfl, iff_of_false (show ItemKind.extents ≠ ItemKind.tombstone by decide) ht⟩
  by_cases hl : e.vlen ≤ 1048576
  · exact ⟨s, _, (State.drainEntry_value ht hp hl).symm.trans h, rfl, rfl, rfl, rfl, rfl, iff_of_false (show ItemKind.value ≠ ItemKind.tombstone by decide) ht⟩
  · unfold State.drainEntry at h
    extract_lets v predItem skipped base klen n rank may put at h
    rw [if_neg ht, if_neg hp, if_neg hl] at h
    split at h
    · cases h
    next es u hs => exact ⟨u, _, h, storeExtents_tun _ hs, rfl, rfl, rfl, rfl, iff_of_false (show ItemKind.extents ≠ ItemKind.tombstone by decide) ht⟩

/-- Where an entry has no version before it and none on flash, its record is what the drain stores. -/
theorem State.putRecord_alone {rank : Nat} {may : Bool} {i : Item} {a : Nat} {w : State} (hu : e.upTo = 0) (hp : i.pred = 0) (hs : s.store .user i false rank may = some (a, w)) :
    s.putRecord e [] rank may i = some (w.modEntry e.id fun x => { x with recAddr := a }) := by
  unfold State.putRecord
  rw [hs, Option.map_some]
  dsimp only
  rw [if_pos hp, hu]
  have hid : ∀ (q : Item → Bool) (f : Item → Item) (l : List Item), updWhere (fun p => (0 : Nat) != 0 && p.addr != a && q p) f l = l := fun q f l =>
    updWhere_id _ f l fun _ _ => rfl
  rw [hid]
  rfl

end

/-! ### Which entries may drain (R211, R212) -/

theorem State.predOf_none {s : State} {e : TunEntry} (h : e.upTo = 0) (hf : s.flashEntry e.ksp e.key = none) : s.predOf e = none := by
  unfold State.predOf
  rw [if_pos h, hf]
  rfl

/-- An entry is settled when it is LIVE, not yet on its way, usable, acknowledged, and its batch resolved. -/
theorem State.settled_iff (s : State) (e : TunEntry) : s.settled e = true ↔
    e.state = .live ∧ e.recAddr = 0 ∧ e.kind ≠ .batchRecord ∧ e.good = true ∧ e.replAck = true ∧ (e.batch = 0 ∨ ∃ r, s.tun.record? e.batch = some r ∧ r.resolved = true) := by
  unfold State.settled
  simp [Option.any_eq_true, and_assoc]

/-- What may be skipped when a later entry of its key drains. -/
theorem State.skippable_iff (s : State) (e x : TunEntry) : s.skippable e x = true ↔
    (x.good = false ∧ (e.kind ≠ .patch ∧ x.state = .live ∧ x.recAddr = 0) ∧ x.replAck = true ∧ x.refs = 0) ∨
    (e.kind = .put ∧ x.kind = .put) ∧ s.settled x = true ∧ x.refs = 0 ∧ s.tooOld (e.stamp - 1) = true ∧ ∀ l ∈ s.kv.leases, ¬(x.stamp ≤ l.stamp ∧ l.stamp < e.stamp) := by
  unfold State.skippable State.spoilt
  simp [and_assoc]

/-- What an entry that may drain fulfils. -/
theorem State.drainable_spec {s : State} {e : TunEntry} (h : s.drainable e = true) : e.state = .live ∧ e.recAddr = 0 ∧ e.good = true ∧ e.replAck = true ∧
    (∀ x ∈ s.tun.entries, x.ksp = e.ksp → x.key = e.key → x.ord < e.ord → x.kind = .batchRecord ∨ x.state = .drained ∨
      (x.good = false ∧ e.kind ≠ .patch ∧ x.replAck = true ∧ x.refs = 0) ∨
      (e.kind = .put ∧ x.kind = .put ∧ x.refs = 0 ∧ s.tooOld (e.stamp - 1) = true ∧ ∀ l ∈ s.kv.leases, l.stamp < x.stamp ∨ e.stamp ≤ l.stamp)) ∧
    (e.batch = 0 ∨ ∃ r, s.tun.record? e.batch = some r ∧ r.resolved = true) ∧
    (∀ l, s.index.leaf? e.digest = some l → l.rebuild = false) ∧ ∃ k, s.ksp? e.ksp = some k ∧ k.reclaiming = false ∧ s.slotLoaded k.tenant k.slot = true := by
  unfold State.drainable at h
  simp only [Bool.and_eq_true] at h
  obtain ⟨⟨⟨hset, hall⟩, hleaf⟩, hksp⟩ := h
  obtain ⟨h1, h2, -, h4, h5, h6⟩ := (s.settled_iff e).1 hset
  refine ⟨h1, h2, h4, h5, fun x hx hk hy ho => ?_, h6, fun l hl => ?_, ?_⟩
  · by_cases hb : x.kind = .batchRecord
    · exact .inl hb
    by_cases hd : x.state = .drained
    · exact .inr (.inl hd)
    have hmem : x ∈ s.undrained e := List.mem_filter.2 ⟨hx, by simp [hk, hy, hb, hd, ho]⟩
    rcases (s.skippable_iff e x).1 (List.all_eq_true.1 hall x hmem) with ⟨k1, ⟨k2, -, -⟩, k3, k4⟩ | ⟨⟨k1, k2⟩, -, k3, k4, k5⟩
    · exact .inr (.inr (.inl ⟨k1, k2, k3, k4⟩))
    · refine .inr (.inr (.inr ⟨k1, k2, k3, k4, fun l hl => ?_⟩))
      have := k5 l hl
      omega
  · rw [hl] at hleaf
    simpa using hleaf
  · obtain ⟨k, hk, hr⟩ := (Option.any_eq_true _ _).1 hksp
    exact ⟨k, hk, by simpa using hr⟩

/-- Settles O29: the scrub, its errors, the drain of an entry, what may drain, and the records of a key that flash does not hold. -/
theorem rowsAreScrubbedAndEntriesDrain : Obligations.RowsAreScrubbedAndEntriesDrain := by
  unfold Obligations.RowsAreScrubbedAndEntriesDrain
  refine ⟨fun s hs hen hms => ?pass, fun s bad hs => ?errors, fun s row good r hs hen hr => ?row, fun s id e he hm => ⟨fun hg hk hr => ?gone, fun hg hd ht w hw => ?drains, fun hg hn => ?waits⟩,
    fun s e hd => ?drainable, fun s e a w hk hu h0 hf hs => ?tombstone, fun s e a w hk hp hl hu h0 hf hs => ?value⟩
  case pass =>
    obtain ⟨htun, hregs, hev, -, hcyc⟩ := s.scrubEnd_spec
    rw [exec_adScrub hs]
    refine answers ⟨(tun_reach rfl).trans htun, (ev_reach rfl).trans hev, (scrub_cycles rfl rfl).trans ?_, (fget_reach rfl _ _ _).trans (State.fget_congr hregs _ _ _ _)⟩
    rw [hcyc, hen, if_pos rfl, if_neg (Nat.pos_iff_ne_zero.1 (Nat.mul_pos hms (by decide)))]
    rfl
  case errors =>
    intro p
    obtain ⟨htun, hregs, -, -, hcyc⟩ := s.scrubEnd_spec
    obtain ⟨h1, h2, h3, -, h5⟩ := State.adFaults_spec bad s.scrubEnd
    rw [exec_adScrub hs]
    rw [htun] at h1 h3 h5
    rw [State.fget_congr hregs] at h3
    refine answers ⟨?_, (scrub_cycles rfl h2).trans hcyc, (fget_reach rfl _ _ _).trans h3, ?_⟩
    · rw [tun_reach rfl]
      exact h1
    · rw [tun_reach rfl]
      exact h5
  case row =>
    obtain ⟨htun, hregs, -, -, -⟩ := s.scrubEnd_spec
    obtain ⟨h1, -, h3, h4⟩ := s.scrubEnd.adFault_spec row good
    have hany : (s.tun.rows.any fun r => r.row == row) = true := List.any_eq_true.2 ⟨r, List.mem_of_find?_eq_some hr, by simpa using List.find?_some hr⟩
    rw [htun] at h1 h3 h4
    rw [State.fget_congr hregs, hany, if_pos rfl] at h3
    unfold TunSt.faulted at h4
    rw [hr] at h4
    rw [exec_adScrub hs, List.foldl_cons, List.foldl_nil]
    refine answers ⟨?_, (fget_reach rfl _ _ _).trans h3, ?_⟩
    · rw [tun_reach rfl]
      exact h1
    · rw [tun_reach rfl]
      exact h4
  case gone => exact exec_tunDrain_gone he hm hg hk hr
  case drains =>
    refine ⟨?_, ?_⟩
    · rw [exec_tunDrain he hm, hg, if_neg (by simp), hd, ht, if_pos (by decide), hw]
      rfl
    · obtain ⟨u, i, h1, h2, h3, h4, h5, h6, h7⟩ := State.drainEntry_put hw
      have hmem : e ∈ u.tun.entries := by
        rw [h2, (s.countRead_keeps _).tun]
        exact List.mem_of_find?_eq_some he
      have hid : e.id = id := by simpa using List.find?_some he
      obtain ⟨j, hj, k3, k4, k5, k6, k7, y, hy, hyid, hya⟩ := State.putRecord_spec h1 hmem
      exact ⟨j, hj, k3.trans h3, k4.trans h4, k5.trans h5, k6.trans h6, by rw [k7]; exact h7, y, hy, hyid.trans hid, hya⟩
  case waits =>
    rw [exec_tunDrain he hm, hg, if_neg (by simp), if_neg (by rcases hn with h | h <;> simp [h])]
    exact answers ⟨rfl, rfl, rfl⟩
  case drainable => exact State.drainable_spec hd
  case tombstone =>
    have hmay : drainMay e = true := by
      unfold drainMay
      rw [decide_eq_true hk]
      rfl
    have hp : s.predOf e = none := State.predOf_none h0 hf
    rw [State.drainEntry_tombstone hk, hu, hmay]
    exact State.putRecord_alone h0 (by rw [State.drainBase, hp]; rfl) (by rw [State.drainBase, hp, h0]; exact hs)
  case value =>
    have hmay : drainMay e = !e.late := by
      unfold drainMay
      rw [decide_eq_false hk]
      rfl
    have hp' : s.predOf e = none := State.predOf_none h0 hf
    rw [State.drainEntry_value hk hp hl, hu, hmay]
    exact State.putRecord_alone h0 (by rw [State.drainBase, hp']; rfl) (by rw [State.drainBase, hp', h0]; exact hs)

end Sys2Proof.Machine
end

section
/-!
SUPPORT. What a start of the part keeps and what it leaves as reset has it (chapter 17, R711, R713, R723), with what stops before it (R603, R630) and the
release of contexts and Tun entries (R209, R213).
-/

namespace Sys2Proof.Machine

/-! ### What stops before a flush (R213, R603, R630) -/

/-- The state but for the channels, the code flash and the counter of free values. -/
def State.besideStops (s : State) : State := { s with drt := {}, cfl := {}, free := 0 }

theorem State.coastAll_beside (s : State) (mark : Bool) : (s.coastAll mark).besideStops = s.besideStops :=
  foldl_keeps State.besideStops _ _ _ fun _ _ => rfl

theorem State.drtStop_beside (s : State) : s.drtStop.besideStops = s.besideStops := s.coastAll_beside false

theorem State.drtPowerFail_beside (s : State) : s.drtPowerFail.besideStops = s.besideStops := by
  unfold State.drtPowerFail
  split
  · rfl
  · exact s.coastAll_beside false

theorem State.cflAbort_beside (s : State) : s.cflAbort.besideStops = s.besideStops := by
  unfold State.cflAbort
  refine foldl_keeps State.besideStops _ _ s fun u j => ?_
  dsimp only
  split <;> rfl

/-! ### The release of FILLING entries (R213 step 3) -/

/-- Contexts, AD rows and Tun entries are dropped, with the readers and the reads of the contexts; an entry that stays has its state. -/
structure DropsOnly (s t : State) : Prop where
  rest : t = { s with kv := t.kv, tun := t.tun, media := t.media }
  kv : t.kv = { s.kv with ctxs := t.kv.ctxs }
  tun : t.tun = { s.tun with rows := t.tun.rows, entries := t.tun.entries }
  media : t.media = { s.media with slots := t.media.slots, ops := t.media.ops }
  entries : ∀ e ∈ t.tun.entries, ∃ d ∈ s.tun.entries, e.id = d.id ∧ e.state = d.state

theorem DropsOnly.refl (s : State) : DropsOnly s s := ⟨rfl, rfl, rfl, rfl, fun e he => ⟨e, he, rfl, rfl⟩⟩

theorem DropsOnly.trans {s t u : State} (h : DropsOnly s t) (k : DropsOnly t u) : DropsOnly s u where
  rest := k.rest.trans (congrArg (fun v : State => { v with kv := u.kv, tun := u.tun, media := u.media }) h.rest)
  kv := by rw [k.kv, h.kv]
  tun := by rw [k.tun, h.tun]
  media := by rw [k.media, h.media]
  entries e he := by
    obtain ⟨d, hd, hi, hs⟩ := k.entries e he
    obtain ⟨c, hc, hi', hs'⟩ := h.entries d hd
    exact ⟨c, hc, hi.trans hi', hs.trans hs'⟩

theorem DropsOnly.foldl {α : Type} (g : State → α → State) (h : ∀ s a, DropsOnly s (g s a)) (l : List α) (s : State) : DropsOnly s (l.foldl g s) := by
  induction l generalizing s with
  | nil => exact .refl s
  | cons a l ih => exact (h s a).trans (ih _)

/-- Moving references to an entry. -/
theorem dropsOnly_refs (s : State) (id : Nat) (g : Nat → Nat) : DropsOnly s (s.modEntry id fun e => { e with refs := g e.refs }) where
  __ := DropsOnly.refl s
  entries e he := by
    obtain ⟨d, hd, h⟩ := (endKeeps_refs s id g).entries e he
    exact ⟨d, hd, by rw [h], by rw [h]⟩
  rest := rfl
  tun := rfl

theorem dropsOnly_releaseCtx (s : State) (c : OpCtx) : DropsOnly s (s.releaseCtx c) := by
  unfold State.releaseCtx
  extract_lets u v
  have hu : DropsOnly s u := by
    unfold u
    split
    · exact { DropsOnly.refl s with rest := rfl, media := rfl }
    · exact .refl s
  have hv : DropsOnly u v := DropsOnly.foldl _ (fun x id => dropsOnly_refs x id (· - 1)) _ _
  exact (hu.trans hv).trans { DropsOnly.refl v with rest := rfl, kv := rfl, media := rfl }

theorem dropsOnly_freeEntry (s : State) (id : Nat) : DropsOnly s (s.freeEntry id) :=
  { DropsOnly.refl s with rest := rfl, tun := rfl, entries := fun e he => ⟨e, (List.mem_filter.1 he).1, rfl, rfl⟩ }

/-- No entry that is freed stays. -/
theorem freeEntries_gone (l : List Nat) (s : State) : ∀ e ∈ (l.foldl (fun s id => s.freeEntry id) s).tun.entries, e.id ∉ l := by
  induction l generalizing s with
  | nil => exact fun _ _ => List.not_mem_nil
  | cons a l ih =>
    intro e he hm
    rcases List.mem_cons.1 hm with rfl | hl
    · obtain ⟨d, hd, hi, -⟩ := (DropsOnly.foldl _ dropsOnly_freeEntry l (s.freeEntry e.id)).entries e he
      have : d.id ≠ e.id := by simpa using (List.mem_filter.1 hd).2
      exact this hi.symm
    · exact ih (s.freeEntry a) e he hl

/-! ### What a start keeps (R711, R713, R723) -/

/-- What flash and the part's identity bring through a start. -/
def State.lasting (s : State) := (s.ident, s.kv.keyspaces, s.media.handleFloor, s.tun.slots, s.media.blocks, s.upd.pieces)

theorem State.report_rest (s : State) (k : EvKind) (key d : Nat) : s.report k key d = { s with ev := (s.report k key d).ev, sup := (s.report k key d).sup } := by
  unfold State.report State.reportFrom
  dsimp only
  split_ifs <;> rfl

theorem State.report_lasting (s : State) (k : EvKind) (key d : Nat) : (s.report k key d).lasting = s.lasting := by
  rw [s.report_rest]
  rfl

theorem DropsOnly.lasting {s t : State} (h : DropsOnly s t) (hs : t.tun.slots = s.tun.slots) : t.lasting = s.lasting := by
  unfold State.lasting
  rw [h.kv, h.media, hs, h.rest]

theorem State.txRekey_lasting (s : State) (n : Nat) : (s.txRekey n).lasting = s.lasting := by
  unfold State.txRekey
  split
  · rfl
  · split
    · rfl
    · extract_lets u
      have hu : u.lasting = s.lasting := by
        unfold u
        split
        · exact s.report_lasting _ _ _
        · rfl
      refine Eq.trans ?_ hu
      split
      · unfold State.skPromote
        dsimp only
        split <;> rfl
      · rfl

theorem State.sendPacket_lasting (s : State) (n : Nat) (p : YPacket) : (s.sendPacket n p).lasting = s.lasting := by
  unfold State.sendPacket
  dsimp only
  split <;> exact s.txRekey_lasting n

theorem State.releaseCtx_lasting (s : State) (c : OpCtx) : (s.releaseCtx c).lasting = s.lasting :=
  (dropsOnly_releaseCtx s c).lasting (congrArg TunSt.slots (dropsOnly_releaseCtx s c).tun :)

theorem State.closeSlot_lasting (s : State) (n cause : Nat) : (s.closeSlot n cause).lasting = s.lasting := by
  have hc : (s.closeRequests n).lasting = s.lasting := by
    unfold State.closeRequests
    split
    · rfl
    · exact foldl_keeps State.lasting _ _ _ State.releaseCtx_lasting
  exact (State.report_lasting _ _ _ _).trans hc

theorem State.sendClose_lasting (s : State) (n code cause : Nat) : (s.sendClose n code cause).lasting = s.lasting := by
  unfold State.sendClose
  split
  · rfl
  · exact (State.closeSlot_lasting _ _ _).trans (State.sendPacket_lasting _ _ _)

theorem State.shutdownSessions_lasting (s : State) : s.shutdownSessions.lasting = s.lasting := by
  unfold State.shutdownSessions
  split
  · exact foldl_keeps State.lasting _ _ _ fun u n => u.sendClose_lasting n 4 4
  · rfl

theorem State.startLog_lasting (s : State) (porst : Bool) : (s.startLog porst).lasting = s.lasting := by
  unfold State.startLog
  extract_lets e c lost log now cyc fr clr u
  have hu : u.lasting = s.lasting := by
    unfold u
    split <;> rfl
  exact hu

/-! ### A start (R711, R713, R723) -/

theorem Restarted.of_lasting {s v t : State} {ty c : Nat} (h : Safety.Restarted v t ty c) (e : v.lasting = s.lasting) : Safety.Restarted s t ty c := by
  obtain ⟨hi, hk, hf, hs, hb, hp⟩ : v.ident = s.ident ∧ v.kv.keyspaces = s.kv.keyspaces ∧ v.media.handleFloor = s.media.handleFloor ∧ v.tun.slots = s.tun.slots ∧
      v.media.blocks = s.media.blocks ∧ v.upd.pieces = s.upd.pieces := by simpa [State.lasting] using e
  unfold Safety.Restarted at h ⊢
  rwa [hi, hk, hf, hs, hb, hp] at h

/-- The state but for what a start writes beside its reset values (events, a register, the clock's cycles) and for what the frame of every command sets. -/
def State.besideStart (s : State) : State :=
  { s with clk := ⟨0, s.clk.tai⟩, regs := [], ev := {}, sup := {}, changes := [], pending := [] }

theorem State.setReg_beside (s : State) (r : RegKey) (v : Nat) : (s.setReg r v).besideStart = s.besideStart := rfl

theorem Restarted.of_beside {s t u : State} {ty c : Nat} (h : Safety.Restarted s t ty c) (e : u.besideStart = t.besideStart)
    (hr : ∀ r : RegKey, r.name ≠ .ledThermStat → u.reg r = t.reg r) : Safety.Restarted s u ty c := by
  have hregs : (∀ r : RegKey, r.name ≠ .ledThermStat → u.reg r = r.reset) ↔ ∀ r : RegKey, r.name ≠ .ledThermStat → t.reg r = r.reset :=
    forall₂_congr fun r hn => by rw [hr r hn]
  have hpower : u.power = t.power := (congrArg State.power e :)
  have htai : u.clk.tai = t.clk.tai := (congrArg (fun v : State => v.clk.tai) e :)
  have hkv : u.kv = t.kv := (congrArg State.kv e :)
  have hhost : u.host = t.host := (congrArg State.host e :)
  have hcip : u.cip = t.cip := (congrArg State.cip e :)
  have hywp : u.ywp = t.ywp := (congrArg State.ywp e :)
  have hnet : u.net = t.net := (congrArg State.net e :)
  have htun : u.tun = t.tun := (congrArg State.tun e :)
  have hindex : u.index = t.index := (congrArg State.index e :)
  have hmedia : u.media = t.media := (congrArg State.media e :)
  have hident : u.ident = t.ident := (congrArg State.ident e :)
  have hupd : u.upd = t.upd := (congrArg State.upd e :)
  unfold Safety.Restarted at h ⊢
  rwa [hregs, hpower, htai, hkv, hhost, hcip, hywp, hnet, htun, hindex, hmedia, hident, hupd]

theorem Restarted.report {s t : State} {ty c : Nat} (h : Safety.Restarted s t ty c) (k : EvKind) (key d : Nat) : Safety.Restarted s (t.report k key d) ty c :=
  Restarted.of_beside h (by rw [t.report_rest]; rfl) fun r _ => State.reg_congr (t.report_regs k key d) r

/-- LED_THERM_STAT is the one register that a start writes. -/
theorem Restarted.critLast {s t : State} {ty c : Nat} (h : Safety.Restarted s t ty c) (v : Nat) : Safety.Restarted s (t.fput .ledThermStat_critLast v) ty c := by
  unfold State.fput
  refine Restarted.of_beside h (t.setReg_beside _ _) fun r hn => ?_
  rw [State.reg_setReg, if_neg]
  rintro rfl
  exact hn rfl

theorem Restarted.ident {s t : State} {ty c : Nat} (h : Safety.Restarted s t ty c) : t.ident = s.ident := by
  obtain ⟨-, -, -, -, -, -, -, -, -, -, -, -, -, -, -, -, -, -, -, -, -, -, -, -, -, -, -, -, hi, -, -⟩ := h
  exact hi

/-- A command that can write every part answers with the start it computed. -/
theorem Restarted.settle {s w u : State} {ty c : Nat} (h : Safety.Restarted s u ty c) (hi : s.ident = w.ident) :
    Safety.Restarted s (Machine.settle w (w.within coldParts RegName.all u)) ty c := by
  refine Restarted.of_beside h ?_ fun r _ => ?_
  · show { u.besideStart with ident := w.ident } = u.besideStart
    rw [← hi, ← Restarted.ident h]
    rfl
  · rw [reg_settle, State.reg_within, if_pos r.name.contains_all]

/-- A start begins from what lasts: every other part is as reset leaves it. -/
theorem State.coldReset_restarted (s : State) (ty c : Nat) : Safety.Restarted s (s.coldReset ty c) ty c := by
  unfold State.coldReset
  extract_lets u v p _ t w x
  have hu : u.lasting = s.lasting := by
    unfold u
    split
    · exact s.shutdownSessions_lasting
    · rfl
  have hv : v.lasting = s.lasting := by
    refine Eq.trans ?_ ((u.startLog_lasting (decide (ty = 0))).trans hu)
    exact (congrArg State.lasting (State.cflAbort_beside (u.startLog (decide (ty = 0)))) :)
  have ht : Safety.Restarted v t ty c :=
    ⟨rfl, rfl, rfl, rfl, rfl, rfl, rfl, rfl, rfl, rfl, rfl, rfl, rfl, rfl, rfl, rfl, rfl, rfl, rfl, rfl, rfl, rfl, rfl, rfl, rfl, rfl, rfl, rfl, rfl, rfl, fun _ _ => rfl⟩
  have hw : Safety.Restarted v w ty c := List.foldlRecOn _ _ (motive := fun w : State => Safety.Restarted v w ty c) ht fun _ h _ _ => Restarted.report h _ _ _
  refine Restarted.of_lasting ?_ hv
  split
  · exact Restarted.report (Restarted.critLast hw _) _ _ _
  · exact Restarted.critLast hw _

end Sys2Proof.Machine
end

section
/-!
SUPPORT. Flushes: what begins one, the image it writes, and the halt or the start that follows (chapter 04, R213, R214, R218; chapter 12, R565;
chapter 17, R710, R712).
-/

namespace Sys2Proof.Machine

/-! ### A flush begins (R213) -/

/-- A flush has begun: beside its marks in the Tun only contexts and entries are dropped, and no entry is FILLING. -/
structure FlushBegun (s t : State) (n : Nat) : Prop where
  rest : t = { s with kv := t.kv, tun := t.tun, media := t.media }
  health : t.media.health = s.media.health
  flushing : t.tun.flushing = true
  flushFrom : t.tun.flushFrom = s.clk.cycles
  flushFor : t.tun.flushFor = n
  settled : ∀ e ∈ t.tun.entries, e.state ≠ .filling

theorem FlushBegun.power {s t : State} {n : Nat} (h : FlushBegun s t n) : t.power = s.power := (congrArg State.power h.rest :)

theorem FlushBegun.host {s t : State} {n : Nat} (h : FlushBegun s t n) : t.host = s.host := (congrArg State.host h.rest :)

theorem FlushBegun.net {s t : State} {n : Nat} (h : FlushBegun s t n) : t.net = s.net := (congrArg State.net h.rest :)

theorem FlushBegun.ev {s t : State} {n : Nat} (h : FlushBegun s t n) : t.ev = s.ev := (congrArg State.ev h.rest :)

theorem FlushBegun.regs {s t : State} {n : Nat} (h : FlushBegun s t n) : t.regs = s.regs := (congrArg State.regs h.rest :)

theorem State.startFlush_begun (s : State) (n : Nat) : FlushBegun s (s.startFlush n) n := by
  unfold State.startFlush
  extract_lets filling _ u v
  have hv : DropsOnly u v := DropsOnly.foldl _ dropsOnly_releaseCtx _ _
  have h := hv.trans (DropsOnly.foldl _ dropsOnly_freeEntry filling v)
  refine ⟨h.rest, by rw [h.media], by rw [h.tun], by rw [h.tun], by rw [h.tun], fun e he hf => ?_⟩
  obtain ⟨d, hd, hi, hs⟩ := h.entries e he
  refine freeEntries_gone filling v e he (List.mem_map.2 ⟨d, List.mem_filter.2 ⟨hd, ?_⟩, hi.symm⟩)
  simpa using hs.symm.trans hf

/-! ### The end of a flush (R213, R214) -/

/-- The state when the flush has taken `us` microseconds and its image stands. -/
def State.flushed (s : State) (us : Nat) : State := (s.waitCycle (s.tun.flushFrom + us * 600)).writeImage us

/-- What follows the image of a flush, by what began the flush. -/
def State.flushOver (s : State) : Nat → State
  | 0 => s.haltWith .powerFail
  | 1 => if s.power.porstLow then s else s.coldReset 0 0
  | 2 => if s.power.refclkLost then s.haltWith .refclk else (s.haltWith .refclk).coldReset 1 4
  | 3 => s.haltWith .thermal
  | _ => s.coldReset 1 s.power.pendCause

theorem exec_flushEnd {s : State} (hf : s.tun.flushing = true) (us : Nat) :
    exec (.flushEnd us) s = done coldParts RegName.all s ((s.flushed us).flushOver s.tun.flushFor) := by
  show done _ _ s (when _ _ s) = _
  rw [when_of hf]
  rfl

theorem State.flushOver_reset {n : Nat} (h : 4 ≤ n) (s : State) : s.flushOver n = s.coldReset 1 s.power.pendCause := by
  obtain ⟨k, rfl⟩ := Nat.exists_eq_add_of_le' h
  rfl

theorem State.flushed_power (s : State) (us : Nat) : (s.flushed us).power = s.power := rfl

theorem State.checkpoint_regs (s : State) : s.checkpoint.regs = s.regs := rfl

theorem State.flushed_lastUs (s : State) (us : Nat) : (s.flushed us).fget .tunFlushLast_lastUs = us % 2 ^ 32 := by
  have hfields : ∀ (u : State) (a b : Nat), ((u.fput .tunFlushLast_lastUs a).fput .tunFlushLast_seqLo b).fget .tunFlushLast_lastUs = a % 2 ^ 32 := fun u a b =>
    (State.fget_fput_field _ .tunFlushLast_seqLo .tunFlushLast_lastUs b 0 0 0 rfl (.inl (by decide))).trans (u.fget_fput_same _ _ _ _ _)
  exact (State.fget_congr (State.checkpoint_regs _) _ _ _ _).trans (hfields _ _ _)

/-! ### What begins a flush (R213, R218, R710, R712) -/

/-- PWRFAIL_N has fallen, and the health record counts it. -/
def State.pwrLow (s : State) : State :=
  { s with power := { s.power with pwrfailLow := true }
           media := { s.media with health := { s.media.health with powerFails := satAdd 32 s.media.health.powerFails 1 } } }

/-- The state once PWRFAIL_N has fallen and what R213 stops at once has stopped. -/
def State.pwrFailed (s : State) : State := s.pwrLow.counterEntry.cflAbort.drtPowerFail

theorem State.pwrFailed_beside (s : State) : s.pwrFailed.besideStops = s.pwrLow.counterEntry.besideStops :=
  (State.drtPowerFail_beside _).trans (State.cflAbort_beside _)

theorem State.pwrFailed_spec (s : State) : s.pwrFailed.power = { s.power with pwrfailLow := true } ∧ s.pwrFailed.tun = s.tun ∧ s.pwrFailed.clk = s.clk ∧
    s.pwrFailed.media.health.powerFails = satAdd 32 s.media.health.powerFails 1 ∧
    ∃ c, s.pwrFailed.ev.counter = some c ∧ c.opS = s.opSeconds ∧ c.cycle = s.ev.cycle ∧ c.lost = s.ev.lost :=
  ⟨(congrArg State.power s.pwrFailed_beside :), (congrArg State.tun s.pwrFailed_beside :), (congrArg State.clk s.pwrFailed_beside :),
    (congrArg (fun u : State => u.media.health.powerFails) s.pwrFailed_beside :), _, (congrArg (fun u : State => u.ev.counter) s.pwrFailed_beside :), rfl, rfl, rfl⟩

theorem exec_powerFailFlush {s : State} (hp : s.pinsActive = true) (hh : s.power.halt = none) (hf : s.tun.flushing = false) :
    exec .powerFailFlush s = done [.power, .kv, .tun, .media, .drt, .cfl, .ev, .out, .free] [] s (if s.canFlush then s.pwrFailed.startFlush 0 else s.pwrFailed.powerHalt) := by
  have htun : s.pwrFailed.tun = s.tun := (congrArg State.tun s.pwrFailed_beside :)
  have hcan : s.pwrFailed.canFlush = s.canFlush := (congrArg State.canFlush s.pwrFailed_beside :)
  show done _ _ s (when _ _ s) = _
  rw [when_of hp]
  show done _ _ s (if s.power.halt.isSome then _ else if s.pwrFailed.tun.flushing then _ else if s.pwrFailed.canFlush then _ else _) = _
  rw [hh, if_neg (by simp), htun, hf, if_neg (by simp), hcan]
  rfl

/-- A part that halts for a power failure keeps its Tun and its flash. -/
theorem State.powerHalt_spec (s : State) : s.powerHalt.power = { s.power with halt := some .powerFail } ∧ s.powerHalt.tun = s.tun ∧ s.powerHalt.media = s.media := by
  unfold State.powerHalt
  split <;> exact ⟨rfl, rfl, rfl⟩

/-- The state once PORST_N has fallen and what stops with it has stopped. -/
def State.porstFallen (s : State) : State := ({ s with power := { s.power with porstLow := true } } : State).counterEntry.cflAbort.drtStop

theorem State.porstFallen_beside (s : State) :
    s.porstFallen.besideStops = ({ s with power := { s.power with porstLow := true } } : State).counterEntry.besideStops :=
  (State.drtStop_beside _).trans (State.cflAbort_beside _)

theorem exec_porstNFall {s : State} (hp : s.power.porstLow = false) :
    exec .porstNFall s = done [.power, .kv, .tun, .media, .drt, .cfl, .ev, .free] [] s
      (if s.tun.flushing then { s with power := { s.power with porstLow := true }, tun := { s.tun with flushFor := 1 } }
       else if s.canFlush && !s.upd.inert then s.porstFallen.startFlush 1 else s.porstFallen) := by
  show done _ _ s (when _ _ s) = _
  rw [when_of (by rw [hp]; rfl)]
  rfl

/-- The state once the loss of REFCLK is reported, and the channels, the link and the ports are down. -/
def State.unclocked (s : State) : State :=
  let u := ((s.report .refLost).fput .clkStat_refLost 1).drtStop
  { u with
    power := { u.power with refclkLost := true }
    host := { u.host with linkUp := false }
    net := { u.net with ports := u.net.ports.map fun p => { p with link := false, up := false } } }

theorem State.unclocked_spec (s : State) : s.unclocked.power = { s.power with refclkLost := true } ∧ s.unclocked.tun = s.tun ∧ s.unclocked.media = s.media ∧
    s.unclocked.host.linkUp = false ∧ (∀ p ∈ s.unclocked.net.ports, p.link = false ∧ p.up = false) ∧ s.unclocked.fget .clkStat_refLost = 1 := by
  have hb := ((s.report .refLost).fput .clkStat_refLost 1).drtStop_beside
  have hpower : ((s.report .refLost).fput .clkStat_refLost 1).drtStop.power = s.power :=
    (congrArg State.power hb :).trans (s.report_power _ _ _)
  have htun : s.unclocked.tun = s.tun := (congrArg State.tun hb :).trans (s.report_tun _ _ _)
  have hmedia : s.unclocked.media = s.media := (congrArg State.media hb :).trans (s.report_media _ _ _)
  have hregs : s.unclocked.regs = ((s.report .refLost).fput .clkStat_refLost 1).regs := (congrArg State.regs hb :)
  refine ⟨?_, htun, hmedia, rfl, fun p hp => ?_, ?_⟩
  · unfold State.unclocked
    dsimp only
    rw [hpower]
  · obtain ⟨q, -, rfl⟩ := List.mem_map.1 hp
    exact ⟨rfl, rfl⟩
  · rw [State.fget_congr hregs, State.fget_fput_same]
    rfl

theorem exec_refclkLoss {s : State} (hp : s.pinsActive = true) (hl : s.power.refclkLost = false) (hs : s.power.pstate ≠ 3) (hh : s.power.halt = none)
    (hf : s.tun.flushing = false) :
    exec .refclkLoss s = done [.power, .kv, .host, .tun, .media, .net, .drt, .sup, .ev, .out] [.clkStat] s
      (if s.canFlush then s.unclocked.startFlush 2 else s.unclocked.haltWith .refclk) := by
  obtain ⟨hpower, htun, hmedia, -, -, -⟩ := s.unclocked_spec
  have hcan : s.unclocked.canFlush = s.canFlush := by
    unfold State.canFlush State.hasFlash
    rw [hpower, htun, hmedia]
  show done _ _ s (when _ _ s) = _
  rw [when_of (by rw [hp, hl, decide_eq_true hs]; rfl)]
  show done _ _ s (if s.unclocked.power.halt.isSome then _ else if s.unclocked.tun.flushing then _ else if s.unclocked.canFlush then _ else _) = _
  rw [hpower, hh, if_neg (by simp), htun, hf, if_neg (by simp), hcan]
  rfl

theorem net_reach {s u : State} {ps : List Part} {ns : List RegName} (h : ps.contains .net = true) : (settle s (s.within ps ns u)).net = u.net := if_pos h

/-- Settles O34: what PWRFAIL_N, the loss of REFCLK and PORST_N begin, with a flush and without one, and the image and the halt or start at the end of a flush. -/
theorem flushesSaveTheTunBeforeAHalt : Obligations.FlushesSaveTheTunBeforeAHalt := by
  unfold Obligations.FlushesSaveTheTunBeforeAHalt
  refine ⟨fun s hp hh hf => ⟨fun hc => ?saves, fun hc => ?halts⟩, fun s us hf => ?ends, fun s hp hl hs hh hf => ?refclk,
    fun s hp => ⟨fun hf => ?goesOn, fun hf hc hi => ?porst, fun hf hc => ?quiet⟩⟩
  case saves =>
    obtain ⟨hpower, -, hclk, hfails, c, hcounter, hcounts⟩ := s.pwrFailed_spec
    have h := s.pwrFailed.startFlush_begun 0
    rw [exec_powerFailFlush hp hh hf, hc, if_pos rfl]
    refine answers ⟨?_, ?_, ?_, (power_reach rfl).trans (h.power.trans hpower), ?_, ?_, c, ?_, hcounts⟩
    · rw [tun_reach rfl, h.flushing]
    · rw [tun_reach rfl, h.flushFrom, hclk]
    · rw [tun_reach rfl, h.flushFor]
    · rw [media_reach rfl, h.health, hfails]
    · rw [tun_reach rfl]
      exact h.settled
    · rw [ev_reach rfl, h.ev, hcounter]
  case halts =>
    obtain ⟨hpower, htun, -, hfails, -⟩ := s.pwrFailed_spec
    obtain ⟨h1, h2, h3⟩ := s.pwrFailed.powerHalt_spec
    rw [exec_powerFailFlush hp hh hf, hc, if_neg (by simp)]
    exact answers ⟨(power_reach rfl).trans (by rw [h1, hpower]), (tun_reach rfl).trans (h2.trans htun), by rw [media_reach rfl, h3, hfails]⟩
  case ends =>
    intro w slot im
    refine ⟨⟨rfl, rfl, rfl, rfl, rfl, rfl, rfl⟩, rfl, rfl, rfl, rfl, s.flushed_lastUs us,
      fun hn => ?power, fun hn => ?thermal, fun hn hp => ?high, fun hn hp => ?low, fun hn hl => ?clock, fun hn => ?cold⟩ <;>
      rw [exec_flushEnd hf]
    case power =>
      rw [hn]
      exact answers ⟨tun_reach rfl, power_reach rfl, kv_reach rfl, out_reach rfl,
        cycles_reach rfl (s.waitCycle_cycles _), congrArg (fun m : MediaSt => m.health.tunFlushes) (media_reach rfl)⟩
    case thermal =>
      rw [hn]
      exact answers ⟨tun_reach rfl, power_reach rfl, out_reach rfl⟩
    case high =>
      rw [hn, show (s.flushed us).flushOver 1 = _ from if_neg (by rw [s.flushed_power, hp]; simp)]
      exact answers (Restarted.settle ((s.flushed us).coldReset_restarted 0 0) rfl)
    case low =>
      rw [hn, show (s.flushed us).flushOver 1 = _ from if_pos hp]
      exact answers ⟨tun_reach rfl, power_reach rfl⟩
    case clock =>
      rw [hn, show (s.flushed us).flushOver 2 = _ from if_pos hl]
      exact answers (power_reach rfl)
    case cold =>
      rw [State.flushOver_reset hn]
      exact answers (Restarted.settle ((s.flushed us).coldReset_restarted 1 s.power.pendCause) rfl)
  case refclk =>
    obtain ⟨hpower, -, -, hhost, hnet, hstat⟩ := s.unclocked_spec
    rw [exec_refclkLoss hp hl hs hh hf]
    cases hc : s.canFlush with
    | true =>
      have h := s.unclocked.startFlush_begun 2
      rw [if_pos rfl]
      refine answers ⟨?_, ?_, ?_, ?_, fun _ => ⟨?_, ?_, ?_⟩, fun hn => absurd hn (by simp)⟩
      · rw [fget_reach rfl, State.fget_congr h.regs, hstat]
      · rw [host_reach rfl, h.host, hhost]
      · rw [net_reach rfl, h.net]
        exact hnet
      · rw [power_reach rfl, h.power, hpower]
      · rw [tun_reach rfl, h.flushing]
      · rw [tun_reach rfl, h.flushFor]
      · rw [power_reach rfl, h.power, hpower]
        exact hh
    | false =>
      rw [if_neg (by simp)]
      refine answers ⟨?_, ?_, ?_, ?_, fun hn => absurd hn (by simp), fun _ => congrArg PowerSt.halt (power_reach rfl)⟩
      · exact (fget_reach rfl _ _ _).trans hstat
      · exact (congrArg HostSt.linkUp (host_reach rfl)).trans hhost
      · rw [net_reach rfl]
        exact hnet
      · exact (congrArg PowerSt.refclkLost (power_reach rfl)).trans (congrArg PowerSt.refclkLost hpower)
  case goesOn =>
    rw [exec_porstNFall hp, if_pos hf]
    exact answers ⟨power_reach rfl, tun_reach rfl⟩
  case porst =>
    have h := s.porstFallen.startFlush_begun 1
    rw [exec_porstNFall hp, hf, if_neg (by simp), hc, hi, if_pos (by rfl)]
    refine answers ⟨(power_reach rfl).trans (h.power.trans (congrArg State.power s.porstFallen_beside :)), ?_, ?_⟩
    · rw [tun_reach rfl, h.flushing]
    · rw [tun_reach rfl, h.flushFor]
  case quiet =>
    rw [exec_porstNFall hp, hf, if_neg (by simp), if_neg (by rcases hc with h | h <;> simp [h])]
    exact answers ⟨(power_reach rfl).trans (congrArg State.power s.porstFallen_beside :), (tun_reach rfl).trans (congrArg State.tun s.porstFallen_beside :)⟩

end Sys2Proof.Machine
end
